-- ==== Sys2Proof/Word.lean ====
section
/-! DEFINITION. The word types of the device (R7, R8) and their plainest arithmetic: saturating counters (R11),
fixed vectors with one element changed. -/

namespace Sys2Proof

/-- One byte. -/
abbrev Byte := BitVec 8

/-- A 32-bit register as software sees it (BITS32 and U32 of R563). -/
abbrev Word := BitVec 32

/-- A counter that holds at its maximum (R11), advanced by k. -/
def satAdd {n : Nat} (c : BitVec n) (k : Nat) : BitVec n := BitVec.ofNat n (min (c.toNat + k) (2 ^ n - 1))

/-- A counter that holds at its maximum (R11), advanced by one. -/
abbrev satInc {n : Nat} (c : BitVec n) : BitVec n := satAdd c 1

/-- z held within lo and hi. -/
def clampI (lo hi z : Int) : Int := max lo (min hi z)

/-- n held within lo and hi. -/
def clampN (lo hi n : Nat) : Nat := max lo (min hi n)

/-- The ceiling of a / b. -/
def ceilDiv (a b : Nat) : Nat := (a + (b - 1)) / b

/-- The vector with element i changed by f. -/
def modAt {α : Type} {n : Nat} (v : Vector α n) (i : Fin n) (f : α → α) : Vector α n := v.set i.1 (f v[i]) i.2

/-- The vector with every element changed by f, which sees its place. -/
def mapAll {α β : Type} {n : Nat} (v : Vector α n) (f : Fin n → α → β) : Vector β n := Vector.ofFn fun i => f i v[i]

/-- Element i of a vector, by a number: none beyond its end. -/
def atNat {α : Type} {n : Nat} (v : Vector α n) (i : Nat) : Option α := v[i]?

/-- The number as a Fin, if it is below n. -/
def finOf (n i : Nat) : Option (Fin n) := if h : i < n then some ⟨i, h⟩ else none

@[simp] theorem modAt_self {α : Type} {n : Nat} (v : Vector α n) (i : Fin n) (f : α → α) : (modAt v i f)[i] = f v[i] := by
  simp [modAt]

theorem modAt_ne {α : Type} {n : Nat} (v : Vector α n) (i j : Fin n) (f : α → α) (h : j ≠ i) : (modAt v i f)[j] = v[j] := by
  have h' : i.1 ≠ j.1 := fun e => h (Fin.ext e.symm)
  simp [modAt, Vector.getElem_set_ne, h']

end Sys2Proof
end

