-- ==== Sys2Proof/Config.lean ====
section
/-! DEFINITION. What one device fixes for itself (fused or factory values) and the free values: what the manual leaves open
after an operation that goes on. A constant without a body is opaque: nothing can be proved of its value. -/

namespace Sys2Proof.Config

/-- SERIAL, fused at manufacture (R568). DESIGN CHOICE, log entry 4. -/
opaque serial : BitVec 64
/-- MAC of management port n, fused (R599). DESIGN CHOICE, log entry 4. -/
opaque mac : Fin 2 → BitVec 48
/-- ROM_VERSION, which the manual does not fix (R643). DESIGN CHOICE, log entry 4. -/
opaque romVersion : BitVec 16
/-- FW_VERSION before any image has run, which the manual does not fix (R643). DESIGN CHOICE, log entry 4. -/
opaque fwVersion : BitVec 32
/-- Byte i of the hash Obnoran programs into root slot 0 (R602). DESIGN CHOICE, log entry 4. -/
opaque rootHash0 : Nat → Byte
/-- Byte i of the key shipped in ROOT_PUBKEY0 (R603). DESIGN CHOICE, log entry 4. -/
opaque rootKey0 : Nat → Byte
/-- Byte i of the identity public key (R614). DESIGN CHOICE, log entry 4. -/
opaque idPubkey : Nat → Byte
/-- Byte i of Obnoran's manufacturing signature in ID_CERT (R615). DESIGN CHOICE, log entry 4. -/
opaque certSignature : Nat → Byte
/-- Whether a Falcon-1024 signature verifies: key, message, signature. The manual names the scheme and leaves its
definition to the scheme's own text. DESIGN CHOICE, log entry 10. -/
opaque falconVerify : List Byte → List Byte → List Byte → Bool
/-- Byte i of the identity key's Falcon-1024 signature of a message (R617). DESIGN CHOICE, log entry 10. -/
opaque falconSign : List Byte → Nat → Byte
/-- A fresh random byte (R585, R619): draw number and byte number. DESIGN CHOICE, log entries 5, 10. -/
opaque randomByte : Nat → Nat → Byte
/-- The thermal sensor nearest to a lane quadrant, which the manual does not name (R129). DESIGN CHOICE, log entry 90. -/
opaque quadSensor : Fin 4 → Fin 16
/-- The trim code in the middle of a lane quadrant's range (R129). DESIGN CHOICE, log entry 90. -/
opaque midTrim : Nat
/-- Bits that a head input holds before it asks for pause, which the manual does not give (R23, R195). DESIGN CHOICE, log entry 135. -/
opaque headRoom : Nat
/-- A free number, one for each draw. DESIGN CHOICE, log entry 5. -/
opaque freeNat : Nat → Nat
/-- A free choice, one for each draw. DESIGN CHOICE, log entry 5. -/
opaque freeBool : Nat → Bool

end Sys2Proof.Config
end

