-- ==== Sys2Proof/Machine/Bits.lean ====
section
/-! DEFINITION. Fields of a packed register, two's complement, little-endian byte strings (R6 to R8). -/

namespace Sys2Proof

/-- The field [hi:lo] of a register, as a number (R6, R7). -/
def fld {n : Nat} (w : BitVec n) (hi lo : Nat) : Nat := (w.toNat >>> lo) % 2 ^ (hi + 1 - lo)

/-- Bit i of a register. -/
def bitAt {n : Nat} (w : BitVec n) (i : Nat) : Bool := w.getLsbD i

/-- The number x placed at bit lo of a register of n bits. -/
def place (n lo x : Nat) : BitVec n := BitVec.ofNat n (x <<< lo)

/-- A flag placed at bit lo of a 32-bit register. -/
def flagBit (lo : Nat) (b : Bool) : Word := if b then place 32 lo 1 else 0

/-- The mask of the bits hi down to lo of a 32-bit register. -/
def maskOf (hi lo : Nat) : Word := place 32 lo (2 ^ (hi + 1 - lo) - 1)

/-- w with the field [hi:lo] replaced by x. -/
def setFld (w : Word) (hi lo x : Nat) : Word := (w &&& ~~~ (maskOf hi lo)) ||| (place 32 lo x &&& maskOf hi lo)

/-- w with bit i set to b. -/
def setBit (w : Word) (i : Nat) (b : Bool) : Word := setFld w i i (if b then 1 else 0)

/-- Two's-complement reading of the low n bits of x (R8). -/
def toSigned (n x : Nat) : Int := if 2 * (x % 2 ^ n) < 2 ^ n then (x % 2 ^ n : Int) else (x % 2 ^ n : Int) - 2 ^ n

/-- The n-bit two's complement of an integer, as a number (R8). -/
def ofSigned (n : Nat) (z : Int) : Nat := (z % 2 ^ n).toNat

/-- The k bytes of x, least significant first (R7). -/
def leBytes : (k x : Nat) → List Byte
  | 0, _ => []
  | k + 1, x => BitVec.ofNat 8 x :: leBytes k (x / 256)

/-- The number a byte string spells, least significant byte first (R7). -/
def ofLe : List Byte → Nat
  | [] => 0
  | b :: bs => b.toNat + 256 * ofLe bs

/-- Bytes i to i + k - 1 of a string, a byte beyond its end reading as 0. -/
def slice (bs : List Byte) (i k : Nat) : List Byte := (List.range k).map fun j => bs.getD (i + j) 0

/-- The little-endian number in bytes i to i + k - 1. -/
def leAt (bs : List Byte) (i k : Nat) : Nat := ofLe (slice bs i k)

/-- bs cut or padded with zeros to k bytes. -/
def padTo (k : Nat) (bs : List Byte) : List Byte := slice bs 0 k

@[simp] theorem leBytes_length (k x : Nat) : (leBytes k x).length = k := by
  induction k generalizing x with
  | zero => rfl
  | succ k ih => simp [leBytes, ih]

@[simp] theorem slice_length (bs : List Byte) (i k : Nat) : (slice bs i k).length = k := by simp [slice]

end Sys2Proof
end

