-- ==== Sys2Proof/Machine/StAccess.lean ====
section
/-! DEFINITION. The state of the dictionary's paths, the journal, the logs, reset, clocks, boot, thermal, pins and security
(chapters 02, 03, 04, 18, 19, 20). Plain data: every default written here is the value after reset. -/

namespace Sys2Proof.Machine

open Sys2Proof

/-- Status codes (R584). -/
inductive Status where
  | ok | noObject | access | type | range | busy | state | version | privilege | sequence | integrity | timeout
deriving DecidableEq, Repr

/-- The code of a status (R584). -/
def Status.code : Status → Nat
  | .ok => 0x00 | .noObject => 0x01 | .access => 0x02 | .type => 0x03 | .range => 0x04 | .busy => 0x05 | .state => 0x06
  | .version => 0x07 | .privilege => 0x08 | .sequence => 0x09 | .integrity => 0x0A | .timeout => 0x0B

/-- A dictionary value: the raw bits of a number, or the bytes of a STR or BLOB (R563). -/
inductive Val where
  | num (n : Nat)
  | bytes (bs : List Byte)
deriving DecidableEq, Repr

/-- The path an access comes by (R571, R572, R631). Link numbers are port * 2 + link. -/
inductive Path where
  | ldp (port : Fin 2) (session : Nat)
  | mailbox (pf : Fin 4) (session : Nat)
  | view (link : Fin 4) (fn : Fin 17)
  | firmware
  | jtag
deriving DecidableEq, Repr

/-- Who makes an access: its path and the privilege that path holds (R565). DEDUCED, log entry 100. -/
structure By where
  path : Path
  priv : Fin 4
deriving DecidableEq, Repr

/-- The answer the last command was given: status and payload bytes. -/
structure Reply where
  status : Status := .ok
  data : List Byte := []
deriving DecidableEq, Repr

/-- The reset sources (R84), in the order of their SRC bits (R101). -/
inductive RstSrc where
  | por | resetN | wresetN | wdog | soft | thermal | clockLoss | debug
deriving DecidableEq, Repr

/-- A block that a reset can name (R87, R102). -/
inductive Blk where
  | lane (n : Fin 64) | port (n : Fin 16) | head (n : Fin 16) | pcam (n : Fin 2) | pipe (n : Fin 16) | dma (n : Fin 512)
  | link (n : Fin 4) | enc (n : Fin 16) | cue | router | axis (n : Fin 8) | mgt (n : Fin 2) | control
  | queues | stall | ring
deriving DecidableEq, Repr

/-- The level a pin is driven to (R53, R60). -/
inductive Drive where
  | hiZ | weakLow | weakHigh | low | high
deriving DecidableEq, Repr

/-- A differential output pair (R51, R53, R60). -/
inductive DiffDrive where
  | hiZ | weakBoth | low | high | hiZWeak | run | idle
deriving DecidableEq, Repr

/-- The sequence a bank's pins pass through (R51). -/
inductive PinPhase where
  | unpowered | preFuse | cold
deriving DecidableEq, Repr

/-- The supply rails (R44, R64). -/
inductive Rail where
  | vddCore | vddSram | vddKln | vddhKln | vddPcie | vddhPcie | vddMgt | vddqDdr | vddDdrpll | vddPll | vddIo18 | vddIo33
  | vccioPc0 | vccioPc1 | vddAenc | vddMram | vppFuse | vddSpd
deriving DecidableEq, Repr

/-- Every rail. -/
def Rail.all : List Rail :=
  [.vddCore, .vddSram, .vddKln, .vddhKln, .vddPcie, .vddhPcie, .vddMgt, .vddqDdr, .vddDdrpll, .vddPll, .vddIo18, .vddIo33, .vccioPc0, .vccioPc1
  , .vddAenc, .vddMram, .vppFuse, .vddSpd]

/-- What the straps, TST and bank supplies read when sampled, and the level the board gives TRST_N (R43, R47, R49, R114). DESIGN CHOICE, log entry 111. -/
structure Straps where
  boot : BitVec 2
  clkm : BitVec 2
  tst : BitVec 4
  pc0Mv : Nat
  pc1Mv : Nat
  trstN : Bool
deriving DecidableEq, Repr

/-- A line level p, 0 to 3 (R130). -/
abbrev Level := Fin 4

/-- What the device has sent out, newest last: the model's record of its outputs. -/
inductive Tx where
  /-- An MSI-X message: link, function (0 the PF), entry (R487, R519). -/
  | msix (link : Fin 4) (fn : Fin 17) (entry : Nat)
  /-- Bytes written to host memory by a channel's function, with EP when they are poisoned (R478, R486). -/
  | hostWrite (link : Fin 4) (fn : Fin 17) (addr : Nat) (bytes : List Byte) (ep : Bool)
  /-- A host read request: link, function, address, length (R478). -/
  | hostRead (link : Fin 4) (fn : Fin 17) (addr len : Nat)
  /-- A completion of a PCIe read: link, data; none for Completer Abort (R572). -/
  | completion (link : Fin 4) (data : Option (List Byte))
  /-- A completion with Unsupported Request (R515). -/
  | unsupported (link : Fin 4)
  /-- A configuration request answered with Configuration Request Retry Status (R117). -/
  | configRetry (link : Fin 4)
  /-- Symbols that leave KTX of a lane, in line levels as they are on the balls: a codeword, a training frame, or a burst (R130 to R132, R143,
  R168, R171, R179). -/
  | symbols (lane : Fin 64) (levels : List Level)
  /-- A datagram of a management port: the UDP port it leaves from, none where the manual names none, and address and UDP port it goes to
  (R579, R592). -/
  | datagram (port : Fin 2) (src : Option Nat) (dst : Nat) (bytes : List Byte)
  /-- A reply placed in a mailbox. -/
  | mailboxReply (pf : Fin 4) (bytes : List Byte)
  /-- A trigger pulse on TRIG[n], rising (R387). -/
  | trigPulse (n : Fin 32)
  /-- A step pulse of axis a, in the direction given (R537). -/
  | step (a : Fin 8) (fwd : Bool)
  /-- A sync ring word (R393). -/
  | ring (clap : Bool) (word : Nat)
  /-- A JTAG data-register value shifted out (R621). -/
  | tdo (value : Nat)
deriving DecidableEq, Repr

/-- The pins' states (R47 to R63). -/
structure Pins where
  /-- Phase of the 1.8 V banks: VDD_IO18 (R51). -/
  phase18 : PinPhase := .cold
  /-- Phase of the 3.3 V banks: VDD_IO33 (R51). -/
  phase33 : PinPhase := .cold
  /-- Rails at or above the least voltage of R64 (R51, R69). -/
  railsGood : List Rail := Rail.all
  /-- VPP_FUSE in millivolts (R65). -/
  vppMv : Nat := 1800
  /-- PINMAP 2040.01, the fuse pin map in force (R59). -/
  pinmap : Word := 0
  /-- PINSTAT 2040.03 BOOT and CLKM as sampled (R63). -/
  boot : BitVec 2 := 0
  /-- CLKM as sampled (R63). -/
  clkm : BitVec 2 := 0
  /-- PC0_33 and PC1_33 (R63). -/
  pc33 : Vector Bool 2 := Vector.replicate 2 false
  /-- FPM_SPLIT (R63). -/
  fpmSplit : Bool := false
  /-- TRIG_P outputs (R40, R53, R55). -/
  trig : Vector Drive 32 := Vector.replicate 32 .low
  /-- TRIG_N outputs (R40, R60). -/
  trigN : Vector Drive 32 := Vector.replicate 32 .low
  /-- TRIG standard: true LVDS (R60). -/
  trigLvds : Vector Bool 32 := Vector.replicate 32 false
  /-- XOFF outputs (R53, R447). -/
  xoff : Vector Drive 16 := Vector.replicate 16 .high
  /-- MSTEP outputs (R53). -/
  mstep : Vector Drive 8 := Vector.replicate 8 .low
  /-- MDIR outputs (R53). -/
  mdir : Vector Drive 8 := Vector.replicate 8 .low
  /-- MGATE outputs: axis, then A0 to A3, B0 to B3 (R41, R53). -/
  mgate : Vector (Vector Drive 8) 8 := Vector.replicate 8 (Vector.replicate 8 .low)
  /-- SYNC_CLK, SYNC_CLAP, SYNC_D0, SYNC_D1 outputs (R53, R57). -/
  sync : Vector DiffDrive 4 := Vector.replicate 4 .low
  /-- PPS_OUT (R53). -/
  pps : Drive := .low
  /-- Core time at which PPS_OUT falls again: its width is open. -/
  ppsFallAt : Option Nat := none
  /-- RSTOUT_N: low or high impedance (R50). -/
  rstoutN : Drive := .low
  /-- THERMTRIP_N: low or high impedance (R50, R83). -/
  thermtripN : Drive := .hiZ
  /-- MGTn_TXDIS (R589). -/
  txdis : Vector Drive 2 := Vector.replicate 2 .high
  /-- SPI_CS_N and SPI_CLK (R53). -/
  spi : Vector Drive 2 := #v[.high, .low]
  /-- UART_TX (R53, R591). -/
  uartTx : Drive := .high
  /-- TRST_N, held low by its pull-down unless the board drives it: the TAP is in reset while it is low (R43). -/
  trstN : Bool := false
  /-- The boundary-scan register, as sampled or preloaded (R621). -/
  bscan : Nat := 0
  /-- Boundary scan drives the balls: EXTEST (R621). -/
  extest : Bool := false
  /-- CLAMP holds the outputs (R621). -/
  clamp : Bool := false
deriving DecidableEq, Repr

/-- One root-key slot's fuse copy (R602). -/
structure RootCopy where
  programmed : Bool := false
  revoked : Bool := false
  hash : List Byte := []
deriving DecidableEq, Repr

/-- The fuses: never reset (R59, R97, R602, R613). -/
structure Fuses where
  /-- The two copies of the fuse pin map (R61). -/
  pinA : Word := 0
  /-- The second copy. -/
  pinB : Word := 0
  /-- The two copies of the fuse reset map, shipped levels burned (R97). -/
  rstA : Word := 0x00000506#32
  /-- The second copy. -/
  rstB : Word := 0x00000506#32
  /-- Root slots, first copy (R602). -/
  rootA : Vector RootCopy 4 := #v[⟨true, false, (List.range 32).map Config.rootHash0⟩, {}, {}, {}]
  /-- Root slots, second copy. -/
  rootB : Vector RootCopy 4 := #v[⟨true, false, (List.range 32).map Config.rootHash0⟩, {}, {}, {}]
  /-- Burned bits of the security-version field, 0 to 64: SVN_MIN (R613). -/
  svn : Nat := 0
deriving DecidableEq, Repr

/-- A reset being asserted or held (R84, R94 to R96). -/
structure Resets where
  /-- RSTMAP 2030.01, the fuse reset map in force (R97). -/
  rstmap : Word := 0x00000506#32
  /-- The level of the reset in force, none when none is (R87). -/
  level : Option (Fin 4) := some 0
  /-- The block a level-3 reset names (R85). -/
  block : Option Blk := none
  /-- Sources asserted in the reset in force that have not ended (R84). -/
  held : List RstSrc := [.por]
  /-- RSTCAUSE 2000.01: LEVEL (R101). -/
  causeLevel : Fin 4 := 0
  /-- RSTCAUSE SRC, one bit per source (R101). -/
  causeSrc : BitVec 8 := 1
  /-- RSTCAUSE CLK_DOM (R101). -/
  causeDom : BitVec 6 := 0
  /-- RSTCAUSE BLOCK: CLASS above, INDEX below, as written in 2000.02 (R101). -/
  causeBlock : BitVec 16 := 0
  /-- RSTCNT_L0 to RSTCNT_L3 2000.10-13 (R104). -/
  count : Vector Word 4 := Vector.replicate 4 0
  /-- Accepted SOFT requests that assert 1 ms after their OK, oldest first (R103). -/
  delayed : List Word := []
  /-- Further blocks named by level-3 resets that were asserted during a level-3 reset. -/
  isolated : List Blk := []
  /-- The release of a level-0 or level-1 reset, until RSTOUT_N is released 100 us later (R50). -/
  rstoutPending : Bool := false
  /-- Step 4 of the level-0 release is waiting for REFCLK (R116). -/
  waitRefclk : Bool := false
  /-- Domains whose failure asserted CLOCK_LOSS and whose clocks are not good again (R84). -/
  lossDoms : List (Fin 23) := []
deriving DecidableEq, Repr

/-- The clocks (R107 to R113). -/
structure Clocks where
  /-- GOOD, one bit per domain of R109 (R113). -/
  good : Vector Bool 23 := Vector.replicate 23 false
  /-- RING_SRC: CORE follows SYNC_CLK_IN (R113). -/
  ringSrc : Bool := false
  /-- PCIE_REFSRC (R113). -/
  pcieRefsrc : Bool := false
  /-- SYNC_CLK_IN has been lost and has not been good for 1 ms again (R112). -/
  ringLost : Bool := false
  /-- RINGSWITCH 2010.02 (R113). -/
  ringswitch : Word := 0
  /-- CLKLOSS_CNT 2010.03 (R113). -/
  lossCnt : Word := 0
  /-- Domains that failed to lock at the level-0 release, reported absent (R116). -/
  absent : Vector Bool 23 := Vector.replicate 23 false
deriving DecidableEq, Repr

/-- What a network boot has learnt (R122, R592). -/
structure NetBoot where
  /-- The server that offered, its port, and IMAGE_LEN. -/
  server : Option (Nat × Fin 2 × Nat) := none
  /-- BOOT_READ requests outstanding: offset, length, times sent. -/
  outstanding : List (Nat × Nat × Nat) := []
  /-- The first offset not yet asked for. -/
  nextOfs : Nat := 0
  /-- Bytes received. -/
  got : Nat := 0
  /-- The repeat interval in seconds, 1 to 64 (R122). -/
  interval : Nat := 1
  /-- Boot requests have been sent in this attempt, and no offer has been taken yet (R122, R124). -/
  requested : Bool := false
deriving DecidableEq, Repr

/-- What the SPI boot waits for (R122). -/
inductive SpiWait where
  | none | header | image
deriving DecidableEq, Repr

/-- The boot ROM's state (R121 to R126, R606). -/
structure Boot where
  /-- BOOTSTAT SOURCE (R121). -/
  source : BitVec 2 := 0
  /-- BOOTSTAT PHASE (R121). -/
  phase : Fin 8 := 0
  /-- BOOTSTAT SLOT: the MRAM slot that booted (R121). -/
  slot : Fin 2 := 0
  /-- BOOTSTAT REVERIFIED (R121). -/
  reverified : Bool := false
  /-- BOOTSTAT ATTEMPTS (R121, R124). -/
  attempts : BitVec 8 := 0
  /-- BOOTSTAT FAIL (R121, R607). -/
  fail : BitVec 8 := 0
  /-- The slot a boot from MRAM is verifying (R122). -/
  trySlot : Fin 2 := 0
  /-- SPI reads done and retries used (R122). -/
  spiWait : SpiWait := .none
  /-- Times the SPI load has failed (R122). -/
  spiTries : Nat := 0
  /-- Boot RAM: 4 MiB, lost by level 0 (R87). -/
  ram : List Host.Cell := []
  /-- The image verified lies in boot RAM (true) or in an MRAM slot (false). -/
  fromRam : Bool := false
  /-- A verification runs (R607). -/
  verifying : Bool := false
  /-- The image that booted last is retained for re-verification (R123). -/
  retained : Bool := false
  /-- The boot window is open, and with it the doorbell (R122, R126). -/
  window : Bool := false
  /-- Host ready has been reported (R117). -/
  hostReady : Bool := false
  /-- MEAS, kept until a level-0 reset (R606). -/
  meas : List Byte := []
  /-- FW_VERSION of the running image 1000.06 (R568, R605). -/
  fwVersion : Word := Config.fwVersion
  /-- KEY_SLOT of the running image (R617). -/
  keySlot : Fin 4 := 0
  /-- SVN of the running image (R617). -/
  svn : Word := 0
  /-- The network boot (R592). -/
  net : NetBoot := {}
  /-- Both control processors run (R31). -/
  halted : Bool := false
  /-- The mismatch of R31 has been captured and waits for firmware to enter it. -/
  lockstep : Bool := false
  /-- Step 6 of a level-1 release is still to come: RWP objects are reloaded and host ports released (R118). -/
  hostDue : Bool := false
deriving DecidableEq, Repr

/-- The sixteen thermal sensors (R78 to R83). -/
structure Thermal where
  /-- TJ_SENSn 2100.10-1F, S24 in 1/16 degree (R79). -/
  sens : Vector (BitVec 24) 16 := Vector.replicate 16 0
  /-- TJ_HOT 2100.01 (R79). -/
  hot : BitVec 24 := 0
  /-- TJ_WARN 2100.02, RWP (R79). -/
  warnAt : BitVec 24 := 0x000870#24
  /-- THERMSTAT HOT_IDX (R80). -/
  hotIdx : Fin 16 := 0
  /-- THERMSTAT SENS_FAIL (R80). -/
  failed : Vector Bool 16 := Vector.replicate 16 false
  /-- THERMSTAT WARN_STICKY (R80). -/
  warnSticky : Bool := false
  /-- THERMSTAT WARN (R80). -/
  warn : Bool := false
  /-- TRIP_COUNT 2100.04, kept in MRAM (R79). -/
  tripCount : Word := 0
deriving DecidableEq, Repr

/-- One journal entry's content beside its SEQ (R596). -/
structure JnlEntry where
  seq : Nat
  src : BitVec 16
  index : BitVec 16
  sub : BitVec 8
  status : BitVec 8
  value : BitVec 64
  tb : BitVec 48
  ptpUs : BitVec 48
deriving DecidableEq, Repr

/-- Slot marks (R608). -/
inductive SlotMark where
  | empty | valid | retired | writing
deriving DecidableEq, Repr

/-- One MRAM image slot (R608). -/
structure Slot where
  /-- The slot mark. -/
  mark : SlotMark := .empty
  /-- The image bytes, 4 MiB. -/
  image : List Host.Cell := []
deriving DecidableEq, Repr

/-- The MRAM: kept by every reset (R69, R87, R569, R593, R608). -/
structure Mram where
  /-- The newest record of each RWP object: index * 256 + sub and value (R569). -/
  records : List (Nat × Val) := []
  /-- The journal ring, newest first, at most 1,048,576 slots (R593). -/
  journal : List JnlEntry := []
  /-- The head: SEQ of the newest entry, 0 before the first (R593). -/
  head : BitVec 48 := 0
  /-- Slots A and B (R608). -/
  slots : Vector Slot 2 := Vector.replicate 2 {}
  /-- ROOT_PUBKEY0-3 9002.01-04, RWP (R603). -/
  rootKeys : Vector (List Byte) 4 := #v[(List.range 1793).map Config.rootKey0, [], [], []]
  /-- A word write was in progress when VDD_MRAM fell; it completes, and no new write starts until level 0 is released (R69). -/
  writesBarred : Bool := false
deriving DecidableEq, Repr

/-- A fault record (R629). -/
structure FaultRec where
  code : BitVec 16
  rung : BitVec 8
  sev : BitVec 8
  cls : BitVec 8
  index : BitVec 16
  detail : BitVec 32
  tb : BitVec 48
  ptpUs : BitVec 48
deriving DecidableEq, Repr

/-- A fault log entry: the record, its number, its count and when it was made (R629, R630). -/
structure FaultEntry where
  seq : BitVec 32
  record : FaultRec
  count : BitVec 16
  /-- Core time at which the entry was created (R630). -/
  made : Nat
deriving DecidableEq, Repr

/-- The fault log and its hardware queue (R627 to R630). -/
structure Faults where
  /-- Records posted and not yet moved, oldest first, at most 256 (R628). -/
  queue : List FaultRec := []
  /-- The log ring, newest first, at most 1,024 entries (R629). -/
  log : List FaultEntry := []
  /-- FLT_HEAD 8040.01 (R636). -/
  head : Word := 0
  /-- FLT_LOST 8040.02 (R636). -/
  lost : Word := 0
  /-- GIVEWAY_RUNG2 to GIVEWAY_RUNG6 8044.02-06 (R627). -/
  giveway : Vector (BitVec 48) 5 := Vector.replicate 5 0
  /-- A record that firmware enters when it runs again (R628, R634). -/
  captured : List FaultRec := []
deriving DecidableEq, Repr

/-- A violation log entry (R632). -/
structure VioEntry where
  target : BitVec 48
  kind : BitVec 8
  status : BitVec 8
  initiator : BitVec 16
  count : BitVec 16
  time : BitVec 32
  /-- Core time at which the entry was created (R630, R632). -/
  made : Nat
deriving DecidableEq, Repr

/-- The violation log (R631, R632). -/
structure Violations where
  /-- The ring, newest first, at most 256 entries. -/
  log : List VioEntry := []
  /-- VIO_HEAD 8048.01 (R636). -/
  head : Word := 0
  /-- VIO_OVERFLOW 8048.02 (R636). -/
  overflow : Word := 0
deriving DecidableEq, Repr

/-- The watchdog (R634). -/
structure Wdog where
  /-- WDOG_TMO 8060.01 in ms, RWP. -/
  tmo : Word := 1000
  /-- WDOG_LASTPC 8060.02. -/
  lastPc : BitVec 64 := 0
  /-- The time-out in force since the last restart (R636). -/
  running : Option Word := none
deriving DecidableEq, Repr

/-- A session (R585 to R587). -/
structure Session where
  id : BitVec 16
  /-- Where it is bound: LDP port, address and UDP port, or a mailbox's PF. -/
  port : Option (Fin 2)
  addr : Nat
  udp : Nat
  pf : Option (Fin 4)
  /-- The privilege asked for, and whether step 2 has been done. -/
  priv : Fin 4
  isOpen : Bool
  /-- The NONCE sent in step 1 (R585). -/
  nonce : List Byte
  /-- The highest TAG (R587). -/
  highTag : BitVec 32
  /-- The last 64 replies, newest first, by TAG (R587). -/
  kept : List (BitVec 32 × List Byte)
  /-- IDLE_TMO when the session opened (R599). -/
  idleTmo : Word
  /-- The WRITE_BLOB chunks staged: object key and bytes (R583). -/
  staged : Option (Nat × List Byte)
deriving DecidableEq, Repr

/-- Failed OPENs of one source address: core times, newest first, and the end of its BUSY (R585). -/
structure OpenFails where
  addr : Nat
  times : List Nat
  busyUntil : Nat
deriving DecidableEq, Repr

/-- A PCIe mailbox (R577, R578). -/
structure Mailbox where
  /-- The request buffer, 16 KiB. -/
  request : List Host.Cell := []
  /-- The reply, READY's bytes. -/
  replyBuf : List Byte := []
  /-- MB_STAT BUSY: a request waits or runs. -/
  busy : Bool := false
  /-- MB_STAT READY. -/
  ready : Bool := false
  /-- MB_STAT OVERRUN. -/
  overrun : Bool := false
  /-- MB_STAT reply length. -/
  length : BitVec 15 := 0
deriving DecidableEq, Repr

/-- LDP, the view and the journal's objects (R599). -/
structure Access where
  /-- LDP_PORT 8000.01, RWP. -/
  ldpPort : BitVec 16 := 5240
  /-- The UDP port in force since the last level-0 or level-1 release (R599). -/
  ldpPortNow : BitVec 16 := 5240
  /-- IDLE_TMO 8000.02 in s, RWP. -/
  idleTmo : Word := 10
  /-- The sessions held (R586). -/
  sessions : List Session := []
  /-- The last session number handed out (R586). -/
  lastSession : BitVec 16 := 0
  /-- Failed OPENs by address (R585). -/
  openFails : List OpenFails := []
  /-- LDP_DROPS 8000.04. -/
  drops : Word := 0
  /-- LDP_STALE 8000.05. -/
  stale : Word := 0
  /-- RATE_DROPS 8000.06. -/
  rateDrops : Word := 0
  /-- CRED1, CRED2 8004.01-02 (R585). -/
  cred : Vector (List Byte) 2 := Vector.replicate 2 []
  /-- VIEW_PRIV 8008.01-04, RWP (R574). -/
  viewPriv : Vector (Fin 3) 4 := Vector.replicate 4 1
  /-- VIEW_LAST 8009.01-04 (R576). -/
  viewLast : Vector Word 4 := Vector.replicate 4 0
  /-- The four PFs' mailboxes (R577). -/
  mailbox : Vector Mailbox 4 := Vector.replicate 4 {}
  /-- JNL_SEL 8020.03. -/
  jnlSel : BitVec 48 := 0
  /-- JNL_W0 to JNL_W3 8020.04-07. -/
  jnlW : Vector (BitVec 64) 4 := Vector.replicate 4 0
  /-- Journal rate: tokens in units of 1 / 12,500 entry, and when they were counted (R595). -/
  jnlTokens : Nat := 4096 * 12500
  /-- Core time of that count. -/
  jnlTime : Nat := 0
  /-- RWP rate: the second of core time, and the RWP writes accepted in it (R569). -/
  rwpSecond : Nat := 0
  /-- RWP writes accepted in that second. -/
  rwpCount : Nat := 0
deriving DecidableEq, Repr

/-- One management port (R589, R599). -/
structure Mgt where
  /-- MGTCTL 801n.01, RWP. -/
  ctl : Word := 0xE8000000#32
  /-- MGTSTAT LINK. -/
  link : Bool := false
  /-- MGTSTAT PRESENT: MGTn_MODABS_N low. -/
  present : Bool := false
  /-- MGTSTAT LOS. -/
  los : Bool := false
  /-- MGTSTAT LINK_LOCAL. -/
  linkLocal : Bool := false
  /-- IPV4, NETMASK, GATEWAY 801n.04-06, RWP. -/
  ipv4 : Word := 0
  /-- NETMASK. -/
  netmask : Word := 0
  /-- GATEWAY. -/
  gateway : Word := 0
  /-- ADDR_NOW 801n.07: 0 while none is in use. -/
  addrNow : Word := 0
  /-- A DHCP lease is being sought (R589). -/
  dhcpWait : Bool := false
deriving DecidableEq, Repr

/-- The PTP clock and its servo (R590, R599 to R601, R374). -/
structure Ptp where
  /-- Seconds of PTP time. -/
  sec : Nat := 0
  /-- The part of the second gone by, in units of 10^-24 s, so that a slew of one part in 10^9 is exact. -/
  frac : Nat := 0
  /-- Rate correction in units of 1 / 10^9, -500,000 to 500,000 (R590). -/
  slew : Int := 0
  /-- PTPCTL 8018.01, RWP. -/
  ctl : Word := 0x40000000#32
  /-- PTPSTAT STATE0 and STATE1. -/
  state : Vector (Fin 8) 2 := Vector.replicate 2 0
  /-- PTPSTAT LOCKED. -/
  locked : Bool := false
  /-- PTPSTAT STEP_HELD, sticky. -/
  stepHeld : Bool := false
  /-- PTP_OFFSET 8018.03 in ns. -/
  offset : BitVec 32 := 0
  /-- Core time since which the offset has been within 100 ns (R601). -/
  goodSince : Option Nat := none
  /-- PTP state of ports in progress: the last event-message timestamps t1, t2 of each port (R590). -/
  stamps : Vector (Option (Int × Int)) 2 := Vector.replicate 2 none
deriving DecidableEq, Repr

/-- What a presented token grants and the security engine (R614 to R624). -/
structure Security where
  /-- UPD_CTL SLOT 9004.01. -/
  updSlot : Fin 2 := 0
  /-- UPD_OFS 9004.03. -/
  updOfs : Word := 0
  /-- The verification that runs: slot (UPD_STAT BUSY). -/
  verifying : Option (Fin 2) := none
  /-- UPD_STAT FAIL. -/
  updFail : BitVec 8 := 0
  /-- The slot UPD_DATA writes into. -/
  openSlot : Option (Fin 2) := none
  /-- ATT_STAT KEY_READY. -/
  keyReady : Bool := false
  /-- The request being signed: NONCE and USER (ATT_STAT BUSY). -/
  attReq : Option (List Byte) := none
  /-- ATT_REPORT 9006.03, empty until a report exists (ATT_STAT VALID). -/
  report : List Byte := []
  /-- DBG_NONCE 9007.01: the number of its draw (R619). -/
  nonce : List Byte := (List.range 32).map (Config.randomByte 0)
  /-- DBG_STAT TAP_OPEN. -/
  tapOpen : Bool := false
  /-- DBG_STAT RESET_OK. -/
  resetOk : Bool := false
  /-- DBG_STAT LAST. -/
  last : BitVec 8 := 0
  /-- DBG_STAT FAILED. -/
  failed : BitVec 8 := 0
  /-- RST_CLASS and RST_INDEX of the token that granted DEBUG_RESET (R620). -/
  rstBlock : Option Blk := none
deriving DecidableEq, Repr

end Sys2Proof.Machine
end

