-- ==== Sys2Proof/Machine/StQueue.lean ====
section
/-! DEFINITION. The state of the event router (chapter 13) and of the queues and the cell pool (chapter 14). Every default
written here is the value after reset. -/

namespace Sys2Proof.Machine

open Sys2Proof

/-- A router channel (R403 to R405, R420, R421). -/
structure Chan where
  /-- CHCFG 7410. -/
  cfg : Word := 0x00000008#32
  /-- CHSTAT FIRED. -/
  fired : Bool := false
  /-- CHSTAT RECURSION. -/
  recursion : Bool := false
  /-- CHSTAT MASKED. -/
  masked : Bool := false
  /-- PUBLISHED 7412. -/
  published : BitVec 48 := 0
  /-- DELIVERED 7413. -/
  delivered : BitVec 48 := 0
  /-- HOLD_DROPS 7414. -/
  holdDrops : Word := 0
  /-- LAST_TIME 7415. -/
  lastTime : BitVec 64 := 0
  /-- Core time of the last delivered event: the holdoff's start (R404). -/
  lastDelivered : Option Nat := none
  /-- Publishes raised and not yet processed by the router: core time and number, a core clock an entry, oldest first (R404, R638). -/
  pend : List (Nat × Nat) := []
deriving DecidableEq, Repr

/-- The tasks of R419. -/
inductive Task where
  | seqStart (s : Fin 16) | seqStop (s : Fin 16) | cmpArm (n : Fin 16) | cmpDisarm (n : Fin 16) | idxArm (n : Fin 16)
  | takeStart (i : Fin 18) | takeStop (i : Fin 18) | axisStart (a : Fin 8) | axisStop (a : Fin 8) | axisIstop (a : Fin 8)
  | dmaWake (c : Fin 512) | trigPulse (n : Fin 32) | cntInc (k : Fin 32) | cntClear (k : Fin 32)
  | herdEnable (k : Fin 16) | herdDisable (k : Fin 16)
deriving DecidableEq, Repr

/-- The task number of R419. -/
def Task.number : Task → Nat
  | .seqStart s => s.1 | .seqStop s => 0x010 + s.1 | .cmpArm n => 0x020 + n.1 | .cmpDisarm n => 0x030 + n.1
  | .idxArm n => 0x040 + n.1 | .takeStart i => 0x060 + i.1 | .takeStop i => 0x080 + i.1 | .axisStart a => 0x0A0 + a.1
  | .axisStop a => 0x0A8 + a.1 | .axisIstop a => 0x0B0 + a.1 | .dmaWake c => 0x100 + c.1 | .trigPulse n => 0x300 + n.1
  | .cntInc k => 0x320 + k.1 | .cntClear k => 0x340 + k.1 | .herdEnable k => 0x360 + k.1 | .herdDisable k => 0x370 + k.1

/-- The task with a number, none for a number R419 does not list. -/
def Task.ofNumber (t : Nat) : Option Task :=
  if t < 0x010 then (finOf 16 t).map .seqStart
  else if t < 0x020 then (finOf 16 (t - 0x010)).map .seqStop
  else if t < 0x030 then (finOf 16 (t - 0x020)).map .cmpArm
  else if t < 0x040 then (finOf 16 (t - 0x030)).map .cmpDisarm
  else if t < 0x060 then (finOf 16 (t - 0x040)).map .idxArm
  else if t < 0x080 then (finOf 18 (t - 0x060)).map .takeStart
  else if t < 0x0A0 then (finOf 18 (t - 0x080)).map .takeStop
  else if t < 0x0A8 then (finOf 8 (t - 0x0A0)).map .axisStart
  else if t < 0x0B0 then (finOf 8 (t - 0x0A8)).map .axisStop
  else if t < 0x100 then (finOf 8 (t - 0x0B0)).map .axisIstop
  else if t < 0x300 then (finOf 512 (t - 0x100)).map .dmaWake
  else if t < 0x320 then (finOf 32 (t - 0x300)).map .trigPulse
  else if t < 0x340 then (finOf 32 (t - 0x320)).map .cntInc
  else if t < 0x360 then (finOf 32 (t - 0x340)).map .cntClear
  else if t < 0x370 then (finOf 16 (t - 0x360)).map .herdEnable
  else (finOf 16 (t - 0x370)).map .herdDisable

/-- A task's registers (R420). The number runs over 0x000 to 0x37F. -/
structure TaskReg where
  /-- TASKCFG 7420. -/
  cfg : Word := 0
  /-- COINC 7424. -/
  coinc : Word := 0
  /-- TDROPS 7428. -/
  tdrops : Word := 0
deriving DecidableEq, Repr

/-- A counting unit (R410 to R414, R422). -/
structure Cunit where
  /-- CNTCFG 7430. -/
  cfg : Word := 0
  /-- CNT 7431. -/
  cnt : Word := 0
  /-- LIMIT 7432. -/
  limit : Word := 0xFFFFFFFF#32
deriving DecidableEq, Repr

/-- The event router (R401 to R422). -/
structure Router where
  chans : Vector Chan 128 := Vector.replicate 128 {}
  /-- HERD_EN 7418.01. -/
  herdEn : BitVec 16 := 0xFFFF#16
  /-- Task registers by task number 0x000 to 0x37F. -/
  tasks : Vector TaskReg 896 := Vector.replicate 896 {}
  /-- Counting units. -/
  units : Vector Cunit 32 := Vector.replicate 32 {}
  /-- Tasks activated and not yet performed, oldest first, with the core time of their publish (R404 step 6). -/
  activated : List (Task × Nat) := []
deriving DecidableEq, Repr

/-- Where a credit block came from (R431). -/
inductive CreditSrc where
  | reserve | shared | stall
deriving DecidableEq, Repr

/-- A credit block: its source and the units not yet spent (R431). -/
structure Credit where
  src : CreditSrc
  left : Nat
deriving DecidableEq, Repr

/-- A cell with its bytes (R423, R426). -/
structure PCell where
  index : Nat
  data : List Byte
  /-- POISON: it holds an uncorrectable word (R453). -/
  poison : Bool
deriving DecidableEq, Repr

/-- A committed packet: its cells in chain order and its length in bytes, slate included (R426, R440). -/
structure Packet where
  cells : List PCell
  bytes : Nat
  /-- A poisoned read of this packet has been entered in the fault log (R453). -/
  logged : Bool
  /-- Core time of its commit (R485). -/
  at_ : Nat
deriving DecidableEq, Repr

/-- An open packet (R439, R441). -/
structure OpenPkt where
  cells : List PCell
  /-- Bytes written, the slate's 64 among them. -/
  bytes : Nat
  /-- The mark's byte position (R441). -/
  mark : Option Nat
deriving DecidableEq, Repr

/-- A queue (R427, R457 to R459). -/
structure Queue where
  /-- QCTL. -/
  ctl : Word := 0x40000000#32
  /-- RESERVE. -/
  reserve : Word := 0
  /-- LIMIT. -/
  limit : Word := 0
  /-- MAXPKT. -/
  maxpkt : Word := 1048576
  /-- MAXPKT in force for the open packet (R457). -/
  maxpktNow : Word := 1048576
  /-- WMHI. -/
  wmhi : Word := 131072
  /-- WMLO. -/
  wmlo : Word := 65536
  /-- WMMAP. -/
  wmmap : Word := 0
  /-- QSTAT WM_STATE. -/
  wmState : Bool := false
  /-- QSTAT WM_UP. -/
  wmUp : Bool := false
  /-- QSTAT WM_DOWN. -/
  wmDown : Bool := false
  /-- QSTAT OVERSIZE. -/
  oversize : Bool := false
  /-- QSTAT REVOKED. -/
  revoked : Bool := false
  /-- QSTAT LINK_FAULT, and the cell at which the consumer stops (R454). -/
  linkBreak : Option Nat := none
  /-- QSTAT ECC. -/
  ecc : Bool := false
  /-- COMMITS. -/
  commits : BitVec 48 := 0
  /-- REWINDS. -/
  rewinds : Word := 0
  /-- OVERSIZE count. -/
  oversizes : Word := 0
  /-- WM_UPS. -/
  wmUps : Word := 0
  /-- ECC_UNCORR. -/
  eccUncorr : Word := 0
  /-- DISABLED_DROPS. -/
  disabledDrops : Word := 0
  /-- Committed packets, oldest first: HEAD to CTAIL (R427). -/
  packets : List Packet := []
  /-- The open packet: OPEN to WTAIL (R427). -/
  openPkt : Option OpenPkt := none
deriving DecidableEq, Repr

/-- A producer (R428, R431, R433). -/
structure Producer where
  /-- Credit blocks held, the first spent first. -/
  credits : List Credit := []
  /-- QSTAT WAITING: no source could grant its request (R433). -/
  waiting : Bool := false
  /-- Payload bytes ready to be written. -/
  buf : List Byte := []
  /-- The slate of the packet whose last byte is in buf, when the packet is closed (R440). -/
  closing : Option (List Byte) := none
  /-- The rest of the present frame is discarded after an oversize or a disabled queue (R443, R455). -/
  discarding : Bool := false
deriving DecidableEq, Repr

/-- An XOFF pin (R447, R448). -/
structure Xoff where
  /-- XOFFCFG. -/
  cfg : Word := 0
  /-- The 100 ns minimum assertion runs. -/
  minHold : Bool := false
deriving DecidableEq, Repr

/-- The snapshot of the cell window (R450). -/
structure CellSnap where
  tag : BitVec 64
  data : List Byte
deriving DecidableEq, Repr

/-- The default QCTL of queue q (R458). -/
def qctlDefault (q : Nat) : Word :=
  if q < 32 then (if q % 2 = 0 then BitVec.ofNat 32 (0xC0200000 + (q / 2) * 0x10000) else BitVec.ofNat 32 (0xC0300000 + ((q - 1) / 2) * 0x10000))
  else 0x40000000#32

/-- The default RESERVE of queue q (R457). -/
def reserveDefault (q : Nat) : Word := if q < 32 then (if q % 2 = 0 then 6144 else 1024) else 0

/-- The default MAXPKT of queue q (R457). -/
def maxpktDefault (q : Nat) : Word := if q < 32 then (if q % 2 = 0 then 268435456 else 262144) else 1048576

/-- The queue manager and the cell pool (R423 to R462). -/
structure QueueMgr where
  queues : Vector Queue 512 := Vector.ofFn fun q => { ctl := qctlDefault q.1, reserve := reserveDefault q.1, maxpkt := maxpktDefault q.1, maxpktNow := maxpktDefault q.1 }
  /-- Producers: p the data output of pipeline p, 16 + p its statistics output (R428). -/
  producers : Vector Producer 32 := Vector.replicate 32 {}
  /-- F_D (R430). -/
  freeD : Nat := 262144
  /-- F_S (R430). -/
  freeS : Nat := 0
  /-- NS, the stall-store cells of the partition (R423). -/
  ns : Nat := 0
  /-- On-die lending is open (R432). -/
  ondieLend : Bool := true
  /-- Stall lending is open (R432). -/
  stallLend : Bool := false
  /-- POOLSTAT GUARD. -/
  guard : Bool := false
  /-- POOLSTAT SPILLED. -/
  spilled : Bool := false
  /-- SPILL_MARK. -/
  spillMark : Word := 16384
  /-- REFILL_MARK. -/
  refillMark : Word := 32768
  /-- GUARD_LO. -/
  guardLo : BitVec 48 := 262144
  /-- GUARD_HI. -/
  guardHi : BitVec 48 := 524288
  /-- ECC_CORR. -/
  eccCorr : BitVec 48 := 0
  /-- LINK_ECC. -/
  linkEcc : Word := 0
  /-- REVOKES. -/
  revokes : Word := 0
  /-- Cells handed to the return walker and not yet returned (R442). -/
  returning : List Nat := []
  /-- XOFF pins. -/
  xoff : Vector Xoff 16 := Vector.replicate 16 {}
  /-- CELL_SEL. -/
  cellSel : Word := 0
  /-- The snapshot taken since CELL_SEL was written (R450). -/
  snap : Option CellSnap := none
  /-- The producer a round-robin grant looks at next (R431). -/
  robin : Fin 32 := 0
  /-- The cell the patrol scrub reads next (R453). -/
  scrub : Nat := 0
deriving DecidableEq, Repr

end Sys2Proof.Machine
end

