-- ==== Sys2Proof/Machine/StFront.lean ====
section
/-! DEFINITION. The state of the lanes (chapter 05), the ports (chapter 06), the heads and the parallel camera ports
(chapter 07). Every default written here is the value after reset. -/

namespace Sys2Proof.Machine

open Sys2Proof

/-- Training states (R182, R208). -/
inductive TState where
  | disabled | detect | pattern | lock | exchange | active
deriving DecidableEq, Repr

/-- TSTATE (R208). -/
def TState.code : TState → Nat
  | .disabled => 0 | .detect => 1 | .pattern => 2 | .lock => 3 | .exchange => 4 | .active => 5

/-- A lane quadrant (R127, R129). -/
structure Quad where
  /-- The trim code in force (R129). -/
  trim : Nat := Config.midTrim
  /-- The code that the last calibration gave, or mid-range; the code in force moves towards it one code at a codeword boundary (R129). -/
  goal : Nat := Config.midTrim
  /-- The nearest sensor's temperature at the last calibration (R129). -/
  calTemp : BitVec 24 := 0
  /-- ASEQ, the group counter all transmitters of the quadrant share (R174). -/
  aseq : Word := 0
  /-- The symbol with which its last regular alignment codeword began, symbols counted from core time 0 at 22.5 to a core clock (R174, R193). -/
  alignSym : Nat := 0
deriving DecidableEq, Repr

/-- The FFE taps (R134). -/
structure Taps where
  pre : Nat := 2
  post : Nat := 6
deriving DecidableEq, Repr

/-- What the partner's CAPS said (R185). DEDUCED, log entry 19. -/
structure Caps where
  verMax : Nat
  lid : Nat
  width : Nat
  pli : Nat
  standby : Bool
  headPort : Nat
  partnerId : Nat
  trigDelay : Nat
  pauseStop : Nat
  replayDepth : Nat
  sbCapable : Bool
deriving DecidableEq, Repr

/-- Codeword lock (R175). -/
inductive CwLock where
  /-- Searching for the comma. -/
  | search
  /-- The comma has been found once. -/
  | found
  /-- One regular position found, with its ASEQ. -/
  | confirm (aseq : Nat)
  /-- Locked by an exit alignment codeword, with its ASEQ; the next regular position must confirm. -/
  | exitLock (aseq : Nat)
  | locked
deriving DecidableEq, Repr

/-- The eye-margin scan (R154, R155, R162). -/
structure Eye where
  /-- EYECTL EYE, DWELL, VOFF and POFF. -/
  ctl : Word := 0x01400000#32
  /-- EYECTL as the running point took it at START (R156). -/
  now : Word := 0x01400000#32
  /-- The free values of what a point that stops early has counted (R155). -/
  key : Nat := 0
  running : Bool := false
  done : Bool := false
  abort : Bool := false
  err : BitVec 48 := 0
  cnt : BitVec 48 := 0
deriving DecidableEq, Repr

/-- The counters of a lane (R152, R153, R158, R207). -/
structure LaneCnt where
  prbsBits : BitVec 48 := 0
  prbsErr : BitVec 48 := 0
  prbsLoss : Word := 0
  cwTotal : BitVec 48 := 0
  cwCorr : BitVec 48 := 0
  cwUncorr : BitVec 48 := 0
  corrSym : BitVec 48 := 0
  corrBits : BitVec 48 := 0
  /-- UNK_BLK 30nn.19. -/
  unkBlk : Word := 0
  /-- TRN_ATTEMPTS 30nn.17. -/
  attempts : Word := 0
  /-- LANESTAT EXIT_FAIL. -/
  exitFail : BitVec 16 := 0
deriving DecidableEq, Repr

/-- A pattern's checker (R148). -/
structure Checker where
  /-- Its register, the newest bit lowest. -/
  reg : BitVec 31 := 0
  /-- Bits loaded from the input since it last reloaded. -/
  fill : Nat := 0
  /-- Bits in a row without error while it is not locked. -/
  run : Nat := 0
  /-- It is locked. -/
  locked : Bool := false
  /-- Bits compared since it locked. -/
  since : Nat := 0
  /-- Places, among those bits, of the latest 64 errors, newest first. -/
  errAt : List Nat := []
deriving DecidableEq, Repr

/-- One Kilzu lane (R156 to R164, R207, R208). -/
structure Lane where
  /-- LANECTL 30nn.01. -/
  ctl : Word := 0x80040000#32
  /-- LANESTAT SIGDET. -/
  sigdet : Bool := false
  /-- LANESTAT LOS. -/
  los : Bool := false
  /-- LANESTAT CDR_LOCK. -/
  cdrLock : Bool := false
  /-- LANESTAT SYM_LOCK. -/
  symLock : Bool := false
  /-- LANESTAT EIDLE: the receiver is in electrical idle. -/
  rxIdle : Bool := false
  /-- The partner has announced electrical idle on this lane (R141, R188). -/
  idleAnnounced : Bool := false
  /-- The transmitter is in electrical idle (R142). -/
  txIdle : Bool := true
  /-- LANESTAT CAL_FAIL. -/
  calFail : Bool := false
  /-- LANESTAT EXIT_ERR. -/
  exitErr : Bool := false
  /-- LANESTAT ERR_LIMIT. -/
  errLimit : Bool := false
  /-- TX_INV and RX_INV in force since the last entry into Detect (R132). -/
  txInv : Bool := false
  /-- RX_INV in force. -/
  rxInv : Bool := false
  /-- Taps in force: TXFFE (R159). -/
  taps : Taps := {}
  /-- PRESET has been written since the taps were last loaded from a preset (R163, R164). -/
  presetDue : Bool := true
  /-- RXEQ CTLE (R160). -/
  ctle : Nat := 40
  /-- RXEQ VGA (R160). -/
  vga : Nat := 12
  /-- DFE tap codes 1 to 12, two's complement (R160). -/
  dfe : Vector (BitVec 8) 12 := Vector.replicate 12 0
  /-- p(n-1) of the transmitter's precoder (R131). -/
  txPrev : Level := 0
  /-- p(n-1) of the receiver's precoder (R131). -/
  rxPrev : Level := 0
  /-- Symbols that adaptation has seen (R140). -/
  adapted : Nat := 0
  /-- The pattern generator's register (R147). -/
  gen : BitVec 31 := BitVec.ofNat 31 (2 ^ 31 - 1)
  /-- The pattern checker; LANESTAT PRBS_LOCK when it is locked (R148). -/
  chk : Checker := {}
  /-- The PRBS13 generator of the training frames sent (R179). -/
  trainGen : BitVec 31 := BitVec.ofNat 31 (2 ^ 31 - 1)
  /-- The PRBS13 checker of the training frames received (R181). -/
  trainChk : Checker := {}
  /-- Counters (R152). -/
  cnt : LaneCnt := {}
  /-- FER_LIMIT 30nn.10, RWP. -/
  ferLimit : Word := 223
  /-- FER_LIMIT in force in the present window (R156). -/
  ferNow : Word := 223
  /-- CNTCTL HOLD (R153). -/
  hold : Bool := false
  /-- The eye scan. -/
  eye : Eye := {}
  /-- The idle count (R140, R170). -/
  idleCount : Nat := 0
  /-- Corrected bits and uncorrectable codewords in the present window (R145). -/
  winCorr : Nat := 0
  /-- Uncorrectable codewords in the present window. -/
  winUncorr : Nat := 0
  /-- The present window is the exit check (R145). -/
  exitCheck : Bool := false
  /-- Consecutive windows that crossed the limit (R206). -/
  crossed : Nat := 0
  /-- Core times of in-place replays on this lane within the last second (R206). -/
  replayTimes : List Nat := []
  /-- TRAINSTAT TSTATE. -/
  tstate : TState := .disabled
  /-- TRAINSTAT VER (R208). -/
  ver : Fin 4 := 0
  /-- Codeword lock: TRAINSTAT CW_LOCK when locked (R175). -/
  cwLock : CwLock := .search
  /-- TRAINSTAT PARTNER_LOCK. -/
  partnerLock : Bool := false
  /-- TRAINSTAT LAST_TMO. -/
  lastTmo : TState := .disabled
  /-- TRN_TMO 30nn.16. -/
  trnTmo : Word := 0x0A0A0A0A#32
  /-- The time-out in ms read when the state was entered (R182). -/
  tmoNow : Nat := 10
  /-- Time-outs since Active or EN: the back-off interval doubles with each (R183). -/
  timeouts : Nat := 0
  /-- A back-off interval runs (R183). -/
  backoff : Bool := false
  /-- Training frames in a row that found the comma with a valid CRC (R181). -/
  goodFrames : Nat := 0
  /-- Frames in a row with the partner's RX_READY (R182). -/
  partnerReady : Nat := 0
  /-- COUNTDOWN runs: the value sent in the present frame (R182). -/
  countdown : Option Nat := none
  /-- The partner's last request answered: its REQ_SEQ and the answer (R181). -/
  ansSeq : Bool := false
  /-- ANS last returned (R180). -/
  ans : Fin 4 := 0
  /-- The device's own request: its REQ_SEQ (R180, R181). -/
  reqSeq : Bool := false
  /-- Bits [17:10] of that request: REQ_PRE, REQ_POST, REQ_PRESET, PRESET_NO. -/
  req : Nat := 0
  /-- CAPS last received (R185). -/
  caps : Option Caps := none
  /-- Own CAPS has been acknowledged in this Exchange (R182). -/
  ownAcked : Bool := false
  /-- A partner's CAPS has been acknowledged in this Exchange. -/
  partnerAcked : Bool := false
  /-- The highest version offered in this Exchange (R185, R211). -/
  offer : Nat := 3
  /-- Codewords until CAPS is sent again in this Exchange (R182). -/
  capsDue : Nat := 0
  /-- A version reduction has been logged in this Exchange (R186). -/
  reduceLogged : Bool := false
  /-- ASEQ, POS of the last alignment codeword received (R173). -/
  rxAseq : Nat := 0
  /-- POS of that codeword. -/
  rxPos : Nat := 0
  /-- Position within the group of the last codeword received (R174). -/
  rxIndex : Nat := 0
  /-- LID of the field block last received (R169). -/
  rxLid : Nat := 0
  /-- STANDBY of the field block last received (R177). -/
  rxStandby : Bool := false
  /-- Core time of the last regular alignment codeword (R177). -/
  rxAlignAt : Nat := 0
  /-- LOCKED = 1 has come in a valid field block since Lock was entered (R182). -/
  lockedSeen : Bool := false
  /-- Data codewords left until the receiver enters the electrical idle that EIDLE_ENTER announced (R188). -/
  idleLead : Option Nat := none
  /-- The descrambler state (R169). -/
  descr : BitVec 58 := 0
  /-- Regular positions in a row with no valid field block (R175). -/
  missed : Nat := 0
  /-- Uncorrectable data codewords in a row (R175). -/
  uncorrRun : Nat := 0
  /-- Codewords received that the port stream has still to take, oldest first: CSEQ, and the ten blocks, none when the codeword was
  uncorrectable (R178). -/
  slots : List (Nat × Option (List (Bool × BitVec 256))) := []
  /-- Control blocks waiting to be sent: those of each coming data codeword (R168). -/
  txq : List (List (BitVec 256)) := []
  /-- The scrambler state (R169). -/
  scr : BitVec 58 := 0
  /-- Codewords left of the 48 that follow the burst of an exit (R189). -/
  exitLeft : Nat := 0
deriving DecidableEq, Repr

/-- Port states (R213). -/
inductive PState where
  | disabled | forming | up | replaying | down
deriving DecidableEq, Repr

/-- STATE of PORTSTAT (R213). -/
def PState.code : PState → Nat
  | .disabled => 0 | .forming => 1 | .up => 2 | .replaying => 3 | .down => 4

/-- A replay in progress (R197 to R201). -/
structure Replay where
  rseq : BitVec 8
  x : Nat
  move : Bool
  role : Nat
  newLid : Nat
  /-- The lane that failed. -/
  failed : Option (Fin 64)
  /-- Repeats of step 5 made (R201). -/
  repeats : Nat
deriving DecidableEq, Repr

/-- One port (R176, R210 to R213). -/
structure Port where
  /-- PORTCTL 34pp.01. -/
  ctl : Word := 0x0C000000#32
  /-- PORTSTAT STATE. -/
  state : PState := .disabled
  /-- PORTSTAT VER. -/
  ver : Fin 4 := 0
  /-- PORTSTAT SB_READY. -/
  sbReady : Bool := false
  /-- PORTSTAT MISMATCH. -/
  mismatch : Bool := false
  /-- PORTSTAT NOT_UP. -/
  notUp : Bool := false
  /-- PORTSTAT LONG_EIDLE. -/
  longEidle : Bool := false
  /-- PORTSTAT US_EIDLE. -/
  usEidle : Bool := false
  /-- PORTSTAT DS_EIDLE. -/
  dsEidle : Bool := false
  /-- PORTSTAT PAUSED: PAUSE ON is in force (R195). -/
  paused : Bool := false
  /-- PSEQ (R195). -/
  pseq : BitVec 8 := 0
  /-- PORTSTAT CUR_SB: the lane now assigned as standby. -/
  curSb : Nat := 0
  /-- UP_TIME 34pp.03 in ms, RWP. -/
  upTime : Word := 1000
  /-- The UP_TIME period runs (R184). -/
  upTimer : Bool := false
  /-- EIDLE_MAX 34pp.04 in ms, RWP. -/
  eidleMax : Word := 1000
  /-- ROLEMAP 34pp.05: the lane serving each role. -/
  roles : List (Fin 64) := []
  /-- ROLEMAP at the last formation (R204). -/
  formedRoles : List (Fin 64) := []
  /-- PARTNER_ID 34pp.06. -/
  partnerId : Word := 0
  /-- HEAD_PORT from the members' CAPS (R185). -/
  headPort : Nat := 0
  /-- REPLAYS 34pp.07. -/
  replays : Word := 0
  /-- FAILOVERS 34pp.08. -/
  failovers : Word := 0
  /-- DISCARDS 34pp.09. -/
  discards : Word := 0
  /-- GIVEWAYS 34pp.0A. -/
  giveways : Word := 0
  /-- TRIG_SENT 34pp.0B. -/
  trigSent : BitVec 48 := 0
  /-- TRIG_LOST 34pp.0C. -/
  trigLost : Word := 0
  /-- PAUSES 34pp.0D. -/
  pauses : Word := 0
  /-- TID of the next trigger (R192). -/
  tid : BitVec 8 := 0
  /-- RSEQ of the latest request (R197). -/
  rseq : BitVec 8 := 0
  /-- The replay in progress (R198). -/
  replay : Option Replay := none
  /-- The failed attempt of this formation has been published (R177). -/
  attemptFailed : Bool := false
  /-- The stream is discarded up to the next start-of-frame block (R202, R203). -/
  broken : Bool := false
  /-- The last slot whose frames carry the replayed flag, by CSEQ (R204). -/
  replayedTo : Option Nat := none
  /-- CSEQ of the next slot that the port stream takes (R178, R198, R199). -/
  nextSlot : Nat := 0
  /-- Lanes whose retrain the sheepdog has ordered and the replay in progress delays (R206). -/
  owed : List (Fin 64) := []
  /-- Data codewords left until the lanes enter the electrical idle that EIDLE_ENTER announced (R188). -/
  dsLead : Option Nat := none
  /-- The long-idle event of this electrical idle has been published (R190). -/
  idleTold : Bool := false
  /-- The failed lane waits for one error window within limits before it becomes the standby (R201). -/
  sbTrial : Bool := false
deriving DecidableEq, Repr

/-- What a start-of-frame block said (R217). -/
structure FrameStart where
  frame : BitVec 16
  expIndex : Fin 4
  startValid : Bool
  tidValid : Bool
  tid : BitVec 8
  startOfs : BitVec 32
deriving DecidableEq, Repr

/-- What an end-of-frame block said (R217). -/
structure FrameEnd where
  frame : BitVec 16
  endValid : Bool
  sensorErr : Bool
  exposure : BitVec 32
  samples : BitVec 32
deriving DecidableEq, Repr

/-- One port's part of the open frame, by HEAD_PORT (R216, R220). -/
structure PortRx where
  /-- The start-of-frame block of the frame open on this port. -/
  opened : Option FrameStart := none
  /-- Samples received, in link order. -/
  samples : List Nat := []
  /-- Payload bits not yet a whole sample: their number and value (R216). -/
  bits : Nat := 0
  /-- Their value. -/
  acc : Nat := 0
  /-- The frame has ended on this port. -/
  ended : Option FrameEnd := none
  /-- A run of data blocks outside a frame has been counted (R220). -/
  strayRun : Bool := false
deriving DecidableEq, Repr

/-- The stamps a slate takes from a frame (R29, R298, R389). -/
structure Stamps where
  tbStart : BitVec 48
  tbEnd : BitVec 48
  ptpNs : BitVec 32
  ptpS : BitVec 48
  /-- A cue that triggered the exposure fired late (R300). -/
  late : Bool
deriving DecidableEq, Repr

/-- What the start of a frame fixes of its stamps (R388, R389). -/
structure StampMark where
  /-- The action instant A of the triggering cue in fs of core time, none without a cue. -/
  action : Option Nat
  /-- Timebase and PTP time of the cue, or of the frame's first start-of-frame block without one. -/
  tb : BitVec 48
  ptpNs : BitVec 32
  ptpS : BitVec 48
  late : Bool
  /-- Exposure start S in fs, when its lookup succeeded, and what it found. -/
  start : Option (Nat × BitVec 48 × BitVec 32 × BitVec 48)
deriving DecidableEq, Repr

/-- One frame as a head hands it to its pipeline: the samples of each port, in link order, and what the head knows. -/
structure Frame where
  start : FrameStart
  stop : FrameEnd
  /-- Samples of each port, by HEAD_PORT. -/
  parts : List (List Nat)
  /-- The slate carrying it has the gap flag (R221). -/
  skip : Bool
  /-- It holds resent content or a standby lane's blocks (R204). -/
  replayed : Bool
  standby : Bool
  /-- Its stamps (R389). -/
  stamps : Stamps
deriving DecidableEq, Repr

/-- Take states (R227). -/
inductive TakeState where
  | idle | armed | running | stopping
deriving DecidableEq, Repr

/-- TAKE_STATE (R236). -/
def TakeState.code : TakeState → Nat
  | .idle => 0 | .armed => 1 | .running => 2 | .stopping => 3

/-- Head states (R236). -/
inductive HState where
  | disabled | waiting | ready | mismatch
deriving DecidableEq, Repr

/-- STATE of HEADSTAT (R236). -/
def HState.code : HState → Nat
  | .disabled => 0 | .waiting => 1 | .ready => 2 | .mismatch => 3

/-- What heads and parallel camera ports share: source i is head i, or parallel port i - 16 (R227, R232). -/
structure Source where
  /-- GEOM .02. -/
  geom : Word := 0x03FF03FF#32
  /-- GEOM of the open take (R232). -/
  geomNow : Word := 0x03FF03FF#32
  /-- PEAK_RATE .04. -/
  peakRate : Word := 0
  /-- FRAME_TMO .05 in us. -/
  frameTmo : Word := 100000
  /-- TAKE_STATE (R227). -/
  take : TakeState := .idle
  /-- TAKE_NO .08. -/
  takeNo : Word := 0
  /-- SLATE_NO .09 (R299). -/
  slateNo : BitVec 48 := 0
  /-- FRAME_LIMIT .0A. -/
  frameLimit : Word := 0
  /-- FRAME_LIMIT of the open take (R232). -/
  limitNow : Word := 0
  /-- Frames delivered in the open take (R228). -/
  takeFrames : Nat := 0
  /-- FRAMES .10. -/
  frames : BitVec 48 := 0
  /-- OVERRUNS .11. -/
  overruns : Word := 0
  /-- DISCARDS .12. -/
  discards : Word := 0
  /-- UNBOUND .13. -/
  unbound : Word := 0
  /-- IDLE_FRAMES .14. -/
  idleFrames : Word := 0
  /-- SKIPS .15. -/
  skips : Word := 0
  /-- CMDCTL OP and ADDR .18. -/
  cmd : Word := 0
  /-- CMDCTL BUSY: the CMD_SEQ awaited (R223). -/
  cmdWait : Option (BitVec 8) := none
  /-- CMDCTL CMD_RES. -/
  cmdRes : Fin 8 := 0
  /-- CMD_DATA .19. -/
  cmdData : BitVec 64 := 0
  /-- CMD_SEQ of the next command (R222). -/
  cmdSeq : BitVec 8 := 0
  /-- The pending set: address and value, in the order written (R223). -/
  pendingSet : List (BitVec 24 × BitVec 64) := []
  /-- HEADMSG .1A, 32 bytes (R218). -/
  headMsg : List Byte := List.replicate 32 0
deriving DecidableEq, Repr

/-- What only a head has (R214, R233, R235). -/
structure Head where
  /-- HEADCTL 4h00.01. -/
  ctl : Word := 0
  /-- FORMAT 4h00.03. -/
  format : Word := 0x0000000C#32
  /-- FORMAT of the open take (R232). -/
  formatNow : Word := 0x0000000C#32
  /-- HEADSTAT STATE. -/
  state : HState := .disabled
  /-- The parts of the open frame, by HEAD_PORT. -/
  rx : Vector PortRx 4 := Vector.replicate 4 {}
  /-- Core time of the first start-of-frame block of the open frame (R220). -/
  openAt : Option Nat := none
  /-- FRAME_TMO in force for the open frame (R232). -/
  tmoNow : Word := 100000
  /-- FRAME of the last frame accepted in this take (R221). -/
  lastFrame : Option (BitVec 16) := none
  /-- The EXP_INDEX expected next (R220). -/
  expNext : Nat := 0
  /-- The frames of the merge group received so far. -/
  group : List Frame := []
  /-- Stream blocks are discarded up to the next start-of-frame block (R220). -/
  skipping : Bool := false
  /-- FRAME of the frame discarded last, with the ports on which it had begun: its start on another port begins no new frame (R220). -/
  gone : Option (BitVec 16 × List (Fin 4)) := none
  /-- The data blocks whose samples wait in the head input for the pipeline: FRAME, samples, and the bytes of the map-store port that they
  will take, eight at least to a sample (R23, R264). -/
  input : List (BitVec 16 × Nat × Nat) := []
  /-- The open frame is one that R225 discards whole. -/
  ignoring : Bool := false
  /-- The open frame has the gap flag of R221. -/
  skipFlag : Bool := false
  /-- The open frame has the replayed flag, the standby-lane flag (R204). -/
  replayed : Bool := false
  standby : Bool := false
  /-- The stamps' start of the open exposure. -/
  mark : Option StampMark := none
deriving DecidableEq, Repr

/-- A parallel camera port (R229 to R231, R237). -/
structure Pcam where
  /-- PCTL .01, less PCLK_LOST. -/
  ctl : Word := 0x04000008#32
  /-- PCLK_LOST (R231). -/
  pclkLost : Bool := false
  /-- A frame is open. -/
  opened : Bool := false
  /-- Core time at which it opened. -/
  openAt : Nat := 0
  /-- The stamps' start of the open frame. -/
  mark : Option StampMark := none
  /-- The open frame is discarded whole (R225, R230). -/
  ignoring : Bool := false
  /-- Samples of the present line. -/
  line : List Nat := []
  /-- Whole lines received, first line first. -/
  lines : List (List Nat) := []
  /-- LSYNC was active at the last sampled edge. -/
  inLine : Bool := false
deriving DecidableEq, Repr

end Sys2Proof.Machine
end

