-- ==== Sys2Proof/Machine/StPipe.lean ====
section
/-! DEFINITION. The state of the pixel pipelines (chapters 08 and 09) and of the Tally engines (chapter 10). Every default
written here is the value after reset. -/

namespace Sys2Proof.Machine

open Sys2Proof

/-- A linearisation table: the identity K[i] = 16,384 i, or 1,024 knots (R245, R246). -/
inductive LutTab where
  | identity
  | knots (ks : List Nat)
deriving DecidableEq, Repr

/-- An encoding curve: a preset of R277, or 4,096 knots. -/
inductive CurveTab where
  | linear | sqrt | log
  | knots (ks : List Nat)
deriving DecidableEq, Repr

/-- The registers of stages 2 to 6 that take effect at a start of frame (R267, R302). -/
structure PipeCfg where
  /-- LINCTL 4p11.01, less COMMIT. -/
  lin : Word := 0x20000000#32
  /-- MERGECTL 4p12.01. -/
  merge : Word := 0
  /-- MRATIO0-3 4p12.02-05. -/
  mratio : Vector (BitVec 24) 4 := Vector.replicate 4 0x010000#24
  /-- MSAT0-3 4p12.06-09. -/
  msat : Vector (BitVec 24) 4 := Vector.replicate 4 0xFFFFFF#24
  /-- MWEIGHT 4p12.0A. -/
  mweight : Word := 0x01010101#32
  /-- CORRCTL 4p13.01. -/
  corr : Word := 0
  /-- PED0-3 4p13.02-05. -/
  ped : Vector (BitVec 24) 4 := Vector.replicate 4 0
  /-- MIXCTL 4p15.01, less COMMIT. -/
  mix : Word := 0
  /-- CURVECTL 4p16.01, less COMMIT and LOAD. -/
  curve : Word := 0x40000000#32
deriving DecidableEq, Repr

/-- The mixer's committed set (R272, R275). -/
structure MixSet where
  /-- M[o][c] at 4o + c. -/
  m : Vector (BitVec 24) 16 := Vector.ofFn fun i => if i.1 / 4 = i.1 % 4 then 0x100000#24 else 0
  /-- GIN0-3. -/
  gin : Vector (BitVec 24) 4 := Vector.replicate 4 0x100000#24
  /-- OFS0-3. -/
  ofs : Vector (BitVec 24) 4 := Vector.replicate 4 0
deriving DecidableEq, Repr

/-- One sample on its way through the pipeline: its value, by its stage's sign, and the saturation marker (R238). -/
structure Smp where
  v : Int
  sat : Bool
deriving DecidableEq, Repr

/-- A kept or candidate event of the frame in stage 8 (R310 to R312). -/
structure Cand where
  /-- Owner column and row. -/
  c : Nat
  r : Nat
  /-- X, Y and E. -/
  x : Nat
  y : Nat
  e : Nat
  /-- FLAGS. -/
  flags : Nat
  /-- x_p - BASE (R338). -/
  peak : Int
deriving DecidableEq, Repr

/-- Where the data packet of a finished record stands: its frame is staged for an image to come, the packet is open, or it is closed and has
not committed (R292, R328). -/
inductive RecPlace where
  | staged | opened | closed
deriving DecidableEq, Repr

/-- A finished statistics record (R291, R292). -/
structure StatRec where
  payload : List Byte
  /-- FRAME_OFS within its data packet. -/
  fofs : Nat
  /-- The slate of the data packet once it has committed. -/
  slate : Option (List Byte)
  /-- Where the packet that holds its frame stands until then. -/
  place : RecPlace
deriving DecidableEq, Repr

/-- An open data packet's account (R299, R317, R319). -/
structure PktAcct where
  /-- Its source. -/
  src : Fin 18
  take : Word
  epoch : BitVec 16
  first : Stamps
  last : Stamps
  /-- SATURATED, STANDBY_LANE, REPLAYED, TRUNCATED, LATE_CUE, GAP so far. -/
  sat : Bool
  standby : Bool
  replayed : Bool
  truncated : Bool
  late : Bool
  gap : Bool
  /-- Frames completed, events and frame entries. -/
  frames : Nat
  events : Nat
  entries : Nat
deriving DecidableEq, Repr

/-- A closed data packet that has not yet committed (R440). -/
structure Closed where
  src : Fin 18
  /-- Its slate, less the CRC. -/
  slate : List Byte
  /-- RAW_BYTES and PACKED_BYTES it brings (R302). -/
  raw : Nat
  packed : Nat
  /-- It comes from the Tally engine: its events and its frames (R332, R334). -/
  tally : Bool
  events : Nat
  frames : Nat
deriving DecidableEq, Repr

/-- One EPOCH_LOG entry (R297). -/
structure EpochEntry where
  epoch : BitVec 16
  cause : BitVec 16
  frame : BitVec 16
  slate : BitVec 48
deriving DecidableEq, Repr

/-- The registers of a Tally engine's shadow and active sets (R334, R336, R337). -/
structure TallySet where
  /-- TALLYCTL less COMMIT. -/
  ctl : Word := 0x01800000#32
  /-- T_PEAK. -/
  tPeak : BitVec 32 := 1048576
  /-- T_PIX. -/
  tPix : BitVec 32 := 0
  /-- BASE. -/
  base : BitVec 32 := 0
  /-- EWIN. -/
  ewin : Word := 0xFFFF0000#32
  /-- BATCHCTL. -/
  batch : Word := 0x000000FF#32
  /-- BATCH_EVENTS. -/
  batchEvents : Word := 1048576
  /-- FRAME_BUDGET. -/
  budget : Word := 16777216
  /-- ACC_FRAMES. -/
  accFrames : Word := 1
  /-- ACC_DESC. -/
  accDesc : BitVec 64 := 0
deriving DecidableEq, Repr

/-- A frame or merge group whose samples reach stage 8, waiting for it or in it, with the settings it was taken under. -/
structure Work where
  /-- Every sample of it has come. -/
  whole : Bool
  /-- It is the first frame of its epoch (R297). -/
  opens : Bool
  /-- The source it came from. -/
  src : Fin 18
  /-- FRAME of the first start-of-frame block, 0 for a parallel port. -/
  frame : BitVec 16
  take : Word
  epoch : BitVec 16
  stamps : Stamps
  /-- The slate carrying it has the gap flag (R221). -/
  skip : Bool
  /-- R204 flags. -/
  replayed : Bool
  standby : Bool
  /-- Reorder rows of it are still to be read back (R242). -/
  layout4 : Bool
  /-- PACKCTL of its take (R287). -/
  pack : Word
  /-- The Tally set active in it (R335). -/
  tset : TallySet
  /-- WIDTH, HEIGHT, OUT, and the samples in raster order that have come to stage 8's input. -/
  width : Nat
  height : Nat
  out : Nat
  signed : Bool
  samples : List Smp
  /-- Tally: candidates by owner row not yet offered (R316). -/
  rows : List (List Cand)
  /-- Tally: owner rows below this one have been settled (R313, R316). -/
  settled : Nat
  /-- Tally: events of the frame kept so far (R321). -/
  kept : Nat
  /-- Tally: events of the frame written into the batch (R320). -/
  written : Nat
  /-- Tally: the frame has lost events (R324). -/
  truncated : Bool
  /-- Dense count: cell indices staged (R328). -/
  staged : List Nat
  /-- The measured record of stage 7: payload, none when the frame is not measured. -/
  record : Option (List Byte)
deriving DecidableEq, Repr

/-- An open count image (R328, R329). -/
structure ImageAcct where
  /-- Image B is current. -/
  imgB : Bool := false
  /-- The frame in stage 8 stages into area B. -/
  stageB : Bool := false
  /-- Source, take and epoch of the image. -/
  src : Fin 18 := 0
  take : Word := 0
  epoch : BitVec 16 := 0
  /-- A frame applied to it has the gap flag (R221). -/
  gap : Bool := false
  /-- It holds the first frame of its epoch (R297). -/
  opens : Bool := false
  /-- Frame size and set it was begun under. -/
  width : Nat := 0
  height : Nat := 0
  tset : TallySet := {}
  /-- Frames applied to it. -/
  applied : Nat := 0
  /-- Stamps of its first and last frames. -/
  first : Option Stamps := none
  last : Option Stamps := none
  /-- A count was clipped (R326). -/
  clipped : Bool := false
  /-- A frame truncated (R324). -/
  truncated : Bool := false
  sat : Bool := false
  standby : Bool := false
  replayed : Bool := false
  late : Bool := false
  /-- Events applied. -/
  events : Nat := 0
  /-- The other image's readout runs (R329). -/
  reading : Bool := false
  /-- A completed frame whose staged events wait to be applied (R328). -/
  waiting : Option Work := none
deriving DecidableEq, Repr

/-- A Tally engine (R306 to R338). -/
structure Tally where
  /-- The shadow set. -/
  shadow : TallySet := {}
  /-- The active set. -/
  active : TallySet := {}
  /-- TALLYCTL COMMIT reads 1. -/
  commit : Bool := false
  /-- EVENTS. -/
  events : BitVec 48 := 0
  /-- FRAMES. -/
  frames : BitVec 48 := 0
  /-- BATCHES. -/
  batches : BitVec 48 := 0
  /-- EV_FILTERED. -/
  filtered : BitVec 48 := 0
  /-- EV_TRUNC. -/
  trunc : BitVec 48 := 0
  /-- EV_DROPPED. -/
  dropped : BitVec 48 := 0
  /-- TRUNC_FRAMES. -/
  truncFrames : Word := 0
  /-- STALL_CLK. -/
  stallClk : BitVec 48 := 0
  /-- LOST_FRAMES. -/
  lostFrames : Word := 0
  /-- CLIPPED. -/
  clipped : BitVec 48 := 0
  /-- SPECCTL EN and SRC. -/
  spec : Word := 0
  /-- ESPEC bins that are not 0: bin and count (R338). -/
  espec : List (Nat × Nat) := []
  /-- SPEC_EVENTS. -/
  specEvents : BitVec 48 := 0
  /-- TMO_US has passed while a frame is in progress: the batch commits at its end (R318). -/
  timedOut : Bool := false
  /-- The count image. -/
  image : ImageAcct := {}
deriving DecidableEq, Repr

/-- Stage 7's registers (R302, R305). -/
structure StatCfg where
  /-- STATCTL 54p0.01. -/
  ctl : Word := 0x3E000001#32
  /-- HIST_ROI 54p0.02. -/
  roi : BitVec 64 := 0xFFFFFFFF00000000#64
  /-- ZONES 54p0.03. -/
  zones : Word := 0x00000707#32
deriving DecidableEq, Repr

/-- One pipeline, stages 1 to 8 (R238 to R305). -/
structure Pipe where
  /-- SOURCE 4p10.01. -/
  source : Word := 0
  /-- Registers as last written. -/
  cfg : PipeCfg := {}
  /-- Registers in force in the present frame. -/
  act : PipeCfg := {}
  /-- LUT0-3: shadow and active banks (R246). -/
  lutShadow : Vector LutTab 4 := Vector.replicate 4 .identity
  /-- The active bank. -/
  lutActive : Vector LutTab 4 := Vector.replicate 4 .identity
  /-- LINCTL COMMIT reads 1. -/
  linCommit : Bool := false
  /-- DARK, GAIN, DEFECT, MERGE, REORDER descriptors 4p14.01-05: shadow (R258). -/
  descShadow : Vector (BitVec 64) 5 := Vector.replicate 5 0
  /-- The active descriptors. -/
  descActive : Vector (BitVec 64) 5 := Vector.replicate 5 0
  /-- MAPCTL SWAP reads 1: the descriptors that will take effect are the shadow's of that moment. -/
  swap : Option (Vector (BitVec 64) 5) := none
  /-- MAPSTAT MAP_SHORT, MERGE_SHORT, REORDER_SHORT, LAYOUT_BAD, STREAM_LATE (R271). -/
  mapShort : Bool := false
  mergeShort : Bool := false
  reorderShort : Bool := false
  layoutBad : Bool := false
  streamLate : Bool := false
  /-- MAP_BW 4p14.08. -/
  mapBw : Word := 0
  /-- DEF_UNRESOLVED. -/
  defUnresolved : Word := 0
  /-- MAP_ECC_CORR. -/
  eccCorr : Word := 0
  /-- MAP_ECC_UNCORR. -/
  eccUncorr : Word := 0
  /-- DEF_SKIPPED. -/
  defSkipped : Word := 0
  /-- CFG_DISCARDS. -/
  cfgDiscards : Word := 0
  /-- SAT_SAMPLES. -/
  satSamples : BitVec 48 := 0
  /-- STREAM_STALLS. -/
  streamStalls : BitVec 48 := 0
  /-- Mixer shadow and active sets (R275). -/
  mixShadow : MixSet := {}
  /-- The active set. -/
  mixActive : MixSet := {}
  /-- MIXCTL COMMIT reads 1. -/
  mixCommit : Bool := false
  /-- CURVE0-3 shadow (R278). -/
  curveShadow : Vector CurveTab 4 := Vector.replicate 4 .linear
  /-- The active tables. -/
  curveActive : Vector CurveTab 4 := Vector.replicate 4 .linear
  /-- CURVECTL COMMIT reads 1. -/
  curveCommit : Bool := false
  /-- PACKCTL 4p17.01. -/
  pack : Word := 0x21000000#32
  /-- PACKCTL of the open take (R26, R287). -/
  packNow : Word := 0x21000000#32
  /-- RAW_BYTES. -/
  rawBytes : BitVec 48 := 0
  /-- PACKED_BYTES. -/
  packedBytes : BitVec 48 := 0
  /-- EPOCH 4p18.01. -/
  epoch : BitVec 16 := 0
  /-- EPOCH_LOG 4p18.02, newest first, at most 16 (R297). -/
  epochLog : List EpochEntry := []
  /-- The entry of the epoch that the frame being received opens, once it is delivered (R293, R295). -/
  opening : Option EpochEntry := none
  /-- Sensor changes awaiting effect: the FRAME at which each takes effect, none for the next frame delivered (R293, R295). -/
  outstanding : List (Option (BitVec 16)) := []
  /-- A pipeline change waits for the next frame (R294). -/
  changed : Bool := false
  /-- A change of PACKCTL waits for the next take (R294). -/
  packChanged : Bool := false
  /-- A reset has included the head or the pipeline since the last frame (R295). -/
  resetCause : Bool := false
  /-- The next data packet carries GAP (R300). -/
  gap : Bool := false
  /-- The take's geometry has been checked and its frames are discarded (R241). -/
  frameBad : Bool := false
  /-- Frames and groups that have not left stage 8, oldest first; the first is in stage 8, and the last may still be coming. -/
  works : List Work := []
  /-- Payload bytes of the frame in the packer that its producer has taken (R280, R439). -/
  given : Nat := 0
  /-- A closed packet waits to commit (R440). -/
  closed : Option Closed := none
  /-- The open data packet (R299). -/
  pkt : Option PktAcct := none
  /-- Layout-4 rows are being read back (R242). -/
  readback : Bool := false
  /-- Words of each streamed region that have come for the present frame and the frames after it; below 0 while samples of an earlier frame
  still wait for theirs (R265). -/
  prefetch : Vector Int 5 := Vector.replicate 5 0
  /-- Samples of the group's earlier exposures, by their place in raster order, whose reorder entry lay in an uncorrectable word (R261). -/
  heldBad : List Nat := []
  /-- Streamed words found uncorrectable or late: region, how many frames ahead of the present one, word number (R261, R265). -/
  badWords : List (Fin 5 × Nat × Nat) := []
  /-- An uncorrectable word has entered the fault log in this frame (R261). -/
  eccLogged : Bool := false
  /-- Stage 7: as written, and in force. -/
  stat : StatCfg := {}
  /-- In force in the present frame. -/
  statNow : StatCfg := {}
  /-- Frames delivered in the take, counted for EVERY (R288). -/
  statCount : Nat := 0
  /-- RECORDS 54p0.04. -/
  records : BitVec 48 := 0
  /-- RECORD_DROPS 54p0.05. -/
  recordDrops : Word := 0
  /-- Finished records, oldest first (R292). -/
  statRecs : List StatRec := []
deriving DecidableEq, Repr

end Sys2Proof.Machine
end

