-- ==== Sys2Proof/Machine/StTime.lean ====
section
/-! DEFINITION. The state of the encoder channels (chapter 11), the timebase, the cues and the Array (chapter 12). Every
default written here is the value after reset. -/

namespace Sys2Proof.Machine

open Sys2Proof

/-- A compare unit (R358 to R364, R365, R368). -/
structure Cmp where
  /-- CMPCTL DIR, SKIP, AUTO, LISTMODE, WRAP: the word's configuration bits. -/
  ctl : Word := 0
  /-- ARM. -/
  arm : Bool := false
  /-- LATE. -/
  late : Bool := false
  /-- MISSED. -/
  missed : Bool := false
  /-- DONE. -/
  done : Bool := false
  /-- HELD: a latched hit waits for MINSP (R361). -/
  held : Bool := false
  /-- TARGET. -/
  target : BitVec 48 := 0
  /-- STEP. -/
  step : BitVec 32 := 0
  /-- NPULSE. -/
  npulse : Word := 0
  /-- Targets consumed since the arm (R360). -/
  consumed : Nat := 0
  /-- MINSP. -/
  minsp : Word := 1
  /-- HITS. -/
  hits : BitVec 48 := 0
  /-- SKIPPED. -/
  skipped : Word := 0
  /-- HIT_COUNT. -/
  hitCount : BitVec 48 := 0
  /-- HIT_TIME. -/
  hitTime : BitVec 64 := 0
  /-- Core time of the last hit event published (R361). -/
  lastHit : Option Nat := none
  /-- LIST. -/
  list : List Word := []
  /-- LIST_POS. -/
  listPos : Word := 0
deriving DecidableEq, Repr

/-- An encoder channel (R339 to R357, R365 to R367). -/
structure Enc where
  /-- ENCCTL 700n.01, less IDX_ARM. -/
  ctl : Word := 0x00003004#32
  /-- IDX_ARM. -/
  idxArm : Bool := false
  /-- ENCSTAT POS_VALID. -/
  posValid : Bool := false
  /-- STANDSTILL. -/
  standstill : Bool := false
  /-- DIR: the last update was in reverse. -/
  dirRev : Bool := false
  /-- ILLEGAL. -/
  illegal : Bool := false
  /-- AMP_FAULT. -/
  ampFault : Bool := false
  /-- AMP_OUT. -/
  ampOut : Bool := false
  /-- OVERSPEED. -/
  overspeed : Bool := false
  /-- SPEED_CLIP. -/
  speedClip : Bool := false
  /-- INDEX_SEEN. -/
  indexSeen : Bool := false
  /-- COUNT. -/
  count : BitVec 48 := 0
  /-- EDGE_TIME. -/
  edgeTime : BitVec 64 := 0
  /-- IDX_COUNT. -/
  idxCount : BitVec 48 := 0
  /-- IDX_TIME. -/
  idxTime : BitVec 64 := 0
  /-- IDX_LOAD. -/
  idxLoad : BitVec 48 := 0
  /-- ILLEGAL_CNT. -/
  illegalCnt : Word := 0
  /-- INDEX_CNT. -/
  indexCnt : Word := 0
  /-- STALL_TIME in us. -/
  stallTime : Word := 100000
  /-- AWIN_N. -/
  awinN : Byte := 4
  /-- SIN_OFS. -/
  sinOfs : BitVec 24 := 0
  /-- COS_OFS. -/
  cosOfs : BitVec 24 := 0
  /-- COS_GAIN. -/
  cosGain : BitVec 24 := 0x004000#24
  /-- AMIN. -/
  amin : BitVec 24 := 2458
  /-- AMAX. -/
  amax : BitVec 24 := 5734
  /-- AMP. -/
  amp : BitVec 24 := 0
  /-- AMP_FAULTS. -/
  ampFaults : Word := 0
  /-- Accepted levels of A, B and I (R340). -/
  a : Bool := false
  /-- B. -/
  b : Bool := false
  /-- I. -/
  i : Bool := false
  /-- The gated index G (R347). -/
  g : Bool := false
  /-- The phase of the last sample counted, none before the first (R352). -/
  phase : Option Nat := none
  /-- Samples in a row out of window, and in window while AMP_OUT (R353). -/
  outRun : Nat := 0
  /-- Samples in a row in window again, with the phases they carried, oldest first. -/
  inRun : List (Nat × Nat) := []
  /-- The updates of the present run, newest first: count and time, at most 129 (R356). -/
  run : List (BitVec 48 × Nat) := []
  /-- j, the updates of the run. -/
  runLen : Nat := 0
  /-- The compare unit. -/
  cmp : Cmp := {}
deriving DecidableEq, Repr

/-- A cue (R375). -/
structure Cue where
  lo : BitVec 64 := 0
  hi : BitVec 64 := 0
deriving DecidableEq, Repr

/-- Sequencer states (R383). -/
inductive SeqState where
  | idle | running | done
deriving DecidableEq, Repr

/-- STATE of SEQSTAT (R383). -/
def SeqState.code : SeqState → Nat
  | .idle => 0 | .running => 1 | .done => 2

/-- A sequencer (R377 to R383). -/
structure Seq where
  /-- SEQCTL SKIP and TASK_EN. -/
  ctl : Word := 0
  /-- SEQRANGE. -/
  range : Word := 0
  /-- STATE. -/
  state : SeqState := .idle
  /-- LATE. -/
  late : Bool := false
  /-- MISSED. -/
  missed : Bool := false
  /-- CURSOR. -/
  cursor : BitVec 12 := 0
  /-- LOOP_ADD. -/
  loopAdd : BitVec 48 := 0
  /-- LOOPS. -/
  loops : Word := 1
  /-- LOOP_ADD and LOOPS of the run in progress. -/
  loopAddNow : BitVec 48 := 0
  /-- LOOPS of the run in progress. -/
  loopsNow : Word := 1
  /-- The pass, counted from 1 (R377). -/
  pass : Nat := 1
  /-- FIRED. -/
  fired : BitVec 48 := 0
  /-- MISSED_CNT. -/
  missedCnt : Word := 0
  /-- Cues are still to be examined in the following core clocks: the changes that reached them, oldest first (R378, R379). -/
  carry : Option (List (BitVec 48 × BitVec 48)) := none
deriving DecidableEq, Repr

/-- A trigger output (R386, R387). -/
structure Trig where
  /-- TRIGCFG 7140. -/
  cfg : Word := 5
  /-- TRIGCFG in force: it changes while the output is not pulsing. -/
  cfgNow : Word := 5
  /-- TRIGCFG has been written since the reset: the output follows its block (R53). -/
  configured : Bool := false
  /-- Pending pulse starts, oldest first: core times (R387). -/
  line : List Nat := []
  /-- The pulse in progress: the core time at which it ends. -/
  endAt : Option Nat := none
  /-- PULSES. -/
  pulses : BitVec 48 := 0
  /-- MERGED. -/
  merged : Word := 0
  /-- PIN_LOST. -/
  pinLost : Word := 0
deriving DecidableEq, Repr

/-- A recorded cue firing (R388). -/
structure CueRec where
  tid : Option (BitVec 8)
  /-- Firing instant, core time. -/
  at_ : Nat
  value : BitVec 48
  ptpS : Nat
  ptpNs : Nat
  late : Bool
  /-- For a pin cue: DELAY in core clocks (R389). -/
  delay : Nat
  isPin : Bool
deriving DecidableEq, Repr

/-- The stamping state of a source (R388, R391). -/
structure Stamp where
  /-- STAMPCTL. -/
  ctl : Word := 0
  /-- STAMP_FALLBACK. -/
  fallback : Word := 0
  /-- The last 256 link triggers of the head, newest first. -/
  tids : List CueRec := []
  /-- The last cue that fired into the source. -/
  last : Option CueRec := none
deriving DecidableEq, Repr

/-- A history sample (R639). -/
structure Hist where
  core : Nat
  tb : BitVec 48
  ptpS : Nat
  ptpNs : Nat
deriving DecidableEq, Repr

/-- The sync ring (R392 to R399). -/
structure Ring where
  /-- ARRAYCTL EN and MASTER. -/
  ctl : Word := 0
  /-- ARRAYCTL CAL: calibration runs on the master. -/
  cal : Bool := false
  /-- RING_LOCK. -/
  lock : Bool := false
  /-- MASTER_IDLE. -/
  masterIdle : Bool := false
  /-- CAL_DONE. -/
  calDone : Bool := false
  /-- CAL_BAD. -/
  calBad : Bool := false
  /-- DRIFT. -/
  drift : Bool := false
  /-- RESYNC. -/
  resync : Bool := false
  /-- ARRAY_DELAY 7210.03, RWP. -/
  delay : Word := 80000
  /-- ARRAY_DELAY adopted from the master (R395). -/
  adelay : Word := 80000
  /-- D_MEAS. -/
  dMeas : Word := 0
  /-- LOCAL_DELAY. -/
  localDelay : Word := 0
  /-- PPS_FLIGHT in ps. -/
  ppsFlight : Word := 0
  /-- CRC_ERR. -/
  crcErr : Word := 0
  /-- TB_MISMATCH. -/
  tbMismatch : Word := 0
  /-- DELTAs received and not yet at their Array instant, oldest first (R395). -/
  deltas : List Int := []
  /-- On the master: source changes not yet in the ring (R393). -/
  acc : Int := 0
  /-- Side-frame nibbles of the frame being received, word 0 first (R393). -/
  nibbles : List Nat := []
  /-- The timebase after every DELTA received (R394). -/
  tbRx : BitVec 48 := 0
  /-- The timebase after word 0's DELTA of the frame being received. -/
  tbWord0 : BitVec 48 := 0
  /-- Valid frames in a row while unlocked, invalid frames in a row while locked (R396). -/
  goodRun : Nat := 0
  /-- Invalid frames in a row. -/
  badRun : Nat := 0
  /-- The next valid frame after lock returns loads TB (R396). -/
  reload : Bool := false
  /-- CAL is seen in the side frames (R397). -/
  calSeen : Bool := false
  /-- The PPS_IN edge awaiting its clapper, in 1/64 core clock (R397). -/
  ppsAt : Option Nat := none
  /-- Differences clap - PPS in 1/64 core clock (R397). -/
  pairs : List Int := []
  /-- On the master: the number of the next word in its frame, and the side frame it carries (R393, R394). -/
  wordNo : Nat := 0
  /-- That side frame. -/
  side : BitVec 256 := 0
  /-- Frames since PPS_OUT last rose for the calibration, modulo 16 (R397). -/
  calFrame : Nat := 0
deriving DecidableEq, Repr

/-- The timebase and cue unit (R370 to R400). -/
structure Timebase where
  /-- TBCTL 7200.01. -/
  ctl : Word := 0
  /-- TB 7200.02. -/
  tb : BitVec 48 := 0
  /-- The master's source value while its cue unit uses the ring (R392). -/
  srcTb : BitVec 48 := 0
  /-- HIST_DIV 7200.03. -/
  histDiv : Word := 64
  /-- The history, newest first, at most 65,536 samples (R639). -/
  hist : List Hist := []
  /-- MAINS_PERIOD 7200.04 (R373). -/
  mainsPeriod : Word := 0
  /-- MAINS_REJECT 7200.05. -/
  mainsReject : Word := 0
  /-- The last periods between accepted edges, newest first, at most 8. -/
  periods : List Nat := []
  /-- t_edge: core time of the last accepted edge. -/
  edgeAt : Option Nat := none
  /-- Sequencers. -/
  seqs : Vector Seq 16 := Vector.replicate 16 {}
  /-- The cue table. -/
  cues : Vector Cue 4096 := Vector.replicate 4096 {}
  /-- Trigger outputs. -/
  trigs : Vector Trig 32 := Vector.replicate 32 {}
  /-- Stamping, by source. -/
  stamps : Vector Stamp 18 := Vector.replicate 18 {}
  /-- The sync ring. -/
  ring : Ring := {}
deriving DecidableEq, Repr

end Sys2Proof.Machine
end

