-- ==== Sys2Proof/Machine/StDma.lean ====
section
/-! DEFINITION. The state of the DMA channels and PSTORE (chapter 15), the host ports and the stall store (chapter 16) and
the motion axes (chapter 17). Every default written here is the value after reset. -/

namespace Sys2Proof.Machine

open Sys2Proof

/-- A memory: its bytes by address, and the 8-byte words that are stored uncorrectable (R486). -/
structure Mem where
  /-- Bytes, strictly rising addresses, no entry equal to 0, which an unlisted address reads as. -/
  cells : List Host.Cell := []
  /-- Numbers of the 8-byte words stored as uncorrectable, strictly rising. -/
  bad : List Nat := []
deriving DecidableEq, Repr

/-- Channel states (R464). -/
inductive ChState where
  | off | running | waiting | fencing | draining | halted | done
deriving DecidableEq, Repr

/-- STATE of DSTAT (R464). -/
def ChState.code : ChState → Nat
  | .off => 0 | .running => 1 | .waiting => 2 | .fencing => 3 | .draining => 4 | .halted => 5 | .done => 6

/-- Address spaces (R465). -/
inductive Space where
  | host | packet | pstore | map | smap
deriving DecidableEq, Repr

/-- Halt causes (R488). -/
inductive Halt where
  | runaway | illegal | fetch | pktFault
deriving DecidableEq, Repr

/-- HALT of DSTAT (R488). -/
def Halt.code : Halt → Nat
  | .runaway => 1 | .illegal => 2 | .fetch => 3 | .pktFault => 4

/-- Causes of a bad step (R486). -/
inductive BadCause where
  | range | noPkt | short | host | timeout | poison | internal
deriving DecidableEq, Repr

/-- The code of a bad-step cause (R486). -/
def BadCause.code : BadCause → Nat
  | .range => 1 | .noPkt => 2 | .short => 3 | .host => 4 | .timeout => 5 | .poison => 6 | .internal => 7

/-- Where one piece of a step stands. -/
inductive PieceSt where
  /-- The request of its MOVEX table entry has not been issued (R469). -/
  | tabWait
  /-- It waits for its MOVEX table entry. -/
  | table
  /-- Its read request has not been issued (R478). -/
  | wait
  /-- It waits for its data. -/
  | read
  /-- Its data have come, with the places of its poisoned bytes, and the write has not left (R479). -/
  | ready (bytes : List Byte) (bad : List Nat)
  /-- The write of these data waits for its acknowledgement (R478). -/
  | ack (bytes : List Byte) (bad : List Nat)
  /-- Nothing is outstanding. -/
  | done
deriving DecidableEq, Repr

/-- One read request of a step with the write that its data feed. -/
structure Piece where
  /-- The request's number within its channel. -/
  id : Nat
  st : PieceSt
  /-- The byte address read, in the step's source space. -/
  src : Nat
  /-- The address of its table entry (R469). -/
  tab : Nat
  len : Nat
  /-- The byte address written, in the step's destination space. -/
  dst : Nat
deriving DecidableEq, Repr

/-- What a step in flight does at its end. -/
inductive FlightOp where
  | move
  /-- CMP: FUNC, MASK and VALUE (R471). -/
  | cmp (func mask value : Nat)
  /-- The flush read of FENCE (R476). -/
  | flush
deriving DecidableEq, Repr

/-- A step with responses outstanding, or complete and waiting to retire (R478). -/
structure Flight where
  pc : Nat
  /-- The words of the instruction. -/
  words : Nat
  /-- The opcode, for BADLOG. -/
  opc : Nat
  op : FlightOp := .move
  ssp : Space := .host
  dsp : Space := .host
  /-- The MOVEX table space. -/
  tsp : Space := .host
  /-- The base the table's offsets count from (R469). -/
  base : Nat := 0
  /-- The ring bounds that hold for the source, limit 0 for none (R466). -/
  lo : Nat := 0
  /-- The ring's limit. -/
  hi : Nat := 0
  pieces : List Piece := []
  eoc : Bool := false
  release : Bool := false
  /-- The take whose packet it reads, if it reads one (R484). -/
  take : Option Nat := none
  /-- It has been marked bad. -/
  bad : Bool := false
  /-- Bytes it has written (BYTES). -/
  bytes : Nat := 0
deriving DecidableEq, Repr

/-- What the channel is fencing for (R475 to R477). -/
inductive Fence where
  /-- FENCE at a word index, with its flush register if FLUSH is 1. -/
  | fence (pc : Nat) (flush : Option (Fin 8))
  /-- SIGNAL: its word and word index. -/
  | signal (word : BitVec 64) (pc : Nat)
  | end_
deriving DecidableEq, Repr

/-- One BADLOG entry (R486). -/
structure BadEntry where
  pc : BitVec 32
  cause : BadCause
  op : Nat
  addr : BitVec 64
deriving DecidableEq, Repr

/-- The packet a channel has taken (R482). -/
structure Taken where
  /-- The queue it stands at the head of. -/
  q : Fin 512
  /-- The number of the take. -/
  no : Nat
  /-- Its failure count (R484). -/
  failures : Nat
  /-- A step that read it has been marked bad since the take or the last failed release (R484). -/
  bad : Bool
deriving DecidableEq, Repr

/-- A DMA channel (R463, R496). -/
structure Dma where
  /-- DCTL less its write-only bits. -/
  ctl : Word := 0
  /-- STATE. -/
  state : ChState := .off
  /-- HALT. -/
  halt : Option Halt := none
  /-- INTSTAT. -/
  intstat : BitVec 5 := 0
  /-- INTMASK. -/
  intmask : Word := 0x0000001F#32
  /-- PBASE. -/
  pbase : BitVec 64 := 0
  /-- ENTRY. -/
  entry : Word := 0
  /-- PC. -/
  pc : Word := 0
  /-- BUDGET. -/
  budget : Word := 65536
  /-- DOORBELL. -/
  doorbell : Word := 0
  /-- CPL_TMO. -/
  cplTmo : Word := 50000
  /-- MAXREQ. -/
  maxreq : BitVec 16 := 256
  /-- RETRY_MAX. -/
  retryMax : Byte := 3
  /-- LAT_TGT. -/
  latTgt : Word := 0
  /-- LAT_MISS. -/
  latMiss : Word := 0
  /-- A0 to A7. -/
  a : Vector (BitVec 64) 8 := Vector.replicate 8 0
  /-- BASE0 to BASE7. -/
  base : Vector (BitVec 64) 8 := Vector.replicate 8 0
  /-- LIMIT0 to LIMIT7. -/
  limit : Vector (BitVec 64) 8 := Vector.replicate 8 0
  /-- STRIDE0 to STRIDE7. -/
  stride : Vector Word 8 := Vector.replicate 8 0
  /-- C0 to C3. -/
  c : Vector Word 4 := Vector.replicate 4 0
  /-- LIVE of C0 to C3 (R472). -/
  live : Vector Bool 4 := Vector.replicate 4 false
  /-- Z. -/
  z : Bool := false
  /-- WOKEN. -/
  woken : Bool := false
  /-- STEPS. -/
  steps : BitVec 48 := 0
  /-- BYTES. -/
  bytes : BitVec 48 := 0
  /-- RELEASED. -/
  released : BitVec 48 := 0
  /-- BADSTEPS. -/
  badsteps : Word := 0
  /-- SIGNALS. -/
  signals : Word := 0
  /-- BADLOG, newest first, at most 16 (R486). -/
  badlog : List BadEntry := []
  /-- The packet taken (R482). -/
  taken : Option Taken := none
  /-- The step count (R489). -/
  count : Nat := 0
  /-- Steps in flight, oldest first (R478). -/
  flights : List Flight := []
  /-- The number of the next read request. -/
  nextId : Nat := 0
  /-- Program words fetched and not yet executed, at most 16 (R491). -/
  prefetch : List (BitVec 64) := []
  /-- What the channel fences for. -/
  fence : Option Fence := none
  /-- Register writes that wait for the start: kind * 8 + n, kinds A, BASE, LIMIT, STRIDE in order (R496). -/
  regPend : List (Nat × BitVec 64) := []
  /-- PBASE in force since the start (R492, R496). -/
  pbaseNow : BitVec 64 := 0
  /-- Takes so far. -/
  takes : Nat := 0
  /-- The core clock in which the vector was last sent (R487). -/
  msgAt : Option Nat := none
  /-- Program words of HOST have been asked for. -/
  fetchOut : Bool := false
  /-- The last fetch failed: no word follows the prefetch (R488). -/
  fetchBad : Bool := false
  /-- The WAIT in progress: its word and the core time at which it began (R474). -/
  wait : Option (BitVec 64 × Nat) := none
deriving DecidableEq, Repr

/-- A PCIe function's configuration space (R503, R506 to R508, R520). -/
structure Fn where
  /-- Bus Master Enable. -/
  busMaster : Bool := false
  /-- Memory Space Enable. -/
  memSpace : Bool := false
  /-- The function is in D3hot. -/
  d3 : Bool := false
  /-- MSI-X Enable. -/
  msixEn : Bool := false
  /-- Function Mask. -/
  fnMask : Bool := false
  /-- Entries whose per-vector mask reads 0. -/
  unmasked : List Nat := []
  /-- Entries whose pending bit reads 1. -/
  pend : List Nat := []
  /-- 10-bit Tag Requester Enable. -/
  tag10 : Bool := false
  /-- 14-bit Tag Requester Enable. -/
  tag14 : Bool := false
  /-- Max Payload Size in bytes. -/
  mps : Nat := 128
  /-- Max Read Request Size in bytes. -/
  mrrs : Nat := 512
deriving DecidableEq, Repr

/-- A PCIe link (R499 to R502, R531). -/
structure Link where
  /-- LINKSTAT UP. -/
  up : Bool := false
  /-- LINKSTAT FLIT. -/
  flit : Bool := false
  /-- LINKSTAT SPEED. -/
  speed : Fin 8 := 0
  /-- LINKSTAT WIDTH. -/
  width : Fin 32 := 0
  /-- NumVFs of the link's PF. -/
  numVfs : Nat := 0
  /-- VF Enable of the link's PF. -/
  vfEnable : Bool := false
  /-- PERST_N is low. -/
  perst : Bool := true
  /-- Training toward L0. -/
  training : Bool := false
  /-- The PF at 0 and the VFs at 1 to 16. -/
  fns : Vector Fn 17 := Vector.replicate 17 {}
deriving DecidableEq, Repr

/-- A DDR5 channel (R521 to R526, R530, R532). -/
structure DdrCh where
  /-- TYPE. -/
  kind : Fin 4 := 0
  /-- DIMMS. -/
  dimms : Fin 4 := 0
  /-- RANKS. -/
  ranks : Fin 4 := 0
  /-- STATE. -/
  state : Fin 4 := 0
  /-- GIB. -/
  gib : Byte := 0
  /-- RATE. -/
  rate : BitVec 16 := 0
  /-- CE_CNT. -/
  ce : BitVec 48 := 0
  /-- UE_CNT. -/
  ue : Word := 0
  /-- DIMM serial numbers with stored training results, kept in MRAM (R524). -/
  trained : List Nat := []
deriving DecidableEq, Repr

/-- PAIRFN's default for pair c (R509). -/
def pairfnDefault (c : Nat) : Word := place 32 17 (c / 16 % 2)

/-- The host ports and the stall store (R499 to R532). -/
structure HostPorts where
  /-- HOSTCFG 6800.01, RWP. -/
  cfg : Word := 0
  /-- The bifurcation in force of ports 0 and 1 (R499). -/
  bifNow : Vector Bool 2 := Vector.replicate 2 false
  /-- Link port * 2 + link. -/
  links : Vector Link 4 := Vector.replicate 4 {}
  /-- PAIRFN. -/
  pairfn : Vector Word 512 := Vector.ofFn fun c => pairfnDefault c.1
  /-- DDRSTAT READY. -/
  ready : Bool := false
  /-- DDRSTAT MISMATCH. -/
  mismatch : Bool := false
  /-- SS_BYTES. -/
  ssBytes : BitVec 64 := 0
  /-- MAP_AREA. -/
  mapArea : Word := 0
  /-- SCRUB_HOURS, RWP. -/
  scrubHours : Word := 24
  /-- DDR_RATE_MAX, RWP. -/
  rateMax : Word := 8800
  /-- The granule of each channel that its patrol scrub reads next (R527). -/
  scrubAt : Vector Nat 12 := Vector.replicate 12 0
  /-- DDR5 channels. -/
  ddr : Vector DdrCh 12 := Vector.replicate 12 {}
  /-- The stall-store map area, by SMAP offset. -/
  smap : Mem := {}
  /-- The channel last served in each priority class (R497, R506). -/
  served : Vector Nat 4 := Vector.replicate 4 511
deriving DecidableEq, Repr

/-- Axis states (R558). -/
inductive AxState where
  | idle | moving | stopping | homing | settling
deriving DecidableEq, Repr

/-- STATE of AXSTAT while EN is 1 (R558). -/
def AxState.code : AxState → Nat
  | .idle => 1 | .moving => 2 | .stopping => 3 | .homing => 4 | .settling => 5

/-- The set a START copies (R536, R556). -/
structure AxSet where
  /-- TARGET. -/
  target : BitVec 32 := 0
  /-- VMAX. -/
  vmax : Word := 1000
  /-- AMAX. -/
  amax : Word := 10000
  /-- DMAX. -/
  dmax : Word := 10000
  /-- JMAX. -/
  jmax : Word := 0
  /-- MOVECTL. -/
  movectl : Word := 0
  /-- HOMECTL. -/
  homectl : Word := 0
  /-- HOME_VFAST. -/
  vfast : Word := 1000
  /-- HOME_VSLOW. -/
  vslow : Word := 100
  /-- HOME_BACKOFF. -/
  backoff : Word := 1000
  /-- HOME_MAX. -/
  homeMax : Word := 0x7FFFFFFF#32
  /-- HOME_POS. -/
  homePos : BitVec 32 := 0
deriving DecidableEq, Repr

/-- Where a phase's chop cycle stands (R551, R553). -/
inductive ChopSt where
  | off | mask | drive | fast | slow
deriving DecidableEq, Repr

/-- One phase of an axis (R550 to R553). -/
structure Phase where
  st : ChopSt := .off
  /-- The drive is in the positive direction. -/
  pos : Bool := true
  /-- The signed target W (R549). -/
  w : Int := 0
  /-- The last floor test read low (R551). -/
  low : Bool := false
  /-- BAND (R552). -/
  band : Nat := 0
  /-- CHOPTIME of the cycle in progress. -/
  time : Word := 0x14020208#32
deriving DecidableEq, Repr

/-- Entries 0 on of the rounded quarter sine. -/
def quarter0 : List Nat := [0, 6, 13, 19, 25, 31, 38, 44, 50, 56, 63, 69, 75, 82, 88, 94, 100, 107, 113, 119, 125, 131, 138, 144, 150, 156, 163, 169, 175, 181, 187, 193, 200, 206, 212, 218, 224, 230, 236, 242, 249, 255, 261, 267, 273, 279, 285, 291, 297, 303, 309, 315, 321, 327, 333, 339, 345, 351, 356, 362, 368, 374, 380, 386]

/-- Entries 64 on of the rounded quarter sine. -/
def quarter1 : List Nat := [391, 397, 403, 409, 415, 420, 426, 432, 437, 443, 449, 454, 460, 466, 471, 477, 482, 488, 493, 499, 504, 510, 515, 521, 526, 531, 537, 542, 547, 553, 558, 563, 568, 574, 579, 584, 589, 594, 599, 604, 609, 614, 619, 624, 629, 634, 639, 644, 649, 654, 659, 663, 668, 673, 678, 682, 687, 692, 696, 701, 705, 710, 714, 719]

/-- Entries 128 on of the rounded quarter sine. -/
def quarter2 : List Nat := [723, 728, 732, 737, 741, 745, 750, 754, 758, 762, 766, 771, 775, 779, 783, 787, 791, 795, 799, 803, 806, 810, 814, 818, 822, 825, 829, 833, 836, 840, 844, 847, 851, 854, 858, 861, 864, 868, 871, 874, 877, 881, 884, 887, 890, 893, 896, 899, 902, 905, 908, 911, 914, 917, 919, 922, 925, 927, 930, 933, 935, 938, 940, 943]

/-- Entries 192 on of the rounded quarter sine. -/
def quarter3 : List Nat := [945, 948, 950, 952, 954, 957, 959, 961, 963, 965, 967, 969, 971, 973, 975, 977, 979, 981, 983, 984, 986, 988, 989, 991, 992, 994, 995, 997, 998, 999, 1001, 1002, 1003, 1005, 1006, 1007, 1008, 1009, 1010, 1011, 1012, 1013, 1014, 1015, 1015, 1016, 1017, 1017, 1018, 1019, 1019, 1020, 1020, 1021, 1021, 1021, 1022, 1022, 1022, 1023, 1023, 1023, 1023, 1023]

/-- Entries 256 on of the rounded quarter sine. -/
def quarter4 : List Nat := [1023]

/-- round(1,023 sin(pi k / 512)) for k 0 to 256 (R548). -/
def quarterSine : List Nat := quarter0 ++ quarter1 ++ quarter2 ++ quarter3 ++ quarter4

/-- The default WAVE_TAB: LVL_B above LVL_A (R548). -/
def waveDefault : List Word :=
  (List.range 256).map fun k => place 32 16 (quarterSine.getD k 0) ||| place 32 0 (quarterSine.getD (256 - k) 0)

/-- An axis (R533 to R561). -/
structure Axis where
  /-- AXCTL. -/
  ctl : Word := 0x08000000#32
  /-- STATE while EN is 1. -/
  state : AxState := .idle
  /-- POS_VALID. -/
  posValid : Bool := false
  /-- HOMED. -/
  homed : Bool := false
  /-- POS_LOST. -/
  posLost : Bool := false
  /-- HOMING_FAULT. -/
  homingFault : Bool := false
  /-- TRIP_FWD and TRIP_REV. -/
  trip : Vector Bool 2 := Vector.replicate 2 false
  /-- LIM_FWD and LIM_REV. -/
  lim : Vector Bool 2 := Vector.replicate 2 false
  /-- HOME. -/
  home : Bool := false
  /-- AT_REST. -/
  atRest : Bool := false
  /-- VCAP. -/
  vcap : Bool := false
  /-- POS. -/
  pos : BitVec 32 := 0
  /-- The pending set. -/
  pend : AxSet := {}
  /-- The active set. -/
  act : AxSet := {}
  /-- DSTOP. -/
  dstop : Word := 100000
  /-- VEL. -/
  vel : Int := 0
  /-- VSAFE. -/
  vsafe : Word := 0
  /-- SETTLE. -/
  settle : Word := 0
  /-- STEPS. -/
  steps : BitVec 48 := 0
  /-- STEPCFG. -/
  stepcfg : Word := 0x0064007D#32
  /-- STEPCFG in force since the last START. -/
  stepNow : Word := 0x0064007D#32
  /-- SWCFG. -/
  swcfg : Word := 0x0FA06000#32
  /-- CHATTER. -/
  chatter : Word := 0
  /-- CHOPTIME. -/
  choptime : Word := 0x14020208#32
  /-- PHASECUR. -/
  phasecur : Word := 0
  /-- PHASECUR in force since the last microstep update. -/
  curNow : Word := 0
  /-- REST_DELAY. -/
  restDelay : Word := 200
  /-- WAVE_TAB. -/
  wave : List Word := waveDefault
  /-- WAVE_TAB in force since the last microstep update. -/
  waveNow : List Word := waveDefault
  /-- The electrical index e. -/
  e : Nat := 0
  /-- Phases A and B. -/
  phases : Vector Phase 2 := Vector.replicate 2 {}
  /-- The chopper keeps its thresholds after a reset until AXCTL is written (R555). -/
  frozen : Bool := false
  /-- The direction of the move in progress, or of the last one. -/
  fwd : Bool := true
  /-- Steps of the present leg; none when it runs until stopped. -/
  len : Option Nat := none
  /-- Steps of the present leg already placed. -/
  done : Nat := 0
  /-- The peak speed of the present leg, in steps/s times 2^20 (R535, R537). -/
  peak : Nat := 0
  /-- Speed at the stop request and its DSTOP (R540). -/
  stop : Option (Nat × Nat) := none
  /-- The homing step, 1 to 4; 0 outside homing (R546). -/
  homeStep : Fin 5 := 0
  /-- Steps counted against the bound of the homing step. -/
  homeCount : Nat := 0
  /-- POS latched in step 4. -/
  latched : Option (BitVec 32) := none
  /-- The core time at which MSTEP falls (R538). -/
  fallAt : Option Nat := none
  /-- The core times since which MLIMFWD and MLIMREV have read inactive (R545). -/
  limOff : Vector Nat 2 := Vector.replicate 2 0
deriving DecidableEq, Repr

end Sys2Proof.Machine
end

