-- ==== Sys2Proof/Syntax.lean ====
section
/-! DEFINITION. The commands: one constructor for each row of the opcode table, in the table's order. A register write says
who makes it; an event row says what has come about outside the device or inside it, and where. -/

namespace Sys2Proof

open Sys2Proof.Machine

/-- Where an LDP message comes from (R579, R577): a management port with the sender's address and UDP port, or the mailbox of
a physical function. -/
inductive LdpFrom where
  | udp (port : Fin 2) (addr udp : Nat)
  | mailbox (pf : Fin 4)
deriving DecidableEq, Repr

/-- What a read response or write acknowledgement brings (R478, R486). -/
inductive Resp where
  /-- Data or acknowledgement, with its poison mark. The data count for reads of HOST alone: every other space is read by the
  device itself. -/
  | ok (bytes : List Byte) (poison : Bool)
  /-- Data of the device's own memories, one error in them corrected on the way (R453, R525). -/
  | corrected
  /-- Unsupported Request or Completer Abort (cause 4). -/
  | unsupported
  /-- An internal error response (cause 7). -/
  | error
  /-- The chain's link at the packet read: one copy uncorrectable, or both (R454). -/
  | link (both : Bool)
deriving DecidableEq, Repr

/-- What a scrub or a checked read finds (R453, R525). -/
inductive CellFlaw where
  | none | corrected | uncorrectable
deriving DecidableEq, Repr

/-- A PCIe configuration write (R506 to R508, R511, R520). -/
inductive CfgWrite where
  | busMaster (on : Bool)
  | memSpace (on : Bool)
  | d3hot (on : Bool)
  | vfEnable (on : Bool)
  | numVfs (n : Nat)
  | msix (enable mask : Bool)
  | tags (ten fourteen : Bool)
  | sizes (payload read : Nat)
deriving DecidableEq, Repr

/-- What a PTP port has learnt: its state by the profile's own algorithm, or the two times of one message exchange in
nanoseconds, master's and device's (R590). -/
inductive PtpMsg where
  | state (st : Fin 8)
  | sync (t1 t2 : Int)
  | delay (t3 t4 : Int)
deriving DecidableEq, Repr

/-- What one DDR5 channel's SPDs and training gave (R521 to R524). -/
structure DdrReport where
  ch : Fin 12
  /-- 1 RDIMM, 2 MRDIMM. -/
  kind : Fin 4
  dimms : Fin 4
  ranks : Fin 4
  /-- GiB of the channel. -/
  gib : Nat
  /-- The data rates that every DIMM's SPD supports, MT/s. -/
  rates : List Nat
  /-- DIMM serial numbers. -/
  serials : List Nat
  /-- The channel passed the verification of restored results, or its full training. -/
  good : Bool
deriving DecidableEq, Repr

/-- The commands. -/
inductive Instr where
  /-- POWER_UP (R51). -/
  | powerUp (rail : Rail) (mv : Nat)
  /-- POR (R69). -/
  | por
  /-- RESET_N_ASSERT (R84). -/
  | resetNAssert
  /-- WRESET_N_ASSERT (R84). -/
  | wresetNAssert
  /-- LEVEL0_RELEASE (R116). -/
  | level0Release (straps : Straps) (refclk : Bool) (pcieRef : Bool)
  /-- REFCLK_LOCK_RETRY (R116). -/
  | refclkLockRetry (seen : Option Bool)
  /-- DOMAIN_LOCK_FAIL (R116). -/
  | domainLockFail (d : Fin 23)
  /-- CLOCK_GOOD (R107). -/
  | clockGood (d : Fin 23)
  /-- RESET_RELEASE_L1 (R118). -/
  | resetReleaseL1
  /-- RESET_RELEASE_L2 (R119). -/
  | resetReleaseL2
  /-- RESET_RELEASE_L3 (R120). -/
  | resetReleaseL3 (b : Blk)
  /-- SOFTRST (R103). -/
  | softrst (w : By) (v : Word)
  /-- SOFT_RESET_DELAYED_ASSERT (R103). -/
  | softResetDelayedAssert
  /-- RSTMAP_BURN (R100). -/
  | rstmapBurn (w : By) (v : Word)
  /-- PINMAP_BURN (R62). -/
  | pinmapBurn (w : By) (v : Word)
  /-- WDOG_EXPIRY (R634). -/
  | wdogExpiry (pc : BitVec 64)
  /-- WDOG_RESTART (R634). -/
  | wdogRestart
  /-- LOCKSTEP_MISMATCH (R31). -/
  | lockstepMismatch
  /-- CLOCK_FAILURE (R111). -/
  | clockFailure (d : Fin 23)
  /-- RING_CLOCK_RETURN (R112). -/
  | ringClockReturn
  /-- SPI_IMAGE_LOADED (R122). -/
  | spiImageLoaded (bytes : List Byte)
  /-- BOOT_DOORBELL (R122). -/
  | bootDoorbell
  /-- BOOT_VERIFY_DONE (R607). -/
  | bootVerifyDone
  /-- NET_BOOT_RETRY (R122). -/
  | netBootRetry
  /-- BOOT_OFFER (R592). -/
  | bootOffer (m : Fin 2) (server : Nat) (len : Nat)
  /-- BOOT_DATA (R592). -/
  | bootData (m : Fin 2) (server : Nat) (ofs : Nat) (bytes : List Byte)
  /-- BOOT_READ_RETRY (R592). -/
  | bootReadRetry (ofs : Nat)
  /-- DDR_TRAINING (R524). -/
  | ddrTraining (reports : List DdrReport)
  /-- THERMAL_SAMPLE (R78). -/
  | thermalSample (t : Vector (BitVec 24) 16)
  /-- SENSOR_RECOVER (R82). -/
  | sensorRecover (i : Fin 16)
  /-- THERMAL_RELEASE (R83). -/
  | thermalRelease
  /-- LOSS_OF_SIGNAL (R141). -/
  | lossOfSignal (n : Fin 64)
  /-- SIGNAL_DETECT (R141). -/
  | signalDetect (n : Fin 64)
  /-- EXIT_LOCK_FAIL (R144). -/
  | exitLockFail (n : Fin 64)
  /-- ERROR_WINDOW (R146). -/
  | errorWindow (n : Fin 64)
  /-- CNTCTL_CLEAR (R153). -/
  | cntctlClear (w : By) (n : Fin 64) (v : Word)
  /-- EYE_START (R155). -/
  | eyeStart (w : By) (n : Fin 64) (v : Word)
  /-- EYE_DONE (R155). -/
  | eyeDone (n : Fin 64) (errors : Nat)
  /-- LANE_ENABLE (R163). -/
  | laneEnable (w : By) (n : Fin 64) (v : Word)
  /-- LANE_DISABLE (R163). -/
  | laneDisable (w : By) (n : Fin 64) (v : Word)
  /-- CODEWORD_RECEIVED (R168). -/
  | codewordReceived (n : Fin 64) (levels : List Level)
  /-- ALIGNMENT_CODEWORD (R175). -/
  | alignmentCodeword (n : Fin 64) (levels : List Level) (exit : Bool)
  /-- TRAINING_FRAME (R181). -/
  | trainingFrame (n : Fin 64) (levels : List Level) (spaced : Bool) (wish : Nat)
  /-- SIGNAL_DETECT_HELD (R182). -/
  | signalDetectHeld (n : Fin 64)
  /-- COUNTDOWN_END (R182). -/
  | countdownEnd (n : Fin 64)
  /-- TRAINING_TIMEOUT (R182). -/
  | trainingTimeout (n : Fin 64)
  /-- BACKOFF_END (R183). -/
  | backoffEnd (n : Fin 64)
  /-- CAPS (R186). -/
  | caps (n : Fin 64) (x : BitVec 256)
  /-- CAPS_ACK (R186). -/
  | capsAck (n : Fin 64) (x : BitVec 256)
  /-- EIDLE_ENTER (R188). -/
  | eidleEnter (n : Fin 64) (x : BitVec 256)
  /-- RETRAIN (R182). -/
  | retrain (n : Fin 64)
  /-- LANE_FAULT (R198). -/
  | laneFault (n : Fin 64) (x : BitVec 256)
  /-- REPLAY_START (R199). -/
  | replayStart (n : Fin 64) (x : BitVec 256)
  /-- REPLAY_REQ_RESEND (R201). -/
  | replayReqResend (p : Fin 16)
  /-- REPLAY_TIMEOUT (R201). -/
  | replayTimeout (p : Fin 16)
  /-- UP_TIME_EXPIRY (R184). -/
  | upTimeExpiry (p : Fin 16)
  /-- EIDLE_MAX_EXPIRY (R190). -/
  | eidleMaxExpiry (p : Fin 16)
  /-- DS_IDLE_ENTRY (R191). -/
  | dsIdleEntry (p : Fin 16)
  /-- PORTCTL_WRITE (R212). -/
  | portctlWrite (w : By) (p : Fin 16) (v : Word)
  /-- PORT_RELEASE (R205). -/
  | portRelease (w : By) (p : Fin 16) (v : Word)
  /-- START_OF_FRAME (R220). -/
  | startOfFrame (p : Fin 16) (x : BitVec 256)
  /-- DATA_BLOCK (R216). -/
  | dataBlock (p : Fin 16) (x : BitVec 256)
  /-- END_OF_FRAME (R220). -/
  | endOfFrame (p : Fin 16) (x : BitVec 256)
  /-- HEAD_MESSAGE (R218). -/
  | headMessage (p : Fin 16) (x : BitVec 256)
  /-- COMMAND_REPLY (R223). -/
  | commandReply (p : Fin 16) (x : BitVec 256)
  /-- FRAME_TIMEOUT (R220). -/
  | frameTimeout (i : Fin 18)
  /-- CMD_READ (R223). -/
  | cmdRead (w : By) (i : Fin 18) (v : Word)
  /-- CMD_WRITE (R223). -/
  | cmdWrite (w : By) (i : Fin 18) (v : Word)
  /-- CMD_PENDING_WRITE (R223). -/
  | cmdPendingWrite (w : By) (i : Fin 18) (v : Word)
  /-- CMD_TIMEOUT (R223). -/
  | cmdTimeout (i : Fin 18)
  /-- SOURCE_WRITE (R224). -/
  | sourceWrite (w : By) (p : Fin 16) (v : Word)
  /-- PEAK_RATE_WRITE (R226). -/
  | peakRateWrite (w : By) (i : Fin 18) (v : Word)
  /-- TAKE_START (R228). -/
  | takeStart (w : By) (i : Fin 18) (v : Word)
  /-- TAKE_STOP (R228). -/
  | takeStop (w : By) (i : Fin 18) (v : Word)
  /-- TAKE_ABORT (R228). -/
  | takeAbort (w : By) (i : Fin 18) (v : Word)
  /-- PCAM_FRAME_START (R229). -/
  | pcamFrameStart (n : Fin 2)
  /-- PCAM_FRAME_END (R229). -/
  | pcamFrameEnd (n : Fin 2)
  /-- PCLK_LOST (R231). -/
  | pclkLost (n : Fin 2)
  /-- LIN_COMMIT (R246). -/
  | linCommit (w : By) (p : Fin 16) (v : Word)
  /-- MAP_SWAP (R258). -/
  | mapSwap (w : By) (p : Fin 16) (v : Word)
  /-- MIX_COMMIT (R275). -/
  | mixCommit (w : By) (p : Fin 16) (v : Word)
  /-- CURVE_COMMIT (R278). -/
  | curveCommit (w : By) (p : Fin 16) (v : Word)
  /-- CURVE_LOAD (R277). -/
  | curveLoad (w : By) (p : Fin 16) (v : Word)
  /-- TALLY_COMMIT (R335). -/
  | tallyCommit (w : By) (p : Fin 16) (v : Word)
  /-- REORDER_READBACK (R242). -/
  | reorderReadback (p : Fin 16)
  /-- STREAM_FILL (R265). -/
  | streamFill (p : Fin 16) (region : Fin 5) (word : Nat) (bad : Bool)
  /-- STREAM_WORD_TIMEOUT (R261). -/
  | streamWordTimeout (p : Fin 16) (region : Fin 5) (word : Nat)
  /-- STAGE8_FRAME_END (R280). -/
  | stage8FrameEnd (p : Fin 16)
  /-- STAT_RECORD_COMMIT (R292). -/
  | statRecordCommit (p : Fin 16)
  /-- EVENT_ROW_OFFER (R316). -/
  | eventRowOffer (p : Fin 16)
  /-- BATCH_TIMEOUT (R318). -/
  | batchTimeout (p : Fin 16)
  /-- DENSE_APPLY (R328). -/
  | denseApply (p : Fin 16)
  /-- IMAGE_READOUT_DONE (R329). -/
  | imageReadoutDone (p : Fin 16)
  /-- SPEC_CLEAR (R337). -/
  | specClear (w : By) (p : Fin 16) (v : Word)
  /-- ENC_EDGE (R342). -/
  | encEdge (n : Fin 16) (a : Bool) (b : Bool)
  /-- HELD_HIT_PUBLISH (R361). -/
  | heldHitPublish (n : Fin 16)
  /-- ENC_INDEX (R348). -/
  | encIndex (n : Fin 16) (level : Bool)
  /-- ANALOG_SAMPLE (R352). -/
  | analogSample (n : Fin 16) (sn : Int) (cs : Int)
  /-- ENC_STANDSTILL (R357). -/
  | encStandstill (n : Fin 16)
  /-- COUNT_LOAD (R345). -/
  | countLoad (w : By) (n : Fin 16) (v : BitVec 48)
  /-- ENC_ENABLE (R346). -/
  | encEnable (w : By) (n : Fin 16) (v : Word)
  /-- ENC_DISABLE (R346). -/
  | encDisable (w : By) (n : Fin 16) (v : Word)
  /-- IDX_ARM (R348). -/
  | idxArm (w : By) (n : Fin 16) (v : Word)
  /-- CMP_ARM (R369). -/
  | cmpArm (w : By) (n : Fin 16) (v : Word)
  /-- CMP_DISARM (R363). -/
  | cmpDisarm (w : By) (n : Fin 16) (v : Word)
  /-- TARGET_WRITE (R362). -/
  | targetWrite (w : By) (n : Fin 16) (v : BitVec 48)
  /-- LIST_WRITE (R364). -/
  | listWrite (w : By) (n : Fin 16) (bytes : List Byte)
  /-- LINE_CLOCK_EDGE (R370). -/
  | lineClockEdge (line : Fin 16)
  /-- MAINS_EDGE (R373). -/
  | mainsEdge
  /-- MAINS_LOSS (R373). -/
  | mainsLoss
  /-- TBCTL_WRITE (R372). -/
  | tbctlWrite (w : By) (v : Word)
  /-- LATE_CUE_FIRE (R378). -/
  | lateCueFire (i : Fin 16)
  /-- SEQ_RUN (R382). -/
  | seqRun (w : By) (i : Fin 16) (v : Word)
  /-- SEQ_STOP (R382). -/
  | seqStop (w : By) (i : Fin 16) (v : Word)
  /-- CUE_WRITE (R376). -/
  | cueWrite (w : By) (k : Fin 4096) (hi : Bool) (v : BitVec 64)
  /-- TRIG_PULSE_START (R387). -/
  | trigPulseStart (n : Fin 32)
  /-- TRIG_PULSE_END (R386). -/
  | trigPulseEnd (n : Fin 32)
  /-- HIST_SAMPLE (R639). -/
  | histSample
  /-- HIST_DIV_WRITE (R639). -/
  | histDivWrite (w : By) (v : Word)
  /-- PTP_SECOND (R418). -/
  | ptpSecond
  /-- RING_WORD (R393). -/
  | ringWord (word : BitVec 16) (clap : Bool) (at64 : Nat)
  /-- RING_APPLY (R395). -/
  | ringApply
  /-- RING_FRAME (R396). -/
  | ringFrame
  /-- ARRAY_CAL (R397). -/
  | arrayCal (w : By) (v : Word)
  /-- CAL_MEASURE_DONE (R397). -/
  | calMeasureDone
  /-- CAL_END (R397). -/
  | calEnd (roundTrip : Nat)
  /-- DRIFT_CHECK (R398). -/
  | driftCheck (roundTrip : Nat)
  /-- ROUTER_PUBLISH (R404). -/
  | routerPublish (c : Fin 128)
  /-- SW_PUBLISH (R416). -/
  | swPublish (w : By) (v : Word)
  /-- HERD_EN_WRITE (R406). -/
  | herdEnWrite (w : By) (v : Word)
  /-- SEQ_START_TASK (R419). -/
  | seqStartTask (i : Fin 16)
  /-- SEQ_STOP_TASK (R419). -/
  | seqStopTask (i : Fin 16)
  /-- CMP_ARM_TASK (R419). -/
  | cmpArmTask (n : Fin 16)
  /-- CMP_DISARM_TASK (R419). -/
  | cmpDisarmTask (n : Fin 16)
  /-- IDX_ARM_TASK (R419). -/
  | idxArmTask (n : Fin 16)
  /-- TAKE_START_TASK (R419). -/
  | takeStartTask (i : Fin 18)
  /-- TAKE_STOP_TASK (R419). -/
  | takeStopTask (i : Fin 18)
  /-- AXIS_START_TASK (R554). -/
  | axisStartTask (a : Fin 8)
  /-- AXIS_STOP_TASK (R554). -/
  | axisStopTask (a : Fin 8)
  /-- AXIS_ISTOP_TASK (R554). -/
  | axisIstopTask (a : Fin 8)
  /-- DMA_WAKE (R474). -/
  | dmaWake (c : Fin 512)
  /-- TRIG_PULSE_TASK (R419). -/
  | trigPulseTask (n : Fin 32)
  /-- COUNTER_INCREMENT (R411). -/
  | counterIncrement (k : Fin 32)
  /-- COUNTER_CLEAR (R413). -/
  | counterClear (k : Fin 32)
  /-- HERD_ENABLE (R406). -/
  | herdEnable (k : Fin 16)
  /-- HERD_DISABLE (R406). -/
  | herdDisable (k : Fin 16)
  /-- PRODUCER_WRITE (R426). -/
  | producerWrite (r : Fin 32)
  /-- CREDIT_GRANT (R431). -/
  | creditGrant
  /-- SET_MARK (R441). -/
  | setMark (r : Fin 32)
  /-- REWIND_TO_MARK (R441). -/
  | rewindToMark (r : Fin 32)
  /-- PACKET_REWIND (R442). -/
  | packetRewind (r : Fin 32)
  /-- RETURN_WALK (R442). -/
  | returnWalk
  /-- PACKET_COMMIT (R440). -/
  | packetCommit (r : Fin 32)
  /-- STALL_ACK_TIMEOUT (R444). -/
  | stallAckTimeout (r : Fin 32)
  /-- XOFF_MIN_END (R449). -/
  | xoffMinEnd (n : Fin 16)
  /-- XOFF_ENABLE (R448). -/
  | xoffEnable (w : By) (n : Fin 16) (v : Word)
  /-- XOFF_DISABLE (R448). -/
  | xoffDisable (w : By) (n : Fin 16) (v : Word)
  /-- CELL_SELECT (R450). -/
  | cellSelect (w : By) (v : Word)
  /-- CELL_SNAPSHOT (R450). -/
  | cellSnapshot (w : By)
  /-- QPOP (R452). -/
  | qpop (w : By) (q : Fin 512) (v : Word)
  /-- PATROL_SCRUB (R453). -/
  | patrolScrub (flaw : CellFlaw)
  /-- DMA_END (R477). -/
  | dmaEnd (c : Fin 512)
  /-- DMA_MOVE (R468). -/
  | dmaMove (c : Fin 512)
  /-- DMA_MOVEX (R469). -/
  | dmaMovex (c : Fin 512)
  /-- DMA_FILL (R470). -/
  | dmaFill (c : Fin 512)
  /-- DMA_CMP (R471). -/
  | dmaCmp (c : Fin 512)
  /-- DMA_LOOP (R472). -/
  | dmaLoop (c : Fin 512)
  /-- DMA_JUMP (R473). -/
  | dmaJump (c : Fin 512)
  /-- DMA_WAIT (R474). -/
  | dmaWait (c : Fin 512)
  /-- DMA_SIGNAL (R475). -/
  | dmaSignal (c : Fin 512)
  /-- DMA_FENCE (R476). -/
  | dmaFence (c : Fin 512)
  /-- DMA_ILLEGAL_OP (R488). -/
  | dmaIllegalOp (c : Fin 512)
  /-- WAIT_SATISFIED (R474). -/
  | waitSatisfied (c : Fin 512)
  /-- WAIT_TIMEOUT (R474). -/
  | waitTimeout (c : Fin 512)
  /-- READ_RESPONSE (R478). -/
  | readResponse (c : Fin 512) (id : Nat) (r : Resp)
  /-- REQUEST_TIMEOUT (R486). -/
  | requestTimeout (c : Fin 512) (id : Nat)
  /-- FETCH_RETURN (R491). -/
  | fetchReturn (c : Fin 512) (words : Option (List (BitVec 64)))
  /-- DMA_ENABLE (R492). -/
  | dmaEnable (w : By) (c : Fin 512) (v : Word)
  /-- DMA_DISABLE (R493). -/
  | dmaDisable (w : By) (c : Fin 512) (v : Word)
  /-- DMA_DRAINED (R493). -/
  | dmaDrained (c : Fin 512)
  /-- DMA_ABORT (R494). -/
  | dmaAbort (w : By) (c : Fin 512) (v : Word)
  /-- DMA_RESUME (R490). -/
  | dmaResume (w : By) (c : Fin 512) (v : Word)
  /-- DB_CLEAR (R497). -/
  | dbClear (w : By) (c : Fin 512) (v : Word)
  /-- DOORBELL_WRITE (R496). -/
  | doorbellWrite (w : By) (c : Fin 512) (v : Word)
  /-- INTMASK_WRITE (R487). -/
  | intmaskWrite (w : By) (c : Fin 512) (v : Word)
  /-- PS_DATA_WRITE (R496). -/
  | psDataWrite (w : By) (bytes : List Byte)
  /-- PERST_ASSERT (R502). -/
  | perstAssert (l : Fin 4)
  /-- PERST_RELEASE (R501). -/
  | perstRelease (l : Fin 4)
  /-- LINK_UP (R501). -/
  | linkUp (l : Fin 4) (speed : Fin 8) (width : Fin 32) (flit : Bool)
  /-- LINK_DOWN (R502). -/
  | linkDown (l : Fin 4)
  /-- FLR (R512). -/
  | flr (l : Fin 4) (f : Fin 17)
  /-- VF_REMOVAL (R511). -/
  | vfRemoval (l : Fin 4) (num : Nat)
  /-- PAIRFN_WRITE (R510). -/
  | pairfnWrite (w : By) (c : Fin 512) (v : Word)
  /-- BAR_UNMAPPED_ACCESS (R515). -/
  | barUnmappedAccess (l : Fin 4) (f : Fin 17) (ofs : Nat) (wr : Bool)
  /-- BAR4_WRITE (R516). -/
  | bar4Write (l : Fin 4) (addr : Nat) (bytes : List Byte)
  /-- VIEW_READ (R575). -/
  | viewRead (l : Fin 4) (f : Fin 17) (ofs : Nat) (len : Nat)
  /-- VIEW_WRITE (R575). -/
  | viewWrite (l : Fin 4) (f : Fin 17) (ofs : Nat) (bytes : List Byte)
  /-- VIEW_READ_TIMEOUT (R572). -/
  | viewReadTimeout (l : Fin 4) (f : Fin 17) (ofs : Nat)
  /-- MSIX_UNMASK (R520). -/
  | msixUnmask (l : Fin 4) (f : Fin 17) (entry : Nat)
  /-- DDR_REFRESH (R527). -/
  | ddrRefresh
  /-- DDR_SCRUB (R527). -/
  | ddrScrub (c : Fin 12) (flaw : CellFlaw)
  /-- CA_PARITY_ERROR (R525). -/
  | caParityError (c : Fin 12) (good : Bool)
  /-- MAP_AREA_WRITE (R529). -/
  | mapAreaWrite (w : By) (v : Word)
  /-- AXIS_START (R536). -/
  | axisStart (w : By) (a : Fin 8) (v : Word)
  /-- AXIS_STOP (R540). -/
  | axisStop (w : By) (a : Fin 8) (v : Word)
  /-- AXIS_ISTOP (R541). -/
  | axisIstop (w : By) (a : Fin 8) (v : Word)
  /-- STEP_PULSE (R537). -/
  | stepPulse (a : Fin 8)
  /-- SETTLE_END (R539). -/
  | settleEnd (a : Fin 8)
  /-- REST_DELAY_END (R550). -/
  | restDelayEnd (a : Fin 8)
  /-- LIMIT_INPUT (R544). -/
  | limitInput (a : Fin 8) (rev : Bool) (level : Bool)
  /-- HOME_INPUT (R546). -/
  | homeInput (a : Fin 8) (level : Bool)
  /-- TRIP_CLEAR (R545). -/
  | tripClear (w : By) (a : Fin 8) (v : Word)
  /-- POS_WRITE (R534). -/
  | posWrite (w : By) (a : Fin 8) (v : Word)
  /-- WAVE_TAB_WRITE (R548). -/
  | waveTabWrite (w : By) (a : Fin 8) (bytes : List Byte)
  /-- CHOP_MASK_END (R551). -/
  | chopMaskEnd (a : Fin 8) (ph : Fin 2) (sense : Nat)
  /-- CHOP_CEILING (R551). -/
  | chopCeiling (a : Fin 8) (ph : Fin 2)
  /-- CHOP_DECAY_END (R551). -/
  | chopDecayEnd (a : Fin 8) (ph : Fin 2)
  /-- LDP_OPEN (R585). -/
  | ldpOpen (src : LdpFrom) (msg : List Byte)
  /-- LDP_CLOSE (R581). -/
  | ldpClose (src : LdpFrom) (msg : List Byte)
  /-- LDP_KEEPALIVE (R586). -/
  | ldpKeepalive (src : LdpFrom) (msg : List Byte)
  /-- LDP_READ (R582). -/
  | ldpRead (src : LdpFrom) (msg : List Byte)
  /-- LDP_WRITE (R582). -/
  | ldpWrite (src : LdpFrom) (msg : List Byte)
  /-- LDP_READ_BLOB (R583). -/
  | ldpReadBlob (src : LdpFrom) (msg : List Byte)
  /-- LDP_WRITE_BLOB (R583). -/
  | ldpWriteBlob (src : LdpFrom) (msg : List Byte)
  /-- LDP_DESCRIBE (R567). -/
  | ldpDescribe (src : LdpFrom) (msg : List Byte)
  /-- LDP_JNL_READ (R597). -/
  | ldpJnlRead (src : LdpFrom) (msg : List Byte)
  /-- LDP_UNKNOWN_OP (R581). -/
  | ldpUnknownOp (src : LdpFrom) (msg : List Byte)
  /-- LDP_MALFORMED (R579). -/
  | ldpMalformed (src : LdpFrom) (msg : List Byte)
  /-- SESSION_IDLE_TIMEOUT (R586). -/
  | sessionIdleTimeout (id : BitVec 16)
  /-- MB_DOORBELL (R578). -/
  | mbDoorbell (l : Fin 4) (len : Word)
  /-- MB_ACK (R577). -/
  | mbAck (l : Fin 4)
  /-- JNL_SEL_WRITE (R597). -/
  | jnlSelWrite (w : By) (v : BitVec 64)
  /-- MGT_LINK_CHANGE (R589). -/
  | mgtLinkChange (m : Fin 2) (present : Bool) (los : Bool) (up : Bool)
  /-- DHCP_TIMEOUT (R589). -/
  | dhcpTimeout (m : Fin 2)
  /-- PTP_MESSAGE (R590). -/
  | ptpMessage (m : Fin 2) (x : PtpMsg)
  /-- ROOT_BURN (R604). -/
  | rootBurn (w : By) (n : Fin 4) (bytes : List Byte)
  /-- ROOT_REVOKE (R604). -/
  | rootRevoke (w : By) (v : Word)
  /-- ROOT_PUBKEY_WRITE (R603). -/
  | rootPubkeyWrite (w : By) (n : Fin 4) (bytes : List Byte)
  /-- SVN_COMMIT (R613). -/
  | svnCommit (w : By) (v : Word)
  /-- UPD_OPEN (R610). -/
  | updOpen (w : By) (v : Word)
  /-- UPD_DATA (R610). -/
  | updData (w : By) (bytes : List Byte)
  /-- UPD_VERIFY (R610). -/
  | updVerify (w : By) (v : Word)
  /-- UPD_RETIRE (R610). -/
  | updRetire (w : By) (v : Word)
  /-- UPD_REINSTATE (R610). -/
  | updReinstate (w : By) (v : Word)
  /-- UPD_VERIFY_DONE (R610). -/
  | updVerifyDone
  /-- IDENTITY_KEY_READY (R614). -/
  | identityKeyReady
  /-- ATT_REQ (R616). -/
  | attReq (w : By) (bytes : List Byte)
  /-- ATT_REPORT_SIGNED (R616). -/
  | attReportSigned
  /-- DBG_TOKEN (R619). -/
  | dbgToken (w : By) (bytes : List Byte)
  /-- JTAG_DBG_UNLOCK (R619). -/
  | jtagDbgUnlock (bytes : List Byte)
  /-- JTAG_DBG_RESET (R621). -/
  | jtagDbgReset
  /-- JTAG_DBG_STATUS (R621). -/
  | jtagDbgStatus
  /-- JTAG_IDCODE (R621). -/
  | jtagIdcode
  /-- JTAG_SAMPLE_PRELOAD (R621). -/
  | jtagSamplePreload (load : Option Nat) (pins : Nat)
  /-- JTAG_EXTEST (R621). -/
  | jtagExtest
  /-- JTAG_CLAMP (R621). -/
  | jtagClamp
  /-- JTAG_PROC_DEBUG (R621). -/
  | jtagProcDebug (code : BitVec 8)
  /-- JTAG_BYPASS (R621). -/
  | jtagBypass
  /-- FAULT_RECORD_MOVE (R628). -/
  | faultRecordMove
  /-- REGISTER_WRITE (R566). -/
  | registerWrite (w : By) (index : BitVec 16) (sub : BitVec 8) (x : Val)
  /-- PCAM_SAMPLE (R229). -/
  | pcamSample (n : Fin 2) (lsync : Bool) (dval : Bool) (data : Nat)
  /-- PRBS_CHECKER_LOCK (R148). -/
  | prbsCheckerLock (n : Fin 64)
  /-- PRBS_CHECKER_LOSS (R148). -/
  | prbsCheckerLoss (n : Fin 64)
  /-- REGULAR_ALIGNMENT_SEND (R174). -/
  | regularAlignmentSend (q : Fin 4)
  /-- PTP_TIME_ADVANCE (R370). -/
  | ptpTimeAdvance
  /-- MAINS_PHASE_STEP (R373). -/
  | mainsPhaseStep
  /-- PPS_IN_EDGE (R374). -/
  | ppsInEdge (at64 : Nat)
  /-- FAST_DECAY_END (R551). -/
  | fastDecayEnd (a : Fin 8) (ph : Fin 2)
  /-- CONFIG_SPACE_WRITE (R508). -/
  | configSpaceWrite (l : Fin 4) (f : Fin 17) (x : CfgWrite)
  /-- BAR0_WINDOW_WRITE (R515). -/
  | bar0WindowWrite (l : Fin 4) (ofs : Nat) (bytes : List Byte)
  /-- DHCP_LEASE (R589). -/
  | dhcpLease (m : Fin 2) (addr : Word) (mask : Word) (gw : Word)
  /-- RSTOUT_RELEASE (R50). -/
  | rstoutRelease
deriving DecidableEq, Repr

end Sys2Proof
end

