-- ==== Sys2Proof/Machine/State.lean ====
section
/-! DEFINITION. The whole state of the device with its queue of waiting commands, the reasons a step can stop, and the state
after reset. -/

namespace Sys2Proof.Machine

open Sys2Proof

/-- Reasons a step faults. -/
inductive Fault where
  /-- Raised by CODEWORD_RECEIVED, ALIGNMENT_CODEWORD and TRAINING_FRAME when their line levels are not the 1,360 of a codeword or a frame
  (R168, R171, R179): no wire can bring such a word. Safe: the model stops where the device has no such input. -/
  | illFormed
deriving DecidableEq, Repr

/-- Reasons a command is refused by the model. -/
inductive Refusal where
  /-- Raised by the arm of a command that has no meaning yet. Safe: the model stops. -/
  | notModelled (mnemonic : String)
  /-- Raised by JTAG_PROC_DEBUG while the port is unlocked (R621): the manual gives the processor and memory debug codes no
  effect. Safe: the model stops. -/
  | processorDebug
deriving DecidableEq, Repr

/-- What waits for firmware in the service queue (R571). -/
inductive Request where
  /-- An LDP or mailbox message (R579, R577). -/
  | ldp (src : LdpFrom) (msg : List Byte)
  /-- A write of one object; `ok` says that its size is the object's. -/
  | write (who : By) (index sub : Nat) (ok : Bool) (x : Val)
  /-- A read through the object view that firmware serves: link, function, BAR0 offset, length (R572). -/
  | viewRead (l : Fin 4) (f : Fin 17) (ofs len : Nat)
deriving DecidableEq, Repr

/-- The device. DESIGN CHOICE, log entry 120. -/
structure State where
  /-- Commands waiting, first in first out. -/
  pending : List Instr := []
  /-- The service queue: what waits for firmware, first in first out (R571). -/
  svc : List Request := []
  /-- Core clocks since the level-0 release, the core time of R370's stamps (R12, R639). -/
  coreTime : Nat := 0
  /-- The model's own count of free values drawn. -/
  draw : Nat := 0
  /-- The answer the last command was given: the model's own record. -/
  reply : Reply := {}
  /-- What the device has sent, oldest first: the model's own record. -/
  tx : List Tx := []
  /-- Pins. -/
  pins : Pins := {}
  /-- Fuses. -/
  fuses : Fuses := {}
  /-- Resets. -/
  rst : Resets := {}
  /-- Clocks. -/
  clk : Clocks := {}
  /-- Boot. -/
  boot : Boot := {}
  /-- Thermal sensors. -/
  thermal : Thermal := {}
  /-- MRAM. -/
  mram : Mram := {}
  /-- Fault log (R627 to R630). -/
  faults : Faults := {}
  /-- Violation log (R631, R632). -/
  vio : Violations := {}
  /-- Watchdog. -/
  wdog : Wdog := {}
  /-- Dictionary access, LDP, mailboxes, journal window. -/
  acc : Access := {}
  /-- Management ports. -/
  mgt : Vector Mgt 2 := Vector.replicate 2 {}
  /-- PTP. -/
  ptp : Ptp := {}
  /-- Security. -/
  sec : Security := {}
  /-- Lane quadrants. -/
  quads : Vector Quad 4 := Vector.replicate 4 {}
  /-- Lanes. -/
  lanes : Vector Lane 64 := Vector.replicate 64 {}
  /-- Ports. -/
  ports : Vector Port 16 := Vector.replicate 16 {}
  /-- Frame sources: heads 0 to 15, parallel camera ports at 16 and 17. -/
  srcs : Vector Source 18 := Vector.replicate 18 {}
  /-- Heads. -/
  heads : Vector Head 16 := Vector.replicate 16 {}
  /-- Parallel camera ports. -/
  pcams : Vector Pcam 2 := Vector.replicate 2 {}
  /-- Pipelines. -/
  pipes : Vector Pipe 16 := Vector.replicate 16 {}
  /-- The map store, 256 MiB (R257). -/
  mapStore : Mem := {}
  /-- Tally engines. -/
  tallies : Vector Tally 16 := Vector.replicate 16 {}
  /-- Encoder channels. -/
  encs : Vector Enc 16 := Vector.replicate 16 {}
  /-- Timebase, cues, triggers, sync ring. -/
  tb : Timebase := {}
  /-- Event router. -/
  router : Router := {}
  /-- Queues and cell pool. -/
  qm : QueueMgr := {}
  /-- DMA channels; QSEL of channel c defaults to c (R463, R496, R497). -/
  dma : Vector Dma 512 := Vector.ofFn fun c => { ctl := BitVec.ofNat 32 c.1 }
  /-- PSTORE, 1 MiB (R495). -/
  pstore : Mem := {}
  /-- PS_OFS 6500.01 (R496). -/
  psOfs : Word := 0
  /-- Host ports and stall store. -/
  host : HostPorts := {}
  /-- Axes (R533, R556). -/
  axes : Vector Axis 8 := Vector.replicate 8 {}
deriving DecidableEq, Repr

/-- The device right after a power-on reset has taken hold: the level-0 reset is in force with source POR, every object at
its default and every memory that a level-0 reset clears empty (R87, R91, R101). DESIGN CHOICE, log entries 2, 3, 4. -/
def State.reset : State := {}

end Sys2Proof.Machine
end

