-- ==== Sys2Proof/Machine/Ops.lean ====
section
/-! DEFINITION. The shared operations: one named update for each part of the state, memories, free values, time stamps, what
is in reset, the fault and violation logs, router publishing, interrupt vectors. -/

namespace Sys2Proof.Machine

open Sys2Proof

/-! ### Updates of one part -/

/-- Lane n changed by f. -/
def State.updLane (s : State) (n : Fin 64) (f : Lane → Lane) : State := { s with lanes := modAt s.lanes n f }
/-- Port p changed by f. -/
def State.updPort (s : State) (p : Fin 16) (f : Port → Port) : State := { s with ports := modAt s.ports p f }
/-- Source i changed by f. -/
def State.updSrc (s : State) (i : Fin 18) (f : Source → Source) : State := { s with srcs := modAt s.srcs i f }
/-- Head h changed by f. -/
def State.updHead (s : State) (h : Fin 16) (f : Head → Head) : State := { s with heads := modAt s.heads h f }
/-- Parallel camera port n changed by f. -/
def State.updPcam (s : State) (n : Fin 2) (f : Pcam → Pcam) : State := { s with pcams := modAt s.pcams n f }
/-- Pipeline p changed by f. -/
def State.updPipe (s : State) (p : Fin 16) (f : Pipe → Pipe) : State := { s with pipes := modAt s.pipes p f }
/-- Tally engine p changed by f. -/
def State.updTally (s : State) (p : Fin 16) (f : Tally → Tally) : State := { s with tallies := modAt s.tallies p f }
/-- Encoder channel n changed by f. -/
def State.updEnc (s : State) (n : Fin 16) (f : Enc → Enc) : State := { s with encs := modAt s.encs n f }
/-- DMA channel c changed by f. -/
def State.updDma (s : State) (c : Fin 512) (f : Dma → Dma) : State := { s with dma := modAt s.dma c f }
/-- Axis a changed by f. -/
def State.updAxis (s : State) (a : Fin 8) (f : Axis → Axis) : State := { s with axes := modAt s.axes a f }
/-- Management port m changed by f. -/
def State.updMgt (s : State) (m : Fin 2) (f : Mgt → Mgt) : State := { s with mgt := modAt s.mgt m f }
/-- The timebase unit changed by f. -/
def State.updTb (s : State) (f : Timebase → Timebase) : State := { s with tb := f s.tb }
/-- The sync ring changed by f. -/
def State.updRing (s : State) (f : Ring → Ring) : State := { s with tb := { s.tb with ring := f s.tb.ring } }
/-- Sequencer i changed by f. -/
def State.updSeq (s : State) (i : Fin 16) (f : Seq → Seq) : State := { s with tb := { s.tb with seqs := modAt s.tb.seqs i f } }
/-- Trigger output n changed by f. -/
def State.updTrig (s : State) (n : Fin 32) (f : Trig → Trig) : State := { s with tb := { s.tb with trigs := modAt s.tb.trigs n f } }
/-- The stamping state of source i changed by f. -/
def State.updStamp (s : State) (i : Fin 18) (f : Stamp → Stamp) : State := { s with tb := { s.tb with stamps := modAt s.tb.stamps i f } }
/-- The router changed by f. -/
def State.updRouter (s : State) (f : Router → Router) : State := { s with router := f s.router }
/-- Router channel c changed by f. -/
def State.updChan (s : State) (c : Fin 128) (f : Chan → Chan) : State := { s with router := { s.router with chans := modAt s.router.chans c f } }
/-- Counting unit k changed by f. -/
def State.updCunit (s : State) (k : Fin 32) (f : Cunit → Cunit) : State := { s with router := { s.router with units := modAt s.router.units k f } }
/-- The queue manager changed by f. -/
def State.updQm (s : State) (f : QueueMgr → QueueMgr) : State := { s with qm := f s.qm }
/-- Queue q changed by f. -/
def State.updQueue (s : State) (q : Fin 512) (f : Queue → Queue) : State := { s with qm := { s.qm with queues := modAt s.qm.queues q f } }
/-- Producer r changed by f. -/
def State.updProducer (s : State) (r : Fin 32) (f : Producer → Producer) : State := { s with qm := { s.qm with producers := modAt s.qm.producers r f } }
/-- The XOFF pin n changed by f. -/
def State.updXoff (s : State) (n : Fin 16) (f : Xoff → Xoff) : State := { s with qm := { s.qm with xoff := modAt s.qm.xoff n f } }
/-- The host ports changed by f. -/
def State.updHost (s : State) (f : HostPorts → HostPorts) : State := { s with host := f s.host }
/-- PCIe link l changed by f. -/
def State.updLink (s : State) (l : Fin 4) (f : Link → Link) : State := { s with host := { s.host with links := modAt s.host.links l f } }
/-- Function g of link l changed by f. -/
def State.updFn (s : State) (l : Fin 4) (g : Fin 17) (f : Fn → Fn) : State := s.updLink l fun k => { k with fns := modAt k.fns g f }
/-- DDR5 channel c changed by f. -/
def State.updDdr (s : State) (c : Fin 12) (f : DdrCh → DdrCh) : State := { s with host := { s.host with ddr := modAt s.host.ddr c f } }
/-- The pins changed by f. -/
def State.updPins (s : State) (f : Pins → Pins) : State := { s with pins := f s.pins }
/-- The boot state changed by f. -/
def State.updBoot (s : State) (f : Boot → Boot) : State := { s with boot := f s.boot }
/-- The access paths changed by f. -/
def State.updAcc (s : State) (f : Access → Access) : State := { s with acc := f s.acc }
/-- The security state changed by f. -/
def State.updSec (s : State) (f : Security → Security) : State := { s with sec := f s.sec }

/-- Each element of a list of places acted on in turn. -/
def State.each {α : Type} (s : State) (l : List α) (f : α → State → State) : State := l.foldl (fun t a => f a t) s

/-- What the device sends, put on its record. DESIGN CHOICE, log entry 8. -/
def State.send (s : State) (x : Tx) : State := { s with tx := s.tx ++ [x] }

/-- An answer given to the command. DESIGN CHOICE, log entry 8. -/
def State.answer (s : State) (st : Status) (data : List Byte := []) : State := { s with reply := { status := st, data := data } }

/-- A free value drawn, and the state with the draw counted. DESIGN CHOICE, log entries 5, 80. -/
def State.drawNat (s : State) : Nat × State := (Config.freeNat s.draw, { s with draw := s.draw + 1 })

/-- A free choice drawn. DESIGN CHOICE, log entry 5. -/
def State.drawBool (s : State) : Bool × State := (Config.freeBool s.draw, { s with draw := s.draw + 1 })

/-- k fresh random bytes drawn (R585, R619). DESIGN CHOICE, log entry 5. -/
def State.drawBytes (s : State) (k : Nat) : List Byte × State := ((List.range k).map (Config.randomByte (s.draw + 1)), { s with draw := s.draw + 1 })

/-! ### Memories -/

/-- The byte at an address: 0 where none is listed. DESIGN CHOICE, log entry 9. -/
def memGet : List Host.Cell → Nat → Byte
  | [], _ => 0
  | (x, b) :: r, a => if x = a then b else memGet r a

/-- One byte written, the list kept in its canonical form. DESIGN CHOICE, log entry 9. -/
def memSet : List Host.Cell → Nat → Byte → List Host.Cell
  | [], a, b => if b = 0 then [] else [(a, b)]
  | (x, y) :: r, a, b =>
    if x < a then (x, y) :: memSet r a b
    else if x = a then (if b = 0 then r else (a, b) :: r)
    else if b = 0 then (x, y) :: r else (a, b) :: (x, y) :: r

/-- The bytes a to a + k - 1. -/
def memRead (m : List Host.Cell) (a k : Nat) : List Byte := (List.range k).map fun i => memGet m (a + i)

/-- Bytes written from address a on. -/
def memWrite : List Host.Cell → Nat → List Byte → List Host.Cell
  | m, _, [] => m
  | m, a, b :: bs => memWrite (memSet m a b) (a + 1) bs

/-- Addresses strictly rising from above lo, no byte equal to what an unlisted address reads as. DESIGN CHOICE, log entry 9. -/
def memOk : Nat → List Host.Cell → Bool
  | _, [] => true
  | lo, (x, b) :: r => decide (lo ≤ x) && b != 0 && memOk (x + 1) r

/-- The canonical form of a memory. DESIGN CHOICE, log entry 9. -/
abbrev Memory.wf (m : List Host.Cell) : Bool := memOk 0 m

/-- The numbers of the 8-byte words that bytes a to a + k - 1 touch. -/
def wordsOf (a k : Nat) : List Nat := if k = 0 then [] else (List.range ((a + k - 1) / 8 + 1 - a / 8)).map (· + a / 8)

/-- A number put into a strictly rising list. -/
def insertNat : List Nat → Nat → List Nat
  | [], a => [a]
  | x :: r, a => if x < a then x :: insertNat r a else if x = a then x :: r else a :: x :: r

/-- Bytes a to a + k - 1 read. DESIGN CHOICE, log entry 9. -/
def Mem.read (m : Mem) (a k : Nat) : List Byte := memRead m.cells a k

/-- One of the words that bytes a to a + k - 1 touch is stored uncorrectable. DEDUCED, log entry 58. -/
def Mem.poisoned (m : Mem) (a k : Nat) : Bool := (wordsOf a k).any (m.bad.contains ·)

/-- The places within bytes a to a + k - 1 that lie in words stored uncorrectable. DEDUCED, log entry 58. -/
def Mem.badPlaces (m : Mem) (a k : Nat) : List Nat := (List.range k).filter fun i => m.bad.contains ((a + i) / 8)

/-- Bytes written, some of them poisoned: poisoned bytes leave their words uncorrectable, clean data mend the words they cover
whole (R486). DEDUCED, log entry 58. -/
def Mem.write (m : Mem) (a : Nat) (bs : List Byte) (poisoned : List Nat := []) : Mem :=
  { cells := memWrite m.cells a bs
    bad := (poisoned.map fun i => (a + i) / 8).foldl insertNat
      (m.bad.filter fun w => ! (decide (a ≤ 8 * w) && decide (8 * w + 8 ≤ a + bs.length))) }

/-- The little-endian number of k bytes at a. -/
def Mem.num (m : Mem) (a k : Nat) : Nat := ofLe (m.read a k)

/-! ### Time -/

/-- Core clocks in a microsecond, a millisecond and a second (R109). -/
def clkUs : Nat := 1250
/-- Core clocks in a millisecond. -/
def clkMs : Nat := 1250000
/-- Core clocks in a second. -/
def clkS : Nat := 1250000000

/-- PTP time in microseconds (R596, R629). -/
def Ptp.us (p : Ptp) : Nat := p.sec * 1000000 + p.frac / 10 ^ 18
/-- Nanoseconds within the PTP second. -/
def Ptp.ns (p : Ptp) : Nat := p.frac / 10 ^ 15

/-! ### What runs and what is in reset -/

/-- A temperature in 1/16 degree (R79). -/
def tempOf (w : BitVec 24) : Int := toSigned 24 w.toNat

/-- WARN follows TJ_HOT and TJ_WARN at once (R79, R80). -/
def Thermal.followWarn (t : Thermal) : Thermal :=
  { t with warn := if tempOf t.warnAt ≤ tempOf t.hot then true else if tempOf t.hot < tempOf t.warnAt - 80 then false else t.warn }

/-- The clock domain of a block (R109). -/
def Blk.domain : Blk → Fin 23
  | .lane n => if n.1 < 16 then 3 else if n.1 < 32 then 4 else if n.1 < 48 then 5 else 6
  | .mgt _ => 7
  | .link l => if l.1 < 2 then 20 else 21
  | .control => 1
  | _ => 2

/-- The blocks that a reset of a level takes (R87). Level 3 takes the block it names. DEDUCED, log entry 83. -/
def levelTakes (lv : Fin 4) (named : Option Blk) (b : Blk) : Bool :=
  match lv with
  | 0 => true
  | 1 => match b with
    | .stall => false
    | _ => true
  | 2 => match b with
    | .lane _ | .port _ | .head _ | .pcam _ | .pipe _ | .dma _ | .queues => true
    | _ => false
  | _ => named == some b

/-- The block is a PCIe link. -/
def Blk.isLink : Blk → Bool
  | .link _ => true
  | _ => false

/-- The block is held in reset: a reset in force takes it, it is isolated, its clock domain is not good, or it is a host port that
step 6 of a level-1 release has still to release (R106, R107, R111, R118). -/
def inReset (b : Blk) (s : State) : Bool :=
  (match s.rst.level with
   | some lv => levelTakes lv s.rst.block b
   | none => false)
  || s.rst.isolated.contains b || ! s.clk.good[b.domain] || (b.isLink && s.boot.hostDue)

/-- Firmware runs: PHASE 3, the control complex out of reset, its processors not stopped (R31, R121). -/
def firmwareRuns (s : State) : Bool := s.boot.phase == 3 && ! inReset .control s && ! s.boot.halted

/-! ### Interrupt vectors -/

/-- A cause reaches an entry of a function's MSI-X table (R520): sent, or left pending. A function that may issue no request
sends nothing (R502, R508). DEDUCED, log entry 72. -/
def sendVector (l : Fin 4) (g : Fin 17) (e : Nat) (s : State) : State :=
  let k := s.host.links[l]
  let f := k.fns[g]
  if ! f.msixEn || f.fnMask || ! f.unmasked.contains e then s.updFn l g fun f => { f with pend := insertNat f.pend e }
  else if k.up && f.busMaster && ! f.d3 then s.send (.msix l g e) else s

/-- The link that DEVVEC names (R519, R531). -/
def devLink (s : State) : Fin 4 := Fin.ofNat 4 (fld s.host.cfg 29 28)

/-- A device vector, entries 512 to 517 (R519). DEDUCED, log entry 61. -/
def deviceVector (e : Nat) (s : State) : State := sendVector (devLink s) 0 e s

/-- The link and the function that own pair c (R509). -/
def pairOwner (s : State) (c : Fin 512) : Fin 4 × Fin 17 :=
  let w := s.host.pairfn[c]
  (Fin.ofNat 4 (fld w 17 16), Fin.ofNat 17 (fld w 4 0))

/-- The pairs that function g of link l owns, in ascending order (R517). -/
def ownedPairs (s : State) (l : Fin 4) (g : Fin 17) : List (Fin 512) :=
  (List.finRange 512).filter fun c => pairOwner s c == (l, g)

/-- Vector c of channel c (R518). -/
def channelVector (c : Fin 512) (s : State) : State :=
  let (l, g) := pairOwner s c
  sendVector l g (if g = 0 then c.1 else (ownedPairs s l g).idxOf c) s

/-! ### The event router's inputs -/

/-- One more publish in core clock t among those waiting, a core clock an entry, in order of time (R404 step 1, R638). -/
def addPend (t : Nat) : List (Nat × Nat) → List (Nat × Nat)
  | [] => [(t, 1)]
  | (u, n) :: r => if t < u then (t, 1) :: (u, n) :: r else if t = u then (u, n + 1) :: r else (u, n) :: addPend t r

/-- A publish raised on a channel in core clock t: an enabled channel takes it (R403). -/
def Chan.raise (t : Nat) (c : Chan) : Chan := if bitAt c.cfg 31 then { c with pend := addPend t c.pend } else c

/-- A source code raises one publish in core clock t on every enabled channel that selects it (R401, R404 step 1). -/
def publishAt (t code : Nat) (s : State) : State :=
  if inReset .router s then s
  else s.updRouter fun r => { r with chans := mapAll r.chans fun _ c => if fld c.cfg 28 16 = code then c.raise t else c }

/-- A source code raises one publish now. -/
def publish (code : Nat) (s : State) : State := publishAt s.coreTime code s

/-- A publisher acts on one channel: a cue or software (R401, R403). -/
def publishOn (c : Fin 128) (s : State) : State :=
  if inReset .router s then s
  else s.updChan c (Chan.raise s.coreTime)

/-! ### Fault log -/

/-- The block classes of fault records (R102, R629). -/
inductive FClass where
  | lane | port | head | pcam | pipe | dma | link | enc | cue | router | axis | mgt | control
  | queue | ddr | clock | sensor | fuse | ring
deriving DecidableEq, Repr

/-- CLASS of a record (R102, R629). -/
def FClass.code : FClass → Nat
  | .lane => 0x01 | .port => 0x02 | .head => 0x03 | .pcam => 0x04 | .pipe => 0x05 | .dma => 0x06 | .link => 0x07
  | .enc => 0x08 | .cue => 0x09 | .router => 0x0A | .axis => 0x0B | .mgt => 0x0C | .control => 0x0D
  | .queue => 0x0E | .ddr => 0x0F | .clock => 0x10 | .sensor => 0x11 | .fuse => 0x12 | .ring => 0x13

/-- A fault record with the device's present times (R629). DEDUCED, log entry 113. -/
def faultRec (code rung sev : Nat) (cls : FClass) (idx detail : Nat) (s : State) : FaultRec :=
  { code := BitVec.ofNat 16 code, rung := BitVec.ofNat 8 rung, sev := BitVec.ofNat 8 sev, cls := BitVec.ofNat 8 cls.code
    index := BitVec.ofNat 16 idx, detail := BitVec.ofNat 32 detail, tb := s.tb.tb, ptpUs := BitVec.ofNat 48 s.ptp.us }

/-- A record put into the hardware queue, or dropped when it is full (R628). -/
def postRec (r : FaultRec) (s : State) : State :=
  if s.faults.queue.length < 256 then { s with faults := { s.faults with queue := s.faults.queue ++ [r] } }
  else { s with faults := { s.faults with lost := satInc s.faults.lost } }

/-- A fault posted (R628, R635). DEDUCED, log entry 113. -/
def fault (code sev : Nat) (cls : FClass) (idx detail : Nat) (s : State) : State :=
  postRec (faultRec code 0 sev cls idx detail s) s

/-- A fault that firmware enters when it runs again (R628). DEDUCED, log entry 92. -/
def captureFault (code sev : Nat) (cls : FClass) (idx detail : Nat) (s : State) : State :=
  { s with faults := { s.faults with captured := s.faults.captured ++ [faultRec code 0 sev cls idx detail s] } }

/-- A give-way: its rung's counter and its fault record (R627). DEDUCED, log entry 113. -/
def giveWay (code : Nat) (rung : Fin 5) (cls : FClass) (idx detail : Nat) (s : State) : State :=
  let s := { s with faults := { s.faults with giveway := modAt s.faults.giveway rung satInc } }
  postRec (faultRec code (rung.1 + 2) 1 cls idx detail s) s

/-- Rung 2 of the ladder, as an index of the give-way counters. -/
abbrev rung2 : Fin 5 := 0
/-- Rung 3. -/
abbrev rung3 : Fin 5 := 1
/-- Rung 5. -/
abbrev rung5 : Fin 5 := 3
/-- Rung 6. -/
abbrev rung6 : Fin 5 := 4

/-- A record moved into the fault log: merged with the newest entry, or a new entry with its interrupt (R630). -/
def logFault (r : FaultRec) (s : State) : State :=
  let f := s.faults
  match f.log with
  | e :: rest =>
    if e.record.code = r.code ∧ e.record.cls = r.cls ∧ e.record.index = r.index ∧ s.coreTime < e.made + clkMs then
      { s with faults := { f with log := { e with count := satInc e.count } :: rest } }
    else
      deviceVector 513 { s with faults := { f with head := f.head + 1, log := (({ seq := f.head + 1, record := r, count := 1, made := s.coreTime } : FaultEntry) :: f.log).take 1024 } }
  | [] => deviceVector 513 { s with faults := { f with head := f.head + 1, log := [{ seq := f.head + 1, record := r, count := 1, made := s.coreTime }] } }

/-! ### Violation log -/

/-- INITIATOR of an access path (R632). DEDUCED, log entry 119. -/
def Path.initiator : Path → Nat
  | .ldp p n => p.1 * 0x1000 + n % 0x1000
  | .mailbox pf _ => 0x2000 + pf.1 * 32
  | .view l g => 0x2000 + l.1 * 32 + g.1
  | .firmware => 0x3000
  | .jtag => 0x5000

/-- A refused access entered in the violation log: merged, or a new entry with its interrupt (R631, R632). -/
def logVio (kind target : Nat) (st : Status) (initiator : Nat) (s : State) : State :=
  let v := s.vio
  let e : VioEntry := { target := BitVec.ofNat 48 target, kind := BitVec.ofNat 8 kind, status := BitVec.ofNat 8 st.code
                        initiator := BitVec.ofNat 16 initiator, count := 1, time := BitVec.ofNat 32 s.ptp.us, made := s.coreTime }
  let fresh := deviceVector 514 { s with vio := { v with head := v.head + 1, log := (e :: v.log).take 256
                                                         overflow := if v.log.length = 256 then satInc v.overflow else v.overflow } }
  match v.log with
  | o :: rest =>
    if o.target = e.target ∧ o.kind = e.kind ∧ o.status = e.status ∧ o.initiator = e.initiator ∧ s.coreTime < o.made + clkMs then
      { s with vio := { v with log := { o with count := satInc o.count } :: rest } }
    else fresh
  | [] => fresh

/-- The TARGET of a dictionary object (R632). -/
def objTarget (index sub : Nat) : Nat := index * 256 + sub

end Sys2Proof.Machine
end

