-- ==== Sys2Proof/Machine/Codec.lean ====
section
/-! DEFINITION. The codes the manual defines or names: CRC-16 (R173), CRC-32C (R301), RS(272,257) over GF(2^10) (R168), the
scrambler (R169), SHAKE256 (R585, R596, R602). -/

namespace Sys2Proof.Machine

open Sys2Proof

/-- The bits of x, bit 0 first. -/
def bitsLow (k x : Nat) : List Bool := (List.range k).map fun i => x.testBit i

/-- The bits of x, bit k - 1 first. -/
def bitsHigh (k x : Nat) : List Bool := (bitsLow k x).reverse

/-- The number whose bits are given, least significant first. -/
def ofBitsLow : List Bool → Nat
  | [] => 0
  | b :: bs => (if b then 1 else 0) + 2 * ofBitsLow bs

/-- The number whose bits are given, most significant first. -/
def ofBitsHigh (bs : List Bool) : Nat := ofBitsLow bs.reverse

/-! ### CRC-16 -/

/-- One bit into the CRC-16 of R173: a register shifted toward its top, polynomial x^16 + x^12 + x^5 + 1 (DEDUCED). DEDUCED, log entry 12. -/
def crc16Bit (c : Nat) (b : Bool) : Nat :=
  if (c.testBit 15) != b then ((c * 2) % 65536) ^^^ 0x1021 else (c * 2) % 65536

/-- CRC-16 of the low k bits of x, bit 0 first (R173). DESIGN CHOICE, log entry 10. DEDUCED, log entry 12. -/
def crc16 (k x : Nat) : Nat := (bitsLow k x).foldl crc16Bit 0xFFFF

/-! ### CRC-32C -/

/-- One bit of the reflected CRC-32C register (R301). -/
def crc32cStep (c : Nat) : Nat := if c % 2 = 1 then (c / 2) ^^^ 0x82F63B78 else c / 2

/-- One byte into CRC-32C. -/
def crc32cByte (c : Nat) (b : Byte) : Nat :=
  crc32cStep (crc32cStep (crc32cStep (crc32cStep (crc32cStep (crc32cStep (crc32cStep (crc32cStep (c ^^^ b.toNat))))))))

/-- CRC-32C of a byte string (R301). DESIGN CHOICE, log entry 10. -/
def crc32c (bs : List Byte) : Nat := (bs.foldl crc32cByte 0xFFFFFFFF) ^^^ 0xFFFFFFFF

/-! ### RS(272,257) -/

/-- The product in GF(2^10) modulo x^10 + x^3 + 1 (R168). -/
def gfMul (a b : Nat) : Nat :=
  ((List.range 10).foldl (fun (p : Nat × Nat) i =>
    (if b.testBit i then p.1 ^^^ p.2 else p.1, if p.2.testBit 9 then (p.2 * 2) ^^^ 0x409 else p.2 * 2)) (0, a)).1

/-- a to the power k, by its bits. -/
def gfPow (a k : Nat) : Nat :=
  ((List.range 10).foldl (fun (p : Nat × Nat) i => (if k.testBit i then gfMul p.1 p.2 else p.1, gfMul p.2 p.2)) (1, a)).1

/-- The inverse: a^(2^10 - 2). -/
def gfInv (a : Nat) : Nat := gfPow a 1022

/-- A polynomial, lowest degree first, at x. -/
def polyEval (p : List Nat) (x : Nat) : Nat := p.foldr (fun c acc => c ^^^ gfMul acc x) 0

/-- Sum of two polynomials. -/
def polyAdd : List Nat → List Nat → List Nat
  | [], q => q
  | p, [] => p
  | a :: p, b :: q => (a ^^^ b) :: polyAdd p q

/-- The 15 syndromes of a received word, highest degree first: its values at alpha^0 to alpha^14. DEDUCED, log entry 12. -/
def rsSyndromes (w : List Nat) : List Nat :=
  (List.range 15).map fun j => w.foldl (fun acc c => gfMul acc (gfPow 2 j) ^^^ c) 0

/-- State of the Berlekamp-Massey recursion: locator, previous locator, its shift, previous discrepancy, register length. -/
structure BmState where
  loc : List Nat
  prev : List Nat
  len : Nat
  disc : Nat

/-- One step of the recursion over syndrome n. -/
def bmStep (syn : List Nat) (b : BmState) (n : Nat) : BmState :=
  let d := (List.range (b.len + 1)).foldl (fun acc i => acc ^^^ gfMul (b.loc.getD i 0) (if i ≤ n then syn.getD (n - i) 0 else 0)) 0
  if d = 0 then { b with prev := 0 :: b.prev }
  else
    let next := polyAdd b.loc (b.prev.map (gfMul (gfMul d (gfInv b.disc))))
    if 2 * b.len ≤ n then { loc := next, prev := 0 :: b.loc, len := n + 1 - b.len, disc := d }
    else { b with loc := next, prev := 0 :: b.prev }

/-- The error locator of a word's syndromes, and its length. DEDUCED, log entry 13. -/
def rsLocator (syn : List Nat) : BmState :=
  (List.range 15).foldl (bmStep syn) { loc := [1], prev := [0, 1], len := 0, disc := 1 }

/-- The product of two polynomials. -/
def polyMul (p q : List Nat) : List Nat :=
  p.foldr (fun c acc => polyAdd (q.map (gfMul c)) (0 :: acc)) []

/-- The error values: for each degree in error, its degree and value (Forney, first root alpha^0). DEDUCED, log entry 13. -/
def rsErrors (syn : List Nat) (b : BmState) : List (Nat × Nat) :=
  let omega := (polyMul syn b.loc).take 15
  let deriv := (List.range 7).map fun i => if i % 2 = 0 then b.loc.getD (i + 1) 0 else 0
  (List.range 272).filterMap fun deg =>
    let xi := gfPow 2 ((1023 - deg) % 1023)
    if polyEval b.loc xi = 0 then
      some (deg, gfMul (gfPow 2 deg) (gfMul (polyEval omega xi) (gfInv (polyEval deriv xi))))
    else none

/-- A received codeword decoded: its corrected symbols and the errors found, none when it is uncorrectable (R168). DESIGN CHOICE, log entry 10. DEDUCED, log entries 12, 13. -/
def rsDecode (w : List Nat) : Option (List Nat × List (Nat × Nat)) :=
  let syn := rsSyndromes w
  if syn.all (· == 0) then some (w, [])
  else
    let b := rsLocator syn
    let errs := rsErrors syn b
    if 7 < b.len ∨ errs.length ≠ b.len then none
    else
      let fixed := w.zipIdx.map fun (c, i) => errs.foldl (fun acc e => if e.1 + i = 271 then acc ^^^ e.2 else acc) c
      if (rsSyndromes fixed).all (· == 0) then some (fixed, errs) else none

/-- The generator (x + alpha^0) to (x + alpha^14) below x^15, highest degree first (R168). -/
def rsGenerator : List Nat := (((List.range 15).foldl (fun g j => polyMul [gfPow 2 j, 1] g) [1]).take 15).reverse

/-- One message symbol into the remainder modulo the generator, highest degree first (R168). -/
def rsShift (r : List Nat) (c : Nat) : List Nat :=
  let f := r.headD 0 ^^^ c
  List.zipWith (fun a g => a ^^^ gfMul f g) (r.tail ++ [0]) rsGenerator

/-- A codeword: the 257 message symbols, then the 15 parity symbols, highest degree first (R168). DEDUCED, log entry 12. -/
def rsEncode (msg : List Nat) : List Nat := msg ++ msg.foldl rsShift (List.replicate 15 0)

/-! ### The scrambler -/

/-- Bits passed through the additive scrambler from a state (R169). DESIGN CHOICE, log entry 10. -/
def scramble : BitVec 58 → List Bool → List Bool × BitVec 58
  | st, [] => ([], st)
  | st, d :: ds =>
    let k := bitAt st 57 != bitAt st 38
    let (out, fin) := scramble ((st <<< 1) ||| BitVec.ofNat 58 (if k then 1 else 0)) ds
    ((d != k) :: out, fin)

/-- The seed after an alignment codeword: LID, POS and ASEQ (R169). -/
def scrambleSeed (lid pos aseq : Nat) : BitVec 58 :=
  place 58 52 (lid % 64) ||| place 58 51 1 ||| place 58 16 (pos % 1024) ||| place 58 0 (aseq % 65536)

/-! ### SHAKE256 -/

/-- A sponge state: five planes of five 64-bit lanes, plane y holding lanes x = 0 to 4. -/
abbrev Planes := List (List Nat)

/-- A 64-bit lane turned up by r places, r below 64. -/
def turnUp (r v : Nat) : Nat := v * 2 ^ r % 2 ^ 64 + v / 2 ^ (64 - r)

/-- Every lane takes the parities of the columns beside its own, the right one turned by one place. -/
def mixColumns (a : Planes) : Planes :=
  let parity := a.foldl (List.zipWith Nat.xor) (List.replicate 5 0)
  let delta := List.zipWith Nat.xor (parity.rotateRight 1) ((parity.rotateLeft 1).map (turnUp 1))
  a.map (List.zipWith Nat.xor delta)

/-- The walk over the 24 lanes other than (0, 0): k + 1 positions from one on, each (x, y) followed by (y, 2 x + 3 y). -/
def laneWalk : Nat → Nat × Nat → List (Nat × Nat)
  | 0, q => [q]
  | k + 1, q => q :: laneWalk k (q.2, (2 * q.1 + 3 * q.2) % 5)

/-- Each lane of the walk moves to the next position, turned by the triangular number of its step. -/
def moveLanes (a : Planes) : Planes :=
  let path := laneWalk 24 (1, 0)
  let moved := (path.zip path.tail).zipIdx.map fun e =>
    (e.1.2, turnUp ((e.2 + 1) * (e.2 + 2) / 2 % 64) ((a.getD e.1.1.2 []).getD e.1.1.1 0))
  (List.range 5).map fun y => (List.range 5).map fun x =>
    match moved.lookup (x, y) with
    | some v => v
    | none => (a.headD []).headD 0

/-- Within a plane, each lane is changed where the next is 0 and the one after it 1. -/
def mixPlane (p : List Nat) : List Nat :=
  List.zipWith Nat.xor p (List.zipWith (fun u v => Nat.land (2 ^ 64 - 1 - u) v) (p.rotateLeft 1) (p.rotateLeft 2))

/-- One step of the shift register x^8 + x^6 + x^5 + x^4 + 1 that gives the round constants. -/
def roundReg (r : Nat) : Nat := if 128 ≤ r then (2 * r) ^^^ 0x171 else 2 * r

/-- The constant of a round from the register's state at its start, and the state after its seven bits: bit 2^j - 1 of the constant is
the register's low bit after j steps. -/
def roundWord (r : Nat) : Nat × Nat :=
  (List.range 7).foldl (fun q j => (q.1 + q.2 % 2 * 2 ^ (2 ^ j - 1), roundReg q.2)) (0, r)

/-- One round from the register's state: the four mixings, then the round's constant into lane (0, 0). -/
def spongeRound (q : Planes × Nat) : Planes × Nat :=
  let w := roundWord q.2
  match (moveLanes (mixColumns q.1)).map mixPlane with
  | (v :: p) :: a => (((v ^^^ w.1) :: p) :: a, w.2)
  | a => (a, w.2)

/-- The 24 rounds of the permutation. -/
def permute (a : Planes) : Planes := ((List.range 24).foldl (fun q _ => spongeRound q) (a, 1)).1

/-- A message padded for SHAKE256 to whole blocks of 136 bytes: 0x1F after it, 0x80 into the last byte. -/
def shakePad (bs : List Byte) : List Byte :=
  let k := 136 - bs.length % 136
  bs ++ (if k = 1 then [0x9F] else 0x1F :: (List.replicate (k - 2) 0 ++ [0x80]))

/-- Block i of a padded message taken into the state: its 17 words go into the first lanes, plane by plane, and the state is permuted. -/
def takeIn (msg : List Byte) (a : Planes) (i : Nat) : Planes :=
  permute (a.zipIdx.map fun p => p.1.zipIdx.map fun v =>
    if 5 * p.2 + v.2 < 17 then v.1 ^^^ leAt msg (136 * i + 8 * (5 * p.2 + v.2)) 8 else v.1)

/-- The first k bytes of SHAKE256 of a byte string, k at most 136. DESIGN CHOICE, log entry 10. -/
def shake256 (bs : List Byte) (k : Nat) : List Byte :=
  let msg := shakePad bs
  let a := (List.range (msg.length / 136)).foldl (takeIn msg) (List.replicate 5 (List.replicate 5 0))
  (a.flatten.flatMap (leBytes 8)).take k

end Sys2Proof.Machine
end

