-- ==== Sys2Proof/Machine/Dict.lean ====
section
/-! DEFINITION. The dictionary's types, access codes and descriptors (R563 to R567), and what every object table says of its
objects: each chapter's file lists its own. -/

namespace Sys2Proof.Machine

open Sys2Proof

/-- Object types (R563). -/
inductive Ty where
  | u8 | u16 | u24 | u32 | u48 | u64 | s24 | s32 | bits32 | str | blob
deriving DecidableEq, Repr

/-- The code DESCRIBE returns for a type (R563). -/
def Ty.code : Ty → Nat
  | .u8 => 0 | .u16 => 1 | .u24 => 2 | .u32 => 3 | .u48 => 4 | .u64 => 5 | .s24 => 6 | .s32 => 7 | .bits32 => 8 | .str => 9 | .blob => 10

/-- Bytes of a number type; 0 for STR and BLOB (R563). -/
def Ty.bytes : Ty → Nat
  | .u8 => 1 | .u16 => 2 | .u24 => 3 | .u32 => 4 | .u48 => 6 | .u64 => 8 | .s24 => 3 | .s32 => 4 | .bits32 => 4 | .str => 0 | .blob => 0

/-- The type is signed. -/
def Ty.signed : Ty → Bool
  | .s24 | .s32 => true
  | _ => false

/-- Access codes (R564). -/
inductive Acc where
  | ro | rw | wo | rwp
deriving DecidableEq, Repr

/-- ACCESS of a descriptor (R567). -/
def Acc.code : Acc → Nat
  | .ro => 0 | .rw => 1 | .wo => 2 | .rwp => 3

/-- What the object tables say of an object. -/
structure Desc where
  ty : Ty
  acc : Acc
  /-- Privilege to read, and to write (R565). -/
  rpriv : Nat
  wpriv : Nat
  /-- The effect class (R566). -/
  effect : Nat
  /-- The longest value of a STR or BLOB. -/
  len : Nat
  /-- Least and greatest value: the range of the Effect column, or of the type. -/
  min : Int
  max : Int
  /-- Writes are journaled (R594). -/
  journal : Bool
  /-- Held in its block: served by it through the object view (R572). -/
  block : Bool
deriving DecidableEq, Repr

/-- The least value a type holds. -/
def Ty.min : Ty → Int
  | .s24 => -2 ^ 23 | .s32 => -2 ^ 31 | _ => 0

/-- The greatest value a type holds; 0 for STR and BLOB. -/
def Ty.max : Ty → Int
  | .u8 => 2 ^ 8 - 1 | .u16 => 2 ^ 16 - 1 | .u24 => 2 ^ 24 - 1 | .u32 => 2 ^ 32 - 1 | .u48 => 2 ^ 48 - 1 | .u64 => 2 ^ 64 - 1
  | .s24 => 2 ^ 23 - 1 | .s32 => 2 ^ 31 - 1 | .bits32 => 2 ^ 32 - 1 | .str => 0 | .blob => 0

/-- A read-only object of a block, readable at a privilege. -/
def Desc.ro (ty : Ty) (p : Nat := 0) : Desc :=
  { ty := ty, acc := .ro, rpriv := p, wpriv := 0xFF, effect := 0, len := ty.bytes, min := ty.min, max := ty.max, journal := false, block := true }

/-- A read-write object of a block, writable at a privilege. -/
def Desc.rw (ty : Ty) (p : Nat) (effect : Nat := 0) : Desc :=
  { ty := ty, acc := .rw, rpriv := 0, wpriv := p, effect := effect, len := ty.bytes, min := ty.min, max := ty.max, journal := true, block := true }

/-- A read-write object with a range. -/
def Desc.within (d : Desc) (lo hi : Int) : Desc := { d with min := lo, max := hi }

/-- An object whose value is kept in MRAM. -/
def Desc.rwp (ty : Ty) (p : Nat) (effect : Nat := 0) : Desc := { Desc.rw ty p effect with acc := .rwp }

/-- A write-only object. -/
def Desc.wo (ty : Ty) (p : Nat) (effect : Nat := 0) : Desc := { Desc.rw ty p effect with acc := .wo, rpriv := 0xFF }

/-- A status object whose writable fields are all sticky: its writes only clear, and are never journaled (R594). -/
def Desc.status (ty : Ty := .bits32) : Desc := { Desc.rw ty 1 with journal := false }

/-- Writes that the journal never records (R594). -/
def Desc.unjournaled (d : Desc) : Desc := { d with journal := false }

/-- An object that firmware holds (R572). DESIGN CHOICE, log entry 93. -/
def Desc.fw (d : Desc) : Desc := { d with block := false }

/-- A BLOB or STR of up to n bytes. -/
def Desc.long (d : Desc) (n : Nat) : Desc := { d with len := n }

/-- The number of a value; a byte string counts as 0. -/
def Val.toNat : Val → Nat
  | .num n => n
  | .bytes _ => 0

/-- The bytes of a value; a number has none. -/
def Val.toBytes : Val → List Byte
  | .num _ => []
  | .bytes bs => bs

/-- A value as a 32-bit register. -/
def Val.word (v : Val) : Word := BitVec.ofNat 32 v.toNat

/-- A bit vector as a value. -/
def bv {n : Nat} (w : BitVec n) : Val := .num w.toNat

/-- An own check that does not hold is refused with its status; the first refusal in order counts. -/
def firstRefusal : List (Bool × Status) → Status
  | [] => .ok
  | (true, st) :: _ => st
  | (false, _) :: r => firstRefusal r

/-- A sticky bit written: 0 clears it, 1 leaves it. -/
def keepSticky (now written : Bool) : Bool := now && written

end Sys2Proof.Machine
end

