-- ==== Sys2Proof/Machine/Journal.lean ====
section
/-! DEFINITION. The journal (R593 to R597) and the store of persistent objects (R569, R570). -/

namespace Sys2Proof.Machine

open Sys2Proof

/-- Slots of the journal (R593). -/
def jnlSlots : Nat := 1048576

/-- VALUE of an entry, and HASH: a value of more than 8 bytes is kept as the first 8 bytes of its hash (R596). -/
def jnlValue (ty : Ty) (v : Val) : Nat × Bool :=
  match v with
  | .num n => (n % 2 ^ (8 * ty.bytes), false)
  | .bytes bs => if bs.length ≤ 8 then (ofLe bs, false) else (ofLe (shake256 bs 8), true)

/-- An entry appended, with the interrupt of one that comes from outside the mailbox (R519, R593, R596). -/
def jnlAppend (src index sub status value : Nat) (s : State) : State :=
  let seq := s.mram.head + 1
  let e : JnlEntry := { seq := seq.toNat, src := BitVec.ofNat 16 src, index := BitVec.ofNat 16 index, sub := BitVec.ofNat 8 sub
                        status := BitVec.ofNat 8 status, value := BitVec.ofNat 64 value, tb := s.tb.tb, ptpUs := BitVec.ofNat 48 s.ptp.us }
  let s := { s with mram := { s.mram with head := seq, journal := (e :: s.mram.journal).take jnlSlots } }
  if src / 0x4000 = 2 ∧ src % 0x4000 < 0x3F00 then s else deviceVector 515 s

/-- SRC of an access path (R596). -/
def Path.jnlSrc : Path → Nat
  | .ldp p n => p.1 * 0x4000 + n % 0x4000
  | .mailbox _ n => 2 * 0x4000 + n % 0x3F00
  | .view l g => 2 * 0x4000 + 0x3F00 + l.1 * 0x20 + g.1
  | .firmware | .jtag => 3 * 0x4000

/-- Firmware journals a reset with the content of RSTCAUSE (R118, R594). -/
def jnlReset (s : State) : State :=
  let cause := flagBit 0 false ||| place 32 30 s.rst.causeLevel.1 ||| place 32 22 s.rst.causeSrc.toNat ||| place 32 16 s.rst.causeDom.toNat
    ||| place 32 0 s.rst.causeBlock.toNat
  jnlAppend Path.firmware.jnlSrc 0x2000 0x01 0 cause.toNat s

/-- JNL_OLDEST (R597). -/
def jnlOldest (s : State) : Nat := max 1 (s.mram.head.toNat - 1048574)

/-- The 32 bytes of an entry (R596). -/
def JnlEntry.bytes (e : JnlEntry) : List Byte :=
  leBytes 6 e.seq ++ leBytes 2 e.src.toNat ++ leBytes 2 e.index.toNat ++ leBytes 1 e.sub.toNat ++ leBytes 1 e.status.toNat
    ++ leBytes 8 e.value.toNat ++ leBytes 6 e.tb.toNat ++ leBytes 6 e.ptpUs.toNat

/-- Entry SEQ, when it may be read (R597). -/
def jnlFind (s : State) (seq : Nat) : Option JnlEntry :=
  if jnlOldest s ≤ seq ∧ seq ≤ s.mram.head.toNat then s.mram.journal.find? fun e => e.seq == seq else none

/-- The tokens there are now, in units of 1 / 12,500 entry: 100,000 entries a second, 4,096 at most (R595). -/
def jnlTokens (s : State) : Nat := min (4096 * 12500) (s.acc.jnlTokens + (s.coreTime - s.acc.jnlTime))

/-- One entry's token taken, or the write counted in RATE_DROPS (R595). -/
def jnlToken (s : State) : Bool × State :=
  let k := jnlTokens s
  if 12500 ≤ k then (true, s.updAcc fun a => { a with jnlTokens := k - 12500, jnlTime := s.coreTime })
  else (false, s.updAcc fun a => { a with jnlTokens := k, jnlTime := s.coreTime, rateDrops := satInc a.rateDrops })

/-- A write of a persistent object within the second's 1,000 (R569). -/
def rwpToken (s : State) : Bool × State :=
  let sec := s.coreTime / clkS
  let n := if sec = s.acc.rwpSecond then s.acc.rwpCount else 0
  if n < 1000 then (true, s.updAcc fun a => { a with rwpSecond := sec, rwpCount := n + 1 }) else (false, s)

/-- The record of a persistent object; no new MRAM write starts while writes are barred (R69, R569). -/
def rwpRecord (key : Nat) (v : Val) (s : State) : State :=
  if s.mram.writesBarred then s
  else
  { s with mram := { s.mram with records := (key, v) :: s.mram.records.filter fun r => r.1 != key } }

end Sys2Proof.Machine
end

