-- ==== Sys2Proof/Machine/Security.lean ====
section
/-! DEFINITION. Root keys, firmware images, the update of the MRAM slots, identity and attestation, debug unlock (chapter 19),
and the security objects. -/

namespace Sys2Proof.Machine

open Sys2Proof

/-- H32 (chapter 19). -/
def h32 (bs : List Byte) : List Byte := shake256 bs 32
/-- H64 (chapter 19). -/
def h64 (bs : List Byte) : List Byte := shake256 bs 64

/-- SILICON_REV 1000.04 (R568). -/
def siliconRev : Nat := 0x4201

/-! ### Root fuses -/

/-- The two copies of a root slot differ (R602). DEDUCED, log entry 75. -/
def rootSplit (s : State) (n : Fin 4) : Bool := s.fuses.rootA[n] != s.fuses.rootB[n]
/-- PROGRAMMED (R602). -/
def rootProgrammed (s : State) (n : Fin 4) : Bool := s.fuses.rootA[n].programmed
/-- REVOKED, or treated as revoked (R602). DEDUCED, log entry 75. -/
def rootRevoked (s : State) (n : Fin 4) : Bool := s.fuses.rootA[n].revoked || rootSplit s n
/-- The slot is usable (R602). -/
def rootUsable (s : State) (n : Fin 4) : Bool := rootProgrammed s n && ! rootRevoked s n
/-- ROOT_HASHn (R602). DEDUCED, log entry 75. -/
def rootHash (s : State) (n : Fin 4) : List Byte := padTo 32 s.fuses.rootA[n].hash

/-- ROOT_STATE (R623). -/
def rootState (s : State) : Word :=
  (List.finRange 4).foldl (fun w n => w ||| flagBit n.1 (rootProgrammed s n) ||| flagBit (4 + n.1) (rootRevoked s n) ||| flagBit (8 + n.1) (rootSplit s n)) 0

/-- VPP_FUSE is at its burning level (R65). -/
def vppBurning (s : State) : Bool := decide (2400 ≤ s.pins.vppMv ∧ s.pins.vppMv ≤ 2600)

/-- Both copies of a root slot changed (R604). -/
def burnRoot (n : Fin 4) (f : RootCopy → RootCopy) (s : State) : State :=
  { s with fuses := { s.fuses with rootA := modAt s.fuses.rootA n f, rootB := modAt s.fuses.rootB n f } }

/-! ### Images -/

/-- BODY_LEN of an image (R605). -/
def bodyLen (m : List Host.Cell) : Nat := ofLe (memRead m 12 4)
/-- The body of an image (R605). -/
def imageBody (m : List Host.Cell) : List Byte := memRead m 4096 (bodyLen m)
/-- MEAS of an image (R606). -/
def measurement (m : List Host.Cell) : List Byte := h64 (memRead m 0 2048 ++ imageBody m)

/-- Checks 2 to 9 of an image: 0, or the code of the first that fails (R607). DEDUCED, log entry 79. -/
def verifyFail (s : State) (m : List Host.Cell) : Nat :=
  let key := memRead m 128 1793
  let slot := finOf 4 (memGet m 6).toNat
  if ofLe (memRead m 0 4) ≠ 0x46574E53 ∨ ofLe (memRead m 4 2) ≠ 1 then 0x02
  else if ofLe (memRead m 16 2) ≠ siliconRev then 0x03
  else if ¬ (1 ≤ bodyLen m ∧ bodyLen m ≤ 4190208) then 0x04
  else match slot with
    | none => 0x05
    | some n =>
      if ¬ rootUsable s n then 0x05
      else if h32 key ≠ rootHash s n then 0x06
      else if ¬ Config.falconVerify key (memRead m 0 2048) (memRead m 2048 1280) then 0x07
      else if h64 (imageBody m) ≠ memRead m 64 64 then 0x08
      else if ofLe (memRead m 8 4) < s.fuses.svn then 0x09
      else 0

/-- Check 1 and the others of an MRAM slot (R607, R609). DEDUCED, log entry 79. -/
def slotFail (s : State) (n : Fin 2) : Nat :=
  if s.mram.slots[n].mark = .valid then verifyFail s s.mram.slots[n].image else 0x01

/-- The code of a slot mark (R608). -/
def SlotMark.code : SlotMark → Nat
  | .empty => 0 | .valid => 1 | .retired => 2 | .writing => 3

/-- Slot n of the MRAM changed. -/
def updSlot (n : Fin 2) (f : Slot → Slot) (s : State) : State := { s with mram := { s.mram with slots := modAt s.mram.slots n f } }

/-- The slot that UPD_DATA writes: the one opened last, or one still WRITING (R610, R612). DEDUCED, log entry 76. -/
def dataSlot (s : State) : Option (Fin 2) :=
  ((s.sec.openSlot.toList ++ [s.sec.updSlot, s.sec.updSlot + 1]).find? fun n => s.mram.slots[n].mark == .writing)

/-- VERIFY or REINSTATE ends: the mark is written last (R610). DEDUCED, log entry 78. -/
def verifyDone (s : State) : State :=
  match s.sec.verifying with
  | none => s
  | some n =>
    let code := verifyFail s s.mram.slots[n].image
    let s := s.updSec fun x => { x with verifying := none, updFail := BitVec.ofNat 8 code }
    if code = 0 then updSlot n (fun k => { k with mark := .valid }) s else s

/-- The blocks that CLASS and INDEX name (R102). -/
def blkOf (cls idx : Nat) : Option Blk :=
  match cls with
  | 0x01 => (finOf 64 idx).map .lane
  | 0x02 => (finOf 16 idx).map .port
  | 0x03 => (finOf 16 idx).map .head
  | 0x04 => (finOf 2 idx).map .pcam
  | 0x05 => (finOf 16 idx).map .pipe
  | 0x06 => (finOf 512 idx).map .dma
  | 0x07 => (finOf 4 idx).map .link
  | 0x08 => (finOf 16 idx).map .enc
  | 0x09 => if idx = 0 then some .cue else none
  | 0x0A => if idx = 0 then some .router else none
  | 0x0B => (finOf 8 idx).map .axis
  | 0x0C => (finOf 2 idx).map .mgt
  | 0x0D => if idx = 0 then some .control else none
  | _ => none

/-! ### Attestation -/

/-- The identity public key (R614, R615). -/
def idPubkey : List Byte := (List.range 1793).map Config.idPubkey

/-- ID_CERT (R615). -/
def idCert : List Byte := leBytes 8 Config.serial.toNat ++ h32 idPubkey ++ (List.range 1280).map Config.certSignature

/-- Bytes 0 to 223 of a report (R617). -/
def reportBody (s : State) (req : List Byte) : List Byte :=
  let b := s.boot
  leBytes 4 0x54414E53 ++ leBytes 2 1
    ++ leBytes 2 ((if s.sec.tapOpen then 1 else 0) + (if s.acc.sessions.any fun x => x.isOpen && x.priv == 3 then 2 else 0)
        + (if (List.finRange 4).any (rootSplit s) then 4 else 0))
    ++ leBytes 8 Config.serial.toNat ++ leBytes 2 siliconRev
    ++ leBytes 1 (b.source.toNat * 64 + b.slot.1 * 32 + (if b.reverified then 16 else 0)) ++ leBytes 1 b.keySlot.1
    ++ leBytes 4 b.svn.toNat ++ leBytes 4 s.fuses.svn ++ leBytes 4 b.fwVersion.toNat ++ padTo 64 b.meas
    ++ padTo 96 req ++ leBytes 4 (rootState s).toNat ++ leBytes 4 0 ++ leBytes 6 s.mram.head.toNat ++ leBytes 18 0

/-- The engine signs the report that was asked for (R616). -/
def reportSigned (s : State) : State :=
  match s.sec.attReq with
  | none => s
  | some req =>
    let body := reportBody s req
    s.updSec fun x => { x with attReq := none, report := body ++ (List.range 1280).map (Config.falconSign body) }

/-! ### Debug tokens -/

/-- A token fails with INTEGRITY (R619). -/
def tokenInvalid (s : State) (bs : List Byte) : Bool :=
  bs.length != 1376 || leAt bs 0 4 != 0x4B444E53 || leAt bs 4 2 != 1 || leAt bs 8 8 != Config.serial.toNat || slice bs 16 32 != s.sec.nonce
  || match finOf 4 (leAt bs 6 1) with
    | none => true
    | some n => ! rootUsable s n || s.mram.rootKeys[n].isEmpty || ! Config.falconVerify s.mram.rootKeys[n] (slice bs 0 96) (slice bs 96 1280)

/-- The block that a token's RST_CLASS and RST_INDEX name (R620). DESIGN CHOICE, log entry 77. -/
def tokenBlock (bs : List Byte) : Option Blk := blkOf (leAt bs 48 1) (leAt bs 50 2)

/-- The scope bit i of a token (R618). -/
def tokenScope (bs : List Byte) (i : Nat) : Bool := (leAt bs 7 1).testBit i

/-- What a presentation answers, on a path that honours the scopes listed (R619, R620). DESIGN CHOICE, log entry 77. -/
def tokenStatus (s : State) (honours : List Nat) (bs : List Byte) : Status :=
  firstRefusal [(tokenInvalid s bs, .integrity), (! honours.any (tokenScope bs), .range), (tokenScope bs 2 && (tokenBlock bs).isNone, .range)]

/-- A token presented and taken: its grants, the counts and a fresh nonce (R619, R620, R624). -/
def tokenTaken (honours : List Nat) (bs : List Byte) (s : State) : State :=
  let st := tokenStatus s honours bs
  let grants (i : Nat) : Bool := st == .ok && honours.contains i && tokenScope bs i
  let (fresh, s) := s.drawBytes 32
  s.updSec fun x =>
    { x with nonce := fresh
             last := BitVec.ofNat 8 st.code
             failed := if st = .ok then x.failed else satInc x.failed
             tapOpen := x.tapOpen || grants 0
             resetOk := x.resetOk || grants 2
             rstBlock := if grants 2 then tokenBlock bs else x.rstBlock }

/-- The scopes that DBG_TOKEN and DBG_UNLOCK honour: TAP and DEBUG_RESET (R619). -/
def tapScopes : List Nat := [0, 2]
/-- The scope that OPEN step 2 honours: PRIV3 (R619). -/
def openScopes : List Nat := [1]

/-- DBG_STAT (R624). -/
def dbgStat (x : Security) : Word :=
  flagBit 31 x.tapOpen ||| flagBit 30 x.resetOk ||| place 32 8 x.last.toNat ||| place 32 0 x.failed.toNat

/-! ### Objects -/

/-- The security objects (R622). -/
inductive SecReg where
  | rootHash (n : Fin 4) | rootState | rootBurn (n : Fin 4) | revoke | svnCommit | rootPubkey (n : Fin 4) | svnMin | meas
  | updCtl | updStat | updOfs | updData | idPubkey | idCert | attReq | attStat | attReport | dbgNonce | dbgToken | dbgStat
deriving DecidableEq, Repr

/-- The object at an index and subindex (R622). -/
def SecReg.at_ (index sub : Nat) : Option SecReg :=
  match index, sub with
  | 0x9000, 0x05 => some .rootState
  | 0x9000, k => if 1 ≤ k then (finOf 4 (k - 1)).map .rootHash else none
  | 0x9001, 0x05 => some .revoke
  | 0x9001, 0x06 => some .svnCommit
  | 0x9001, k => if 1 ≤ k then (finOf 4 (k - 1)).map .rootBurn else none
  | 0x9002, k => if 1 ≤ k then (finOf 4 (k - 1)).map .rootPubkey else none
  | 0x9003, 0x01 => some .svnMin
  | 0x9003, 0x02 => some .meas
  | 0x9004, 0x01 => some .updCtl
  | 0x9004, 0x02 => some .updStat
  | 0x9004, 0x03 => some .updOfs
  | 0x9004, 0x04 => some .updData
  | 0x9005, 0x01 => some .idPubkey
  | 0x9005, 0x02 => some .idCert
  | 0x9006, 0x01 => some .attReq
  | 0x9006, 0x02 => some .attStat
  | 0x9006, 0x03 => some .attReport
  | 0x9007, 0x01 => some .dbgNonce
  | 0x9007, 0x02 => some .dbgToken
  | 0x9007, 0x03 => some .dbgStat
  | _, _ => none

/-- Its row in the table of R622. -/
def SecReg.desc : SecReg → Desc
  | .rootHash _ => (Desc.ro .blob).fw.long 32
  | .rootState => (Desc.ro .bits32).fw
  | .rootBurn _ => (Desc.wo .blob 2).fw.long 32
  | .revoke => (Desc.wo .u8 2).fw
  | .svnCommit => (Desc.wo .u32 2).fw
  | .rootPubkey _ => (Desc.rwp .blob 2).fw.long 1793
  | .svnMin => (Desc.ro .u32).fw
  | .meas => (Desc.ro .blob).fw.long 64
  | .updCtl => (Desc.rw .bits32 2).fw
  | .updStat => (Desc.ro .bits32).fw
  | .updOfs => (Desc.rw .u32 2).fw
  | .updData => (Desc.wo .blob 2).fw.long 4096
  | .idPubkey => (Desc.ro .blob).fw.long 1793
  | .idCert => (Desc.ro .blob).fw.long 1320
  | .attReq => (Desc.wo .blob 1).fw.long 96
  | .attStat => (Desc.ro .bits32).fw
  | .attReport => (Desc.ro .blob).fw.long 1504
  | .dbgNonce => (Desc.ro .blob).fw.long 32
  | .dbgToken => (Desc.wo .blob 0).fw.long 1376
  | .dbgStat => (Desc.ro .bits32).fw

/-- What it reads. -/
def SecReg.read (s : State) : SecReg → Val
  | .rootHash n => .bytes (Machine.rootHash s n)
  | .rootState => bv (Machine.rootState s)
  | .rootPubkey n => .bytes s.mram.rootKeys[n]
  | .svnMin => .num s.fuses.svn
  | .meas => .bytes s.boot.meas
  | .updCtl => .num s.sec.updSlot.1
  | .updStat => bv (flagBit 31 s.sec.verifying.isSome ||| place 32 29 s.mram.slots[(0 : Fin 2)].mark.code
      ||| place 32 27 s.mram.slots[(1 : Fin 2)].mark.code ||| place 32 0 s.sec.updFail.toNat)
  | .updOfs => bv s.sec.updOfs
  | .idPubkey => .bytes Machine.idPubkey
  | .idCert => .bytes Machine.idCert
  | .attStat => bv (flagBit 31 s.sec.attReq.isSome ||| flagBit 30 s.sec.keyReady ||| flagBit 29 (! s.sec.report.isEmpty))
  | .attReport => .bytes s.sec.report
  | .dbgNonce => .bytes s.sec.nonce
  | .dbgStat => bv (Machine.dbgStat s.sec)
  | .rootBurn _ | .updData | .attReq | .dbgToken => .bytes []
  | .revoke | .svnCommit => .num 0

/-- Action bits of an UPD_CTL value (R623). -/
def updActions (w : Word) : Nat := ((List.range 4).filter fun i => bitAt w (28 + i)).length

/-- SVN of a slot's image (R605). -/
def slotSvn (s : State) (n : Fin 2) : Nat := ofLe (memRead s.mram.slots[n].image 8 4)

/-- The checks of an UPD_CTL write after its privilege (R611). -/
def checkUpdCtl (s : State) (w : Word) : Status :=
  let n : Fin 2 := Fin.ofNat 2 (fld w 0 0)
  let mark (k : Fin 2) : SlotMark := s.mram.slots[k].mark
  firstRefusal
    [(decide (1 < updActions w), .range), (s.sec.verifying.isSome, .busy),
     (bitAt w 31 && s.boot.source == 0 && s.boot.slot == n, .state),
     (bitAt w 29 && mark (n + 1) != .valid, .state),
     (bitAt w 30 && mark n != .writing, .state),
     (bitAt w 28 && mark n != .retired, .state)]

/-- Its own checks after privilege, access and type (R603, R604, R611, R613, R616, R619). DEDUCED, log entry 75. DESIGN CHOICE, log entry 77. -/
def SecReg.check (s : State) (r : SecReg) (v : Val) : Status :=
  let bs := v.toBytes
  let w := v.word
  match r with
  | .rootBurn n => firstRefusal [(! vppBurning s, .state), (rootProgrammed s n, .access), (bs.length != 32, .type)]
  | .revoke =>
    let left := (List.finRange 4).any fun n => rootUsable s n && ! bitAt w n.1
    firstRefusal [(! vppBurning s, .state), (decide (16 ≤ v.toNat), .range), (! left, .state)]
  | .svnCommit =>
    let slots : List (Fin 2) := (List.finRange 2).filter fun n => s.mram.slots[n].mark == .valid
    firstRefusal [(! vppBurning s, .state), (decide (64 < v.toNat ∨ v.toNat < s.fuses.svn), .range),
      (slots.isEmpty || slots.any fun n => decide (slotSvn s n < v.toNat), .state)]
  | .rootPubkey _ =>
    firstRefusal [(bs.length != 1793, .type), (! (List.finRange 4).any fun n => rootProgrammed s n && h32 bs == Machine.rootHash s n, .integrity)]
  | .updCtl => checkUpdCtl s w
  | .updOfs => firstRefusal [(s.sec.verifying.isSome, .busy), (v.toNat % 8 != 0, .range)]
  | .updData =>
    firstRefusal [(decide (bs.length < 8), .type), (s.sec.verifying.isSome, .busy), ((dataSlot s).isNone, .state),
      (s.sec.updOfs.toNat % 8 != 0 || decide (4194304 < s.sec.updOfs.toNat + bs.length), .range)]
  | .attReq => firstRefusal [(bs.length != 96, .type), (s.sec.attReq.isSome || ! s.sec.keyReady, .busy)]
  | .dbgToken => firstRefusal [(bs.length != 1376, .type), (true, tokenStatus s tapScopes bs)]
  | _ => .ok

/-- UPD_CTL's action (R610). DEDUCED, log entry 76. -/
def writeUpdCtl (w : Word) (s : State) : State :=
  let n : Fin 2 := Fin.ofNat 2 (fld w 0 0)
  let s := s.updSec fun x => { x with updSlot := n }
  if bitAt w 31 then
    (updSlot n (fun k => { k with mark := .writing }) s).updSec fun x => { x with updOfs := 0, openSlot := some n }
  else if bitAt w 30 || bitAt w 28 then s.updSec fun x => { x with verifying := some n }
  else if bitAt w 29 then updSlot n (fun k => { k with mark := .retired }) s
  else s

/-- An accepted write. -/
def SecReg.write (r : SecReg) (v : Val) (s : State) : State :=
  let bs := v.toBytes
  let w := v.word
  match r with
  | .rootBurn n => burnRoot n (fun c => { c with programmed := true, hash := bs }) s
  | .revoke => s.each (List.finRange 4) fun n s => if bitAt w n.1 then burnRoot n (fun c => { c with revoked := true }) s else s
  | .svnCommit => { s with fuses := { s.fuses with svn := v.toNat } }
  | .rootPubkey n => { s with mram := { s.mram with rootKeys := modAt s.mram.rootKeys n fun _ => bs } }
  | .updCtl => writeUpdCtl w s
  | .updOfs => s.updSec fun x => { x with updOfs := w }
  | .updData =>
    match dataSlot s with
    | some n =>
      (updSlot n (fun k => { k with image := memWrite k.image s.sec.updOfs.toNat bs }) s).updSec fun x => { x with updOfs := x.updOfs + BitVec.ofNat 32 bs.length }
    | none => s
  | .attReq => s.updSec fun x => { x with attReq := some bs }
  | .dbgToken => tokenTaken tapScopes bs s
  | _ => s

/-- A presentation refused by its token counts too (R619). -/
def SecReg.refused (r : SecReg) (v : Val) (s : State) : State :=
  match r with
  | .dbgToken => if v.toBytes.length = 1376 then tokenTaken tapScopes v.toBytes s else s
  | _ => s

/-- UPD_VERIFY_DONE (R610). -/
def execUpdVerifyDone (s : State) : Host.Outcome State Fault Refusal := .next (verifyDone s)

/-- IDENTITY_KEY_READY: key generation ends after a level-0 release (R614). DEDUCED, log entry 78. -/
def execIdentityKeyReady (s : State) : Host.Outcome State Fault Refusal :=
  .next (if s.rst.level = some 0 then s else s.updSec fun x => { x with keyReady := true })

/-- ATT_REPORT_SIGNED (R616). -/
def execAttReportSigned (s : State) : Host.Outcome State Fault Refusal := .next (reportSigned s)

end Sys2Proof.Machine
end

