-- ==== Sys2Proof/Machine/Boot.lean ====
section
/-! DEFINITION. The boot ROM: boot from MRAM, SPI flash, the PCIe host and the network, recovery, re-verification of a retained
image, and firmware's start (R117, R121 to R126, R592, R606, R607, R634). -/

namespace Sys2Proof.Machine

open Sys2Proof

/-! ### Addresses of the management ports -/

/-- An RFC 3927 link-local address: 169.254 and a free host part from 1.0 to 254.255 (R589). DESIGN CHOICE, log entry 80. -/
def linkLocal (m : Fin 2) (s : State) : State :=
  let (x, s) := s.drawNat
  s.updMgt m fun g => { g with addrNow := BitVec.ofNat 32 (169 * 2 ^ 24 + 254 * 2 ^ 16 + 256 + x % 65024), linkLocal := true, dhcpWait := false }

/-- Firmware takes the port's address at link up (R589). DEDUCED, log entry 81. -/
def takeAddress (m : Fin 2) (s : State) : State :=
  let g := s.mgt[m]
  if bitAt g.ctl 30 then s.updMgt m fun g => { g with dhcpWait := true, addrNow := 0, linkLocal := false }
  else if g.ipv4 = 0 then linkLocal m s
  else s.updMgt m fun g => { g with addrNow := g.ipv4, linkLocal := false, dhcpWait := false }

/-- Management ports whose links are up. -/
def portsUp (s : State) : List (Fin 2) := (List.finRange 2).filter fun m => s.mgt[m].link && ! inReset (.mgt m) s

/-! ### The network boot -/

/-- An LDP message of a boot operation: SESSION 0, and a TAG that the manual leaves open (R580, R592). DESIGN CHOICE, log entry 80. -/
def bootMessage (op : Nat) (payload : List Byte) (s : State) : List Byte × State :=
  let (tag, s) := s.drawNat
  (leBytes 2 0x4C44 ++ leBytes 1 1 ++ leBytes 1 op ++ leBytes 4 0 ++ leBytes 4 tag ++ leBytes 2 payload.length ++ leBytes 2 0 ++ payload, s)

/-- Where BOOT_REQ goes: the broadcast address and UDP port 5240 (R592). -/
def bootBroadcast : Nat := (2 ^ 32 - 1) * 65536 + 5240

/-- BOOT_REQ from one port (R592). -/
def bootRequest (m : Fin 2) (s : State) : State :=
  let s := if s.mgt[m].addrNow = 0 then linkLocal m s else s
  let (bs, s) := bootMessage 0x30 (leBytes 8 Config.serial.toNat ++ leBytes 2 siliconRev ++ leBytes 2 Config.romVersion.toNat
      ++ leBytes 1 s.boot.fail.toNat ++ leBytes 3 0) s
  s.send (.datagram m none bootBroadcast bs)

/-- The ROM's network boot runs: BOOT 0b11 while it loads, or recovery (R122, R126, R592). -/
def netBooting (s : State) : Bool := ! s.boot.halted && ((s.boot.phase == 1 && s.boot.source == 3) || s.boot.phase == 4)

/-- A boot request on every port that is up: one attempt (R122, R124). DEDUCED, log entry 79. -/
def bootRound (ms : List (Fin 2)) (s : State) : State :=
  if ms.isEmpty then s
  else (s.updBoot fun b => { b with attempts := satInc b.attempts, net := { b.net with requested := true } }).each ms bootRequest

/-- A BOOT_READ sent to the server (R592). -/
def bootRead (ofs len : Nat) (s : State) : State :=
  match s.boot.net.server with
  | none => s
  | some (addr, m, _) =>
    let (bs, s) := bootMessage 0x32 (leBytes 4 ofs ++ leBytes 2 len) s
    s.send (.datagram m none (addr * 65536 + 5240) bs)

/-- Requests sent while fewer than 64 are outstanding (R592). -/
def bootReads : Nat → State → State
  | 0, s => s
  | k + 1, s =>
    match s.boot.net.server with
    | none => s
    | some (_, _, total) =>
      let n := s.boot.net
      if 64 ≤ n.outstanding.length ∨ total ≤ n.nextOfs then s
      else
        let len := min 1432 (total - n.nextOfs)
        bootReads k (bootRead n.nextOfs len (s.updBoot fun b =>
          { b with net := { b.net with outstanding := b.net.outstanding ++ [(n.nextOfs, len, 1)], nextOfs := n.nextOfs + len } }))

/-- The server counts as not answering (R122, R592). -/
def noAnswer (s : State) : State :=
  s.updBoot fun b => { b with net := { interval := b.net.interval }, fail := 0x10 }

/-- The ROM runs: its processors have not stopped (R31). -/
def romRuns (s : State) : Bool := s.boot.phase != 3 && ! inReset .control s && ! s.boot.halted

/-! ### The steps of a boot -/

/-- The image the ROM verifies or keeps (R122, R123). -/
def bootImage (s : State) : List Host.Cell := if s.boot.fromRam then s.boot.ram else s.mram.slots[s.boot.trySlot].image

/-- A verification starts: of MRAM slot n, or of boot RAM (R122). PHASE stays 4 in recovery. -/
def startVerify (slot : Option (Fin 2)) (s : State) : State :=
  s.updBoot fun b =>
    { b with verifying := true, fromRam := slot.isNone, trySlot := slot.getD b.trySlot, phase := if b.phase = 4 then 4 else 2 }

/-- One boot attempt counted (R124). DEDUCED, log entry 79. -/
def attempt (s : State) : State := s.updBoot fun b => { b with attempts := satInc b.attempts }

/-- Recovery: host ready, the boot window and the LDP boot exchange (R117, R126). -/
def recovery (s : State) : State :=
  let s := s.updBoot fun b => { b with phase := 4, window := true, hostReady := true, verifying := false, net := {}, spiWait := .none }
  bootRound (portsUp s) s

/-- The boot window opens once port 0 link 0 is trained (R122). -/
def openWindow (s : State) : State :=
  if s.host.links[(0 : Fin 4)].up then s.updBoot fun b => { b with window := true, hostReady := true } else s

/-- The ROM starts at step 1 of its source's table (R122, R124). -/
def startBoot (s : State) : State :=
  let s := s.updBoot fun b =>
    { b with phase := 1, verifying := false, retained := false, reverified := false, spiWait := .none, spiTries := 0, net := {}, window := false }
  match s.boot.source.toNat with
  | 0 => startVerify (some 0) (attempt s)
  | 1 => attempt (s.updBoot fun b => { b with spiWait := .header })
  | 2 => openWindow s
  | _ => let s := s.updBoot fun b => { b with hostReady := true }; bootRound (portsUp s) s

/-- Firmware starts: host ready, the watchdog, the records it could not enter before, the reset's entry in the journal, the
addresses of the management ports (R117, R118, R589, R628, R634). DEDUCED, log entry 81. -/
def firmwareStarts (s : State) : State :=
  let s := s.updBoot fun b => { b with phase := 3, verifying := false, window := false, hostReady := true, halted := false }
  let s := { s with wdog := { s.wdog with running := some s.wdog.tmo } }
  let late := s.faults.captured
  let s := { s with faults := { s.faults with captured := [] } }
  let s := s.each late logFault
  (jnlReset s).each (portsUp s) takeAddress

/-- The image that passed runs: its measurement, version and keys are kept (R121 to R123, R606, R617). -/
def runImage (s : State) : State :=
  let m := bootImage s
  firmwareStarts (s.updBoot fun b =>
    { b with slot := if b.fromRam then b.slot else b.trySlot
             meas := measurement m
             fwVersion := BitVec.ofNat 32 (ofLe (memRead m 20 4))
             keySlot := Fin.ofNat 4 (memGet m 6).toNat
             svn := BitVec.ofNat 32 (ofLe (memRead m 8 4))
             retained := true })

/-- An SPI load fails: two retries, then recovery (R122). -/
def spiFails (s : State) : State :=
  if s.boot.spiTries < 2 then attempt (s.updBoot fun b => { b with phase := 1, spiWait := .header, spiTries := b.spiTries + 1 })
  else recovery s

/-- A failed image moves the boot on by its source's table. In recovery both paths fill one boot RAM and the manual arbitrates nothing: a
failed image abandons a network load under way (R122, R126, R607). DESIGN CHOICE, log entry 123. -/
def imageFails (code : Nat) (s : State) : State :=
  let s := s.updBoot fun b => { b with verifying := false, fail := BitVec.ofNat 8 code }
  if s.boot.phase = 4 then s.updBoot fun b => { b with window := true, net := { interval := b.net.interval } }
  else match s.boot.source.toNat with
  | 0 => if s.boot.trySlot = 0 then startVerify (some 1) (attempt s) else recovery s
  | 1 => spiFails s
  | 2 => s.updBoot fun b => { b with phase := 1, window := true }
  | _ => s.updBoot fun b => { b with phase := 1, net := { interval := b.net.interval } }

/-- What the verification that runs finds: 0, or its failure (R607). -/
def verifyCode (s : State) : Nat := if s.boot.fromRam then verifyFail s s.boot.ram else slotFail s s.boot.trySlot

/-- Verification ends (R607). -/
def verifyEnds (s : State) : State :=
  if ! s.boot.verifying || ! romRuns s then s
  else
    let code := verifyCode s
    if code = 0 then runImage s else imageFails code s

/-- The image retained: boot RAM, or the MRAM slot that booted (R123). -/
def retainedImage (s : State) : List Host.Cell := if s.boot.fromRam then s.boot.ram else s.mram.slots[s.boot.slot].image

/-- The retained image hashes to the measurement of the last level-0 boot (R123). -/
def retainedOk (s : State) : Bool := s.boot.retained && measurement (retainedImage s) == s.boot.meas

/-- The retained image is hashed and run, or the boot starts over (R123, R124). -/
def reverify (s : State) : State :=
  if retainedOk s then firmwareStarts (s.updBoot fun b => { b with trySlot := if b.fromRam then b.trySlot else b.slot, reverified := true })
  else if s.boot.retained then startBoot (s.updBoot fun b => { b with fail := 0x0A })
  else startBoot s

/-- An SPI read completes: the header, then the image; nothing read is a failed flash read (R122, R607). -/
def spiLoaded (bytes : List Byte) (s : State) : State :=
  if ! romRuns s then s
  else
  let bad (code : Nat) : State := spiFails (s.updBoot fun b => { b with spiWait := .none, fail := BitVec.ofNat 8 code })
  let s' := s.updBoot fun b => { b with ram := memWrite b.ram 0 (bytes.take 4194304) }
  let code := verifyFail s' s'.boot.ram
  match s.boot.spiWait with
  | .none => s
  | .header =>
    if bytes.length < 4096 then bad 0x10
    else if 2 ≤ code ∧ code ≤ 4 then bad code
    else s'.updBoot fun b => { b with spiWait := .image }
  | .image =>
    if bytes.length < 4096 + bodyLen s.boot.ram then bad 0x10
    else startVerify none (s'.updBoot fun b => { b with spiWait := .none })

/-- The doorbell: the image in boot RAM is verified, whatever a network load has put there: R126 arbitrates nothing (R122, R126). DESIGN CHOICE, log entry 123. -/
def bootDoorbell (s : State) : State :=
  if ! s.boot.window || ! romRuns s then s else startVerify none (attempt (s.updBoot fun b => { b with window := false }))

/-- BOOT_OFFER: it answers a boot request that has been sent; one that comes while an image is verified is dropped (R122, R126, R592). DESIGN CHOICE, log entry 123. -/
def bootOffer (m : Fin 2) (server len : Nat) (s : State) : State :=
  if ! netBooting s || ! s.boot.net.requested || s.boot.verifying || s.boot.net.server.isSome || inReset (.mgt m) s
      || ! (decide (1 ≤ len ∧ len ≤ 4194304)) then s
  else bootReads 64 (s.updBoot fun b =>
    { b with net := { b.net with server := some (server, m, len), outstanding := [], nextOfs := 0, got := 0, requested := false } })

/-- BOOT_DATA for a request that is outstanding; the last one ends the load. Data that come while an image is verified are dropped (R122, R126,
R592). DESIGN CHOICE, log entry 123. -/
def bootData (m : Fin 2) (server ofs : Nat) (bytes : List Byte) (s : State) : State :=
  match s.boot.net.server with
  | none => s
  | some (addr, m', total) =>
    if ! netBooting s || s.boot.verifying || addr ≠ server || m' ≠ m then s
    else match s.boot.net.outstanding.find? fun r => r.1 == ofs && r.2.1 == bytes.length with
      | none => s
      | some r =>
        let s := s.updBoot fun b =>
          { b with ram := memWrite b.ram ofs bytes
                   net := { b.net with outstanding := b.net.outstanding.erase r, got := b.net.got + bytes.length } }
        if s.boot.net.got = total then startVerify none (s.updBoot fun b => { b with net := { b.net with outstanding := [] }, window := false })
        else bootReads 1 s

/-- A BOOT_READ unanswered for 10 ms (R592). -/
def bootReadRetry (ofs : Nat) (s : State) : State :=
  match s.boot.net.outstanding.find? fun r => r.1 == ofs with
  | none => s
  | some r =>
    if ! netBooting s then s
    else if 8 ≤ r.2.2 then noAnswer s
    else bootRead r.1 r.2.1 (s.updBoot fun b =>
      { b with net := { b.net with outstanding := b.net.outstanding.map fun x : Nat × Nat × Nat => if x = r then (x.1, x.2.1, x.2.2 + 1) else x } })

/-- No answer: the boot request is repeated and the interval doubles (R122). -/
def netRetry (s : State) : State :=
  if ! netBooting s || s.boot.verifying || s.boot.net.server.isSome then s
  else
    let s := s.updBoot fun b => { b with net := { interval := min 64 (2 * b.net.interval) }, fail := 0x10 }
    bootRound (portsUp s) s

/-- BOOT_DOORBELL (R122). -/
def execBootDoorbell (s : State) : Host.Outcome State Fault Refusal := .next (bootDoorbell s)

/-- NET_BOOT_RETRY (R122). DEDUCED, log entry 7. -/
def execNetBootRetry (s : State) : Host.Outcome State Fault Refusal := .next (netRetry s)

/-- BOOT_OFFER (R592). -/
def execBootOffer (m : Fin 2) (server len : Nat) (s : State) : Host.Outcome State Fault Refusal := .next (bootOffer m server len s)

/-- BOOT_DATA (R592). -/
def execBootData (m : Fin 2) (server ofs : Nat) (bytes : List Byte) (s : State) : Host.Outcome State Fault Refusal :=
  .next (bootData m server ofs bytes s)

/-- BOOT_READ_RETRY (R592). -/
def execBootReadRetry (ofs : Nat) (s : State) : Host.Outcome State Fault Refusal := .next (bootReadRetry ofs s)

end Sys2Proof.Machine
end

