-- ==== Sys2Proof/Machine/Symbols.lean ====
section
/-! DEFINITION. What is on the wire of a lane (R130, R131, R143, R147, R171, R172, R179): line levels, the Gray map, the precoder,
Manchester coding, the comma, the burst, the test patterns and their checker. -/

namespace Sys2Proof.Machine

open Sys2Proof

/-! ### Levels -/

/-- The Gray value of the bits m and l (R130). -/
def gray (m l : Bool) : Level := if m then (if l then 2 else 3) else (if l then 1 else 0)

/-- The bits m and l of a Gray value (R130). -/
def ungray (g : Level) : Bool × Bool := (decide (2 ≤ g.1), g.1 == 1 || g.1 == 2)

/-- Bits as line levels, two to a symbol and m first, through the Gray map and the precoder from its previous level on (R130, R131, R168). -/
def levelsOf : Level → List Bool → List Level
  | prev, m :: l :: bs => (gray m l - prev) :: levelsOf (gray m l - prev) bs
  | _, _ => []

/-- The bits of line levels, from the previous level on (R130, R131). -/
def bitsOf : Level → List Level → List Bool
  | _, [] => []
  | prev, p :: ps => (ungray (p + prev)).1 :: (ungray (p + prev)).2 :: bitsOf p ps

/-- The last of some levels, the one before them when there is none: p(n-1) after them (R131). -/
def lastLevel (prev : Level) (ps : List Level) : Level := ps.getLast?.getD prev

/-- Levels inverted, p for 3 - p (R132). -/
def invertLevels (inv : Bool) (ps : List Level) : List Level := if inv then ps.map fun p => 3 - p else ps

/-! ### Manchester coding, the comma, the burst -/

/-- Manchester coding: 1 as 3 then 0, 0 as 0 then 3 (R172). -/
def manchester (bs : List Bool) : List Level := bs.flatMap fun b => if b then [3, 0] else [0, 3]

/-- The bits of Manchester-coded levels: 1 where the level falls, 0 where it rises; none where a pair does neither (R172). DEDUCED, log entry 127. -/
def unManchester : List Level → Option (List Bool)
  | a :: b :: ps => if a = b then none else (unManchester ps).map (decide (b < a) :: ·)
  | [] => some []
  | _ => none

/-- The comma (R172). -/
def comma : List Level :=
  [3, 3, 3, 3, 3, 3, 3, 3, 0, 0, 0, 0, 3, 0, 3, 3, 0, 0, 3, 0, 3, 0, 0, 0, 3, 3, 3, 0, 0, 3, 0, 0]

/-- The 256 levels of the burst that leaves electrical idle (R143). -/
def burst : List Level :=
  (List.replicate 64 ([3, 0] : List Level)).flatten ++ (List.replicate 32 ([0, 1, 2, 3] : List Level)).flatten

/-- The levels of an alignment codeword with an 80-bit field block: comma, eight copies, 24 zero bits (R171). -/
def alignmentLevels (field : Nat) : List Level :=
  comma ++ manchester ((List.replicate 8 (bitsLow 80 field)).flatten ++ List.replicate 24 false)

/-- The copies of the field block in the levels of an alignment codeword that their Manchester coding lets be read, first copy first (R171). -/
def copiesIn (ps : List Level) : List (BitVec 80) :=
  (List.range 8).filterMap fun i => (unManchester ((ps.drop (32 + 160 * i)).take 160)).map fun bs => BitVec.ofNat 80 (ofBitsLow bs)

/-- The levels of a training frame: comma, control field, PRBS13 bits precoded from p(n-1) = 0 (R179). -/
def trainingLevels (field : Nat) (prbs : List Bool) : List Level := comma ++ manchester (bitsLow 64 field) ++ levelsOf 0 prbs

/-! ### Codewords -/

/-- The ten-bit symbols of bits in transmission order, most significant bit first (R168). DEDUCED, log entry 12. -/
def symbolsOf (bs : List Bool) : List Nat := (List.range (bs.length / 10)).map fun i => ofBitsHigh ((bs.drop (10 * i)).take 10)

/-- The bits of a block: the header bit, then payload bits 0 to 255 (R165). -/
def blockBits (b : Bool × BitVec 256) : List Bool := b.1 :: bitsLow 256 b.2.toNat

/-- The 2,720 bits of a data codeword of ten blocks, and the scrambler's state after it (R168, R169). -/
def codewordBits (st : BitVec 58) (bs : List (Bool × BitVec 256)) : List Bool × BitVec 58 :=
  let (msg, fin) := scramble st (bs.flatMap blockBits)
  ((rsEncode (symbolsOf msg)).flatMap (bitsHigh 10), fin)

/-! ### Test patterns -/

/-- The places of a pattern's register that are summed to its next bit, and the register's length: PRBS7 for 1, PRBS13 for 2, else
PRBS31 (R147, R157). -/
def prbsTaps (pat : Nat) : List Nat × Nat :=
  match pat with
  | 1 => ([6, 5], 7)
  | 2 => ([12, 11, 1, 0], 13)
  | _ => ([30, 27], 31)

/-- The next bit of a pattern (R147). DEDUCED, log entry 127. -/
def prbsNext (pat : Nat) (r : BitVec 31) : Bool := (prbsTaps pat).1.foldl (fun b i => b != bitAt r i) false

/-- A bit shifted into a pattern's register. -/
def prbsShift (r : BitVec 31) (b : Bool) : BitVec 31 := (r <<< 1) ||| BitVec.ofNat 31 (if b then 1 else 0)

/-- The generator's seed: all ones (R147). -/
def prbsSeed : BitVec 31 := BitVec.ofNat 31 (2 ^ 31 - 1)

/-- k bits of a pattern, and the register after them (R147). -/
def prbsRun (pat : Nat) : Nat → BitVec 31 → List Bool × BitVec 31
  | 0, r => ([], r)
  | k + 1, r =>
    let b := prbsNext pat r
    let (bs, fin) := prbsRun pat k (prbsShift r b)
    (b :: bs, fin)

/-- Errors among the last 1,024 bits a locked checker compared. -/
def Checker.recent (c : Checker) : Nat := (c.errAt.filter fun i => decide (c.since ≤ i + 1024)).length

/-- A checker loses its lock: the last 1,024 bits, or those since it locked, are taken back from both counts, and it loads anew (R148). -/
def Checker.lose (c : Checker) (k : LaneCnt) : Checker × LaneCnt :=
  ({}, { k with
    prbsLoss := satInc k.prbsLoss
    prbsBits := k.prbsBits - BitVec.ofNat 48 (min (min 1024 c.since) k.prbsBits.toNat)
    prbsErr := k.prbsErr - BitVec.ofNat 48 (min c.recent k.prbsErr.toNat) })

/-- One bit into a pattern's checker, and what it adds to the counters: it loads its register, locks after 256 bits in a row without
error, counts while locked, and is unlocked by 64 errors within 1,024 bits, which it takes back (R148). -/
def checkBit (pat : Nat) (q : Checker × LaneCnt) (b : Bool) : Checker × LaneCnt :=
  let (c, k) := q
  let want := prbsNext pat c.reg
  if ! c.locked then
    if c.fill < (prbsTaps pat).2 then ({ c with reg := prbsShift c.reg b, fill := c.fill + 1 }, k)
    else
      let run := if b = want then c.run + 1 else 0
      ({ c with reg := prbsShift c.reg b, run := run, locked := decide (256 ≤ run), since := 0, errAt := [] }, k)
  else
    let errs := if b = want then c.errAt else (c.since :: c.errAt).take 64
    let c := { c with reg := prbsShift c.reg want, since := c.since + 1, errAt := errs }
    let k := { k with prbsBits := satInc k.prbsBits, prbsErr := if b = want then k.prbsErr else satInc k.prbsErr }
    if c.recent < 64 then (c, k) else c.lose k

/-- Bits into a checker in turn. -/
def checkBits (pat : Nat) (bs : List Bool) (q : Checker × LaneCnt) : Checker × LaneCnt := bs.foldl (checkBit pat) q

/-- Bits compared since the last error by a locked checker (R181). -/
def Checker.clean (c : Checker) : Nat :=
  if ! c.locked then 0
  else match c.errAt with
    | [] => c.since
    | i :: _ => c.since - (i + 1)

end Sys2Proof.Machine
end

