-- ==== Sys2Proof/Machine/Lanes.lean ====
section
/-! DEFINITION. A lane by itself (chapter 05, and the lane's part of chapter 06): what it sends and receives symbol by symbol,
equaliser requests and adaptation, counters, error windows, the eye scan, training states, codeword lock, and the lane objects of
R156 and R207. What a lane's change does to its port is in Links. -/

namespace Sys2Proof.Machine

open Sys2Proof

/-! ### Blocks -/

/-- A block payload with its TYPE and some fields (R165, R166). -/
def payload (kind : Nat) (fields : List (Nat × Nat)) : BitVec 256 :=
  fields.foldl (fun w f => w ||| place 256 f.1 f.2) (place 256 0 kind)

/-- An entry added to place k of a list of lists. -/
def putAt {α : Type} : Nat → α → List (List α) → List (List α)
  | 0, x, [] => [[x]]
  | 0, x, c :: q => (c ++ [x]) :: q
  | k + 1, x, [] => [] :: putAt k x []
  | k + 1, x, c :: q => c :: putAt k x q

/-- The first data codeword to come from which k codewords in a row have room for one more block (R168). -/
def roomFor (k : Nat) (q : List (List (BitVec 256))) : Nat :=
  ((List.range q.length).find? fun i => (List.range k).all fun j => decide ((q.getD (i + j) []).length < 10)).getD q.length

/-- A control block that the lane will send in k consecutive data codewords, the first with room. -/
def Lane.enqueue (l : Lane) (k : Nat) (x : BitVec 256) : Lane :=
  let i := roomFor k l.txq
  { l with txq := (List.range k).foldl (fun q j => putAt (i + j) x q) l.txq }

/-- A block given to lane n to send. -/
def sendBlock (n : Fin 64) (x : BitVec 256) (s : State) : State := s.updLane n fun l => l.enqueue 1 x

/-- A block given to lane n to send twice, in two consecutive data codewords. -/
def sendTwice (n : Fin 64) (x : BitVec 256) (s : State) : State := s.updLane n fun l => l.enqueue 2 x

/-- The least version from which a control block may be sent; none for a reserved TYPE (R166, R217). -/
def blockFrom (kind : Nat) : Option Nat :=
  if kind ≤ 0x03 ∨ kind = 0x10 ∨ kind = 0x11 ∨ kind = 0x12 ∨ kind = 0x13 ∨ kind = 0x18 ∨ kind = 0x19 ∨ kind = 0x20 then some 1
  else if kind = 0x21 then some 2
  else if kind = 0x14 ∨ kind = 0x30 ∨ kind = 0x31 then some 3
  else none

/-- An IDLE block, and the blocks of a data codeword filled up with them (R166, R168). -/
def fillIdle (bs : List (Bool × BitVec 256)) : List (Bool × BitVec 256) := (bs ++ List.replicate (10 - bs.length) (true, 0)).take 10

/-! ### Symbols sent -/

/-- Symbols that leave lane n, TX_INV applied: on KTX, unless the lane is looped, whose KTX its transmitter does not reach (R132, R150). -/
def drive (n : Fin 64) (ps : List Level) (s : State) : State :=
  if fld s.lanes[n].ctl 30 29 = 0 then s.send (.symbols n (invertLevels s.lanes[n].txInv ps)) else s

/-- The levels of a data codeword of ten blocks: scrambled, encoded, through the Gray map and the precoder (R130, R131, R168, R169). -/
def Lane.dataCodeword (l : Lane) (bs : List (Bool × BitVec 256)) : List Level × Lane :=
  let (bits, st) := codewordBits l.scr bs
  let ps := levelsOf l.txPrev bits
  (ps, { l with scr := st, txPrev := lastLevel l.txPrev ps })

/-- A data codeword with some control blocks sent now on lane n. -/
def sendNow (n : Fin 64) (xs : List (BitVec 256)) (s : State) : State :=
  let (ps, l) := s.lanes[n].dataCodeword (fillIdle (xs.map fun x => (true, x)))
  drive n ps (s.updLane n fun _ => l)

/-- The transmitter leaves electrical idle with the burst, after which p(n-1) is 0 (R143). DEDUCED, log entry 128. -/
def leaveIdle (n : Fin 64) (s : State) : State :=
  if s.lanes[n].txIdle then drive n burst (s.updLane n fun l => { l with txIdle := false, txPrev := 0 }) else s

/-! ### Transmit taps -/

/-- The presets (R135). -/
def presetTaps : Nat → Taps
  | 0 => ⟨0, 0⟩ | 1 => ⟨0, 4⟩ | 2 => ⟨2, 6⟩ | 3 => ⟨4, 8⟩ | _ => ⟨2, 12⟩

/-- Taps within R134. -/
def tapsOk (t : Taps) : Bool := decide (t.pre ≤ 10 ∧ t.post ≤ 16 ∧ t.pre + t.post ≤ 20)

/-- A tap code moved by a request: 1 up, 2 down (R180). -/
def moveCode (code req : Nat) : Int := if req = 1 then code + 1 else if req = 2 then (code : Int) - 1 else code

/-- The status of a tap request, or the new taps: pre-cursor tested first, both or none moved (R136). -/
def tapRequest (t : Taps) (pre post : Nat) : Fin 4 × Taps :=
  let a := moveCode t.pre pre
  let b := moveCode t.post post
  if a < 0 then (1, t)
  else if 10 < a ∨ pre = 1 ∧ 20 < a + t.post ∧ post ≠ 2 then (2, t)
  else if b < 0 then (1, t)
  else if 16 < b ∨ 20 < a + b then (2, t)
  else (0, ⟨a.toNat, b.toNat⟩)

/-- A partner's new request applied and answered (R136, R181). -/
def ffeRequest (field : BitVec 64) (l : Lane) (free : Nat) : Lane :=
  let seq := bitAt field 18
  let l := { l with ansSeq := seq }
  if bitAt l.ctl 16 then { l with ans := 3 }
  else if bitAt field 14 then
    let p := fld field 17 15
    if p ≤ 4 then { l with ans := 0, taps := presetTaps p, presetDue := false } else { l with ans := Fin.ofNat 4 free }
  else
    let (a, t) := tapRequest l.taps (fld field 11 10) (fld field 13 12)
    { l with ans := a, taps := t }

/-! ### Counters and windows -/

/-- The lane's counters changed by f, unless HOLD (R153). -/
def Lane.count (l : Lane) (f : LaneCnt → LaneCnt) : Lane := if l.hold then l else { l with cnt := f l.cnt }

/-- Set bits of a number below 2^10. -/
def weight10 (x : Nat) : Nat := ((bitsLow 10 x).filter id).length

/-- PRBS_RX selects an unframed pattern (R157). -/
def Lane.unframed (l : Lane) : Bool := decide (1 ≤ fld l.ctl 23 21 ∧ fld l.ctl 23 21 ≤ 3)

/-- The codeword lock stands (R175). -/
def Lane.locked (l : Lane) : Bool :=
  match l.cwLock with
  | .locked => true
  | .exitLock _ => true
  | _ => false

/-- The eye point stops when symbol lock is lost: what it has counted until then depends on the symbols, and is free within the
point's length (R155). DONE stays 0. DESIGN CHOICE, log entry 129. -/
def Lane.abortEye (l : Lane) : Lane :=
  if l.eye.running then
    let cnt := Config.freeNat l.eye.key % (2 ^ fld l.eye.now 26 21 + 1)
    { l with eye := { l.eye with running := false, abort := true, cnt := BitVec.ofNat 48 cnt
                                 err := BitVec.ofNat 48 (Config.freeNat (l.eye.key + 1) % (cnt + 1)) } }
  else l

/-- Bits into the pattern checker; its counters stand still while HOLD is 1 (R148, R149, R153). -/
def Lane.check (l : Lane) (bs : List Bool) : Lane :=
  let (c, k) := checkBits (fld l.ctl 23 21) bs (l.chk, l.cnt)
  { l with chk := c, cnt := if l.hold then l.cnt else k }

/-! ### Adaptation -/

/-- How far adaptation goes in the lane's condition: CTLE codes in one step, the symbols to such a step, and the symbols to one code of
each DFE tap, none where the DFE is frozen (R140). -/
def Lane.pace (l : Lane) : Option (Nat × Nat × Option Nat) :=
  match l.tstate with
  | .pattern | .lock => some (4, 2 ^ 18, some 256)
  | .exchange | .active => if l.idleCount < 65536 then some (2, 2 ^ 20, some 4096) else some (1, 2 ^ 20, none)
  | _ => none

/-- A code moved by at most d either way within its range, as a free value says (R139, R140). -/
def strayCode (lo hi : Int) (d : Nat) (free : Nat) (x : Int) : Int := clampI lo hi (x + (free % (2 * d + 1) : Nat) - d)

/-- The largest code of DFE tap i + 1 (R139). -/
def dfeMost (i : Fin 12) : Int := if i.1 = 0 then 77 else if i.1 < 4 then 32 else 13

/-- The equaliser after 1,360 more symbols. How the channel moves it is open, and free within the limits of R139 and R140: f i is the
i-th free value. DESIGN CHOICE, log entry 130. -/
def Lane.adapt (l : Lane) (f : Nat → Nat) : Lane :=
  match l.pace with
  | none => l
  | some (codes, every, dfe) =>
    let now := l.adapted + 1360
    let steps := fun (d : Nat) => now / d - l.adapted / d
    { l with
      adapted := now
      vga := f 0 % 37
      ctle := (strayCode 0 80 (codes * steps every) (f 1) l.ctle).toNat
      dfe := match dfe with
        | some d => mapAll l.dfe fun i x =>
            BitVec.ofNat 8 (ofSigned 8 (strayCode (-(dfeMost i)) (dfeMost i) (steps d) (f (2 + i.1)) (toSigned 8 x.toNat)))
        | none => l.dfe }

/-- Lane n adapts on the symbols just received. -/
def adaptLane (n : Fin 64) (s : State) : State :=
  { s.updLane n (fun l => l.adapt fun i => Config.freeNat (s.draw + i)) with draw := s.draw + 14 }

/-! ### Codewords -/

/-- The ten blocks of 2,570 message bits: header bit first, payload bit 0 next (R165, R168). -/
def blocksOf (bits : List Bool) : List (Bool × BitVec 256) :=
  (List.range 10).map fun i =>
    let b := (bits.drop (257 * i)).take 257
    (b.headD false, BitVec.ofNat 256 (ofBitsLow b.tail))

/-- The message bits of a codeword's first 257 symbols, most significant bit first (R168). DEDUCED, log entry 12. -/
def messageBits (w : List Nat) : List Bool := (w.take 257).flatMap (bitsHigh 10)

/-- A block is an IDLE block (R166). -/
def isIdle (b : Bool × BitVec 256) : Bool := b.1 && fld b.2 7 0 == 0

/-- A control block that the receiver ignores and counts (R167). -/
def isUnknown (ver : Nat) (b : Bool × BitVec 256) : Bool :=
  b.1 && match blockFrom (fld b.2 7 0) with
    | some v => decide (max ver 1 < v)
    | none => true

/-- What became of a data codeword: not looked at, uncorrectable, or its ten blocks. -/
inductive Heard where
  | nothing | bad | blocks (bs : List (Bool × BitVec 256))
deriving DecidableEq, Repr

/-- Levels as the receiver slices them (R132). -/
def Lane.sliced (l : Lane) (ps : List Level) : List Level := invertLevels l.rxInv ps

/-- CSEQ of the codeword last received (R174). -/
def Lane.cseq (l : Lane) : Nat := (l.rxAseq * 1024 + l.rxIndex + 2 ^ 42 - 1) % 2 ^ 42

/-- The bits of a data codeword on a lane with codeword lock (R140, R146, R152, R165 to R170). -/
def Lane.decode (l : Lane) (bits : List Bool) : Lane × Heard :=
  let l := { l with rxIndex := l.rxIndex + 1 }
  let l := l.count fun c => { c with cwTotal := satInc c.cwTotal }
  match rsDecode (symbolsOf bits) with
  | none =>
    let l := l.count fun c => { c with cwUncorr := satInc c.cwUncorr }
    ({ l with uncorrRun := l.uncorrRun + 1, winUncorr := l.winUncorr + 1, idleCount := 0
              descr := (scramble l.descr (List.replicate 2570 false)).2 }, .bad)
  | some (fixed, errs) =>
    let flips := (errs.map fun e => weight10 e.2).sum
    let l := if errs.isEmpty then l else
      l.count fun c => { c with cwCorr := satInc c.cwCorr, corrSym := satAdd c.corrSym errs.length, corrBits := satAdd c.corrBits flips }
    let (msg, st) := scramble l.descr (messageBits fixed)
    let bs := blocksOf msg
    let l := { l with uncorrRun := 0, winCorr := l.winCorr + flips, descr := st, idleCount := if bs.all isIdle then l.idleCount + 1 else 0 }
    let l := l.count fun c => { c with unkBlk := satAdd c.unkBlk (bs.filter (isUnknown l.ver.1)).length }
    (if fld l.ctl 23 21 = 4 then l.check ((bs.filter fun b => ! b.1).flatMap fun b => bitsLow 256 b.2.toNat) else l, .blocks bs)

/-- The 1,360 levels of a data codeword, or as many symbols of an unframed pattern: sliced, decoded, and checked or taken apart
(R130 to R132, R147 to R149). -/
def Lane.codeword (l : Lane) (levels : List Level) : Lane × Heard :=
  let ps := l.sliced levels
  let bits := bitsOf l.rxPrev ps
  let l := { l with rxPrev := lastLevel l.rxPrev ps }
  if l.unframed then (l.check bits, .nothing)
  else if ! l.locked then (l, .nothing)
  else l.decode bits

/-! ### Alignment codewords -/

/-- The first copy of a field block whose CRC is valid (R173). -/
def validCopy (cs : List (BitVec 80)) : Option (BitVec 80) := cs.find? fun c => crc16 64 (fld c 63 0) == fld c 79 64

/-- What an alignment codeword does to codeword lock (R175). -/
inductive LockEvent where
  | none | gained | lost
deriving DecidableEq, Repr

/-- The lock after a regular position with a valid field block, or without one (R175). -/
def nextLock (l : CwLock) (aseq : Option Nat) : CwLock × LockEvent :=
  match l, aseq with
  | .search, _ => (.found, .none)
  | .found, some a => (.confirm a, .none)
  | .found, none => (.found, .none)
  | .confirm a, some b => if b = (a + 1) % 2 ^ 32 then (.locked, .gained) else (.confirm b, .none)
  | .confirm _, none => (.found, .none)
  | .exitLock a, some b => if b = (a + 1) % 2 ^ 32 then (.locked, .none) else (.search, .lost)
  | .exitLock _, none => (.search, .lost)
  | .locked, _ => (.locked, .none)

/-- A regular position, or an exit alignment codeword, without a valid copy. It counts in CW_UNCORR, but the window does not hold it
as an uncorrectable codeword. The scrambler goes on from the seed that was due (R169, R173 to R175). DESIGN CHOICE, log entry 131. -/
def Lane.blindAlignment (l : Lane) (exit : Bool) : Lane × LockEvent :=
  if exit then
    ({ l with rxPos := l.rxIndex, rxIndex := l.rxIndex + 1, descr := scrambleSeed l.rxLid l.rxIndex l.rxAseq }, .none)
  else
    let missed := if l.locked then l.missed + 1 else 0
    let aseq := (l.rxAseq + 1) % 2 ^ 32
    let (k, e) := nextLock l.cwLock Option.none
    if k = .locked ∧ 4 ≤ missed then ({ l with cwLock := .search, missed := 0 }, .lost)
    else ({ l with cwLock := k, missed := missed, rxPos := 0, rxIndex := 1, rxAseq := aseq, descr := scrambleSeed l.rxLid 0 aseq }, e)

/-- An alignment codeword whose field block is c; windows run from codeword lock on (R145, R146, R169, R173 to R175). -/
def Lane.readAlignment (l : Lane) (c : BitVec 80) (now : Nat) : Lane × LockEvent :=
  let aseq := fld c 31 0
  let pos := fld c 41 32
  let exit := decide (pos ≠ 0)
  let (k, e) := if exit then (if l.locked then (l.cwLock, .none) else (.exitLock aseq, .gained)) else nextLock l.cwLock (some aseq)
  let l := if e = .gained ∧ ¬ l.exitCheck then { l with winCorr := 0, winUncorr := 0, crossed := 0, ferNow := l.ferLimit } else l
  ({ l with cwLock := k, missed := 0, rxAseq := aseq, rxPos := pos, rxIndex := pos + 1, rxLid := fld c 47 42, rxStandby := bitAt c 51
            partnerLock := bitAt c 52, lockedSeen := l.lockedSeen || bitAt c 52, rxAlignAt := if exit then l.rxAlignAt else now
            descr := scrambleSeed (fld c 47 42) pos aseq }, e)

/-- The levels of an alignment codeword on a lane with symbol lock: what the lane takes from it, and what becomes of its lock. A lane
that searches must find the comma first. The flag says, where no copy is valid, that the position is not a regular one (R171 to R175). -/
def Lane.alignment (l : Lane) (levels : List Level) (exit : Bool) (now : Nat) : Lane × LockEvent :=
  let ps := l.sliced levels
  let counts := l.locked && ! l.unframed
  let l := { l with rxPrev := 0 }
  let l := if counts then l.count fun c => { c with cwTotal := satInc c.cwTotal } else l
  if l.cwLock = .search ∧ ps.take 32 ≠ comma then (l, .none)
  else match validCopy (copiesIn ps) with
    | none => (if counts then l.count fun c => { c with cwUncorr := satInc c.cwUncorr } else l).blindAlignment exit
    | some c => l.readAlignment c now

/-! ### Training states -/

/-- The time-out of a state, in ms (R182, R209). -/
def Lane.tmoOf (l : Lane) : TState → Nat
  | .detect => fld l.trnTmo 31 24 | .pattern => fld l.trnTmo 23 16 | .lock => fld l.trnTmo 15 8 | .exchange => fld l.trnTmo 7 0 | _ => 0

/-- The taps loaded from PRESET when it has changed since they last were: at the Detect after a level-0 reset or EN written 1 (R163, R164).
With FFE_MAN 1 the taps stay TXFFE's, and the load that was due is not made later. DESIGN CHOICE, log entry 132. -/
def Lane.loadPreset (l : Lane) : Lane :=
  if l.presetDue then { l with taps := if bitAt l.ctl 16 then l.taps else presetTaps (fld l.ctl 19 17), presetDue := false } else l

/-- What every change of training state ends: VER is 0 before Exchange, and codewords under way belong to the state left (R173, R182, R208). -/
def Lane.leave (l : Lane) (t : TState) : Lane :=
  { l with tstate := t, tmoNow := l.tmoOf t, ver := if t = .active then l.ver else 0, txq := if t = .active then l.txq else [], slots := [], exitLeft := 0
           idleLead := none }

/-- The lane's own part of entering a training state (R132, R163, R164, R179, R182). -/
def Lane.enter (l : Lane) (t : TState) : Lane :=
  let fresh := decide (l.tstate = .detect)
  let l := l.leave t
  match t with
  | .disabled => { l with txIdle := true, sigdet := false, cdrLock := false, symLock := false, rxIdle := false, idleAnnounced := false
                          cwLock := .search, backoff := false, countdown := none, chk := {} }.abortEye
  | .detect =>
    { l with txInv := bitAt l.ctl 28, rxInv := bitAt l.ctl 27, cwLock := .search, countdown := none, rxIdle := false
             idleAnnounced := false, uncorrRun := 0, missed := 0, trainGen := prbsSeed, trainChk := {} }
  | .pattern =>
    ({ l with goodFrames := 0, partnerReady := 0, countdown := none, ansSeq := false, ans := 0, reqSeq := false, req := 0, cwLock := .search
              trainGen := if fresh then l.trainGen else prbsSeed, trainChk := {} }.count fun c => { c with attempts := satInc c.attempts }).abortEye
  | .lock => { l with cwLock := .search, lockedSeen := false, uncorrRun := 0, missed := 0, countdown := none }
  | .exchange => { l with ownAcked := false, partnerAcked := false, reduceLogged := false, caps := none, capsDue := 0 }
  | .active => { l with timeouts := 0, backoff := false }

/-- A lane enters a training state: in Detect it sends, so its transmitter leaves electrical idle; each change of TSTATE is published
(R143, R182, R418). -/
def enterT (n : Fin 64) (t : TState) (s : State) : State :=
  let was := s.lanes[n].tstate
  let s := s.updLane n fun l => l.enter t
  let s := if t = .detect then leaveIdle n s else s
  if was = t then s else publish (0x0080 + n.1) s

/-- The back-off interval in ms (R183). -/
def Lane.backoffMs (l : Lane) : Nat := if l.timeouts = 0 then 1 else min 1000 (2 ^ (min (l.timeouts - 1) 10))

/-- The receiver's state on loss of signal (R141). -/
def Lane.lose (l : Lane) : Lane :=
  { l with los := true, sigdet := false, cdrLock := false, symLock := false, chk := {} }.abortEye

/-- The receiver meets R181. -/
def Lane.rxReady (l : Lane) : Bool := l.cdrLock && decide (8 ≤ l.goodFrames) && decide (2 ^ 20 ≤ l.trainChk.clean)

/-- A valid control field: the partner's request answered, and a new request of the device's own once the last is answered (R180, R181). -/
def Lane.controlRead (l : Lane) (field : BitVec 64) (wish free : Nat) : Lane :=
  let l := { l with partnerReady := if bitAt field 6 then l.partnerReady + 1 else 0 }
  let l := if bitAt field 18 != l.ansSeq then ffeRequest field l free else l
  if bitAt field 21 == l.reqSeq && wish % 256 != 0 then { l with reqSeq := ! l.reqSeq, req := wish % 256 } else l

/-- The levels of a training frame in Pattern: comma, control field, PRBS13 (R172, R179 to R182). The first flag says that the frame
follows the last one at the 1,360-symbol spacing; wish is the request that the receiver's eye margin calls for, as bits [17:10] of the
field, 0 for none. -/
def Lane.trainingFrame (l : Lane) (levels : List Level) (spaced : Bool) (wish free : Nat) : Lane :=
  let ps := l.sliced levels
  let found := decide (ps.take 32 = comma)
  let field := (unManchester ((ps.drop 32).take 128)).map fun bs => BitVec.ofNat 64 (ofBitsLow bs)
  let good := match field with
    | some x => found && crc16 48 (fld x 47 0) == fld x 63 48
    | none => false
  let body := ps.drop 160
  let l := { l with rxPrev := lastLevel 0 body, goodFrames := if ! good then 0 else if spaced then l.goodFrames + 1 else 1
                    trainChk := if found then (checkBits 2 (bitsOf 0 body) (l.trainChk, {})).1 else l.trainChk }
  let l := match field, good with
    | some x, true => l.controlRead x wish free
    | _, _ => { l with partnerReady := 0 }
  if l.rxReady && decide (3 ≤ l.partnerReady) && l.countdown.isNone then { l with countdown := some 6 } else l

/-- The control field that lane n sends: requests, answers and RX_READY only in Pattern (R180 to R182). -/
def Lane.controlField (l : Lane) (n : Nat) : Nat :=
  let own := if l.tstate = .pattern then
      (if l.rxReady then 64 else 0) + l.req <<< 10 + (if l.reqSeq then 1 <<< 18 else 0) + l.ans.1 <<< 19 + (if l.ansSeq then 1 <<< 21 else 0)
    else 0
  let f := n + l.countdown.getD 7 <<< 7 + own + l.taps.pre <<< 22 + l.taps.post <<< 26
  f + crc16 48 f <<< 48

/-! ### Capability exchange -/

/-- The fields of a CAPS block (R185). -/
def capsOf (x : BitVec 256) : Caps :=
  { verMax := fld x 9 8, lid := fld x 15 10, width := fld x 17 16, pli := fld x 20 18, standby := bitAt x 21, headPort := fld x 23 22
    partnerId := fld x 55 24, trigDelay := fld x 71 56, pauseStop := fld x 79 72, replayDepth := fld x 95 80, sbCapable := bitAt x 96 }

/-- The version a partner is taken as offering, and how many reductions that took (R186). -/
def offered (c : Caps) : Nat × Nat :=
  let (v, k) := if c.verMax = 3 ∧ c.replayDepth < 4096 then (2, 1) else (c.verMax, 0)
  if 2 ≤ v ∧ ¬ (1 ≤ c.pauseStop ∧ c.pauseStop ≤ 32) then (1, k + 1) else (v, k)

/-! ### Lane objects -/

/-- The lane objects (R156, R207). -/
inductive LaneReg where
  | lanectl | lanestat | txffe | rxeq | dfe (k : Fin 3) | prbsBits | prbsErr | prbsLoss | cwTotal | cwCorr | cwUncorr | corrSym | corrBits
  | ferLimit | cntctl | eyectl | eyeErr | eyeCnt | trainstat | trnTmo | trnAttempts | backoff | unkBlk
deriving DecidableEq, Repr

/-- The lane objects by sub (R156, R207). -/
def LaneReg.table : List (Nat × LaneReg) :=
  [(0x01, .lanectl), (0x02, .lanestat), (0x03, .txffe), (0x04, .rxeq), (0x05, .dfe 0), (0x06, .dfe 1), (0x07, .dfe 2), (0x08, .prbsBits),
   (0x09, .prbsErr), (0x0A, .prbsLoss), (0x0B, .cwTotal), (0x0C, .cwCorr), (0x0D, .cwUncorr), (0x0E, .corrSym), (0x0F, .corrBits),
   (0x10, .ferLimit), (0x11, .cntctl), (0x12, .eyectl), (0x13, .eyeErr), (0x14, .eyeCnt), (0x15, .trainstat), (0x16, .trnTmo),
   (0x17, .trnAttempts), (0x18, .backoff), (0x19, .unkBlk)]

/-- What the tables say of a lane object. -/
def LaneReg.desc : LaneReg → Desc
  | .lanectl => .rw .bits32 1 5 | .lanestat => .status | .txffe => .rw .bits32 2 | .rxeq => .ro .bits32 | .dfe _ => .ro .bits32
  | .prbsBits => .ro .u48 | .prbsErr => .ro .u48 | .prbsLoss => .ro .u32 | .cwTotal => .ro .u48 | .cwCorr => .ro .u48 | .cwUncorr => .ro .u48
  | .corrSym => .ro .u48 | .corrBits => .ro .u48 | .ferLimit => (Desc.rwp .u32 2 4).within 1 22282240 | .cntctl => .rw .bits32 1
  | .eyectl => .rw .bits32 2 4 | .eyeErr => .ro .u48 | .eyeCnt => .ro .u48 | .trainstat => .ro .bits32 | .trnTmo => .rw .bits32 2 4
  | .trnAttempts => .ro .u32 | .backoff => .ro .u32 | .unkBlk => .ro .u32

/-- LANESTAT (R158). -/
def Lane.stat (l : Lane) : Word :=
  flagBit 31 l.sigdet ||| flagBit 30 l.los ||| flagBit 29 l.cdrLock ||| flagBit 28 l.symLock ||| flagBit 27 l.rxIdle
  ||| flagBit 26 (decide (65536 ≤ l.idleCount)) ||| flagBit 25 l.chk.locked ||| flagBit 24 l.calFail ||| flagBit 23 l.exitErr
  ||| flagBit 22 l.errLimit ||| place 32 0 l.cnt.exitFail.toNat

/-- The settings of EYECTL: EYE, DWELL, VOFF and POFF (R162). -/
def eyectlMask : Word := maskOf 28 21 ||| maskOf 15 0

/-- EYECTL (R162). -/
def Eye.word (e : Eye) : Word := (e.ctl &&& eyectlMask) ||| flagBit 31 e.running ||| flagBit 30 e.done ||| flagBit 29 e.abort

/-- What a lane object reads; membership of a port and the standby role are given. -/
def LaneReg.read (l : Lane) (inPort standby : Bool) : LaneReg → Val
  | .lanectl => bv l.ctl | .lanestat => bv l.stat
  | .txffe => bv (place 32 16 (40 - l.taps.pre - l.taps.post) ||| place 32 8 l.taps.post ||| place 32 0 l.taps.pre)
  | .rxeq => bv (place 32 24 l.ctle ||| place 32 16 l.vga)
  | .dfe k => .num (ofLe ((List.finRange 4).map fun i => l.dfe[(⟨4 * k.1 + i.1, by omega⟩ : Fin 12)]))
  | .prbsBits => bv l.cnt.prbsBits | .prbsErr => bv l.cnt.prbsErr | .prbsLoss => bv l.cnt.prbsLoss | .cwTotal => bv l.cnt.cwTotal
  | .cwCorr => bv l.cnt.cwCorr | .cwUncorr => bv l.cnt.cwUncorr | .corrSym => bv l.cnt.corrSym | .corrBits => bv l.cnt.corrBits
  | .ferLimit => bv l.ferLimit | .cntctl => bv (flagBit 1 l.hold) | .eyectl => bv l.eye.word | .eyeErr => bv l.eye.err | .eyeCnt => bv l.eye.cnt
  | .trainstat => bv (place 32 29 l.tstate.code ||| place 32 27 l.ver.1 ||| flagBit 26 l.locked ||| flagBit 25 l.partnerLock ||| flagBit 24 inPort
      ||| flagBit 23 standby ||| place 32 17 ((l.caps.map (·.lid)).getD 0) ||| place 32 14 ((l.caps.map (·.pli)).getD 0) ||| place 32 11 l.lastTmo.code)
  | .trnTmo => bv l.trnTmo | .trnAttempts => bv l.cnt.attempts | .backoff => .num l.backoffMs | .unkBlk => bv l.cnt.unkBlk

/-- The own checks of a lane object (R150, R151, R155, R157, R159, R209); whether the lane belongs to a port is given. -/
def LaneReg.check (l : Lane) (inPort : Bool) (r : LaneReg) (v : Val) : Status :=
  let w := v.word
  match r with
  | .lanectl => firstRefusal
      [(decide (fld w 30 29 = 3) || decide (5 ≤ fld w 26 24) || decide (5 ≤ fld w 23 21) || decide (5 ≤ fld w 19 17), .range),
       (inPort && (decide (fld w 26 24 ≠ 0) || decide (fld w 23 21 ≠ 0) || decide (fld w 30 29 ≠ 0)), .state)]
  | .txffe => firstRefusal [(! bitAt l.ctl 16, .state), (! tapsOk ⟨fld w 3 0, fld w 12 8⟩, .range)]
  | .eyectl =>
    let poff := toSigned 8 (fld w 7 0)
    firstRefusal
      [(bitAt w 31 && l.eye.running, .busy),
       (decide (fld w 26 21 < 10) || decide (34 < fld w 26 21) || decide (poff < -32) || decide (31 < poff) || decide (fld w 15 8 = 0x80)
          || decide (fld w 28 27 = 3), .range),
       (bitAt w 31 && ! l.symLock, .state)]
  | .trnTmo => firstRefusal [(decide (fld w 31 24 = 0) || decide (fld w 23 16 = 0) || decide (fld w 15 8 = 0) || decide (fld w 7 0 = 0), .range)]
  | _ => .ok

/-- The fields of LANECTL (R157). -/
def lanectlMask : Word := maskOf 31 21 ||| maskOf 19 16

/-- What an accepted write does to the lane itself; EN's effect on the training state is the caller's (R163). CLEAR zeroes every counter
of the lane, UNK_BLK, TRN_ATTEMPTS and EXIT_FAIL among them (R153). START clears DONE and ABORT and zeroes EYE_ERR and EYE_CNT. DESIGN CHOICE, log entry 129. DEDUCED, log entry 133. -/
def LaneReg.write (l : Lane) (r : LaneReg) (v : Val) : Lane :=
  let w := v.word
  match r with
  | .lanectl =>
    let newRx := decide (fld w 23 21 ≠ fld l.ctl 23 21)
    let newTx := decide (fld w 26 24 ≠ fld l.ctl 26 24)
    { l with ctl := w &&& lanectlMask, presetDue := l.presetDue || decide (fld w 19 17 ≠ fld l.ctl 19 17)
             chk := if newRx then {} else l.chk, gen := if newTx then prbsSeed else l.gen }
  | .lanestat => { l with exitErr := keepSticky l.exitErr (bitAt w 23), errLimit := keepSticky l.errLimit (bitAt w 22) }
  | .txffe => { l with taps := ⟨fld w 3 0, fld w 12 8⟩ }
  | .ferLimit => { l with ferLimit := w }
  | .cntctl => { l with hold := bitAt w 1, cnt := if bitAt w 0 then {} else l.cnt }
  | .eyectl =>
    let c := w &&& eyectlMask
    { l with eye := if bitAt w 31 then { ctl := c, now := c, running := true } else { l.eye with ctl := c } }
  | .trnTmo => { l with trnTmo := w }
  | _ => l

/-- A lane with a reset's effect that keeps its configuration and equaliser (R91, R153, R164, R207). -/
def Lane.reset (l : Lane) : Lane :=
  { ({} : Lane) with
    ctl := l.ctl, taps := l.taps, presetDue := l.presetDue, ctle := l.ctle, vga := l.vga, dfe := l.dfe, ferLimit := l.ferLimit
    ferNow := l.ferLimit, trnTmo := l.trnTmo, calFail := l.calFail, txInv := l.txInv, rxInv := l.rxInv, hold := l.hold
    eye := { ctl := l.eye.ctl } }

end Sys2Proof.Machine
end

