-- ==== Sys2Proof/Machine/Pixels.lean ====
section
/-! DEFINITION. The arithmetic of the pixel pipelines, sample by sample: stages 1 to 7, the packer with its compressed
bitstream, and the Tally engine's detection (chapters 08, 09 and 10). Nothing here knows of the device's state. -/

namespace Sys2Proof.Machine

open Sys2Proof

/-! ### Geometry -/

/-- WIDTH of GEOM (R234). -/
def geomW (g : Word) : Nat := fld g 29 16 + 1
/-- HEIGHT of GEOM (R234). -/
def geomH (g : Word) : Nat := fld g 13 0 + 1

/-- What a source's frames look like (R230, R234, R235). -/
structure Shape where
  width : Nat
  height : Nat
  channels : Nat
  pixelBits : Nat
  /-- T, the taps. -/
  taps : Nat
  layout : Nat
  exposures : Nat
deriving DecidableEq, Repr

/-- Samples of a frame. -/
def Shape.count (g : Shape) : Nat := g.width * g.height * g.channels

/-- The divisibility that a layout needs (R241). -/
def layoutFits (layout taps width height : Nat) : Bool :=
  match layout with
  | 1 => width % taps == 0
  | 2 => width % taps == 0
  | 3 => width % taps == 0
  | 4 => width % 4 == 0 && height % 2 == 0
  | _ => true

/-! ### Stage 1 -/

/-- Link line and link pixel that stage 1 places at a row and column (R240). -/
def placed (g : Shape) (row col : Nat) : Nat × Nat :=
  let m := g.width / g.taps
  match g.layout with
  | 2 => (row, col % m * g.taps + col / m)
  | 3 =>
    let t := col / m
    (row, (if t % 2 = 0 then col % m else m - 1 - col % m) * g.taps + t)
  | 4 =>
    let top := decide (row < g.height / 2)
    let k := if top then row else g.height - 1 - row
    let right := decide (g.width / 2 ≤ col)
    let s' := if right then g.width - 1 - col else col
    let t := (if top then 0 else 2) + (if right then 1 else 0)
    (2 * k + s' / (g.width / 4), 4 * (s' % (g.width / 4)) + t)
  | _ => (row, col)

/-- Row and column at which stage 1 places pixel j of link line L (R240, R243). -/
def placeOf (g : Shape) (pass : Bool) (line j : Nat) : Nat × Nat :=
  let m := g.width / g.taps
  let s := j / g.taps
  let t := j % g.taps
  if pass then (line, j)
  else match g.layout with
    | 2 => (line, t * m + s)
    | 3 => (line, t * m + (if t % 2 = 0 then s else m - 1 - s))
    | 4 =>
      let s' := s + line % 2 * (g.width / 4)
      (if t < 2 then line / 2 else g.height - 1 - line / 2, if t % 2 = 0 then s' else g.width - 1 - s')
    | _ => (line, j)

/-- Rows from the top that stage 1 has sent on after n whole link lines of a frame: in layout 4 a row pair fills two rows, and the bottom half
waits for the whole frame (R240, R242). -/
def rowsSent (g : Shape) (pass : Bool) (n : Nat) : Nat :=
  if g.layout = 4 ∧ ! pass ∧ n < g.height then n / 2 else n

/-- Rows that have left stage 4, which holds one line back (R244). -/
def rowsOut (g : Shape) (pass : Bool) (n : Nat) : Nat :=
  if g.height ≤ n then g.height else rowsSent g pass n - 1

/-- Line L of the frame travels on port L mod NPORTS (R216). -/
def linkSample (g : Shape) (parts : List (Array Nat)) (line k : Nat) : Nat :=
  let n := max parts.length 1
  (parts.getD (line % n) #[]).getD (line / n * (g.width * g.channels) + k) 0

/-- The places of a frame in raster order: row, column, channel. -/
def raster (w h c : Nat) : List (Nat × Nat × Nat) :=
  (List.range h).flatMap fun r => (List.range w).flatMap fun j => (List.range c).map fun k => (r, j, k)

/-- Link samples of a frame in raster order (R216, R240, R243). -/
def reordered (g : Shape) (pass : Bool) (parts : List (List Nat)) : List Nat :=
  let ps := parts.map (·.toArray)
  (raster g.width g.height g.channels).map fun (r, j, k) =>
    let (l, p) := if pass then (r, j) else placed g r j
    linkSample g ps l (p * g.channels + k)

/-- Widening to 24 bits (R239). -/
def widen (b v : Nat) : Nat := v * 2 ^ (24 - b)

/-! ### Stage 2 -/

/-- Knot i of a linearisation table (R245, R246). -/
def LutTab.knot : LutTab → Nat → Nat
  | .identity, i => 16384 * i
  | .knots ks, i => ks.getD i 0

/-- One sample linearised (R245). -/
def linearise (t : LutTab) (w : Nat) : Nat :=
  let u := w / 256
  let i := u / 64
  let f := u % 64
  let d : Int := if i < 1023 then (t.knot (i + 1) : Int) - t.knot i else (t.knot 1023 : Int) - t.knot 1022
  (clampI 0 (2 ^ 24 - 1) (t.knot i + (d * f + 32) / 64)).toNat

/-! ### Stage 3 -/

/-- One sample merged over the exposures of a group (R248, R249): x_e in order. -/
def mergeOne (mode : Nat) (ratio sat : Vector (BitVec 24) 4) (weight : Word) (xs : List Nat) : Nat × Bool :=
  let es := xs.zipIdx.map fun (x, e) =>
    let r := ((atNat ratio e).getD 0).toNat
    let m := ((atNat sat e).getD 0).toNat
    (decide (m ≤ x), (x * r + 2 ^ 15) / 2 ^ 16, fld weight (8 * e + 7) (8 * e))
  let pick : Nat × Bool := match es.find? fun e => ! e.1 with
    | some e => (e.2.1, false)
    | none => ((es.getLast?.map (·.2.1)).getD 0, true)
  let out : Nat × Bool := match mode with
    | 0 => pick
    | 1 =>
      let ok := es.filter fun e => ! e.1 && e.2.2 != 0
      let a := (ok.map fun e => e.2.2 * e.2.1).sum
      let b := (ok.map (·.2.2)).sum
      if b = 0 then ((es.getLast?.map (·.2.1)).getD 0, true) else ((2 * a + b) / (2 * b), false)
    | _ => ((es.map (·.2.1)).sum, es.any (·.1))
  if 2 ^ 24 ≤ out.1 then (2 ^ 24 - 1, true) else out

/-! ### Stage 4 -/

/-- One sample corrected for dark and gain (R251, R252): the value and whether it was clamped. DEDUCED, log entry 33. -/
def correctOne (signed : Bool) (x dark gain : Nat) (ped : Int) : Int × Bool :=
  let y : Int := (x : Int) - dark
  let y := if signed then y else max y 0
  let q := (y * gain + 2 ^ 13) / 2 ^ 14 + ped
  if signed then (clampI (-2 ^ 23) (2 ^ 23 - 1) q, decide (q < -2 ^ 23) || decide ((2 : Int) ^ 23 ≤ q))
  else (clampI 0 (2 ^ 24 - 1) q, decide ((2 : Int) ^ 24 ≤ q))

/-- A defect entry (R253). -/
structure Defect where
  kind : Nat
  rule : Nat
  chmask : Nat
  row : Nat
  col : Nat
  len : Nat
  rsvd : Nat
deriving DecidableEq, Repr

/-- The fields of a defect entry (R253). -/
def defectOf (x : BitVec 64) : Defect :=
  { kind := fld x 63 62, rule := fld x 61 58, chmask := fld x 57 54, row := fld x 53 40, col := fld x 39 26, len := fld x 25 12, rsvd := fld x 11 0 }

/-- A new entry is skipped after the entries kept, newest first (R254). -/
def skipsDefect (w h : Nat) (kept : List Defect) (d : Defect) : Bool :=
  (match kept.head? with
   | some p => decide (d.row < p.row) || (d.row == p.row && decide (d.col < p.col))
   | none => false)
  || decide (5 < d.rule) || d.rsvd != 0 || decide (h ≤ d.row) || decide (w ≤ d.col)
  || (d.kind == 1 && decide (256 ≤ (kept.filter fun e => e.kind == 1 && decide (d.row ≤ e.row + e.len)).length))

/-- The entries kept, in list order, and the number skipped; an entry in an uncorrectable word is skipped (R254, R261). -/
def readDefects (w h : Nat) (word : Nat → Option (BitVec 64)) : Nat → Nat → List Defect → Nat → List Defect × Nat
  | 0, _, kept, k => (kept.reverse, k)
  | fuel + 1, i, kept, k =>
    match word i with
    | none => readDefects w h word fuel (i + 1) kept (k + 1)
    | some x =>
      let d := defectOf x
      if d.kind = 3 then (kept.reverse, k)
      else if skipsDefect w h kept d then readDefects w h word fuel (i + 1) kept (k + 1)
      else readDefects w h word fuel (i + 1) (d :: kept) k

/-- Words of a defect list read when the samples of row r come: up to the first entry of a later row, or to its end (R254, R265). -/
def wordsRead (word : Nat → Option (BitVec 64)) (r : Nat) : Nat → Nat → Nat
  | 0, i => i
  | fuel + 1, i =>
    match word i with
    | none => wordsRead word r fuel (i + 1)
    | some x => let d := defectOf x; if d.kind = 3 ∨ r < d.row then i + 1 else wordsRead word r fuel (i + 1)

/-- The entry covers the sample at r, j, channel c (R253). -/
def Defect.covers (d : Defect) (r j c : Nat) : Bool :=
  d.chmask.testBit c &&
    match d.kind with
    | 0 => r == d.row && j == d.col
    | 1 => j == d.col && decide (d.row ≤ r) && decide (r ≤ d.row + d.len)
    | _ => r == d.row && decide (d.col ≤ j) && decide (j ≤ d.col + d.len)

/-- The rule that replaces a sample: a bad map word gives rule 2, then the first entry that covers it (R254, R261). -/
def coverRule (ds : List Defect) (bad : Bool) (r j c : Nat) : Option Nat :=
  if bad then some 2 else (ds.find? fun d => d.covers r j c).map (·.rule)

/-- The neighbours a rule looks at, as offsets of row and column; those of one list are alternatives, nearest first (R255). -/
def neighbours : Nat → List (List (Int × Int))
  | 0 => [[(0, -1), (0, -2)], [(0, 1), (0, 2)]]
  | 1 => [[(-1, 0)], [(1, 0)]]
  | 2 => [[(-1, 0)], [(1, 0)], [(0, -1)], [(0, 1)]]
  | 3 => [[(-1, -1)], [(-1, 0)], [(-1, 1)], [(0, -1)], [(0, 1)], [(1, -1)], [(1, 0)], [(1, 1)]]
  | 5 => [[(0, -1), (0, -2)]]
  | _ => []

/-- The replacement of a covered sample (R255, R256): its value and marker, and whether it was unresolved. DEDUCED, log entry 33. -/
def replaceOne (rule : Nat) (ped : Int) (good : Int → Int → Option Smp) (r j : Nat) : Smp × Bool :=
  if rule = 4 then ({ v := ped, sat := false }, false)
  else
    let found := (neighbours rule).filterMap fun alt => alt.findSome? fun (dr, dj) => good (r + dr) (j + dj)
    match found with
    | [] => ({ v := ped, sat := false }, true)
    | _ =>
      let n : Int := found.length
      ({ v := (2 * (found.map (·.v)).sum + n) / (2 * n), sat := found.any (·.sat) }, false)

/-- Stage 4's defect correction of a whole frame (R255, R256): the samples and how many were unresolved. DEDUCED, log entry 33. -/
def correctDefects (w h c : Nat) (ds : List Defect) (bad : Array Bool) (ped : Nat → Int) (xs : List Smp) : List Smp × Nat :=
  let a := xs.toArray
  let idx := fun (r j k : Nat) => (r * w + j) * c + k
  let rule := fun (r j k : Nat) => coverRule ds (bad.getD (idx r j k) false) r j k
  let rules := ((raster w h c).map fun (r, j, k) => rule r j k).toArray
  let out := (raster w h c).map fun (r, j, k) =>
    match rules.getD (idx r j k) none with
    | none => (a.getD (idx r j k) ⟨0, false⟩, false)
    | some u =>
      replaceOne u (ped k) (fun y x =>
        if 0 ≤ y ∧ y < h ∧ 0 ≤ x ∧ x < w then
          (if (rules.getD (idx y.toNat x.toNat k) none).isNone then some (a.getD (idx y.toNat x.toNat k) ⟨0, false⟩) else none)
        else none) r j
  (out.map (·.1), (out.filter (·.2)).length)

/-! ### Stage 5 -/

/-- Coefficient M[o][c] (R272). -/
def MixSet.coef (m : MixSet) (o c : Nat) : Int := toSigned 24 (((atNat m.m (4 * o + c)).getD 0).toNat)

/-- One pixel mixed (R272, R273). -/
def mixPixel (m : MixSet) (signedOut : Bool) (out : Nat) (xs : List Smp) : List Smp :=
  let ts := xs.zipIdx.map fun (x, c) =>
    let t := (x.v * ((atNat m.gin c).getD 0).toNat + 2 ^ 19) / 2 ^ 20
    let q := clampI (-2 ^ 25) (2 ^ 25 - 1) t
    (q, x.sat || decide (q ≠ t))
  (List.range out).map fun o =>
    let a := (ts.zipIdx.map fun (t, c) => m.coef o c * t.1).sum
    let y := (a + 2 ^ 19) / 2 ^ 20 + toSigned 24 ((atNat m.ofs o).getD 0).toNat
    let mark := ts.zipIdx.any fun (t, c) => m.coef o c ≠ 0 && t.2
    if signedOut then { v := clampI (-2 ^ 23) (2 ^ 23 - 1) y, sat := mark || decide (y < -2 ^ 23) || decide ((2 : Int) ^ 23 ≤ y) }
    else { v := clampI 0 (2 ^ 24 - 1) y, sat := mark || decide ((2 : Int) ^ 24 ≤ y) }

/-- A list cut into pieces of n; the last may be shorter. -/
def chunks {α : Type} (n : Nat) : Nat → List α → List (List α)
  | 0, _ => []
  | _ + 1, [] => []
  | fuel + 1, x :: r => (x :: r).take n :: chunks n fuel ((x :: r).drop n)

/-- The pieces of n elements of a list. -/
def pieces {α : Type} (n : Nat) (l : List α) : List (List α) := chunks (max n 1) l.length l

/-! ### Stage 6 -/

/-- Forty bits of the fraction of a binary logarithm: m is a mantissa of 60 fraction bits in 1 to 2 (R277). -/
def logBits : Nat → Nat → Nat → Nat
  | 0, _, acc => acc
  | k + 1, m, acc =>
    let q := m * m / 2 ^ 60
    if 2 ^ 61 ≤ q then logBits k (q / 2) (2 * acc + 1) else logBits k q (2 * acc)

/-- log2 n in units of 2^-40. -/
def log2Fix (n : Nat) : Nat :=
  let e := Nat.log2 n
  e * 2 ^ 40 + logBits 40 (n * 2 ^ (60 - e)) 0

/-- Knot i of an encoding curve (R276, R277). -/
def CurveTab.knot : CurveTab → Nat → Nat
  | .linear, i => 4096 * i
  | .sqrt, i => (Nat.sqrt (2 ^ 38 * i) + 1) / 2
  | .log, i => min (2 ^ 24 - 1) ((2 ^ 24 * log2Fix (1 + i) + 6 * 2 ^ 40) / (12 * 2 ^ 40))
  | .knots ks, i => ks.getD i 0

/-- One sample encoded (R276). -/
def encodeOne (t : CurveTab) (signed : Bool) (x : Int) : Int :=
  let u := if signed then x + 2 ^ 23 else x
  let i := (u / 4096).toNat
  let f := u % 4096
  let d : Int := if i < 4095 then (t.knot (i + 1) : Int) - t.knot i else (t.knot 4095 : Int) - t.knot 4094
  clampI 0 (2 ^ 24 - 1) (t.knot i + (d * f + 2048) / 4096)

/-! ### Stage 8: the packer -/

/-- The code of a sample, in P bits (R279). -/
def codeOf (signed : Bool) (p : Nat) (v : Int) : Nat :=
  if p = 24 then ofSigned 24 v
  else
    let q := (v + 2 ^ (23 - p)) / 2 ^ (24 - p)
    if signed then ofSigned p (clampI (-2 ^ (p - 1)) (2 ^ (p - 1) - 1) q) else (min (2 ^ p - 1) q).toNat

/-- Fields of a value and a width written least significant bit first into bytes, the last byte padded with 0. -/
def packBits : List (Nat × Nat) → Nat → Nat → List Byte
  | [], acc, n => leBytes (ceilDiv n 8) acc
  | (v, w) :: r, acc, n =>
    let a := acc + v * 2 ^ n
    let m := n + w
    leBytes (m / 8) a ++ packBits r (a / 2 ^ (8 * (m / 8))) (m % 8)

/-- The raw payload (R280). -/
def rawPayload (signed : Bool) (p : Nat) (vs : List Int) : List Byte := packBits (vs.map fun v => (codeOf signed p v, p)) 0 0

/-- The length of the raw payload (R280). -/
def rawLength (n p : Nat) : Nat := ceilDiv (n * p) 8

/-- The Rice code of m with parameter k, as fields (R284). -/
def riceCode (p k m : Nat) : List (Nat × Nat) :=
  let q := m / 2 ^ k
  if q < 32 then [(2 ^ q - 1, q + 1), (m % 2 ^ k, k)] else [(2 ^ 32 - 1, 32), (m, p)]

/-- Bits of a list of fields. -/
def fieldBits (l : List (Nat × Nat)) : Nat := (l.map (·.2)).sum

/-- The fields of one block: the K of fewest bits, the smallest on a tie, 31 only when strictly shortest (R284). -/
def blockFields (p : Nat) (ms : List Nat) : List (Nat × Nat) :=
  let with_ := fun (k : Nat) => (k, 5) :: ms.flatMap (riceCode p k)
  let plain := (31, 5) :: ms.map fun m => (m, p)
  let best := (List.range p).foldl (fun (b : List (Nat × Nat)) k => if k = 0 then with_ 0 else if fieldBits (with_ k) < fieldBits b then with_ k else b) []
  if fieldBits plain < fieldBits best then plain else best

/-- The residual of a sample against its prediction (R285). -/
def residual (p : Nat) (v pr : Nat) : Nat :=
  let e := toSigned p (v + 2 ^ p - pr)
  if 0 ≤ e then (2 * e).toNat else (-2 * e - 1).toNat

/-- The prediction (R285). -/
def predict (pred a b c : Nat) : Nat :=
  match pred with
  | 0 => a
  | 1 => b
  | _ => if max a b ≤ c then min a b else if c ≤ min a b then max a b else a + b - c

/-- The residuals of line r (R285): v in raster order, ch channels a pixel. -/
def lineResiduals (p pred ch w : Nat) (vs : Array Nat) (r : Nat) : List Nat :=
  let at_ := fun (row col c : Nat) => vs.getD ((row * w + col) * ch + c) 0
  (List.range w).flatMap fun j => (List.range ch).map fun k =>
    let half := 2 ^ (p - 1)
    let (a, b, c) :=
      if r = 0 then (let x := if j = 0 then half else at_ 0 (j - 1) k; (x, x, x))
      else if j = 0 then (let x := at_ (r - 1) 0 k; (x, x, x))
      else (at_ r (j - 1) k, at_ (r - 1) j k, at_ (r - 1) (j - 1) k)
    residual p (at_ r j k) (predict pred a b c)

/-- A line record (R283). -/
def lineRecord (p : Nat) (ms : List Nat) : List Byte :=
  let body := packBits ((pieces 16 ms).flatMap (blockFields p)) 0 0
  let body := padTo (4 * ceilDiv body.length 4) body
  leBytes 4 (body.length + 4) ++ body

/-- The compressed payload (R283 to R285). -/
def compressedPayload (signed : Bool) (p pred ch w h : Nat) (xs : List Int) : List Byte :=
  let vs := (xs.map fun x => let q := codeOf signed p x; if signed then q ^^^ 2 ^ (p - 1) else q).toArray
  [1, BitVec.ofNat 8 p, BitVec.ofNat 8 pred, BitVec.ofNat 8 ch] ++ leBytes 2 w ++ leBytes 2 h ++ [if signed then 1 else 0]
    ++ List.replicate 7 0 ++ (List.range h).flatMap fun r => lineRecord p (lineResiduals p pred ch w vs r)

/-- The ratio in a compressed packet's slate (R287). -/
def packRatio (raw packed : Nat) : Nat := min (2 ^ 32 - 1) (raw * 2 ^ 16 / max packed 1)

/-! ### Stage 7 -/

/-- The bounds of HIST_ROI as clipped: X0, Y0, X1, Y1 (R289, R305). -/
def roiOf (roi : BitVec 64) (w h : Nat) : Nat × Nat × Nat × Nat :=
  (fld roi 15 0, fld roi 31 16, min (fld roi 47 32) (w - 1), min (fld roi 63 48) (h - 1))

/-- A place counts in the histograms (R289). -/
def inRoi (b : Nat × Nat × Nat × Nat) (xdec ydec r j : Nat) : Bool :=
  decide (b.1 ≤ j) && decide (j ≤ b.2.2.1) && decide (b.2.1 ≤ r) && decide (r ≤ b.2.2.2) && j % 2 ^ xdec == 0 && r % 2 ^ ydec == 0

/-- A histogram: 4,096 bins of 32 bits (R289). -/
def histogram (signed : Bool) (vs : List Int) : List Byte :=
  let a := vs.foldl (fun (a : Array Nat) v => a.modify ((if signed then v + 2 ^ 23 else v) / 4096).toNat fun n => min (n + 1) (2 ^ 32 - 1)) (Array.replicate 4096 0)
  a.toList.flatMap (leBytes 4)

/-- A zone entry (R290). -/
def zoneEntry (xs : List Smp) : List Byte :=
  match xs with
  | [] => List.replicate 8 0
  | x :: r =>
    let n : Int := xs.length
    let mean := (2 * (xs.map (·.v)).sum + n) / (2 * n)
    let top := r.foldl (fun m y => max m y.v) x.v
    leBytes 3 (ofSigned 24 mean) ++ leBytes 3 (ofSigned 24 top) ++ leBytes 2 (min 0xFFFF (xs.filter (·.sat)).length)

/-- The payload of a statistics record (R291), of ch channels at the tap and OUT channels out; FRAME_OFS is put in when the frame ends. -/
def statPayload (cfg : StatCfg) (w h out ch : Nat) (signed : Bool) (xs : List Smp) : List Byte :=
  let c := cfg.ctl
  let tap := fld c 30 29
  let hmask := fld c 28 25 % 2 ^ out
  let roi := roiOf cfg.roi w h
  let ps := (raster w h ch).zip xs
  let hist := fun (k : Nat) => (ps.filter fun p => p.1.2.2 == k && inRoi roi (fld c 24 23) (fld c 22 21) p.1.1 p.1.2.1).map (·.2.v)
  let zen := bitAt c 20
  let zx := fld cfg.zones 13 8 + 1
  let zy := fld cfg.zones 5 0 + 1
  let counted := ((raster w h 1).filter fun p => inRoi roi (fld c 24 23) (fld c 22 21) p.1 p.2.1).length
  let zone := fun (y x k : Nat) => (ps.filter fun p => p.1.2.2 == k && p.1.1 * zy / h == y && p.1.2.1 * zx / w == x).map (·.2)
  [1, 0, BitVec.ofNat 8 hmask, BitVec.ofNat 8 (tap + if signed then 128 else 0)]
    ++ [BitVec.ofNat 8 (if zen then zx else 0), BitVec.ofNat 8 (if zen then zy else 0)] ++ leBytes 2 ch
    ++ leBytes 4 counted ++ leBytes 4 (min (2 ^ 32 - 1) (xs.filter (·.sat)).length)
    ++ leBytes 2 roi.1 ++ leBytes 2 roi.2.1 ++ leBytes 2 roi.2.2.1 ++ leBytes 2 roi.2.2.2 ++ List.replicate 8 0
    ++ ((List.range out).filter fun k => hmask.testBit k).flatMap (fun k => histogram signed (hist k))
    ++ (if zen then (List.range zy).flatMap fun y => (List.range zx).flatMap fun x => (List.range ch).flatMap fun k => zoneEntry (zone y x k) else [])

/-! ### Tally -/

/-- Half-width of the window (R308). -/
def TallySet.half (t : TallySet) : Nat := if bitAt t.ctl 29 then 2 else 1

/-- The signed registers of a set (R307, R334). -/
def TallySet.peakLevel (t : TallySet) : Int := toSigned 32 t.tPeak.toNat
/-- T_PIX. -/
def TallySet.pixLevel (t : TallySet) : Int := toSigned 32 t.tPix.toNat
/-- BASE. -/
def TallySet.baseLevel (t : TallySet) : Int := toSigned 32 t.base.toNat

/-- The offsets of a window of half-width a, in raster order. -/
def windowOf (a : Nat) : List (Int × Int) :=
  (List.range (2 * a + 1)).flatMap fun y => (List.range (2 * a + 1)).map fun x => ((y : Int) - a, (x : Int) - a)

/-- The samples of the present positions of a window: dy, dx and the sample (R308). -/
def presentOf (w h : Nat) (xs : Array Smp) (a r c : Nat) : List (Int × Int × Smp) :=
  (windowOf a).filterMap fun (dy, dx) =>
    let y := (r : Int) + dy
    let x := (c : Int) + dx
    if 0 ≤ y ∧ y < h ∧ 0 ≤ x ∧ x < w then some (dy, dx, xs.getD (y.toNat * w + x.toNat) ⟨0, false⟩) else none

/-- Pixel (c, r) is an owner (R309). -/
def isOwner (t : TallySet) (w h : Nat) (xs : Array Smp) (r c : Nat) : Bool :=
  let x := (xs.getD (r * w + c) ⟨0, false⟩).v
  decide (t.peakLevel ≤ x) && (presentOf w h xs t.half r c).all fun (dy, dx, q) =>
    (dy == 0 && dx == 0) || decide (q.v < x) || (q.v == x && (decide (0 < dy) || (dy == 0 && decide (0 < dx))))

/-- The candidate of an owner, CROWDED left out (R310, R312). -/
def measure (t : TallySet) (w h : Nat) (xs : Array Smp) (r c : Nat) : Cand :=
  let ps := presentOf w h xs t.half r c
  let on := ps.filter fun p => decide (t.pixLevel ≤ p.2.2.v)
  let wt := fun (p : Int × Int × Smp) => p.2.2.v - t.baseLevel
  let sw := (on.map wt).sum
  let sx := (on.map fun p => wt p * p.2.1).sum
  let sy := (on.map fun p => wt p * p.1).sum
  let sh := fld t.ctl 23 20
  let e := (2 * sw + 2 ^ sh) / 2 ^ (sh + 1)
  let full := (2 * t.half + 1) * (2 * t.half + 1)
  { c := c, r := r, x := (16 * (c : Int) + (32 * sx + sw) / (2 * sw)).toNat, y := (16 * (r : Int) + (32 * sy + sw) / (2 * sw)).toNat
    e := (min e 65535).toNat
    flags := (if ps.any (·.2.2.sat) then 8 else 0) + (if 65535 < e then 4 else 0) + (if ps.length < full then 2 else 0)
    peak := (xs.getD (r * w + c) ⟨0, false⟩).v - t.baseLevel }

/-- Two owners whose windows overlap (R312). -/
def crowds (a : Nat) (p q : Cand) : Bool :=
  ! (p.r == q.r && p.c == q.c) && decide (p.c ≤ q.c + 2 * a) && decide (q.c ≤ p.c + 2 * a) && decide (p.r ≤ q.r + 2 * a) && decide (q.r ≤ p.r + 2 * a)

/-- The candidates of a frame, by owner row; rows without one are left out (R309 to R316). -/
def detect (t : TallySet) (w h : Nat) (smps : List Smp) : List (List Cand) :=
  let xs := smps.toArray
  let all := (List.range h).flatMap fun r => ((List.range w).filter (isOwner t w h xs r)).map (measure t w h xs r)
  let all := all.map fun p => if all.any (crowds t.half p) then { p with flags := p.flags + 1 } else p
  ((List.range h).map fun r => all.filter (·.r == r)).filter (! ·.isEmpty)

/-- An event record (R312). -/
def eventRecord (fofs : Nat) (p : Cand) : List Byte :=
  leBytes 8 (p.x * 2 ^ 46 + p.y * 2 ^ 28 + p.e * 2 ^ 12 + fofs * 2 ^ 4 + p.flags)

/-- The energy filter (R311). -/
def TallySet.keeps (t : TallySet) (p : Cand) : Bool := decide (fld t.ewin 15 0 ≤ p.e) && decide (p.e ≤ fld t.ewin 31 16)

/-- The bin of a candidate (R338). -/
def specBin (src : Bool) (p : Cand) : Nat := if src then min 1023 (p.peak / 2 ^ 14).toNat else p.e / 64

/-- CB (R336). -/
def TallySet.cellBits (t : TallySet) : Nat := 8 * (fld t.ctl 25 24 + 1)

/-- The image size (R326). -/
def TallySet.imageSize (t : TallySet) (w h : Nat) : Nat × Nat := if bitAt t.ctl 26 then (2 * w, 2 * h) else (w, h)

/-- The cell an event increments (R326). -/
def TallySet.cellOf (t : TallySet) (w h : Nat) (p : Cand) : Nat :=
  let d := if bitAt t.ctl 26 then 8 else 16
  (p.y + 8) / d * (t.imageSize w h).1 + (p.x + 8) / d

end Sys2Proof.Machine
end

