-- ==== Sys2Proof/Machine/Queues.lean ====
section
/-! DEFINITION. Queues and the cell pool (chapter 14): counts, credits and lending, cells, open packets, commit and rewind,
watermarks and XOFF pins, the cell window, and the objects of R457 to R462. -/

namespace Sys2Proof.Machine

open Sys2Proof

/-! ### Cells and counts -/

/-- Cells below this index lie on-die (R423). -/
def onDieCells : Nat := 262144

/-- Units of a cell (R424). -/
def cellUnits (i : Nat) : Nat := if i < onDieCells then 1 else 2

/-- Bytes of a cell (R423). -/
def cellBytes (i : Nat) : Nat := 256 * cellUnits i

/-- Bytes of the stall-store map area (R528). -/
def mapAreaBytes (s : State) : Nat := s.host.mapArea.toNat * 2 ^ 30

/-- C, bytes of the cell partition (R528). -/
def cellPartition (s : State) : Nat := s.host.ssBytes.toNat - mapAreaBytes s

/-- The channels that stall-store addresses are interleaved over (R523). -/
def ddrUsed (s : State) : List (Fin 12) := (List.finRange 12).filter fun d => s.host.ddr[d].state == 1 || s.host.ddr[d].state == 3

/-- The channel that a stall-store byte lies on (R523). -/
def ddrAt (s : State) (a : Nat) : Option (Fin 12) :=
  let l := ddrUsed s
  l[a / 512 % l.length]?

/-- The channel answers with errors: out of service, or its clock has failed (R111, R526). -/
def ddrDead (s : State) (d : Fin 12) : Bool :=
  s.host.ddr[d].state == 3 || ! ((atNat s.clk.good (8 + d.1)).getD true)

/-- Bytes a to a + k - 1 of the stall store touch a channel that answers with errors. -/
def stallDead (s : State) (a k : Nat) : Bool :=
  (List.range (min 12 (if k = 0 then 0 else (a + k - 1) / 512 + 1 - a / 512))).any fun i => (ddrAt s (a + 512 * i)).any (ddrDead s)

/-- The byte of the stall store at which a stall-store cell lies (R528). -/
def cellByte (s : State) (i : Nat) : Nat := cellPartition s / 128 + 512 * (i - onDieCells)

/-- The DDR5 channel of a stall-store byte counts an error it corrected, or one it could not (R525). -/
def countDdr (uncorrected : Bool) (a : Nat) (s : State) : State :=
  match ddrAt s a with
  | some d => s.updDdr d fun k => if uncorrected then { k with ue := satInc k.ue } else { k with ce := satInc k.ce }
  | none => s

/-- The cells of a queue's committed and open packets, in chain order (R427). -/
def Queue.cells (q : Queue) : List PCell := q.packets.flatMap (·.cells) ++ (q.openPkt.map (·.cells)).getD []

/-- Units of a list of cells. -/
def unitsOf (cs : List PCell) : Nat := (cs.map fun c => cellUnits c.index).sum

/-- O_q (R445). -/
def Queue.occ (q : Queue) : Nat := unitsOf q.cells

/-- The producer code of QCTL (R458): 0x20 + p and 0x30 + p. -/
def producerCode (r : Fin 32) : Nat := 0x20 + r.1

/-- PRODUCER of QCTL (R458). -/
def Queue.producer (q : Queue) : Nat := fld q.ctl 21 16

/-- EN of QCTL. -/
def Queue.en (q : Queue) : Bool := bitAt q.ctl 31

/-- The producer that a PRODUCER code names. -/
def producerOf (code : Nat) : Option (Fin 32) := if 0x20 ≤ code then finOf 32 (code - 0x20) else none

/-- The enabled queue a producer is routed to (R428). -/
@[irreducible] def queueOf (s : State) (r : Fin 32) : Option (Fin 512) :=
  (List.finRange 512).find? fun q => s.qm.queues[q].en && s.qm.queues[q].producer == producerCode r

/-- A disabled queue a producer is routed to (R455). -/
@[irreducible] def disabledQueueOf (s : State) (r : Fin 32) : Option (Fin 512) :=
  (List.finRange 512).find? fun q => ! s.qm.queues[q].en && s.qm.queues[q].producer == producerCode r

/-- The producer of an enabled queue. -/
def producerFor (s : State) (q : Fin 512) : Option (Fin 32) := if s.qm.queues[q].en then producerOf s.qm.queues[q].producer else none

/-- Credits a producer holds. -/
def Producer.units (p : Producer) : Nat := (p.credits.map (·.left)).sum

/-- Credits a queue's producer holds. -/
def queueCredits (s : State) (q : Fin 512) : List Credit :=
  match producerFor s q with
  | some r => s.qm.producers[r].credits
  | none => []

/-- H_q (R430). -/
def held (s : State) (q : Fin 512) : Nat := s.qm.queues[q].occ + ((queueCredits s q).map (·.left)).sum

/-- The on-die units within H_q. -/
def heldOnDie (s : State) (q : Fin 512) : Nat :=
  ((s.qm.queues[q].cells.filter fun c => c.index < onDieCells).length) + (((queueCredits s q).filter fun c => c.src ≠ .stall).map (·.left)).sum

/-- U_q (R430). -/
def reserveUsed (s : State) (q : Fin 512) : Nat := min s.qm.queues[q].reserve.toNat (heldOnDie s q)

/-- Reserves not in use over the enabled queues. -/
def reserveOwed (s : State) : Nat :=
  ((List.finRange 512).map fun q => if s.qm.queues[q].en then s.qm.queues[q].reserve.toNat - reserveUsed s q else 0).sum

/-- S (R430): never below 0. -/
def shared (s : State) : Nat := s.qm.freeD - reserveOwed s

/-- The sum of RESERVE over every queue (R460). -/
def reservedSum (s : State) : Nat := ((List.finRange 512).map fun q => s.qm.queues[q].reserve.toNat).sum

/-! ### XOFF pins -/

/-- The XOFF pin's cold state (R53, R60). -/
def xoffCold (s : State) : Drive :=
  let high := ! bitAt s.pins.pinmap 25
  match fld s.pins.pinmap 27 26 with
  | 0 => if high then .high else .low
  | 1 => if high then .low else .high
  | 2 => if high then .weakHigh else .weakLow
  | _ => if high then .weakLow else .weakHigh

/-- A queue drives pin n (R447). -/
def mapsTo (k : Queue) (n : Fin 16) : Bool := bitAt k.wmmap 31 && fld k.wmmap 27 24 == n.1

/-- Pin n is asserted by a queue or by the pool (R447). -/
def xoffWanted (s : State) (n : Fin 16) : Bool :=
  (List.finRange 512).any (fun q => s.qm.queues[q].wmState && mapsTo s.qm.queues[q] n)
  || (bitAt s.qm.xoff[n].cfg 30 && ! s.qm.stallLend)

/-- Every configured XOFF pin takes the level it is due (R447, R448). DESIGN CHOICE, log entry 115. -/
def driveXoff (s : State) : State :=
  if inReset .queues s then s
  else
  let asserted : Fin 16 → Bool := fun n => s.qm.xoff[n].minHold || xoffWanted s n
  let active : Drive := if bitAt s.pins.pinmap 25 then .low else .high
  let idle : Drive := if bitAt s.pins.pinmap 25 then .high else .low
  s.updPins fun p => { p with xoff := mapAll p.xoff fun n d => if bitAt s.qm.xoff[n].cfg 31 then (if asserted n then active else idle) else d }

/-! ### Lending and credits -/

/-- On-die lending opens or closes (R432). -/
def lendOnDie (s : State) : State :=
  let m := s.qm
  if m.ondieLend && decide (shared s < m.spillMark.toNat) then s.updQm fun m => { m with ondieLend := false, spilled := true }
  else if ! m.ondieLend && decide (m.refillMark.toNat ≤ shared s) then s.updQm fun m => { m with ondieLend := true }
  else s

/-- A producer's unspent credits from the shared pool and the stall store go back (R432). -/
def revokeFrom (r : Fin 32) (s : State) : State :=
  let p := s.qm.producers[r]
  let out := p.credits.filter fun c => c.src ≠ .reserve && c.left ≠ 0
  if out.isEmpty then s
  else
    let s := match queueOf s r with
      | some q => s.updQueue q fun k => { k with revoked := true }
      | none => s
    (s.updQm fun m =>
      { m with freeD := m.freeD + ((out.filter (·.src = .shared)).map (·.left)).sum
               freeS := m.freeS + ((out.filter (·.src = .stall)).map (·.left)).sum
               revokes := satAdd m.revokes out.length }).updProducer r fun p => { p with credits := p.credits.filter (·.src = .reserve) }

/-- Stall lending opens or closes; a closing revokes (R432). -/
def lendStall (s : State) : State :=
  let m := s.qm
  if m.stallLend && decide (m.freeS < m.guardLo.toNat) then
    (s.updQm fun m => { m with stallLend := false, guard := true }).each (List.finRange 32) revokeFrom
  else if ! m.stallLend && decide (m.guardHi.toNat ≤ m.freeS) then s.updQm fun m => { m with stallLend := true }
  else s

/-- Both lending states follow their marks, and the XOFF pins with them (R432, R447). -/
def lend (s : State) : State := driveXoff (lendOnDie (lendStall s))

/-- The source that can grant producer r a block for queue q, in the order of R431. DEDUCED, log entry 57. -/
def grantSource (s : State) (q : Fin 512) : Option CreditSrc :=
  let k := s.qm.queues[q]
  let under := k.limit == 0 || decide (held s q + 32 ≤ k.limit.toNat)
  if reserveUsed s q + 32 ≤ k.reserve.toNat ∧ 32 ≤ s.qm.freeD then some .reserve
  else if s.qm.ondieLend && decide (32 ≤ shared s) && under then some .shared
  else if s.qm.stallLend && bitAt k.ctl 30 && under && decide (32 ≤ s.qm.freeS) then some .stall
  else none

/-- The producer requests a block: it is routed to an enabled queue and holds fewer than 32 units (R431). DEDUCED, log entry 57. -/
def requests (s : State) (r : Fin 32) : Bool := (queueOf s r).isSome && decide (s.qm.producers[r].units < 32)

/-- A block granted to producer r from a source (R431). -/
def grantBlock (r : Fin 32) (src : CreditSrc) (s : State) : State :=
  lend ((s.updQm fun m => if src = .stall then { m with freeS := m.freeS - 32 } else { m with freeD := m.freeD - 32 }).updProducer r
    fun p => { p with credits := p.credits ++ [⟨src, 32⟩], waiting := false })

/-- The producers in round-robin order from the one to be looked at next (R431). -/
def robinOrder (s : State) : List (Fin 32) := (List.finRange 32).map fun i => s.qm.robin + i

/-- The credits after the units of one cell are spent from block b, the first that holds them (R431). -/
def spend : List Credit → Option (CreditSrc × List Credit)
  | [] => none
  | c :: r =>
    let need := if c.src = .stall then 2 else 1
    if need ≤ c.left then some (c.src, if c.left = need then r else { c with left := c.left - need } :: r)
    else (spend r).map fun (src, r') => (src, c :: r')

/-- One pass of the round robin: the first request that a source can grant is granted; each passed over waits (R431, R433). DEDUCED, log entry 57. -/
def grantNext (s : State) : List (Fin 32) → State
  | [] => s
  | r :: rest =>
    if requests s r then
      match queueOf s r with
      | some q =>
        match grantSource s q with
        | some src => grantBlock r src (s.updQm fun m => { m with robin := r + 1 })
        | none => grantNext (s.updProducer r fun p => { p with waiting := (spend p.credits).isNone }) rest
      | none => grantNext s rest
    else grantNext s rest

/-- Every credit a producer holds goes back (R435). -/
def returnCredits (r : Fin 32) (s : State) : State :=
  let p := s.qm.producers[r]
  lend ((s.updQm fun m =>
    { m with freeD := m.freeD + ((p.credits.filter (·.src ≠ .stall)).map (·.left)).sum
             freeS := m.freeS + ((p.credits.filter (·.src = .stall)).map (·.left)).sum }).updProducer r
    fun p => { p with credits := [], waiting := false })

/-- The cells in use: committed, open and returning. -/
def usedCells (s : State) : List Nat :=
  (List.finRange 512).flatMap (fun q => s.qm.queues[q].cells.map (·.index)) ++ s.qm.returning

/-- The first index of a range of n from base + k on, in cyclic order, that is not in use. DESIGN CHOICE, log entry 56. -/
def freeFrom (used : List Nat) (base n : Nat) : Nat → Nat → Nat
  | 0, k => base + k
  | fuel + 1, k => if used.contains (base + k) then freeFrom used base n fuel ((k + 1) % n) else base + k

/-- A fresh cell of a kind: which free cell it is, the manual leaves open. DESIGN CHOICE, log entry 56. -/
def freshCell (onDie : Bool) (s : State) : Nat × State :=
  let (x, s) := s.drawNat
  let n := if onDie then onDieCells else max s.qm.ns 1
  let used := usedCells s
  (freeFrom used (if onDie then 0 else onDieCells) n used.length (x % n), s)

/-! ### Watermarks -/

/-- The watermark state of queue q follows its occupancy (R446). -/
def watermark (q : Fin 512) (s : State) : State :=
  let k := s.qm.queues[q]
  if ! bitAt k.ctl 29 then (if k.wmState then s.updQueue q fun k => { k with wmState := false } else s)
  else if ! k.wmState && decide (k.wmhi.toNat ≤ k.occ) then
    let s := publish (0x1200 + q.1) (s.updQueue q fun k => { k with wmState := true, wmUp := true, wmUps := satInc k.wmUps })
    if bitAt k.wmmap 31 then s.updXoff (Fin.ofNat 16 (fld k.wmmap 27 24)) fun x => { x with minHold := bitAt x.cfg 31 } else s
  else if k.wmState && decide (k.occ ≤ k.wmlo.toNat) then
    publish (0x1400 + q.1) (s.updQueue q fun k => { k with wmState := false, wmDown := true })
  else s

/-- What follows a change of one queue: its watermark, lending, the XOFF pins (R432, R445 to R447). -/
def settleQueue (q : Fin 512) (s : State) : State := lend (watermark q s)

/-! ### Packets -/

/-- Cells handed to the return walker (R442). -/
def handBack (cs : List PCell) (s : State) : State := s.updQm fun m => { m with returning := m.returning ++ cs.map (·.index) }

/-- The next data packet of a producer's pipeline carries GAP (R300, R442). -/
def owePipeGap (r : Fin 32) (s : State) : State := s.updPipe (Fin.ofNat 16 r.1) fun p => { p with gap := true }

/-- The whole open packet of producer r rewound, with what it has not yet written (R442). -/
def rewindOpen (r : Fin 32) (s : State) : State :=
  let s := s.updProducer r fun p => { p with buf := [], closing := none }
  match queueOf s r with
  | some q =>
    match s.qm.queues[q].openPkt with
    | some o => settleQueue q (owePipeGap r (handBack o.cells (s.updQueue q fun k => { k with openPkt := none, rewinds := satInc k.rewinds })))
    | none => s
  | none => s

/-- A cell taken for producer r against its credits: the new cell, none without credit (R431). -/
def takeCell (r : Fin 32) (s : State) : Option PCell × State :=
  match spend s.qm.producers[r].credits with
  | some (src, rest) =>
    let (i, s) := freshCell (src ≠ .stall) s
    (some { index := i, data := [], poison := false }, s.updProducer r fun p => { p with credits := rest })
  | none => (none, s)

/-- The bytes of a packet that cells already hold room for, and the last cell's room. -/
def roomLeft (o : OpenPkt) : Nat :=
  match o.cells.getLast? with
  | some c => cellBytes c.index - c.data.length
  | none => 0

/-- Bytes put at the end of a packet's last cell. -/
def fillLast (o : OpenPkt) (bs : List Byte) : OpenPkt :=
  { o with bytes := o.bytes + bs.length
           cells := match o.cells.getLast? with
             | some c => o.cells.dropLast ++ [{ c with data := c.data ++ bs }]
             | none => o.cells }

/-- The open packet of producer r is oversize: rewound whole, counted, the rest of the frame discarded (R443). -/
def oversize (r : Fin 32) (q : Fin 512) (s : State) : State :=
  let s := rewindOpen r s
  owePipeGap r ((s.updQueue q fun k => { k with oversize := true, oversizes := satInc k.oversizes }).updProducer r fun p => { p with discarding := true })

/-- A packet opened at the first write: its first cell keeps bytes 0 to 63 for the slate (R439). -/
def openPacket (q : Fin 512) (c : PCell) (s : State) : State :=
  s.updQueue q fun k => { k with openPkt := some { cells := [{ c with data := List.replicate 64 0 }], bytes := 64, mark := none }, maxpktNow := k.maxpkt }

/-- Producer r writes what it has ready for queue q: into the last cell, then into cells taken against its credits, until its
bytes or its credits end (R426, R433, R443). -/
def writeCells (r : Fin 32) (q : Fin 512) : Nat → State → State
  | 0, s => s
  | fuel + 1, s =>
    let buf := s.qm.producers[r].buf
    if buf.isEmpty then s
    else
      match s.qm.queues[q].openPkt with
      | none =>
        match takeCell r s with
        | (some c, s) => writeCells r q fuel (openPacket q c s)
        | (none, s) => s
      | some o =>
        let limit := s.qm.queues[q].maxpktNow.toNat
        if limit ≤ o.bytes then oversize r q s
        else if roomLeft o = 0 then
          match takeCell r s with
          | (some c, s) => writeCells r q fuel (s.updQueue q fun k => { k with openPkt := some { o with cells := o.cells ++ [c] } })
          | (none, s) => s
        else
          let n := min (roomLeft o) (min buf.length (limit - o.bytes))
          writeCells r q fuel ((s.updQueue q fun k => { k with openPkt := some (fillLast o (buf.take n)) }).updProducer r fun p => { p with buf := p.buf.drop n })

/-- PRODUCER_WRITE's work in the pool: the write, or the rewind at open of a producer on a disabled queue (R426, R455). DEDUCED, log entry 31. -/
def producerWrite (r : Fin 32) (s : State) : State :=
  if inReset .queues s then s
  else
    match queueOf s r with
    | some q => settleQueue q (writeCells r q (3 * s.qm.producers[r].buf.length + 2) s)
    | none =>
      if s.qm.producers[r].buf.isEmpty && s.qm.producers[r].closing.isNone then s
      else
        let s := owePipeGap r (s.updProducer r fun p => { p with discarding := p.closing.isNone, buf := [], closing := none })
        match disabledQueueOf s r with
        | some q => s.updQueue q fun k => { k with disabledDrops := satInc k.disabledDrops }
        | none => s

/-- The bytes of a packet, slate first. -/
def Packet.data (p : Packet) : List Byte := (p.cells.flatMap (·.data)).take p.bytes

/-- A slate completed with its CRC over bytes 0 to 55 and the payload (R301). -/
def slateWithCrc (slate payload : List Byte) : List Byte :=
  padTo 56 slate ++ leBytes 4 (crc32c (padTo 56 slate ++ payload)) ++ List.replicate 4 0

/-- Bytes put over the first bytes of a chain's first cell. -/
def overFirst (bs : List Byte) : List PCell → List PCell
  | [] => []
  | c :: r => { c with data := bs ++ c.data.drop bs.length } :: r

/-- The open packet of producer r commits with a slate (R440): the slate with its CRC is written, the packet joins its queue. -/
def commitOpen (r : Fin 32) (slate : List Byte) (s : State) : State :=
  match queueOf s r with
  | some q =>
    match s.qm.queues[q].openPkt with
    | some o =>
      let payload := ((o.cells.flatMap (·.data)).take o.bytes).drop 64
      let pkt : Packet := { cells := overFirst (slateWithCrc slate payload) o.cells, bytes := o.bytes, logged := false, at_ := s.coreTime }
      let s := s.updQueue q fun k => { k with openPkt := none, packets := k.packets ++ [pkt], commits := satInc k.commits }
      settleQueue q (publish (0x1000 + q.1) (s.updProducer r fun p => { p with closing := none, discarding := false }))
    | none => s
  | none => s

/-- The oldest packet lies whole before a broken link, so the consumer can reach its end (R454). DEDUCED, log entry 66. -/
def headWhole (k : Queue) : Bool :=
  match k.packets, k.linkBreak with
  | p :: _, some i => p.cells.all (·.index ≠ i)
  | p, none => ! p.isEmpty
  | [], _ => false

/-- The oldest committed packet of queue q released whole (R429). -/
def releasePacket (q : Fin 512) (s : State) : State :=
  match s.qm.queues[q].packets with
  | p :: rest => settleQueue q (handBack p.cells (s.updQueue q fun k => { k with packets := rest }))
  | [] => s

/-- A mark set at the producer's present byte (R441). -/
def setMark (r : Fin 32) (s : State) : State :=
  match queueOf s r with
  | some q => s.updQueue q fun k => { k with openPkt := k.openPkt.map fun o => { o with mark := some (o.bytes + s.qm.producers[r].buf.length) } }
  | none => s

/-- Cells of a chain up to byte n of the packet, and the cells after. -/
def cutCells : Nat → List PCell → List PCell × List PCell
  | _, [] => ([], [])
  | n, c :: r =>
    if n ≤ cellBytes c.index then ([{ c with data := c.data.take n }], r)
    else let (a, b) := cutCells (n - cellBytes c.index) r; (c :: a, b)

/-- The open packet rewound to its mark (R441). -/
def rewindToMark (r : Fin 32) (s : State) : State :=
  match queueOf s r with
  | some q =>
    match s.qm.queues[q].openPkt with
    | some o =>
      match o.mark with
      | some m =>
        if o.bytes ≤ m then s.updProducer r fun p => { p with buf := p.buf.take (m - o.bytes) }
        else
          let (keep, gone) := cutCells m o.cells
          settleQueue q (handBack gone ((s.updQueue q fun k => { k with openPkt := some { o with cells := keep, bytes := m } }).updProducer r fun p => { p with buf := [] }))
      | none => s
    | none => s
  | none => s

/-- The return walker moves up to n cells to their free lists (R442). -/
def walk (n : Nat) (s : State) : State :=
  if inReset .queues s then s
  else
    let cs := s.qm.returning.take n
    lend (s.updQm fun m =>
      { m with returning := m.returning.drop n
               freeD := m.freeD + (cs.filter (· < onDieCells)).length
               freeS := m.freeS + 2 * (cs.filter (onDieCells ≤ ·)).length })

/-! ### The cell window -/

/-- States of a cell (R462). -/
inductive CellState where
  | free | open_ | committed | returning
deriving DecidableEq, Repr

/-- STATE of CELL_TAG. -/
def CellState.code : CellState → Nat
  | .free => 0 | .open_ => 1 | .committed => 2 | .returning => 3

/-- The cell with an index in a chain, with the cell linked after it. -/
def findCell (i : Nat) : List PCell → Option (PCell × Option Nat)
  | [] => none
  | c :: r => if c.index = i then some (c, (r.head?).map (·.index)) else findCell i r

/-- What holds the cell with an index. -/
def cellStateOf (s : State) (i : Nat) : CellState × Fin 512 × Option (PCell × Option Nat) :=
  let found := (List.finRange 512).find? fun q => s.qm.queues[q].cells.any (·.index == i)
  match found with
  | some q =>
    match findCell i (s.qm.queues[q].packets.flatMap (·.cells)) with
    | some x => (.committed, q, some x)
    | none => (.open_, q, findCell i ((s.qm.queues[q].openPkt.map (·.cells)).getD []))
  | none => if s.qm.returning.contains i then (.returning, 0, none) else (.free, 0, none)

/-- k free bytes: contents that the manual leaves undefined (R426). DESIGN CHOICE, log entry 63. -/
def freeBytes (k : Nat) (s : State) : List Byte × State :=
  let (x, s) := s.drawNat
  ((List.range k).map fun i => BitVec.ofNat 8 (Config.freeNat (x + i)), s)

/-- One snapshot of the selected cell: its tag and data (R450, R451, R462). -/
def snapshotCell (s : State) : State :=
  let i := s.qm.cellSel.toNat
  let (st, q, found) := cellStateOf s i
  let n := cellBytes i
  let (rest, s) := freeBytes n s
  let data := match found with
    | some (c, _) => c.data ++ rest.drop c.data.length
    | none => List.replicate n 0
  let next := match found with
    | some (_, some j) => j
    | _ => 0xFFFFFFFF
  let poison := match found with
    | some (c, _) => c.poison
    | none => false
  let tag : BitVec 64 := place 64 62 st.code ||| place 64 61 (if st = .committed then 1 else 0) ||| place 64 60 (if poison then 1 else 0)
    ||| place 64 48 (if st = .free then 0 else q.1) ||| place 64 0 next
  s.updQm fun m => { m with snap := some { tag := tag, data := data } }

/-- The snapshot is taken at the first read after CELL_SEL is written (R450). -/
def ensureSnap (s : State) : State := if s.qm.snap.isSome then s else snapshotCell s

/-- The patrol scrub reads one cell (R453). -/
def patrol (flaw : CellFlaw) (s : State) : State :=
  let i := s.qm.scrub
  let s := s.updQm fun m => { m with scrub := (m.scrub + 1) % onDieCells, eccCorr := if flaw = .corrected then satInc m.eccCorr else m.eccCorr }
  if flaw = .uncorrectable then
    s.updQm fun m => { m with queues := mapAll m.queues fun _ k =>
      let mark := fun (cs : List PCell) => cs.map fun c => if c.index = i then { c with poison := true } else c
      { k with packets := k.packets.map fun p => { p with cells := mark p.cells }
               openPkt := k.openPkt.map fun o => { o with cells := mark o.cells } } }
  else s

/-! ### Resets -/

/-- A list-preserving reset (R88, R456): open packets rewound, credits back, watermarks low, committed packets kept. DEDUCED, log entry 85. -/
def listPreserving (s : State) : State :=
  let open_ := (List.finRange 512).flatMap fun q => (s.qm.queues[q].openPkt.map (·.cells)).getD []
  let credits := (List.finRange 32).flatMap fun r => s.qm.producers[r].credits
  s.updQm fun m =>
    { m with queues := mapAll m.queues fun _ k =>
               { k with wmState := false, rewinds := if k.openPkt.isSome then satInc k.rewinds else k.rewinds, openPkt := none }
             returning := m.returning ++ open_.map (·.index)
             freeD := m.freeD + ((credits.filter (·.src ≠ .stall)).map (·.left)).sum
             freeS := m.freeS + ((credits.filter (·.src = .stall)).map (·.left)).sum
             producers := Vector.replicate 32 {}, snap := none }

/-- A level-0 reset empties the pool and returns every object to its default (R456, R457). -/
def emptyPool (s : State) : State := { s with qm := {} }

end Sys2Proof.Machine
end

