-- ==== Sys2Proof/Machine/QueueObjects.lean ====
section
/-! DEFINITION. The dictionary objects of the queues and the pool (R457 to R462): their tables, what they read, their own
checks and what an accepted write does. -/

namespace Sys2Proof.Machine

open Sys2Proof

/-- Per-queue objects (R457). -/
inductive QReg where
  | qctl | reserve | limit | maxpkt | wmhi | wmlo | wmmap | qstat | occ | pkts | commits | rewinds | oversize | wmUps | headCell | qpop
  | eccUncorr | disabledDrops
deriving DecidableEq, Repr

/-- The queue objects with their bases (R457). -/
def QReg.table : List (Nat × QReg) :=
  [(0x6000, .qctl), (0x6002, .reserve), (0x6004, .limit), (0x6006, .maxpkt), (0x6008, .wmhi), (0x600A, .wmlo), (0x600C, .wmmap),
   (0x600E, .qstat), (0x6010, .occ), (0x6012, .pkts), (0x6014, .commits), (0x6016, .rewinds), (0x6018, .oversize), (0x601A, .wmUps),
   (0x601C, .headCell), (0x601E, .qpop), (0x6020, .eccUncorr), (0x6022, .disabledDrops)]

/-- What the table says of a queue object (R457). -/
def QReg.desc : QReg → Desc
  | .qctl => .rw .bits32 1 | .reserve => .rw .u32 2 | .limit => .rw .u32 1 | .maxpkt => .rw .u32 1 4 | .wmhi => .rw .u32 1
  | .wmlo => .rw .u32 1 | .wmmap => .rw .bits32 1 | .qstat => .status | .occ => .ro .u32 | .pkts => .ro .u32 | .commits => .ro .u48
  | .rewinds => .ro .u32 | .oversize => .ro .u32 | .wmUps => .ro .u32 | .headCell => .ro .u32 | .qpop => (Desc.wo .u8 1).unjournaled
  | .eccUncorr => .ro .u32 | .disabledDrops => .ro .u32

/-- QSTAT (R459). -/
def qstatOf (s : State) (q : Fin 512) : Word :=
  let k := s.qm.queues[q]
  flagBit 31 k.wmState ||| flagBit 30 k.wmUp ||| flagBit 29 k.wmDown ||| flagBit 28 k.openPkt.isSome
  ||| flagBit 27 (match producerFor s q with
      | some r => s.qm.producers[r].waiting
      | none => false)
  ||| flagBit 26 (k.cells.any fun c => onDieCells ≤ c.index) ||| flagBit 25 k.oversize ||| flagBit 24 k.revoked
  ||| flagBit 23 k.linkBreak.isSome ||| flagBit 22 k.ecc

/-- What a queue object reads (R457). -/
def QReg.read (s : State) (q : Fin 512) (r : QReg) : Val :=
  let k := s.qm.queues[q]
  match r with
  | .qctl => bv k.ctl | .reserve => bv k.reserve | .limit => bv k.limit | .maxpkt => bv k.maxpkt | .wmhi => bv k.wmhi
  | .wmlo => bv k.wmlo | .wmmap => bv k.wmmap | .qstat => bv (qstatOf s q) | .occ => .num k.occ | .pkts => .num k.packets.length
  | .commits => bv k.commits | .rewinds => bv k.rewinds | .oversize => bv k.oversizes | .wmUps => bv k.wmUps
  | .headCell => .num (match k.packets.head?.bind (·.cells.head?) with
      | some c => c.index
      | none => 0xFFFFFFFF)
  | .qpop => .num 0 | .eccUncorr => bv k.eccUncorr | .disabledDrops => bv k.disabledDrops

/-- The source bound to a pipeline (R224). -/
def boundSource (s : State) (p : Fin 16) : Option (Fin 18) :=
  let w := s.pipes[p].source
  match fld w 7 6 with
  | 1 => some (Fin.ofNat 18 (fld w 3 0))
  | 2 => some (Fin.ofNat 18 (16 + fld w 3 0))
  | _ => none

/-- A take is open on a source (R227). -/
def takeOpen (s : State) (i : Fin 18) : Bool := s.srcs[i].take ≠ .idle

/-- A take is open on the source of the pipeline that a PRODUCER code names. -/
def producerBusy (s : State) (code : Nat) : Bool :=
  match producerOf code with
  | some r => match boundSource s (Fin.ofNat 16 r.1) with
    | some i => takeOpen s i
    | none => false
  | none => false

/-- A DMA channel is enabled on queue q (R460). -/
def channelOn (s : State) (q : Fin 512) : Bool :=
  (List.finRange 512).any fun c => bitAt s.dma[c].ctl 31 && fld s.dma[c].ctl 8 0 == q.1

/-- The own checks of a queue object, in the order of R460. DEDUCED, log entry 59. -/
def QReg.check (s : State) (q : Fin 512) (r : QReg) (v : Val) : Status :=
  let k := s.qm.queues[q]
  let w := v.word
  match r with
  | .qctl =>
    let code := fld w 21 16
    firstRefusal
      [(decide (code ≠ 0) && (producerOf code).isNone, .range),
       ((k.en && ! bitAt w 31 || decide (code ≠ k.producer)) && (producerBusy s k.producer || decide (code ≠ k.producer) && producerBusy s code), .state),
       (bitAt w 28 && ! bitAt k.ctl 28 && channelOn s q, .state),
       (decide (code ≠ 0) && (List.finRange 512).any (fun o => decide (o ≠ q) && s.qm.queues[o].en && s.qm.queues[o].producer == code), .busy),
       (bitAt w 31 && ! k.en && decide (shared s < k.reserve.toNat - min k.reserve.toNat (k.cells.filter fun c => c.index < onDieCells).length), .busy),
       (bitAt w 29 && decide (k.wmhi.toNat ≤ k.wmlo.toNat), .range)]
  | .reserve => firstRefusal
      [(k.en && decide (k.reserve.toNat < w.toNat) && decide (shared s < w.toNat - k.reserve.toNat), .busy),
       (decide (196608 < reservedSum s - k.reserve.toNat + w.toNat), .range)]
  | .maxpkt => firstRefusal [(decide (w.toNat < 256) || decide (w.toNat % 256 ≠ 0), .range)]
  | .wmhi => firstRefusal [(bitAt k.ctl 29 && decide (w.toNat ≤ k.wmlo.toNat), .range)]
  | .wmlo => firstRefusal [(bitAt k.ctl 29 && decide (k.wmhi.toNat ≤ w.toNat), .range)]
  | .qpop => firstRefusal [(! bitAt k.ctl 28 || ! headWhole k, .state)]
  | _ => .ok

/-- What an accepted write of a queue object does (R457 to R460). DEDUCED, log entry 59. -/
def QReg.write (q : Fin 512) (r : QReg) (v : Val) (s : State) : State :=
  let w := v.word
  match r with
  | .qctl =>
    let old := s.qm.queues[q]
    let leaves := old.en && (! bitAt w 31 || decide (fld w 21 16 ≠ old.producer))
    let s := match (if leaves then producerOf old.producer else none) with
      | some r => returnCredits r (rewindOpen r s)
      | none => s
    settleQueue q (s.updQueue q fun k => { k with ctl := w &&& (maskOf 31 28 ||| maskOf 21 16) })
  | .reserve => settleQueue q (s.updQueue q fun k => { k with reserve := w })
  | .limit => s.updQueue q fun k => { k with limit := w }
  | .maxpkt => s.updQueue q fun k => { k with maxpkt := w }
  | .wmhi => settleQueue q (s.updQueue q fun k => { k with wmhi := w })
  | .wmlo => settleQueue q (s.updQueue q fun k => { k with wmlo := w })
  | .wmmap => driveXoff (s.updQueue q fun k => { k with wmmap := w &&& (maskOf 31 31 ||| maskOf 27 23 ||| maskOf 19 16) })
  | .qstat => s.updQueue q fun k =>
      { k with wmUp := keepSticky k.wmUp (bitAt w 30), wmDown := keepSticky k.wmDown (bitAt w 29), oversize := keepSticky k.oversize (bitAt w 25)
               revoked := keepSticky k.revoked (bitAt w 24), ecc := keepSticky k.ecc (bitAt w 22) }
  | .qpop => if v.toNat = 1 then releasePacket q s else s
  | _ => s

/-- Pool objects (R461). -/
inductive PoolReg where
  | spillMark | refillMark | guardLo | guardHi | poolstat | freeOndie | freeStall | shared | reservedSum | stallCells | eccCorr | linkEcc
  | revokes | xoffcfg (n : Fin 16) | cellSel | cellTag | cellData
deriving DecidableEq, Repr

/-- Objects that stand once (R457). -/
def PoolReg.plainRows : List (Nat × PoolReg) :=
  [(0x610001, .spillMark), (0x610002, .refillMark), (0x610003, .guardLo), (0x610004, .guardHi), (0x610005, .poolstat), (0x610006, .freeOndie),
   (0x610007, .freeStall), (0x610008, .shared), (0x610009, .reservedSum), (0x61000A, .stallCells), (0x61000B, .eccCorr), (0x61000C, .linkEcc),
   (0x61000D, .revokes), (0x612001, .cellSel), (0x612002, .cellTag), (0x612003, .cellData)]

/-- The XOFF pins (R457). -/
def PoolReg.xoffRows : List (Nat × PoolReg) :=
  (List.finRange 16).map fun n => (0x611001 + n.1, .xoffcfg n)

/-- The pool objects with their places (R461). -/
def PoolReg.table : List (Nat × PoolReg) := PoolReg.plainRows ++ PoolReg.xoffRows

/-- What the table says of a pool object (R461). -/
def PoolReg.desc : PoolReg → Desc
  | .spillMark => .rw .u32 2 | .refillMark => .rw .u32 2 | .guardLo => .rw .u48 2 | .guardHi => .rw .u48 2 | .poolstat => .status
  | .freeOndie => .ro .u32 | .freeStall => .ro .u48 | .shared => .ro .u32 | .reservedSum => .ro .u32 | .stallCells => .ro .u32
  | .eccCorr => .ro .u48 | .linkEcc => .ro .u32 | .revokes => .ro .u32 | .xoffcfg _ => .rw .bits32 1 | .cellSel => (Desc.rw .u32 2).unjournaled
  | .cellTag => .ro .u64 2 | .cellData => (Desc.ro .blob 2).long 512

/-- What a pool object reads (R461, R462). -/
def PoolReg.read (s : State) : PoolReg → Val
  | .spillMark => bv s.qm.spillMark | .refillMark => bv s.qm.refillMark | .guardLo => bv s.qm.guardLo | .guardHi => bv s.qm.guardHi
  | .poolstat => bv (flagBit 31 s.qm.ondieLend ||| flagBit 30 s.qm.stallLend ||| flagBit 29 s.qm.guard ||| flagBit 28 s.qm.spilled)
  | .freeOndie => .num s.qm.freeD | .freeStall => .num s.qm.freeS | .shared => .num (Machine.shared s) | .reservedSum => .num (Machine.reservedSum s)
  | .stallCells => .num s.qm.ns | .eccCorr => bv s.qm.eccCorr | .linkEcc => bv s.qm.linkEcc | .revokes => bv s.qm.revokes
  | .xoffcfg n => bv s.qm.xoff[n].cfg | .cellSel => bv s.qm.cellSel
  | .cellTag => .num ((s.qm.snap.map fun x => x.tag.toNat).getD 0) | .cellData => .bytes ((s.qm.snap.map (·.data)).getD [])

/-- The own checks of a pool object (R451, R461). -/
def PoolReg.check (s : State) (r : PoolReg) (v : Val) : Status :=
  let n := v.toNat
  match r with
  | .spillMark => firstRefusal [(decide (s.qm.refillMark.toNat ≤ n), .range)]
  | .refillMark => firstRefusal [(decide (n ≤ s.qm.spillMark.toNat), .range)]
  | .guardLo => firstRefusal [(decide (s.qm.guardHi.toNat ≤ n), .range)]
  | .guardHi => firstRefusal [(decide (n ≤ s.qm.guardLo.toNat), .range)]
  | .cellSel => firstRefusal [(decide (onDieCells + s.qm.ns ≤ n), .range)]
  | _ => .ok

/-- What an accepted write of a pool object does (R448, R450, R461, R462). -/
def PoolReg.write (r : PoolReg) (v : Val) (s : State) : State :=
  let w := v.word
  match r with
  | .spillMark => lend (s.updQm fun m => { m with spillMark := w })
  | .refillMark => lend (s.updQm fun m => { m with refillMark := w })
  | .guardLo => lend (s.updQm fun m => { m with guardLo := BitVec.ofNat 48 v.toNat })
  | .guardHi => lend (s.updQm fun m => { m with guardHi := BitVec.ofNat 48 v.toNat })
  | .poolstat => s.updQm fun m => { m with guard := keepSticky m.guard (bitAt w 29), spilled := keepSticky m.spilled (bitAt w 28) }
  | .xoffcfg n =>
    let was := bitAt s.qm.xoff[n].cfg 31
    let s := s.updXoff n fun x => { x with cfg := w &&& maskOf 31 30, minHold := x.minHold && bitAt w 31 }
    if bitAt w 31 then driveXoff s
    else if was then s.updPins fun p => { p with xoff := modAt p.xoff n fun _ => xoffCold s }
    else s
  | .cellSel => s.updQm fun m => { m with cellSel := w, snap := none }
  | _ => s

end Sys2Proof.Machine
end

