-- ==== Sys2Proof/Machine/Stamping.lean ====
section
/-! DEFINITION. How a frame gets its timebase and PTP stamps (R388 to R390). Instants are in fs of core time. -/

namespace Sys2Proof.Machine

open Sys2Proof

/-- A core clock in fs (R24). -/
def clkFs : Nat := 800000

/-- The departure of a link cue's reference symbol: half a symbol later at every second core clock (R385). DEDUCED, log entry 37. -/
def departFs (at_ : Nat) : Nat := at_ * clkFs + (if at_ % 2 = 1 then 17780 else 0)

/-- TRIG_DELAY of the partner on a port (R185). -/
def trigDelayOf (s : State) (p : Fin 16) : Nat :=
  match s.ports[p].roles.head? with
  | some n => ((s.lanes[n].caps.map (·.trigDelay)).getD 0)
  | none => 0

/-- The ports listed in a head (R233). -/
def headPorts (s : State) (h : Fin 16) : List (Fin 16) :=
  let w := s.heads[h].ctl
  (List.range (fld w 29 28 + 1)).map fun k => Fin.ofNat 16 (fld w (15 + 4 * k) (12 + 4 * k))

/-- The port of a head with HEAD_PORT k (R214). -/
def portOf (s : State) (h : Fin 16) (k : Nat) : Option (Fin 16) := (headPorts s h).find? fun p => s.ports[p].headPort == k

/-- The action instant of the triggering cue (R389). -/
def actionFs (s : State) (i : Fin 18) (c : CueRec) : Nat :=
  let flight := fld s.tb.stamps[i].ctl 11 0 * 100000
  if c.isPin then c.at_ * clkFs + 6400000 + c.delay * clkFs + flight
  else
    let d := match finOf 16 i.1 with
      | some h => match portOf s h 0 with
        | some p => trigDelayOf s p
        | none => 0
      | none => 0
    departFs c.at_ + 580270000 + flight + d * 35560

/-- A lookup at time t (R389). -/
def histAt (s : State) (t : Nat) : Option Hist :=
  if s.coreTime * clkFs < t then none else s.tb.hist.find? fun h => decide (h.core * clkFs ≤ t)

/-- STAMP_FALLBACK of a source, once more. -/
def fallBack (i : Fin 18) (s : State) : State := s.updStamp i fun k => { k with fallback := satInc k.fallback }

/-- The triggering cue of a frame that starts now (R388). DEDUCED, log entry 37. -/
def triggerOf (i : Fin 18) (start : Option FrameStart) (s : State) : Option CueRec × State :=
  match start with
  | some f =>
    if f.tidValid then
      match s.tb.stamps[i].tids.find? fun c => c.tid == some f.tid with
      | some c => (some c, s)
      | none => (none, fallBack i s)
    else (s.tb.stamps[i].last, s)
  | none => (s.tb.stamps[i].last, s)

/-- What a frame or exposure that starts now has of its cue; a later exposure of a group keeps the first one's (R388, R389). -/
def startBase (i : Fin 18) (start : Option FrameStart) (group : Option StampMark) (s : State) : StampMark × State :=
  match group with
  | some m => ({ m with start := none }, s)
  | none =>
    match triggerOf i start s with
    | (some c, s) => ({ action := some (actionFs s i c), tb := c.value, ptpNs := BitVec.ofNat 32 c.ptpNs, ptpS := BitVec.ofNat 48 c.ptpS
                        late := c.late, start := none }, s)
    | (none, s) => ({ action := none, tb := s.tb.tb, ptpNs := BitVec.ofNat 32 s.ptp.ns, ptpS := BitVec.ofNat 48 s.ptp.sec
                      late := false, start := none }, s)

/-- The lookup of the start instant that a partner reports (R389). -/
def startLookup (i : Fin 18) (start : Option FrameStart) (base : StampMark) (s : State) : StampMark × State :=
  match base.action, start with
  | some a, some f =>
    if f.startValid then
      match histAt s (a + 1000000 * f.startOfs.toNat) with
      | some h => ({ base with start := some (a + 1000000 * f.startOfs.toNat, h.tb, BitVec.ofNat 32 h.ptpNs, BitVec.ofNat 48 h.ptpS) }, s)
      | none => (base, fallBack i s)
    else (base, s)
  | _, _ => (base, s)

/-- What a frame or exposure that starts now fixes of its stamps (R388, R389). -/
def startMark (i : Fin 18) (start : Option FrameStart) (group : Option StampMark) (s : State) : StampMark × State :=
  let b := startBase i start group s
  startLookup i start b.1 b.2

/-- A frame's stamps once its end has been reported (R389). -/
def stampsOf (i : Fin 18) (m : StampMark) (stop : FrameEnd) (s : State) : Stamps × State :=
  match m.start with
  | some (t, tb, ns, sec) =>
    if stop.endValid then
      match histAt s (t + 1000000 * stop.exposure.toNat) with
      | some h => ({ tbStart := tb, tbEnd := h.tb, ptpNs := ns, ptpS := sec, late := m.late }, s)
      | none => ({ tbStart := tb, tbEnd := tb, ptpNs := ns, ptpS := sec, late := m.late }, fallBack i s)
    else ({ tbStart := tb, tbEnd := tb, ptpNs := ns, ptpS := sec, late := m.late }, s)
  | none => ({ tbStart := m.tb, tbEnd := m.tb, ptpNs := m.ptpNs, ptpS := m.ptpS, late := m.late }, s)

end Sys2Proof.Machine
end

