-- ==== Sys2Proof/Machine/Pipes.lean ====
section
/-! DEFINITION. A pipeline at work (chapters 08, 09 and 10): what takes effect at a start of frame, the stages over a frame's
samples and the map store, stage 8 with the packer and the Tally engine, and what becomes of packets and records. -/

namespace Sys2Proof.Machine

open Sys2Proof

/-- The data producer of pipeline p (R428). -/
def dataProducer (p : Fin 16) : Fin 32 := Fin.ofNat 32 p.1
/-- The statistics producer of pipeline p. -/
def statProducer (p : Fin 16) : Fin 32 := Fin.ofNat 32 (16 + p.1)

/-- The pipeline bound to a source (R224). -/
def boundPipe (s : State) (i : Fin 18) : Option (Fin 16) := (List.finRange 16).find? fun p => boundSource s p == some i

/-- A merge group has exposures beyond the first only at a head (R219, R230). -/
def pcamChannels (mode : Nat) : Nat := if mode = 2 then 3 else 1

/-- What a source's frames look like in the open take (R230, R232, R235). -/
def shapeOf (s : State) (i : Fin 18) : Shape :=
  let g := s.srcs[i].geomNow
  match finOf 16 i.1 with
  | some h =>
    let f := s.heads[h].formatNow
    { width := geomW g, height := geomH g, channels := fld f 11 10 + 1, pixelBits := fld f 4 0, taps := 2 ^ fld f 17 15
      layout := fld f 20 18, exposures := fld f 25 24 + 1 }
  | none =>
    let c := s.pcams[(Fin.ofNat 2 (i.1 - 16))].ctl
    { width := geomW g, height := geomH g, channels := pcamChannels (fld c 25 24), pixelBits := fld c 4 0, taps := 1, layout := 0, exposures := 1 }

/-! ### Regions -/

/-- Regions of R257, in the order of their descriptors. -/
abbrev rDark : Fin 5 := 0
/-- The gain map. -/
abbrev rGain : Fin 5 := 1
/-- The defect list. -/
abbrev rDefect : Fin 5 := 2
/-- The merge region. -/
abbrev rMerge : Fin 5 := 3
/-- The reorder region. -/
abbrev rReorder : Fin 5 := 4

/-- EN of a descriptor (R257). -/
def descEn (d : BitVec 64) : Bool := bitAt d 63
/-- LOC of a descriptor. -/
def descLoc (d : BitVec 64) : Bool := bitAt d 62
/-- FMT of a descriptor. -/
def descFmt (d : BitVec 64) : Nat := fld d 55 52
/-- PAGES of a descriptor. -/
def descPages (d : BitVec 64) : Nat := fld d 51 32
/-- OFFSET of a descriptor. -/
def descOfs (d : BitVec 64) : Nat := fld d 31 0

/-- Bytes of an entry of a region (R257). -/
def entryBytes (k : Fin 5) (d : BitVec 64) : Nat :=
  match k with
  | 0 => if descFmt d = 1 then 3 else 2
  | 3 => 3
  | 2 => 8
  | _ => 2

/-- n bytes at an offset of a region, as a number, and whether a word of them is uncorrectable (R257, R261). -/
def regionNum (s : State) (p : Fin 16) (k : Fin 5) (o n : Nat) : Nat × Bool :=
  let d := s.pipes[p].descActive[k]
  let m := if descLoc d then s.host.smap else s.mapStore
  let a := descOfs d * 4096 + o
  (m.num a n, m.poisoned a n || (descLoc d && (wordsOf o n).any fun w => s.pipes[p].badWords.contains (k, 0, w)))

/-- The pages a region needs for the frames of a shape (R257). -/
def pagesNeeded (k : Fin 5) (d : BitVec 64) (g : Shape) : Nat :=
  match k with
  | 0 => ceilDiv (entryBytes rDark d * g.count) 4096
  | 1 => ceilDiv (2 * g.count) 4096
  | 3 => ceilDiv (3 * g.count * (g.exposures - 1)) 4096
  | 4 => ceilDiv g.count 4096
  | _ => 0

/-! ### The frame that is coming -/

/-- A frame of the source is being received, so it is in progress for the pipeline. -/
def receiving (s : State) (i : Fin 18) : Bool :=
  match finOf 16 i.1 with
  | some h => s.heads[h].openAt.isSome && ! s.heads[h].ignoring || ! s.heads[h].group.isEmpty
  | none => let c := s.pcams[(Fin.ofNat 2 (i.1 - 16))]; c.opened && ! c.ignoring

/-- The last exposure of a group to be delivered is coming: the one whose samples pass all the stages (R250, R264). -/
def lastExposure (s : State) (i : Fin 18) : Bool :=
  match finOf 16 i.1 with
  | some h => s.heads[h].openAt.isSome && ! s.heads[h].ignoring && s.heads[h].expNext + 1 == (shapeOf s i).exposures
  | none => let c := s.pcams[(Fin.ofNat 2 (i.1 - 16))]; c.opened && ! c.ignoring

/-- The samples received of the frame that is coming, by port of the head, in link order (R216). -/
def partsOf (s : State) (i : Fin 18) : List (List Nat) :=
  match finOf 16 i.1 with
  | some h => (List.range (headPorts s h).length).map fun k => (s.heads[h].rx[(Fin.ofNat 4 k)]).samples
  | none => let c := s.pcams[(Fin.ofNat 2 (i.1 - 16))]; [c.lines.flatten ++ c.line]

/-- Whole link lines received from the first on: line L comes on port L mod NPORTS (R216). -/
def wholeLines (g : Shape) (parts : List (List Nat)) : Nat :=
  let n := max parts.length 1
  ((List.range g.height).takeWhile fun l => decide ((l / n + 1) * (g.width * g.channels) ≤ ((parts[l % n]?).getD []).length)).length

/-! ### What stops a pipeline -/

/-- Region r of pipeline p streams (R257, R265). -/
def streams (s : State) (p : Fin 16) (r : Fin 5) : Bool := descEn s.pipes[p].descActive[r] && descLoc s.pipes[p].descActive[r]

/-- Word i of the defect list; none when it is uncorrectable (R253, R261). -/
def defectWord (s : State) (p : Fin 16) (i : Nat) : Option (BitVec 64) :=
  let (v, bad) := regionNum s p rDefect (8 * i) 8
  if bad then none else some (BitVec.ofNat 64 v)

/-- The most words of a defect list that are read (R254). -/
def defectCap (s : State) (p : Fin 16) : Nat := min (descPages s.pipes[p].descActive[rDefect] * 512) 1048576

/-- Words of streamed region r that the first m samples of a frame need (R265). DEDUCED, log entry 116. -/
def wordsNeeded (s : State) (p : Fin 16) (g : Shape) (r : Fin 5) (m : Nat) : Nat :=
  if r = rDefect then (if m = 0 then 0 else wordsRead (defectWord s p) ((m - 1) / max (g.width * g.channels) 1) (defectCap s p) 0)
  else ceilDiv (entryBytes r s.pipes[p].descActive[r] * m) 8

/-- Words of streamed region r that a whole frame takes (R265). -/
def frameWords (s : State) (p : Fin 16) (g : Shape) (r : Fin 5) : Nat :=
  if r = rDefect then wordsRead (defectWord s p) g.height (defectCap s p) 0 else wordsNeeded s p g r g.count

/-- The regions that stage 4 streams (R256, R265). -/
def streamedRegions (s : State) (p : Fin 16) : List (Fin 5) :=
  if bitAt s.pipes[p].act.corr 31 then [] else [rDark, rGain, rDefect].filter (streams s p)

/-- The buffer holds no entry for the next sample of the frame that is coming, and that sample needs one (R264, R265). DEDUCED, log entry 116. -/
def streamStarved (s : State) (p : Fin 16) : Bool :=
  match boundSource s p with
  | some i =>
    let m := ((partsOf s i).map List.length).sum
    lastExposure s i && decide (m < (shapeOf s i).count)
      && (streamedRegions s p).any fun r => decide (s.pipes[p].prefetch[r] < wordsNeeded s p (shapeOf s i) r (m + 1))
  | none => false

/-- Stage 8 is the Tally engine for a PACKCTL (R26, R304). -/
def isTally (pack : Word) : Bool := fld pack 31 30 == 2

/-- Records in the backlog of engine p (R322). -/
def backlog (s : State) (p : Fin 16) : Nat := (s.qm.producers[(dataProducer p)].buf.length) / 8

/-- MODE of a set: dense count. -/
def TallySet.dense (t : TallySet) : Bool := bitAt t.ctl 30

/-- The Tally engine takes no samples (R323, R328, R329). -/
def tallyStalled (s : State) (p : Fin 16) : Bool :=
  match s.pipes[p].works with
  | w :: _ =>
    isTally w.pack &&
      (if w.tset.dense then w.whole && s.tallies[p].image.waiting.isSome
       else ! bitAt w.tset.ctl 27 && ! w.rows.isEmpty && decide (8192 ≤ backlog s p))
  | [] => false

/-- The pipeline takes samples from its source (R23, R242, R265, R323, R328, R433). -/
def takesSamples (s : State) (p : Fin 16) : Bool :=
  ! s.qm.producers[(dataProducer p)].waiting && ! s.pipes[p].readback && ! streamStarved s p && ! tallyStalled s p

/-! ### Stamps, slates -/

/-- The slate of a packet, its CRC left out (R298, R300). -/
def slateOf (src : Fin 18) (p : Fin 16) (take : Word) (no : BitVec 48) (epoch : BitVec 16) (first last : Stamps) (kind flags len count : Nat) : List Byte :=
  [0xC5, 1, BitVec.ofNat 8 src.1, BitVec.ofNat 8 p.1] ++ leBytes 4 take.toNat ++ leBytes 6 no.toNat ++ leBytes 2 epoch.toNat
    ++ leBytes 6 first.tbStart.toNat ++ leBytes 6 last.tbEnd.toNat ++ leBytes 4 first.ptpNs.toNat ++ leBytes 6 first.ptpS.toNat
    ++ [BitVec.ofNat 8 kind, BitVec.ofNat 8 flags] ++ leBytes 4 len ++ leBytes 4 count ++ List.replicate 16 0

/-- FLAGS of a slate (R300). -/
def slateFlags (sat standby replayed truncated late gap : Bool) : Nat :=
  (if sat then 32 else 0) + (if standby then 16 else 0) + (if replayed then 8 else 0) + (if truncated then 4 else 0) + (if late then 2 else 0)
    + (if gap then 1 else 0)

/-- The slate of a statistics record: its packet's, with its own kind, length and count (R292). -/
def recordSlate (slate : List Byte) (len : Nat) : List Byte := slate.take 38 ++ [3] ++ (slate.drop 39).take 1 ++ leBytes 4 len ++ leBytes 4 0 ++ slate.drop 48

/-! ### Packets closed, committed and lost -/

/-- The data producer has no packet closed and waiting to commit (R439). -/
def dataFree (s : State) (p : Fin 16) : Bool := s.qm.producers[(dataProducer p)].closing.isNone

/-- A data packet closed with its slate: it commits once its bytes are written (R440). The records of its frames wait for that (R292). -/
def closePacket (p : Fin 16) (c : Closed) (s : State) : State :=
  (s.updPipe p fun k =>
    { k with closed := some c, statRecs := k.statRecs.map fun x => if x.place = .opened then { x with place := .closed } else x }).updProducer (dataProducer p)
    fun r => { r with closing := some c.slate }

/-- The log entry of an epoch gets the number of the packet that holds its first frame (R297). -/
def logSlate (p : Fin 16) (src : Fin 18) (epoch : BitVec 16) (s : State) : State :=
  s.updPipe p fun k => { k with epochLog := k.epochLog.map fun e => if e.epoch = epoch then { e with slate := s.srcs[src].slateNo } else e }

/-- The frame of the Tally batch with account a that is in progress leaves it: the batch is rewound to the mark before the frame's first record
(R331, R441). -/
def rewindFrame (p : Fin 16) (a : PktAcct) (s : State) : State :=
  let r := dataProducer p
  let keep := 8 * a.events + 16 * a.entries
  match (queueOf s r).filter fun q => s.qm.queues[q].openPkt.isSome with
  | some q => rewindToMark r (s.updQueue q fun k => { k with openPkt := k.openPkt.map fun o => { o with mark := some (64 + keep) } })
  | none => s.updProducer r fun k => { k with buf := k.buf.take keep }

/-- The account of a data packet of pipeline p that has been rewound whole: its Tally frames and its records are lost with it
(R292, R332, R333). -/
def packetLost (p : Fin 16) (s : State) : State :=
  let k := s.pipes[p]
  let busy := match k.works with
    | w :: _ => if isTally w.pack && ! w.tset.dense && decide (0 < w.written) then 1 else 0
    | [] => 0
  let n := match k.closed with
    | some c => if c.tally then c.frames else 0
    | none => match k.pkt with
      | some a => a.frames + busy
      | none => 0
  let gone : RecPlace := if k.closed.isSome then .closed else .opened
  let s := s.updPipe p fun k =>
    { k with pkt := none, closed := none, gap := true, statRecs := k.statRecs.filter fun x => x.slate.isSome || x.place ≠ gone }
  s.updTally p fun t => { t with lostFrames := satAdd t.lostFrames n, timedOut := false }

/-! ### The Tally engine's batches and images -/

/-- I, the bytes of a count image (R327). -/
def TallySet.imageBytes (t : TallySet) (w h : Nat) : Nat := let (a, b) := t.imageSize w h; ceilDiv (a * b * t.cellBits) 8

/-- Where the current image and the staging area of a frame begin in the map store (R327). -/
def imageBase (t : TallySet) (w h : Nat) (b : Bool) : Nat := descOfs t.accDesc * 4096 + (if b then t.imageBytes w h else 0)

/-- The staging area in use. -/
def stageBase (t : TallySet) (w h : Nat) (b : Bool) : Nat :=
  descOfs t.accDesc * 4096 + 2 * t.imageBytes w h + (if b then 4 * t.budget.toNat else 0)

/-- EPOCH of the frame that is coming (R295, R296). -/
def Pipe.frameEpoch (k : Pipe) : BitVec 16 := (k.opening.map (·.epoch)).getD k.epoch

/-- What is open of a take and epoch must close: another one follows, or the take has ended (R296, R318, R329). -/
def mustClose (s : State) (p : Fin 16) (src : Fin 18) (take : Word) (epoch : BitVec 16) : Bool :=
  match s.pipes[p].works with
  | w :: _ => w.src ≠ src || w.take ≠ take || w.epoch ≠ epoch
  | [] => s.srcs[src].take = .idle || s.srcs[src].takeNo ≠ take || s.pipes[p].frameEpoch ≠ epoch

/-- The open batch commits (R318, R319); one with no complete frame is rewound. DEDUCED, log entry 36. -/
def closeBatch (p : Fin 16) (a : PktAcct) (s : State) : State :=
  let s := s.updTally p fun t => { t with timedOut := false }
  if a.frames = 0 then rewindOpen (dataProducer p) (s.updPipe p fun k => { k with pkt := none })
  else
    let len := 8 * a.events + 16 * a.entries
    let slate := slateOf a.src p a.take s.srcs[a.src].slateNo a.epoch a.first a.last 2
      (slateFlags a.sat a.standby a.replayed a.truncated a.late a.gap) len a.events
    closePacket p { src := a.src, slate := slate, raw := 0, packed := len, tally := true, events := a.events, frames := a.frames }
      (s.updPipe p fun k => { k with pkt := none })

/-- A batch commits now if a cause of R318 other than its own frames' holds. -/
def settleBatch (p : Fin 16) (s : State) : State :=
  match s.pipes[p].pkt with
  | some a =>
    let begun := match s.pipes[p].works with
      | w :: _ => decide (0 < w.written)
      | [] => false
    if dataFree s p && ! begun && (mustClose s p a.src a.take a.epoch || (s.tallies[p].timedOut && s.pipes[p].works.isEmpty && ! receiving s a.src)) then closeBatch p a s
    else s
  | none => s

/-- The closed image leaves as one packet, and the other image is current (R329). -/
def closeImage (p : Fin 16) (s : State) : State :=
  let m := s.tallies[p].image
  let t := m.tset
  let w := m.width
  let h := m.height
  match m.first, m.last with
  | some a, some b =>
    let bytes := s.mapStore.read (imageBase t w h m.imgB) (t.imageBytes w h)
    let slate := slateOf m.src p m.take s.srcs[m.src].slateNo m.epoch a b 0
      (slateFlags m.sat m.standby m.replayed (m.truncated || m.clipped) m.late m.gap) bytes.length 0
    let s := (if m.opens then logSlate p m.src m.epoch s else s).updProducer (dataProducer p) fun r => { r with buf := bytes }
    let s := closePacket p { src := m.src, slate := slate, raw := bytes.length, packed := bytes.length, tally := true, events := 0, frames := m.applied } s
    s.updTally p fun k => { k with image := { imgB := ! m.imgB, stageB := m.stageB, width := w, height := h, tset := t, reading := true, waiting := m.waiting } }
  | _, _ => s

/-- An image closes now if it is due and the other image's readout has ended (R329). -/
def settleImage (p : Fin 16) (s : State) : State :=
  let m := s.tallies[p].image
  let due := decide (m.tset.accFrames.toNat ≤ m.applied) || (match m.waiting with
    | some w => w.src ≠ m.src || w.take ≠ m.take || w.epoch ≠ m.epoch
    | none => mustClose s p m.src m.take m.epoch)
  if m.applied ≠ 0 && ! m.reading && dataFree s p && due then closeImage p s else s

/-- Batches and images that are due close. -/
def settlePipe (p : Fin 16) (s : State) : State := settleImage p (settleBatch p s)

/-! ### Start of frame -/

/-- Every committed and swapped set of a pipeline takes effect (R246, R258, R275, R278, R335); a commit is a pipeline change
(R294). -/
def takeEffect (p : Fin 16) (s : State) : State :=
  let k := s.pipes[p]
  let t := s.tallies[p]
  let any := k.linCommit || k.swap.isSome || k.mixCommit || k.curveCommit || t.commit
  let s := s.updPipe p fun k =>
    { k with act := k.cfg, statNow := k.stat, changed := k.changed || any
             lutActive := if k.linCommit then k.lutShadow else k.lutActive, lutShadow := if k.linCommit then k.lutActive else k.lutShadow
             descActive := k.swap.getD k.descActive, mixActive := if k.mixCommit then k.mixShadow else k.mixActive
             curveActive := if k.curveCommit then k.curveShadow else k.curveActive
             curveShadow := if k.curveCommit then k.curveActive else k.curveShadow
             linCommit := false, swap := none, mixCommit := false, curveCommit := false }
  if t.commit then s.updTally p fun t => { t with active := t.shadow, commit := false } else s

/-- a is at or after b modulo 2^16 (R293). -/
def atOrAfter (a b : BitVec 16) : Bool := decide ((a - b).toNat < 2 ^ 15)

/-- A sensor change takes effect at a frame (R293, R295). -/
def lands (frame : BitVec 16) (change : Option (BitVec 16)) : Bool :=
  match change with
  | some e => atOrAfter frame e
  | none => true

/-- A frame starts at which changes take effect: it will open a new epoch, once it is delivered (R293 to R295). DEDUCED, log entry 136. -/
def beginEpoch (p : Fin 16) (src : Fin 18) (frame : BitVec 16) (s : State) : State :=
  let k := s.pipes[p]
  let sensor := k.outstanding.any (lands frame)
  if ! (sensor || k.changed || k.resetCause) then s
  else
    let cause : BitVec 16 := (if sensor then 1 else 0) ||| (if k.changed then 2 else 0) ||| (if k.resetCause then 4 else 0)
    s.updPipe p fun k =>
      { k with changed := false, resetCause := false
               opening := some { epoch := k.epoch + 1, cause := cause, frame := frame, slate := s.srcs[src].slateNo } }

/-- The frame that opens an epoch has been delivered: EPOCH moves, the opening is logged and published, and the changes that landed are
outstanding no more (R293, R295, R297). DEDUCED, log entry 136. -/
def openEpoch (p : Fin 16) (s : State) : State :=
  match s.pipes[p].opening with
  | none => s
  | some e =>
    publish (0x0220 + p.1) (s.updPipe p fun k =>
      { k with epoch := e.epoch, opening := none, outstanding := k.outstanding.filter fun c => ! lands e.frame c, epochLog := (e :: k.epochLog).take 16 })

/-- The frame that would have opened an epoch is discarded: the next one does (R293, R295). DEDUCED, log entry 136. -/
def dropEpoch (k : Pipe) : Pipe :=
  match k.opening with
  | none => k
  | some e => { k with opening := none, changed := k.changed || e.cause.getLsbD 1, resetCause := k.resetCause || e.cause.getLsbD 2 }

/-- The four checks at a start of frame: the regions or the layout that fail it (R241, R260). -/
def startFails (s : State) (p : Fin 16) (i : Fin 18) : List (Fin 4) :=
  let k := s.pipes[p]
  let g := shapeOf s i
  let short := fun (r : Fin 5) => decide (descPages k.descActive[r] < pagesNeeded r k.descActive[r] g)
  let need := fun (r : Fin 5) => ! descEn k.descActive[r] || short r
  let unordered := bitAt k.act.lin 31
  (if ! bitAt k.act.corr 31 && ((descEn k.descActive[rDark] && short rDark) || (descEn k.descActive[rGain] && short rGain)) then [0] else [])
  ++ (if decide (1 < g.exposures) && ! bitAt k.act.merge 31 && need rMerge then [1] else [])
  ++ (if g.layout == 4 && ! unordered && need rReorder then [2] else [])
  ++ (if ! unordered && ! layoutFits g.layout g.taps g.width g.height then [3] else [])

/-- The first start-of-frame block of a frame or group that a pipeline will take (R246, R258, R260, R295): the state, and
whether the frame is discarded. -/
def pipeStart (p : Fin 16) (i : Fin 18) (frame : BitVec 16) (s : State) : State × Bool :=
  let s := settlePipe p (beginEpoch p i frame (takeEffect p s))
  let bad := startFails s p i
  let s := s.updPipe p fun k => { k with eccLogged := false }
  if bad.isEmpty then
    -- a batch opens with the first frame when none is open (R317)
    let k := s.pipes[p]
    let mark : Stamps := { tbStart := 0, tbEnd := 0, ptpNs := 0, ptpS := 0, late := false }
    (if isTally k.packNow && ! s.tallies[p].active.dense && k.works.isEmpty && k.pkt.isNone && dataFree s p then
       s.updPipe p fun k => { k with pkt := some { src := i, take := s.srcs[i].takeNo, epoch := k.frameEpoch, first := mark, last := mark, sat := false, standby := false
                                                   replayed := false, truncated := false, late := false, gap := false, frames := 0, events := 0, entries := 0 } }
     else s, false)
  else
    (s.updPipe p fun k =>
      { k with cfgDiscards := satInc k.cfgDiscards, mapShort := k.mapShort || bad.contains 0, mergeShort := k.mergeShort || bad.contains 1
               reorderShort := k.reorderShort || bad.contains 2, layoutBad := k.layoutBad || bad.contains 3 }, true)

/-! ### A frame through stages 1 to 7 -/

/-- Uncorrectable words of the map store within a region's first n bytes (R261). -/
def badIn (s : State) (d : BitVec 64) (o n : Nat) : List Nat := (wordsOf (descOfs d * 4096 + o) n).filter (s.mapStore.bad.contains ·)

/-- Words of the map store read by the stages: how many of them held a single-bit error that was corrected, nothing shows (R261). DESIGN CHOICE, log entry 34. -/
def countCorrected (p : Fin 16) (n : Nat) (s : State) : State :=
  if n = 0 then s
  else
    let (x, s) := s.drawNat
    s.updPipe p fun k => { k with eccCorr := satAdd k.eccCorr (x % (n + 1)) }

/-- Uncorrectable words counted, and entered in the fault log once in a frame (R261). -/
def countBad (p : Fin 16) (ws : List Nat) (s : State) : State :=
  match ws with
  | [] => s
  | w :: _ =>
    let s := s.updPipe p fun k => { k with eccUncorr := satAdd k.eccUncorr ws.length }
    if s.pipes[p].eccLogged then s
    else fault 0x0203 1 .pipe p.1 (w * 8 / 4096) (s.updPipe p fun k => { k with eccLogged := true })

/-- Stage 1 and stage 2 of one exposure: the reorder region is written and read for layout 4 (R239 to R247). The samples in raster
order, and which of them lie in an uncorrectable reorder word. -/
def frontStages (p : Fin 16) (g : Shape) (parts : List (List Nat)) (s : State) : List Nat × List Bool × State :=
  let k := s.pipes[p]
  let pass := bitAt k.act.lin 31
  let xs := reordered g pass parts
  let half := g.height / 2 * (g.width * g.channels)
  let four := g.layout == 4 && ! pass
  let d := k.descActive[rReorder]
  let s := if four then
      ({ s with mapStore := s.mapStore.write (descOfs d * 4096) ((xs.drop half).flatMap (leBytes 2)) } : State).updPipe p fun k => { k with readback := true }
    else s
  let bad := (List.range xs.length).map fun i => four && decide (half ≤ i) && (regionNum s p rReorder (2 * (i - half)) 2).2
  let s := if four then countCorrected p (wordsOf (descOfs d * 4096) (2 * (xs.length - half))).length (countBad p (badIn s d 0 (2 * (xs.length - half))) s) else s
  let ys := xs.zipIdx.map fun (v, i) =>
    let w := widen g.pixelBits v
    if bitAt k.act.lin 30 then w
    else
      let c := if bitAt k.act.lin 29 then 0 else i % g.channels
      linearise ((atNat k.lutActive c).getD .identity) w
  (ys, bad, s)

/-- An exposure before the last of its group is held in the merge region, and its samples that came from an uncorrectable reorder word are
remembered (R250, R261). -/
def holdExposure (p : Fin 16) (g : Shape) (e : Nat) (parts : List (List Nat)) (s : State) : State :=
  let (ys, bad, s) := frontStages p g parts s
  if bitAt s.pipes[p].act.merge 31 then s
  else
    let s := s.updPipe p fun k => { k with heldBad := k.heldBad ++ (bad.zipIdx.filter (·.1)).map (·.2) }
    { s with mapStore := s.mapStore.write (descOfs s.pipes[p].descActive[rMerge] * 4096 + 3 * g.count * e) (ys.flatMap (leBytes 3)) }

/-- Stage 3 (R248 to R250): the merged samples with their markers, and which lie in an uncorrectable merge word. -/
def mergeStage (s : State) (p : Fin 16) (g : Shape) (ys : List Nat) : List (Nat × Bool) × List Bool :=
  let c := s.pipes[p].act
  if g.exposures = 1 || bitAt c.merge 31 then (ys.map fun y => (y, false), ys.map fun _ => false)
  else
    let held := fun (i e : Nat) => regionNum s p rMerge (3 * g.count * e + 3 * i) 3
    let xs := fun (i : Nat) => (List.range (g.exposures - 1)).map (held i)
    let out := fun (y i : Nat) => mergeOne (fld c.merge 30 29) c.mratio c.msat c.mweight ((xs i).map Prod.fst ++ [y])
    (ys.zipIdx.map fun (y, i) => out y i, ys.zipIdx.map fun (_, i) => (xs i).any fun h => h.2)

/-- The defect list in force (R254, R261): the entries kept, how many were skipped, and the uncorrectable words read. -/
def defectList (s : State) (p : Fin 16) (g : Shape) : List Defect × Nat :=
  let d := s.pipes[p].descActive[rDefect]
  if ! descEn d then ([], 0)
  else readDefects g.width g.height (defectWord s p) (defectCap s p) 0 [] 0

/-- Stage 4 of a frame (R251 to R256): the samples, the state with its counters. DEDUCED, log entry 33. -/
def stage4 (p : Fin 16) (g : Shape) (xs : List (Nat × Bool)) (bad : List Bool) (s : State) : List Smp × State :=
  let k := s.pipes[p]
  let c := k.act.corr
  let held := if 1 < g.exposures && ! bitAt k.act.merge 31 then 3 * g.count * (g.exposures - 1) else 0
  let s := countCorrected p (wordsOf (descOfs k.descActive[rMerge] * 4096) held).length (countBad p (badIn s k.descActive[rMerge] 0 held) s)
  let (out, s) : List Smp × State :=
    if bitAt c 31 then (xs.map fun x => { v := x.1, sat := x.2 }, s)
    else
      let signed := bitAt c 30
      let ped := fun (ch : Nat) => let v := toSigned 24 ((atNat k.act.ped ch).getD 0).toNat; v
      let dd := k.descActive[rDark]
      let dg := k.descActive[rGain]
      let dark := fun (i : Nat) => if descEn dd then
          (let (v, b) := regionNum s p rDark (entryBytes rDark dd * i) (entryBytes rDark dd); (if descFmt dd = 1 then v else v * 2 ^ fld c 29 26, b))
        else (0, false)
      let gain := fun (i : Nat) => if descEn dg then regionNum s p rGain (2 * i) 2 else (16384, false)
      let ys := (xs.zip bad).zipIdx.map fun ((x, b), i) =>
        let (d, bd) := dark i
        let (gn, bg) := gain i
        let (q, cl) := correctOne signed x.1 d gn (ped (i % g.channels))
        (({ v := q, sat := x.2 || cl } : Smp), b || bd || bg)
      let words := (if descEn dd && ! descLoc dd then badIn s dd 0 (entryBytes rDark dd * xs.length) else [])
        ++ (if descEn dg && ! descLoc dg then badIn s dg 0 (2 * xs.length) else [])
      let (ds, skipped) := defectList s p g
      let read := let d := k.descActive[rDefect]; if descEn d && ! descLoc d then badIn s d 0 (8 * (ds.length + skipped)) else []
      let dr := k.descActive[rDefect]
      let onDie := fun (d : BitVec 64) (n : Nat) => if descEn d && ! descLoc d then (wordsOf (descOfs d * 4096) n).length else 0
      let looked := onDie dd (entryBytes rDark dd * xs.length) + onDie dg (2 * xs.length) + onDie dr (8 * frameWords s p g rDefect)
      let maskPed := fun (ch : Nat) => if signed then ped ch else max 0 (ped ch)
      let (zs, unresolved) := correctDefects g.width g.height g.channels ds (ys.map (·.2)).toArray maskPed (ys.map (·.1))
      (zs, countCorrected p looked (countBad p (words ++ read) (s.updPipe p fun k => { k with defSkipped := satAdd k.defSkipped skipped, defUnresolved := satAdd k.defUnresolved unresolved })))
  (out, s.updPipe p fun k => { k with satSamples := satAdd k.satSamples (out.filter (·.sat)).length })

/-- Stage 4's output is signed (R238). DEDUCED, log entry 33. -/
def signed4 (k : Pipe) : Bool := bitAt k.act.corr 30 && ! bitAt k.act.corr 31

/-- Stage 5 (R272 to R274): OUT, the sign and the samples. -/
def stage5 (k : Pipe) (channels : Nat) (xs : List Smp) : Nat × Bool × List Smp :=
  let c := k.act.mix
  if bitAt c 31 then (channels, signed4 k, xs)
  else
    let out := if fld c 28 26 = 0 then channels else fld c 28 26
    (out, bitAt c 30, (pieces channels xs).flatMap (mixPixel k.mixActive (bitAt c 30) out))

/-- Stage 6 (R276): the sign and the samples. -/
def stage6 (k : Pipe) (out : Nat) (signed : Bool) (xs : List Smp) : Bool × List Smp :=
  let c := k.act.curve
  if bitAt c 31 then (signed, xs)
  else
    (false, xs.zipIdx.map fun (x, i) =>
      let o := if bitAt c 30 then 0 else i % out
      { x with v := encodeOne ((atNat k.curveActive o).getD .linear) signed x.v })

/-- Bad streamed words of the frame that is over are forgotten, those of later frames come one nearer (R261, R263, R265). -/
def Pipe.agedWords (k : Pipe) : List (Fin 5 × Nat × Nat) := k.badWords.filterMap fun b => if b.2.1 = 0 then none else some (b.1, b.2.1 - 1, b.2.2)

/-- A frame has been delivered: the streamed entries of the next one become the present ones, and those of this one that its samples still wait
for come first (R265). -/
def nextLap (p : Fin 16) (g : Shape) (s : State) : State :=
  s.updPipe p fun k =>
    { k with badWords := k.agedWords, heldBad := []
             prefetch := mapAll k.prefetch fun r n => if (streamedRegions s p).contains r then n - (frameWords s p g r : Int) else n }

/-- A frame is discarded: nothing of it stays in stages 1 to 4, the entries fetched for it included (R263, R265). -/
def dropLap (p : Fin 16) (g : Shape) (s : State) : State :=
  s.updPipe p fun k =>
    { k with badWords := k.agedWords
             prefetch := mapAll k.prefetch fun r n => if (streamedRegions s p).contains r then max 0 (n - (frameWords s p g r : Int)) else n }

/-- Bytes that the prefetch buffer holds: what has come of every region less what the samples received have taken (R265). -/
def prefetched (s : State) (p : Fin 16) : Nat :=
  let k := s.pipes[p]
  ((List.finRange 5).map fun r =>
    let taken := match boundSource s p with
      | some i => if lastExposure s i && (streamedRegions s p).contains r then wordsNeeded s p (shapeOf s i) r ((partsOf s i).map List.length).sum else 0
      | none => 0
    8 * (k.prefetch[r] - (taken : Int)).toNat).sum

/-- A streamed word arrives, or is given up, in the order of its fetch; a bad one marks the frame that it was fetched for (R261, R265). A word for
which the 512 KiB buffer has no room is none that the device has asked for. DEDUCED, log entry 38. -/
def fillStream (p : Fin 16) (r : Fin 5) (w : Nat) (bad : Bool) (s : State) : State :=
  if 524288 < prefetched s p + 8 then s
  else
    let n := s.pipes[p].prefetch[r]
    let per := match boundSource s p with
      | some i => frameWords s p (shapeOf s i) r
      | none => 0
    s.updPipe p fun k =>
      { k with prefetch := k.prefetch.set r.1 (n + 1) r.2
               badWords := if bad && decide (0 ≤ n) then (r, n.toNat / max per 1, w) :: k.badWords else k.badWords }

/-! ### Frames on their way to stage 8 -/

/-- What stages 1 to 6 make of an exposure's link samples: after stage 4; OUT, the sign and the samples after stage 5; the sign and the samples
after stage 6 (R239 to R278). -/
def runStages (p : Fin 16) (g : Shape) (parts : List (List Nat)) (s : State) : List Smp × (Nat × Bool × List Smp) × (Bool × List Smp) × State :=
  let (ys, bad1, s) := frontStages p g parts s
  let (ms, bad3) := mergeStage s p g ys
  let held := s.pipes[p].heldBad
  let (x4, s) := stage4 p g ms ((bad1.zip bad3).zipIdx.map fun (b, i) => b.1 || b.2 || held.contains i) s
  let k := s.pipes[p]
  let five := stage5 k g.channels x4
  (x4, five, stage6 k five.1 five.2.1 five.2.2, s)

/-- The samples of the Tally engine's channel; the others are dropped at its input (R306). -/
def tallySamples (out : Nat) (xs : List Smp) : List Smp := (pieces out xs).map fun px => px.headD ⟨0, false⟩

/-- The candidates of the owner rows below r. -/
def rowsBelow (r : Nat) (rows : List (List Cand)) : List (List Cand) := rows.filter fun cs => cs.all fun c => decide (c.r < r)

/-- The candidates of the owner rows from r on. -/
def rowsFrom (r : Nat) (rows : List (List Cand)) : List (List Cand) := rows.filter fun cs => cs.all fun c => decide (r ≤ c.r)

/-- One more in a bin of a spectrum kept as rising bins with their counts (R338). -/
def addBin (b : Nat) : List (Nat × Nat) → List (Nat × Nat)
  | [] => [(b, 1)]
  | (x, n) :: r => if x < b then (x, n) :: addBin b r else if x = b then (x, min (n + 1) (2 ^ 32 - 1)) :: r else (b, 1) :: (x, n) :: r

/-- Candidates that pass R309 are counted in the spectrum (R338). -/
def countSpectrum (p : Fin 16) (rows : List (List Cand)) (s : State) : State :=
  if bitAt s.tallies[p].spec 31 then
    s.updTally p fun t =>
      { t with specEvents := satAdd t.specEvents (rows.map (·.length)).sum
               espec := rows.flatten.foldl (fun l c => addBin (specBin (bitAt t.spec 29) c) l) t.espec }
  else s

/-- More of a frame has come to stage 8: it joins the frames there, or adds to the part of it that was there; owner rows that are settled now
wait to be offered (R313, R316, R338). -/
def reachStage8 (p : Fin 16) (w : Work) (s : State) : State :=
  match s.pipes[p].works.getLast? with
  | some l =>
    if l.whole then countSpectrum p w.rows (s.updPipe p fun k => { k with works := k.works ++ [w] })
    else
      let new := rowsFrom l.settled w.rows
      let w : Work := { w with rows := l.rows ++ new, kept := l.kept, written := l.written, truncated := l.truncated, staged := l.staged }
      countSpectrum p new (s.updPipe p fun k => { k with works := k.works.dropLast ++ [w] })
  | none => countSpectrum p w.rows (s.updPipe p fun k => { k with works := k.works ++ [w] })

/-- The part of the frame being received that has passed stages 1 to 6 and reached stage 8: the rows whose neighbours have come (R244, R255).
None when nothing has. DEDUCED, log entry 31. -/
def incoming (s : State) (p : Fin 16) : Option Work :=
  match boundSource s p with
  | none => none
  | some i =>
    if ! lastExposure s i then none
    else
      let g := shapeOf s i
      let got := partsOf s i
      let k := s.pipes[p]
      let pass := bitAt k.act.lin 31
      let n := rowsOut g pass (wholeLines g got)
      if n = 0 then none
      else
        let (_, five, six, _) := runStages p g got s
        let t := s.tallies[p].active
        let ready := n - 3 * t.half
        let h := finOf 16 i.1
        let flag := fun (f : Head → Bool) => match h with
          | some h => f s.heads[h]
          | none => false
        let mark := match h with
          | some h => s.heads[h].mark
          | none => s.pcams[(Fin.ofNat 2 (i.1 - 16))].mark
        let st : Stamps := match h.bind fun h => s.heads[h].group.head? with
          | some f => f.stamps
          | none => match mark with
            | some m => (stampsOf i m { frame := 0, endValid := false, sensorErr := false, exposure := 0, samples := 0 } s).1
            | none => { tbStart := 0, tbEnd := 0, ptpNs := 0, ptpS := 0, late := false }
        let frame := match h with
          | some h => match s.heads[h].group.head? with
            | some f => f.start.frame
            | none => ((s.heads[h].rx.toList.findSome? (·.opened)).map (·.frame)).getD 0
          | none => 0
        some { whole := false, opens := k.opening.isSome, src := i, frame := frame, take := s.srcs[i].takeNo, epoch := k.frameEpoch, stamps := st
               skip := flag (·.skipFlag), replayed := flag (·.replayed), standby := flag (·.standby), layout4 := g.layout == 4 && ! pass, pack := k.packNow
               tset := t, width := g.width, height := g.height, out := five.1, signed := six.1, samples := six.2.take (n * g.width * five.1)
               rows := if isTally k.packNow then rowsBelow ready (detect t g.width g.height (tallySamples five.1 six.2)) else []
               settled := ready, kept := 0, written := 0, truncated := false, staged := [], record := none }

/-- What has come of the frame being received reaches stage 8. -/
def advance (p : Fin 16) (s : State) : State :=
  match incoming s p with
  | some w => reachStage8 p w s
  | none => s

/-- Stage 7's record of a frame, when it measures it (R288 to R291). -/
def measured (k : Pipe) (g : Shape) (x4 : List Smp) (five : Nat × Bool × List Smp) (six : Bool × List Smp) : Option (List Byte) :=
  let sc := k.statNow
  if bitAt sc.ctl 31 && k.statCount % max (fld sc.ctl 7 0) 1 == 0 then
    some (match fld sc.ctl 30 29 with
      | 0 => statPayload sc g.width g.height five.1 g.channels (signed4 k) x4
      | 1 => statPayload sc g.width g.height five.1 five.1 five.2.1 five.2.2
      | _ => statPayload sc g.width g.height five.1 five.1 six.1 six.2)
  else none

/-- A whole frame or merge group handed to its pipeline (R219, R228): stages 1 to 7, and the work for stage 8. -/
def deliver (p : Fin 16) (i : Fin 18) (fs : List Frame) (parts : List (List Nat)) (st : Stamps) (s : State) : State :=
  let g := shapeOf s i
  let four := g.layout == 4 && ! bitAt s.pipes[p].act.lin 31
  let opens := s.pipes[p].opening.isSome
  let (x4, five, six, s) := runStages p g parts (openEpoch p s)
  let k := s.pipes[p]
  let t := s.tallies[p].active
  let rows := if isTally k.packNow then detect t g.width g.height (tallySamples five.1 six.2) else []
  let work : Work :=
    { whole := true, opens := opens, src := i, frame := (fs.head?.map (·.start.frame)).getD 0, take := s.srcs[i].takeNo, epoch := k.epoch, stamps := st
      skip := fs.any (·.skip), replayed := fs.any (·.replayed), standby := fs.any (·.standby), layout4 := four, pack := k.packNow, tset := t
      width := g.width, height := g.height, out := five.1, signed := six.1, samples := six.2, rows := rows, settled := g.height
      kept := 0, written := 0, truncated := false, staged := [], record := measured k g x4 five six }
  nextLap p g ((reachStage8 p work s).updPipe p fun k => { k with statCount := k.statCount + 1 })

/-- The frame being received is discarded: stages 1 to 7 forget it, and what stage 8 has of it is rewound: the packer's open packet, or the batch
to the mark before the frame; a staged frame is abandoned (R263, R282, R331). -/
def undoFrame (p : Fin 16) (i : Fin 18) (s : State) : State :=
  let begun := lastExposure s i && (partsOf s i).any (! ·.isEmpty)
  let s := s.updPipe p fun k => { dropEpoch k with heldBad := [] }
  let s := if begun then dropLap p (shapeOf s i) s else s
  match s.pipes[p].works.getLast? with
  | none => s
  | some w =>
    if w.whole then s
    else
      let mine := s.pipes[p].works.length = 1 ∧ dataFree s p = true
      let s := s.updPipe p fun k => { k with works := k.works.dropLast, given := if mine then 0 else k.given }
      if ¬ mine then s
      else
        let s := if ! isTally w.pack then rewindOpen (dataProducer p) s
          else if w.tset.dense then s
          else match s.pipes[p].pkt with
            | some a => rewindFrame p a s
            | none => s
        s.updProducer (dataProducer p) fun r => { r with discarding := false }

end Sys2Proof.Machine
end

