-- ==== Sys2Proof/Machine/Stage8.lean ====
section
/-! DEFINITION. Stage 8 (chapters 09 and 10): the packer's packets, the Tally engine's rows, batches and count images, and the
statistics records behind their packets. -/

namespace Sys2Proof.Machine

open Sys2Proof

/-- The frame in stage 8 has left it. -/
def popWork (p : Fin 16) (s : State) : State := s.updPipe p fun k => { k with works := k.works.tail, given := 0 }

/-- A sample of the frame entered stage 8 with the saturation marker set (R300, R306). -/
def Work.saturated (w : Work) : Bool := (if isTally w.pack then tallySamples w.out w.samples else w.samples).any (·.sat)

/-- The frame in stage 8 changed by f. -/
def updWork (p : Fin 16) (f : Work → Work) (s : State) : State :=
  s.updPipe p fun k => { k with works := match k.works with
    | w :: r => f w :: r
    | [] => [] }

/-- The rows still in the reorder region cannot reach stage 8 (R242). -/
def heldBack (s : State) (p : Fin 16) : Bool := s.pipes[p].readback && s.pipes[p].works.length == 1

/-- A finished record waits for its packet, or is dropped for want of room: one always finds room when none waits, and how many more
stage 7 holds the manual leaves open (R292). DESIGN CHOICE, log entry 35. -/
def keepRecord (p : Fin 16) (fofs : Nat) (place : RecPlace) (w : Work) (s : State) : State :=
  match w.record with
  | none => s
  | some body =>
    let r : StatRec := { payload := body.set 1 (BitVec.ofNat 8 fofs), fofs := fofs, slate := none, place := place }
    if s.pipes[p].statRecs.isEmpty then s.updPipe p fun k => { k with statRecs := [r] }
    else
      let (room, s) := s.drawBool
      if room then s.updPipe p fun k => { k with statRecs := k.statRecs ++ [r] }
      else s.updPipe p fun k => { k with recordDrops := satInc k.recordDrops }

/-- The packet open now holds the frame; if it is the first of its epoch, the log entry gets the packet's number (R297). -/
def logFrame (p : Fin 16) (w : Work) (s : State) : State := if w.opens then logSlate p w.src w.epoch s else s

/-! ### The packer -/

/-- The packer's payload, kind, raw length and COUNT (R280, R283, R287). -/
def packPayload (w : Work) : List Byte × Nat × Nat × Nat :=
  let b := fld w.pack 29 25
  let vs := w.samples.map (·.v)
  let raw := rawLength vs.length b
  if fld w.pack 31 30 = 1 then
    let bs := compressedPayload w.signed b (fld w.pack 24 23) w.out w.width w.height vs
    (bs, 1, raw, packRatio raw bs.length)
  else (rawPayload w.signed b vs, 0, raw, 0)

/-- The bytes of the payload that the rows come so far fill: all of it once the frame is whole (R244, R280, R283). -/
def packedSoFar (w : Work) (rows : Nat) : List Byte :=
  if w.whole ∧ w.height ≤ rows then (packPayload w).1
  else
    let b := fld w.pack 29 25
    let vs := (w.samples.take (rows * w.width * w.out)).map (·.v)
    if fld w.pack 31 30 = 1 then
      let head := compressedPayload w.signed b (fld w.pack 24 23) w.out w.width 0 []
      head.take 6 ++ leBytes 2 w.height ++ head.drop 8 ++ (compressedPayload w.signed b (fld w.pack 24 23) w.out w.width rows vs).drop 16
    else (rawPayload w.signed b vs).take (vs.length * b / 8)

/-- Rows of the frame in stage 8 that have reached it: the bottom half of layout 4 not before its readback ends (R242). -/
def rowsHere (s : State) (p : Fin 16) (w : Work) : Nat :=
  let n := w.samples.length / max (w.width * w.out) 1
  if w.layout4 ∧ heldBack s p then min n (w.height / 2) else n

/-- The packer hands its producer the bytes that the samples come so far fill (R280, R439). DEDUCED, log entry 31. -/
def feed (p : Fin 16) (s : State) : State :=
  let s := advance p s
  match s.pipes[p].works with
  | w :: _ =>
    if isTally w.pack || ! dataFree s p || s.qm.producers[(dataProducer p)].discarding then s
    else
      let bs := packedSoFar w (rowsHere s p w)
      (s.updPipe p fun k => { k with given := bs.length }).updProducer (dataProducer p) fun r => { r with buf := r.buf ++ bs.drop s.pipes[p].given }
  | [] => s

/-- The packer closes a frame's packet (R280, R298, R300). DEDUCED, log entry 36. -/
def packFrame (p : Fin 16) (w : Work) (s : State) : State :=
  let (bs, kind, raw, count) := packPayload w
  let more := bs.drop s.pipes[p].given
  let s := keepRecord p 0 .opened w (logFrame p w (popWork p s))
  let slate := slateOf w.src p w.take s.srcs[w.src].slateNo w.epoch w.stamps w.stamps kind
    (slateFlags (w.saturated) w.standby w.replayed false w.stamps.late w.skip) bs.length count
  let s := s.updProducer (dataProducer p) fun r => { r with buf := r.buf ++ more }
  closePacket p { src := w.src, slate := slate, raw := raw, packed := bs.length, tally := false, events := 0, frames := 1 } s

/-! ### Tally rows -/

/-- A frame becomes truncated (R321, R323, R324). -/
def truncate (p : Fin 16) (s : State) : State :=
  match s.pipes[p].works with
  | w :: _ =>
    if w.truncated then s
    else publish (0x0230 + p.1) ((updWork p (fun w => { w with truncated := true }) s).updTally p fun t => { t with truncFrames := satInc t.truncFrames })
  | [] => s

/-- A batch opens with the frame in stage 8 when none is open (R317). -/
def openBatch (p : Fin 16) (w : Work) (s : State) : State :=
  match s.pipes[p].pkt with
  | some _ => s
  | none => s.updPipe p fun k =>
      { k with pkt := some { src := w.src, take := w.take, epoch := w.epoch, first := w.stamps, last := w.stamps, sat := false, standby := false, replayed := false
                             truncated := false, late := false, gap := false, frames := 0, events := 0, entries := 0 } }

/-- One kept event within its budget goes to the backlog, or to the staging area (R322, R323, R328). None: a stall. -/
def writeEvent (p : Fin 16) (w : Work) (c : Cand) (s : State) : Option State :=
  if w.tset.dense then
    let b := s.tallies[p].image.stageB
    let cell := w.tset.cellOf w.width w.height c
    let s := { s with mapStore := s.mapStore.write (stageBase w.tset w.width w.height b + 4 * w.staged.length) (leBytes 4 cell) }
    some (updWork p (fun w => { w with staged := w.staged ++ [cell], kept := w.kept + 1 }) s)
  else
    let n := backlog s p
    let fofs := (s.pipes[p].pkt.map (·.frames)).getD 0
    let put := fun (s : State) => (updWork p (fun w => { w with kept := w.kept + 1, written := w.written + 1 }) s).updProducer (dataProducer p)
      fun r => { r with buf := r.buf ++ eventRecord fofs c }
    if bitAt w.tset.ctl 27 then
      if n + 3 ≤ 8192 then some (put s)
      else some ((truncate p (updWork p (fun w => { w with kept := w.kept + 1 }) s)).updTally p fun t => { t with dropped := satInc t.dropped })
    else if n < 8192 then some (put s) else none

/-- The candidates of one owner row in order: filtered, over budget, dropped, written, or left at a stall (R311, R321 to R323). -/
def offerRow (p : Fin 16) : List Cand → State → State
  | [], s => updWork p (fun w => { w with rows := w.rows.tail }) s
  | c :: r, s =>
    match s.pipes[p].works with
    | [] => s
    | w :: _ =>
      if s.qm.producers[(dataProducer p)].discarding then offerRow p r s
      else if ! w.tset.keeps c then offerRow p r (s.updTally p fun t => { t with filtered := satInc t.filtered })
      else if w.tset.budget.toNat ≤ w.kept then offerRow p r ((truncate p s).updTally p fun t => { t with trunc := satInc t.trunc })
      else
        match writeEvent p w c s with
        | some s => offerRow p r s
        | none => updWork p (fun w => { w with rows := (c :: r) :: w.rows.tail }) s

/-- EVENT_ROW_OFFER's work (R316). -/
def eventRow (p : Fin 16) (s : State) : State :=
  let s := advance p s
  match s.pipes[p].works with
  | w :: _ =>
    match w.rows with
    | row :: _ =>
      let low := match row with
        | c :: _ => decide (c.r + w.tset.half < w.height / 2)
        | [] => true
      if ! isTally w.pack || ! dataFree s p || (heldBack s p && ! low) then s
      else offerRow p row (if w.tset.dense then s else openBatch p w s)
    | [] => s
  | [] => s

/-! ### Tally frames -/

/-- The frame entry (R320). -/
def frameEntry (w : Work) (fofs : Nat) : List Byte :=
  leBytes 6 w.stamps.tbStart.toNat ++ leBytes 2 w.frame.toNat ++ leBytes 4 w.written
    ++ [BitVec.ofNat 8 fofs, BitVec.ofNat 8 ((if w.truncated then 1 else 0) + (if w.saturated then 2 else 0) + (if w.replayed then 4 else 0)
          + (if w.standby then 8 else 0)), 0, 0]

/-- A frame of an event list completes: its entry, its place in the batch, and the batch's end when it is due (R317 to R320). -/
def batchFrame (p : Fin 16) (w : Work) (s : State) : State :=
  let s := openBatch p w s
  match s.pipes[p].pkt with
  | none => s
  | some a =>
    let t := w.tset
    let s := if bitAt t.ctl 28 then s.updProducer (dataProducer p) fun r => { r with buf := r.buf ++ frameEntry w a.frames } else s
    let s := keepRecord p a.frames .opened w (logFrame p w (popWork p s))
    let a : PktAcct :=
      { a with first := if a.frames = 0 then w.stamps else a.first, last := w.stamps, sat := a.sat || w.saturated, standby := a.standby || w.standby
               replayed := a.replayed || w.replayed, truncated := a.truncated || w.truncated, late := a.late || w.stamps.late, gap := a.gap || w.skip
               frames := a.frames + 1, events := a.events + w.written, entries := if bitAt t.ctl 28 then a.entries + 1 else a.entries }
    let s := (s.updPipe p fun k => { k with pkt := some a }).updTally p fun t => { t with frames := satInc t.frames }
    if a.frames = fld t.batch 7 0 + 1 ∨ t.batchEvents.toNat ≤ a.events ∨ s.tallies[p].timedOut then closeBatch p a s else settleBatch p s

/-- A frame of a count image completes: its staged events wait to be applied, and the next frame stages into the other area (R328). -/
def stageFrame (p : Fin 16) (w : Work) (s : State) : State :=
  let s := keepRecord p 0 .staged w (popWork p s)
  s.updTally p fun t => { t with frames := satInc t.frames, image := { t.image with waiting := some w, stageB := ! t.image.stageB } }

/-- STAGE8_FRAME_END's work: the packer or the Tally engine closes the frame, once the packet before it has committed and the frame's
rows have been offered (R280, R318, R323, R328). -/
def frameEnd (p : Fin 16) (s : State) : State :=
  match s.pipes[p].works with
  | [] => s
  | w :: _ =>
    let r := s.qm.producers[(dataProducer p)]
    if ! w.whole || heldBack s p || ! dataFree s p then s
    else if r.discarding && (! isTally w.pack || w.rows.isEmpty) then
      settlePipe p ((popWork p s).updProducer (dataProducer p) fun r => { r with discarding := false })
    else if ! isTally w.pack then packFrame p w s
    else if ! w.rows.isEmpty then s
    else if w.tset.dense then (if s.tallies[p].image.waiting.isSome then s else stageFrame p w s)
    else if bitAt w.tset.ctl 28 && ! bitAt w.tset.ctl 27 && decide (8190 < backlog s p) then s
    else batchFrame p w s

/-! ### Count images -/

/-- One event added to a cell of the image; an increment lost at the limit is counted (R326). -/
def addCell (base bytes : Nat) (m : Mem) (cell : Nat) : Mem × Bool :=
  let a := base + cell * bytes
  let v := m.num a bytes
  if v + 1 = 2 ^ (8 * bytes) then (m, true) else (m.write a (leBytes bytes (v + 1)), false)

/-- The staged record of the frame applied as frame n of its image: FRAME_OFS is its place there; what the byte holds beyond 255, the manual
does not say (R291, R292). DESIGN CHOICE, log entry 35. -/
def placeRecord (p : Fin 16) (n : Nat) (s : State) : State :=
  if s.pipes[p].statRecs.any (·.place = .staged) then
    let (x, s) := if n < 256 then (n, s) else s.drawNat
    s.updPipe p fun k => { k with statRecs := k.statRecs.map fun r =>
      if r.place = .staged then { r with payload := r.payload.set 1 (BitVec.ofNat 8 x), fofs := n, place := .opened } else r }
  else s

/-- DENSE_APPLY's work: the waiting frame's events are added to the current image (R328, R329). -/
def denseApply (p : Fin 16) (s : State) : State :=
  let s := settleImage p s
  let m := s.tallies[p].image
  match m.waiting with
  | none => s
  | some w =>
    let fresh := m.applied = 0
    let other := ! fresh && (m.take ≠ w.take || m.epoch ≠ w.epoch || decide (m.tset.accFrames.toNat ≤ m.applied))
    if other then s
    else
      let base := imageBase w.tset w.width w.height m.imgB
      let bytes := w.tset.cellBits / 8
      let (mem, lost) := w.staged.foldl (fun (acc : Mem × Nat) c => let (x, l) := addCell base bytes acc.1 c; (x, if l then acc.2 + 1 else acc.2)) (s.mapStore, 0)
      let im : ImageAcct :=
        { m with src := w.src, take := w.take, epoch := w.epoch, width := w.width, height := w.height, tset := w.tset, gap := m.gap || w.skip
                 opens := m.opens || w.opens
                 applied := m.applied + 1, first := if fresh then some w.stamps else m.first, last := some w.stamps, clipped := m.clipped || decide (0 < lost)
                 truncated := m.truncated || w.truncated, sat := m.sat || w.saturated, standby := m.standby || w.standby
                 replayed := m.replayed || w.replayed, late := m.late || w.stamps.late, events := m.events + w.staged.length, waiting := none }
      settlePipe p ((placeRecord p m.applied { s with mapStore := mem }).updTally p fun t => { t with image := im, clipped := satAdd t.clipped lost })

/-- IMAGE_READOUT_DONE's work: the read-out image has been cleared behind the read (R329). -/
def readoutDone (p : Fin 16) (s : State) : State :=
  let m := s.tallies[p].image
  if ! m.reading || ! s.qm.producers[(dataProducer p)].buf.isEmpty then s
  else
    let n := m.tset.imageBytes m.width m.height
    let s := { s with mapStore := s.mapStore.write (imageBase m.tset m.width m.height (! m.imgB)) (List.replicate n 0) }
    settlePipe p (s.updTally p fun t => { t with image := { t.image with reading := false } })

/-! ### Time-outs, streams, records -/

/-- BATCH_TIMEOUT's work (R318). -/
def batchTimeout (p : Fin 16) (s : State) : State :=
  match s.pipes[p].pkt with
  | some _ =>
    if fld s.tallies[p].active.batch 31 12 = 0 then s
    else settleBatch p (s.updTally p fun t => { t with timedOut := true })
  | none => s

/-- The statistics record at the front, its data packet committed, is written against credit and committed (R292). -/
def commitRecord (p : Fin 16) (s : State) : State :=
  let r := statProducer p
  let s := match s.pipes[p].statRecs with
    | rec_ :: _ =>
      match rec_.slate with
      | some slate =>
        let k := s.qm.producers[r]
        if k.buf.isEmpty && k.closing.isNone then
          s.updProducer r fun k => { k with buf := rec_.payload, closing := some (recordSlate slate rec_.payload.length) }
        else s
      | none => s
    | [] => s
  let s := producerWrite r s
  let k := s.qm.producers[r]
  match k.closing with
  | some slate =>
    if k.buf.isEmpty && ((queueOf s r).map fun q => s.qm.queues[q].openPkt.isSome) == some true then
      (commitOpen r slate s).updPipe p fun x => { x with statRecs := x.statRecs.tail, records := satInc x.records }
    else s
  | none => if s.pipes[p].statRecs.isEmpty then s else
      -- the packet was oversize or its queue is disabled: the record is gone (R443, R455)
      match s.pipes[p].statRecs with
      | rec_ :: _ => if rec_.slate.isSome then (s.updPipe p fun x => { x with statRecs := x.statRecs.tail }).updProducer r fun k => { k with discarding := false } else s
      | [] => s

/-- The slate with GAP set (R300). -/
def withGap (slate : List Byte) : List Byte := slate.modify 39 fun b => b ||| 1

/-- A data packet commits: its slate number is used, its counters move, its records may follow (R292, R299, R302, R334). -/
def commitData (p : Fin 16) (s : State) : State :=
  let r := dataProducer p
  match s.qm.producers[r].closing, s.pipes[p].closed with
  | some slate, some c =>
    let ready := s.qm.producers[r].buf.isEmpty && ((queueOf s r).map fun q => s.qm.queues[q].openPkt.isSome) == some true
    if ! ready then s
    else
      -- the first packet to commit after a loss carries GAP (R300)
      let slate := if s.pipes[p].gap then withGap slate else slate
      let s := (commitOpen r slate s).updSrc c.src fun k => { k with slateNo := satAdd k.slateNo 1 }
      let s := s.updPipe p fun k =>
        { k with closed := none, gap := false, rawBytes := satAdd k.rawBytes c.raw, packedBytes := satAdd k.packedBytes c.packed
                 statRecs := k.statRecs.map fun x => if x.place = .closed && x.slate.isNone then { x with slate := some slate } else x }
      settlePipe p (if c.tally then s.updTally p fun t => { t with events := satAdd t.events c.events, batches := satInc t.batches } else s)
  | _, _ => s

/-- PACKET_COMMIT's work on either producer of a pipeline (R440). -/
def packetCommit (r : Fin 32) (s : State) : State :=
  let p : Fin 16 := Fin.ofNat 16 r.1
  if r.1 < 16 then commitData p s
  else
    match s.qm.producers[r].closing with
    | some slate =>
      if s.qm.producers[r].buf.isEmpty && ((queueOf s r).map fun q => s.qm.queues[q].openPkt.isSome) == some true then
        (commitOpen r slate s).updPipe p fun x => { x with statRecs := x.statRecs.tail, records := satInc x.records }
      else s
    | none => s

/-- PRODUCER_WRITE's work: the write, and the loss of the packet when it proves oversize or its queue is disabled (R426, R443, R455). -/
def writeOut (r : Fin 32) (s : State) : State :=
  let p : Fin 16 := Fin.ofNat 16 r.1
  let s := if r.1 < 16 then feed p s else s
  let had := ! s.qm.producers[r].buf.isEmpty || s.qm.producers[r].closing.isSome
  let was := s.qm.producers[r].discarding
  let t := producerWrite r s
  let k := t.qm.producers[r]
  let lost := had && ((! was && k.discarding) || (s.qm.producers[r].closing.isSome && k.closing.isNone))
  if lost && decide (r.1 < 16) then
    -- a closed packet's frame is whole: nothing of it is left to discard
    let t := if s.pipes[p].closed.isSome then t.updProducer r fun k => { k with discarding := false } else t
    packetLost p t
  else if lost then (t.updPipe p fun x => { x with statRecs := x.statRecs.tail }).updProducer r fun k => { k with discarding := false }
  else t

/-- The whole open packet of a data producer rewound, with its account (R442). -/
def rewindData (p : Fin 16) (s : State) : State := packetLost p (rewindOpen (dataProducer p) s)

/-- An open image is abandoned (R333). -/
def abandonImage (p : Fin 16) (s : State) : State :=
  let m := s.tallies[p].image
  let n := m.applied + (if m.waiting.isSome then 1 else 0)
  let s := if m.applied = 0 then s else
    { s with mapStore := s.mapStore.write (imageBase m.tset m.width m.height m.imgB) (List.replicate (m.tset.imageBytes m.width m.height) 0) }
  s.updTally p fun t => { t with lostFrames := satAdd t.lostFrames n
                                 image := { imgB := m.imgB, stageB := m.stageB, width := m.width, height := m.height, tset := m.tset, reading := m.reading } }

/-- The statistics packet being written is rewound, and its record goes with it; records whose data packet has not committed go with that
(R228, R292). -/
def abortRecords (p : Fin 16) (s : State) : State :=
  let r := s.qm.producers[(statProducer p)]
  let open_ := ! r.buf.isEmpty || r.closing.isSome
  (rewindOpen (statProducer p) s).updPipe p fun k => { k with statRecs := (if open_ then k.statRecs.tail else k.statRecs).filter (·.slate.isSome) }

/-- Everything of pipeline p between its source and its queue is given up: an abort or a reset (R228, R263, R282, R333). -/
def abortPipe (p : Fin 16) (s : State) : State :=
  let s := abandonImage p (rewindData p (abortRecords p s))
  (s.updPipe p fun k => { dropEpoch k with works := [], given := 0, heldBad := [], readback := false, gap := true }).updProducer (dataProducer p)
    fun r => { r with discarding := false }

end Sys2Proof.Machine
end

