-- ==== Sys2Proof/Machine/PipeObjects.lean ====
section
/-! DEFINITION. The dictionary objects of the pipelines and the Tally engines (R224, R267 to R271, R302 to R305, R334 to R338): their
tables, what they read, their own checks and what an accepted write does. -/

namespace Sys2Proof.Machine

open Sys2Proof

/-- Objects of a pipeline. -/
inductive PipeReg where
  | source | linctl | lut (c : Fin 4) | mergectl | mratio (e : Fin 4) | msat (e : Fin 4) | mweight | corrctl | ped (c : Fin 4)
  | defUnresolved | eccCorr | eccUncorr | defSkipped | cfgDiscards | satSamples | desc (k : Fin 5) | mapctl | mapstat | mapBw | streamStalls
  | mixctl | mix (i : Fin 16) | gin (c : Fin 4) | ofs (c : Fin 4) | curvectl | curve (c : Fin 4) | packctl | rawBytes | packedBytes
  | epoch | epochLog | outstanding | statctl | histRoi | zones | records | recordDrops
  | tallyctl | tPeak | tPix | base | ewin | batchctl | batchEvents | frameBudget | accFrames | accDesc
  | events | frames | batches | filtered | trunc | dropped | truncFrames | stallClk | lostFrames | clipped | specctl | espec | specEvents
deriving DecidableEq, Repr

/-- The objects of 4p10 to 4p11 and the first of 4p12 (R267). -/
def PipeReg.linRows : List (Nat × PipeReg) :=
  [(0x401001, .source), (0x401101, .linctl), (0x401110, .lut 0), (0x401111, .lut 1), (0x401112, .lut 2), (0x401113, .lut 3), (0x401201, .mergectl)]

/-- The other objects of stages 3 and 4 (R267). -/
def PipeReg.correctionRows : List (Nat × PipeReg) :=
  [(0x401202, .mratio 0), (0x401203, .mratio 1), (0x401204, .mratio 2), (0x401205, .mratio 3), (0x401206, .msat 0), (0x401207, .msat 1),
      (0x401208, .msat 2), (0x401209, .msat 3), (0x40120A, .mweight), (0x401301, .corrctl), (0x401302, .ped 0), (0x401303, .ped 1), (0x401304, .ped 2),
      (0x401305, .ped 3), (0x401307, .defUnresolved), (0x401308, .eccCorr), (0x401309, .eccUncorr), (0x40130A, .defSkipped), (0x40130B, .cfgDiscards),
      (0x40130C, .satSamples)]

/-- The map objects and the first of 4p15 (R267, R302). -/
def PipeReg.mapRows : List (Nat × PipeReg) :=
  [(0x401401, .desc 0), (0x401402, .desc 1), (0x401403, .desc 2), (0x401404, .desc 3), (0x401405, .desc 4), (0x401406, .mapctl), (0x401407, .mapstat),
      (0x401408, .mapBw), (0x401409, .streamStalls), (0x401501, .mixctl)]

/-- The mixing matrix (R302). -/
def PipeReg.mixRows : List (Nat × PipeReg) :=
  (List.finRange 16).map (fun i => (0x401510 + i.1, .mix i))

/-- The other objects of stages 5, 6 and 8 (R302). -/
def PipeReg.packRows : List (Nat × PipeReg) :=
  [(0x401520, .gin 0), (0x401521, .gin 1), (0x401522, .gin 2), (0x401523, .gin 3), (0x401524, .ofs 0), (0x401525, .ofs 1), (0x401526, .ofs 2),
      (0x401527, .ofs 3), (0x401601, .curvectl), (0x401610, .curve 0), (0x401611, .curve 1), (0x401612, .curve 2), (0x401613, .curve 3),
      (0x401701, .packctl), (0x401702, .rawBytes), (0x401703, .packedBytes), (0x401801, .epoch), (0x401802, .epochLog), (0x401803, .outstanding)]

/-- The statistics objects (R302). -/
def PipeReg.statRows : List (Nat × PipeReg) :=
  [(0x540001, .statctl), (0x540002, .histRoi), (0x540003, .zones), (0x540004, .records), (0x540005, .recordDrops)]

/-- The Tally objects (R334). -/
def PipeReg.tallyRows : List (Nat × PipeReg) :=
  [(0x500001, .tallyctl), (0x500002, .tPeak), (0x500003, .tPix), (0x500004, .base), (0x500005, .ewin), (0x500006, .batchctl), (0x500007, .batchEvents),
      (0x500008, .frameBudget), (0x500009, .accFrames), (0x50000A, .accDesc), (0x500101, .events), (0x500102, .frames), (0x500103, .batches),
      (0x500104, .filtered), (0x500105, .trunc), (0x500106, .dropped), (0x500107, .truncFrames), (0x500108, .stallClk), (0x500109, .lostFrames),
      (0x50010A, .clipped), (0x500301, .specctl), (0x500302, .espec), (0x500303, .specEvents)]

/-- The pipeline objects: index of pipeline 0 with the sub (R267, R302, R334). -/
def PipeReg.table : List (Nat × PipeReg) := PipeReg.linRows ++ PipeReg.correctionRows ++ PipeReg.mapRows ++ PipeReg.mixRows ++ PipeReg.packRows ++ PipeReg.statRows ++ PipeReg.tallyRows

/-- The pipeline and its object at index and sub: 4p1x, 50px, 54p0. -/
def PipeReg.at_ (index sub : Nat) : Option (Fin 16 × PipeReg) :=
  let find := fun (p ix : Nat) => ((PipeReg.table.find? fun e => e.1 == ix * 256 + sub).map fun e => (Fin.ofNat 16 p, e.2))
  if index / 0x1000 = 4 ∧ index / 0x10 % 16 = 1 then find (index / 0x100 % 16) (0x4000 + index % 0x100)
  else if index / 0x100 = 0x50 then find (index / 0x10 % 16) (0x5000 + index % 0x10)
  else if index / 0x100 = 0x54 ∧ index % 0x10 = 0 then find (index / 0x10 % 16) 0x5400
  else none

/-- What the tables say of a pipeline object. -/
def PipeReg.desc_ : PipeReg → Desc
  | .source => .rw .bits32 1 | .linctl => .rw .bits32 1 1 | .lut _ => (Desc.rw .blob 1 4).long 4096 | .mergectl => .rw .bits32 1 1
  | .mratio _ => (Desc.rw .u24 1 1).within 1 (2 ^ 24 - 1) | .msat _ => .rw .u24 1 1 | .mweight => .rw .bits32 1 1 | .corrctl => .rw .bits32 1 1
  | .ped _ => .rw .s24 1 1 | .defUnresolved => .ro .u32 | .eccCorr => .ro .u32 | .eccUncorr => .ro .u32 | .defSkipped => .ro .u32
  | .cfgDiscards => .ro .u32 | .satSamples => .ro .u48 | .desc _ => .rw .u64 1 4 | .mapctl => .rw .bits32 1 4 | .mapstat => .status
  | .mapBw => (Desc.rw .u32 2).within 0 1800 | .streamStalls => .ro .u48
  | .mixctl => .rw .bits32 1 1 | .mix _ => .rw .s24 1 4 | .gin _ => .rw .u24 1 4 | .ofs _ => .rw .s24 1 4 | .curvectl => .rw .bits32 1 1
  | .curve _ => (Desc.rw .blob 1 4).long 16384 | .packctl => .rw .bits32 1 2 | .rawBytes => .ro .u48 | .packedBytes => .ro .u48
  | .epoch => .ro .u16 | .epochLog => (Desc.ro .blob).long 256 | .outstanding => .ro .u8
  | .statctl => .rw .bits32 1 1 | .histRoi => .rw .u64 1 1 | .zones => .rw .bits32 1 1 | .records => .ro .u48 | .recordDrops => .ro .u32
  | .tallyctl => .rw .bits32 1 4 | .tPeak => (Desc.rw .s32 1 4).within (-8388608) 16777215 | .tPix => (Desc.rw .s32 1 4).within (-8388608) 16777215
  | .base => (Desc.rw .s32 1 4).within (-8388608) 16777215 | .ewin => .rw .bits32 1 4 | .batchctl => .rw .bits32 1 4
  | .batchEvents => (Desc.rw .u32 1 4).within 1 268435456 | .frameBudget => (Desc.rw .u32 1 4).within 1 16777216
  | .accFrames => (Desc.rw .u32 1 4).within 1 65536 | .accDesc => .rw .u64 1 4
  | .events => .ro .u48 | .frames => .ro .u48 | .batches => .ro .u48 | .filtered => .ro .u48 | .trunc => .ro .u48 | .dropped => .ro .u48
  | .truncFrames => .ro .u32 | .stallClk => .ro .u48 | .lostFrames => .ro .u32 | .clipped => .ro .u48 | .specctl => .rw .bits32 1
  | .espec => (Desc.ro .blob).long 4096 | .specEvents => .ro .u48

/-- Knots as their U32 words (R267, R302). -/
def knotBytes (n : Nat) (f : Nat → Nat) : List Byte := (List.range n).flatMap fun i => leBytes 4 (f i)

/-- MAPSTAT (R271). -/
def Pipe.mapstat (k : Pipe) : Word :=
  flagBit 31 k.mapShort ||| flagBit 30 k.mergeShort ||| flagBit 29 k.reorderShort ||| flagBit 28 k.layoutBad ||| flagBit 27 k.streamLate
    ||| place 32 0 ((List.finRange 5).map fun i => if descEn k.descActive[i] then 2 ^ i.1 else 0).sum

/-- An EPOCH_LOG entry (R297). -/
def EpochEntry.bytes (e : EpochEntry) : List Byte :=
  leBytes 2 e.epoch.toNat ++ leBytes 2 e.cause.toNat ++ leBytes 2 e.frame.toNat ++ [0, 0] ++ leBytes 6 e.slate.toNat ++ [0, 0]

/-- What a pipeline object reads. -/
def PipeReg.read (s : State) (p : Fin 16) (r : PipeReg) : Val :=
  let k := s.pipes[p]
  let t := s.tallies[p]
  match r with
  | .source => bv k.source | .linctl => bv (k.cfg.lin ||| flagBit 28 k.linCommit) | .lut c => .bytes (knotBytes 1024 k.lutShadow[c].knot)
  | .mergectl => bv k.cfg.merge | .mratio e => bv k.cfg.mratio[e] | .msat e => bv k.cfg.msat[e] | .mweight => bv k.cfg.mweight
  | .corrctl => bv k.cfg.corr | .ped c => bv k.cfg.ped[c] | .defUnresolved => bv k.defUnresolved | .eccCorr => bv k.eccCorr
  | .eccUncorr => bv k.eccUncorr | .defSkipped => bv k.defSkipped | .cfgDiscards => bv k.cfgDiscards | .satSamples => bv k.satSamples
  | .desc i => bv k.descShadow[i] | .mapctl => bv (flagBit 31 k.swap.isSome) | .mapstat => bv k.mapstat | .mapBw => bv k.mapBw
  | .streamStalls => bv k.streamStalls | .mixctl => bv (k.cfg.mix ||| flagBit 29 k.mixCommit) | .mix i => bv k.mixShadow.m[i]
  | .gin c => bv k.mixShadow.gin[c] | .ofs c => bv k.mixShadow.ofs[c] | .curvectl => bv (k.cfg.curve ||| flagBit 29 k.curveCommit)
  | .curve c => .bytes (knotBytes 4096 k.curveShadow[c].knot) | .packctl => bv k.pack | .rawBytes => bv k.rawBytes | .packedBytes => bv k.packedBytes
  | .epoch => bv k.epoch | .epochLog => .bytes (padTo 256 (k.epochLog.flatMap (·.bytes))) | .outstanding => .num k.outstanding.length
  | .statctl => bv k.stat.ctl | .histRoi => bv k.stat.roi | .zones => bv k.stat.zones | .records => bv k.records | .recordDrops => bv k.recordDrops
  | .tallyctl => bv (t.shadow.ctl ||| flagBit 31 t.commit) | .tPeak => bv t.shadow.tPeak | .tPix => bv t.shadow.tPix | .base => bv t.shadow.base
  | .ewin => bv t.shadow.ewin | .batchctl => bv t.shadow.batch | .batchEvents => bv t.shadow.batchEvents | .frameBudget => bv t.shadow.budget
  | .accFrames => bv t.shadow.accFrames | .accDesc => bv t.shadow.accDesc
  | .events => bv t.events | .frames => bv t.frames | .batches => bv t.batches | .filtered => bv t.filtered | .trunc => bv t.trunc
  | .dropped => bv t.dropped | .truncFrames => bv t.truncFrames | .stallClk => bv t.stallClk | .lostFrames => bv t.lostFrames | .clipped => bv t.clipped
  | .specctl => bv t.spec | .espec => .bytes (knotBytes 1024 fun i => ((t.espec.find? fun e => e.1 == i).map (·.2)).getD 0) | .specEvents => bv t.specEvents

/-! ### Checks -/

/-- The source that a SOURCE value names (R224). -/
def sourceNamed (w : Word) : Option (Fin 18) :=
  match fld w 7 6 with
  | 1 => some (Fin.ofNat 18 (fld w 3 0))
  | 2 => some (Fin.ofNat 18 (16 + fld w 3 0))
  | _ => none

/-- A SOURCE write's checks (R224). -/
def checkSource (s : State) (p : Fin 16) (w : Word) : Status :=
  let now := boundSource s p
  let open_ := match now with
    | some i => takeOpen s i
    | none => false
  let kind := fld w 7 6
  firstRefusal
    [(open_, .state), (kind == 3 || (kind == 2 && (decide (1 < fld w 3 0) || decide (p.1 < 14))), .range),
     (match sourceNamed w with
      | some i => (now.isSome && now ≠ some i) || (List.finRange 16).any fun o => o ≠ p && boundSource s o == some i
      | none => false, .busy),
     (match sourceNamed w with
      | some i => decide (i.1 < 16) && decide (20000 < s.srcs[i].peakRate.toNat)
      | none => false, .range)]

/-- Pages a to a + n - 1 and b to b + m - 1 share one. -/
def pagesOverlap (a n b m : Nat) : Bool := decide (0 < n) && decide (0 < m) && decide (a < b + m) && decide (b < a + n)

/-- Two enabled regions of one place overlap (R258). -/
def regionsOverlap (d e : BitVec 64) : Bool := descEn d && descEn e && descLoc d == descLoc e && pagesOverlap (descOfs d) (descPages d) (descOfs e) (descPages e)

/-- The regions that an overlap check compares with (R641): the active descriptors of a pipeline and those of a SWAP accepted, with the
accumulation regions. -/
def regionsOf (s : State) (o : Fin 16) : List (Fin 5 × BitVec 64) × List (BitVec 64) :=
  let k := s.pipes[o]
  let t := s.tallies[o]
  let act := (List.finRange 5).map fun i => (i, k.descActive[i])
  let due := match k.swap with
    | some v => (List.finRange 5).map fun i => (i, v[i])
    | none => []
  (act ++ due, (if t.active.dense then [t.active.accDesc] else []) ++ (if t.commit then [t.shadow.accDesc] else []))

/-- A merge or reorder region. -/
def isHolder (i : Fin 5) : Bool := i == rMerge || i == rReorder

/-- Shadow descriptors of pipeline p overlap (R258, R641): a merge or reorder region of the set with anything else, or anything of the
set with another's merge, reorder or accumulation region. The pipeline's own active descriptor of a region is the one that the swap replaces, and
so no other region. DEDUCED, log entry 137. -/
def descsOverlap (s : State) (p : Fin 16) (v : Vector (BitVec 64) 5) : Bool :=
  let mine := (List.finRange 5).map fun i => (i, v[i])
  let inner := mine.any fun a => mine.any fun b => a.1 ≠ b.1 && (isHolder a.1 || isHolder b.1) && regionsOverlap a.2 b.2
  let others := (List.finRange 16).any fun o =>
    let (rs, accs) := regionsOf s o
    (rs.any fun b => mine.any fun a => (o ≠ p || a.1 ≠ b.1) && (isHolder a.1 || isHolder b.1) && regionsOverlap a.2 b.2)
    || accs.any fun b => mine.any fun a => regionsOverlap a.2 b
  inner || others

/-- A SWAP's checks (R258). -/
def checkSwap (s : State) (p : Fin 16) : Status :=
  let k := s.pipes[p]
  let v := k.descShadow
  let area := (maskedArea s.host.mapArea)
  firstRefusal
    [(k.swap.isSome, .busy),
     ((List.finRange 5).any fun i =>
        (isHolder i && descLoc v[i])
          || (descEn v[i] && (if descLoc v[i] then decide (area < descOfs v[i] + descPages v[i]) else decide (65536 < descOfs v[i] + descPages v[i]))), .range),
     (descsOverlap s p v, .busy),
     ((List.finRange 5).any (fun i => descEn v[i] && descLoc v[i]) && k.mapBw == 0, .state)]
where
  /-- Pages of the stall-store map area (R529). -/
  maskedArea (w : Word) : Nat := w.toNat * 262144

/-- The sum of MAP_BW over the other pipelines (R265). -/
def otherBw (s : State) (p : Fin 16) : Nat := ((List.finRange 16).map fun o => if o = p then 0 else s.pipes[o].mapBw.toNat).sum

/-- Pages that an accumulation region needs (R327). -/
def accPages (t : TallySet) (w h : Nat) : Nat := ceilDiv (2 * t.imageBytes w h + 8 * t.budget.toNat) 4096

/-- A Tally COMMIT's checks (R335). -/
def checkTallyCommit (s : State) (p : Fin 16) (t : TallySet) : Status :=
  let k := s.tallies[p]
  let a := k.active
  let src := boundSource s p
  let open_ := match src with
    | some i => takeOpen s i
    | none => false
  let g := match src with
    | some i => let geom := if takeOpen s i then s.srcs[i].geomNow else s.srcs[i].geom; (geomW geom, geomH geom)
    | none => (1, 1)
  let d := t.accDesc
  let clash := (List.finRange 16).any fun o =>
    let (rs, accs) := regionsOf s o
    rs.any (fun b => regionsOverlap d b.2) || (o ≠ p && accs.any fun b => regionsOverlap d b)
  firstRefusal
    [(k.commit, .busy),
     (decide (t.pixLevel < t.baseLevel) || decide (t.peakLevel < t.pixLevel) || decide (t.peakLevel ≤ t.baseLevel) || decide (fld t.ewin 31 16 < fld t.ewin 15 0), .range),
     (open_ && ((t.ctl ^^^ a.ctl) &&& (maskOf 30 28 ||| maskOf 26 24) ≠ 0 || t.accFrames ≠ a.accFrames || t.accDesc ≠ a.accDesc), .state),
     (t.dense && (! descEn d || descLoc d || descFmt d ≠ 0 || decide (65536 < descOfs d + descPages d) || decide (descPages d < accPages t g.1 g.2)), .range),
     (t.dense && clash, .busy)]

/-- Knot words with nothing above bit 23 (R267, R302). -/
def knotsOk (bs : List Byte) : Bool := (List.range (bs.length / 4)).all fun i => bs.getD (4 * i + 3) 0 == 0

/-- Formats allowed of a region's descriptor (R257). -/
def fmtOk (k : Fin 5) (d : BitVec 64) : Bool := descFmt d == 0 || (k == rDark && descFmt d == 1)

/-- The own checks of a pipeline object. -/
def PipeReg.check (s : State) (p : Fin 16) (r : PipeReg) (v : Val) : Status :=
  let k := s.pipes[p]
  let t := s.tallies[p]
  let w := v.word
  let bs := v.toBytes
  match r with
  | .source => checkSource s p w
  | .linctl => firstRefusal [(bitAt w 28 && k.linCommit, .busy)]
  | .lut _ => firstRefusal [(decide (bs.length ≠ 4096), .type), (k.linCommit, .busy), (! knotsOk bs, .range)]
  | .mergectl => firstRefusal [(fld w 30 29 == 3, .range)]
  | .corrctl => firstRefusal [(decide (8 < fld w 29 26), .range)]
  | .desc i => firstRefusal [(! fmtOk i (BitVec.ofNat 64 v.toNat), .range)]
  | .mapctl => if bitAt w 31 then checkSwap s p else .ok
  | .mapBw => firstRefusal [(decide (1800 < otherBw s p + v.toNat), .range)]
  | .mixctl => firstRefusal [(bitAt w 29 && k.mixCommit, .busy), (decide (4 < fld w 28 26), .range)]
  | .mix _ => firstRefusal [(k.mixCommit, .busy)]
  | .gin _ => firstRefusal [(k.mixCommit, .busy)]
  | .ofs _ => firstRefusal [(k.mixCommit, .busy)]
  | .curvectl => firstRefusal [((bitAt w 29 || fld w 28 26 ≠ 0) && k.curveCommit, .busy), (decide (3 < fld w 28 26), .range)]
  | .curve _ => firstRefusal [(decide (bs.length ≠ 16384), .type), (k.curveCommit, .busy), (! knotsOk bs, .range)]
  | .packctl => firstRefusal [(fld w 31 30 == 3, .range), (decide (fld w 29 25 < 8) || decide (24 < fld w 29 25), .range), (fld w 24 23 == 3, .range)]
  | .statctl => firstRefusal [(fld w 7 0 == 0 || fld w 30 29 == 3, .range)]
  | .tallyctl => firstRefusal [(t.commit, .busy), (fld w 25 24 == 3, .range),
      (bitAt w 31 && checkTallyCommit s p { t.shadow with ctl := w &&& maskOf 30 20 } ≠ .ok, checkTallyCommit s p { t.shadow with ctl := w &&& maskOf 30 20 })]
  | .tPeak => firstRefusal [(t.commit, .busy)] | .tPix => firstRefusal [(t.commit, .busy)] | .base => firstRefusal [(t.commit, .busy)]
  | .ewin => firstRefusal [(t.commit, .busy)] | .batchctl => firstRefusal [(t.commit, .busy)] | .batchEvents => firstRefusal [(t.commit, .busy)]
  | .frameBudget => firstRefusal [(t.commit, .busy)] | .accFrames => firstRefusal [(t.commit, .busy)] | .accDesc => firstRefusal [(t.commit, .busy)]
  | _ => .ok

/-! ### Writes -/

/-- A register of stages 2 to 6 written: a change of its value is a pipeline change (R294). -/
def writeCfg (p : Fin 16) (f : PipeCfg → PipeCfg) (s : State) : State :=
  s.updPipe p fun k => { k with cfg := f k.cfg, changed := k.changed || decide (f k.cfg ≠ k.cfg) }

/-- The knots of a table object. -/
def knotsOf (bs : List Byte) : List Nat := (List.range (bs.length / 4)).map fun i => leAt bs (4 * i) 4

/-- The preset that LOAD names (R277). -/
def presetCurve : Nat → Option CurveTab
  | 1 => some .linear | 2 => some .sqrt | 3 => some .log | _ => none

/-- The Tally shadow set written (R335). -/
def writeTally (p : Fin 16) (f : TallySet → TallySet) (s : State) : State := s.updTally p fun t => { t with shadow := f t.shadow }

/-- What an accepted write of a pipeline object does. -/
def PipeReg.write (p : Fin 16) (r : PipeReg) (v : Val) (s : State) : State :=
  let w := v.word
  let n := v.toNat
  match r with
  | .source => s.updPipe p fun k => { k with source := w &&& (maskOf 7 6 ||| maskOf 3 0) }
  | .linctl => (writeCfg p (fun c => { c with lin := w &&& maskOf 31 29 }) s).updPipe p fun k => { k with linCommit := k.linCommit || bitAt w 28 }
  | .lut c => s.updPipe p fun k => { k with lutShadow := modAt k.lutShadow c fun _ => .knots (knotsOf v.toBytes) }
  | .mergectl => writeCfg p (fun c => { c with merge := w &&& maskOf 31 29 }) s
  | .mratio e => writeCfg p (fun c => { c with mratio := modAt c.mratio e fun _ => BitVec.ofNat 24 n }) s
  | .msat e => writeCfg p (fun c => { c with msat := modAt c.msat e fun _ => BitVec.ofNat 24 n }) s
  | .mweight => writeCfg p (fun c => { c with mweight := w }) s
  | .corrctl => writeCfg p (fun c => { c with corr := w &&& maskOf 31 26 }) s
  | .ped i => writeCfg p (fun c => { c with ped := modAt c.ped i fun _ => BitVec.ofNat 24 n }) s
  | .desc i => s.updPipe p fun k => { k with descShadow := modAt k.descShadow i fun _ => BitVec.ofNat 64 n &&& ~~~ (place 64 56 0x3F) }
  | .mapctl => if bitAt w 31 then s.updPipe p fun k => { k with swap := some k.descShadow } else s
  | .mapstat => s.updPipe p fun k =>
      { k with mapShort := keepSticky k.mapShort (bitAt w 31), mergeShort := keepSticky k.mergeShort (bitAt w 30), reorderShort := keepSticky k.reorderShort (bitAt w 29)
               layoutBad := keepSticky k.layoutBad (bitAt w 28), streamLate := keepSticky k.streamLate (bitAt w 27) }
  | .mapBw => s.updPipe p fun k => { k with mapBw := w }
  | .mixctl => (writeCfg p (fun c => { c with mix := w &&& (maskOf 31 30 ||| maskOf 28 26) }) s).updPipe p fun k => { k with mixCommit := k.mixCommit || bitAt w 29 }
  | .mix i => s.updPipe p fun k => { k with mixShadow := { k.mixShadow with m := modAt k.mixShadow.m i fun _ => BitVec.ofNat 24 n } }
  | .gin i => s.updPipe p fun k => { k with mixShadow := { k.mixShadow with gin := modAt k.mixShadow.gin i fun _ => BitVec.ofNat 24 n } }
  | .ofs i => s.updPipe p fun k => { k with mixShadow := { k.mixShadow with ofs := modAt k.mixShadow.ofs i fun _ => BitVec.ofNat 24 n } }
  | .curvectl =>
    let s := (writeCfg p (fun c => { c with curve := w &&& maskOf 31 30 }) s).updPipe p fun k => { k with curveCommit := k.curveCommit || bitAt w 29 }
    match presetCurve (fld w 28 26) with
    | some t => s.updPipe p fun k => { k with curveShadow := Vector.replicate 4 t }
    | none => s
  | .curve c => s.updPipe p fun k => { k with curveShadow := modAt k.curveShadow c fun _ => .knots (knotsOf v.toBytes) }
  | .packctl => s.updPipe p fun k => { k with pack := w &&& maskOf 31 23, packChanged := k.packChanged || decide (w &&& maskOf 31 23 ≠ k.pack) }
  | .statctl => s.updPipe p fun k => { k with stat := { k.stat with ctl := w &&& (maskOf 31 20 ||| maskOf 7 0) } }
  | .histRoi => s.updPipe p fun k => { k with stat := { k.stat with roi := BitVec.ofNat 64 n } }
  | .zones => s.updPipe p fun k => { k with stat := { k.stat with zones := w &&& (maskOf 13 8 ||| maskOf 5 0) } }
  | .tallyctl => (writeTally p (fun t => { t with ctl := w &&& maskOf 30 20 }) s).updTally p fun t => { t with commit := t.commit || bitAt w 31 }
  | .tPeak => writeTally p (fun t => { t with tPeak := w }) s
  | .tPix => writeTally p (fun t => { t with tPix := w }) s
  | .base => writeTally p (fun t => { t with base := w }) s
  | .ewin => writeTally p (fun t => { t with ewin := w }) s
  | .batchctl => writeTally p (fun t => { t with batch := w &&& (maskOf 31 12 ||| maskOf 7 0) }) s
  | .batchEvents => writeTally p (fun t => { t with batchEvents := w }) s
  | .frameBudget => writeTally p (fun t => { t with budget := w }) s
  | .accFrames => writeTally p (fun t => { t with accFrames := w }) s
  | .accDesc => writeTally p (fun t => { t with accDesc := BitVec.ofNat 64 n &&& ~~~ (place 64 56 0x3F) }) s
  | .specctl => s.updTally p fun t =>
      { t with spec := w &&& (maskOf 31 31 ||| maskOf 29 29), espec := if bitAt w 30 then [] else t.espec, specEvents := if bitAt w 30 then 0 else t.specEvents }
  | _ => s

/-- Pipelines after a reset that keeps their configuration (levels 2 and 3): counters cleared, run state ended, a new epoch due (R88, R90,
R91, R263, R295, R302). DEDUCED, log entry 118. -/
def Pipe.reset (k : Pipe) : Pipe :=
  { ({} : Pipe) with
    source := k.source, cfg := k.cfg, act := k.act, lutShadow := k.lutShadow, lutActive := k.lutActive, descShadow := k.descShadow, descActive := k.descActive
    mapBw := k.mapBw, mixShadow := k.mixShadow, mixActive := k.mixActive, curveShadow := k.curveShadow, curveActive := k.curveActive, pack := k.pack
    packNow := k.packNow, epoch := k.epoch, epochLog := k.epochLog, stat := k.stat, statNow := k.statNow, gap := true, resetCause := true }

/-- A Tally engine after such a reset (R334). -/
def Tally.reset (t : Tally) : Tally :=
  { ({} : Tally) with shadow := t.shadow, active := t.active, spec := t.spec, image := { imgB := t.image.imgB } }

end Sys2Proof.Machine
end

