-- ==== Sys2Proof/Machine/Heads.lean ====
section
/-! DEFINITION. Heads and parallel camera ports (chapter 07): forming a head, frames in and whole frames out, discards, takes, and
commands to the camera. -/

namespace Sys2Proof.Machine

open Sys2Proof

/-! ### Heads and their ports -/

/-- Head h as a source. -/
def headSrc (h : Fin 16) : Fin 18 := Fin.ofNat 18 h.1
/-- Parallel port n as a source (R231). -/
def pcamSrc (n : Fin 2) : Fin 18 := Fin.ofNat 18 (16 + n.1)

/-- The enabled head that lists port p (R215). -/
def headOf (s : State) (p : Fin 16) : Option (Fin 16) :=
  (List.finRange 16).find? fun h => bitAt s.heads[h].ctl 31 && (headPorts s h).contains p

/-- A port delivers: it is Up, or Replaying on its way back to Up (R214, R199). -/
def delivering (s : State) (p : Fin 16) : Bool := s.ports[p].state == .up || s.ports[p].state == .replaying

/-- What R214 finds of head h. -/
def headStateOf (s : State) (h : Fin 16) : HState :=
  let ps := headPorts s h
  if ! bitAt s.heads[h].ctl 31 then .disabled
  else if ! ps.all (delivering s) then .waiting
  else
    let one := fun (f : Port → Nat) => (ps.map fun p => f s.ports[p]).eraseDups.length == 1
    let covered := (List.range ps.length).all fun k => ps.any fun p => s.ports[p].headPort == k
    if one (·.partnerId.toNat) && one (·.ver.1) && covered then .ready else .mismatch

/-- The frame or merge group that a source has open, if it is one to be delivered. -/
def frameOpen (s : State) (i : Fin 18) : Bool := receiving s i

/-- A lane of a port is Active (R193, R195). -/
def laneActive (s : State) (n : Fin 64) : Bool := s.lanes[n].tstate == .active

/-- WIDTH of a port, in lanes (R211). -/
def portWidth (w : Word) : Nat := 2 ^ fld w 25 24
/-- The lanes BASE to BASE + N - 1 of a PORTCTL (R176). -/
def baseLanes (w : Word) : List (Fin 64) := (List.range (portWidth w)).map fun k => Fin.ofNat 64 (fld w 13 8 + k)
/-- The lanes of a PORTCTL, the standby lane among them when it is enabled. -/
def ctlLanes (w : Word) : List (Fin 64) := baseLanes w ++ (if bitAt w 23 then [Fin.ofNat 64 (fld w 21 16)] else [])
/-- The Active lanes of port p, standby included. -/
def activeLanes (s : State) (p : Fin 16) : List (Fin 64) := (ctlLanes s.ports[p].ctl).filter (laneActive s)

/-- A link block sent twice on lanes (R193, R195, R201). -/
def sendOn (ls : List (Fin 64)) (x : BitVec 256) (s : State) : State := s.each ls fun n s => sendTwice n x s

/-- Lane n leaves the port's electrical idle: the burst, then 48 codewords before anything else (R143, R189). -/
def wakeLane (n : Fin 64) (s : State) : State :=
  if s.lanes[n].txIdle && s.lanes[n].tstate != .disabled then leaveIdle n (s.updLane n fun l => { l with exitLeft := 48 }) else s

/-- The downstream direction leaves electrical idle (R189, R191). -/
def wakeDown (p : Fin 16) (s : State) : State :=
  if s.ports[p].dsEidle then (s.each (ctlLanes s.ports[p].ctl) wakeLane).updPort p fun q => { q with dsEidle := false } else s

/-! ### Discards -/

/-- The open frame and merge group of a head are gone, and its stream blocks are discarded up to the next start-of-frame block. DEDUCED, log entry 32. -/
def clearFrame (h : Fin 16) (s : State) : State :=
  let f := s.heads[h].rx.toList.findSome? (·.opened)
  let on := (List.finRange 4).filter fun k => s.heads[h].rx[k].opened.isSome
  s.updHead h fun k =>
    { k with rx := k.rx.map fun r => { strayRun := r.strayRun }, openAt := none, expNext := 0, group := [], skipping := true, ignoring := false
             skipFlag := false, replayed := false, standby := false, mark := none, gone := f.map fun f => (f.frame, on)
             input := k.input.filter fun b => some b.1 ≠ f.map (·.frame) }

/-- The next slate from the pipeline of a source carries the gap flag (R220, R228, R300). -/
def owesGap (i : Fin 18) (s : State) : State :=
  match boundPipe s i with
  | some p => settlePipe p (s.updPipe p fun k => { k with gap := true })
  | none => s

/-- A take enters Idle (R227): its event, the credits of its producers (R435), what is open of it (R318, R329), and the sensor changes
still outstanding (R295). DEDUCED, log entry 28. -/
def takeIdle (i : Fin 18) (s : State) : State :=
  let s := publish (0x01C0 + i.1) (s.updSrc i fun k => { k with take := .idle })
  match boundPipe s i with
  | some p =>
    let s := s.updPipe p fun k => { k with outstanding := k.outstanding.map fun _ => none }
    settlePipe p (returnCredits (statProducer p) (returnCredits (dataProducer p) s))
  | none => s

/-- A Stopping take with nothing open enters Idle (R227). DEDUCED, log entry 28. -/
def finishStop (i : Fin 18) (s : State) : State := if s.srcs[i].take = .stopping ∧ ¬ frameOpen s i then takeIdle i s else s

/-- A parallel port drops the frame it has open. -/
def clearPcam (n : Fin 2) (s : State) : State := s.updPcam n fun k => { k with ignoring := true, line := [], lines := [], mark := none }

/-- The open frame of a source dropped, whatever for; what its pipeline has of it is undone (R263, R282). DEDUCED, log entry 32. -/
def dropFrame (i : Fin 18) (s : State) : State :=
  let s := match boundPipe s i with
    | some p => if receiving s i then undoFrame p i s else s
    | none => s
  match finOf 16 i.1 with
  | some h => clearFrame h s
  | none => clearPcam (Fin.ofNat 2 (i.1 - 16)) s

/-- A failed check discards the frame or merge group whole (R220). DEDUCED, log entry 32. -/
def discardFrame (i : Fin 18) (s : State) : State :=
  let s := (dropFrame i s).updSrc i fun k => { k with discards := satInc k.discards }
  finishStop i (owesGap i (publish (0x0160 + i.1) s))

/-- FRAME of the frame a source has open, 0 for a parallel port. -/
def openFrameNo (s : State) (i : Fin 18) : Nat :=
  match finOf 16 i.1 with
  | some h => ((s.heads[h].rx.toList.findSome? (·.opened)).map (·.frame.toNat)).getD 0
  | none => 0

/-- A source that cannot be paused overruns: the frame is discarded whole as a give-way of rung 5 (R23, R230, R433). -/
def overrun (i : Fin 18) (s : State) : State :=
  let no := openFrameNo s i
  let cls : FClass := if i.1 < 16 then .head else .pcam
  let s := (dropFrame i s).updSrc i fun k => { k with overruns := satInc k.overruns }
  finishStop i (owesGap i (giveWay 0x0101 rung5 cls (if i.1 < 16 then i.1 else i.1 - 16) no s))

/-- A link fault takes the open frame of a head with it: discarded whole under R220 (R202, R203, R205, R221). The flag says one was open. DEDUCED, log entry 21. -/
def linkLoses (h : Fin 16) (s : State) : Bool × State :=
  if frameOpen s (headSrc h) then (true, discardFrame (headSrc h) s) else (false, if s.heads[h].openAt.isSome then clearFrame h s else s)

/-- STATE of a head follows its ports, each change with vector 517; a Mismatch is published once per failed check (R214, R236, R519). -/
def recheckHead (h : Fin 16) (s : State) : State :=
  let was := s.heads[h].state
  let now := headStateOf s h
  let s := s.updHead h fun k => { k with state := now }
  let s := if now = was then s else deviceVector 517 s
  if now = .mismatch then publish (0x01E0 + h.1) s else s

/-! ### A frame opens -/

/-- The head is below K2, so it cannot be paused (R23). -/
def pausable (s : State) (h : Fin 16) : Bool := (headPorts s h).all fun p => decide (2 ≤ s.ports[p].ver.1)

/-- A COMMAND block (R222). -/
def commandBlock (seq op addr value : Nat) : BitVec 256 := payload 0x18 [(8, seq), (16, op), (24, addr), (48, value)]

/-- A COMMAND sent on the head's port with HEAD_PORT 0, in two consecutive codewords (R222). DEDUCED, log entry 30. -/
def sendCommand (h : Fin 16) (op : Nat) (addr : BitVec 24) (value : BitVec 64) (s : State) : State :=
  let i := headSrc h
  let s := match portOf s h 0 with
    | some p => sendOn ((s.ports[p].roles.take 1)) (commandBlock s.srcs[i].cmdSeq.toNat op addr.toNat value.toNat) (wakeDown p s)
    | none => s
  s.updSrc i fun k => { k with cmdSeq := k.cmdSeq + 1 }

/-- Entries of a pending set sent as writes, in order (R223). DEDUCED, log entry 30. -/
def sendEntries (h : Fin 16) (es : List (BitVec 24 × BitVec 64)) (s : State) : State := s.each es fun e s => sendCommand h 1 e.1 e.2 s

/-- Every entry of the pending set is sent as a write and the set is emptied; its pipeline has a sensor change outstanding (R223, R293). -/
def sendPending (h : Fin 16) (frame : BitVec 16) (s : State) : State :=
  let i := headSrc h
  let es := s.srcs[i].pendingSet
  if es.isEmpty then s
  else
    let s := (sendEntries h es s).updSrc i fun k => { k with pendingSet := [] }
    match boundPipe s i with
    | some p => s.updPipe p fun k => { k with outstanding := addChange (frame + BitVec.ofNat 16 (fld s.heads[h].formatNow 28 26)) k.outstanding }
    | none => s
where
  /-- One more change outstanding. SENSOR_DELAY is at most 7, so of nine changes the two oldest are due at the same frame and count as one (R302). -/
  addChange (e : BitVec 16) (l : List (Option (BitVec 16))) : List (Option (BitVec 16)) := (if 8 ≤ l.length then l.tail else l) ++ [some e]

/-- The first frame of an Armed take makes it Running (R227). -/
def takeRuns (i : Fin 18) (s : State) : State :=
  if s.srcs[i].take = .armed then publish (0x01A0 + i.1) (s.updSrc i fun k => { k with take := .running, takeNo := satInc k.takeNo }) else s

/-- A frame or group that starts is one to be delivered: the source is bound and its take is Armed or Running (R225, R228). -/
def wanted (s : State) (i : Fin 18) : Bool := (boundPipe s i).isSome && (s.srcs[i].take == .armed || s.srcs[i].take == .running)

/-- A frame that R225 discards whole is counted. -/
def countIdle (i : Fin 18) (s : State) : State :=
  if (boundPipe s i).isNone then publish (0x0180 + i.1) (s.updSrc i fun k => { k with unbound := satInc k.unbound })
  else s.updSrc i fun k => { k with idleFrames := satInc k.idleFrames }

/-- The first start-of-frame block of a group that will be delivered reaches the pipeline; a failed check there discards it (R227, R260). DEDUCED, log entry 26. -/
def groupStart (i : Fin 18) (frame : BitVec 16) (s : State) : State :=
  match boundPipe s i with
  | some p =>
    let first := s.srcs[i].take = .armed
    let s := takeRuns i s
    let s := if first then s.updPipe p fun k => { k with statCount := 0 } else s
    let (s, bad) := pipeStart p i frame s
    if bad then discardFrame i s else s
  | none => s

/-- The fields of a start-of-frame block (R217). -/
def startOf (x : BitVec 256) : FrameStart :=
  { frame := BitVec.ofNat 16 (fld x 23 8), expIndex := Fin.ofNat 4 (fld x 25 24), startValid := bitAt x 26, tidValid := bitAt x 27
    tid := BitVec.ofNat 8 (fld x 35 28), startOfs := BitVec.ofNat 32 (fld x 71 40) }

/-- The fields of an end-of-frame block (R217). -/
def endOf (x : BitVec 256) : FrameEnd :=
  { frame := BitVec.ofNat 16 (fld x 23 8), endValid := bitAt x 24, sensorErr := bitAt x 25, exposure := BitVec.ofNat 32 (fld x 63 32), samples := BitVec.ofNat 32 (fld x 95 64) }

/-- CSEQ a does not come after CSEQ b; numbers wrap at 2^42 (R174). -/
def cseqUpTo (a b : Nat) : Bool := decide ((b + 2 ^ 42 - a % 2 ^ 42) % 2 ^ 42 < 2 ^ 41)

/-- The slot that a port's stream has reached (R174, R178). -/
def portSlot (s : State) (p : Fin 16) : Nat := (s.ports[p].nextSlot + 2 ^ 42 - 1) % 2 ^ 42

/-- A block of the open frame arrived on port p: the frame takes the flags that hold there (R204). -/
def frameFlags (h p : Fin 16) (opening : Bool) (s : State) : State :=
  let q := s.ports[p]
  let re := q.replay.isSome || (opening && match q.replayedTo with
    | some t => cseqUpTo (portSlot s p) t
    | none => false)
  s.updHead h fun k => { k with replayed := k.replayed || re, standby := k.standby || decide (q.roles ≠ q.formedRoles) }

/-- The head's record of a frame that opens now on one of its ports (R219, R220). -/
def openRecord (h p : Fin 16) (f : FrameStart) (live : Bool) (s : State) : State :=
  let s := s.updHead h fun x =>
    { x with skipping := false, gone := none, openAt := some s.coreTime, tmoNow := s.srcs[(headSrc h)].frameTmo, ignoring := ! live, skipFlag := false
             replayed := false, standby := false
             rx := modAt (x.rx.map fun r => { strayRun := r.strayRun }) (Fin.ofNat 4 s.ports[p].headPort) fun _ => { opened := some f } }
  frameFlags h p true s

/-- The frame numbers passed over since the last frame of the head are counted: none when the number comes again (R221). DEDUCED, log entry 26. -/
def countSkips (h : Fin 16) (f : FrameStart) (s : State) : State :=
  let (miss, out) := match s.heads[h].lastFrame with
    | some l => (if f.frame = l then 0 else (f.frame - l - 1).toNat, decide (f.frame ≠ l + 1))
    | none => (0, false)
  (s.updHead h fun x => { x with lastFrame := some f.frame, skipFlag := out }).updSrc (headSrc h) fun x => { x with skips := satAdd x.skips miss }

/-- The stamps of the frame are fixed, and the first exposure of a group starts the group (R225, R388). -/
def stampFrame (h : Fin 16) (f : FrameStart) (first : Bool) (s : State) : State :=
  let m := startMark (headSrc h) (some f) (if first then none else s.heads[h].mark) s
  let s := m.2.updHead h fun x => { x with mark := some m.1 }
  if first then groupStart (headSrc h) f.frame s else s

/-- The head opens a frame at its first start-of-frame block (R219 to R225). DEDUCED, log entry 26. -/
def openFrame (h p : Fin 16) (f : FrameStart) (s : State) : State :=
  let first := s.heads[h].group.isEmpty
  let live := if first then wanted s (headSrc h) else true
  let s := openRecord h p f live (publish (0x0120 + (headSrc h).1) (sendPending h f.frame s))
  if ! live then countIdle (headSrc h) s
  else
    let s := countSkips h f s
    if f.expIndex.1 ≠ s.heads[h].expNext then discardFrame (headSrc h) s else stampFrame h f first s

/-- A start-of-frame block on a port of a Ready head (R220, R221). DEDUCED, log entry 26. -/
def startBlock (h p : Fin 16) (f : FrameStart) (s : State) : State :=
  let x := s.heads[h]
  let k := Fin.ofNat 4 s.ports[p].headPort
  if x.openAt.isNone then
    match x.gone with
    | some (n, on) =>
      -- the discarded frame begins on another of its ports: its blocks are discarded there too
      if n = f.frame ∧ ! on.contains k then s.updHead h fun y => { y with gone := some (n, k :: on) } else openFrame h p f s
    | none => openFrame h p f s
  else
    -- Reopen, Agreement: the open frame fails, and this block opens the next
    let other := x.rx.toList.findSome? (·.opened)
    let clash := x.rx[k].opened.isSome || (match other with
      | some o => o.frame ≠ f.frame
      | none => false)
    if clash then openFrame h p f (if x.ignoring then clearFrame h s else discardFrame (headSrc h) s)
    else
      let s := frameFlags h p true (s.updHead h fun y => { y with rx := modAt y.rx k fun _ => { opened := some f } })
      match other with
      | some o => if o.expIndex ≠ f.expIndex && ! x.ignoring then discardFrame (headSrc h) s else s
      | none => s

/-! ### Samples -/

/-- The share of the port with HEAD_PORT k (R220). -/
def shareOf (g : Shape) (nports k : Nat) : Nat := ceilDiv (g.height - k) nports * (g.width * g.channels)

/-- Samples of b bits taken from the accumulated payload bits: at most n of them (R216). -/
def takeSmps (b : Nat) : Nat → Nat → Nat → List Nat × Nat × Nat
  | 0, bits, acc => ([], bits, acc)
  | n + 1, bits, acc =>
    if bits < b then ([], bits, acc)
    else let (r, x, y) := takeSmps b n (bits - b) (acc / 2 ^ b); (acc % 2 ^ b :: r, x, y)

/-- Bits of samples that wait in the input of head h (R23). -/
def inputBits (s : State) (h : Fin 16) : Nat := ((s.heads[h].input.map (·.2.1)).sum) * (shapeOf s (headSrc h)).pixelBits

/-- The input of a head that cannot be paused can take no more: it holds what it keeps before a request and the receive space of 128 codewords a
lane beyond (R23, R195). DESIGN CHOICE, log entry 135. -/
def inputFull (s : State) (h : Fin 16) : Bool :=
  decide (Config.headRoom + ((headPorts s h).map fun p => portWidth s.ports[p].ctl).sum * 327680 < inputBits s h)

/-- Bytes of the map-store port that sample m of the part with HEAD_PORT k takes (R264). -/
def portBytes (s : State) (q : Fin 16) (g : Shape) (nports k e : Nat) (ds : List Defect) (m : Nat) : Nat :=
  let v := s.pipes[q]
  let per := max (g.width * g.channels) 1
  let at_ := placeOf g (bitAt v.act.lin 31) (m / per * nports + k) (m % per / g.channels)
  let on := fun (r : Fin 5) => descEn v.descActive[r] && ! descLoc v.descActive[r]
  let last := e + 1 == g.exposures
  let four := if bitAt v.act.corr 31 || ! last then 0
    else (if on rDark then entryBytes rDark v.descActive[rDark] else 0) + (if on rGain then 2 else 0)
      + (if on rDefect && m % g.channels == 0 then 8 * (ds.filter fun d => d.row == at_.1 && d.col == at_.2).length else 0)
  let merge := if g.exposures = 1 || bitAt v.act.merge 31 then 0 else if last then 3 * (g.exposures - 1) else 3
  let reorder := if g.layout == 4 && ! bitAt v.act.lin 31 && decide (g.height / 2 ≤ at_.1) then 2 else 0
  max 8 (four + merge + reorder)

/-- Samples m to m + n - 1 of a part wait in the head input (R23, R264). DESIGN CHOICE, log entry 135. -/
def putInput (h q : Fin 16) (g : Shape) (k m n : Nat) (s : State) : State :=
  let e := s.heads[h].expNext
  let ds := if e + 1 = g.exposures ∧ descEn s.pipes[q].descActive[rDefect] then (defectList s q g).1 else []
  let cost := ((List.range n).map fun j => portBytes s q g (headPorts s h).length k e ds (m + j)).sum
  let f := ((s.heads[h].rx.toList.findSome? (·.opened)).map (·.frame)).getD 0
  s.updHead h fun x => { x with input := x.input ++ [(f, n, cost)] }

/-- A data block on a port of a Ready head (R23, R216, R220). -/
def dataBlock (h p : Fin 16) (x : BitVec 256) (s : State) : State :=
  let i := headSrc h
  let k := Fin.ofNat 4 s.ports[p].headPort
  let r := s.heads[h].rx[k]
  if s.heads[h].skipping then s
  else if r.opened.isNone || r.ended.isSome then
    if r.strayRun then s
    else (s.updHead h fun y => { y with rx := modAt y.rx k fun r => { r with strayRun := true } }).updSrc i fun y => { y with discards := satInc y.discards }
  else if s.heads[h].ignoring then s
  else
    match boundPipe s i with
    | none => s
    | some q =>
      if (! takesSamples s q || inputFull s h) && ! pausable s h then overrun i s
      else
        let g := shapeOf s i
        let share := shareOf g (headPorts s h).length k.1
        if share ≤ r.samples.length then discardFrame i s
        else
          let (new, bits, acc) := takeSmps g.pixelBits (min 256 (share - r.samples.length)) (r.bits + 256) (r.acc + x.toNat * 2 ^ r.bits)
          putInput h q g k.1 r.samples.length new.length
            (frameFlags h p false (s.updHead h fun y => { y with rx := modAt y.rx k fun r => { r with samples := r.samples ++ new, bits := bits, acc := acc } }))

/-! ### A frame ends -/

/-- A whole frame or group has been delivered: its event, counts and the take's limit (R228). DEDUCED, log entry 26. -/
def countFrame (i : Fin 18) (s : State) : State :=
  let s := publish (0x0140 + i.1) (s.updSrc i fun k => { k with frames := satInc k.frames, takeFrames := k.takeFrames + 1 })
  let k := s.srcs[i]
  let s := if k.limitNow ≠ 0 ∧ k.limitNow.toNat ≤ k.takeFrames ∧ k.take = .running then s.updSrc i fun k => { k with take := .stopping } else s
  finishStop i s

/-- A frame is whole on every port: an exposure is held for its group, the last one hands the group to the pipeline (R219). DEDUCED, log entry 31. -/
def frameWhole (h : Fin 16) (s : State) : State :=
  let i := headSrc h
  let x := s.heads[h]
  let n := (headPorts s h).length
  let parts := (List.range n).map fun k => (x.rx[(Fin.ofNat 4 k)]).samples
  let clear := fun (s : State) => s.updHead h fun y => { y with rx := y.rx.map fun r => { strayRun := r.strayRun }, openAt := none, ignoring := false }
  match boundPipe s i, x.rx[(0 : Fin 4)].opened, x.rx[(0 : Fin 4)].ended, x.mark with
  | some p, some f, some e, some m =>
    let g := shapeOf s i
    let (st, s) := stampsOf i m e s
    let fr : Frame := { start := f, stop := e, parts := [], skip := x.skipFlag, replayed := x.replayed, standby := x.standby, stamps := st }
    let fs := x.group ++ [fr]
    if x.expNext + 1 < g.exposures then
      (clear (holdExposure p g x.expNext parts s)).updHead h fun y => { y with group := fs, expNext := x.expNext + 1 }
    else
      let all : Stamps := match fs.head? with
        | some a => { a.stamps with tbEnd := st.tbEnd, late := fs.any (·.stamps.late) }
        | none => st
      let s := (clear (deliver p i fs parts all s)).updHead h fun y => { y with group := [], expNext := 0, mark := none }
      countFrame i s
  | _, _, _, _ => clear s

/-- An end-of-frame block on a port of a Ready head (R220). DEDUCED, log entry 27. -/
def endBlock (h p : Fin 16) (e : FrameEnd) (s : State) : State :=
  let i := headSrc h
  let k := Fin.ofNat 4 s.ports[p].headPort
  let r := s.heads[h].rx[k]
  let n := (headPorts s h).length
  match r.opened with
  | none => s
  | some f =>
    if s.heads[h].skipping || r.ended.isSome then s
    else
      let s := frameFlags h p false (s.updHead h fun y => { y with rx := modAt y.rx k fun r => { r with ended := some e } })
      let done := (List.range n).all fun k => (s.heads[h].rx[(Fin.ofNat 4 k)]).ended.isSome
      if s.heads[h].ignoring then (if done then frameWhole h s else s)
      else
        let share := shareOf (shapeOf s i) n k.1
        if e.frame ≠ f.frame || decide (e.samples.toNat ≠ share) || decide (r.samples.length ≠ share) || e.sensorErr then discardFrame i s
        else if done then frameWhole h s else s

/-! ### Takes -/

/-- START of a take (R228). -/
def startTake (i : Fin 18) (s : State) : State :=
  let s := s.updSrc i fun k => { k with take := .armed, geomNow := k.geom, limitNow := k.frameLimit, takeFrames := 0 }
  let s := match finOf 16 i.1 with
    | some h => s.updHead h fun k => { k with formatNow := k.format, lastFrame := none, expNext := 0 }
    | none => s
  match boundPipe s i with
  | some p => s.updPipe p fun k => { k with packNow := k.pack, changed := k.changed || k.packChanged, packChanged := false }
  | none => s

/-- The conditions under which START is refused (R191, R228). -/
def startRefused (s : State) (i : Fin 18) : Status :=
  firstRefusal
    [((boundPipe s i).isNone, .state), (takeOpen s i, .busy),
     (match finOf 16 i.1 with
      | some h => bitAt s.heads[h].ctl 31 && (headPorts s h).any fun p => bitAt s.ports[p].ctl 28
      | none => false, .state)]

/-- STOP of a take (R228). DEDUCED, log entry 28. -/
def stopTake (i : Fin 18) (s : State) : State :=
  match s.srcs[i].take with
  | .armed => takeIdle i s
  | .running => finishStop i (s.updSrc i fun k => { k with take := .stopping })
  | _ => s

/-- ABORT of a take (R228). DEDUCED, log entry 28. -/
def abortTake (i : Fin 18) (s : State) : State :=
  if ! takeOpen s i then s
  else
    let s := if frameOpen s i then (dropFrame i s).updSrc i fun k => { k with discards := satInc k.discards } else s
    let s := match boundPipe s i with
      | some p => abortPipe p s
      | none => s
    takeIdle i s

/-! ### Parallel camera ports -/

/-- FSYNC becomes active (R225, R229). -/
def pcamStart (n : Fin 2) (s : State) : State :=
  let i := pcamSrc n
  if ! bitAt s.pcams[n].ctl 31 || s.pcams[n].opened then s
  else
    let live := wanted s i
    let s := publish (0x0120 + i.1) (s.updPcam n fun k => { k with opened := true, openAt := s.coreTime, ignoring := ! live, line := [], lines := [], inLine := false, mark := none })
    if ! live then countIdle i s
    -- a frame that begins while the pipeline takes no samples is not delivered
    else if ((boundPipe s i).map fun p => takesSamples s p) == some false then overrun i (s.updPcam n fun k => { k with ignoring := true })
    else
      let (m, s) := startMark i none none s
      groupStart i 0 (s.updPcam n fun k => { k with mark := some m })

/-- The samples of one edge (R230). -/
def pcamSmps (ctl : Word) (d : Nat) : List Nat :=
  let b := fld ctl 4 0
  match fld ctl 25 24 with
  | 0 => [d % 2 ^ b]
  | 1 => [d % 2 ^ b, d / 2 ^ 12 % 2 ^ b]
  | _ => [d % 256, d / 256 % 256, d / 65536 % 256]

/-- A line of an open frame ends (R229, R231). -/
def lineEnd (n : Fin 2) (s : State) : State :=
  let i := pcamSrc n
  let k := s.pcams[n]
  let s := s.updPcam n fun k => { k with inLine := false, line := [] }
  if k.ignoring then s
  else
    let g := shapeOf s i
    if k.line.length ≠ g.width * g.channels then discardFrame i s else s.updPcam n fun k' => { k' with lines := k'.lines ++ [k.line] }

/-- One sampled edge with FSYNC active (R229, R230): the pins' levels. -/
def pcamEdge (n : Fin 2) (lsync dval : Bool) (d : Nat) (s : State) : State :=
  let i := pcamSrc n
  let k := s.pcams[n]
  let line := lsync != bitAt k.ctl 28
  let on := line && (! bitAt k.ctl 26 || (dval != bitAt k.ctl 27))
  if ! k.opened then s
  else if ! line then (if k.inLine then lineEnd n s else s)
  else
    let s := s.updPcam n fun k => { k with inLine := true }
    if ! on || k.ignoring then s
    else
      match boundPipe s i with
      | none => s
      | some p =>
        if ! takesSamples s p then overrun i s
        else
          s.updPcam n fun k => { k with line := k.line ++ pcamSmps k.ctl d }

/-- FSYNC becomes inactive (R229, R231). -/
def pcamEnd (n : Fin 2) (s : State) : State :=
  let i := pcamSrc n
  if ! s.pcams[n].opened then s
  else
    let s := if s.pcams[n].inLine then lineEnd n s else s
    let k := s.pcams[n]
    let s' := s.updPcam n fun k => { k with opened := false, ignoring := false, line := [], lines := [], mark := none }
    if k.ignoring then finishStop i s'
    else
      let g := shapeOf s i
      if k.lines.length ≠ g.height then (discardFrame i s).updPcam n fun k => { k with opened := false, ignoring := false }
      else
        match boundPipe s i, k.mark with
        | some p, some m =>
          let f : FrameStart := { frame := 0, expIndex := 0, startValid := false, tidValid := false, tid := 0, startOfs := 0 }
          let e : FrameEnd := { frame := 0, endValid := false, sensorErr := false, exposure := 0, samples := 0 }
          let (st, _) := stampsOf i m e s
          let fr : Frame := { start := f, stop := e, parts := [], skip := false, replayed := false, standby := false, stamps := st }
          countFrame i (deliver p i [fr] [k.lines.flatten] st s')
        | _, _ => s'

/-- No PCLK edge for 1 us while FSYNC is active (R231). -/
def pcamLost (n : Fin 2) (s : State) : State :=
  if ! s.pcams[n].opened then s
  else
    let s := if s.pcams[n].ignoring then s else discardFrame (pcamSrc n) s
    finishStop (pcamSrc n) (s.updPcam n fun k => { k with pclkLost := true, opened := false, ignoring := false, inLine := false })

/-! ### Objects -/

/-- Objects of a source (R232). -/
inductive SrcReg where
  | ctl | geom | format | peakRate | frameTmo | headstat | takectl | takeNo | slateNo | frameLimit | frames | overruns | discards | unbound
  | idleFrames | skips | cmdctl | cmdData | headmsg
deriving DecidableEq, Repr

/-- The objects by sub (R232). -/
def SrcReg.table : List (Nat × SrcReg) :=
  [(0x01, .ctl), (0x02, .geom), (0x03, .format), (0x04, .peakRate), (0x05, .frameTmo), (0x06, .headstat), (0x07, .takectl), (0x08, .takeNo),
   (0x09, .slateNo), (0x0A, .frameLimit), (0x10, .frames), (0x11, .overruns), (0x12, .discards), (0x13, .unbound), (0x14, .idleFrames),
   (0x15, .skips), (0x18, .cmdctl), (0x19, .cmdData), (0x1A, .headmsg)]

/-- The source and its object at index and sub: 4h00, 4E80 and 4F80; a parallel port has no .03 (R232). -/
def SrcReg.at_ (index sub : Nat) : Option (Fin 18 × SrcReg) :=
  let r := (SrcReg.table.find? fun e => e.1 == sub).map (·.2)
  if index / 0x1000 = 4 ∧ index % 0x100 = 0 then r.map fun r => (Fin.ofNat 18 (index / 0x100 % 16), r)
  else if index = 0x4E80 ∨ index = 0x4F80 then
    if sub = 3 then none else r.map fun r => (if index = 0x4E80 then 16 else 17, r)
  else none

/-- What the table says of them (R232). -/
def SrcReg.desc : SrcReg → Desc
  | .ctl => .rw .bits32 1 | .geom => .rw .bits32 1 2 | .format => .rw .bits32 1 2 | .peakRate => .rw .u32 1
  | .frameTmo => (Desc.rw .u32 1 1).within 1 10000000 | .headstat => .ro .bits32 | .takectl => .wo .bits32 1 | .takeNo => .ro .u32
  | .slateNo => .ro .u48 | .frameLimit => .rw .u32 1 2 | .frames => .ro .u48 | .overruns => .ro .u32 | .discards => .ro .u32 | .unbound => .ro .u32
  | .idleFrames => .ro .u32 | .skips => .ro .u32 | .cmdctl => .rw .bits32 1 | .cmdData => .rw .u64 1 | .headmsg => (Desc.ro .blob).long 32

/-- HEADSTAT (R236). -/
def headstatOf (s : State) (i : Fin 18) : Word :=
  let b := boundPipe s i
  let st := match finOf 16 i.1 with
    | some h => s.heads[h].state.code
    | none => 0
  let fo := match finOf 16 i.1 with
    | some h => s.heads[h].openAt.isSome
    | none => s.pcams[(Fin.ofNat 2 (i.1 - 16))].opened
  place 32 30 st ||| place 32 28 s.srcs[i].take.code ||| flagBit 27 fo ||| flagBit 26 b.isSome ||| place 32 20 s.srcs[i].pendingSet.length
    ||| place 32 16 ((b.map (·.1)).getD 0)

/-- What an object of a source reads. DEDUCED, log entry 25. -/
def SrcReg.read (s : State) (i : Fin 18) (r : SrcReg) : Val :=
  let k := s.srcs[i]
  match r with
  | .ctl => match finOf 16 i.1 with
    | some h => bv s.heads[h].ctl
    | none => let c := s.pcams[(Fin.ofNat 2 (i.1 - 16))]; bv (c.ctl ||| flagBit 5 c.pclkLost)
  | .format => match finOf 16 i.1 with
    | some h => bv s.heads[h].format
    | none => .num 0
  | .geom => bv k.geom | .peakRate => bv k.peakRate | .frameTmo => bv k.frameTmo | .headstat => bv (headstatOf s i) | .takectl => .num 0
  | .takeNo => bv k.takeNo | .slateNo => bv k.slateNo | .frameLimit => bv k.frameLimit | .frames => bv k.frames | .overruns => bv k.overruns
  | .discards => bv k.discards | .unbound => bv k.unbound | .idleFrames => bv k.idleFrames | .skips => bv k.skips
  | .cmdctl => bv ((k.cmd &&& (maskOf 30 29 ||| maskOf 23 0)) ||| flagBit 31 k.cmdWait.isSome ||| place 32 26 k.cmdRes.1)
  | .cmdData => bv k.cmdData | .headmsg => .bytes k.headMsg

/-- FORMAT's own checks (R235, R241). DEDUCED, log entry 24. -/
def formatOk (w geom : Word) : Bool :=
  let taps := fld w 17 15
  let lay := fld w 20 18
  decide (8 ≤ fld w 4 0) && decide (fld w 4 0 ≤ 16) && decide (taps ≤ 4)
    && (match lay with
        | 0 => taps == 0
        | 4 => taps == 2
        | 1 => true
        | 2 => true
        | 3 => true
        | _ => false)
    && layoutFits lay (2 ^ taps) (geomW geom) (geomH geom)

/-- PMODE and DBITS agree (R230). -/
def pcamOk (w : Word) : Bool :=
  let b := fld w 4 0
  match fld w 25 24 with
  | 0 => decide (8 ≤ b) && decide (b ≤ 16)
  | 1 => decide (8 ≤ b) && decide (b ≤ 12)
  | 2 => b == 8
  | _ => false

/-- The own checks of an object of a source (R215, R226, R228, R230, R233, R235, R237, R223). DEDUCED, log entry 29. -/
def SrcReg.check (s : State) (i : Fin 18) (r : SrcReg) (v : Val) : Status :=
  let w := v.word
  let busy := takeOpen s i
  match r with
  | .ctl => match finOf 16 i.1 with
    | some h =>
      let ports := (List.range (fld w 29 28 + 1)).map fun k => fld w (15 + 4 * k) (12 + 4 * k)
      firstRefusal [(busy, .state), ((List.finRange 16).any (fun o => o ≠ h && bitAt s.heads[o].ctl 31 && (headPorts s o).any fun p => ports.contains p.1), .busy)]
    | none => firstRefusal [(busy, .state), (! pcamOk w, .range)]
  | .geom => firstRefusal [(busy, .state)]
  | .format => firstRefusal [(busy, .state), (! formatOk w s.srcs[i].geom, .range)]
  | .peakRate => firstRefusal [(decide (i.1 < 16) && (boundPipe s i).isSome && decide (20000 < v.toNat), .range), (decide (i.1 < 16) && busy, .state)]
  | .takectl => if bitAt w 31 && ! bitAt w 30 && ! bitAt w 29 then startRefused s i else .ok
  | .cmdctl =>
    let op := fld w 30 29
    let ready := match finOf 16 i.1 with
      | some h => s.heads[h].state == .ready
      | none => false
    firstRefusal [(s.srcs[i].cmdWait.isSome, .busy), (op == 2 && decide (32 ≤ s.srcs[i].pendingSet.length), .busy), (op == 3, .range), (decide (op < 2) && ! ready, .state)]
  | _ => .ok

/-- What an accepted write of an object of a source does. -/
def SrcReg.write (i : Fin 18) (r : SrcReg) (v : Val) (s : State) : State :=
  let w := v.word
  match r with
  | .ctl => match finOf 16 i.1 with
    | some h =>
      let s := s.updHead h fun k => { k with ctl := w &&& (maskOf 31 31 ||| maskOf 29 12) }
      recheckHead h (if bitAt w 31 then s else clearFrame h s)
    | none => s.updPcam (Fin.ofNat 2 (i.1 - 16)) fun k => { k with ctl := w &&& (maskOf 31 24 ||| maskOf 4 0), pclkLost := false, opened := k.opened && bitAt w 31 }
  | .geom => s.updSrc i fun k => { k with geom := w &&& (maskOf 29 16 ||| maskOf 13 0) }
  | .format => match finOf 16 i.1 with
    | some h => s.updHead h fun k => { k with format := w &&& (maskOf 28 24 ||| maskOf 20 15 ||| maskOf 11 10 ||| maskOf 4 0) }
    | none => s
  | .peakRate => s.updSrc i fun k => { k with peakRate := w }
  | .frameTmo => s.updSrc i fun k => { k with frameTmo := w }
  | .takectl => if bitAt w 29 then abortTake i s else if bitAt w 30 then stopTake i s else if bitAt w 31 then startTake i s else s
  | .frameLimit => s.updSrc i fun k => { k with frameLimit := w }
  | .cmdctl =>
    let op := fld w 30 29
    let s := s.updSrc i fun k => { k with cmd := w &&& (maskOf 30 29 ||| maskOf 23 0) }
    let addr := BitVec.ofNat 24 (fld w 23 0)
    if op = 2 then s.updSrc i fun k => { k with pendingSet := k.pendingSet ++ [(addr, k.cmdData)], cmdRes := 3 }
    else match finOf 16 i.1 with
      | some h => sendCommand h op addr s.srcs[i].cmdData (s.updSrc i fun k => { k with cmdWait := some k.cmdSeq })
      | none => s
  | .cmdData => s.updSrc i fun k => { k with cmdData := BitVec.ofNat 64 v.toNat }
  | _ => s

/-- A COMMAND_REPLY (R223). -/
def commandReplied (h : Fin 16) (x : BitVec 256) (s : State) : State :=
  s.updSrc (headSrc h) fun k =>
    if k.cmdWait = some (BitVec.ofNat 8 (fld x 15 8)) then
      { k with cmdWait := none, cmdRes := if bitAt x 16 then 1 else 0, cmdData := if bitAt x 16 then k.cmdData else BitVec.ofNat 64 (fld x 111 48) }
    else k

end Sys2Proof.Machine
end

