-- ==== Sys2Proof/Machine/Links.lean ====
section
/-! DEFINITION. Ports (chapter 06): bonding lanes, pause, triggers, replay and failover, electrical idle, the sheepdog, what a
lane's change of training state does to its port, and the port objects. -/

namespace Sys2Proof.Machine

open Sys2Proof

/-! ### Lanes of a port -/

/-- The enabled port that holds lane n, as a member or as its standby lane (R176). -/
def portOfLane (s : State) (n : Fin 64) : Option (Fin 16) :=
  (List.finRange 16).find? fun p => bitAt s.ports[p].ctl 31 && (ctlLanes s.ports[p].ctl).contains n

/-- The enabled port that has lane n as a member: its attempts to form begin with its members' changes alone (R177). -/
def portOfMember (s : State) (n : Fin 64) : Option (Fin 16) := (portOfLane s n).filter fun p => (baseLanes s.ports[p].ctl).contains n

/-- The port is up, or replays on its way back to Up. -/
def Port.running (q : Port) : Bool := q.state == .up || q.state == .replaying

/-- The lanes that carry a port's roles: the bonded ones while it runs, BASE onward before (R176, R178). -/
def Port.members (q : Port) : List (Fin 64) := if q.running then q.roles else baseLanes q.ctl

/-- The lane that is a port's standby now; below K3 SB_EN is ignored once the version is known (R187). -/
def Port.standbyLane (q : Port) : Option (Fin 64) :=
  if bitAt q.ctl 23 && (q.ver == 0 || q.ver == 3) then some (Fin.ofNat 64 q.curSb) else none

/-- The Active lanes on which a port sends its link blocks, its standby included (R187, R193, R195). -/
def sendingLanes (s : State) (p : Fin 16) : List (Fin 64) :=
  (activeLanes s p).filter fun n => s.ports[p].members.contains n || s.ports[p].standbyLane == some n

/-- STATE of port p changes, with vector 517; its head is checked again (R213, R214, R519). UP_TIME starts when the port leaves Up and ends when it is Up
(R184). DEDUCED, log entry 22. -/
def setPState (p : Fin 16) (x : PState) (s : State) : State :=
  let was := s.ports[p].state
  if was = x then s
  else
    let s := deviceVector 517 (s.updPort p fun q => { q with state := x, upTimer := if x = .up then false else if was = .up then true else q.upTimer })
    match headOf s p with
    | some h => recheckHead h s
    | none => s

/-- A formation attempt begins (R177). -/
def newAttempt (p : Fin 16) (s : State) : State :=
  if s.ports[p].running then s
  else
    let s := s.updPort p fun q => { q with attemptFailed := false }
    if s.ports[p].state = .down then setPState p .forming s else s

/-- A link block sent twice on every Active lane of port p, standby included; downstream idle ends at once (R191). -/
def sendPort (p : Fin 16) (x : BitVec 256) (s : State) : State :=
  let s := wakeDown p s
  sendOn (sendingLanes s p) x s

/-! ### Pause -/

/-- Pause is requested of head h: its input cannot take more samples, or a queue mapped to it is high (R195, R447). DESIGN CHOICE, log entry 135. -/
def pauseWanted (s : State) (h : Fin 16) : Bool :=
  (match boundPipe s (headSrc h) with
   | some p => takeOpen s (headSrc h) && (! takesSamples s p || decide (Config.headRoom < inputBits s h))
   | none => false)
  || (List.finRange 512).any fun q => s.qm.queues[q].wmState && bitAt s.qm.queues[q].wmmap 23 && fld s.qm.queues[q].wmmap 19 16 == h.1

/-- A PAUSE block (R195). -/
def pauseBlock (on : Bool) (pseq : BitVec 8) : BitVec 256 := payload 0x21 [(8, if on then 1 else 0), (16, pseq.toNat)]

/-- A running K2 or K3 port is sent the pause state its head asks for, when that changes (R195). -/
def settlePort (h p : Fin 16) (s : State) : State :=
  let q := s.ports[p]
  let want := pauseWanted s h
  if ! q.running || decide (q.ver.1 < 2) || q.paused == want then s
  else
    let s := s.updPort p fun q => { q with paused := want, pseq := q.pseq + 1, pauses := if want then satInc q.pauses else q.pauses }
    sendPort p (pauseBlock want s.ports[p].pseq) s

/-- Pause follows its requests on every head (R195). -/
def settlePause (s : State) : State :=
  s.each (List.finRange 16) fun h s => if bitAt s.heads[h].ctl 31 then s.each (headPorts s h) (settlePort h) else s

/-! ### Triggers -/

/-- The first symbol of a quadrant's transmitters that leaves at or after a core time, symbols counted from core time 0 (R109, R127,
R193). DEDUCED, log entry 23. -/
def symbolsAt (at_ : Nat) : Nat := (45 * at_ + 1) / 2

/-- CSEQ24 and symbol of the first downstream symbol that leaves lane n at or after now (R174, R193). DEDUCED, log entry 23. -/
def referenceOf (s : State) (n : Fin 64) : Nat × Nat :=
  let q := s.quads[(Fin.ofNat 4 (n.1 / 16))]
  let k := symbolsAt s.coreTime - q.alignSym
  ((q.aseq.toNat * 1024 + k / 1360) % 2 ^ 24, k % 1360)

/-- An entry of a TRIGGER block (R192). -/
def triggerEntry (tid line cseq sym : Nat) : Nat := tid + line <<< 8 + cseq <<< 16 + sym <<< 40

/-- A TRIGGER block with one entry (R192). -/
def triggerBlock (entry : Nat) : BitVec 256 := payload 0x20 [(8, 1), (16, entry)]

/-- A TRIGGER block with one more entry (R192). -/
def addTrigger (x : BitVec 256) (entry : Nat) : BitVec 256 :=
  let k := fld x 15 8
  (x + place 256 8 1) ||| place 256 (16 + 56 * k) entry

/-- A trigger's entry put into a lane's next two data codewords: into a TRIGGER block of fewer than four entries that goes out in both,
else in a block of its own (R192, R193). -/
def Lane.enqueueTrigger (l : Lane) (entry : Nat) : Lane :=
  match l.txq with
  | a :: b :: q =>
    match a.find? fun x => fld x 7 0 == 0x20 && decide (fld x 15 8 < 4) && b.contains x with
    | some x =>
      let grow := fun (y : BitVec 256) => if y = x then addTrigger x entry else y
      { l with txq := a.map grow :: b.map grow :: q }
    | none => l.enqueue 2 (triggerBlock entry)
  | _ => l.enqueue 2 (triggerBlock entry)

/-- A cue's link trigger on head h: sent on every Active lane of its port with HEAD_PORT 0, or counted lost; the TID it was sent with
(R193, R194). DEDUCED, log entry 23. -/
def sendTrigger (h : Fin 16) (line cue : Nat) (s : State) : Option (BitVec 8) × State :=
  let p := (portOf s h 0).getD ((headPorts s h).headD 0)
  let ls := sendingLanes s p
  match ls with
  | [] => (none, giveWay 0x0104 rung3 .port p.1 cue (s.updPort p fun q => { q with trigLost := satInc q.trigLost }))
  | n :: _ =>
    let tid := s.ports[p].tid
    let (c, y) := referenceOf s n
    let s := s.updPort p fun q => { q with tid := q.tid + 1, trigSent := satInc q.trigSent }
    (some tid, s.each ls fun n s => s.updLane n fun l => l.enqueueTrigger (triggerEntry tid.toNat line c y))

/-! ### A port goes down -/

/-- Codewords that the port's stream has not taken are forgotten. -/
def dropSlots (p : Fin 16) (s : State) : State := s.each (ctlLanes s.ports[p].ctl) fun n s => s.updLane n fun l => { l with slots := [] }

/-- Port p goes down, lane n having failed (R202). DEDUCED, log entries 20, 21. -/
def portDown (p : Fin 16) (n : Fin 64) (s : State) : State :=
  let k3 := s.ports[p].ver == 3
  let (lost, s) := match headOf s p with
    | some h => linkLoses h s
    | none => (false, s)
  let s := setPState p .down ((dropSlots p s).updPort p fun q =>
    { q with sbReady := false, replay := none, broken := true, paused := false, attemptFailed := false, sbTrial := false, owed := [] })
  let s := publish (0x00D0 + p.1) s
  if lost then
    giveWay 0x0102 (if k3 then rung2 else rung5) .port p.1 n.1 (s.updPort p fun q => { q with discards := satInc q.discards, giveways := satInc q.giveways })
  else fault 0x0102 0 .port p.1 n.1 s

/-! ### Replay -/

/-- The earliest slot not yet fully assembled into the stream, as CSEQ24; the alignment slots, which carry nothing, are passed over
(R178, R198, R199). -/
def firstLacking (s : State) (p : Fin 16) : Nat :=
  match s.ports[p].replay with
  | some r => r.x
  | none =>
    let x := s.ports[p].nextSlot
    (if x % 1024 = 0 then x + 1 else x) % 2 ^ 24

/-- A REPLAY_REQ block (R197). -/
def replayReq (r : Replay) : BitVec 256 :=
  payload 0x30 [(8, r.rseq.toNat), (16, r.x), (40, r.role), (43, if r.move then 1 else 0), (44, r.newLid)]

/-- A replay starts, or is asked for anew: a new RSEQ, X fixed, REPLAY_REQ sent; a frame open now has the replayed flag (R198 to R201,
R204). -/
def startReplay (p : Fin 16) (move : Bool) (role newLid : Nat) (failed : Option (Fin 64)) (s : State) : State :=
  let r : Replay := { rseq := s.ports[p].rseq + 1, x := firstLacking s p, move := move, role := role, newLid := newLid, failed := failed, repeats := 0 }
  let s := setPState p .replaying ((dropSlots p s).updPort p fun q => { q with rseq := r.rseq, replay := some r })
  let s := match headOf s p with
    | some h => if s.heads[h].openAt.isSome then s.updHead h fun k => { k with replayed := true } else s
    | none => s
  sendPort p (replayReq r) s

/-- Failover of lane n to the standby, from step 1 or, planned, from step 2 (R201, R206). -/
def failover (p : Fin 16) (n : Fin 64) (s : State) : State :=
  let q := s.ports[p]
  let lid := ((s.lanes[(Fin.ofNat 64 q.curSb)].caps.map (·.lid)).getD 0)
  startReplay p true (q.roles.idxOf n) lid (some n) s

/-- A failover's move is owed (R199). -/
def Port.moving (q : Port) : Bool :=
  match q.replay with
  | some r => r.move
  | none => false

/-- Lane n can no longer carry its port: failover with a ready standby on a K3 port, else the port goes down (R198, R199, R202). DEDUCED, log entry 18. -/
def memberLost (n : Fin 64) (s : State) : State :=
  match portOfLane s n with
  | none => s
  | some p =>
    let q := s.ports[p]
    if ! q.running then s
    else if q.roles.contains n then
      if q.ver ≠ 3 then portDown p n s
      else if q.moving then (if (q.replay.bind (·.failed)) = some n then s else portDown p n s)
      else if q.sbReady then failover p n s
      else portDown p n s
    else if q.standbyLane = some n then
      (if q.moving then portDown p n s else s.updPort p fun q => { q with sbReady := false })
    else s

/-- Upstream idle of the port of lane n follows its lanes; an idle that ends may be published again (R190, R213). -/
def settleUsIdle (n : Fin 64) (s : State) : State :=
  match portOfLane s n with
  | some p =>
    let idle := (ctlLanes s.ports[p].ctl).any fun m => s.lanes[m].rxIdle
    s.updPort p fun q => { q with usEidle := idle, idleTold := q.idleTold && idle }
  | none => s

/-- A formation attempt begins with a member's change (R177). -/
def memberChanged (n : Fin 64) (s : State) : State :=
  match portOfMember s n with
  | some p => newAttempt p s
  | none => s

/-- The highest version that lane n offers: its port's VER_MAX, 3 outside a port (R185, R211). -/
def verMaxOf (s : State) (n : Fin 64) : Nat :=
  match portOfLane s n with
  | some p => fld s.ports[p].ctl 27 26
  | none => 3

/-- Lane n enters a training state: a formation attempt of a member's port begins, and a lane that leaves Active is lost to its port.
VER_MAX takes effect at the entry to Exchange (R177, R182, R198, R211). DEDUCED, log entry 20. -/
def moveLane (n : Fin 64) (t : TState) (s : State) : State :=
  let was := s.lanes[n].tstate
  let offer := verMaxOf s n
  let s := settleUsIdle n ((enterT n t s).updLane n fun l => if t = .exchange then { l with offer := offer } else l)
  if was = t then s
  else
    let s := memberChanged n s
    if was = .active then memberLost n s else s

/-! ### The sheepdog -/

/-- RETRAIN sent in two consecutive codewords, and the lane enters Pattern with its kept coefficients (R206). DEDUCED, log entry 128. -/
def retrain (n : Fin 64) (s : State) : State :=
  if s.lanes[n].tstate = .active then
    let x := payload 0x13 []
    moveLane n .pattern (sendNow n [x] (sendNow n [x] (leaveIdle n s)))
  else s

/-- The sheepdog orders a retrain, if firmware runs (R206). -/
def orderRetrain (n : Fin 64) (s : State) : State := if firmwareRuns s then retrain n s else s

/-- A standby with an uncorrectable codeword or a window beyond its limit: SB_READY falls at once and the sheepdog retrains it. During a
failover this never cancels the move (R198, R199, R206). -/
def standbyErrs (p : Fin 16) (n : Fin 64) (s : State) : State :=
  if s.ports[p].moving then s else orderRetrain n (s.updPort p fun q => { q with sbReady := false })

/-- A standby named in LANE_FAULT: during a failover its port goes down (R198, R202, R206). -/
def standbyFails (p : Fin 16) (n : Fin 64) (s : State) : State := if s.ports[p].moving then portDown p n s else standbyErrs p n s

/-- A planned failover, then a retrain once the role has moved; a retrain at once without a ready standby. While another lane's role
moves, the order waits (R206). DEDUCED, log entry 18. -/
def failThenRetrain (p : Fin 16) (n : Fin 64) (s : State) : State :=
  let q := s.ports[p]
  if ! firmwareRuns s then s
  else if q.moving then (if (q.replay.bind (·.failed)) = some n ∨ q.owed.contains n then s else s.updPort p fun q => { q with owed := q.owed ++ [n] })
  else if q.ver = 3 ∧ q.sbReady then failover p n s
  else retrain n s

/-- The retrains that a replay has delayed, ordered now that it has ended (R206). -/
def payOwed (p : Fin 16) (s : State) : State :=
  let ns := s.ports[p].owed
  (s.updPort p fun q => { q with owed := [] }).each ns fun n s => if s.ports[p].roles.contains n then failThenRetrain p n s else s

/-! ### Lane events -/

/-- The lane runs: it is enabled and out of reset (R163). -/
def runs (s : State) (n : Fin 64) : Bool := ! inReset (.lane n) s && s.lanes[n].tstate != .disabled

/-- The lane hears KRX: it runs, and is not looped to its own transmitter (R150). -/
def listening (s : State) (n : Fin 64) : Bool := runs s n && fld s.lanes[n].ctl 30 29 != 1

/-- The receiver enters electrical idle: coefficients and phase are kept, symbols stop, and CDR_LOCK reads 0 (R141, R142, R155). DESIGN CHOICE, log entry 134. -/
def enterIdle (n : Fin 64) (s : State) : State :=
  settleUsIdle n (s.updLane n fun l =>
    { l with idleAnnounced := true, idleLead := none, rxIdle := true, sigdet := false, cdrLock := false, symLock := false }.abortEye)

/-- EIDLE_ENTER: the receiver enters idle when its input falls, or after the codewords that LEAD counts (R141, R188). -/
def idleAnnounced (n : Fin 64) (x : BitVec 256) (s : State) : State :=
  if runs s n && s.lanes[n].tstate == .active then s.updLane n fun l => { l with idleAnnounced := true, idleLead := some (fld x 15 8) } else s

/-- Loss of signal is declared: the lane returns at once to Detect (R141). -/
def lossDeclared (n : Fin 64) (s : State) : State := settleUsIdle n (moveLane n .detect (s.updLane n fun l => { l with rxIdle := false }.lose))

/-- The input falls (R141). -/
def inputFalls (n : Fin 64) (s : State) : State :=
  if ! listening s n then s
  else if s.lanes[n].idleAnnounced then enterIdle n s
  else lossDeclared n s

/-- The input rises: signal detect, and an exit from electrical idle with its exit check (R141, R144, R145). DESIGN CHOICE, log entry 17. -/
def inputRises (n : Fin 64) (s : State) : State :=
  if ! listening s n then s
  else
    let leaving := s.lanes[n].rxIdle
    let s := s.updLane n fun l => { l with sigdet := true, los := false, cdrLock := true, symLock := true }
    if leaving then
      settleUsIdle n (s.updLane n fun l =>
        { l with rxIdle := false, idleAnnounced := false, exitCheck := true, winCorr := 0, winUncorr := 0, ferNow := l.ferLimit, cwLock := .search, missed := 0
                 uncorrRun := 0, rxPrev := 0 })
    else s

/-- The exit did not lock (R144, R189). DESIGN CHOICE, log entry 17. -/
def exitFails (n : Fin 64) (s : State) : State :=
  let l := s.lanes[n]
  if ! listening s n || ! (l.rxIdle || (l.exitCheck && ! l.locked)) then s
  else lossDeclared n (s.updLane n fun l => { l.count (fun c => { c with exitFail := satInc c.exitFail }) with idleAnnounced := false })

/-- Codeword lock is lost: in Lock, Exchange and Active this acts as loss of signal, and a framed pattern's checker has to find its
place again (R149, R175). -/
def lockLost (n : Fin 64) (s : State) : State :=
  let s := s.updLane n fun l => { l with cwLock := .search, missed := 0, uncorrRun := 0, chk := if fld l.ctl 23 21 = 4 then {} else l.chk }
  match s.lanes[n].tstate with
  | .lock | .exchange | .active => moveLane n .detect s
  | _ => s

/-- CAPS as the device sends it: the version offered, and WIDTH, PLI and STANDBY from PORTCTL (R185). -/
def ownCaps (s : State) (n : Fin 64) : BitVec 256 :=
  let serial := Config.serial.toNat % 2 ^ 32
  match portOfLane s n with
  | some p =>
    let w := s.ports[p].ctl
    let sb := ! (baseLanes w).contains n
    payload 0x10 [(8, s.lanes[n].offer), (10, n.1), (16, fld w 25 24), (18, if sb then 0 else n.1 - fld w 13 8), (21, if sb then 1 else 0), (24, serial), (96, 1)]
  | none => payload 0x10 [(8, s.lanes[n].offer), (10, n.1), (24, serial), (96, 1)]

/-- Lock and LOCKED seen: Exchange (R182). -/
def tryExchange (n : Fin 64) (s : State) : State :=
  let l := s.lanes[n]
  if l.tstate = .lock ∧ l.locked ∧ l.lockedSeen then moveLane n .exchange s else s

/-- Both CAPS acknowledged: Active (R182). -/
def tryActive (n : Fin 64) (s : State) : State :=
  let l := s.lanes[n]
  if l.tstate = .exchange ∧ l.ownAcked ∧ l.partnerAcked then moveLane n .active s else s

/-- A CAPS block: stored, the version computed and acknowledged. A version that changes leaves the acknowledgement received so far without
force (R182, R186). -/
def capsReceived (n : Fin 64) (x : BitVec 256) (s : State) : State :=
  let l := s.lanes[n]
  if l.tstate ≠ .exchange ∧ l.tstate ≠ .active then s
  else
    let c := capsOf x
    let (v, cuts) := offered c
    let ver := if l.tstate = .exchange then Fin.ofNat 4 (min l.offer v) else l.ver
    let s := s.updLane n fun l => { l with caps := some c, ver := ver, ownAcked := l.ownAcked && l.ver == ver }
    let s := if l.caps ≠ some c then memberChanged n s else s
    let s := if 0 < cuts ∧ l.tstate = .exchange ∧ ¬ l.reduceLogged then
        (List.range cuts).foldl (fun s _ => fault 0x0502 0 .lane n.1 0 s) (s.updLane n fun l => { l with reduceLogged := true })
      else s
    if v = 0 then s
    else tryActive n ((sendBlock n (payload 0x11 [(8, s.lanes[n].ver.1), (10, c.partnerId)]) s).updLane n fun l => { l with partnerAcked := l.partnerAcked || l.tstate == .exchange })

/-- A CAPS_ACK that names the device and the version it computed (R185, R186). -/
def ackReceived (n : Fin 64) (x : BitVec 256) (s : State) : State :=
  let l := s.lanes[n]
  if l.tstate = .exchange ∧ l.ver ≠ 0 ∧ fld x 9 8 = l.ver.1 ∧ fld x 41 10 = Config.serial.toNat % 2 ^ 32 then
    tryActive n (s.updLane n fun l => { l with ownAcked := true })
  else s

/-! ### Formation -/

/-- Core clocks that 32 codewords last, and that a group lasts (R177, R109). -/
def skewClks : Nat := 1934
/-- Core clocks of a group of 1,024 codewords. -/
def groupClks : Nat := 61895

/-- Lane m's regular alignment codeword of the present slot is still due: the slot is not complete yet. -/
def slotDue (s : State) (m : Fin 64) : Bool :=
  let age := s.coreTime - s.lanes[m].rxAlignAt
  decide (groupClks - skewClks ≤ age) && decide (age ≤ groupClks + skewClks)

/-- The lanes' alignment codewords of equal ASEQ arrived within 32 codewords of one another (R177). -/
def aligned (s : State) (ls : List (Fin 64)) : Bool :=
  match ls with
  | [] => false
  | a :: _ => ls.all fun m => s.lanes[m].rxAseq == s.lanes[a].rxAseq && ls.all fun o => decide (s.lanes[m].rxAlignAt ≤ s.lanes[o].rxAlignAt + skewClks)

/-- The tests of R177 over the members of port p. -/
def formationOk (s : State) (p : Fin 16) : Bool :=
  let w := s.ports[p].ctl
  let ms := baseLanes w
  let cs := ms.filterMap fun m => s.lanes[m].caps
  ms.all (laneActive s) && cs.length == ms.length
    && (cs.map (·.partnerId)).eraseDups.length == 1 && (ms.map fun m => s.lanes[m].ver).eraseDups.length == 1
    && cs.all (fun c => c.width == fld w 25 24)
    && (List.range ms.length).all (fun k => cs.any fun c => c.pli == k)
    && (cs.map (·.lid)).eraseDups.length == cs.length
    && aligned s ms

/-- The member that the partner gave role k (R177). -/
def memberOf (s : State) (ms : List (Fin 64)) (k : Nat) : Option (Fin 64) :=
  ms.find? fun m => match s.lanes[m].caps with
    | some c => c.pli == k
    | none => false

/-- The standby of a running K3 port joins when it is Active, reports STANDBY and meets the tests; one that failed before waits for an
error window within limits (R177, R187, R201). DEDUCED, log entry 19. -/
def tryStandby (p : Fin 16) (trialPassed : Bool) (s : State) : State :=
  let q := s.ports[p]
  match q.standbyLane with
  | none => s
  | some b =>
    match s.lanes[b].caps with
    | none => s
    | some c =>
      let ok := q.running && q.ver == 3 && q.replay.isNone && ! q.sbReady && (trialPassed || ! q.sbTrial) && laneActive s b
        && (s.lanes[b].rxStandby || trialPassed) && ! q.roles.contains b
        && s.lanes[b].ver == q.ver && BitVec.ofNat 32 c.partnerId == q.partnerId && c.width == fld q.ctl 25 24
        && (q.roles.all fun m => match s.lanes[m].caps with
            | some d => d.lid ≠ c.lid
            | none => true)
        && (trialPassed || aligned s (b :: q.roles))
      if ok then s.updPort p fun q => { q with sbReady := true, sbTrial := false } else s

/-- CSEQ of the first slot that no lane of a list has received yet, the lanes having reached one slot (R177, R178). -/
def slotAfter (s : State) (ls : List (Fin 64)) : Nat :=
  match ls with
  | [] => 0
  | a :: r => (r.foldl (fun x n => if cseqUpTo x s.lanes[n].cseq then s.lanes[n].cseq else x) s.lanes[a].cseq + 1) % 2 ^ 42

/-- Port p forms (R177, R204). DEDUCED, log entry 20. -/
def formPort (p : Fin 16) (s : State) : State :=
  let ms := baseLanes s.ports[p].ctl
  let roles := (List.range ms.length).filterMap (memberOf s ms)
  match roles.head? with
  | none => s
  | some r0 =>
    let l := s.lanes[r0]
    let s := s.updPort p fun q =>
      { q with roles := roles, formedRoles := roles, ver := l.ver, partnerId := BitVec.ofNat 32 ((l.caps.map (·.partnerId)).getD 0)
               headPort := (l.caps.map (·.headPort)).getD 0, mismatch := false, attemptFailed := false
               curSb := if bitAt q.ctl 23 ∧ l.ver = 3 then fld q.ctl 21 16 else 0, sbReady := false, sbTrial := false
               replay := none, replayedTo := none, broken := true, nextSlot := slotAfter s roles }
    tryStandby p false (publish (0x00C0 + p.1) (setPState p .up (dropSlots p s)))

/-- A regular alignment slot of port p, complete with lane n's codeword: it forms, or the attempt fails (R177). DEDUCED, log entry 20. -/
def slotSeen (p : Fin 16) (n : Fin 64) (s : State) : State :=
  let q := s.ports[p]
  if q.running then tryStandby p false s
  else if ! (baseLanes q.ctl).contains n || q.state == .disabled || q.state == .down then s
  else if (baseLanes q.ctl).any fun m => laneActive s m && slotDue s m then s
  else if formationOk s p then formPort p s
  else
    let s := s.updPort p fun q => { q with mismatch := true }
    if q.attemptFailed then s else publish (0x00E0 + p.1) (s.updPort p fun q => { q with attemptFailed := true })

/-! ### Codewords -/

/-- The stream of a K1 or K2 port breaks at a slot whose codeword on lane n was uncorrectable: the open frame and all stream blocks up to
the next start-of-frame block are discarded (R203). -/
def streamBreaks (p : Fin 16) (n : Fin 64) (s : State) : State :=
  let s := match headOf s p with
    | some h => (linkLoses h s).2
    | none => s
  giveWay 0x0103 rung5 .port p.1 n.1 (s.updPort p fun q => { q with broken := true, discards := satInc q.discards, giveways := satInc q.giveways })

/-- An uncorrectable data codeword on an Active lane of a K3 port: an in-place replay, which after more than 16 on one lane within 1 s is
followed by a retrain, and on the standby a retrain (R198, R199, R206). -/
def badCodeword (n : Fin 64) (s : State) : State :=
  match portOfLane s n with
  | none => s
  | some p =>
    let q := s.ports[p]
    if ! q.running || s.lanes[n].tstate ≠ .active then s
    else if q.roles.contains n then
      if q.ver ≠ 3 then s
      else match q.replay with
        | some r => if r.failed = some n ∧ r.move then s else startReplay p r.move r.role r.newLid r.failed s
        | none =>
          let recent := (s.coreTime :: s.lanes[n].replayTimes.filter fun t => decide (s.coreTime < t + clkS)).take 17
          let s := startReplay p false 0 0 none (s.updLane n fun l => { l with replayTimes := recent })
          if 16 < recent.length then failThenRetrain p n s else s
    else if q.standbyLane = some n ∧ q.ver = 3 then standbyErrs p n s
    else s

/-- The levels of an alignment codeword on lane n (R173, R175, R177, R189). -/
def hearAlignment (n : Fin 64) (levels : List Level) (exit : Bool) (s : State) : State :=
  let t := s.lanes[n].tstate
  if ! runs s n || ! s.lanes[n].symLock || ! (t == .lock || t == .exchange || t == .active) then s
  else
    let (l, e) := s.lanes[n].alignment levels exit s.coreTime
    let s := adaptLane n (s.updLane n fun _ => l)
    if e = .lost then lockLost n s
    else
      let s := tryExchange n s
      if l.rxPos ≠ 0 then s
      else match portOfLane s n with
        | some p => slotSeen p n s
        | none => s

/-- The levels of a training frame on lane n (R181). -/
def hearTraining (n : Fin 64) (levels : List Level) (spaced : Bool) (wish : Nat) (s : State) : State :=
  if runs s n && s.lanes[n].symLock && s.lanes[n].tstate == .pattern && ! s.lanes[n].unframed then
    let (free, s) := s.drawNat
    adaptLane n (s.updLane n fun l => l.trainingFrame levels spaced wish free)
  else s

/-- Received line levels sent back on KTX before decoding, p(n-1) and the lane's own pattern left out of it (R132, R150). -/
def relay (n : Fin 64) (levels : List Level) (s : State) : State :=
  if fld s.lanes[n].ctl 30 29 = 2 then s.send (.symbols n (invertLevels s.lanes[n].txInv (s.lanes[n].sliced levels))) else s

/-! ### Windows -/

/-- A window ends on lane n and is judged; the sheepdog acts on what it shows (R145, R146, R201, R206). DEDUCED, log entry 16. -/
def windowEnds (n : Fin 64) (s : State) : State :=
  let l := s.lanes[n]
  if ! runs s n || ! l.locked || l.unframed then s
  else
    let crosses := decide (l.ferNow.toNat < l.winCorr) || decide (1 ≤ l.winUncorr)
    let exit := l.exitCheck
    let s := s.updLane n fun l =>
      { l with winCorr := 0, winUncorr := 0, ferNow := l.ferLimit, exitCheck := false, exitErr := l.exitErr || (crosses && exit), errLimit := l.errLimit || crosses
               crossed := if crosses && ! exit then l.crossed + 1 else 0 }
    let s := if crosses then publish (0x0040 + n.1) s else s
    if l.tstate ≠ .active then s
    else
      match portOfLane s n with
      | none => if 3 ≤ s.lanes[n].crossed then orderRetrain n s else s
      | some p =>
        let q := s.ports[p]
        if ! crosses then (if q.sbTrial && q.standbyLane == some n then tryStandby p true s else s)
        else if ! q.running then (if 3 ≤ s.lanes[n].crossed then orderRetrain n s else s)
        else if q.roles.contains n then
          if exit then
            if q.ver ≠ 3 then orderRetrain n s
            else if q.sbReady then failThenRetrain p n s
            else s
          else if 3 ≤ s.lanes[n].crossed then failThenRetrain p n s
          else s
        else if q.standbyLane = some n then standbyErrs p n s
        else s

/-! ### Training -/

/-- A training-state timeout (R182, R183, R184). -/
def timeoutSeen (n : Fin 64) (s : State) : State :=
  let l := s.lanes[n]
  let runs := match l.tstate with
    | .detect => ! l.sigdet && ! l.backoff
    | .pattern | .lock | .exchange => true
    | _ => false
  if ! runs || inReset (.lane n) s then s
  else
    let s := s.updLane n fun k => { k with lastTmo := l.tstate, timeouts := k.timeouts + 1, backoff := true }
    let s := match portOfLane s n with
      | some p => if bitAt s.ports[p].ctl 29 then fault 0x0503 0 .lane n.1 0 s else s
      | none => s
    moveLane n .detect s

/-! ### Replay answers -/

/-- A REPLAY_START (R199, R201). -/
def replayStarts (n : Fin 64) (x : BitVec 256) (s : State) : State :=
  match portOfLane s n with
  | none => s
  | some p =>
    let q := s.ports[p]
    match q.replay with
    | none => s
    | some r =>
      if ! q.running || fld x 15 8 ≠ r.rseq.toNat || s.lanes[n].tstate ≠ .active then s
      else if bitAt x 65 then portDown p (r.failed.getD n) s
      else
        let here := portSlot s p
        let z := ((here : Int) + toSigned 24 (fld x 63 40 + 2 ^ 24 - here % 2 ^ 24)).toNat % 2 ^ 42
        let till := (z + (fld x 63 40 + 2 ^ 24 - r.x) % 2 ^ 24) % 2 ^ 42
        let s := (dropSlots p s).updPort p fun q =>
          { q with replay := none, replays := satInc q.replays, replayedTo := some till, nextSlot := (z + 1) % 2 ^ 42 }
        let s := match r.move, r.failed with
          | true, some f =>
            let s := s.updPort p fun q => { q with roles := q.roles.set r.role (Fin.ofNat 64 q.curSb), curSb := f.1, failovers := satInc q.failovers, sbReady := false, sbTrial := true }
            orderRetrain f (setPState p .up (publish (0x0110 + p.1) s))
          | _, _ => setPState p .up s
        payOwed p s

/-- A LANE_FAULT (R198). -/
def laneFault (n : Fin 64) (x : BitVec 256) (s : State) : State :=
  match portOfLane s n with
  | none => s
  | some p =>
    let q := s.ports[p]
    if ! q.running || q.ver ≠ 3 || s.lanes[n].tstate ≠ .active then s
    else if bitAt x 11 then (match q.standbyLane with
      | some b => standbyFails p b s
      | none => s)
    else match q.roles[fld x 10 8]? with
      | some m => memberLost m s
      | none => s

/-! ### Timers of a port -/

/-- UP_TIME expires (R184). DEDUCED, log entry 22. -/
def upTimeExpires (p : Fin 16) (s : State) : State :=
  let q := s.ports[p]
  if ! (bitAt q.ctl 31 && bitAt q.ctl 30 && q.upTimer && q.state != .up) then s
  else
    let s := publish (0x00F0 + p.1) (s.updPort p fun q => { q with notUp := true, upTimer := false })
    if bitAt q.ctl 29 then fault 0x0503 0 .port p.1 0 s else s

/-- The upstream direction stays idle longer than EIDLE_MAX: published once in one idle (R190). -/
def idleMaxExpires (p : Fin 16) (s : State) : State :=
  let q := s.ports[p]
  if ! q.usEidle || q.eidleMax == 0 || q.idleTold then s
  else
    let s := publish (0x0100 + p.1) (s.updPort p fun q => { q with longEidle := true, idleTold := true })
    if bitAt q.ctl 29 then fault 0x0503 0 .port p.1 0 s else s

/-- 4,096 idle codewords with DS_IDLE = 1: EIDLE_ENTER is sent, and after 16 further data codewords the lanes enter idle (R188, R191). -/
def downIdles (p : Fin 16) (s : State) : State :=
  let q := s.ports[p]
  if ! (bitAt q.ctl 31 && bitAt q.ctl 28 && q.running && ! q.dsEidle && q.dsLead.isNone) then s
  else (s.each (activeLanes s p) fun n s => sendBlock n (payload 0x12 [(8, 16)]) s).updPort p fun q => { q with dsLead := some 17 }

/-! ### Alignment codewords sent -/

/-- PLI and STANDBY that lane n's field block shows: its role, and from step 3 of a failover on the role that moves to the standby (R173,
R201). -/
def shownRole (s : State) (n : Fin 64) : Nat × Bool :=
  match portOfLane s n with
  | some p =>
    let q := s.ports[p]
    let sb := q.standbyLane == some n
    match q.replay with
    | some r => if r.move && sb then (r.role, false) else (if q.members.contains n then q.members.idxOf n else 0, sb)
    | none => if q.members.contains n then (q.members.idxOf n, false) else (0, sb)
  | none => (0, false)

/-- The 80-bit field block that lane n sends at a position of the group (R173). -/
def fieldBlock (s : State) (n : Fin 64) (pos : Nat) : Nat :=
  let l := s.lanes[n]
  let (pli, sb) := shownRole s n
  let aseq := s.quads[(Fin.ofNat 4 (n.1 / 16))].aseq.toNat
  let f := aseq + pos <<< 32 + n.1 <<< 42 + (pli % 8) <<< 48 + (if sb then 1 <<< 51 else 0) + (if l.locked then 1 <<< 52 else 0) + l.ver.1 <<< 53
  f + crc16 64 f <<< 64

/-! ### Objects -/

/-- The port objects (R210). -/
inductive PortReg where
  | portctl | portstat | upTime | eidleMax | rolemap | partnerId | replays | failovers | discards | giveways | trigSent | trigLost | pauses
deriving DecidableEq, Repr

/-- The port objects by sub (R210). -/
def PortReg.table : List (Nat × PortReg) :=
  [(0x01, .portctl), (0x02, .portstat), (0x03, .upTime), (0x04, .eidleMax), (0x05, .rolemap), (0x06, .partnerId), (0x07, .replays),
   (0x08, .failovers), (0x09, .discards), (0x0A, .giveways), (0x0B, .trigSent), (0x0C, .trigLost), (0x0D, .pauses)]

/-- What the table says of a port object (R210). -/
def PortReg.desc : PortReg → Desc
  | .portctl => .rw .bits32 1 | .portstat => .status | .upTime => (Desc.rwp .u32 1 4).within 1 600000 | .eidleMax => .rwp .u32 1
  | .rolemap => .ro .u48 | .partnerId => .ro .u32 | .replays => .ro .u32 | .failovers => .ro .u32 | .discards => .ro .u32 | .giveways => .ro .u32
  | .trigSent => .ro .u48 | .trigLost => .ro .u32 | .pauses => .ro .u32

/-- PORTSTAT (R213). -/
def Port.stat (q : Port) : Word :=
  place 32 29 q.state.code ||| place 32 27 q.ver.1 ||| flagBit 26 q.sbReady ||| flagBit 25 q.mismatch ||| flagBit 24 q.notUp ||| flagBit 23 q.longEidle
  ||| flagBit 22 q.usEidle ||| flagBit 21 q.dsEidle ||| flagBit 20 q.paused ||| place 32 14 q.curSb

/-- ROLEMAP (R210). -/
def rolemapOf : List (Fin 64) → Nat
  | [] => 0
  | n :: r => n.1 + 64 * rolemapOf r

/-- What a port object reads. -/
def PortReg.read (q : Port) : PortReg → Val
  | .portctl => bv q.ctl | .portstat => bv q.stat | .upTime => bv q.upTime | .eidleMax => bv q.eidleMax | .rolemap => .num (rolemapOf q.roles)
  | .partnerId => bv q.partnerId | .replays => bv q.replays | .failovers => bv q.failovers | .discards => bv q.discards | .giveways => bv q.giveways
  | .trigSent => bv q.trigSent | .trigLost => bv q.trigLost | .pauses => bv q.pauses

/-- The fields of PORTCTL (R211). -/
def portctlMask : Word := maskOf 31 23 ||| maskOf 21 16 ||| maskOf 13 8

/-- The fields that a write may change while EN reads 1 (R212). -/
def portctlFree : Word := maskOf 31 28

/-- The head of a port is bound with a take open (R191, R212). -/
def headTakes (s : State) (p : Fin 16) : Bool :=
  match headOf s p with
  | some h => (boundPipe s (headSrc h)).isSome && takeOpen s (headSrc h)
  | none => false

/-- The checks of a PORTCTL write, in their order (R212). -/
def PortReg.check (s : State) (p : Fin 16) (r : PortReg) (v : Val) : Status :=
  let q := s.ports[p]
  let w := v.word &&& portctlMask
  match r with
  | .portctl =>
    let ms := baseLanes w
    let sb := Fin.ofNat 64 (fld w 21 16)
    let others := (List.finRange 16).filter fun o => o ≠ p && bitAt s.ports[o].ctl 31
    let ls := ctlLanes w
    firstRefusal
      [(bitAt q.ctl 31 && (w &&& ~~~ portctlFree) != (q.ctl &&& ~~~ portctlFree), .state),
       (decide (fld w 27 26 = 0) || decide (fld w 13 8 % portWidth w ≠ 0) || (bitAt w 23 && (decide (sb.1 / 16 ≠ fld w 13 8 / 16) || ms.contains sb)), .range),
       (others.any (fun o => ls.any fun n => (ctlLanes s.ports[o].ctl).contains n), .busy),
       (bitAt w 31 && ls.any (fun n => decide (fld s.lanes[n].ctl 30 29 ≠ 0) || decide (fld s.lanes[n].ctl 26 21 ≠ 0)), .state),
       (bitAt w 28 && headTakes s p, .state)]
  | _ => .ok

/-- EN written 1: a formation attempt begins (R177, R184). -/
def enablePort (p : Fin 16) (s : State) : State :=
  newAttempt p (setPState p .forming (s.updPort p fun q =>
    { q with upTimer := true, mismatch := false, curSb := if bitAt q.ctl 23 then fld q.ctl 21 16 else 0, sbReady := false, sbTrial := false, roles := []
             formedRoles := [], ver := 0, replay := none, broken := true, attemptFailed := false, owed := [], dsLead := none, idleTold := false }))

/-- EN written 0: the port is released, and its head discards the open frame (R205). -/
def releasePort (p : Fin 16) (s : State) : State :=
  let s := wakeDown p s
  let (lost, s) := match headOf s p with
    | some h => linkLoses h s
    | none => (false, s)
  setPState p .disabled ((dropSlots p s).updPort p fun q =>
    { q with discards := if lost then satInc q.discards else q.discards, sbReady := false, mismatch := false, usEidle := false, paused := false, curSb := 0, roles := []
             formedRoles := [], ver := 0, replay := none, upTimer := false, attemptFailed := false, sbTrial := false, broken := true, replayedTo := none, owed := []
             dsLead := none, idleTold := false })

/-- What an accepted write of a port object does (R210 to R213). -/
def PortReg.write (p : Fin 16) (r : PortReg) (v : Val) (s : State) : State :=
  let w := v.word
  match r with
  | .portctl =>
    let was := bitAt s.ports[p].ctl 31
    let on := bitAt w 31
    -- a release acts on the lanes the port held
    let s := if was && ! on then releasePort p s else if was && ! bitAt w 28 then wakeDown p s else s
    let s := s.updPort p fun q => { q with ctl := w &&& portctlMask }
    if on && ! was then enablePort p s else s
  | .portstat => s.updPort p fun q => { q with notUp := keepSticky q.notUp (bitAt w 24), longEidle := keepSticky q.longEidle (bitAt w 23) }
  | .upTime => s.updPort p fun q => { q with upTime := w }
  | .eidleMax => s.updPort p fun q => { q with eidleMax := w }
  | _ => s

/-! ### Lane objects with their port -/

/-- Lane n is a member or standby of an enabled port (R151, R208). -/
def inPort (s : State) (n : Fin 64) : Bool := (portOfLane s n).isSome

/-- Lane n is the standby of its port now (R208). -/
def isStandby (s : State) (n : Fin 64) : Bool :=
  match portOfLane s n with
  | some p => s.ports[p].standbyLane == some n && ! s.ports[p].members.contains n
  | none => false

/-- The receiver's input changes between KRX and the lane's own transmitter: what it had is lost, and the looped signal is there (R150). DEDUCED, log entry 128. -/
def switchInput (n : Fin 64) (s : State) : State :=
  if ! runs s n then s
  else
    let s := lossDeclared n s
    if fld s.lanes[n].ctl 30 29 = 1 then s.updLane n fun l => { l with sigdet := true, los := false, cdrLock := true, symLock := true } else s

/-- What an accepted write of a lane object does, the effects of EN and LOOP on the training state and the free values of an eye point
included (R150, R155, R163, R183). -/
def writeLane (n : Fin 64) (r : LaneReg) (v : Val) (s : State) : State :=
  let was := s.lanes[n].ctl
  let s := s.updLane n fun l => LaneReg.write l r v
  match r with
  | .lanectl =>
    let on := bitAt v.word 31
    let s := if (fld was 30 29 == 1) != (fld v.word 30 29 == 1) && bitAt was 31 && on then switchInput n s else s
    if bitAt was 31 && ! on then moveLane n .disabled s
    else if on && ! bitAt was 31 then
      let s := moveLane n .detect (s.updLane n fun l => Lane.loadPreset { l with timeouts := 0, backoff := false })
      if fld v.word 30 29 = 1 then switchInput n s else s
    else s
  | .eyectl =>
    if bitAt v.word 31 then { s.updLane n (fun l => { l with eye := { l.eye with key := s.draw } }) with draw := s.draw + 2 } else s
  | _ => s

/-! ### Commands -/

/-- LOSS_OF_SIGNAL (R141). -/
def execLossOfSignal (n : Fin 64) (s : State) : Host.Outcome State Fault Refusal := .next (settlePause (inputFalls n s))

/-- SIGNAL_DETECT (R141, R144). DESIGN CHOICE, log entry 17. -/
def execSignalDetect (n : Fin 64) (s : State) : Host.Outcome State Fault Refusal := .next (inputRises n s)

/-- EXIT_LOCK_FAIL (R144). DESIGN CHOICE, log entry 17. -/
def execExitLockFail (n : Fin 64) (s : State) : Host.Outcome State Fault Refusal := .next (settlePause (exitFails n s))

/-- ERROR_WINDOW (R146). DEDUCED, log entry 16. -/
def execErrorWindow (n : Fin 64) (s : State) : Host.Outcome State Fault Refusal := .next (settlePause (windowEnds n s))

/-- EYE_DONE (R155): the sender says how many of the symbols differed. -/
def execEyeDone (n : Fin 64) (errors : Nat) (s : State) : Host.Outcome State Fault Refusal :=
  .next (if s.lanes[n].eye.running then
    s.updLane n fun l =>
      let symbols := 2 ^ fld l.eye.now 26 21
      { l with eye := { l.eye with running := false, done := true, cnt := BitVec.ofNat 48 symbols, err := BitVec.ofNat 48 (min errors symbols) } }
  else s)

/-- The levels of 1,360 symbols, and whether they are as many (R168, R171, R179). DESIGN CHOICE, log entry 15. -/
def wholeCodeword (levels : List Level) : Bool := levels.length == 1360

/-- ALIGNMENT_CODEWORD (R175). DESIGN CHOICE, log entry 15. -/
def execAlignmentCodeword (n : Fin 64) (levels : List Level) (exit : Bool) (s : State) : Host.Outcome State Fault Refusal :=
  if wholeCodeword levels then
    .next (if listening s n then settlePause (hearAlignment n levels exit (relay n levels s)) else s)
  else .fault .illFormed

/-- TRAINING_FRAME (R181). DESIGN CHOICE, log entry 15. -/
def execTrainingFrame (n : Fin 64) (levels : List Level) (spaced : Bool) (wish : Nat) (s : State) : Host.Outcome State Fault Refusal :=
  if wholeCodeword levels then
    .next (if listening s n then hearTraining n levels spaced wish (relay n levels s) else s)
  else .fault .illFormed

/-- SIGNAL_DETECT_HELD (R182). DESIGN CHOICE, log entry 6. -/
def execSignalDetectHeld (n : Fin 64) (s : State) : Host.Outcome State Fault Refusal :=
  .next (if runs s n && s.lanes[n].tstate == .detect && s.lanes[n].sigdet && ! s.lanes[n].backoff then moveLane n .pattern s else s)

/-- COUNTDOWN_END (R182). DESIGN CHOICE, log entry 6. -/
def execCountdownEnd (n : Fin 64) (s : State) : Host.Outcome State Fault Refusal :=
  .next (if s.lanes[n].tstate == .pattern && s.lanes[n].countdown.isSome then moveLane n .lock s else s)

/-- TRAINING_TIMEOUT (R182). DESIGN CHOICE, log entry 6. -/
def execTrainingTimeout (n : Fin 64) (s : State) : Host.Outcome State Fault Refusal := .next (timeoutSeen n s)

/-- BACKOFF_END (R183). DESIGN CHOICE, log entry 6. -/
def execBackoffEnd (n : Fin 64) (s : State) : Host.Outcome State Fault Refusal := .next (s.updLane n fun l => { l with backoff := false })

/-- CAPS (R186). DESIGN CHOICE, log entry 14. -/
def execCaps (n : Fin 64) (x : BitVec 256) (s : State) : Host.Outcome State Fault Refusal := .next (capsReceived n x s)

/-- CAPS_ACK (R186). -/
def execCapsAck (n : Fin 64) (x : BitVec 256) (s : State) : Host.Outcome State Fault Refusal := .next (ackReceived n x s)

/-- EIDLE_ENTER (R188). -/
def execEidleEnter (n : Fin 64) (x : BitVec 256) (s : State) : Host.Outcome State Fault Refusal := .next (idleAnnounced n x s)

/-- RETRAIN (R182, R206). DEDUCED, log entry 18. -/
def execRetrain (n : Fin 64) (s : State) : Host.Outcome State Fault Refusal :=
  .next (if s.lanes[n].tstate == .active then settlePause (moveLane n .pattern s) else s)

/-- LANE_FAULT (R198). -/
def execLaneFault (n : Fin 64) (x : BitVec 256) (s : State) : Host.Outcome State Fault Refusal := .next (settlePause (laneFault n x s))

/-- REPLAY_START (R199). -/
def execReplayStart (n : Fin 64) (x : BitVec 256) (s : State) : Host.Outcome State Fault Refusal := .next (settlePause (replayStarts n x s))

/-- REPLAY_REQ_RESEND (R201 step 5). DEDUCED, log entry 7. -/
def execReplayReqResend (p : Fin 16) (s : State) : Host.Outcome State Fault Refusal :=
  .next (match s.ports[p].replay with
    | some r => if r.repeats < 3 then sendPort p (replayReq r) (s.updPort p fun q => { q with replay := some { r with repeats := r.repeats + 1 } }) else s
    | none => s)

/-- REPLAY_TIMEOUT (R201 step 6). DESIGN CHOICE, log entry 6. -/
def execReplayTimeout (p : Fin 16) (s : State) : Host.Outcome State Fault Refusal :=
  .next (match s.ports[p].replay with
    | some r => settlePause (portDown p (r.failed.getD (s.ports[p].roles.headD 0)) s)
    | none => s)

/-- UP_TIME_EXPIRY (R184). DESIGN CHOICE, log entry 6. -/
def execUpTimeExpiry (p : Fin 16) (s : State) : Host.Outcome State Fault Refusal := .next (upTimeExpires p s)

/-- EIDLE_MAX_EXPIRY (R190). DESIGN CHOICE, log entry 6. -/
def execEidleMaxExpiry (p : Fin 16) (s : State) : Host.Outcome State Fault Refusal := .next (idleMaxExpires p s)

/-- DS_IDLE_ENTRY (R191). -/
def execDsIdleEntry (p : Fin 16) (s : State) : Host.Outcome State Fault Refusal := .next (downIdles p s)

/-- PRBS_CHECKER_LOCK (R148, R149): a framed pattern's checker needs codeword lock. The row stands for 256 bits without error that no
CODEWORD_RECEIVED brings. DESIGN CHOICE, log entry 117. -/
def execPrbsCheckerLock (n : Fin 64) (s : State) : Host.Outcome State Fault Refusal :=
  let l := s.lanes[n]
  .next (if fld l.ctl 23 21 ≠ 0 ∧ l.symLock ∧ (l.unframed ∨ l.locked) ∧ ¬ l.chk.locked then
    s.updLane n fun l => { l with chk := { l.chk with locked := true, since := 0, errAt := [] } }
  else s)

/-- PRBS_CHECKER_LOSS (R148): the 1,024 bits that lost it are discarded from both counts. DESIGN CHOICE, log entry 117. -/
def execPrbsCheckerLoss (n : Fin 64) (s : State) : Host.Outcome State Fault Refusal :=
  .next (if s.lanes[n].chk.locked then
    s.updLane n fun l =>
      let (c, k) := l.chk.lose l.cnt
      { l with chk := c, cnt := if l.hold then l.cnt else k }
  else s)

end Sys2Proof.Machine
end

