-- ==== Sys2Proof/Machine/FrameCmds.lean ====
section
/-! DEFINITION. The commands of frames and samples: blocks of the port stream, the parallel camera ports, streamed maps, stage 8,
the producers and the cell pool (chapters 07 to 10, 14). -/

namespace Sys2Proof.Machine

open Sys2Proof

/-! ### The port stream -/

/-- A stream block reaches its head: the port runs and does not discard for a replay, its head is Ready (R199, R202, R203, R214). -/
def streamHead (s : State) (p : Fin 16) : Option (Fin 16) :=
  let q := s.ports[p]
  if ! q.running || q.replay.isSome || q.broken || inReset (.port p) s then none
  else (headOf s p).filter fun h => s.heads[h].state == .ready && ! inReset (.head h) s

/-- A start-of-frame block: it ends a discard of the port's stream; on a port of no enabled head it is counted (R202, R203, R215). -/
def startSeen (p : Fin 16) (x : BitVec 256) (s : State) : State :=
  let q := s.ports[p]
  if ! q.running || q.replay.isSome || inReset (.port p) s then s
  else
    let s := s.updPort p fun q => { q with broken := false }
    if (headOf s p).isNone then s.updPort p fun q => { q with discards := satInc q.discards }
    else match streamHead s p with
      | some h => startBlock h p (startOf x) s
      | none => s

/-- START_OF_FRAME (R220). -/
def execStartOfFrame (p : Fin 16) (x : BitVec 256) (s : State) : Host.Outcome State Fault Refusal := .next (settlePause (startSeen p x s))

/-- A data block of the port stream (R216). -/
def dataSeen (p : Fin 16) (x : BitVec 256) (s : State) : State :=
  match streamHead s p with
  | some h => dataBlock h p x s
  | none => s

/-- DATA_BLOCK (R216). DESIGN CHOICE, log entry 14. -/
def execDataBlock (p : Fin 16) (x : BitVec 256) (s : State) : Host.Outcome State Fault Refusal := .next (settlePause (dataSeen p x s))

/-- An end-of-frame block (R220). -/
def endSeen (p : Fin 16) (x : BitVec 256) (s : State) : State :=
  match streamHead s p with
  | some h => endBlock h p (endOf x) s
  | none => s

/-- END_OF_FRAME (R220). -/
def execEndOfFrame (p : Fin 16) (x : BitVec 256) (s : State) : Host.Outcome State Fault Refusal := .next (settlePause (endSeen p x s))

/-- A head message: the whole payload is kept (R218, R232). -/
def messageSeen (p : Fin 16) (x : BitVec 256) (s : State) : State :=
  match streamHead s p with
  | some h => publish (0x0200 + h.1) (s.updSrc (headSrc h) fun k => { k with headMsg := leBytes 32 x.toNat })
  | none => s

/-- HEAD_MESSAGE (R218). -/
def execHeadMessage (p : Fin 16) (x : BitVec 256) (s : State) : Host.Outcome State Fault Refusal := .next (messageSeen p x s)

/-- A COMMAND_REPLY, a link block of the port that carried the command (R223). DEDUCED, log entry 30. -/
def replySeen (p : Fin 16) (x : BitVec 256) (s : State) : State :=
  match headOf s p with
  | some h => if s.ports[p].running && ! inReset (.head h) s then commandReplied h x s else s
  | none => s

/-- COMMAND_REPLY (R223). DEDUCED, log entry 30. -/
def execCommandReply (p : Fin 16) (x : BitVec 256) (s : State) : Host.Outcome State Fault Refusal := .next (replySeen p x s)

/-- FRAME_TIMEOUT (R220): the open frame is not complete within FRAME_TMO. -/
def frameTimeout (i : Fin 18) (s : State) : State :=
  match finOf 16 i.1 with
  | some h =>
    let k := s.heads[h]
    if k.openAt.isNone then s else if k.ignoring then clearFrame h s else discardFrame i s
  | none =>
    let k := s.pcams[(Fin.ofNat 2 (i.1 - 16))]
    if k.opened && ! k.ignoring then discardFrame i s else s

/-- FRAME_TIMEOUT (R220). DESIGN CHOICE, log entry 6. DEDUCED, log entry 29. -/
def execFrameTimeout (i : Fin 18) (s : State) : Host.Outcome State Fault Refusal := .next (settlePause (frameTimeout i s))

/-- CMD_TIMEOUT (R223). -/
def execCmdTimeout (i : Fin 18) (s : State) : Host.Outcome State Fault Refusal :=
  .next (if s.srcs[i].cmdWait.isSome then s.updSrc i fun k => { k with cmdWait := none, cmdRes := 2 } else s)

/-! ### Parallel camera ports -/

/-- PCAM_FRAME_START (R229). -/
def execPcamFrameStart (n : Fin 2) (s : State) : Host.Outcome State Fault Refusal := .next (if inReset (.pcam n) s then s else pcamStart n s)

/-- PCAM_SAMPLE (R229, R230). -/
def execPcamSample (n : Fin 2) (lsync dval : Bool) (data : Nat) (s : State) : Host.Outcome State Fault Refusal :=
  .next (if inReset (.pcam n) s then s else pcamEdge n lsync dval data s)

/-- PCAM_FRAME_END (R229). -/
def execPcamFrameEnd (n : Fin 2) (s : State) : Host.Outcome State Fault Refusal := .next (if inReset (.pcam n) s then s else pcamEnd n s)

/-- PCLK_LOST (R231). -/
def execPclkLost (n : Fin 2) (s : State) : Host.Outcome State Fault Refusal := .next (if inReset (.pcam n) s then s else pcamLost n s)

/-! ### Pipelines -/

/-- REORDER_READBACK (R242): the bottom half has been read back. -/
def execReorderReadback (p : Fin 16) (s : State) : Host.Outcome State Fault Refusal :=
  .next (settlePause (s.updPipe p fun k => { k with readback := false }))

/-- A streamed word is treated as uncorrectable (R261). DEDUCED, log entry 38. -/
def streamBad (p : Fin 16) (r : Fin 5) (w : Nat) (s : State) : State :=
  let s := s.updPipe p fun k => { k with streamLate := true, eccUncorr := satInc k.eccUncorr }
  if s.pipes[p].eccLogged then s
  else fault 0x0203 1 .pipe p.1 (descOfs s.pipes[p].descActive[r] + w * 8 / 4096) (s.updPipe p fun k => { k with eccLogged := true })

/-- A streamed word's return: good, bad or too late (R261, R265). -/
def streamReturn (p : Fin 16) (r : Fin 5) (w : Nat) (bad : Bool) (s : State) : State :=
  if inReset (.pipe p) s || ! streams s p r then s
  else
    let s := fillStream p r w bad s
    settlePause (if bad then streamBad p r w s else s)

/-- STREAM_FILL (R265); a word that comes uncorrectable is counted by its DDR5 channel (R525). -/
def execStreamFill (p : Fin 16) (region : Fin 5) (word : Nat) (bad : Bool) (s : State) : Host.Outcome State Fault Refusal :=
  .next (streamReturn p region word bad
    (if bad && streams s p region && ! inReset (.pipe p) s then countDdr true (cellPartition s + 4096 * descOfs s.pipes[p].descActive[region] + 8 * word) s else s))

/-- STREAM_WORD_TIMEOUT (R261). DEDUCED, log entry 38. -/
def execStreamWordTimeout (p : Fin 16) (region : Fin 5) (word : Nat) (s : State) : Host.Outcome State Fault Refusal :=
  .next (streamReturn p region word true s)

/-- EVENT_ROW_OFFER (R317). -/
def execEventRowOffer (p : Fin 16) (s : State) : Host.Outcome State Fault Refusal :=
  .next (if inReset (.pipe p) s then s else settlePause (eventRow p s))

/-- STAGE8_FRAME_END (R280). DEDUCED, log entry 31. -/
def execStage8FrameEnd (p : Fin 16) (s : State) : Host.Outcome State Fault Refusal :=
  .next (if inReset (.pipe p) s then s else settlePause (frameEnd p s))

/-- BATCH_TIMEOUT (R318). -/
def execBatchTimeout (p : Fin 16) (s : State) : Host.Outcome State Fault Refusal :=
  .next (if inReset (.pipe p) s then s else settlePause (batchTimeout p s))

/-- DENSE_APPLY (R328). -/
def execDenseApply (p : Fin 16) (s : State) : Host.Outcome State Fault Refusal :=
  .next (if inReset (.pipe p) s then s else settlePause (denseApply p s))

/-- IMAGE_READOUT_DONE (R329). -/
def execImageReadoutDone (p : Fin 16) (s : State) : Host.Outcome State Fault Refusal :=
  .next (if inReset (.pipe p) s then s else settlePause (readoutDone p s))

/-- STAT_RECORD_COMMIT (R292). -/
def execStatRecordCommit (p : Fin 16) (s : State) : Host.Outcome State Fault Refusal :=
  .next (if inReset (.pipe p) s || inReset .queues s then s else settlePause (commitRecord p s))

/-! ### Producers and the cell pool -/

/-- PRODUCER_WRITE (R426). -/
def execProducerWrite (r : Fin 32) (s : State) : Host.Outcome State Fault Refusal := .next (settlePause (writeOut r s))

/-- A producer that waits stops its pipeline: a source that cannot be paused overruns (R23, R433). -/
def waitOverruns (s : State) : State :=
  s.each (List.finRange 16) fun p s =>
    if s.qm.producers[(dataProducer p)].waiting then
      match boundSource s p with
      | some i =>
        let held := match finOf 16 i.1 with
          | some h => pausable s h
          | none => false
        if receiving s i && ! held then overrun i s else s
      | none => s
    else s

/-- CREDIT_GRANT (R431): one pass of the round robin. DEDUCED, log entry 57. -/
def execCreditGrant (s : State) : Host.Outcome State Fault Refusal :=
  .next (if inReset .queues s then s else settlePause (waitOverruns (grantNext s (robinOrder s))))

/-- SET_MARK (R441). -/
def execSetMark (r : Fin 32) (s : State) : Host.Outcome State Fault Refusal := .next (if inReset .queues s then s else setMark r s)

/-- REWIND_TO_MARK (R441). -/
def execRewindToMark (r : Fin 32) (s : State) : Host.Outcome State Fault Refusal :=
  .next (if inReset .queues s then s else settlePause (rewindToMark r s))

/-- PACKET_REWIND (R442). -/
def execPacketRewind (r : Fin 32) (s : State) : Host.Outcome State Fault Refusal :=
  .next (if inReset .queues s then s
  else settlePause (if r.1 < 16 then rewindData (Fin.ofNat 16 r.1) s else rewindOpen r s))

/-- RETURN_WALK (R442): up to eight cells. -/
def execReturnWalk (s : State) : Host.Outcome State Fault Refusal := .next (settlePause (walk 8 s))

/-- PACKET_COMMIT (R440). DEDUCED, log entry 7. -/
def execPacketCommit (r : Fin 32) (s : State) : Host.Outcome State Fault Refusal :=
  .next (if inReset .queues s then s else settlePause (packetCommit r s))

/-- XOFF_MIN_END (R447): the pin's 100 ns minimum is over. -/
def execXoffMinEnd (n : Fin 16) (s : State) : Host.Outcome State Fault Refusal :=
  .next (driveXoff (s.updXoff n fun x => { x with minHold := false }))

/-- PATROL_SCRUB (R453). -/
def execPatrolScrub (flaw : CellFlaw) (s : State) : Host.Outcome State Fault Refusal :=
  .next (if inReset .queues s then s else patrol flaw s)

/-- CELL_SNAPSHOT (R450): the first read of the cell window after CELL_SEL was written. -/
def execCellSnapshot (_w : By) (s : State) : Host.Outcome State Fault Refusal := .next (if inReset .queues s then s else ensureSnap s)

end Sys2Proof.Machine
end

