-- ==== Sys2Proof/Machine/RouterOps.lean ====
section
/-! DEFINITION. The event router (chapter 13): from a channel's publishes to its tasks, the tasks' activations and refusals,
counting units, herds, and the objects of R420 to R422. -/

namespace Sys2Proof.Machine

open Sys2Proof

/-- A task's registers. -/
def taskReg (s : State) (t : Task) : TaskReg := (s.router.tasks[t.number]?).getD {}

/-- A task's registers changed by f. -/
def updTask (t : Task) (f : TaskReg → TaskReg) (s : State) : State :=
  match finOf 896 t.number with
  | some i => s.updRouter fun r => { r with tasks := modAt r.tasks i f }
  | none => s

/-- A refused activation (R408). -/
def dropTask (t : Task) (s : State) : State := updTask t (fun k => { k with tdrops := satInc k.tdrops }) s

/-- The tasks that prevail over a task in one core clock (R406, R409, R419). -/
def beatenBy : Task → List Task
  | .seqStart i => [.seqStop i]
  | .cmpArm n => [.cmpDisarm n]
  | .takeStart i => [.takeStop i]
  | .axisStart a => [.axisStop a, .axisIstop a]
  | .axisStop a => [.axisIstop a]
  | .herdEnable k => [.herdDisable k]
  | _ => []

/-- The first activation of a task, with its core time. -/
def activationOf (s : State) (t : Task) : Option Nat := (s.router.activated.find? fun e => e.1 == t).map (·.2)

/-- One activation removed. -/
def clearActivation (t : Task) (at_ : Nat) (s : State) : State := s.updRouter fun r => { r with activated := r.activated.erase (t, at_) }

/-- A task's oldest activation is performed: it acts unless a task that prevails acts in the same core clock, and one that acts
refuses those it prevails over. An action that refuses changes nothing but TDROPS (R408, R409). -/
def performTask (t : Task) (act : State → Option State) (s : State) : State :=
  match activationOf s t with
  | none => s
  | some at_ =>
    let s := clearActivation t at_ s
    if (beatenBy t).any fun b => s.router.activated.contains (b, at_) then dropTask t s
    else
      let losers := s.router.activated.filter fun e => e.2 == at_ && (beatenBy e.1).contains t
      let s := losers.foldl (fun s e => dropTask e.1 (clearActivation e.1 e.2 s)) s
      match act s with
      | some s' => s'
      | none => dropTask t s

/-! ### Counting units -/

/-- n added to counting unit k; reaching LIMIT publishes counter reached in core clock t and may reload (R411, R412). -/
def addCount (k : Fin 32) (n t : Nat) (s : State) : State :=
  let u := s.router.units[k]
  let after := satAdd u.cnt n
  let crosses := decide (u.cnt.toNat < u.limit.toNat) && decide (u.limit.toNat ≤ after.toNat)
  let s := s.updCunit k fun u => { u with cnt := if crosses && bitAt u.cfg 29 then after - u.limit else after }
  if crosses then publishAt t (0x0300 + k.1) s else s

/-- Unit k takes the publishes of step 3: its increment task is enabled on channel c with RAW = 1 (R404, R414). -/
def rawUnit (s : State) (c : Fin 128) (k : Fin 32) : Bool :=
  let t := (taskReg s (.cntInc k)).cfg
  bitAt t 31 && fld t 6 0 == c.1 && bitAt s.router.units[k].cfg 30

/-- The unit of an increment task counts at step 3, so step 6 does not activate it. -/
def isRaw (s : State) (t : Task) : Bool :=
  match t with
  | .cntInc k => bitAt s.router.units[k].cfg 30
  | _ => false

/-- Every task, in the order of its number (R419). -/
def allTasks : List Task :=
  ((List.range 0x50) ++ ((List.range 18).map (0x60 + ·)) ++ ((List.range 18).map (0x80 + ·)) ++ ((List.range 24).map (0xA0 + ·))
    ++ ((List.range 0x200).map (0x100 + ·)) ++ ((List.range 0x80).map (0x300 + ·))).filterMap Task.ofNumber

/-- The enabled tasks subscribed to channel c (R407). -/
def subscribers (s : State) (c : Fin 128) : List Task :=
  allTasks.filter fun t => bitAt (taskReg s t).cfg 31 && fld (taskReg s t).cfg 6 0 == c.1

/-- HERD_EN's bit for the herd of channel c (R406). -/
def herdOn (s : State) (c : Fin 128) : Bool := bitAt s.router.herdEn (c.1 / 8)

/-- The channel's publishes of the oldest core clock t that has any, n of them, processed; counter reached of a RAW unit belongs to the
core clock after (R404, R405, R412, R638). DEDUCED, log entry 138. -/
def routerPublish (c : Fin 128) (s : State) : State :=
  let k := s.router.chans[c]
  match k.pend with
  | [] => s
  | (t, n) :: rest =>
    let s := s.updChan c fun k => { k with pend := rest, published := satAdd k.published n, fired := true, lastTime := BitVec.ofNat 64 t }
    if ! herdOn s c then s.updChan c fun k => { k with masked := true }
    else
      let subs := subscribers s c
      let s := s.each (List.finRange 32) fun u s =>
        if rawUnit s c u then (if bitAt s.router.units[u].cfg 31 then addCount u n (t + 1) s else dropTask (.cntInc u) s) else s
      let soon := match k.lastDelivered with
        | some l => decide (t < l + fld k.cfg 15 0)
        | none => false
      if soon then s.updChan c fun k => { k with recursion := true, holdDrops := satInc k.holdDrops }
      else
        let s := s.updChan c fun k => { k with delivered := satInc k.delivered, lastDelivered := some t }
        let subs := subs.filter fun t => ! isRaw s t
        let s := s.updRouter fun r => { r with activated := r.activated ++ subs.map fun x => (x, t) }
        if 2 ≤ n then subs.foldl (fun s a => updTask a (fun x => { x with coinc := satInc x.coinc }) s) s else s

/-- The increment task's action (R411, R413): a clear task of the same core clock is applied first. -/
def counterIncrement (k : Fin 32) (s : State) : State :=
  let same := match activationOf s (.cntInc k) with
    | some t => s.router.activated.contains (.cntClear k, t)
    | none => false
  let s := if same then
      performTask (.cntClear k) (fun s => if bitAt s.router.units[k].cfg 31 then some (s.updCunit k fun u => { u with cnt := 0 }) else none) s
    else s
  performTask (.cntInc k) (fun s => if bitAt s.router.units[k].cfg 31 then some (addCount k 1 s.coreTime s) else none) s

/-- The clear task's action (R413). -/
def counterClear (k : Fin 32) (s : State) : State :=
  performTask (.cntClear k) (fun s => if bitAt s.router.units[k].cfg 31 then some (s.updCunit k fun u => { u with cnt := 0 }) else none) s

/-- The herd tasks' action (R406). -/
def herdTask (k : Fin 16) (on : Bool) (s : State) : State :=
  performTask (if on then .herdEnable k else .herdDisable k)
    (fun s => some (s.updRouter fun r => { r with herdEn := if on then r.herdEn ||| (1#16 <<< k.1) else r.herdEn &&& ~~~ (1#16 <<< k.1) })) s

/-! ### Resets -/

/-- A level-1 or level-3 reset of the router: flags, counters, counts and holdoffs end; configuration per R91 (R417). -/
def clearRouter (r : Router) : Router :=
  { r with chans := mapAll r.chans fun _ c => { ({} : Chan) with cfg := c.cfg }
           tasks := mapAll r.tasks fun _ t => { t with coinc := 0, tdrops := 0 }
           units := mapAll r.units fun _ u => { u with cnt := 0 }
           activated := [] }

/-! ### Objects -/

/-- A source code is listed in R418. -/
def srcListed (x : Nat) : Bool :=
  [(0, 1), (0x40, 64), (0x80, 64), (0xC0, 16), (0xD0, 16), (0xE0, 16), (0xF0, 16), (0x100, 16), (0x110, 16), (0x120, 18), (0x140, 18),
   (0x160, 18), (0x180, 18), (0x1A0, 18), (0x1C0, 18), (0x1E0, 18), (0x200, 18), (0x220, 16), (0x230, 16), (0x240, 16), (0x250, 16),
   (0x260, 16), (0x270, 16), (0x280, 16), (0x290, 16), (0x2A0, 16), (0x2C0, 32), (0x2E0, 8), (0x2E8, 8), (0x2F0, 8), (0x300, 32),
   (0x320, 4), (0x1000, 512), (0x1200, 512), (0x1400, 512), (0x1600, 512), (0x1800, 512), (0x1A00, 512)].any
    fun p => decide (p.1 ≤ x) && decide (x < p.1 + p.2)

/-- The router's objects (R420). -/
inductive RouterReg where
  | chcfg (c : Fin 128) | chstat (c : Fin 128) | published (c : Fin 128) | delivered (c : Fin 128) | holdDrops (c : Fin 128)
  | lastTime (c : Fin 128) | firedMap (w : Fin 4) | recursionMap (w : Fin 4) | swPublish | herdEn
  | taskcfg (t : Task) | coinc (t : Task) | tdrops (t : Task) | cntcfg (k : Fin 32) | cnt (k : Fin 32) | limit (k : Fin 32)
deriving DecidableEq, Repr

/-- The router object at index and sub (R420). -/
def RouterReg.at_ (index sub : Nat) : Option RouterReg :=
  let chan := fun (f : Fin 128 → RouterReg) => if 1 ≤ sub then (finOf 128 (sub - 1)).map f else none
  let unit := fun (f : Fin 32 → RouterReg) => if 1 ≤ sub then (finOf 32 (sub - 1)).map f else none
  let task := fun (base : Nat) (f : Task → RouterReg) => if (index - base) * 256 + sub < 896 then (Task.ofNumber ((index - base) * 256 + sub)).map f else none
  match index with
  | 0x7410 => chan .chcfg | 0x7411 => chan .chstat | 0x7412 => chan .published | 0x7413 => chan .delivered | 0x7414 => chan .holdDrops
  | 0x7415 => chan .lastTime
  | 0x7416 => if sub = 9 then some .swPublish else if 1 ≤ sub ∧ sub ≤ 4 then some (.firedMap (Fin.ofNat 4 (sub - 1)))
      else if 5 ≤ sub ∧ sub ≤ 8 then some (.recursionMap (Fin.ofNat 4 (sub - 5))) else none
  | 0x7418 => if sub = 1 then some .herdEn else none
  | 0x7430 => unit .cntcfg | 0x7431 => unit .cnt | 0x7432 => unit .limit
  | _ => if 0x7420 ≤ index ∧ index < 0x7424 then task 0x7420 .taskcfg else if 0x7424 ≤ index ∧ index < 0x7428 then task 0x7424 .coinc
      else if 0x7428 ≤ index ∧ index < 0x742C then task 0x7428 .tdrops else none

/-- What the table says of a router object (R420). -/
def RouterReg.desc : RouterReg → Desc
  | .chcfg _ => .rw .bits32 1 | .chstat _ => .status | .published _ => .ro .u48 | .delivered _ => .ro .u48 | .holdDrops _ => .ro .u32
  | .lastTime _ => .ro .u64 | .firedMap _ => .status | .recursionMap _ => .status | .swPublish => ((Desc.wo .u8 1).within 0 127).unjournaled
  | .herdEn => .rw .bits32 1 | .taskcfg _ => .rw .bits32 1 | .coinc _ => .ro .u32 | .tdrops _ => .ro .u32 | .cntcfg _ => .rw .bits32 1
  | .cnt _ => .rw .u32 1 | .limit _ => (Desc.rw .u32 1).within 1 (2 ^ 32 - 1)

/-- A bitmap over 32 channels (R415). -/
def chanMap (s : State) (w : Fin 4) (f : Chan → Bool) : Nat :=
  ((List.finRange 32).map fun (b : Fin 32) => if f (s.router.chans[(Fin.ofNat 128 (32 * w.1 + b.1))]) then 2 ^ b.1 else 0).sum

/-- What a router object reads. -/
def RouterReg.read (s : State) : RouterReg → Val
  | .chcfg c => bv s.router.chans[c].cfg
  | .chstat c => let k := s.router.chans[c]; bv (flagBit 31 k.fired ||| flagBit 30 k.recursion ||| flagBit 29 k.masked)
  | .published c => bv s.router.chans[c].published | .delivered c => bv s.router.chans[c].delivered
  | .holdDrops c => bv s.router.chans[c].holdDrops | .lastTime c => bv s.router.chans[c].lastTime
  | .firedMap w => .num (chanMap s w (·.fired)) | .recursionMap w => .num (chanMap s w (·.recursion))
  | .swPublish => .num 0 | .herdEn => bv s.router.herdEn
  | .taskcfg t => bv (taskReg s t).cfg | .coinc t => bv (taskReg s t).coinc | .tdrops t => bv (taskReg s t).tdrops
  | .cntcfg k => bv s.router.units[k].cfg | .cnt k => bv s.router.units[k].cnt | .limit k => bv s.router.units[k].limit

/-- The own checks of a router object (R418, R420, R421). -/
def RouterReg.check (r : RouterReg) (v : Val) : Status :=
  match r with
  | .chcfg _ => firstRefusal [(! srcListed (fld v.word 28 16), .range), (decide (fld v.word 15 0 = 0), .range)]
  | .herdEn => firstRefusal [(decide (65536 ≤ v.toNat), .range)]
  | _ => .ok

/-- What an accepted write of a router object does. -/
def RouterReg.write (r : RouterReg) (v : Val) (s : State) : State :=
  let w := v.word
  match r with
  | .chcfg c => s.updChan c fun k => { k with cfg := w &&& (maskOf 31 31 ||| maskOf 28 0), pend := if bitAt w 31 then k.pend else [] }
  | .chstat c => s.updChan c fun k =>
      { k with fired := keepSticky k.fired (bitAt w 31), recursion := keepSticky k.recursion (bitAt w 30), masked := keepSticky k.masked (bitAt w 29) }
  | .firedMap m => s.each (List.finRange 32) fun b s => s.updChan (Fin.ofNat 128 (32 * m.1 + b.1)) fun k => { k with fired := keepSticky k.fired (bitAt w b.1) }
  | .recursionMap m => s.each (List.finRange 32) fun b s =>
      s.updChan (Fin.ofNat 128 (32 * m.1 + b.1)) fun k => { k with recursion := keepSticky k.recursion (bitAt w b.1) }
  | .swPublish => publishOn (Fin.ofNat 128 v.toNat) s
  | .herdEn => s.updRouter fun k => { k with herdEn := BitVec.ofNat 16 v.toNat }
  | .taskcfg t => updTask t (fun k => { k with cfg := w &&& (maskOf 31 31 ||| maskOf 6 0) }) s
  | .cntcfg k => s.updCunit k fun u => { u with cfg := w &&& maskOf 31 29 }
  | .cnt k => s.updCunit k fun u => { u with cnt := w }
  | .limit k => s.updCunit k fun u => { u with limit := w }
  | _ => s

/-! ### Commands -/

/-- ROUTER_PUBLISH (R404). -/
def execRouterPublish (c : Fin 128) (s : State) : Host.Outcome State Fault Refusal :=
  .next (if inReset .router s then s else routerPublish c s)

/-- COUNTER_INCREMENT (R411). -/
def execCounterIncrement (k : Fin 32) (s : State) : Host.Outcome State Fault Refusal := .next (counterIncrement k s)

/-- COUNTER_CLEAR (R413). -/
def execCounterClear (k : Fin 32) (s : State) : Host.Outcome State Fault Refusal := .next (counterClear k s)

/-- HERD_ENABLE (R406). -/
def execHerdEnable (k : Fin 16) (s : State) : Host.Outcome State Fault Refusal := .next (herdTask k true s)

/-- HERD_DISABLE (R406). -/
def execHerdDisable (k : Fin 16) (s : State) : Host.Outcome State Fault Refusal := .next (herdTask k false s)

end Sys2Proof.Machine
end

