-- ==== Sys2Proof/Machine/Timebase.lean ====
section
/-! DEFINITION. The timebase, the cues, the trigger outputs, the history and the sync ring (chapter 12). -/

namespace Sys2Proof.Machine

open Sys2Proof

/-! ### Comparisons modulo 2^48 -/

/-- c is at or beyond t in a direction (R344). DEDUCED, log entry 42. -/
def beyond (rev : Bool) (c t : BitVec 48) : Bool := if rev then decide ((t - c).toNat < 2 ^ 47) else decide ((c - t).toNat < 2 ^ 47)

/-- The change from c to d moves in a direction and carries onto or across t; a change of 2^47 has no direction (R344, R358). DEDUCED, log entry 42. -/
def reaches (rev : Bool) (c d t : BitVec 48) : Bool :=
  let move := if rev then (c - d).toNat else (d - c).toNat
  let dist := if rev then (c - t).toNat else (t - c).toNat
  decide (0 < move) && decide (move < 2 ^ 47) && decide (1 ≤ dist) && decide (dist ≤ move)

/-! ### Trigger outputs -/

/-- The level an output drives (R60, R386). -/
def trigLevel (cfg : Word) (active : Bool) : Drive := if active != bitAt cfg 29 then .high else .low

/-- The level of TRIG_N beside TRIG_P: low in LVCMOS, the other leg of the pair in LVDS; both legs of a pair at high impedance have the
same weak pull (R40, R60). DESIGN CHOICE, log entry 115. -/
def trigLeg (lvds : Bool) : Drive → Drive
  | .low => if lvds then .high else .low
  | .high => .low
  | d => if lvds then d else .low

/-- Both balls of output n (R40). -/
def driveTrig (n : Fin 32) (lvds : Bool) (d : Drive) (s : State) : State :=
  s.updPins fun p => { p with trig := p.trig.set n.1 d n.2, trigN := p.trigN.set n.1 (trigLeg lvds d) n.2, trigLvds := p.trigLvds.set n.1 lvds n.2 }

/-- A configured output that is not pulsing takes its configuration and its inactive level (R53, R386). DESIGN CHOICE, log entry 115. -/
def restTrig (n : Fin 32) (s : State) : State :=
  let k := s.tb.trigs[n]
  if ! k.configured || k.endAt.isSome then s
  else driveTrig n (bitAt k.cfg 30) (trigLevel k.cfg false) (s.updTrig n fun k => { k with cfgNow := k.cfg })

/-- A firing on output n, of a cue or of the router: its pulse enters the delay line, or is lost. The flag says it entered (R385 to R387). -/
def firePin (n : Fin 32) (detail : Nat) (s : State) : Bool × State :=
  let k := s.tb.trigs[n]
  let t := s.coreTime + 8 + fld k.cfgNow 27 16
  if ! bitAt k.cfgNow 31 then (false, s)
  else if k.line.contains t then (true, s)
  else if 16 ≤ k.line.length then (false, giveWay 0x0105 rung3 .cue n.1 detail (s.updTrig n fun k => { k with pinLost := satInc k.pinLost }))
  else (true, s.updTrig n fun k => { k with line := k.line ++ [t] })

/-- The width of a pulse in core clocks (R386). -/
def pulseWidth (cfg : Word) : Nat := fld cfg 15 0 * (if bitAt cfg 28 then 256 else 1)

/-- The oldest pending pulse starts: a new pulse, or more of the one in progress (R387, R418). DEDUCED, log entry 39. -/
def pulseStart (n : Fin 32) (s : State) : State :=
  let k := s.tb.trigs[n]
  match k.line with
  | [] => s
  | t :: rest =>
    let till := t + pulseWidth k.cfgNow
    if k.endAt.isSome then s.updTrig n fun k => { k with line := rest, endAt := some till, merged := satInc k.merged }
    else
      let s := s.updTrig n fun k => { k with line := rest, endAt := some till, pulses := satInc k.pulses }
      publish (0x02C0 + n.1) ((driveTrig n (bitAt k.cfgNow 30) (trigLevel k.cfgNow true) s).send (.trigPulse n))

/-- The pulse of output n ends (R386). -/
def pulseEnd (n : Fin 32) (s : State) : State :=
  let k := s.tb.trigs[n]
  if k.endAt.isNone then s
  else restTrig n (driveTrig n (bitAt k.cfgNow 30) (trigLevel k.cfgNow false) (s.updTrig n fun k => { k with endAt := none }))

/-! ### Cues -/

/-- The timebase source (R370). -/
def tbSrc (s : State) : Nat := fld s.tb.ctl 31 29

/-- OFS of a sequencer's pass (R377). -/
def Seq.ofs (q : Seq) : BitVec 48 := BitVec.ofNat 48 ((q.pass - 1) * q.loopAddNow.toNat)

/-- The cue at a sequencer's cursor. -/
def cueAt (s : State) (k : BitVec 12) : Cue := s.tb.cues[(Fin.ofNat 4096 k.toNat)]

/-- The effective value of the cue at the cursor (R377). -/
def effective (s : State) (q : Seq) : BitVec 48 := BitVec.ofNat 48 (fld (cueAt s q.cursor).lo 47 0) + q.ofs

/-- A firing recorded for a source: the last cue into it, and by TID for a link cue (R388). DEDUCED, log entry 37. -/
def recordCue (i : Fin 18) (r : CueRec) (s : State) : State :=
  s.updStamp i fun k => { k with last := some r, tids := if r.tid.isSome then (r :: k.tids).take 256 else k.tids }

/-- Cue k fires with its effective value (R193, R375, R385, R388). -/
def fireCue (k : BitVec 12) (value : BitVec 48) (late : Bool) (s : State) : State :=
  let hi := (cueAt s k).hi
  let rec_ := fun (s : State) (tid : Option (BitVec 8)) (pin : Bool) (delay : Nat) =>
    ({ tid := tid, at_ := s.coreTime, value := value, ptpS := s.ptp.sec, ptpNs := s.ptp.ns, late := late, delay := delay, isPin := pin } : CueRec)
  let s :=
    if bitAt hi 63 then
      let h := Fin.ofNat 16 (fld hi 62 59)
      match sendTrigger h (fld hi 58 55) k.toNat s with
      | (some tid, s) => recordCue (headSrc h) (rec_ s (some tid) false 0) s
      | (none, s) => s
    else s
  let s := if bitAt hi 54 then publishOn (Fin.ofNat 128 (fld hi 53 47)) s else s
  s.each (List.finRange 32) fun n s =>
    if ! bitAt hi n.1 then s
    else
      let (fired, s) := firePin n k.toNat s
      if ! fired then s
      else s.each (List.finRange 18) fun i s =>
        let c := s.tb.stamps[i].ctl
        if bitAt c 31 && fld c 30 26 == n.1 then recordCue i (rec_ s none true (fld s.tb.trigs[n].cfgNow 27 16)) s else s

/-- The cursor moves past a cue: into the next pass after END, or Done after the last (R381). -/
def advanceSeq (i : Fin 16) (s : State) : State :=
  let q := s.tb.seqs[i]
  if q.cursor.toNat < fld q.range 27 16 then s.updSeq i fun q => { q with cursor := q.cursor + 1 }
  else if q.loopsNow = 0 ∨ q.pass < q.loopsNow.toNat then s.updSeq i fun q => { q with cursor := BitVec.ofNat 12 (fld q.range 11 0), pass := q.pass + 1 }
  else publish (0x02A0 + i.1) (s.updSeq i fun q => { q with state := .done, carry := none })

/-- What becomes of the cue at the cursor (R378, R379). -/
inductive CueAct where
  | pass | late | fire | behind | wait
deriving DecidableEq, Repr

/-- The cue at the cursor: reached by a change owed from an earlier clock, by the present one, behind, or still to come (R375, R378, R379). DEDUCED, log entry 39. -/
def cueAct (s : State) (q : Seq) (owed : List (BitVec 48 × BitVec 48)) (now : Option (BitVec 48 × BitVec 48)) (fresh : Bool) : CueAct :=
  let lo := (cueAt s q.cursor).lo
  let rev := bitAt lo 62
  let v := effective s q
  if ! bitAt lo 63 then .pass
  else if rev && decide (2 ≤ tbSrc s) && decide (tbSrc s ≤ 4) then .wait
  else if owed.any fun c => reaches rev c.1 c.2 v then .late
  else if (match now with
    | some c => reaches rev c.1 c.2 v
    | none => false) then .fire
  else if fresh && beyond rev s.tb.tb v then .behind
  else .wait

/-- A Running sequencer examines up to n cues from its cursor; only a cue that has just become the cursor, or that a load re-tests, can be
behind (R378 to R380). DEDUCED, log entry 39. -/
def walkSeq (i : Fin 16) (owed : List (BitVec 48 × BitVec 48)) (now : Option (BitVec 48 × BitVec 48)) : Nat → Bool → State → State
  | 0, fresh, s =>
    let q := s.tb.seqs[i]
    let more := q.state == .running && cueAct s q owed now fresh != .wait
    s.updSeq i fun q => { q with carry := if more then some (owed ++ now.toList) else none }
  | n + 1, fresh, s =>
    let q := s.tb.seqs[i]
    if q.state ≠ .running then s
    else
      let v := effective s q
      match cueAct s q owed now fresh with
      | .wait => s.updSeq i fun q => { q with carry := none }
      | .pass => walkSeq i owed now n true (advanceSeq i s)
      | .fire => walkSeq i owed now n true (advanceSeq i (fireCue q.cursor v false (s.updSeq i fun q => { q with fired := satInc q.fired })))
      | .late =>
        let s := giveWay 0x0108 rung3 .cue 0 q.cursor.toNat (s.updSeq i fun q => { q with late := true, fired := satInc q.fired })
        walkSeq i owed now n true (advanceSeq i (fireCue q.cursor v true s))
      | .behind =>
        if bitAt q.ctl 30 then walkSeq i owed now n true (advanceSeq i (s.updSeq i fun q => { q with missed := true, missedCnt := satInc q.missedCnt }))
        else walkSeq i owed now n true (advanceSeq i (fireCue q.cursor v true (s.updSeq i fun q => { q with late := true, fired := satInc q.fired })))

/-- Every Running sequencer sees a change of the timebase, or with none a load (R378, R380). -/
def runSeqs (now : Option (BitVec 48 × BitVec 48)) (s : State) : State :=
  s.each (List.finRange 16) fun i s => if s.tb.seqs[i].state = .running then walkSeq i (s.tb.seqs[i].carry.getD []) now 4 (now.isNone || s.tb.seqs[i].carry.isSome) s else s

/-! ### Changes and loads of the timebase -/

/-- The cue unit's timebase is loaded (R380). -/
def loadTb (v : BitVec 48) (s : State) : State := runSeqs none (s.updTb fun t => { t with tb := v })

/-- The cue unit's timebase changes; a change of 2^47 is a load (R344, R378). DEDUCED, log entry 42. -/
def changeTb (v : BitVec 48) (s : State) : State :=
  let old := s.tb.tb
  if v = old then s
  else if (v - old).toNat = 2 ^ 47 then loadTb v s
  else runSeqs (some (old, v)) (s.updTb fun t => { t with tb := v })

/-- The device is the master of a running Array: its cue unit follows the ring (R392). -/
def ringMaster (s : State) : Bool := bitAt s.tb.ring.ctl 31 && bitAt s.tb.ring.ctl 30

/-- The value the source has reached. -/
def sourceTb (s : State) : BitVec 48 := if ringMaster s then s.tb.srcTb else s.tb.tb

/-- The source's change goes into the ring (R392, R393). DEDUCED, log entry 43. -/
def intoRing (v : BitVec 48) (s : State) : State :=
  let d := toSigned 48 (v - s.tb.srcTb).toNat
  (s.updTb fun t => { t with srcTb := v }).updRing fun r => { r with acc := r.acc + d }

/-- The source takes a new value (R370). -/
def sourceChange (v : BitVec 48) (s : State) : State :=
  if inReset .cue s then s else if ringMaster s then intoRing v s else changeTb v s

/-- The source is loaded (R380). -/
def sourceLoad (v : BitVec 48) (s : State) : State :=
  if inReset .cue s then s else if ringMaster s then intoRing v s else loadTb v s

/-- PTP time as a timebase value (R370). -/
def ptpTb (s : State) : BitVec 48 := BitVec.ofNat 48 (s.ptp.sec * 1000000000 + s.ptp.ns)

/-- The encoder channel that TBCTL names (R371). -/
def tbChan (s : State) : Fin 16 := Fin.ofNat 16 (fld s.tb.ctl 27 24)

/-! ### Line clock and mains -/

/-- A rising edge of the line clock (R370). DESIGN CHOICE, log entry 46. -/
def lineEdge (line : Fin 16) (s : State) : State :=
  if tbSrc s = 2 ∧ tbChan s = line then sourceChange (sourceTb s + 1) s else s

/-- The next multiple of 4,096 above a value. -/
def nextCycle (v : BitVec 48) : BitVec 48 := BitVec.ofNat 48 ((v.toNat / 4096 + 1) * 4096)

/-- A quotient whose rounding the manual leaves open: a free choice between its floor and ceiling. DESIGN CHOICE, log entry 11. -/
def openQuot (a : Int) (b : Nat) (s : State) : Int × State :=
  if a % b = 0 then (a / b, s)
  else let (up, s) := s.drawBool; (a / b + (if up then 1 else 0), s)

/-- A mains edge (R373). DESIGN CHOICE, log entry 11. DEDUCED, log entry 41. -/
def mainsEdge (s : State) : State :=
  if tbSrc s ≠ 3 ∨ inReset .cue s then s
  else
    let p := s.tb.mainsPeriod.toNat
    let early := match s.tb.edgeAt with
      | some t => decide (p ≠ 0) && decide (4 * (s.coreTime - t) < 3 * p)
      | none => false
    if early then s.updTb fun t => { t with mainsReject := satInc t.mainsReject }
    else
      let ps := match s.tb.edgeAt with
        | some t => ((s.coreTime - t) :: s.tb.periods).take 8
        | none => s.tb.periods
      let (mean, s) := if ps.length = 8 then openQuot ps.sum 8 s else (0, s)
      let s := s.updTb fun t => { t with periods := ps, edgeAt := some s.coreTime, mainsPeriod := BitVec.ofNat 32 mean.toNat }
      sourceChange (nextCycle (sourceTb s)) s

/-- The phase between edges (R373). -/
def mainsPhase (s : State) : State :=
  let p := s.tb.mainsPeriod.toNat
  match s.tb.edgeAt with
  | some t =>
    if tbSrc s ≠ 3 ∨ p = 0 then s
    else
      let v := sourceTb s
      let phase := min 4095 (4096 * (s.coreTime - t) / p)
      if v.toNat % 4096 < phase then sourceChange (BitVec.ofNat 48 (v.toNat / 4096 * 4096 + phase)) s else s
  | none => s

/-! ### TBCTL -/

/-- An accepted TBCTL write changes the source (R372). DEDUCED, log entry 41. -/
def sourceChanges (old new : Word) : Bool :=
  let src := fld new 31 29
  decide (fld old 31 29 ≠ src) || (decide (1 ≤ src) && decide (src ≤ 3) && decide (fld old 27 24 ≠ fld new 27 24))
    || (decide (2 ≤ src) && decide (src ≤ 3) && bitAt old 28 != bitAt new 28)

/-- A TBCTL write that has been accepted (R372). DEDUCED, log entry 41. -/
def writeTbctl (w : Word) (s : State) : State :=
  let was := s.tb.ctl
  let s := s.updTb fun t => { t with ctl := w &&& maskOf 31 24 }
  if ! sourceChanges was w then s
  else
    let s := s.updTb fun t => { t with periods := [], edgeAt := none, mainsPeriod := 0 }
    let v := sourceTb s
    sourceLoad (match fld w 31 29 with
      | 1 => s.encs[(tbChan s)].count
      | 3 => BitVec.ofNat 48 (ceilDiv v.toNat 4096 * 4096)
      | 4 => ptpTb s
      | _ => v) s

/-! ### Sequencers -/

/-- A sequencer runs (R374, R376). -/
def anyRunning (s : State) : Bool := (List.finRange 16).any fun i => s.tb.seqs[i].state == .running

/-- The checks of RUN = 1 (R382). DEDUCED, log entry 40. -/
def seqRefused (s : State) (i : Fin 16) : Status :=
  let q := s.tb.seqs[i]
  firstRefusal [(q.state == .running, .busy), (decide (fld q.range 27 16 < fld q.range 11 0), .range), (tbSrc s == 0, .state)]

/-- A sequencer starts at START, pass 1 (R379, R382). -/
def startSeq (i : Fin 16) (s : State) : State :=
  let s := s.updSeq i fun q =>
    { q with state := .running, cursor := BitVec.ofNat 12 (fld q.range 11 0), pass := 1, loopAddNow := q.loopAdd, loopsNow := q.loops, carry := none }
  walkSeq i [] none 4 true s

/-- A sequencer stops at once (R382). -/
def stopSeq (i : Fin 16) (s : State) : State := s.updSeq i fun q => if q.state = .running then { q with state := .idle, carry := none } else q

/-- The cues in a Running sequencer's lookahead: the cursor and the next three, into the next pass as R381 allows (R376, R378). -/
def lookahead (q : Seq) : Nat → Nat → Nat → List Nat
  | 0, _, _ => []
  | n + 1, k, pass =>
    if k < fld q.range 27 16 then k :: lookahead q n (k + 1) pass
    else if q.loopsNow = 0 ∨ pass < q.loopsNow.toNat then k :: lookahead q n (fld q.range 11 0) (pass + 1)
    else [k]

/-- Cue k lies in the lookahead of a Running sequencer (R376). -/
def inLookahead (s : State) (k : Nat) : Bool :=
  (List.finRange 16).any fun i => let q := s.tb.seqs[i]; q.state == .running && (lookahead q 4 q.cursor.toNat q.pass).contains k

/-! ### The PTP servo -/

/-- PTP time set to whole nanoseconds, negative times held at 0. -/
def setPtp (ns : Int) (s : State) : State :=
  let n := ns.toNat
  { s with ptp := { s.ptp with sec := n / 1000000000, frac := n % 1000000000 * 10 ^ 15 } }

/-- One measurement of the servo, the device's time less the reference's in ns: a step beyond 1 ms where a step is allowed, else a slew of at
most 500 ppm against it, the rate left open (R374, R590, R601). DESIGN CHOICE, log entry 11. -/
def servo (offset : Int) (s : State) : State :=
  let lockedNow := decide (offset.natAbs ≤ 100)
  let s := { s with ptp := { s.ptp with
    offset := BitVec.ofInt 32 (clampI (-2 ^ 31) (2 ^ 31 - 1) offset)
    goodSince := if lockedNow then some (s.ptp.goodSince.getD s.coreTime) else none
    locked := lockedNow && match s.ptp.goodSince with
      | some t => decide (t + clkS ≤ s.coreTime)
      | none => false } }
  let far := decide (1000000 < offset.natAbs)
  let barred := tbSrc s == 4 && anyRunning s
  if far && ! barred then
    setPtp ((s.ptp.sec * 1000000000 + s.ptp.ns : Nat) - offset) { s with ptp := { s.ptp with slew := 0 } }
  else
    let (n, s) := s.drawNat
    let size : Int := if far then 500000 else if offset = 0 then 0 else (n % 500001 : Nat)
    { s with ptp := { s.ptp with slew := if 0 < offset then -size else size, stepHeld := s.ptp.stepHeld || far } }

/-- A rising PPS_IN edge: the second in CLKM 0b10; a time stamp on a follower that calibrates (R108, R397). DEDUCED, log entry 44. -/
def ppsEdge (at64 : Nat) (s : State) : State :=
  if s.pins.clkm = 2 then
    let ns : Int := s.ptp.ns
    servo (if 500000000 ≤ ns then ns - 1000000000 else ns) s
  else if s.pins.clkm = 3 ∧ s.tb.ring.calSeen then s.updRing fun r => { r with ppsAt := some at64 }
  else s

/-! ### The sync ring -/

/-- The device follows a ring (R392). -/
def ringFollower (s : State) : Bool := s.pins.clkm == 3 && bitAt s.tb.ring.ctl 31 && ! bitAt s.tb.ring.ctl 30

/-- The S12 DELTA of a word (R393). -/
def deltaOf (w : BitVec 16) : Int := toSigned 12 (fld w 11 0)

/-- A ring word arrives: repeated by a follower, its DELTA kept until its Array instant, its nibble kept for the frame; a level-0 reset stops
the repeater too (R57, R58, R393, R397). -/
def ringWord (w : BitVec 16) (clap : Bool) (at64 : Nat) (s : State) : State :=
  if s.rst.level = some 0 then s
  else
  let s := if s.pins.clkm = 3 then s.send (.ring clap w.toNat) else s
  if ! bitAt s.tb.ring.ctl 31 then s
  else
    let follow := ringFollower s
    s.updRing fun r =>
      let rx := if follow then r.tbRx + BitVec.ofInt 48 (deltaOf w) else r.tbRx
      { r with deltas := if follow then r.deltas ++ [deltaOf w] else r.deltas, tbRx := rx, tbWord0 := if clap then rx else r.tbWord0
               nibbles := if clap then [w.toNat / 4096] else (r.nibbles ++ [w.toNat / 4096]).take 65
               pairs := match clap, r.ppsAt with
                 | true, some t => if r.calSeen then (r.pairs ++ [(at64 : Int) - t]).take 1024 else r.pairs
                 | _, _ => r.pairs
               ppsAt := if clap then none else r.ppsAt }

/-- The side frame of a master (R394). DEDUCED, log entry 43. -/
def sideFrame (s : State) (idle : Bool) : BitVec 256 :=
  let r := s.tb.ring
  let body : BitVec 256 := place 256 0 1 ||| place 256 8 (if idle then 1 else 0) ||| place 256 9 (if r.cal && r.lock then 1 else 0) ||| place 256 16 s.tb.tb.toNat
    ||| place 256 64 s.ptp.ns ||| place 256 96 (s.ptp.sec % 2 ^ 48) ||| place 256 144 r.delay.toNat
  body ||| place 256 240 (crc16 240 body.toNat)

/-- The master calibrates: CAL is in its side frames, and PPS_OUT carries the clapper of every 16th frame in place of the second (R397). -/
def calibrating (s : State) : Bool := ringMaster s && s.tb.ring.cal && s.tb.ring.lock

/-- PPS_OUT rises; how long it stays high is open (R51, R53). DESIGN CHOICE, log entry 126. -/
def ppsRise (s : State) : State :=
  let (w, s) := s.drawNat
  s.updPins fun p => { p with pps := .high, ppsFallAt := some (s.coreTime + 1 + w) }

/-- A word's Array instant: a follower in lock applies the oldest DELTA; the master applies and sends what its source owes the ring, the
idle pattern while its cue unit is in reset (R57, R393, R395, R396). DEDUCED, log entry 43. -/
def ringApply (s : State) : State :=
  let r := s.tb.ring
  if ringMaster s then
    let idle := inReset .cue s
    let d := if idle then 0 else clampI (-2047) 2047 r.acc
    let s := if idle then s else changeTb (s.tb.tb + BitVec.ofInt 48 d) (s.updRing fun r => { r with acc := r.acc - d })
    let s := if r.wordNo = 0 then s.updRing fun r => { r with side := sideFrame s idle } else s
    let nib := fld s.tb.ring.side (4 * r.wordNo + 3) (4 * r.wordNo)
    let s := (s.send (.ring (r.wordNo == 0) (nib * 4096 + ofSigned 12 d))).updRing fun r => { r with wordNo := (r.wordNo + 1) % 64 }
    if r.wordNo ≠ 0 ∨ ! calibrating s then s
    else (if s.tb.ring.calFrame = 0 then ppsRise s else s).updRing fun r => { r with calFrame := (r.calFrame + 1) % 16 }
  else
    match r.deltas with
    | [] => s
    | d :: rest =>
      let s := s.updRing fun r => { r with deltas := rest }
      if r.lock && ringFollower s && tbSrc s == 5 && ! inReset .cue s then changeTb (s.tb.tb + BitVec.ofInt 48 d) s else s

/-- RING_LOCK is lost (R396). -/
def loseRing (s : State) : State :=
  if ! s.tb.ring.lock then s
  else fault 0x0703 1 .ring 0 0 (publish 0x0321 (s.updRing fun r => { r with lock := false, goodRun := 0, badRun := 0 }))

/-- A follower loads the frame's TB: its timebase stands as many words on from word 0 as have reached their Array instant (R380, R396). DEDUCED, log entry 43. -/
def loadFromRing (tb : BitVec 48) (s : State) : State :=
  let r := s.tb.ring
  let rx := tb + (r.tbRx - r.tbWord0)
  let ahead : Int := r.deltas.sum
  let s := s.updRing fun r => { r with tbRx := rx, tbWord0 := tb }
  if tbSrc s = 5 ∧ ¬ inReset .cue s then loadTb (rx - BitVec.ofInt 48 ahead) s else s

/-- A frame of 64 words is checked (R395, R396). DEDUCED, log entry 43. -/
def ringFrame (s : State) : State :=
  let r := s.tb.ring
  if ! bitAt r.ctl 31 then s
  else
    let f : BitVec 256 := BitVec.ofNat 256 (r.nibbles.foldr (fun n acc => n + 16 * acc) 0)
    let good := r.nibbles.length == 64 && crc16 240 (fld f 239 0) == fld f 255 240
    if ! good then
      let s := s.updRing fun r => { r with crcErr := satInc r.crcErr, badRun := r.badRun + 1, goodRun := 0 }
      if 4 ≤ s.tb.ring.badRun then loseRing s else s
    else if bitAt f 8 then loseRing (s.updRing fun r => { r with masterIdle := true, goodRun := 0, badRun := 0 })
    else
      let s := s.updRing fun r => { r with masterIdle := false, badRun := 0, goodRun := r.goodRun + 1 }
      let follow := ringFollower s
      let s := if follow then s.updRing fun r =>
          let cal := bitAt f 9
          { r with adelay := BitVec.ofNat 32 (fld f 167 144), localDelay := if r.calDone then BitVec.ofNat 32 (fld f 167 144) - r.dMeas else r.localDelay
                   calSeen := cal, pairs := if cal && ! r.calSeen then [] else r.pairs }
        else s
      if ! r.lock then
        (if 4 ≤ s.tb.ring.goodRun then s.updRing fun r => { r with lock := true, reload := true } else s)
      else if ! follow then s
      else
        let past : Int := 63 - s.tb.ring.deltas.length
        let s := setPtp ((fld f 143 96 : Int) * 1000000000 + fld f 95 64 + past * 64 / 10) s
        let tb := BitVec.ofNat 48 (fld f 63 16)
        if r.reload then (loadFromRing tb s).updRing fun r => { r with reload := false, resync := true }
        else if tb ≠ r.tbWord0 then fault 0x0701 1 .ring 0 0 (loadFromRing tb (s.updRing fun r => { r with tbMismatch := satInc r.tbMismatch }))
        else s

/-- A take is open on some source (R397). -/
def anyTake (s : State) : Bool := (List.finRange 18).any (takeOpen s)

/-- A follower has timestamped 1,024 pairs (R397 step 3): 12.5 ps to a unit. -/
def calMeasured (s : State) : State :=
  let r := s.tb.ring
  if ! ringFollower s || decide (r.pairs.length < 1024) then s
  else
    let (d, s) := openQuot (25 * r.pairs.sum + 2048 * r.ppsFlight.toNat) 25600 s
    let spread : Int := match r.pairs.max?, r.pairs.min? with
      | some a, some b => a - b
      | _, _ => 0
    let loc : Int := r.adelay.toNat - d
    if loc < 1536 ∨ 4 < spread ∨ anyRunning s ∨ anyTake s then s.updRing fun r => { r with calBad := true, calDone := false, pairs := [], ppsAt := none }
    else s.updRing fun r => { r with calDone := true, dMeas := BitVec.ofInt 32 d, localDelay := BitVec.ofInt 32 loc, pairs := [], ppsAt := none }

/-- The master's calibration ends (R397 step 4). -/
def calEnds (rt : Nat) (s : State) : State :=
  if ringMaster s && s.tb.ring.cal then s.updRing fun r => { r with cal := false, dMeas := BitVec.ofNat 32 rt } else s

/-- The master compares the round trip with RT0: 100 ps are 8 units (R398). -/
def driftSeen (rt : Nat) (s : State) : State :=
  let r := s.tb.ring
  if ! ringMaster s || r.dMeas == 0 || r.cal then s
  else if (r.dMeas.toNat + 8 < rt) ∨ (rt + 8 < r.dMeas.toNat) then
    fault 0x0702 0 .ring 0 0 (publish 0x0322 (s.updRing fun r => { r with drift := true }))
  else s

/-! ### Objects -/

/-- The unit's objects (R371, R375, R382, R383, R386, R391, R399, R400). -/
inductive TbReg where
  | tbctl | tb | histDiv | mainsPeriod | mainsReject | coreTime | cueLo (k : Fin 4096) | cueHi (k : Fin 4096)
  | seqctl (i : Fin 16) | seqrange (i : Fin 16) | seqstat (i : Fin 16) | loopAdd (i : Fin 16) | loops (i : Fin 16) | fired (i : Fin 16) | missedCnt (i : Fin 16)
  | trigcfg (n : Fin 32) | pulses (n : Fin 32) | merged (n : Fin 32) | pinLost (n : Fin 32)
  | stampctl (i : Fin 18) | stampFallback (i : Fin 18)
  | arrayctl | arraystat | arrayDelay | dMeas | localDelay | ppsFlight | crcErr | tbMismatch
deriving DecidableEq, Repr

/-- The object at index and sub. -/
def TbReg.at_ (index sub : Nat) : Option TbReg :=
  let trig := fun (f : Fin 32 → TbReg) => if 1 ≤ sub then (finOf 32 (sub - 1)).map f else none
  if 0x7110 ≤ index ∧ index ≤ 0x712F then
    let k := Fin.ofNat 4096 ((index - 0x7110) * 128 + sub / 2)
    if 256 ≤ sub then none else some (if sub % 2 = 0 then .cueLo k else .cueHi k)
  else if 0x7130 ≤ index ∧ index ≤ 0x713F then
    let i := Fin.ofNat 16 (index - 0x7130)
    match sub with
    | 1 => some (.seqctl i) | 2 => some (.seqrange i) | 3 => some (.seqstat i) | 4 => some (.loopAdd i) | 5 => some (.loops i) | 6 => some (.fired i)
    | 7 => some (.missedCnt i) | _ => none
  else if 0x7220 ≤ index ∧ index < 0x7220 + 18 then
    let i := Fin.ofNat 18 (index - 0x7220)
    match sub with
    | 1 => some (.stampctl i) | 2 => some (.stampFallback i) | _ => none
  else match index, sub with
    | 0x7140, _ => trig .trigcfg | 0x7141, _ => trig .pulses | 0x7142, _ => trig .merged | 0x7143, _ => trig .pinLost
    | 0x7200, 1 => some .tbctl | 0x7200, 2 => some .tb | 0x7200, 3 => some .histDiv | 0x7200, 4 => some .mainsPeriod | 0x7200, 5 => some .mainsReject
    | 0x7200, 6 => some .coreTime
    | 0x7210, 1 => some .arrayctl | 0x7210, 2 => some .arraystat | 0x7210, 3 => some .arrayDelay | 0x7210, 4 => some .dMeas | 0x7210, 5 => some .localDelay
    | 0x7210, 6 => some .ppsFlight | 0x7210, 7 => some .crcErr | 0x7210, 8 => some .tbMismatch
    | _, _ => none

/-- What the tables say of it. -/
def TbReg.desc : TbReg → Desc
  | .tbctl => .rw .bits32 1 | .tb => .ro .u48 | .histDiv => (Desc.rw .u32 1).within 1 65536 | .mainsPeriod => .ro .u32 | .mainsReject => .ro .u32
  | .coreTime => .ro .u64 | .cueLo _ => .rw .u64 1 | .cueHi _ => .rw .u64 1
  | .seqctl _ => .rw .bits32 1 | .seqrange _ => .rw .bits32 1 | .seqstat _ => .status | .loopAdd _ => .rw .u48 1 4 | .loops _ => .rw .u32 1 4
  | .fired _ => .ro .u48 | .missedCnt _ => .ro .u32
  | .trigcfg _ => .rw .bits32 1 | .pulses _ => .ro .u48 | .merged _ => .ro .u32 | .pinLost _ => .ro .u32
  | .stampctl _ => .rw .bits32 1 | .stampFallback _ => .ro .u32
  | .arrayctl => .rw .bits32 1 | .arraystat => .status | .arrayDelay => (Desc.rwp .u32 2).within 1536 16777215 | .dMeas => .ro .u32 | .localDelay => .ro .u32
  | .ppsFlight => (Desc.rw .u32 2).within 0 200000 | .crcErr => .ro .u32 | .tbMismatch => .ro .u32

/-- SEQSTAT (R383). -/
def Seq.stat (q : Seq) : Word := place 32 30 q.state.code ||| flagBit 29 q.late ||| flagBit 28 q.missed ||| place 32 0 q.cursor.toNat

/-- ARRAYSTAT (R399). -/
def Ring.stat (r : Ring) : Word :=
  flagBit 31 r.lock ||| flagBit 30 r.masterIdle ||| flagBit 29 r.calDone ||| flagBit 28 r.calBad ||| flagBit 27 r.drift ||| flagBit 26 r.resync

/-- What an object reads. -/
def TbReg.read (s : State) (r : TbReg) : Val :=
  let t := s.tb
  match r with
  | .tbctl => bv t.ctl | .tb => bv t.tb | .histDiv => bv t.histDiv | .mainsPeriod => bv t.mainsPeriod | .mainsReject => bv t.mainsReject
  | .coreTime => .num (s.coreTime % 2 ^ 64) | .cueLo k => bv t.cues[k].lo | .cueHi k => bv t.cues[k].hi
  | .seqctl i => let q := t.seqs[i]; bv ((q.ctl &&& maskOf 30 29) ||| flagBit 31 (q.state == .running))
  | .seqrange i => bv t.seqs[i].range | .seqstat i => bv t.seqs[i].stat | .loopAdd i => bv t.seqs[i].loopAdd | .loops i => bv t.seqs[i].loops
  | .fired i => bv t.seqs[i].fired | .missedCnt i => bv t.seqs[i].missedCnt
  | .trigcfg n => bv t.trigs[n].cfg | .pulses n => bv t.trigs[n].pulses | .merged n => bv t.trigs[n].merged | .pinLost n => bv t.trigs[n].pinLost
  | .stampctl i => bv t.stamps[i].ctl | .stampFallback i => bv t.stamps[i].fallback
  | .arrayctl => bv ((t.ring.ctl &&& maskOf 31 30) ||| flagBit 29 t.ring.cal) | .arraystat => bv t.ring.stat
  | .arrayDelay => bv (if s.pins.clkm = 3 then t.ring.adelay else t.ring.delay) | .dMeas => bv t.ring.dMeas | .localDelay => bv t.ring.localDelay
  | .ppsFlight => bv t.ring.ppsFlight | .crcErr => bv t.ring.crcErr | .tbMismatch => bv t.ring.tbMismatch

/-- Its own checks (R372, R376, R382, R386, R399, R400). DEDUCED, log entry 40. -/
def TbReg.check (s : State) (r : TbReg) (v : Val) : Status :=
  let w := v.word
  let running := fun (i : Fin 16) => s.tb.seqs[i].state == .running
  let follower := s.pins.clkm == 3
  match r with
  | .tbctl =>
    let src := fld w 31 29
    firstRefusal [(anyRunning s, .state), (decide (6 ≤ src), .range), ((src == 5 && ! follower) || (src != 5 && follower), .state)]
  | .cueLo k => firstRefusal [(inLookahead s k.1, .busy)]
  | .cueHi k => firstRefusal [(inLookahead s k.1, .busy)]
  | .seqctl i => if bitAt w 31 then seqRefused s i else firstRefusal [(running i && bitAt w 30 != bitAt s.tb.seqs[i].ctl 30, .state)]
  | .seqrange i => firstRefusal [(running i, .state)]
  | .loopAdd i => firstRefusal [(running i, .state)]
  | .loops i => firstRefusal [(running i, .state)]
  | .trigcfg _ => firstRefusal [(fld w 15 0 == 0 || (decide (fld w 15 0 < 5) && ! bitAt w 28), .range)]
  | .arrayctl => firstRefusal [(anyRunning s || (bitAt w 30 && follower) || (bitAt w 31 && ! bitAt w 30 && ! follower), .state)]
  | .arrayDelay => firstRefusal [(follower, .access)]
  | _ => .ok

/-- An ARRAYCTL write: a master starts from its present timebase; CAL starts calibration (R392, R397). -/
def writeArrayctl (w : Word) (s : State) : State :=
  let was := ringMaster s
  let src := sourceTb s
  let s := s.updRing fun r => { r with ctl := w &&& maskOf 31 30, cal := (r.cal || bitAt w 29) && bitAt w 30, calFrame := if r.cal then r.calFrame else 0 }
  if ringMaster s && ! was then (s.updTb fun t => { t with srcTb := t.tb }).updRing fun r => { r with acc := 0, wordNo := 0 }
  else if was && ! ringMaster s then loadTb src s
  else s

/-- What an accepted write does. -/
def TbReg.write (r : TbReg) (v : Val) (s : State) : State :=
  let w := v.word
  match r with
  | .tbctl => writeTbctl w s
  | .histDiv => s.updTb fun t => { t with histDiv := w, hist := [] }
  | .cueLo k => s.updTb fun t => { t with cues := modAt t.cues k fun c => { c with lo := BitVec.ofNat 64 (v.toNat - fld (BitVec.ofNat 64 v.toNat) 61 48 * 2 ^ 48) } }
  | .cueHi k => s.updTb fun t => { t with cues := modAt t.cues k fun c => { c with hi := BitVec.ofNat 64 (v.toNat - fld (BitVec.ofNat 64 v.toNat) 46 32 * 2 ^ 32) } }
  | .seqctl i =>
    let s := s.updSeq i fun q => { q with ctl := w &&& maskOf 30 29 }
    if bitAt w 31 then startSeq i s else stopSeq i s
  | .seqrange i => s.updSeq i fun q => { q with range := w &&& (maskOf 27 16 ||| maskOf 11 0) }
  | .seqstat i => s.updSeq i fun q => { q with late := keepSticky q.late (bitAt w 29), missed := keepSticky q.missed (bitAt w 28) }
  | .loopAdd i => s.updSeq i fun q => { q with loopAdd := BitVec.ofNat 48 v.toNat }
  | .loops i => s.updSeq i fun q => { q with loops := w }
  | .trigcfg n => restTrig n (s.updTrig n fun k => { k with cfg := w, configured := true })
  | .stampctl i => s.updStamp i fun k => { k with ctl := w &&& (maskOf 31 26 ||| maskOf 11 0) }
  | .arrayctl => writeArrayctl w s
  | .arraystat => s.updRing fun r => { r with calBad := keepSticky r.calBad (bitAt w 28), drift := keepSticky r.drift (bitAt w 27), resync := keepSticky r.resync (bitAt w 26) }
  | .arrayDelay => s.updRing fun r => { r with delay := w, adelay := w }
  | .ppsFlight => s.updRing fun r => { r with ppsFlight := w }
  | _ => s

/-! ### Commands -/

/-- LINE_CLOCK_EDGE (R370). DESIGN CHOICE, log entry 46. -/
def execLineClockEdge (line : Fin 16) (s : State) : Host.Outcome State Fault Refusal := .next (lineEdge line s)

/-- MAINS_EDGE (R373). -/
def execMainsEdge (s : State) : Host.Outcome State Fault Refusal := .next (mainsEdge s)

/-- MAINS_LOSS (R373). -/
def execMainsLoss (s : State) : Host.Outcome State Fault Refusal :=
  .next (if tbSrc s = 3 then s.updTb fun t => { t with mainsPeriod := 0, periods := [], edgeAt := none } else s)

/-- MAINS_PHASE_STEP (R373). -/
def execMainsPhaseStep (s : State) : Host.Outcome State Fault Refusal := .next (mainsPhase s)

/-- PTP_TIME_ADVANCE (R370). -/
def execPtpTimeAdvance (s : State) : Host.Outcome State Fault Refusal := .next (if tbSrc s = 4 then sourceChange (ptpTb s) s else s)

/-- LATE_CUE_FIRE (R378, R379): the following core clock's four cues. -/
def execLateCueFire (i : Fin 16) (s : State) : Host.Outcome State Fault Refusal :=
  .next (match s.tb.seqs[i].carry with
    | some owed => if inReset .cue s then s else walkSeq i owed none 4 true s
    | none => s)

/-- TRIG_PULSE_START (R387). -/
def execTrigPulseStart (n : Fin 32) (s : State) : Host.Outcome State Fault Refusal := .next (if inReset .cue s then s else pulseStart n s)

/-- TRIG_PULSE_END (R55, R386). DEDUCED, log entry 7. -/
def execTrigPulseEnd (n : Fin 32) (s : State) : Host.Outcome State Fault Refusal := .next (pulseEnd n s)

/-- HIST_SAMPLE (R639). -/
def execHistSample (s : State) : Host.Outcome State Fault Refusal :=
  .next (if inReset .cue s then s
  else s.updTb fun t => { t with hist := (({ core := s.coreTime, tb := t.tb, ptpS := s.ptp.sec, ptpNs := s.ptp.ns } : Hist) :: t.hist).take 65536 })

/-- PTP_SECOND (R418). -/
def execPtpSecond (s : State) : Host.Outcome State Fault Refusal := .next (publish 0x0323 s)

/-- PPS_IN_EDGE (R374, R397). -/
def execPpsInEdge (at64 : Nat) (s : State) : Host.Outcome State Fault Refusal := .next (ppsEdge at64 s)

/-- RING_WORD (R393). DESIGN CHOICE, log entry 121. -/
def execRingWord (word : BitVec 16) (clap : Bool) (at64 : Nat) (s : State) : Host.Outcome State Fault Refusal := .next (ringWord word clap at64 s)

/-- RING_APPLY (R395). -/
def execRingApply (s : State) : Host.Outcome State Fault Refusal := .next (ringApply s)

/-- RING_FRAME (R396). -/
def execRingFrame (s : State) : Host.Outcome State Fault Refusal := .next (if inReset .cue s then s else ringFrame s)

/-- CAL_MEASURE_DONE (R397). -/
def execCalMeasureDone (s : State) : Host.Outcome State Fault Refusal := .next (calMeasured s)

/-- CAL_END (R397). -/
def execCalEnd (roundTrip : Nat) (s : State) : Host.Outcome State Fault Refusal := .next (calEnds roundTrip s)

/-- DRIFT_CHECK (R398). -/
def execDriftCheck (roundTrip : Nat) (s : State) : Host.Outcome State Fault Refusal := .next (driftSeen roundTrip s)

/-- SEQ_START_TASK (R382, R419). -/
def execSeqStartTask (i : Fin 16) (s : State) : Host.Outcome State Fault Refusal :=
  .next (performTask (.seqStart i) (fun s => if bitAt s.tb.seqs[i].ctl 29 ∧ seqRefused s i = .ok ∧ ¬ inReset .cue s then some (startSeq i s) else none) s)

/-- SEQ_STOP_TASK (R419). -/
def execSeqStopTask (i : Fin 16) (s : State) : Host.Outcome State Fault Refusal :=
  .next (performTask (.seqStop i) (fun s => if bitAt s.tb.seqs[i].ctl 29 ∧ ¬ inReset .cue s then some (stopSeq i s) else none) s)

/-- TRIG_PULSE_TASK (R419): dropped while EN is 0. -/
def execTrigPulseTask (n : Fin 32) (s : State) : Host.Outcome State Fault Refusal :=
  .next (performTask (.trigPulse n) (fun s => if bitAt s.tb.trigs[n].cfgNow 31 ∧ ¬ inReset .cue s then some (firePin n 0xFFFFFFFF s).2 else none) s)

/-- The block of a source. -/
def srcBlk (i : Fin 18) : Blk :=
  match finOf 16 i.1 with
  | some h => .head h
  | none => .pcam (Fin.ofNat 2 (i.1 - 16))

/-- TAKE_START_TASK (R228, R419). -/
def execTakeStartTask (i : Fin 18) (s : State) : Host.Outcome State Fault Refusal :=
  .next (performTask (.takeStart i) (fun s => if startRefused s i = .ok ∧ ¬ inReset (srcBlk i) s then some (startTake i s) else none) s)

/-- TAKE_STOP_TASK (R228, R419). -/
def execTakeStopTask (i : Fin 18) (s : State) : Host.Outcome State Fault Refusal :=
  .next (settlePause (performTask (.takeStop i) (fun s => if inReset (srcBlk i) s then none else some (stopTake i s)) s))

end Sys2Proof.Machine
end

