-- ==== Sys2Proof/Machine/Encoders.lean ====
section
/-! DEFINITION. Encoder channels (chapter 11): counting, the index, sine and cosine, speed, and the compare unit. -/

namespace Sys2Proof.Machine

open Sys2Proof

/-! ### ENCCTL -/

/-- EN. -/
def Enc.en (e : Enc) : Bool := bitAt e.ctl 31
/-- MODE (R342). -/
def Enc.mode (e : Enc) : Nat := fld e.ctl 30 28
/-- FILT (R340). -/
def Enc.filt (e : Enc) : Nat := fld e.ctl 9 0

/-- The time stamp of a digital change accepted now: filter and synchroniser delays taken off (R341). DESIGN CHOICE, log entry 45. -/
def Enc.stampNow (e : Enc) (now : Nat) : Nat := now - e.filt - 3

/-- The sampling instant of a sample processed now: 400 ns and 12 core clocks earlier (R354). -/
def sampleStamp (now : Nat) : Nat := now - 512

/-! ### The compare unit -/

/-- Events of the compare unit: the router's, at its instance. -/
def cmpPublish (n : Fin 16) (done : Bool) (s : State) : State := publish ((if done then 0x0250 else 0x0240) + n.1) s

/-- The compare unit changed by f. -/
def updCmp (n : Fin 16) (f : Cmp → Cmp) (s : State) : State := s.updEnc n fun e => { e with cmp := f e.cmp }

/-- The unit disarms after its last target (R359). DEDUCED, log entry 47. -/
def cmpFinish (n : Fin 16) (s : State) : State := cmpPublish n true (updCmp n (fun c => { c with arm := false, done := true }) s)

/-- A hit at time t: latched and published, or held by MINSP, or lost behind a held one (R359, R361). DESIGN CHOICE, log entry 45. -/
def cmpHit (n : Fin 16) (t : Nat) (late : Bool) (s : State) : State :=
  let e := s.encs[n]
  let c := e.cmp
  if c.held then updCmp n (fun c => { c with skipped := satInc c.skipped, late := c.late || late }) s
  else
    let s := updCmp n (fun c => { c with hitCount := e.count, hitTime := BitVec.ofNat 64 t, hits := satInc c.hits, late := c.late || late }) s
    let soon := match c.lastHit with
      | some l => decide (s.coreTime < l + c.minsp.toNat)
      | none => false
    if soon then updCmp n (fun c => { c with held := true }) s
    else cmpPublish n false (updCmp n (fun c => { c with lastHit := some s.coreTime }) s)

/-- The held hit is published, with LATE outside list mode, where it is never set (R361, R364). DEDUCED, log entry 47. -/
def heldPublish (n : Fin 16) (s : State) : State :=
  if s.encs[n].cmp.held then cmpPublish n false (updCmp n (fun c => { c with held := false, late := c.late || ! bitAt c.ctl 27, lastHit := some s.coreTime }) s) else s

/-- The targets at and behind the count in direction DIR: passed by a crossing change, or found behind (R360, R362). A crossing always fires. DEDUCED, log entry 47. -/
def cmpPass (n : Fin 16) (t : Nat) (crossing : Bool) (s : State) : State :=
  let e := s.encs[n]
  let c := e.cmp
  let rev := bitAt c.ctl 30
  let auto := bitAt c.ctl 28
  if ! beyond rev e.count c.target then s
  else
    let dist := if rev then (c.target - e.count).toNat else (e.count - c.target).toNat
    let step := toSigned 32 c.step.toNat
    let behind := if auto then dist / step.natAbs + 1 else 1
    let left := if c.npulse = 0 then behind + 1 else max 1 (c.npulse.toNat - c.consumed)
    let k := min behind left
    let last := ! auto || decide (left ≤ behind)
    let moved := c.target + BitVec.ofInt 48 ((if last then k - 1 else k : Nat) * step)
    let s := updCmp n (fun c => { c with consumed := c.consumed + k, target := if auto then moved else c.target }) s
    let s :=
      if crossing || ! bitAt c.ctl 29 then
        updCmp n (fun c => { c with skipped := satAdd c.skipped (k - 1) }) (cmpHit n t (! crossing || decide (1 < k)) s)
      else updCmp n (fun c => { c with missed := true, skipped := satAdd c.skipped k }) s
    if last then cmpFinish n s else s

/-- The entry at LIST_POS is reached by the change from c to d (R364). -/
def listReached (c d : BitVec 48) (entry : Word) : Bool :=
  let lo := fun (x : BitVec 48) => BitVec.ofNat 32 x.toNat
  let fwd := decide ((d - c).toNat < 2 ^ 47)
  let move := if fwd then (d - c).toNat else (c - d).toNat
  let dist := if fwd then (entry - lo c).toNat else (lo c - entry).toNat
  decide (1 ≤ dist) && decide (dist ≤ move)

/-- The low 32 bits of a count moved to a list entry within a change. -/
def atEntry (c d : BitVec 48) (entry : Word) : BitVec 48 :=
  let lo := BitVec.ofNat 32 c.toNat
  if (d - c).toNat < 2 ^ 47 then c + BitVec.ofNat 48 (entry - lo).toNat else c - BitVec.ofNat 48 (lo - entry).toNat

/-- Listed positions crossed by a change, at most k of them (R364). -/
def listPass (n : Fin 16) (d : BitVec 48) (t : Nat) : Nat → BitVec 48 → State → State
  | 0, _, s => s
  | k + 1, c, s =>
    let u := s.encs[n].cmp
    match u.list[u.listPos.toNat]? with
    | none => s
    | some entry =>
      if ! u.arm || ! listReached c d entry then s
      else
        let late := u.late
        let s := updCmp n (fun u => { u with late := late }) (cmpHit n t false s)
        let after := u.listPos.toNat + 1
        if after < u.list.length then listPass n d t k (atEntry c d entry) (updCmp n (fun u => { u with listPos := BitVec.ofNat 32 after }) s)
        else if bitAt u.ctl 26 then listPass n d t k (atEntry c d entry) (updCmp n (fun u => { u with listPos := 0 }) s)
        else cmpFinish n s

/-- The compare unit sees a count change; a change of 2^47 is a load (R344, R358, R362, R364). -/
def cmpChange (n : Fin 16) (c d : BitVec 48) (t : Nat) (s : State) : State :=
  let u := s.encs[n].cmp
  if ! u.arm then s
  else if bitAt u.ctl 27 then (if (d - c).toNat = 2 ^ 47 then s else listPass n d t u.list.length c s)
  else if (d - c).toNat = 2 ^ 47 then cmpPass n t false s
  else if reaches (bitAt u.ctl 30) c d u.target then cmpPass n t true s
  else s

/-- The test for a behind target, outside list mode (R362). DEDUCED, log entry 47. -/
def cmpTest (n : Fin 16) (s : State) : State :=
  let u := s.encs[n].cmp
  if u.arm && ! bitAt u.ctl 27 then cmpPass n s.coreTime false s else s

/-- The unit is armed, freshly (R362, R363, R364, R369). DEDUCED, log entry 47. -/
def cmpArm (n : Fin 16) (s : State) : State :=
  cmpTest n (updCmp n (fun c => { c with arm := true, done := false, consumed := 0, listPos := if bitAt c.ctl 27 then 0 else c.listPos }) s)

/-! ### Count changes -/

/-- SPEED: none while it reads 0 for want of two updates (R355, R356). -/
def Enc.speedOf (e : Enc) (now : Nat) : Int × Bool :=
  match e.run with
  | (ck, tk) :: _ =>
    if e.standstill ∨ e.runLen < 2 then (0, false)
    else
      let m := min (2 ^ fld e.ctl 14 12) (e.runLen - 1)
      match e.run[m]? with
      | none => (0, false)
      | some (cm, tm) =>
        let diff := toSigned 48 (ck - cm).toNat
        let unit := 2 ^ fld e.ctl 17 15
        let vm := if tk = tm then none else some (diff.natAbs * 1250000000 / ((tk - tm) * unit))
        let vb := if now ≤ tk then none else some (1250000000 / ((now - tk) * unit))
        let top := 2 ^ 31 - 1
        let v := match vm, vb with
          | some a, some b => min a b
          | some a, none => a
          | none, some b => b
          | none, none => top + 1
        ((if diff < 0 then -1 else 1) * (min v top : Nat), decide (top < v))
  | [] => (0, false)

/-- A counted change of d at time t: the count, its time, the run, the timebase and the compare unit (R342, R349, R355 to R358, R370). -/
def countBy (n : Fin 16) (d : Int) (t : Nat) (s : State) : State :=
  if d = 0 then s
  else
    let e := s.encs[n]
    let old := e.count
    let new := old + BitVec.ofInt 48 d
    let rev := decide (d < 0)
    let fresh := e.standstill || e.runLen == 0 || rev != e.dirRev
    let s := s.updEnc n fun e =>
      { e with count := new, edgeTime := BitVec.ofNat 64 t, dirRev := rev, standstill := false
               run := if fresh then [(new, t)] else ((new, t) :: e.run).take 129, runLen := if fresh then 1 else e.runLen + 1 }
    let s := s.updEnc n fun e => { e with speedClip := e.speedClip || (e.speedOf s.coreTime).2 }
    let s := cmpChange n old new t s
    if tbSrc s = 1 ∧ tbChan s = n then sourceChange new s else s

/-- A load of COUNT (R345, R349, R362, R380). -/
def loadCount (n : Fin 16) (v : BitVec 48) (s : State) : State :=
  let s := cmpTest n (s.updEnc n fun e => { e with count := v, posValid := true })
  if tbSrc s = 1 ∧ tbChan s = n then sourceLoad v s else s

/-! ### The index -/

/-- The gated index (R347). -/
def Enc.gate (e : Enc) : Bool :=
  let cond := match fld e.ctl 22 20 with
    | 0 => true
    | k =>
      if e.mode = 5 then (match e.phase with
        | some p => p / 1024 == k - 1
        | none => false)
      else match k with
        | 1 => ! e.a && ! e.b
        | 2 => e.a && ! e.b
        | 3 => e.a && e.b
        | _ => ! e.a && e.b
  (e.i != bitAt e.ctl 26) && cond

/-- A qualified index event at time t (R348, R349). -/
def indexEvent (n : Fin 16) (t : Nat) (s : State) : State :=
  let s := publish (0x0260 + n.1) (s.updEnc n fun e =>
    { e with idxCount := e.count, idxTime := BitVec.ofNat 64 t, indexCnt := satInc e.indexCnt, indexSeen := true })
  if s.encs[n].idxArm then loadCount n s.encs[n].idxLoad (s.updEnc n fun e => { e with idxArm := false }) else s

/-- The gated index follows its inputs: a rising edge is an index event, none while EN reads 0 (R346, R347). DEDUCED, log entry 48. -/
def settleIndex (n : Fin 16) (t : Nat) (s : State) : State :=
  let e := s.encs[n]
  let g := e.gate
  let s := s.updEnc n fun e => { e with g := g }
  if g && ! e.g && e.en then indexEvent n t s else s

/-- An accepted change of A and B (R342, R343). -/
def quadDelta (mode : Nat) (a b a' b' : Bool) : Int :=
  let rise := a' && ! a
  let fall := a && ! a'
  match mode with
  | 0 => if a != a' then (if a' == b then -1 else 1) else if b != b' then (if b' == a then 1 else -1) else 0
  | 1 => if a != a' then (if a' == b then -1 else 1) else 0
  | 2 => if rise && ! b then 1 else if fall && ! b then -1 else 0
  | 3 => if rise then (if b' then -1 else 1) else 0
  | 4 => (if rise then 1 else 0) - (if b' && ! b then 1 else 0)
  | _ => 0

/-- Accepted levels of A and B (R340, R342, R343, R346). DESIGN CHOICE, log entry 45. -/
def encEdge (n : Fin 16) (a b : Bool) (s : State) : State :=
  if inReset (.enc n) s then s.updEnc n fun e => { e with a := a, b := b }
  else
    let e := s.encs[n]
    let t := e.stampNow s.coreTime
    let s := s.updEnc n fun e => { e with a := a, b := b }
    if ! e.en || e.mode == 5 then s
    else
      let d := quadDelta e.mode e.a e.b a b
      let s :=
        if e.mode ≤ 2 ∧ a ≠ e.a ∧ b ≠ e.b then
          publish (0x0270 + n.1) (s.updEnc n fun e => { e with illegal := true, illegalCnt := satInc e.illegalCnt, posValid := false })
        else countBy n (if bitAt e.ctl 27 then -d else d) t s
      settleIndex n t s

/-- An accepted level of I (R340, R347). DESIGN CHOICE, log entry 45. -/
def encIndex (n : Fin 16) (level : Bool) (s : State) : State :=
  if inReset (.enc n) s then s.updEnc n fun e => { e with i := level }
  else settleIndex n (s.encs[n].stampNow s.coreTime) (s.updEnc n fun e => { e with i := level })

/-! ### Sine and cosine -/

/-- Cosine and sine of pi * 2^j / 4096, in units of 2^-60. -/
def turnTable : List (Int × Int) :=
  [(1152921165489838583, 884279632303724), (1152920148139012899, 1768558744408523), (1152916078738702569, 3537113327227485),
   (1152899801185339687, 7074193361797233), (1152834691737939372, 14148120384212745), (1152574266204915294, 28294110113536504),
   (1151532760162549490, 56571176913125535), (1147369872436662991, 113006068906017470), (1130768441178740757, 224923827593068887),
   (1065160580698383124, 441203958630471860), (815238614083298888, 815238614083298888), (0, 1152921504606846976),
   (-1152921504606846976, 0)]

/-- Cosine and sine of k * pi / 4096, in units of 2^-60. -/
def turn (k : Nat) : Int × Int :=
  turnTable.zipIdx.foldl (fun p e =>
    if k.testBit e.2 then ((p.1 * e.1.1 - p.2 * e.1.2) / 2 ^ 60, (p.1 * e.1.2 + p.2 * e.1.1) / 2 ^ 60) else p) (2 ^ 60, 0)

/-- The half step k + 1/2 of 4,096 lies at or before the angle of (c, d) in the upper half plane. -/
def stepBefore (sn cs : Int) (k : Nat) : Bool := let (x, y) := turn (2 * k + 1); decide (0 ≤ sn * x - cs * y)

/-- Half steps at or before the angle, found bit by bit. -/
def stepsBefore (sn cs : Int) : Nat → Nat → Nat
  | 0, acc => acc
  | b + 1, acc => stepsBefore sn cs b (if acc + 2 ^ b ≤ 2048 ∧ stepBefore sn cs (acc + 2 ^ b - 1) then acc + 2 ^ b else acc)

/-- round(4096 * atan2(s, c) / (2 pi)) mod 4096 (R351). -/
def phaseOf (sn cs : Int) : Nat :=
  if 0 < sn ∨ (sn = 0 ∧ 0 < cs) then stepsBefore sn cs 12 0 % 4096 else (2048 + stepsBefore (-sn) (-cs) 12 0) % 4096

/-- A difference of phases in -2,048 to 2,047 (R352). -/
def phaseStep (now was : Nat) : Int := ((now + 4096 - was + 2048) % 4096 : Nat) - 2048

/-- A sample's phase counted against the last one (R352). -/
def countPhase (n : Fin 16) (p t : Nat) (s : State) : State :=
  let e := s.encs[n]
  let s := s.updEnc n fun e => { e with phase := some p }
  match e.phase with
  | none => s
  | some was =>
    let d := phaseStep p was
    let s := countBy n (if bitAt e.ctl 27 then -d else d) t s
    if 512 < d.natAbs then publish (0x0280 + n.1) (s.updEnc n fun e => { e with overspeed := true, posValid := false }) else s

/-- A sine and cosine sample pair (R350 to R354); the phase is within one of the exact one, which one is left open. DESIGN CHOICE, log entry 11. DEDUCED, log entry 49. -/
def analogSample (n : Fin 16) (sn cs : Int) (s : State) : State :=
  let e := s.encs[n]
  if inReset (.enc n) s || ! e.en || e.mode ≠ 5 then s
  else
    let t := sampleStamp s.coreTime
    let s1 := clampI (-8192) 8191 sn - toSigned 24 e.sinOfs.toNat
    let c1 := ((clampI (-8192) 8191 cs - toSigned 24 e.cosOfs.toNat) * e.cosGain.toNat + 2 ^ 13) / 2 ^ 14
    let r2 := (s1 * s1 + c1 * c1).toNat
    let s := s.updEnc n fun e => { e with amp := BitVec.ofNat 24 r2.sqrt }
    if e.amin.toNat ^ 2 ≤ r2 ∧ r2 ≤ e.amax.toNat ^ 2 then
      let (free, s) := s.drawNat
      let p := (phaseOf s1 c1 + 4095 + free % 3) % 4096
      let s :=
        if e.ampOut then
          let runs := e.inRun ++ [(p, t)]
          if runs.length < e.awinN.toNat then s.updEnc n fun e => { e with inRun := runs }
          else runs.foldl (fun s x => countPhase n x.1 x.2 s) (s.updEnc n fun e => { e with ampOut := false, inRun := [], outRun := 0 })
        else countPhase n p t (s.updEnc n fun e => { e with outRun := 0 })
      settleIndex n t s
    else
      let s := s.updEnc n fun e => { e with inRun := [], outRun := e.outRun + 1 }
      if ! e.ampOut && decide (e.awinN.toNat ≤ e.outRun + 1) then
        publish (0x0290 + n.1) (s.updEnc n fun e => { e with ampFault := true, ampOut := true, posValid := false, ampFaults := satInc e.ampFaults })
      else s

/-! ### Objects -/

/-- The channel's objects (R365). -/
inductive EncReg where
  | encctl | encstat | count | speed | edgeTime | idxCount | idxTime | idxLoad | illegalCnt | indexCnt | stallTime | awinN | sinOfs | cosOfs | cosGain
  | amin | amax | amp | ampFaults | cmpctl | target | step | npulse | minsp | hits | skipped | hitCount | hitTime | list | listPos
deriving DecidableEq, Repr

/-- The objects by sub (R365). -/
def EncReg.table : List (Nat × EncReg) :=
  [(0x01, .encctl), (0x02, .encstat), (0x03, .count), (0x04, .speed), (0x05, .edgeTime), (0x06, .idxCount), (0x07, .idxTime), (0x08, .idxLoad),
   (0x09, .illegalCnt), (0x0A, .indexCnt), (0x0B, .stallTime), (0x10, .awinN), (0x11, .sinOfs), (0x12, .cosOfs), (0x13, .cosGain), (0x14, .amin),
   (0x15, .amax), (0x16, .amp), (0x17, .ampFaults), (0x20, .cmpctl), (0x21, .target), (0x22, .step), (0x23, .npulse), (0x24, .minsp), (0x25, .hits),
   (0x26, .skipped), (0x27, .hitCount), (0x28, .hitTime), (0x29, .list), (0x2A, .listPos)]

/-- What the table says of it (R365). -/
def EncReg.desc : EncReg → Desc
  | .encctl => .rw .bits32 1 | .encstat => .status | .count => .rw .u48 1 | .speed => .ro .s32 | .edgeTime => .ro .u64 | .idxCount => .ro .u48
  | .idxTime => .ro .u64 | .idxLoad => .rw .u48 1 4 | .illegalCnt => .ro .u32 | .indexCnt => .ro .u32 | .stallTime => (Desc.rw .u32 1).within 1 10000000
  | .awinN => (Desc.rw .u8 1).within 1 255 | .sinOfs => (Desc.rw .s24 1 4).within (-2048) 2047 | .cosOfs => (Desc.rw .s24 1 4).within (-2048) 2047
  | .cosGain => (Desc.rw .u24 1 4).within 0x2000 0x8000 | .amin => (Desc.rw .u24 1).within 1638 6553 | .amax => (Desc.rw .u24 1).within 1638 6553
  | .amp => .ro .u24 | .ampFaults => .ro .u32 | .cmpctl => .rw .bits32 1 | .target => .rw .u48 1 | .step => .rw .s32 1 4 | .npulse => .rw .u32 1 4
  | .minsp => (Desc.rw .u32 1 4).within 1 1048575 | .hits => .ro .u48 | .skipped => .ro .u32 | .hitCount => .ro .u48 | .hitTime => .ro .u64
  | .list => (Desc.rw .blob 1).long 4096 | .listPos => .ro .u32

/-- ENCSTAT (R367). -/
def Enc.stat (e : Enc) : Word :=
  flagBit 31 e.posValid ||| flagBit 30 e.standstill ||| flagBit 29 e.dirRev ||| flagBit 28 e.illegal ||| flagBit 27 e.ampFault ||| flagBit 26 e.ampOut
  ||| flagBit 25 e.overspeed ||| flagBit 24 e.speedClip ||| flagBit 23 e.indexSeen

/-- CMPCTL (R368). -/
def Cmp.word (c : Cmp) : Word :=
  (c.ctl &&& maskOf 30 26) ||| flagBit 31 c.arm ||| flagBit 25 c.late ||| flagBit 24 c.missed ||| flagBit 23 c.done ||| flagBit 22 c.held

/-- What an object reads. -/
def EncReg.read (s : State) (n : Fin 16) (r : EncReg) : Val :=
  let e := s.encs[n]
  let c := e.cmp
  match r with
  | .encctl => bv ((e.ctl &&& ~~~ (maskOf 19 18 ||| maskOf 11 10)) ||| flagBit 19 e.idxArm) | .encstat => bv e.stat | .count => bv e.count
  | .speed => .num (ofSigned 32 (e.speedOf s.coreTime).1) | .edgeTime => bv e.edgeTime | .idxCount => bv e.idxCount | .idxTime => bv e.idxTime
  | .idxLoad => bv e.idxLoad | .illegalCnt => bv e.illegalCnt | .indexCnt => bv e.indexCnt | .stallTime => bv e.stallTime | .awinN => bv e.awinN
  | .sinOfs => bv e.sinOfs | .cosOfs => bv e.cosOfs | .cosGain => bv e.cosGain | .amin => bv e.amin | .amax => bv e.amax | .amp => bv e.amp
  | .ampFaults => bv e.ampFaults | .cmpctl => bv c.word | .target => bv c.target | .step => bv c.step | .npulse => bv c.npulse | .minsp => bv c.minsp
  | .hits => bv c.hits | .skipped => bv c.skipped | .hitCount => bv c.hitCount | .hitTime => bv c.hitTime
  | .list => .bytes (c.list.flatMap fun w => leBytes 4 w.toNat) | .listPos => bv c.listPos

/-- STEP's sign disagrees with DIR, or STEP is 0 (R360). -/
def stepBad (rev : Bool) (step : Int) : Bool := decide (step = 0) || (decide (step < 0) != rev)

/-- The checks of ARM = 1 (R369), the configuration bits as they would be. -/
def armRefused (e : Enc) (cfg : Word) : Status :=
  let lock := maskOf 30 27
  firstRefusal
    [(e.cmp.arm && (cfg &&& lock) != (e.cmp.ctl &&& lock), .state), (bitAt cfg 28 && stepBad (bitAt cfg 30) (toSigned 32 e.cmp.step.toNat), .range),
     (bitAt cfg 27 && e.cmp.list.isEmpty, .state), (! e.en, .state)]

/-- Its own checks (R353, R363, R364, R369, R642). -/
def EncReg.check (e : Enc) (n : Fin 16) (r : EncReg) (v : Val) : Status :=
  let w := v.word
  match r with
  | .encctl =>
    let mode := fld w 30 28
    let gate := fld w 22 20
    firstRefusal
      [(e.en && decide (mode ≠ e.mode), .state),
       (decide (6 ≤ mode) || (mode == 5 && decide (8 ≤ n.1)) || decide (5 ≤ gate) || (decide (gate ≠ 0) && (mode == 3 || mode == 4)), .range)]
  | .amin => firstRefusal [(decide (e.amax.toNat ≤ v.toNat), .range)]
  | .amax => firstRefusal [(decide (v.toNat ≤ e.amin.toNat), .range)]
  | .cmpctl =>
    if bitAt w 31 then armRefused e w
    else firstRefusal [(e.cmp.arm && (w &&& maskOf 30 27) != (e.cmp.ctl &&& maskOf 30 27), .state)]
  | .step => firstRefusal [(e.cmp.arm && bitAt e.cmp.ctl 28 && stepBad (bitAt e.cmp.ctl 30) (toSigned 32 v.toNat), .range)]
  | .list => firstRefusal [(e.cmp.arm, .state), (decide (v.toBytes.length % 4 ≠ 0) || decide (4096 < v.toBytes.length), .type)]
  | _ => .ok

/-- A byte string as 32-bit words. -/
def wordsLe : List Byte → List Word
  | a :: b :: c :: d :: r => BitVec.ofNat 32 (ofLe [a, b, c, d]) :: wordsLe r
  | _ => []

/-- A channel starts counting from the present levels (R340, R346, R356). DEDUCED, log entry 48. -/
def Enc.start (e : Enc) : Enc :=
  let e := { e with phase := none, run := [], runLen := 0, outRun := 0, inRun := [] }
  { e with g := e.gate }

/-- What an accepted write does. DEDUCED, log entry 48. -/
def EncReg.write (n : Fin 16) (r : EncReg) (v : Val) (s : State) : State :=
  let w := v.word
  let e := s.encs[n]
  match r with
  | .encctl =>
    let s := s.updEnc n fun e => { e with ctl := w &&& (maskOf 31 20 ||| maskOf 17 12 ||| maskOf 9 0), idxArm := e.idxArm || bitAt w 19 }
    let s := if bitAt w 31 then s.updEnc n Enc.start else s.updEnc n fun e => { e with posValid := false }
    s.updEnc n fun e => { e with speedClip := e.speedClip || (e.speedOf s.coreTime).2 }
  | .encstat => s.updEnc n fun e =>
      { e with illegal := keepSticky e.illegal (bitAt w 28), ampFault := keepSticky e.ampFault (bitAt w 27), overspeed := keepSticky e.overspeed (bitAt w 25)
               speedClip := keepSticky e.speedClip (bitAt w 24), indexSeen := keepSticky e.indexSeen (bitAt w 23) }
  | .count => loadCount n (BitVec.ofNat 48 v.toNat) s
  | .idxLoad => s.updEnc n fun e => { e with idxLoad := BitVec.ofNat 48 v.toNat }
  | .stallTime => s.updEnc n fun e => { e with stallTime := w }
  | .awinN => s.updEnc n fun e => { e with awinN := BitVec.ofNat 8 v.toNat }
  | .sinOfs => s.updEnc n fun e => { e with sinOfs := BitVec.ofNat 24 v.toNat }
  | .cosOfs => s.updEnc n fun e => { e with cosOfs := BitVec.ofNat 24 v.toNat }
  | .cosGain => s.updEnc n fun e => { e with cosGain := BitVec.ofNat 24 v.toNat }
  | .amin => s.updEnc n fun e => { e with amin := BitVec.ofNat 24 v.toNat }
  | .amax => s.updEnc n fun e => { e with amax := BitVec.ofNat 24 v.toNat }
  | .cmpctl =>
    let s := updCmp n (fun c => { c with ctl := w &&& maskOf 30 26, late := keepSticky c.late (bitAt w 25), missed := keepSticky c.missed (bitAt w 24) }) s
    if bitAt w 31 then cmpArm n s else updCmp n (fun c => { c with arm := false }) s
  | .target =>
    let s := updCmp n (fun c => { c with target := BitVec.ofNat 48 v.toNat }) s
    if e.cmp.arm then cmpTest n s else s
  | .step => updCmp n (fun c => { c with step := w }) s
  | .npulse => updCmp n (fun c => { c with npulse := w }) s
  | .minsp => updCmp n (fun c => { c with minsp := w }) s
  | .list => updCmp n (fun c => { c with list := wordsLe v.toBytes }) s
  | _ => s

/-- A level-3 reset of a channel: the configuration objects of R365 and the input levels stay. -/
def Enc.reset (e : Enc) : Enc :=
  ({ ({} : Enc) with
     ctl := e.ctl, idxArm := e.idxArm, idxLoad := e.idxLoad, stallTime := e.stallTime, awinN := e.awinN, sinOfs := e.sinOfs, cosOfs := e.cosOfs, cosGain := e.cosGain
     amin := e.amin, amax := e.amax, a := e.a, b := e.b, i := e.i
     cmp := { ctl := e.cmp.ctl, target := e.cmp.target, step := e.cmp.step, npulse := e.cmp.npulse, minsp := e.cmp.minsp, list := e.cmp.list } } : Enc).start

/-! ### Commands -/

/-- ENC_EDGE (R342). -/
def execEncEdge (n : Fin 16) (a b : Bool) (s : State) : Host.Outcome State Fault Refusal := .next (encEdge n a b s)

/-- ENC_INDEX (R348). -/
def execEncIndex (n : Fin 16) (level : Bool) (s : State) : Host.Outcome State Fault Refusal := .next (encIndex n level s)

/-- ANALOG_SAMPLE (R352). -/
def execAnalogSample (n : Fin 16) (sn cs : Int) (s : State) : Host.Outcome State Fault Refusal := .next (analogSample n sn cs s)

/-- HELD_HIT_PUBLISH (R361). DEDUCED, log entry 7. -/
def execHeldHitPublish (n : Fin 16) (s : State) : Host.Outcome State Fault Refusal := .next (heldPublish n s)

/-- ENC_STANDSTILL (R357). -/
def execEncStandstill (n : Fin 16) (s : State) : Host.Outcome State Fault Refusal :=
  .next (if inReset (.enc n) s then s else s.updEnc n fun e => { e with standstill := true })

/-- CMP_ARM_TASK (R369, R419). -/
def execCmpArmTask (n : Fin 16) (s : State) : Host.Outcome State Fault Refusal :=
  .next (performTask (.cmpArm n) (fun s => if armRefused s.encs[n] s.encs[n].cmp.ctl = .ok ∧ ¬ inReset (.enc n) s then some (cmpArm n s) else none) s)

/-- CMP_DISARM_TASK (R363, R419). -/
def execCmpDisarmTask (n : Fin 16) (s : State) : Host.Outcome State Fault Refusal :=
  .next (performTask (.cmpDisarm n) (fun s => if inReset (.enc n) s then none else some (updCmp n (fun c => { c with arm := false }) s)) s)

/-- IDX_ARM_TASK (R348, R419). -/
def execIdxArmTask (n : Fin 16) (s : State) : Host.Outcome State Fault Refusal :=
  .next (performTask (.idxArm n) (fun s => if inReset (.enc n) s then none else some (s.updEnc n fun e => { e with idxArm := true })) s)

end Sys2Proof.Machine
end

