-- ==== Sys2Proof/Machine/Dma.lean ====
section
/-! DEFINITION. The DMA channels (chapter 15): program words, steps and their requests, completion and order, taking and
releasing packets, bad steps, halts, start and stop. -/

namespace Sys2Proof.Machine

open Sys2Proof

/-! ### Causes and halts -/

/-- A cause set in INTSTAT; the vector is sent once in a core clock when INTMASK lets it through (R487). DEDUCED, log entry 61. -/
def dmaCause (c : Fin 512) (bit : Nat) (s : State) : State :=
  let d := s.dma[c]
  let s := s.updDma c fun d => { d with intstat := d.intstat ||| BitVec.ofNat 5 (2 ^ bit) }
  if bitAt d.intmask bit && d.msgAt != some s.coreTime then channelVector c (s.updDma c fun d => { d with msgAt := some s.coreTime }) else s

/-- The channel halts (R488). -/
def dmaHalt (c : Fin 512) (h : Halt) (pc : Nat) (s : State) : State :=
  publish (0x1A00 + c.1) (dmaCause c 3 (s.updDma c fun d =>
    { d with state := .halted, halt := some h, pc := BitVec.ofNat 32 pc, wait := none, fence := none, prefetch := [], fetchOut := false, fetchBad := false }))

/-- A step marked bad for the first time (R486). -/
def dmaBad (c : Fin 512) (pc opc : Nat) (cause : BadCause) (addr : Nat) (s : State) : State :=
  dmaCause c 2 (s.updDma c fun d =>
    { d with badsteps := satInc d.badsteps
             badlog := (({ pc := BitVec.ofNat 32 pc, cause := cause, op := opc, addr := BitVec.ofNat 64 addr } : BadEntry) :: d.badlog).take 16 })

/-- A flight marked bad: only the first cause of a step counts (R486). -/
def Flight.mark (f : Flight) (c : Fin 512) (cause : BadCause) (addr : Nat) (s : State) : Flight × State :=
  if f.bad then (f, s) else ({ f with bad := true }, dmaBad c f.pc f.opc cause addr s)

/-! ### Spaces -/

/-- The space of a code (R465). -/
def Space.ofCode : Nat → Option Space
  | 0 => some .host | 1 => some .packet | 2 => some .pstore | 3 => some .map | 4 => some .smap | _ => none

/-- The function that owns a channel may issue requests (R502, R508). -/
def hostUp (c : Fin 512) (s : State) : Bool :=
  let (l, g) := pairOwner s c
  let k := s.host.links[l]
  k.up && k.fns[g].busMaster && ! k.fns[g].d3

/-- The packet that a channel has taken. -/
def takenPacket (s : State) (c : Fin 512) : Option Packet :=
  match s.dma[c].taken with
  | some t => s.qm.queues[t.q].packets.head?
  | none => none

/-- Why an access to a space cannot be made at all, none when it can (R465, R482, R483, R486, R502, R508). -/
def extentBad (c : Fin 512) (sp : Space) (a k : Nat) (s : State) : Option BadCause :=
  match sp with
  | .host => if 2 ^ 64 < a + k then some .range else if hostUp c s then none else some .internal
  | .packet => match takenPacket s c with
    | some p => if p.bytes < a + k then some .range else none
    | none => some .noPkt
  | .pstore => if 2 ^ 20 < a + k then some .range else none
  | .map => if 2 ^ 28 < a + k then some .range else none
  | .smap => if mapAreaBytes s < a + k then some .range else none

/-- The extent of an access through A_n lies within its ring (R466). -/
def Dma.inRing (d : Dma) (n : Fin 8) (a k : Nat) : Bool :=
  d.limit[n] == 0 || (decide (d.base[n].toNat ≤ a) && decide (a + k ≤ d.limit[n].toNat))

/-- A_n advanced by its stride, or by the bytes stated (R466). -/
def Dma.advance (d : Dma) (n : Fin 8) (k : Nat) : Dma :=
  let v := d.a[n].toNat + (if d.stride[n] = 0 then k else d.stride[n].toNat)
  let v : Int := if d.limit[n] ≠ 0 ∧ d.limit[n].toNat ≤ v then v - ((d.limit[n].toNat : Int) - d.base[n].toNat) else v
  { d with a := d.a.set n.1 (BitVec.ofInt 64 v) n.2 }

/-- The cells of a chain with the byte of the packet at which each starts. -/
def cellSpans : Nat → List PCell → List (Nat × PCell)
  | _, [] => []
  | o, x :: r => (o, x) :: cellSpans (o + cellBytes x.index) r

/-- The cells that bytes a to a + k - 1 of a packet lie in. -/
def cellsHit (p : Packet) (a k : Nat) : List (Nat × PCell) :=
  (cellSpans 0 p.cells).filter fun x => decide (x.1 < a + k) && decide (a < x.1 + cellBytes x.2.index)

/-- A cell is delivered poisoned: an uncorrectable word, or a stall-store cell on a channel out of service (R453, R526). DEDUCED, log entry 58. -/
def cellPoisoned (s : State) (x : PCell) : Bool := x.poison || (decide (onDieCells ≤ x.index) && stallDead s (cellByte s x.index) 512)

/-- The poisoned read of a packet's cells, counted and logged once per packet (R453). -/
def poisonRead (q : Fin 512) (cells : List PCell) (s : State) : State :=
  let k := s.qm.queues[q]
  let s := s.updQueue q fun k =>
    { k with ecc := true, eccUncorr := satAdd k.eccUncorr cells.length
             packets := match k.packets with
               | p :: r => { p with logged := true, cells := p.cells.map fun x => if cells.contains x then { x with poison := true } else x } :: r
               | [] => [] }
  match k.packets.head?, cells.head? with
  | some p, some x => if p.logged then s else fault 0x0201 1 .queue q.1 x.index s
  | _, _ => s

/-- Bytes read for a step from a space inside the device, with the places of poisoned bytes (R453, R486). A packet that is no
longer the one taken gives bytes that nothing fixes. DESIGN CHOICE, log entry 63. -/
def readInside (c : Fin 512) (sp : Space) (take : Option Nat) (a k : Nat) (s : State) : (List Byte × List Nat) × State :=
  match sp with
  | .pstore => ((s.pstore.read a k, s.pstore.badPlaces a k), s)
  | .map => ((s.mapStore.read a k, s.mapStore.badPlaces a k), s)
  | .smap => ((s.host.smap.read a k, s.host.smap.badPlaces a k), s)
  | .host => (([], []), s)
  | .packet =>
    match s.dma[c].taken, takenPacket s c with
    | some t, some p =>
      if take = some t.no then
        let hit := (cellsHit p a k).filter fun x => cellPoisoned s x.2
        let bad := (List.range k).filter fun i => hit.any fun x => decide (x.1 ≤ a + i) && decide (a + i < x.1 + cellBytes x.2.index)
        ((slice p.data a k, bad), if hit.isEmpty then s else poisonRead t.q (hit.map (·.2)) s)
      else let (bs, s) := freeBytes k s; ((bs, []), s)
    | _, _ => let (bs, s) := freeBytes k s; ((bs, []), s)

/-- An access inside the device that its block answers with an error: a stall-store channel out of service (R526). -/
def insideDead (sp : Space) (a k : Nat) (s : State) : Bool := sp == .smap && stallDead s (cellPartition s + a) k

/-- Bytes written by a step into a space inside the device (R478, R486). DEDUCED, log entry 64. -/
def writeInside (sp : Space) (a : Nat) (bs : List Byte) (bad : List Nat) (s : State) : State :=
  match sp with
  | .pstore => { s with pstore := s.pstore.write a bs bad }
  | .map => { s with mapStore := s.mapStore.write a bs bad }
  | .smap => s.updHost fun h => { h with smap := h.smap.write a bs bad }
  | _ => s

/-! ### Requests -/

/-- The longest part of an access from a that one packet of at most m bytes carries (R507). -/
def pcieChunk (m a k : Nat) : Nat := min k (min (max m 1) (4096 - a % 4096))

/-- The parts that an access is split into (R507). -/
def pcieSplit (m : Nat) : Nat → Nat → Nat → List (Nat × Nat)
  | 0, _, _ => []
  | fuel + 1, a, k => if k = 0 then [] else (a, pcieChunk m a k) :: pcieSplit m fuel (a + pcieChunk m a k) (k - pcieChunk m a k)

/-- The PCIe function of a channel. -/
def ownerFn (s : State) (c : Fin 512) : Fn := let (l, g) := pairOwner s c; s.host.links[l].fns[g]

/-- HOST reads of a range sent (R507). -/
def sendReads (c : Fin 512) (a k : Nat) (s : State) : State :=
  let (l, g) := pairOwner s c
  (pcieSplit (ownerFn s c).mrrs k a k).foldl (fun s x => s.send (.hostRead l g x.1 x.2)) s

/-- HOST writes of bytes sent in ascending order, a part with poisoned bytes carrying EP (R479, R486, R507). -/
def sendWrites (c : Fin 512) (a : Nat) (bs : List Byte) (bad : List Nat) (s : State) : State :=
  let (l, g) := pairOwner s c
  (pcieSplit (ownerFn s c).mps bs.length a bs.length).foldl
    (fun s x => s.send (.hostWrite l g x.1 (slice bs (x.1 - a) x.2) (bad.any fun i => decide (x.1 - a ≤ i) && decide (i < x.1 - a + x.2)))) s

/-- A request has been issued for the piece and has not been answered. -/
def Piece.asked (p : Piece) : Bool := p.st == .table || p.st == .read

/-- The piece waits to be issued. -/
def Piece.unissued (p : Piece) : Bool := p.st == .tabWait || p.st == .wait

/-- The space that a piece's next or outstanding request goes to. -/
def Flight.space (f : Flight) (p : Piece) : Space := if p.st == .table || p.st == .tabWait then f.tsp else f.ssp

/-- Read requests a channel has outstanding (R478). -/
def Dma.asked (d : Dma) : Nat := (d.flights.map fun f => (f.pieces.filter Piece.asked).length).sum

/-- HOST read requests outstanding on a link, program fetches among them (R506). -/
def linkAsked (l : Fin 4) (s : State) : Nat :=
  ((List.finRange 512).map fun c =>
    let d := s.dma[c]
    if (d.flights.isEmpty && ! d.fetchOut) || (pairOwner s c).1 != l then 0
    else (d.flights.map fun f => (f.pieces.filter fun p => p.asked && f.space p == .host).length).sum + (if d.fetchOut then 1 else 0)).sum

/-- The limit of R506 for a channel. DEDUCED, log entry 68. -/
def tagLimit (c : Fin 512) (s : State) : Nat :=
  let f := ownerFn s c
  let narrow := (atNat s.host.bifNow ((pairOwner s c).1.1 / 2)).getD false
  if f.tag14 then (if narrow then 2048 else 4096) else if f.tag10 then 768 else 256

/-- Bytes a to a + k - 1 of a space of channel c lie in the stall store: the map area, or stall-store cells of its packet (R33, R423). -/
def inStallStore (s : State) (c : Fin 512) (sp : Space) (a k : Nat) : Bool :=
  match sp with
  | .smap => true
  | .packet => match takenPacket s c with
    | some p => (cellsHit p a k).any fun x => decide (onDieCells ≤ x.2.index)
    | none => false
  | _ => false

/-- The place and length of a piece's next or outstanding request. -/
def Piece.reads (p : Piece) : Nat × Nat := if p.st == .table || p.st == .tabWait then (p.tab, 4) else (p.src, p.len)

/-- The stall-store reads outstanding, of every channel: the map area and stall-store cells. A write is answered in the step that makes it, so
none is outstanding (R33, R506). DEDUCED, log entry 68. -/
def stallAsked (s : State) : Nat :=
  ((List.finRange 512).map fun c =>
    let d := s.dma[c]
    if d.flights.isEmpty then 0
    else (d.flights.map fun f => (f.pieces.filter fun p => p.asked && inStallStore s c (f.space p) p.reads.1 p.reads.2).length).sum).sum

/-- A request of a channel to a space may be issued now (R478, R506). DEDUCED, log entry 68. -/
def mayIssue (c : Fin 512) (sp : Space) (a k : Nat) (s : State) : Bool :=
  decide (s.dma[c].asked < s.dma[c].maxreq.toNat)
  && (sp != .host || decide (linkAsked (pairOwner s c).1 s < tagLimit c s)) && (! inStallStore s c sp a k || decide (stallAsked s < 2048))

/-- The first piece that waits to be issued, with the flights around its own and the pieces around it. -/
def splitFlights : List Flight → Option (List Flight × Flight × List Piece × Piece × List Piece × List Flight)
  | [] => none
  | f :: r =>
    match f.pieces.dropWhile (! ·.unissued) with
    | p :: ps => some ([], f, f.pieces.takeWhile (! ·.unissued), p, ps, r)
    | [] => (splitFlights r).map fun (a, x) => (f :: a, x)

/-- One request of channel c issued: the state after, none when nothing can be issued. -/
def issueOne (c : Fin 512) (s : State) : Option State :=
  match splitFlights s.dma[c].flights with
  | none => none
  | some (fs, f, before, p, after, rest) =>
    let sp := f.space p
    let put := fun (f : Flight) (ps : List Piece) (s : State) => s.updDma c fun d => { d with flights := fs ++ { f with pieces := before ++ ps ++ after } :: rest }
    if sp == .host && ! hostUp c s then
      let (f, s) := f.mark c .internal (if p.st == .tabWait then p.tab else p.src) s
      some (put f [{ p with st := .done }] s)
    else if ! mayIssue c sp p.reads.1 p.reads.2 s then none
    else
      let id := s.dma[c].nextId
      let s := s.updDma c fun d => { d with nextId := d.nextId + 1 }
      if p.st == .tabWait then
        some (put f [{ p with id := id, st := .table }] (if sp == .host then sendReads c p.tab 4 s else s))
      else
        let n := if f.op != .move then p.len else pcieChunk (if sp == .host then (ownerFn s c).mrrs else 4096) p.src p.len
        let ps := { p with id := id, st := .read, len := n }
          :: (if n < p.len then [{ p with st := .wait, src := p.src + n, dst := p.dst + n, len := p.len - n }] else [])
        some (put f ps (if sp == .host then sendReads c p.src n s else s))

/-- A channel's PRIO (R497). -/
def Dma.prio (d : Dma) : Nat := fld d.ctl 27 26

/-- The channels of a class that wait to issue, in round-robin order from the one after the last served (R497, R506). -/
def waitingChannels (cls : Fin 4) (s : State) : List (Fin 512) :=
  let l := (List.finRange 512).filter fun c => s.dma[c].prio == cls.1 && s.dma[c].flights.any fun f => f.pieces.any Piece.unissued
  l.filter (fun c => decide (s.host.served[cls] < c.1)) ++ l.filter fun c => decide (c.1 ≤ s.host.served[cls])

/-- One round of a class: each waiting channel issues one request if it can; whether any did. -/
def issueRound (cls : Fin 4) (s : State) : Bool × State :=
  (waitingChannels cls s).foldl (fun (b, s) c =>
    match issueOne c s with
    | some s' => (true, s'.updHost fun h => { h with served := h.served.set cls.1 c.1 cls.2 })
    | none => (b, s)) (false, s)

/-- Rounds of a class until none issues. -/
def issueClass (cls : Fin 4) : Nat → State → State
  | 0, s => s
  | fuel + 1, s =>
    match issueRound cls s with
    | (true, s') => issueClass cls fuel s'
    | (false, _) => s

/-- Every request that can be issued is issued, strictly by class (R497, R506). DEDUCED, log entry 68. -/
def issueAll (s : State) : State :=
  let fuel := ((List.finRange 512).map fun c =>
    if s.dma[c].flights.isEmpty then 0 else s.dma[c].maxreq.toNat + (s.dma[c].flights.map (·.pieces.length)).sum).sum
  issueClass 0 fuel (issueClass 1 fuel (issueClass 2 fuel (issueClass 3 fuel s)))

/-! ### Writes and completion -/

/-- The pieces of a flight whose data have come write: HOST writes leave in order while nothing before them is missing, writes
inside the device wait for their acknowledgement (R478, R479). -/
def writePieces (c : Fin 512) : List Piece → Flight → Bool → State → List Piece × Flight × Bool × State
  | [], f, ord, s => ([], f, ord, s)
  | p :: ps, f, ord, s =>
    match p.st with
    | .done => writePieces c ps f ord s
    | .ready bs bad =>
      if f.dsp == .host then
        if ord then
          if hostUp c s then writePieces c ps { f with bytes := f.bytes + bs.length } true (sendWrites c p.dst bs bad s)
          else let (f, s) := f.mark c .internal p.dst s; writePieces c ps f true s
        else let (qs, f, _, s) := writePieces c ps f false s; (p :: qs, f, false, s)
      else
        let id := s.dma[c].nextId
        let s := s.updDma c fun d => { d with nextId := d.nextId + 1 }
        let (qs, f, ord, s) := writePieces c ps f ord s
        ({ p with id := id, st := .ack bs bad } :: qs, f, ord, s)
    | _ =>
      let (qs, f, ord, s) := writePieces c ps f (ord && (f.op != .move || f.dsp != .host)) s
      (p :: qs, f, ord, s)

/-- Every flight of a list writes what it can, oldest first. -/
def writeFlights (c : Fin 512) : List Flight → Bool → State → List Flight × State
  | [], _, s => ([], s)
  | f :: fs, ord, s =>
    let (ps, f, ord, s) := writePieces c f.pieces f ord s
    let (gs, s) := writeFlights c fs ord s
    ({ f with pieces := ps } :: gs, s)

/-- Every write of the channel that can leave leaves. -/
def writeAll (c : Fin 512) (s : State) : State :=
  let (fs, s) := writeFlights c s.dma[c].flights true s
  s.updDma c fun d => { d with flights := fs }

/-- A step asks for its packet's release (R484). DEDUCED, log entry 62. -/
def releaseTaken (c : Fin 512) (next : Nat) (s : State) : State :=
  match s.dma[c].taken with
  | none => s
  | some t =>
    if t.bad then
      let s := s.updDma c fun d => { d with taken := some { t with failures := t.failures + 1, bad := false } }
      let d := s.dma[c]
      if d.retryMax.toNat ≤ t.failures + 1 && (d.state == .running || d.state == .waiting || d.state == .fencing) then dmaHalt c .pktFault next s else s
    else releasePacket t.q (s.updDma c fun d => { d with taken := none, released := satInc d.released })

/-- A step completes (R478, R481, R484). DEDUCED, log entry 62. -/
def completeStep (c : Fin 512) (f : Flight) (s : State) : State :=
  let s := s.updDma c fun d =>
    { d with bytes := satAdd d.bytes f.bytes
             taken := d.taken.map fun t => if f.bad && f.take == some t.no then { t with bad := true } else t }
  let s := if f.eoc then publish (0x1800 + c.1) (dmaCause c 0 s) else s
  if f.release then releaseTaken c (f.pc + f.words) s else s

/-- Steps retire in program order while the oldest is complete (R478). -/
def retire (c : Fin 512) : Nat → State → State
  | 0, s => s
  | fuel + 1, s =>
    match s.dma[c].flights with
    | f :: fs => if f.pieces.isEmpty then retire c fuel (completeStep c f (s.updDma c fun d => { d with flights := fs })) else s
    | [] => s

/-- SIGNAL acts: its message, its publish, its record (R475). -/
def signalActs (c : Fin 512) (w : BitVec 64) (pc : Nat) (s : State) : State :=
  let s := s.updDma c fun d => { d with signals := satInc d.signals }
  let s := if bitAt w 59 then dmaCause c 1 s else s
  let s := if bitAt w 58 then publish (0x1600 + c.1) s else s
  if ! bitAt w 57 then s
  else
    let n : Fin 8 := Fin.ofNat 8 (fld w 56 54)
    let d := s.dma[c]
    let a := d.a[n].toNat
    let rec16 := leBytes 4 (fld w 31 0) ++ leBytes 4 d.signals.toNat ++ leBytes 4 d.badsteps.toNat ++ leBytes 4 pc
    let s := match (if d.inRing n a 16 then extentBad c .host a 16 s else some .range) with
      | none => (sendWrites c a rec16 [] s).updDma c fun d => { d with bytes := satAdd d.bytes 16 }
      | some cause => dmaBad c pc 7 cause a s
    if bitAt w 53 then s.updDma c fun d => d.advance n 16 else s

/-- What the channel fences for happens once every earlier step has completed (R475 to R477). -/
def fenceActs (c : Fin 512) (s : State) : State :=
  let d := s.dma[c]
  if ! d.flights.isEmpty then s
  else
    let on := fun (s : State) => s.updDma c fun d => { d with fence := none, state := if d.state == .fencing then .running else d.state }
    match d.fence with
    | none => s
    | some (.fence _ none) => on s
    | some (.fence pc (some n)) =>
      let a := d.a[n].toNat
      match (if d.inRing n a 4 then extentBad c .host a 4 s else some .range) with
      | some cause => on (dmaBad c pc 8 cause a s)
      | none =>
        s.updDma c fun d =>
          { d with fence := some (.fence pc none)
                   flights := [{ pc := pc, words := 1, opc := 8, op := .flush, pieces := [{ id := 0, st := .wait, src := a, tab := 0, len := 4, dst := 0 }] }] }
    | some (.signal w pc) => on (signalActs c w pc s)
    | some .end_ =>
      publish (0x1A00 + c.1) (dmaCause c 4 (s.updDma c fun d => { d with fence := none, state := if d.state == .fencing then .done else d.state }))

/-! ### Program words -/

/-- The program lies in HOST (R491). -/
def Dma.hostProgram (d : Dma) : Bool := fld d.ctl 25 24 == 1

/-- Program word PC + i, if the channel has it (R491). -/
def programWord (c : Fin 512) (i : Nat) (s : State) : Option (BitVec 64) :=
  let d := s.dma[c]
  if d.hostProgram then d.prefetch[i]?
  else
    let a := d.pbaseNow.toNat + 8 * (d.pc.toNat + i)
    if a + 8 ≤ 2 ^ 20 && ! s.pstore.poisoned a 8 then some (BitVec.ofNat 64 (s.pstore.num a 8)) else none

/-- The word will not come: it lies beyond PSTORE or is uncorrectable, or its fetch failed (R488). DEDUCED, log entry 65. -/
def wordLost (c : Fin 512) (i : Nat) (s : State) : Bool := (programWord c i s).isNone && (! s.dma[c].hostProgram || s.dma[c].fetchBad)

/-- The channel has something to wait for before it goes on: bytes not yet requested, those behind a table entry that has not come among
them, or a read that it needs (R471, R478). -/
def Dma.blocked (d : Dma) : Bool :=
  d.flights.any fun f => (f.pieces.any fun p => p.unissued || p.st == .table) || (f.op != .move && ! f.pieces.isEmpty)

/-- The prefetch is refilled, and a word that will not come halts the channel when it is needed (R488, R491). DEDUCED, log entry 65. -/
def fetchMore (c : Fin 512) (s : State) : State :=
  let d := s.dma[c]
  if d.state != .running then s
  else
    let s := if d.hostProgram && ! d.fetchOut && ! d.fetchBad && decide (d.prefetch.length < 16) then
        if hostUp c s then
          sendReads c ((d.pbaseNow.toNat + 8 * (d.pc.toNat + d.prefetch.length)) % 2 ^ 64) (8 * (16 - d.prefetch.length)) (s.updDma c fun d => { d with fetchOut := true })
        else s.updDma c fun d => { d with fetchBad := true }
      else s
    if ! d.blocked && wordLost c 0 s then dmaHalt c .fetch d.pc.toNat s else s

/-- The channel after an event: writes leave, requests issue, steps retire, a fence ends, words are fetched. -/
def dmaSettle (c : Fin 512) (s : State) : State :=
  let s := writeAll c (issueAll (writeAll c s))
  let s := fenceActs c (retire c s.dma[c].flights.length s)
  fetchMore c (issueAll s)

/-! ### Instructions -/

/-- The fields of an instruction are not allowed (R465 to R474, R513). -/
def illegalWords (vf : Bool) (w0 w1 : BitVec 64) : Bool :=
  let space := fun (x : Nat) => decide (4 < x) || (vf && decide (2 ≤ x))
  let ssp := fld w0 59 57
  let dsp := fld w0 56 54
  match fld w0 63 60 with
  | 0x1 => space ssp || space dsp || dsp == 1 || (bitAt w0 47 && ssp != 1) || (! bitAt w0 47 && fld w0 31 0 == 0)
  | 0x2 => space ssp || space dsp || dsp == 1 || space (fld w0 47 45) || fld w0 31 0 == 0 || fld w1 31 0 == 0
  | 0x3 => space dsp || dsp == 1 || fld w0 31 0 == 0
  | 0x4 => space ssp || decide (4 ≤ fld w0 50 48)
  | 0x6 => decide (4 ≤ fld w0 59 57)
  | 0x9 => fld w0 59 58 == 3
  | n => decide (0xA ≤ n)

/-- Words of an instruction (R467). -/
def wordCount (opc : Nat) : Nat := if 2 ≤ opc ∧ opc ≤ 4 then 2 else 1

/-- A space code that is known to be allowed. -/
def spaceOf (n : Nat) : Space := (Space.ofCode n).getD .host

/-- The number of the take whose packet a step reads. -/
def takeFor (d : Dma) (reads : Bool) : Option Nat := if reads then d.taken.map (·.no) else none

/-- The first cause that keeps an operand from moving, with its address. -/
def firstBad : List (Nat × Option BadCause) → Option (BadCause × Nat)
  | [] => none
  | (a, some x) :: _ => some (x, a)
  | (_, none) :: r => firstBad r

/-- The cause, if any, that an access through A_n meets at issue. -/
def accessBad (c : Fin 512) (n : Fin 8) (sp : Space) (a k : Nat) (s : State) : Option BadCause :=
  if s.dma[c].inRing n a k then extentBad c sp a k s else some .range

/-- MOVE issued (R468, R483, R484, R486). -/
def dmaMove (c : Fin 512) (pc : Nat) (w : BitVec 64) (s : State) : State :=
  let d := s.dma[c]
  let sa : Fin 8 := Fin.ofNat 8 (fld w 53 51)
  let da : Fin 8 := Fin.ofNat 8 (fld w 50 48)
  let ssp := spaceOf (fld w 59 57)
  let dsp := spaceOf (fld w 56 54)
  let src := d.a[sa].toNat
  let dst := d.a[da].toNat
  let len := fld w 31 0
  let left := match takenPacket s c with
    | some p => p.bytes - src
    | none => len
  let short := bitAt w 47 && len != 0 && decide (len < left)
  let n := if bitAt w 47 && ! short then left else len
  let f : Flight := { pc := pc, words := 1, opc := 1, ssp := ssp, dsp := dsp, eoc := bitAt w 43, release := bitAt w 44, take := takeFor d (ssp == .packet) }
  let bad := if n = 0 then (if ssp == .packet && (takenPacket s c).isNone then some (BadCause.noPkt, src) else none)
    else firstBad [(src, accessBad c sa ssp src n s), (dst, accessBad c da dsp dst n s)]
  let (f, s) := if short && (takenPacket s c).isSome then f.mark c .short src s else (f, s)
  let (f, s) := match bad with
    | some (x, a) => f.mark c x a s
    | none => (f, s)
  let f := if bad.isNone && n ≠ 0 then { f with pieces := [{ id := 0, st := .wait, src := src, tab := 0, len := n, dst := dst }] } else f
  s.updDma c fun d =>
    let d := { d with flights := d.flights ++ [f] }
    let d := if bitAt w 46 then d.advance sa n else d
    if bitAt w 45 then d.advance da n else d

/-- The elements of a MOVEX: those whose table entry or destination is out of bounds are bad (R469). -/
def gatherPieces (c : Fin 512) (da ta : Fin 8) (dst tab size : Nat) : Nat → Nat → Flight → State → List Piece × Flight × State
  | 0, _, f, s => ([], f, s)
  | k + 1, i, f, s =>
    let a := tab + 4 * i
    let t := dst + i * size
    match firstBad [(a, accessBad c ta f.tsp a 4 s), (t, accessBad c da f.dsp t size s)] with
    | some (x, at_) => let (f, s) := f.mark c x at_ s; gatherPieces c da ta dst tab size k (i + 1) f s
    | none =>
      let (ps, f, s) := gatherPieces c da ta dst tab size k (i + 1) f s
      ({ id := 0, st := .tabWait, src := 0, tab := a, len := size, dst := t } :: ps, f, s)

/-- MOVEX issued (R469). -/
def dmaMovex (c : Fin 512) (pc : Nat) (w x : BitVec 64) (s : State) : State :=
  let d := s.dma[c]
  let sa : Fin 8 := Fin.ofNat 8 (fld w 53 51)
  let da : Fin 8 := Fin.ofNat 8 (fld w 50 48)
  let ta : Fin 8 := Fin.ofNat 8 (fld w 44 42)
  let count := fld w 31 0
  let size := fld x 31 0
  let ssp := spaceOf (fld w 59 57)
  let tsp := spaceOf (fld w 47 45)
  let f : Flight := { pc := pc, words := 2, opc := 2, ssp := ssp, dsp := spaceOf (fld w 56 54), tsp := tsp, base := d.a[sa].toNat
                      lo := d.base[sa].toNat, hi := d.limit[sa].toNat, eoc := bitAt w 39, release := bitAt w 38
                      take := takeFor d (ssp == .packet || tsp == .packet) }
  let (ps, f, s) := gatherPieces c da ta d.a[da].toNat d.a[ta].toNat size count 0 f s
  s.updDma c fun d =>
    let d := { d with flights := d.flights ++ [{ f with pieces := ps }] }
    let d := if bitAt w 41 then d.advance da (count * size) else d
    if bitAt w 40 then d.advance ta (4 * count) else d

/-- FILL issued (R470). -/
def dmaFill (c : Fin 512) (pc : Nat) (w x : BitVec 64) (s : State) : State :=
  let d := s.dma[c]
  let da : Fin 8 := Fin.ofNat 8 (fld w 50 48)
  let dsp := spaceOf (fld w 56 54)
  let dst := d.a[da].toNat
  let n := fld w 31 0
  let f : Flight := { pc := pc, words := 2, opc := 3, dsp := dsp, eoc := bitAt w 43 }
  let (f, s) := match accessBad c da dsp dst n s with
    | some cause => f.mark c cause dst s
    | none => ({ f with pieces := [{ id := 0, st := .ready ((List.range n).map fun j => BitVec.ofNat 8 (x.toNat >>> (8 * (j % 8)))) [], src := 0, tab := 0, len := n, dst := dst }] }, s)
  s.updDma c fun d =>
    let d := { d with flights := d.flights ++ [f] }
    if bitAt w 45 then d.advance da n else d

/-- CMP issued (R471). -/
def dmaCmp (c : Fin 512) (pc : Nat) (w x : BitVec 64) (s : State) : State :=
  let d := s.dma[c]
  let sa : Fin 8 := Fin.ofNat 8 (fld w 53 51)
  let ssp := spaceOf (fld w 59 57)
  let z : Int := (d.a[sa].toNat : Int) + toSigned 32 (fld w 31 0)
  let a := z.toNat
  let f : Flight := { pc := pc, words := 2, opc := 4, op := .cmp (fld w 50 48) (fld x 63 32) (fld x 31 0), ssp := ssp, take := takeFor d (ssp == .packet) }
  let cause := if z < 0 then some BadCause.range else accessBad c sa ssp a 4 s
  let (f, s) := match cause with
    | some y => f.mark c y (BitVec.ofInt 64 z).toNat s
    | none => ({ f with pieces := [{ id := 0, st := .wait, src := a, tab := 0, len := 4, dst := 0 }] }, s)
  s.updDma c fun d => { d with flights := d.flights ++ [f], z := if cause.isSome then false else d.z }

/-- A branch taken: the prefetch is discarded (R491). -/
def dmaBranch (c : Fin 512) (target : Nat) (s : State) : State :=
  s.updDma c fun d => { d with pc := BitVec.ofNat 32 target, prefetch := [], fetchOut := false, fetchBad := false }

/-- LOOP (R472). -/
def dmaLoop (c : Fin 512) (w : BitVec 64) (s : State) : State :=
  let n : Fin 4 := Fin.ofNat 4 (fld w 59 58)
  let count := fld w 55 32
  let target := fld w 31 0
  if count = 0 then dmaBranch c target s
  else
    let d := s.dma[c]
    let v := (if d.live[n] then d.c[n].toNat else count) - 1
    let s := s.updDma c fun d => { d with c := d.c.set n.1 (BitVec.ofNat 32 v) n.2, live := d.live.set n.1 (decide (0 < v)) n.2 }
    if 0 < v then dmaBranch c target s else s

/-- JUMP (R473). -/
def dmaJump (c : Fin 512) (w : BitVec 64) (s : State) : State :=
  let go := match fld w 59 58 with
    | 0 => true
    | 1 => s.dma[c].z
    | _ => ! s.dma[c].z
  if go then dmaBranch c (fld w 31 0) s else s

/-- The oldest packet of the channel's queue can be taken (R429, R454, R474). -/
def takable (c : Fin 512) (s : State) : Bool :=
  ! inReset .queues s && headWhole s.qm.queues[(Fin.ofNat 512 (fld s.dma[c].ctl 8 0) : Fin 512)]

/-- The packet at the head of the channel's queue is taken; a late take is a give-way (R482, R485). -/
def takePacket (c : Fin 512) (s : State) : State :=
  let d := s.dma[c]
  let q : Fin 512 := Fin.ofNat 512 (fld d.ctl 8 0)
  let late := match s.qm.queues[q].packets.head? with
    | some p => s.coreTime - p.at_
    | none => 0
  let s := s.updDma c fun d => { d with taken := some { q := q, no := d.takes, failures := 0, bad := false }, takes := d.takes + 1 }
  if d.latTgt ≠ 0 ∧ d.latTgt.toNat * clkUs < late then
    giveWay 0x0107 rung6 .queue q.1 (late / clkUs) (s.updDma c fun d => { d with latMiss := satInc d.latMiss })
  else s

/-- The condition of a WAIT holds (R474); TIME by the core clocks gone by. -/
def waitHolds (c : Fin 512) (w : BitVec 64) (since : Nat) (s : State) : Bool :=
  let d := s.dma[c]
  match fld w 59 57 with
  | 0 => d.taken.isSome || takable c s
  | 1 => d.woken
  | 2 => decide (fld w 31 0 ≤ d.doorbell.toNat)
  | _ => decide (since + fld w 31 0 ≤ s.coreTime)

/-- A WAIT whose condition holds consumes it and sets Z (R474). -/
def waitEnds (c : Fin 512) (w : BitVec 64) (s : State) : State :=
  let s := match fld w 59 57 with
    | 0 => if s.dma[c].taken.isSome then s else takePacket c s
    | 1 => s.updDma c fun d => { d with woken := false }
    | 2 => s.updDma c fun d => { d with doorbell := d.doorbell - BitVec.ofNat 32 (fld w 31 0) }
    | _ => s
  s.updDma c fun d => { d with z := true, wait := none, state := .running }

/-- WAIT (R474, R489). DEDUCED, log entry 62. -/
def dmaWait (c : Fin 512) (w : BitVec 64) (s : State) : State :=
  let s := s.updDma c fun d => { d with count := 0 }
  if waitHolds c w s.coreTime s then waitEnds c w s
  else s.updDma c fun d => { d with state := .waiting, wait := some (w, s.coreTime) }

/-- The channel enters Fencing (R475 to R477). -/
def dmaFencing (c : Fin 512) (f : Fence) (s : State) : State := s.updDma c fun d => { d with state := .fencing, fence := some f }

/-- SIGNAL (R475, R489). -/
def dmaSignal (c : Fin 512) (pc : Nat) (w : BitVec 64) (s : State) : State :=
  dmaFencing c (.signal w pc) (s.updDma c fun d => { d with count := 0 })

/-- FENCE (R476). -/
def dmaFence (c : Fin 512) (pc : Nat) (w : BitVec 64) (s : State) : State :=
  dmaFencing c (.fence pc (if bitAt w 59 then some (Fin.ofNat 8 (fld w 58 56)) else none)) s

/-- What an instruction does, its word fetched and its fields allowed. -/
def dmaAct (c : Fin 512) (pc : Nat) (w x : BitVec 64) (s : State) : State :=
  match fld w 63 60 with
  | 0x0 => dmaFencing c .end_ s
  | 0x1 => dmaMove c pc w s
  | 0x2 => dmaMovex c pc w x s
  | 0x3 => dmaFill c pc w x s
  | 0x4 => dmaCmp c pc w x s
  | 0x5 => dmaLoop c w s
  | 0x6 => dmaWait c w s
  | 0x7 => dmaSignal c pc w s
  | 0x8 => dmaFence c pc w s
  | 0x9 => dmaJump c w s
  | _ => s

/-- The channel can execute its next instruction: Running, nothing to wait for, the word there. DEDUCED, log entry 65. -/
def dmaReady (c : Fin 512) (s : State) : Option (BitVec 64) :=
  let d := s.dma[c]
  if inReset (.dma c) s || d.state != .running || d.blocked then none else programWord c 0 s

/-- Steps with responses outstanding (R478). -/
def Dma.inflight (d : Dma) : Nat := (d.flights.filter fun f => ! f.pieces.isEmpty).length

/-- The channel executes its next instruction (R478, R488, R489). -/
def dmaStep (c : Fin 512) (w : BitVec 64) (s : State) : State :=
  let d := s.dma[c]
  let pc := d.pc.toNat
  let opc := fld w 63 60
  let n := wordCount opc
  if 1 ≤ opc ∧ opc ≤ 4 ∧ 16 ≤ d.inflight then s
  else if n = 2 ∧ (programWord c 1 s).isNone then (if wordLost c 1 s then dmaHalt c .fetch ((pc + 1) % 2 ^ 32) s else s)
  else if d.budget.toNat < d.count + 1 then dmaHalt c .runaway pc s
  else if illegalWords ((pairOwner s c).2 != 0) w ((programWord c 1 s).getD 0) then dmaHalt c .illegal pc s
  else
    let x := (programWord c 1 s).getD 0
    let s := s.updDma c fun d =>
      { d with count := d.count + 1, steps := satInc d.steps, pc := d.pc + BitVec.ofNat 32 n, prefetch := d.prefetch.drop n }
    dmaSettle c (dmaAct c pc w x s)

/-- The channel executes its next instruction if it has the opcode named. -/
def dmaRun (c : Fin 512) (opc : Nat) (s : State) : State :=
  match dmaReady c s with
  | some w => if fld w 63 60 = opc then dmaStep c w s else s
  | none => s

/-! ### Responses -/

/-- A piece of a flight replaced by others. -/
def Flight.replace (f : Flight) (id : Nat) (ps : List Piece) : Flight := { f with pieces := f.pieces.flatMap fun p => if p.id = id ∧ ¬ p.unissued then ps else [p] }

/-- The flight and the piece that wait for an answer with a number. -/
def findPiece (id : Nat) : List Flight → Option (Flight × Piece)
  | [] => none
  | f :: r =>
    match f.pieces.find? fun p => p.id == id && (p.asked || match p.st with
      | .ack _ _ => true
      | _ => false) with
    | some p => some (f, p)
    | none => findPiece id r

/-- The flight of a channel that holds request id changed. -/
def putFlight (c : Fin 512) (id : Nat) (g : Flight) (s : State) : State :=
  s.updDma c fun d => { d with flights := d.flights.map fun f => if f.pc = g.pc ∧ (findPiece id [f]).isSome then g else f }

/-- A request is answered badly: its step is marked, its piece ends, and a comparison that used it gives Z = 0 (R471, R486). -/
def pieceFails (c : Fin 512) (id : Nat) (f : Flight) (cause : BadCause) (addr : Nat) (s : State) : State :=
  let (g, s) := f.mark c cause addr s
  let s := putFlight c id (g.replace id []) s
  match f.op with
  | .cmp _ _ _ => s.updDma c fun d => { d with z := false }
  | _ => s

/-- FUNC of CMP (R471). -/
def cmpHolds (func a b : Nat) : Bool :=
  match func with
  | 0 => a == b
  | 1 => a != b
  | 2 => decide (b ≤ a)
  | _ => decide (a < b)

/-- Data come for a piece (R469, R471, R476, R486). -/
def pieceData (c : Fin 512) (id : Nat) (f : Flight) (p : Piece) (bs : List Byte) (bad : List Nat) (s : State) : State :=
  let addr := if p.st == .table then p.tab else p.src
  match f.op with
  | .cmp func mask value =>
    if bad.isEmpty then
      (putFlight c id (f.replace id []) s).updDma c fun d => { d with z := cmpHolds func (ofLe bs &&& mask) (value &&& mask) }
    else pieceFails c id f .poison (addr + bad.headD 0) s
  | .flush => if bad.isEmpty then putFlight c id (f.replace id []) s else pieceFails c id f .poison addr s
  | .move =>
    if p.st == .table then
      if ! bad.isEmpty then pieceFails c id f .poison p.tab s
      else
        let a := f.base + ofLe bs
        let inside := f.hi = 0 || (decide (f.lo ≤ a) && decide (a + p.len ≤ f.hi))
        match (if inside then extentBad c f.ssp a p.len s else some .range) with
        | some cause => pieceFails c id f cause a s
        | none => putFlight c id (f.replace id [{ p with st := .wait, src := a }]) s
    else
      let (g, s) := if bad.isEmpty then (f, s) else f.mark c .poison (addr + bad.headD 0) s
      putFlight c id (g.replace id [{ p with st := .ready bs bad }]) s

/-- Both copies of a link of the packet read are uncorrectable: the consumer stops there (R454). DEDUCED, log entry 66. -/
def linkBroken (c : Fin 512) (a : Nat) (s : State) : State :=
  match s.dma[c].taken, takenPacket s c with
  | some t, some p =>
    match (cellsHit p a 1).head? with
    | some x =>
      fault 0x0202 2 .queue t.q.1 s.qm.queues[t.q].packets.length (s.updQueue t.q fun k => { k with linkBreak := some x.2.index })
    | none => s
  | _, _ => s

/-- The byte of the stall store that a read of channel c at byte a of a space begins at, if it lies there (R423, R528). -/
def stallByte (s : State) (c : Fin 512) (sp : Space) (a : Nat) : Option Nat :=
  match sp with
  | .smap => some (cellPartition s + a)
  | .packet => match takenPacket s c with
    | some p => ((cellsHit p a 1).head?.filter fun x => decide (onDieCells ≤ x.2.index)).map fun x => cellByte s x.2.index + (a - x.1)
    | none => none
  | _ => none

/-- A read inside the device found an error: DDR5 counts it in CE_CNT or UE_CNT, the cell pool what it corrects in ECC_CORR (R453, R525). -/
def countRead (c : Fin 512) (sp : Space) (a : Nat) (uncorrected : Bool) (s : State) : State :=
  match stallByte s c sp a with
  | some b => countDdr uncorrected b s
  | none => if sp == .packet && ! uncorrected then s.updQm fun m => { m with eccCorr := satInc m.eccCorr } else s

/-- An answer comes for request id of channel c (R478, R486). A late or unknown answer is discarded. -/
def dmaAnswer (c : Fin 512) (id : Nat) (r : Resp) (s : State) : State :=
  match findPiece id s.dma[c].flights with
  | none => s
  | some (f, p) =>
    let sp := f.space p
    let addr := if p.st == .table then p.tab else p.src
    let n := if p.st == .table then 4 else p.len
    match p.st with
    | .ack bs bad =>
      let ok := match r with
        | .ok _ _ | .corrected => true
        | _ => false
      if ok && (extentBad c f.dsp p.dst bs.length s).isNone && ! insideDead f.dsp p.dst bs.length s then
        putFlight c id ({ f with bytes := f.bytes + bs.length }.replace id []) (writeInside f.dsp p.dst bs bad s)
      else pieceFails c id f .internal p.dst s
    | _ =>
      if sp == .host then
        match r with
        | .ok bs poison => pieceData c id f p (padTo n bs) (if poison then List.range n else []) s
        | .unsupported => pieceFails c id f .host addr s
        | _ => pieceFails c id f .internal addr s
      else
        match r with
        | .ok _ poison =>
          if insideDead sp addr n s then pieceFails c id f .internal addr s
          else
            let ((bs, bad), t) := readInside c sp f.take addr n s
            let t := if poison || ! bad.isEmpty then countRead c sp addr true t else t
            pieceData c id f p bs (if poison then List.range n else bad) t
        | .corrected =>
          if insideDead sp addr n s then pieceFails c id f .internal addr s
          else
            let ((bs, bad), t) := readInside c sp f.take addr n (countRead c sp addr false s)
            pieceData c id f p bs bad t
        | .link false =>
          let s := if sp == .packet then s.updQm fun m => { m with linkEcc := satInc m.linkEcc } else s
          let ((bs, bad), s) := readInside c sp f.take addr n s
          pieceData c id f p bs bad s
        | .link true => pieceFails c id f .internal addr (if sp == .packet then linkBroken c addr s else s)
        | _ => pieceFails c id f .internal addr s

/-- The request's space has a time-out: HOST, the map area, or a stall-store cell (R438, R486). -/
def hasTimeout (c : Fin 512) (sp : Space) (a k : Nat) (s : State) : Bool :=
  match sp with
  | .host | .smap => true
  | .packet => (takenPacket s c).any fun p => (cellsHit p a k).any fun x => decide (onDieCells ≤ x.2.index)
  | _ => false

/-- No answer comes for request id in time (R486). -/
def dmaTimeout (c : Fin 512) (id : Nat) (s : State) : State :=
  match findPiece id s.dma[c].flights with
  | none => s
  | some (f, p) =>
    match p.st with
    | .ack bs _ => if hasTimeout c f.dsp p.dst bs.length s then pieceFails c id f .timeout p.dst s else s
    | .table => if hasTimeout c f.tsp p.tab 4 s then pieceFails c id f .timeout p.tab s else s
    | _ => if hasTimeout c f.ssp p.src p.len s then pieceFails c id f .timeout p.src s else s

/-- The requests that a channel has outstanding in HOST. -/
def hostRequests (d : Dma) : List Nat := d.flights.flatMap fun f => (f.pieces.filter fun p => p.asked && f.space p == .host).map (·.id)

/-- The link of a channel's function goes down: its reads and unsent writes fail, a program fetch too (R502). -/
def dmaLinkDown (c : Fin 512) (s : State) : State :=
  let d := s.dma[c]
  if d.flights.isEmpty && ! d.fetchOut then s
  else
    let s := (hostRequests d).foldl (fun s id => match findPiece id s.dma[c].flights with
      | some (f, p) => pieceFails c id f .timeout (if p.st == .table then p.tab else p.src) s
      | none => s) s
    dmaSettle c (s.updDma c fun d => { d with fetchBad := d.fetchBad || d.fetchOut, fetchOut := false })

/-! ### Start and stop -/

/-- The channel goes Off: a taken packet stays at the head of its queue (R493, R494). -/
def Dma.off (d : Dma) : Dma :=
  { d with state := .off, halt := none, taken := none, wait := none, fence := none, prefetch := [], fetchOut := false, fetchBad := false }

/-- Writes inside the device that have been issued complete (R494). DEDUCED, log entry 64. -/
def landWrites (c : Fin 512) (s : State) : State :=
  (s.dma[c].flights.flatMap fun f => f.pieces.map fun p => (f, p)).foldl (fun s x => match x.2.st with
    | .ack bs bad => if (extentBad c x.1.dsp x.2.dst bs.length s).isNone then writeInside x.1.dsp x.2.dst bs bad s else s
    | _ => s) s

/-- Abort (R494): the channel goes Off at once and answers still to come are discarded. DEDUCED, log entry 64. -/
def dmaAbort (c : Fin 512) (s : State) : State := (landWrites c s).updDma c fun d => { d.off with ctl := setBit d.ctl 31 false, flights := [] }

/-- A register write that waited takes hold (R496). DEDUCED, log entry 60. -/
def Dma.load (d : Dma) (x : Nat × BitVec 64) : Dma :=
  let n : Fin 8 := Fin.ofNat 8 x.1
  match x.1 / 8 with
  | 0 => { d with a := d.a.set n.1 x.2 n.2 }
  | 1 => { d with base := d.base.set n.1 x.2 n.2 }
  | 2 => { d with limit := d.limit.set n.1 x.2 n.2 }
  | _ => { d with stride := d.stride.set n.1 (x.2.setWidth 32) n.2 }

/-- The channel starts (R492). DEDUCED, log entry 60. -/
def dmaStart (c : Fin 512) (s : State) : State :=
  fetchMore c (s.updDma c fun d =>
    { d.regPend.foldl Dma.load d with
      regPend := [], pbaseNow := d.pbase, pc := d.entry, z := false, woken := false, live := Vector.replicate 4 false, count := 0, halt := none
      prefetch := [], fetchOut := false, fetchBad := false, state := .running })

/-- The channel is disabled gracefully (R493). -/
def dmaDisable (c : Fin 512) (s : State) : State :=
  match s.dma[c].state with
  | .waiting | .halted | .done => s.updDma c Dma.off
  | .running | .fencing => s.updDma c fun d => { d with state := .draining, prefetch := [], fetchOut := false, fetchBad := false }
  | _ => s

/-- The channel resumes from a halt (R490). -/
def dmaResume (c : Fin 512) (s : State) : State :=
  fetchMore c (s.updDma c fun d =>
    { d with state := .running, halt := none, count := 0
             taken := if d.halt = some .pktFault then d.taken.map fun t => { t with failures := 0 } else d.taken })

/-- A Draining channel with nothing outstanding goes Off (R493). -/
def dmaDrained (c : Fin 512) (s : State) : State :=
  let d := s.dma[c]
  if d.state == .draining && d.flights.isEmpty && d.fence.isNone then s.updDma c Dma.off else s

/-- What a reset of a level that includes a channel leaves of it (R89, R91, R495, R496). DEDUCED, log entry 67. -/
def Dma.afterReset (c : Fin 512) (lv : Nat) (d : Dma) : Dma :=
  let n : Dma := {}
  let k := { d.off with flights := [], ctl := setBit d.ctl 31 false, doorbell := 0, z := false, woken := false, c := n.c, live := n.live, count := 0
                        steps := 0, bytes := 0, released := 0, badsteps := 0, signals := 0, latMiss := 0 }
  match lv with
  | 0 => { n with ctl := BitVec.ofNat 32 c.1 }
  | 1 => { k with ctl := BitVec.ofNat 32 c.1, intstat := 0, pc := 0, badlog := [] }
  | _ => k

end Sys2Proof.Machine
end

