-- ==== Sys2Proof/Machine/DmaObjects.lean ====
section
/-! DEFINITION. The objects of the DMA channels and of PSTORE (R496 to R498) and the commands of a channel's program, its
responses and its fetches. -/

namespace Sys2Proof.Machine

open Sys2Proof

/-- Per-channel objects (R496). -/
inductive DmaReg where
  | dctl | dstat | intstat | intmask | pbase | entry | pc | budget | doorbell | cplTmo | maxreq | retryMax | latTgt | latMiss
  | a (n : Fin 8) | base (n : Fin 8) | limit (n : Fin 8) | stride (n : Fin 8) | cnt (n : Fin 4) | steps | bytes | released | badsteps | signals | badlog
deriving DecidableEq, Repr

/-- Objects that stand once in a channel (R496). -/
def DmaReg.plainRows : List (Nat × DmaReg) :=
  [(0x6400, .dctl), (0x6402, .dstat), (0x6404, .intstat), (0x6406, .intmask), (0x6408, .pbase), (0x640A, .entry), (0x640C, .pc), (0x640E, .budget),
   (0x6410, .doorbell), (0x6412, .cplTmo), (0x6414, .maxreq), (0x6416, .retryMax), (0x6418, .latTgt), (0x641A, .latMiss), (0x6470, .steps),
   (0x6472, .bytes), (0x6474, .released), (0x6476, .badsteps), (0x6478, .signals), (0x647A, .badlog)]

/-- The address registers (R496). -/
def DmaReg.addressRows : List (Nat × DmaReg) :=
  (List.finRange 8).flatMap (fun n =>
    [(0x6420 + 2 * n.1, .a n), (0x6430 + 2 * n.1, .base n), (0x6440 + 2 * n.1, .limit n), (0x6450 + 2 * n.1, .stride n)])

/-- The loop counters (R496). -/
def DmaReg.countRows : List (Nat × DmaReg) :=
  (List.finRange 4).map fun n => (0x6460 + 2 * n.1, .cnt n)

/-- The channel objects with their bases (R496). -/
def DmaReg.table : List (Nat × DmaReg) := DmaReg.plainRows ++ DmaReg.addressRows ++ DmaReg.countRows

/-- What the table says of it (R496, R594). -/
def DmaReg.desc : DmaReg → Desc
  | .dctl => .rw .bits32 1 | .dstat => .ro .bits32 | .intstat => .status | .intmask => .rw .bits32 1 | .pbase => .rw .u64 1 4 | .entry => .rw .u32 1 4
  | .pc => .ro .u32 | .budget => (Desc.rw .u32 1).within 16 4294967295 | .doorbell => (Desc.rw .u32 1).unjournaled
  | .cplTmo => (Desc.rw .u32 1 4).within 1 4000000 | .maxreq => (Desc.rw .u16 1).within 1 4096 | .retryMax => (Desc.rw .u8 1).within 1 255
  | .latTgt => .rw .u32 1 4 | .latMiss => .ro .u32 | .a _ => .rw .u64 1 4 | .base _ => .rw .u64 1 4 | .limit _ => .rw .u64 1 4 | .stride _ => .rw .u32 1 4
  | .cnt _ => .ro .u32 | .steps => .ro .u48 | .bytes => .ro .u48 | .released => .ro .u48 | .badsteps => .ro .u32 | .signals => .ro .u32
  | .badlog => (Desc.ro .blob).long 256

/-- DSTAT (R498). -/
def Dma.stat (d : Dma) : Word :=
  place 32 29 d.state.code ||| place 32 26 ((d.halt.map Halt.code).getD 0) ||| flagBit 25 d.taken.isSome ||| flagBit 24 d.z ||| flagBit 23 d.woken
  ||| place 32 18 (min 16 d.inflight)

/-- An entry of BADLOG (R486). -/
def BadEntry.bytes (e : BadEntry) : List Byte :=
  leBytes 4 e.pc.toNat ++ leBytes 1 e.cause.code ++ leBytes 1 e.op ++ leBytes 2 0 ++ leBytes 8 e.addr.toNat

/-- A register as written last: a value that waits for the start prevails in a read (R496, DEDUCED). DEDUCED, log entry 60. -/
def Dma.written (d : Dma) (key : Nat) (v : BitVec 64) : Val :=
  match d.regPend.reverse.find? fun x => x.1 == key with
  | some x => bv x.2
  | none => bv v

/-- What an object reads. -/
def DmaReg.read (s : State) (c : Fin 512) (r : DmaReg) : Val :=
  let d := s.dma[c]
  match r with
  | .dctl => bv d.ctl | .dstat => bv d.stat | .intstat => bv d.intstat | .intmask => bv d.intmask | .pbase => bv d.pbase | .entry => bv d.entry
  | .pc => bv d.pc | .budget => bv d.budget | .doorbell => bv d.doorbell | .cplTmo => bv d.cplTmo | .maxreq => bv d.maxreq
  | .retryMax => bv d.retryMax | .latTgt => bv d.latTgt | .latMiss => bv d.latMiss | .a n => d.written n.1 d.a[n]
  | .base n => d.written (8 + n.1) d.base[n] | .limit n => d.written (16 + n.1) d.limit[n] | .stride n => d.written (24 + n.1) (d.stride[n].setWidth 64)
  | .cnt n => bv d.c[n] | .steps => bv d.steps | .bytes => bv d.bytes | .released => bv d.released | .badsteps => bv d.badsteps | .signals => bv d.signals
  | .badlog => .bytes (padTo 256 (d.badlog.flatMap BadEntry.bytes))

/-- The channel runs, waits, fences or drains: states 1 to 4 (R496). -/
def Dma.busy (d : Dma) : Bool := d.state == .running || d.state == .waiting || d.state == .fencing || d.state == .draining

/-- Its own checks (R496, R497, R513). -/
def DmaReg.check (s : State) (c : Fin 512) (r : DmaReg) (v : Val) : Status :=
  let d := s.dma[c]
  let w := v.word
  match r with
  | .dctl =>
    let q : Fin 512 := Fin.ofNat 512 (fld w 8 0)
    let en := bitAt w 31
    firstRefusal
      [(bitAt d.ctl 31 && (w &&& (maskOf 25 24 ||| maskOf 8 0)) != (d.ctl &&& (maskOf 25 24 ||| maskOf 8 0)), .state),
       (bitAt w 29 && d.state != .halted, .state), (decide (2 ≤ fld w 25 24), .range), (en && bitAt s.qm.queues[q].ctl 28, .state),
       (en && (List.finRange 512).any (fun o => decide (o ≠ c) && bitAt s.dma[o].ctl 31 && fld s.dma[o].ctl 8 0 == q.1), .busy),
       (en && fld w 25 24 == 0 && (pairOwner s c).2 != 0, .state)]
  | .pbase | .entry | .a _ | .base _ | .limit _ | .stride _ => firstRefusal [(d.busy, .state)]
  | _ => .ok

/-- DCTL written (R490, R492 to R494, R497). -/
def writeDctl (c : Fin 512) (w : Word) (s : State) : State :=
  let was := bitAt s.dma[c].ctl 31
  let s := s.updDma c fun d =>
    { d with ctl := w &&& (maskOf 31 31 ||| maskOf 27 24 ||| maskOf 8 0), doorbell := if bitAt w 28 then 0 else d.doorbell }
  if bitAt w 30 then dmaAbort c s
  else if bitAt w 31 && ! was then dmaStart c s
  else if ! bitAt w 31 && was then dmaDisable c s
  else if bitAt w 29 && s.dma[c].state == .halted then dmaResume c s
  else s

/-- A register write that takes hold at the start (R496). DEDUCED, log entry 60. -/
def pendReg (c : Fin 512) (key : Nat) (v : Nat) (s : State) : State :=
  s.updDma c fun d => { d with regPend := d.regPend.filter (·.1 ≠ key) ++ [(key, BitVec.ofNat 64 v)] }

/-- What an accepted write does. DEDUCED, log entries 60, 62. -/
def DmaReg.write (c : Fin 512) (r : DmaReg) (v : Val) (s : State) : State :=
  let w := v.word
  match r with
  | .dctl => writeDctl c w s
  | .intstat => s.updDma c fun d => { d with intstat := d.intstat &&& w.setWidth 5 }
  | .intmask =>
    let d := s.dma[c]
    let now := w &&& maskOf 4 0
    let sent := (now &&& ~~~ d.intmask).setWidth 5 &&& d.intstat
    let s := s.updDma c fun d => { d with intmask := now }
    if sent ≠ 0 ∧ d.msgAt ≠ some s.coreTime then channelVector c (s.updDma c fun d => { d with msgAt := some s.coreTime }) else s
  | .pbase => s.updDma c fun d => { d with pbase := BitVec.ofNat 64 v.toNat }
  | .entry => s.updDma c fun d => { d with entry := w }
  | .budget => s.updDma c fun d => { d with budget := w }
  | .doorbell => s.updDma c fun d => { d with doorbell := satAdd d.doorbell v.toNat }
  | .cplTmo => s.updDma c fun d => { d with cplTmo := w }
  | .maxreq => issueAll (s.updDma c fun d => { d with maxreq := BitVec.ofNat 16 v.toNat })
  | .retryMax => s.updDma c fun d => { d with retryMax := BitVec.ofNat 8 v.toNat }
  | .latTgt => s.updDma c fun d => { d with latTgt := w }
  | .a n => pendReg c n.1 v.toNat s
  | .base n => pendReg c (8 + n.1) v.toNat s
  | .limit n => pendReg c (16 + n.1) v.toNat s
  | .stride n => pendReg c (24 + n.1) v.toNat s
  | _ => s

/-- The PSTORE objects (R496). -/
inductive PsReg where
  | psOfs | psData
deriving DecidableEq, Repr

/-- The PSTORE objects with their places. -/
def PsReg.table : List (Nat × PsReg) := [(0x650001, .psOfs), (0x650002, .psData)]

/-- What the table says of it (R496, R594). -/
def PsReg.desc : PsReg → Desc
  | .psOfs => (Desc.rw .u32 2).unjournaled | .psData => ((Desc.rw .blob 2).long 4096).unjournaled

/-- What an object reads: PS_DATA its window. -/
def PsReg.read (s : State) : PsReg → Val
  | .psOfs => bv s.psOfs | .psData => .bytes (s.pstore.read s.psOfs.toNat 4096)

/-- Its own checks (R496, R637). -/
def PsReg.check (s : State) (r : PsReg) (v : Val) : Status :=
  match r with
  | .psOfs => firstRefusal [(decide (v.toNat % 8 ≠ 0), .range)]
  | .psData =>
    let n := v.toBytes.length
    firstRefusal [(decide (n % 8 ≠ 0) || decide (n < 8) || decide (4096 < n), .type), (decide (2 ^ 20 < s.psOfs.toNat + n), .range)]

/-- What an accepted write does. -/
def PsReg.write (r : PsReg) (v : Val) (s : State) : State :=
  match r with
  | .psOfs => { s with psOfs := v.word }
  | .psData => { s with pstore := s.pstore.write s.psOfs.toNat v.toBytes }

/-! ### Commands -/

/-- DMA_END (R477). -/
def execDmaEnd (c : Fin 512) (s : State) : Host.Outcome State Fault Refusal := .next (dmaRun c 0x0 s)
/-- DMA_MOVE (R468). -/
def execDmaMove (c : Fin 512) (s : State) : Host.Outcome State Fault Refusal := .next (dmaRun c 0x1 s)
/-- DMA_MOVEX (R469). -/
def execDmaMovex (c : Fin 512) (s : State) : Host.Outcome State Fault Refusal := .next (dmaRun c 0x2 s)
/-- DMA_FILL (R470). -/
def execDmaFill (c : Fin 512) (s : State) : Host.Outcome State Fault Refusal := .next (dmaRun c 0x3 s)
/-- DMA_CMP (R471). -/
def execDmaCmp (c : Fin 512) (s : State) : Host.Outcome State Fault Refusal := .next (dmaRun c 0x4 s)
/-- DMA_LOOP (R472). -/
def execDmaLoop (c : Fin 512) (s : State) : Host.Outcome State Fault Refusal := .next (dmaRun c 0x5 s)
/-- DMA_WAIT (R474). -/
def execDmaWait (c : Fin 512) (s : State) : Host.Outcome State Fault Refusal := .next (dmaRun c 0x6 s)
/-- DMA_SIGNAL (R475). -/
def execDmaSignal (c : Fin 512) (s : State) : Host.Outcome State Fault Refusal := .next (dmaRun c 0x7 s)
/-- DMA_FENCE (R476). -/
def execDmaFence (c : Fin 512) (s : State) : Host.Outcome State Fault Refusal := .next (dmaRun c 0x8 s)
/-- DMA_JUMP (R473). -/
def execDmaJump (c : Fin 512) (s : State) : Host.Outcome State Fault Refusal := .next (dmaRun c 0x9 s)

/-- DMA_ILLEGAL_OP (R467, R488). -/
def execDmaIllegalOp (c : Fin 512) (s : State) : Host.Outcome State Fault Refusal :=
  .next (match dmaReady c s with
    | some w => if 0xA ≤ fld w 63 60 then dmaStep c w s else s
    | none => s)

/-- WAIT_SATISFIED (R474): for TIME that its core clocks have passed is the sender's word. DESIGN CHOICE, log entry 6. DEDUCED, log entry 62. -/
def execWaitSatisfied (c : Fin 512) (s : State) : Host.Outcome State Fault Refusal :=
  .next (match s.dma[c].wait with
    | some (w, since) =>
      if ! inReset (.dma c) s && s.dma[c].state == .waiting && (fld w 59 57 == 3 || waitHolds c w since s) then dmaSettle c (waitEnds c w s) else s
    | none => s)

/-- WAIT_TIMEOUT (R474). -/
def execWaitTimeout (c : Fin 512) (s : State) : Host.Outcome State Fault Refusal :=
  .next (match s.dma[c].wait with
    | some (w, _) =>
      if ! inReset (.dma c) s && s.dma[c].state == .waiting && fld w 55 32 != 0 then
        dmaSettle c (s.updDma c fun d => { d with z := false, wait := none, state := .running })
      else s
    | none => s)

/-- READ_RESPONSE (R478, R486). DESIGN CHOICE, log entry 121. -/
def execReadResponse (c : Fin 512) (id : Nat) (r : Resp) (s : State) : Host.Outcome State Fault Refusal :=
  .next (if inReset (.dma c) s then s else dmaSettle c (dmaAnswer c id r s))

/-- REQUEST_TIMEOUT (R486). -/
def execRequestTimeout (c : Fin 512) (id : Nat) (s : State) : Host.Outcome State Fault Refusal :=
  .next (if inReset (.dma c) s then s else dmaSettle c (dmaTimeout c id s))

/-- FETCH_RETURN (R488, R491). -/
def execFetchReturn (c : Fin 512) (words : Option (List (BitVec 64))) (s : State) : Host.Outcome State Fault Refusal :=
  .next (if inReset (.dma c) s then s
    else
      let d := s.dma[c]
      fetchMore c (if d.hostProgram && d.fetchOut then
          s.updDma c fun d => match words with
            | some ws => { d with fetchOut := false, prefetch := (d.prefetch ++ ws).take 16, fetchBad := ws.isEmpty }
            | none => { d with fetchOut := false, fetchBad := true }
        else s))

/-- DMA_DRAINED (R493). -/
def execDmaDrained (c : Fin 512) (s : State) : Host.Outcome State Fault Refusal := .next (dmaDrained c s)

/-- DMA_WAKE (R419, R474). -/
def execDmaWake (c : Fin 512) (s : State) : Host.Outcome State Fault Refusal :=
  .next (performTask (.dmaWake c)
    (fun s => if inReset (.dma c) s || s.dma[c].state == .off then none else some (s.updDma c fun d => { d with woken := true })) s)

end Sys2Proof.Machine
end

