-- ==== Sys2Proof/Machine/HostLinks.lean ====
section
/-! DEFINITION. The PCIe links and functions and the stall store (chapter 16): link state, resets of functions, pair ownership,
DDR5 training, scrub and service, the map area, and the objects of R530. -/

namespace Sys2Proof.Machine

open Sys2Proof

/-! ### Links -/

/-- A port runs as two links (R499). -/
def bifurcated (s : State) (l : Fin 4) : Bool := (atNat s.host.bifNow (l.1 / 2)).getD false

/-- Link l exists: link 1 only of a bifurcated port (R42). -/
def linkExists (s : State) (l : Fin 4) : Bool := l.1 % 2 == 0 || bifurcated s l

/-- VFs that exist on a link. -/
def Link.vfs (k : Link) : Nat := if k.vfEnable then k.numVfs else 0

/-- The channels that a link's functions own. -/
def linkChannels (s : State) (l : Fin 4) : List (Fin 512) := (List.finRange 512).filter fun c => (pairOwner s c).1 == l

/-- Every channel of a link with steps in flight goes on (R508). -/
def settleLink (l : Fin 4) (s : State) : State :=
  s.each (linkChannels s l) fun c s => if s.dma[c].flights.isEmpty then s else dmaSettle c s

/-- The link leaves L0: what is outstanding through it fails (R502). PRESUMED, log entry 69. -/
def linkDown (l : Fin 4) (s : State) : State :=
  let s := s.updLink l fun k => { k with up := false, flit := false, speed := 0, width := 0, training := false }
  s.each (linkChannels s l) dmaLinkDown

/-- The PF of a pair's link takes the pair back: its channel is aborted, its queue keeps its content (R511). -/
def returnPair (c : Fin 512) (s : State) : State :=
  (dmaAbort c s).updHost fun h => { h with pairfn := modAt h.pairfn c fun w => w &&& ~~~ (maskOf 4 0) }

/-- The VFs above a number cease to exist: their pairs return to the PF of their link, and their configuration is gone (R511). PRESUMED, log entry 69. -/
def dropVfs (l : Fin 4) (n : Nat) (s : State) : State :=
  (s.each (linkChannels s l) fun c s => if n < (pairOwner s c).2.1 then returnPair c s else s).updLink l fun k =>
    { k with fns := mapAll k.fns fun g f => if n < g.1 then {} else f }

/-- The channel objects of R512 at their defaults. -/
def flrChannel (c : Fin 512) (s : State) : State :=
  (dmaAbort c s).updDma c fun d =>
    let n : Dma := {}
    { d with ctl := BitVec.ofNat 32 c.1, intstat := 0, intmask := n.intmask, doorbell := 0, budget := n.budget, cplTmo := n.cplTmo, maxreq := n.maxreq
             retryMax := n.retryMax, latTgt := 0 }

/-- A Function Level Reset (R512); the function's own configuration returns to its reset state as PCI Express defines. PRESUMED, log entry 69. -/
def flr (l : Fin 4) (f : Fin 17) (s : State) : State :=
  if f = 0 then
    let s := s.each (linkChannels s l) flrChannel
    let s := dropVfs l 0 s
    s.updLink l fun k => { k with vfEnable := false, numVfs := 0, fns := Vector.replicate 17 {} }
  else (s.each (ownedPairs s l f) flrChannel).updFn l f fun _ => {}

/-- The pending entries of a function that may now be sent are sent (R520). DEDUCED, log entry 72. -/
def releasePending (l : Fin 4) (f : Fin 17) (s : State) : State :=
  let k := s.host.links[l]
  let g := k.fns[f]
  if g.msixEn && ! g.fnMask && k.up && g.busMaster && ! g.d3 then
    let go := g.pend.filter fun e => g.unmasked.contains e
    go.foldl (fun s e => s.send (.msix l f e)) (s.updFn l f fun g => { g with pend := g.pend.filter fun e => ! go.contains e })
  else s

/-- TotalVFs of a link (R503). PRESUMED, log entry 70. -/
def totalVfs (s : State) (l : Fin 4) : Nat := if bifurcated s l then 8 else 16

/-- A configuration write (R506 to R508, R511, R520). PRESUMED, log entry 70. -/
def configWrite (l : Fin 4) (f : Fin 17) (x : CfgWrite) (s : State) : State :=
  match x with
  | .busMaster b => settleLink l (releasePending l f (s.updFn l f fun g => { g with busMaster := b }))
  | .memSpace b => s.updFn l f fun g => { g with memSpace := b }
  | .d3hot b => settleLink l (releasePending l f (s.updFn l f fun g => { g with d3 := b }))
  | .vfEnable b =>
    if f ≠ 0 then s
    else
      let s := s.updLink l fun k => { k with vfEnable := b }
      if b then s else dropVfs l 0 s
  | .numVfs n =>
    if f ≠ 0 ∨ totalVfs s l < n then s
    else
      let s := s.updLink l fun k => { k with numVfs := n }
      dropVfs l n s
  | .msix e m => releasePending l f (s.updFn l f fun g => { g with msixEn := e, fnMask := m })
  | .tags t u => settleLink l (s.updFn l f fun g => { g with tag10 := t, tag14 := u })
  | .sizes p r => s.updFn l f fun g => { g with mps := clampN 128 512 p, mrrs := clampN 128 4096 r }

/-! ### The stall store -/

/-- The source of a producer's pipeline is a K3 head (R444). -/
def k3Producer (s : State) (r : Fin 32) : Bool :=
  match boundSource s (Fin.ofNat 16 r.1) with
  | some i => match finOf 16 i.1 with
    | some h => ! (headPorts s h).isEmpty && (headPorts s h).all fun p => s.ports[p].ver == 3
    | none => false
  | none => false

/-- The first stall-store cell of an open packet. -/
def firstStall (o : OpenPkt) : Option Nat := (o.cells.find? fun x => decide (onDieCells ≤ x.index)).map (·.index)

/-- A write of producer r's open packet into the stall store is not acknowledged, or fails: the packet is rewound whole (R444). -/
def stallLoss (r : Fin 32) (s : State) : State :=
  match queueOf s r with
  | none => s
  | some q =>
    match (s.qm.queues[q].openPkt.bind firstStall) with
    | none => s
    | some i =>
      let ch := ((ddrAt s (cellByte s i)).map (·.1)).getD 0
      let k3 := k3Producer s r
      let s := if r.1 < 16 then rewindData (Fin.ofNat 16 r.1) s else rewindOpen r s
      giveWay 0x0106 (if k3 then rung2 else rung5) .queue q.1 ch s

/-- Cells of the cell partition (R528). -/
def stallCells (s : State) : Nat := cellPartition s * 127 / 128 / 512

/-- The cell counts follow the partition (R524, R528, R529): F_S is what no cell and no credit holds. DEDUCED, log entry 74. -/
def repartition (s : State) : State :=
  let lent := ((List.finRange 32).flatMap fun r => (s.qm.producers[r].credits.filter (·.src = .stall)).map (·.left)).sum
  lend (s.updQm fun m => { m with ns := stallCells s, freeS := 2 * stallCells s - lent })

/-- Data rates of R521 for a DIMM type and a number of DIMMs per channel. -/
def ddrRates (kind dimms : Nat) : List Nat :=
  match kind, dimms with
  | 1, 1 => [4800, 5600, 6400]
  | 1, 2 => [4400, 4800]
  | 2, 1 => [8000, 8800]
  | _, _ => []

/-- The rates a channel can run at under DDR_RATE_MAX (R522). -/
def rateList (r : DdrReport) (most : Nat) : List Nat := (ddrRates r.kind.1 r.dimms.1).filter fun x => r.rates.contains x && decide (x ≤ most)

/-- The data rate of the populated channels (R522). DEDUCED, log entry 73. -/
def ddrRate (rs : List DdrReport) (most : Nat) (mismatch : Bool) : Nat :=
  let best := fun (l : List Nat) => l.foldl max 0
  match rs with
  | [] => 0
  | r :: _ =>
    if mismatch then (rs.map fun x => best (rateList x most)).foldl min 8800
    else best ((rateList r most).filter fun x => rs.all fun y => (rateList y most).contains x)

/-- DDR5 training ends: SPDs read, channels trained or excluded, READY set (R522, R524). DEDUCED, log entry 73. -/
def ddrTrain (reports : List DdrReport) (s : State) : State :=
  if s.host.ready || ! firmwareRuns s || inReset .stall s then s
  else
    let rs := reports.filter fun r => decide (r.dimms ≠ 0)
    let odd := match rs with
      | [] => none
      | r :: l => l.find? fun (x : DdrReport) => x.kind ≠ r.kind ∨ x.dimms ≠ r.dimms ∨ x.ranks ≠ r.ranks ∨ x.gib ≠ r.gib
    let rate := ddrRate rs s.host.rateMax.toNat odd.isSome
    let gib := (rs.map (·.gib)).foldl min 128
    let s := rs.foldl (fun s r =>
      let good := r.good && rate != 0 && ((atNat s.clk.good (8 + r.ch.1)).getD false)
      let s := s.updDdr r.ch fun d =>
        { d with kind := r.kind, dimms := r.dimms, ranks := r.ranks, state := if good then 1 else 2, gib := BitVec.ofNat 8 gib, rate := BitVec.ofNat 16 rate
                 trained := if good then r.serials else d.trained }
      if good then s else fault 0x0206 2 .ddr r.ch.1 0 s) s
    let s := match odd with
      | some r => fault 0x0206 0 .ddr r.ch.1 0 s
      | none => s
    let n := (ddrUsed s).length
    repartition (s.updHost fun h => { h with ready := true, mismatch := odd.isSome, ssBytes := BitVec.ofNat 64 (n * gib * 2 ^ 30) })

/-- The cell or the map words at a byte of the stall store become uncorrectable. DEDUCED, log entry 74. -/
def spoilStall (a : Nat) (s : State) : State :=
  let c := cellPartition s
  if c ≤ a then
    let (free, s) := s.drawNat
    let first := (a - c) / 8 + 8 * (free % 8)
    s.updHost fun h => { h with smap := { h.smap with bad := ((List.range 8).map (first + ·)).foldl insertNat h.smap.bad } }
  else if a < c / 128 then s
  else
    let i := onDieCells + (a - c / 128) / 512
    let mark := fun (cs : List PCell) => cs.map fun x => if x.index = i then { x with poison := true } else x
    s.updQm fun m => { m with queues := mapAll m.queues fun _ k =>
      { k with packets := k.packets.map fun p => { p with cells := mark p.cells }, openPkt := k.openPkt.map fun o => { o with cells := mark o.cells } } }

/-- The patrol scrub reads the next granule of a channel (R525, R527). DEDUCED, log entry 74. -/
def ddrScrub (c : Fin 12) (flaw : CellFlaw) (s : State) : State :=
  let d := s.host.ddr[c]
  if ! s.host.ready || d.state != 1 || ddrDead s c then s
  else
    let used := ddrUsed s
    let k := s.host.scrubAt[c]
    let a := 512 * (k * used.length + used.idxOf c)
    let last := s.host.ssBytes.toNat / 512 / used.length
    let s := s.updHost fun h => { h with scrubAt := h.scrubAt.set c.1 (if k + 1 < last then k + 1 else 0) c.2 }
    match flaw with
    | .none => s
    | .corrected => s.updDdr c fun d => { d with ce := satInc d.ce }
    | .uncorrectable => spoilStall a (s.updDdr c fun d => { d with ue := satInc d.ue })

/-- An open packet holds a cell on a channel. -/
def opensOn (c : Fin 12) (s : State) (r : Fin 32) : Bool :=
  match queueOf s r with
  | some q => (s.qm.queues[q].openPkt.map (·.cells)).getD [] |>.any fun x => decide (onDieCells ≤ x.index) && ddrAt s (cellByte s x.index) == some c
  | none => false

/-- A channel goes out of service (R526): open packets with cells there are rewound. -/
def outOfService (c : Fin 12) (s : State) : State :=
  let lost := (List.finRange 32).filter (opensOn c s)
  (s.updDdr c fun d => { d with state := 3 }).each lost stallLoss

/-- MAP_AREA takes a value: what the map area holds keeps its place in the stall store (R528, R529). DEDUCED, log entry 74. -/
def setMapArea (v : Word) (s : State) : State :=
  let old := s.host.mapArea.toNat * 2 ^ 30
  let new := v.toNat * 2 ^ 30
  let shift := fun (m : Mem) =>
    { cells := (m.cells.filter fun x => decide (old ≤ x.1 + new)).map fun x => (x.1 + new - old, x.2)
      bad := (m.bad.filter fun w => decide (old / 8 ≤ w + new / 8)).map fun w => w + new / 8 - old / 8 : Mem }
  repartition (s.updHost fun h => { h with mapArea := v, smap := shift h.smap })

/-! ### Objects -/

/-- The objects of R530. -/
inductive HostReg where
  | hostcfg | linkstat (l : Fin 4) | ddrstat | ssBytes | mapArea | scrubHours | rateMax | ddrch (c : Fin 12) | ce (c : Fin 12) | ue (c : Fin 12)
  | pairfn (c : Fin 512)
deriving DecidableEq, Repr

/-- The object at a place (R509, R530). -/
def HostReg.at_ (index sub : Nat) : Option HostReg :=
  match index with
  | 0x6800 => if sub = 1 then some .hostcfg else if 2 ≤ sub then (finOf 4 (sub - 2)).map .linkstat else none
  | 0x6810 =>
    match sub with
    | 1 => some .ddrstat | 2 => some .ssBytes | 3 => some .mapArea | 4 => some .scrubHours | 5 => some .rateMax
    | _ => if 0x10 ≤ sub then (finOf 12 (sub - 0x10)).map .ddrch else none
  | 0x6811 => if 1 ≤ sub then (finOf 12 (sub - 1)).map .ce else none
  | 0x6812 => if 1 ≤ sub then (finOf 12 (sub - 1)).map .ue else none
  | 0x6820 => (finOf 512 sub).map .pairfn
  | 0x6821 => (finOf 512 (256 + sub)).map .pairfn
  | _ => none

/-- What the table says of it (R530). -/
def HostReg.desc : HostReg → Desc
  | .hostcfg => .rwp .bits32 2 5 | .linkstat _ => .ro .bits32 | .ddrstat => .ro .bits32 | .ssBytes => .ro .u64 | .mapArea => .rw .u32 2
  | .scrubHours => (Desc.rwp .u32 2 4).within 1 720 | .rateMax => .rwp .u32 2 3 | .ddrch _ => .ro .bits32 | .ce _ => .ro .u48 | .ue _ => .ro .u32
  | .pairfn _ => .rw .bits32 2

/-- The block that holds it, for R106. -/
def HostReg.blk : HostReg → Option Blk
  | .linkstat l => some (.link l)
  | .hostcfg | .pairfn _ => none
  | _ => some .stall

/-- LINKSTAT (R531). -/
def Link.stat (k : Link) : Word :=
  flagBit 31 k.up ||| flagBit 30 k.flit ||| place 32 27 k.speed.1 ||| place 32 22 k.width.1 ||| place 32 17 k.vfs

/-- DDRCH (R532). -/
def DdrCh.stat (d : DdrCh) : Word :=
  place 32 30 d.kind.1 ||| place 32 28 d.dimms.1 ||| place 32 26 d.ranks.1 ||| place 32 24 d.state.1 ||| place 32 16 d.gib.toNat ||| place 32 0 d.rate.toNat

/-- What an object reads. -/
def HostReg.read (s : State) : HostReg → Val
  | .hostcfg => bv s.host.cfg | .linkstat l => bv s.host.links[l].stat
  | .ddrstat => bv (flagBit 31 s.host.ready ||| flagBit 30 s.host.mismatch
      ||| place 32 0 (((List.finRange 12).filter fun c => s.host.ddr[c].state == 1).map fun c => 2 ^ c.1).sum)
  | .ssBytes => bv s.host.ssBytes | .mapArea => bv s.host.mapArea | .scrubHours => bv s.host.scrubHours | .rateMax => bv s.host.rateMax
  | .ddrch c => bv s.host.ddr[c].stat | .ce c => bv s.host.ddr[c].ce | .ue c => bv s.host.ddr[c].ue | .pairfn c => bv s.host.pairfn[c]

/-- A stall-store cell is not free, or an enabled region lies in the map area (R529). -/
def stallInUse (s : State) : Bool :=
  (usedCells s).any (fun i => decide (onDieCells ≤ i))
  || (List.finRange 16).any fun p => (List.finRange 5).any fun k => descEn s.pipes[p].descActive[k] && descLoc s.pipes[p].descActive[k]

/-- Its own checks (R510, R529 to R531). -/
def HostReg.check (s : State) (r : HostReg) (v : Val) : Status :=
  let w := v.word
  match r with
  | .hostcfg => firstRefusal [(bitAt w 28 && ! ((atNat s.host.bifNow (fld w 29 29)).getD false), .range)]
  | .mapArea => firstRefusal [(! s.host.ready, .state), (decide (s.host.ssBytes.toNat / 2 ^ 30 < v.toNat), .range), (stallInUse s, .busy)]
  | .rateMax => firstRefusal [(! [4400, 4800, 5600, 6400, 8000, 8800].contains v.toNat, .range)]
  | .pairfn c =>
    let l : Fin 4 := Fin.ofNat 4 (fld w 17 16)
    let f := fld w 4 0
    firstRefusal
      [(s.dma[c].state != .off, .state), (! linkExists s l || decide (s.host.links[l].numVfs < f), .range),
       (decide (f ≠ 0) && decide (64 ≤ ((ownedPairs s l (Fin.ofNat 17 f)).filter (· ≠ c)).length), .busy)]
  | _ => .ok

/-- What an accepted write does. -/
def HostReg.write (r : HostReg) (v : Val) (s : State) : State :=
  let w := v.word
  match r with
  | .hostcfg => s.updHost fun h => { h with cfg := w &&& maskOf 31 28 }
  | .mapArea => setMapArea w s
  | .scrubHours => s.updHost fun h => { h with scrubHours := w }
  | .rateMax => s.updHost fun h => { h with rateMax := w }
  | .pairfn c => s.updHost fun h => { h with pairfn := modAt h.pairfn c fun _ => w &&& (maskOf 17 16 ||| maskOf 4 0) }
  | _ => s

/-! ### Commands -/

/-- STALL_ACK_TIMEOUT (R440, R444). -/
def execStallAckTimeout (r : Fin 32) (s : State) : Host.Outcome State Fault Refusal :=
  .next (if inReset .queues s then s else settlePause (stallLoss r s))

/-- PERST_ASSERT (R42, R86, R502): the link's functions return to their reset state. An unbifurcated port ignores PERST_N[1], whose level is
kept for when it is bifurcated. PRESUMED, log entry 69. -/
def execPerstAssert (l : Fin 4) (s : State) : Host.Outcome State Fault Refusal :=
  .next (if ! linkExists s l then s.updLink l fun k => { k with perst := true }
    else
      let s := dropVfs l 0 (linkDown l s)
      s.updLink l fun k => { k with perst := true, vfEnable := false, numVfs := 0, fns := Vector.replicate 17 {} })

/-- PERST_RELEASE (R42, R116, R501). -/
def execPerstRelease (l : Fin 4) (s : State) : Host.Outcome State Fault Refusal :=
  .next (s.updLink l fun k => { k with perst := false, training := if linkExists s l then ! inReset (.link l) s && ! k.up else k.training })

/-- LINK_UP (R500, R501); the trained link of a PCIe boot opens the boot window (R117, R122). -/
def execLinkUp (l : Fin 4) (speed : Fin 8) (width : Fin 32) (flit : Bool) (s : State) : Host.Outcome State Fault Refusal :=
  .next (if ! linkExists s l || s.host.links[l].perst || inReset (.link l) s then s
    else
      let s := s.updLink l fun k => { k with up := true, training := false, speed := speed, width := width, flit := flit && speed == 6 }
      if l = 0 ∧ s.boot.source = 2 ∧ s.boot.phase = 1 ∧ s.boot.halted = false then s.updBoot fun b => { b with hostReady := true, window := true } else s)

/-- LINK_DOWN (R502). -/
def execLinkDown (l : Fin 4) (s : State) : Host.Outcome State Fault Refusal := .next (linkDown l s)

/-- A configuration request to a function of a link that is up: until host ready is reported it is answered with Configuration Request Retry
Status (R117). -/
def configRequest (l : Fin 4) (f : Fin 17) (act : State → State) (s : State) : State :=
  if ! s.host.links[l].up || ! decide (f.1 ≤ s.host.links[l].vfs) then s
  else if ! s.boot.hostReady then s.send (.configRetry l)
  else act s

/-- FLR (R512): a configuration write. -/
def execFlr (l : Fin 4) (f : Fin 17) (s : State) : Host.Outcome State Fault Refusal := .next (configRequest l f (flr l f) s)

/-- VF_REMOVAL (R511). -/
def execVfRemoval (l : Fin 4) (num : Nat) (s : State) : Host.Outcome State Fault Refusal :=
  .next (dropVfs l num (s.updLink l fun k => { k with numVfs := min k.numVfs num, vfEnable := k.vfEnable && decide (num ≠ 0) }))

/-- CONFIG_SPACE_WRITE (R117, R508). PRESUMED, log entry 70. -/
def execConfigSpaceWrite (l : Fin 4) (f : Fin 17) (x : CfgWrite) (s : State) : Host.Outcome State Fault Refusal :=
  .next (configRequest l f (configWrite l f x) s)

/-- MSIX_UNMASK (R520). -/
def execMsixUnmask (l : Fin 4) (f : Fin 17) (entry : Nat) (s : State) : Host.Outcome State Fault Refusal :=
  .next (if entry < (if f = 0 then 1024 else 64) then releasePending l f (s.updFn l f fun g => { g with unmasked := insertNat g.unmasked entry }) else s)

/-- DDR_TRAINING (R524). -/
def execDdrTraining (reports : List DdrReport) (s : State) : Host.Outcome State Fault Refusal := .next (ddrTrain reports s)

/-- DDR_REFRESH (R527): refresh leaves every value as it is. -/
def execDdrRefresh (s : State) : Host.Outcome State Fault Refusal := .next s

/-- DDR_SCRUB (R527). -/
def execDdrScrub (c : Fin 12) (flaw : CellFlaw) (s : State) : Host.Outcome State Fault Refusal := .next (ddrScrub c flaw s)

/-- CA_PARITY_ERROR (R525, R526): the replays mend it, or the channel goes out of service. -/
def execCaParityError (c : Fin 12) (good : Bool) (s : State) : Host.Outcome State Fault Refusal :=
  .next (if good || s.host.ddr[c].state != 1 then s else settlePause (outOfService c (fault 0x0204 2 .ddr c.1 1 s)))

end Sys2Proof.Machine
end

