-- ==== Sys2Proof/Machine/Motion.lean ====
section
/-! DEFINITION. Motion (chapter 17): profiles, moves and stops, limit and home inputs, homing, the microstep table and the
chopper, and the objects of R556. -/

namespace Sys2Proof.Machine

open Sys2Proof

/-! ### Fields -/

/-- AXCTL EN (R557). -/
def Axis.en (x : Axis) : Bool := bitAt x.ctl 31
/-- AXCTL MODE: bridge-gate (R557). -/
def Axis.bridge (x : Axis) : Bool := bitAt x.ctl 30
/-- AXCTL DIR_INV (R557). -/
def Axis.inv (x : Axis) : Bool := bitAt x.ctl 29
/-- AXCTL SUBDIV (R557). -/
def Axis.subdiv (x : Axis) : Nat := fld x.ctl 27 24
/-- The axis is in Idle (R558). -/
def Axis.isIdle (x : Axis) : Bool := x.en && x.state == .idle
/-- Steps are being placed (R558). -/
def Axis.turning (x : Axis) : Bool := x.en && (x.state == .moving || x.state == .stopping || x.state == .homing)
/-- SWCFG DEB in us (R559). -/
def Axis.deb (x : Axis) : Nat := fld x.swcfg 31 18
/-- The active level of a limit input is low; 0 forward, 1 reverse (R559). -/
def Axis.limPol (x : Axis) (i : Fin 2) : Bool := bitAt x.swcfg (17 - i.1)
/-- A limit is enabled (R559). -/
def Axis.limEn (x : Axis) (i : Fin 2) : Bool := bitAt x.swcfg (14 - i.1)
/-- HOMECTL METHOD of the active set (R560). -/
def Axis.method (x : Axis) : Nat := fld x.act.homectl 31 29
/-- The home search runs forward: HDIR of the active set (R560). -/
def Axis.homeFwd (x : Axis) : Bool := ! bitAt x.act.homectl 28
/-- The reference that METHOD selects reads active (R546). -/
def Axis.reference (x : Axis) : Bool := if x.method = 0 then x.home else if x.method = 1 then x.lim[0] else x.lim[1]
/-- A limit is the homing reference (R546). -/
def Axis.isReference (x : Axis) (i : Fin 2) : Bool := x.state == .homing && x.method == i.1 + 1

/-! ### Profiles -/

/-- Time units in a second: a core clock has 1,024 of them. -/
def tickHz : Nat := 1280000000000

/-- The greatest number below 2^k that is acceptable, found bit by bit. -/
def greatest (ok : Nat → Bool) : Nat → Nat → Nat
  | 0, acc => acc
  | k + 1, acc => greatest ok k (if ok (acc + 2 ^ k) then acc + 2 ^ k else acc)

/-- The duration of segments 1 and 3, and of segment 2, of a rise to speed v (times 2^20) at acceleration a and jerk j (R535). -/
def riseTimes (v a j : Nat) : Nat × Nat :=
  if j = 0 then (0, v * tickHz / (a * 2 ^ 20))
  else if a * a * 2 ^ 20 ≤ v * j then (a * tickHz / j, v * tickHz / (a * 2 ^ 20) - a * tickHz / j)
  else ((v * tickHz * tickHz / (j * 2 ^ 20)).sqrt, 0)

/-- The distance of that rise, in steps times 2^21 tickHz. -/
def riseDist (v a j : Nat) : Nat := let (tj, tc) := riseTimes v a j; v * (2 * tj + tc)

/-- The peak speed of a move of n steps: the cap, or the highest from which speed reaches 0 exactly at the target (R535). DESIGN CHOICE, log entry 50. -/
def peakSpeed (cap a d j n : Nat) : Nat :=
  greatest (fun v => decide (v ≤ cap * 2 ^ 20) && decide (riseDist v a j + riseDist v d j ≤ n * 2 ^ 21 * tickHz)) 43 0

/-- The distance (steps times 2^20) and speed (steps/s times 2^20) a time t into the rise to v (R535). DESIGN CHOICE, log entry 50. -/
def riseAt (v a j t : Nat) : Nat × Nat :=
  let (tj, tc) := riseTimes v a j
  let acc := if j = 0 then a * tickHz else j * tj
  if t ≤ tj then (j * t ^ 3 * 2 ^ 20 / (6 * tickHz ^ 3), j * t ^ 2 * 2 ^ 20 / (2 * tickHz ^ 2))
  else if t ≤ tj + tc then
    let u := t - tj
    (j * tj ^ 3 * 2 ^ 20 / (6 * tickHz ^ 3) + j * tj ^ 2 * u * 2 ^ 20 / (2 * tickHz ^ 3) + acc * u ^ 2 * 2 ^ 20 / (2 * tickHz ^ 3),
     j * tj ^ 2 * 2 ^ 20 / (2 * tickHz ^ 2) + acc * u * 2 ^ 20 / tickHz ^ 2)
  else
    let r := 2 * tj + tc - t
    (v * (2 * tj + tc) / (2 * tickHz) - v * r / tickHz + j * r ^ 3 * 2 ^ 20 / (6 * tickHz ^ 3), v - j * r ^ 2 * 2 ^ 20 / (2 * tickHz ^ 2))

/-- The speed x steps into the rise to v, in steps/s times 2^20. -/
def riseSpeed (v a j x : Nat) : Nat :=
  if riseDist v a j ≤ x * 2 ^ 21 * tickHz then v
  else (riseAt v a j (greatest (fun t => (riseAt v a j t).1 ≤ x * 2 ^ 20) 64 0)).2

/-- The speed of a leg after some of its steps, in steps/s times 2^20 (R535, R540). DESIGN CHOICE, log entry 50. -/
def legSpeed (x : Axis) (done : Nat) : Nat :=
  match x.stop with
  | some (v, d) => ((v * v - 2 * d * done) * 2 ^ 40).sqrt
  | none =>
    let up := riseSpeed x.peak x.act.amax.toNat x.act.jmax.toNat done
    match x.len with
    | some n => min up (riseSpeed x.peak x.act.dmax.toNat x.act.jmax.toNat (n - done))
    | none => up

/-- VEL at the last step placed; its rounding to whole steps/s is open. DESIGN CHOICE, log entries 11, 50. -/
def setVel (a : Fin 8) (s : State) : State :=
  let (up, s) := s.drawBool
  s.updAxis a fun x =>
    let v := legSpeed x x.done
    let n : Nat := v / 2 ^ 20 + (if up && decide (v % 2 ^ 20 ≠ 0) then 1 else 0)
    { x with vel := if x.fwd then (n : Int) else - (n : Int) }

/-! ### Gates -/

/-- The base code of a phase (R550). -/
def Axis.baseCode (x : Axis) (p : Fin 2) : Nat :=
  x.phases[p].w.natAbs * (if x.atRest then fld x.curNow 17 8 else fld x.curNow 27 18) / 1023

/-- BAND of a phase: tracked, or BAND_MAX (R552). -/
def Axis.bandOf (x : Axis) (p : Fin 2) : Nat := if bitAt x.curNow 31 then x.phases[p].band else fld x.curNow 7 0

/-- The ceiling of a phase (R550). -/
def Axis.ceiling (x : Axis) (p : Fin 2) : Nat := min 1023 (x.baseCode p + x.bandOf p)

/-- The floor of a phase (R550). -/
def Axis.floor (x : Axis) (p : Fin 2) : Nat := min 1023 (x.baseCode p - x.bandOf p)

/-- The gates of a phase that are on (R553). -/
def Phase.gates (p : Phase) : List Nat :=
  match p.st with
  | .off => []
  | .mask | .drive => if p.pos then [0, 3] else [2, 1]
  | .fast => if p.pos then [2, 1] else [0, 3]
  | .slow => [1, 3]

/-- The gate balls of an axis as its phases drive them (R41, R60, R553). -/
def Axis.gateBalls (x : Axis) (polLow : Bool) : Vector Drive 8 :=
  Vector.ofFn fun g : Fin 8 =>
    let p := if g.1 < 4 then x.phases[0] else x.phases[1]
    if p.gates.contains (g.1 % 4) != polLow then .high else .low

/-- The gate balls brought to the phases' states. DESIGN CHOICE, log entries 55, 115. -/
def driveGates (a : Fin 8) (s : State) : State :=
  s.updPins fun p => { p with mgate := p.mgate.set a.1 (s.axes[a].gateBalls (bitAt p.pinmap 20)) a.2 }

/-! ### The microstep table -/

/-- The signed targets W_A and W_B of index e (R549). -/
def Axis.targets (x : Axis) : Int × Int :=
  let w := x.waveNow.getD (x.e % 256) 0
  let la : Int := fld w 9 0
  let lb : Int := fld w 25 16
  match x.e / 256 with
  | 0 => (la, lb) | 1 => (-lb, la) | 2 => (-la, -lb) | _ => (lb, -la)

/-- A phase takes a target: it starts a new cycle when the sign changes, or when told to (R551). -/
def Phase.take (p : Phase) (w : Int) (fresh : Bool) (time : Word) : Phase :=
  if fresh || p.w.sign != w.sign then { p with w := w, pos := decide (0 < w), st := if w = 0 then .slow else .mask, time := time }
  else { p with w := w }

/-- A microstep update: table, PHASECUR and targets take hold (R548, R549, R560). DESIGN CHOICE, log entry 55. -/
def Axis.update (x : Axis) (fresh : Bool) : Axis :=
  let x := { x with waveNow := x.wave, curNow := x.phasecur }
  let (wa, wb) := x.targets
  { x with phases := #v[x.phases[0].take wa fresh x.choptime, x.phases[1].take wb fresh x.choptime] }

/-- The index moved by one step (R549). -/
def Axis.turnIndex (x : Axis) : Axis :=
  let k := 2 ^ (8 - x.subdiv)
  { x with e := (if x.fwd != x.inv then x.e + k else x.e + 1024 - k) % 1024 }

/-! ### Moves -/

/-- The speed cap of PW (R537). -/
def pwCap (cfg : Word) : Nat := 1250000000 / (fld cfg 31 16 + 100)

/-- A leg begins: direction, length if it has one, speed asked for (R535 to R538). -/
def startLeg (a : Fin 8) (fwd : Bool) (len : Option Nat) (speed : Nat) (s : State) : State :=
  let s := s.updAxis a fun x =>
    let cap := min speed (min (pwCap x.stepNow) 5000000)
    { x with fwd := fwd, len := len, done := 0, stop := none, vel := 0
             peak := match len with
               | some n => peakSpeed cap x.act.amax.toNat x.act.dmax.toNat x.act.jmax.toNat n
               | none => cap * 2 ^ 20 }
  if s.axes[a].bridge then s
  else s.updPins fun p => { p with mdir := p.mdir.set a.1 (if fwd != s.axes[a].inv then .high else .low) a.2 }

/-- Settling begins (R539). DEDUCED, log entry 51. -/
def settle (a : Fin 8) (s : State) : State :=
  s.updAxis a fun x => { x with state := .settling, vel := 0, stop := none, len := none, done := 0, homeStep := 0 }

/-- Pulses end at once; a fast motor may have slipped (R541). DEDUCED, log entry 52. -/
def Axis.cut (x : Axis) : Axis :=
  if x.vsafe.toNat < x.vel.natAbs then { x with posValid := false, posLost := true } else x

/-- Homing fails: pulses end at once, and POS_VALID is 0 whatever the speed (R541, R547). -/
def homingFault (a : Fin 8) (s : State) : State :=
  publish (0x02E8 + a.1) (s.updAxis a fun x =>
    { x.cut with homingFault := true, posValid := false, state := .idle, vel := 0, stop := none, len := none, done := 0, homeStep := 0, latched := none })

/-- The fourth homing step (R546). DEDUCED, log entry 53. -/
def homeSlow (a : Fin 8) (s : State) : State :=
  startLeg a s.axes[a].homeFwd none s.axes[a].act.vslow.toNat (s.updAxis a fun x => { x with homeStep := 4, homeCount := 0, latched := none })

/-- The third homing step; the manual names no speed for it, so it is one of the two (R546). DEDUCED, log entry 53. -/
def homeBack (a : Fin 8) (s : State) : State :=
  let (fast, s) := s.drawBool
  let x := s.axes[a]
  startLeg a (! x.homeFwd) (some x.act.backoff.toNat) (if fast then x.act.vfast.toNat else x.act.vslow.toNat)
    (s.updAxis a fun x => { x with homeStep := 3, homeCount := 0 })

/-- The fifth homing step (R546). -/
def homeDone (a : Fin 8) (s : State) : State :=
  settle a (s.updAxis a fun x =>
    { x with pos := x.act.homePos + (x.pos - x.latched.getD x.pos), posValid := true, homed := true, latched := none })

/-- The last step of a leg has been placed, or its speed has reached 0 (R539, R546). -/
def legEnd (a : Fin 8) (s : State) : State :=
  let x := s.axes[a]
  if x.state = .homing then
    match x.homeStep with
    | 2 => homeBack a s
    | 3 => if x.reference then homingFault a s else homeSlow a s
    | 4 => homeDone a s
    | _ => settle a s
  else settle a s

/-- The speed falls at DSTOP; whether the step in progress when it begins is completed is open (R540). DEDUCED, log entry 51. -/
def slowDown (a : Fin 8) (s : State) : State :=
  let (extra, s) := s.drawBool
  let x := s.axes[a]
  let v := x.vel.natAbs
  let n := v * v / (2 * x.dstop.toNat) + (if extra && decide (v ≠ 0) then 1 else 0)
  let s := s.updAxis a fun x => { x with stop := some (v, x.dstop.toNat), len := some n, done := 0 }
  if n = 0 then legEnd a s else s

/-- STOP (R540, R542). DEDUCED, log entry 51. -/
def axisStop (a : Fin 8) (s : State) : State :=
  let x := s.axes[a]
  if x.en && (x.state == .moving || x.state == .homing) then slowDown a (s.updAxis a fun x => { x with state := .stopping, homeStep := 0, latched := none }) else s

/-- ISTOP (R541). -/
def axisIstop (a : Fin 8) (s : State) : State :=
  if s.axes[a].turning then settle a (s.updAxis a fun x => { x.cut with latched := none }) else s

/-- The direction of the move the pending set asks for, none for a distance of 0 (R534, R536). -/
def pendDir (x : Axis) : Option Bool :=
  let z := toSigned 32 (if fld x.pend.movectl 31 29 = 0 then x.pend.target - x.pos else x.pend.target).toNat
  match fld x.pend.movectl 31 29 with
  | 2 => some true
  | 3 => some false
  | 4 => some (! bitAt x.pend.homectl 28)
  | _ => if z = 0 then none else some (decide (0 < z))

/-- The limit a START would move toward, if any. -/
def towardLimit (x : Axis) : Option (Fin 2) := (pendDir x).map fun fwd => if fwd then 0 else 1

/-- An enabled limit that is active stands in the way of a START (R544). -/
def blocked (x : Axis) : Bool :=
  match towardLimit x with
  | some i => x.limEn i && x.lim[i]
  | none => false

/-- The checks of a START (R561). -/
def moveRefused (x : Axis) : Status :=
  let tripped := match towardLimit x with
    | some i => x.trip[i]
    | none => false
  let m := fld x.pend.homectl 31 29
  let noLimit := decide (fld x.pend.movectl 31 29 = 4) && ((m == 1 && ! x.limEn 0) || (m == 2 && ! x.limEn 1))
  firstRefusal [(! x.en, .state), (x.state != .idle, .busy), (tripped || blocked x, .state), (noLimit, .state)]

/-- A limit trips: it is latched and published (R544). -/
def latchTrip (a : Fin 8) (i : Fin 2) (s : State) : State :=
  publish (0x02F0 + a.1) (s.updAxis a fun x => { x with trip := x.trip.set i.1 true i.2 })

/-- A START refused because a limit is active trips that limit (R544). -/
def startTrips (a : Fin 8) (s : State) : State :=
  let x := s.axes[a]
  match towardLimit x with
  | some i => if x.en && x.state == .idle && ! x.trip[i] && blocked x then latchTrip a i s else s
  | none => s

/-- START, after its checks (R536 to R538, R546). DEDUCED, log entry 53. -/
def axisStart (a : Fin 8) (s : State) : State :=
  let dir := pendDir s.axes[a]
  let s := s.updAxis a fun x =>
    { x with act := x.pend, stepNow := x.stepcfg, atRest := false, state := .moving
             vcap := x.vcap || decide (pwCap x.stepcfg < x.pend.vmax.toNat) }
  let x := s.axes[a]
  match fld x.act.movectl 31 29, dir with
  | 4, _ =>
    let s := s.updAxis a fun x => { x with posValid := false, homed := false, state := .homing, homeStep := 1, homeCount := 0, latched := none }
    let s := startLeg a x.homeFwd none x.act.vfast.toNat s
    if s.axes[a].reference then homeBack a s else s
  | _, none => settle a s
  | 2, some d | 3, some d => startLeg a d none x.act.vmax.toNat s
  | ty, some d =>
    let z := toSigned 32 (if ty = 0 then x.act.target - x.pos else x.act.target).toNat
    startLeg a d (some z.natAbs) x.act.vmax.toNat s

/-- One step is placed (R534, R537, R549). -/
def placeStep (a : Fin 8) (s : State) : State :=
  let s := s.updAxis a fun x =>
    { x with pos := if x.fwd then x.pos + 1 else x.pos - 1, steps := satInc x.steps, done := x.done + 1, homeCount := x.homeCount + 1 }
  let x := s.axes[a]
  let s :=
    if x.bridge then
      if x.frozen then s else driveGates a (s.updAxis a fun x => x.turnIndex.update false)
    else
      ((s.updAxis a fun x => { x with fallAt := some (s.coreTime + fld x.stepNow 31 16) }).updPins
        fun p => { p with mstep := p.mstep.set a.1 .high a.2 }).send (.step a x.fwd)
  setVel a s

/-- The steps a homing search may still take (R546). DEDUCED, log entry 53. -/
def homeBound (x : Axis) : Option Nat :=
  if x.state = .homing then
    match x.homeStep with
    | 1 => some x.act.homeMax.toNat
    | 4 => if x.latched.isNone then some (x.act.backoff.toNat + x.act.homeMax.toNat) else none
    | _ => none
  else none

/-- The next step instant of the profile (R537, R546, R547). DESIGN CHOICE, log entry 50. DEDUCED, log entry 53. -/
def stepPulse (a : Fin 8) (s : State) : State :=
  let x := s.axes[a]
  if inReset (.axis a) s || ! x.turning then s
  else if (homeBound x).any fun b => decide (b ≤ x.homeCount) then homingFault a s
  else
    let s := placeStep a s
    let x := s.axes[a]
    if x.len = some x.done then legEnd a s else s

/-! ### Limit and home inputs -/

/-- The reference becomes active during homing (R546). The edge it was accepted from lies within the debounce before it. DEDUCED, log entry 53. -/
def referenceSeen (a : Fin 8) (s : State) : State :=
  let x := s.axes[a]
  match x.homeStep with
  | 1 => slowDown a (s.updAxis a fun x => { x with homeStep := 2 })
  | 4 =>
    if x.latched.isSome then s
    else
      let (free, s) := s.drawNat
      let most := if x.deb = 0 then 0 else min x.done (x.deb * x.act.vslow.toNat / 1000000 + 1)
      let back := BitVec.ofNat 32 (free % (most + 1))
      slowDown a (s.updAxis a fun x => { x with latched := some (if x.fwd then x.pos - back else x.pos + back) })
  | _ => s

/-- A limit's accepted state changes (R544, R545, R547). -/
def limitChange (a : Fin 8) (i : Fin 2) (active : Bool) (s : State) : State :=
  let x := s.axes[a]
  if active = x.lim[i] then s
  else
    let s := s.updAxis a fun x => { x with lim := x.lim.set i.1 active i.2, limOff := if active then x.limOff else x.limOff.set i.1 s.coreTime i.2 }
    if ! active then s
    else if x.en && x.isReference i then referenceSeen a s
    else if x.en && x.state == .homing && x.limEn i then
      if x.trip[i] then homingFault a (s.updAxis a fun x => { x with chatter := satInc x.chatter })
      else homingFault a (latchTrip a i s)
    else if x.trip[i] then s.updAxis a fun x => { x with chatter := satInc x.chatter }
    else if x.limEn i && x.turning && x.fwd == (i == 0) then latchTrip a i (axisIstop a s)
    else s

/-- The home input's accepted state changes (R546). -/
def homeChange (a : Fin 8) (active : Bool) (s : State) : State :=
  let x := s.axes[a]
  let s := s.updAxis a fun x => { x with home := active }
  if active && ! x.home && x.en && x.state == .homing && x.method == 0 then referenceSeen a s else s

/-- Four debounce periods, in core clocks (R545). DEDUCED, log entry 54. -/
def Axis.quiet (x : Axis) : Nat := if x.deb = 0 then 4 * clkUs else 4 * x.deb * clkUs

/-- A latched trip may be cleared (R545). DEDUCED, log entry 54. -/
def Axis.clearable (x : Axis) (now : Nat) (i : Fin 2) : Bool := ! x.lim[i] && decide (x.limOff[i] + x.quiet ≤ now)

/-! ### The chopper -/

/-- A phase changed, and the gates driven. -/
def updPhase (a : Fin 8) (p : Fin 2) (f : Phase → Phase) (s : State) : State :=
  driveGates a (s.updAxis a fun x => { x with phases := modAt x.phases p f })

/-- The chopper of an axis runs: bridge-gate mode, or holding after a reset (R533, R555). DESIGN CHOICE, log entry 55. -/
def chopping (a : Fin 8) (s : State) : Bool :=
  let x := s.axes[a]
  s.rst.level != some 0 && (x.frozen || (x.en && x.bridge && ! inReset (.axis a) s))

/-- The mask ends and the floor is sampled (R551). -/
def chopMaskEnd (a : Fin 8) (p : Fin 2) (sense : Nat) (s : State) : State :=
  let x := s.axes[a]
  if chopping a s && x.phases[p].st == .mask then
    updPhase a p (fun k => { k with low := decide (sense < x.floor p)
                                    st := if sense < x.ceiling p then .drive else if fld k.time 22 14 = 0 then .slow else .fast }) s
  else s

/-- The sense input reaches the ceiling (R551). -/
def chopCeiling (a : Fin 8) (p : Fin 2) (s : State) : State :=
  if chopping a s && s.axes[a].phases[p].st == .drive then updPhase a p (fun k => { k with st := if fld k.time 22 14 = 0 then .slow else .fast }) s
  else s

/-- REVERSE_T ends (R551). -/
def fastDecayEnd (a : Fin 8) (p : Fin 2) (s : State) : State :=
  if chopping a s && s.axes[a].phases[p].st == .fast then updPhase a p (fun k => { k with st := .slow }) s else s

/-- The decay ends: the band is tracked and the next cycle starts (R551, R552). -/
def chopDecayEnd (a : Fin 8) (p : Fin 2) (s : State) : State :=
  let x := s.axes[a]
  let k := x.phases[p]
  if chopping a s && (k.st == .slow || k.st == .fast) && k.w != 0 then
    updPhase a p (fun k =>
      { k with st := .mask, time := x.choptime
               band := if bitAt x.curNow 31 then (if k.low then min (fld x.curNow 7 0) (k.band + 1) else min (fld x.curNow 7 0) (k.band - 1)) else k.band }) s
  else s

/-! ### Objects -/

/-- The axis objects (R556). -/
inductive AxReg where
  | axctl | axstat | pos | target | vmax | amax | dmax | jmax | movectl | movecmd | dstop | vel | vsafe | settle | steps | stepcfg | swcfg | chatter
  | homectl | vfast | vslow | backoff | homeMax | homePos | choptime | phasecur | restDelay | bandNow | waveTab
deriving DecidableEq, Repr

/-- The objects by sub (R556). -/
def AxReg.table : List (Nat × AxReg) :=
  [(0x01, .axctl), (0x02, .axstat), (0x03, .pos), (0x04, .target), (0x05, .vmax), (0x06, .amax), (0x07, .dmax), (0x08, .jmax), (0x09, .movectl),
   (0x0A, .movecmd), (0x0B, .dstop), (0x0C, .vel), (0x0D, .vsafe), (0x0E, .settle), (0x0F, .steps), (0x10, .stepcfg), (0x11, .swcfg), (0x12, .chatter),
   (0x13, .homectl), (0x14, .vfast), (0x15, .vslow), (0x16, .backoff), (0x17, .homeMax), (0x18, .homePos), (0x19, .choptime), (0x1A, .phasecur),
   (0x1B, .restDelay), (0x1C, .bandNow), (0x1D, .waveTab)]

/-- What the table says of it (R556). -/
def AxReg.desc : AxReg → Desc
  | .axctl => .rw .bits32 1 | .axstat => .status | .pos => .rw .s32 1 | .target => .rw .s32 1 4
  | .vmax => (Desc.rw .u32 1 4).within 1 5000000 | .amax => (Desc.rw .u32 1 4).within 1 4294967295 | .dmax => (Desc.rw .u32 1 4).within 1 4294967295
  | .jmax => .rw .u32 1 4 | .movectl => .rw .bits32 1 4 | .movecmd => .wo .bits32 1
  | .dstop => (Desc.rw .u32 1).within 1 4294967295 | .vel => .ro .s32 | .vsafe => .rw .u32 1 | .settle => (Desc.rw .u32 1).within 0 10000000
  | .steps => .ro .u48 | .stepcfg => .rw .bits32 1 | .swcfg => .rw .bits32 1 | .chatter => .ro .u32 | .homectl => .rw .bits32 1 4
  | .vfast => (Desc.rw .u32 1 4).within 1 5000000 | .vslow => (Desc.rw .u32 1 4).within 1 5000000 | .backoff => (Desc.rw .u32 1 4).within 1 (2 ^ 31 - 1)
  | .homeMax => (Desc.rw .u32 1 4).within 1 (2 ^ 31 - 1) | .homePos => .rw .s32 1 4 | .choptime => .rw .bits32 1 | .phasecur => .rw .bits32 1
  | .restDelay => (Desc.rw .u32 1).within 0 60000 | .bandNow => .ro .bits32 | .waveTab => (Desc.rw .blob 1).long 1024

/-- AXSTAT (R558). -/
def Axis.stat (x : Axis) : Word :=
  place 32 29 (if x.en then x.state.code else 0) ||| flagBit 28 x.posValid ||| flagBit 27 x.homed ||| flagBit 26 x.posLost ||| flagBit 25 x.homingFault
  ||| flagBit 24 x.trip[0] ||| flagBit 23 x.trip[1] ||| flagBit 22 x.lim[0] ||| flagBit 21 x.lim[1] ||| flagBit 20 x.home ||| flagBit 19 x.atRest
  ||| flagBit 18 x.vcap

/-- What an object reads. -/
def AxReg.read (s : State) (a : Fin 8) (r : AxReg) : Val :=
  let x := s.axes[a]
  match r with
  | .axctl => bv x.ctl | .axstat => bv x.stat | .pos => bv x.pos | .target => bv x.pend.target | .vmax => bv x.pend.vmax | .amax => bv x.pend.amax
  | .dmax => bv x.pend.dmax | .jmax => bv x.pend.jmax | .movectl => bv x.pend.movectl | .movecmd => .num 0 | .dstop => bv x.dstop
  | .vel => .num (ofSigned 32 x.vel) | .vsafe => bv x.vsafe | .settle => bv x.settle | .steps => bv x.steps | .stepcfg => bv x.stepcfg
  | .swcfg => bv x.swcfg | .chatter => bv x.chatter | .homectl => bv x.pend.homectl | .vfast => bv x.pend.vfast | .vslow => bv x.pend.vslow
  | .backoff => bv x.pend.backoff | .homeMax => bv x.pend.homeMax | .homePos => bv x.pend.homePos | .choptime => bv x.choptime
  | .phasecur => bv x.phasecur | .restDelay => bv x.restDelay
  | .bandNow => .num (x.bandOf 1 * 65536 + x.bandOf 0)
  | .waveTab => .bytes (x.wave.flatMap fun w => leBytes 4 w.toNat)

/-- A byte string as 32-bit words. -/
def waveWords : List Byte → List Word
  | a :: b :: c :: d :: r => BitVec.ofNat 32 (ofLe [a, b, c, d]) :: waveWords r
  | _ => []

/-- A MOVECMD word asks for a START and nothing that prevails over it (R542). -/
def startsMove (w : Word) : Bool := bitAt w 31 && ! bitAt w 30 && ! bitAt w 29

/-- Its own checks (R545, R548, R559 to R561). -/
def AxReg.check (x : Axis) (now : Nat) (r : AxReg) (v : Val) : Status :=
  let w := v.word
  match r with
  | .axctl => firstRefusal [(x.en && (w &&& 0x6F000000) != (x.ctl &&& 0x6F000000), .state), (decide (8 < fld w 27 24), .range)]
  | .axstat =>
    firstRefusal [((x.trip[0] && ! bitAt w 24 && ! x.clearable now 0) || (x.trip[1] && ! bitAt w 23 && ! x.clearable now 1), .state)]
  | .pos => firstRefusal [(! x.isIdle, .state)]
  | .movectl => firstRefusal [(decide (4 < fld w 31 29), .range)]
  | .movecmd => if startsMove w then moveRefused x else .ok
  | .stepcfg => firstRefusal [(decide (fld w 31 16 < 100) || decide (fld w 15 0 < 125), .range)]
  | .swcfg => firstRefusal [(decide (10000 < fld w 31 18), .range)]
  | .homectl => firstRefusal [(decide (2 < fld w 31 29), .range)]
  | .choptime =>
    firstRefusal
      [(decide (fld w 31 23 < 10) || decide (fld w 31 23 < fld w 22 14) || decide (fld w 13 8 < 1) || decide (fld w 7 0 < 7), .range)]
  | .waveTab =>
    firstRefusal
      [(v.toBytes.length != 1024, .type), ((waveWords v.toBytes).any fun w => decide (fld w 31 26 ≠ 0) || decide (fld w 15 10 ≠ 0), .range),
       (x.bridge && ! x.isIdle, .state)]
  | _ => .ok

/-- The pending set changed. -/
def pendSet (a : Fin 8) (f : AxSet → AxSet) (s : State) : State := s.updAxis a fun x => { x with pend := f x.pend }

/-- The phases of an enabled axis in bridge-gate mode start; those of any other are off (R533, R549, R552). DEDUCED, log entry 52. -/
def Axis.enabled (x : Axis) : Axis :=
  if x.en then
    let x := { x with e := 0, phases := x.phases.map fun p : Phase => { p with band := 0 } }
    if x.bridge then x.update true else { x with phases := x.phases.map fun p : Phase => { p with st := .off, w := 0 } }
  else
    let x := if x.state == .moving || x.state == .stopping || x.state == .homing then x.cut else x
    { x with state := .idle, vel := 0, stop := none, len := none, done := 0, homeStep := 0, latched := none, atRest := false
             phases := x.phases.map fun p : Phase => { p with st := .off, w := 0 } }

/-- AXCTL written (R533, R549, R555, R557). DEDUCED, log entry 52. -/
def writeAxctl (a : Fin 8) (w : Word) (s : State) : State :=
  let s := s.updAxis a fun x => ({ x with ctl := w &&& 0xEF000000, frozen := false } : Axis).enabled
  let s := driveGates a s
  let x := s.axes[a]
  if x.en && ! x.bridge then s
  else (s.updAxis a fun x => { x with fallAt := none }).updPins fun p => { p with mstep := p.mstep.set a.1 .low a.2, mdir := p.mdir.set a.1 .low a.2 }

/-- SWCFG written: an input whose polarity changes reads the other way (R543, R559). DEDUCED, log entry 54. -/
def writeSwcfg (a : Fin 8) (w : Word) (s : State) : State :=
  let x := s.axes[a]
  let s := s.updAxis a fun x => { x with swcfg := w &&& maskOf 31 13 }
  let s := if bitAt w 17 != x.limPol 0 then limitChange a 0 (! x.lim[0]) s else s
  let s := if bitAt w 16 != x.limPol 1 then limitChange a 1 (! x.lim[1]) s else s
  if bitAt w 15 != bitAt x.swcfg 15 then homeChange a (! x.home) s else s

/-- What an accepted write does. -/
def AxReg.write (a : Fin 8) (r : AxReg) (v : Val) (s : State) : State :=
  let w := v.word
  match r with
  | .axctl => writeAxctl a w s
  | .axstat => s.updAxis a fun x =>
      { x with posLost := keepSticky x.posLost (bitAt w 26), homingFault := keepSticky x.homingFault (bitAt w 25)
               trip := #v[keepSticky x.trip[0] (bitAt w 24), keepSticky x.trip[1] (bitAt w 23)], vcap := keepSticky x.vcap (bitAt w 18) }
  | .pos => s.updAxis a fun x => { x with pos := w, posValid := true }
  | .target => pendSet a (fun p => { p with target := w }) s
  | .vmax => pendSet a (fun p => { p with vmax := w }) s
  | .amax => pendSet a (fun p => { p with amax := w }) s
  | .dmax => pendSet a (fun p => { p with dmax := w }) s
  | .jmax => pendSet a (fun p => { p with jmax := w }) s
  | .movectl => pendSet a (fun p => { p with movectl := w &&& maskOf 31 29 }) s
  | .movecmd => if bitAt w 29 then axisIstop a s else if bitAt w 30 then axisStop a s else if bitAt w 31 then axisStart a s else s
  | .dstop => s.updAxis a fun x => { x with dstop := w }
  | .vsafe => s.updAxis a fun x => { x with vsafe := w }
  | .settle => s.updAxis a fun x => { x with settle := w }
  | .stepcfg => s.updAxis a fun x => { x with stepcfg := w }
  | .swcfg => writeSwcfg a w s
  | .homectl => pendSet a (fun p => { p with homectl := w &&& maskOf 31 28 }) s
  | .vfast => pendSet a (fun p => { p with vfast := w }) s
  | .vslow => pendSet a (fun p => { p with vslow := w }) s
  | .backoff => pendSet a (fun p => { p with backoff := w }) s
  | .homeMax => pendSet a (fun p => { p with homeMax := w }) s
  | .homePos => pendSet a (fun p => { p with homePos := w }) s
  | .choptime => s.updAxis a fun x => { x with choptime := w }
  | .phasecur => s.updAxis a fun x => { x with phasecur := w &&& ~~~ (maskOf 30 28) }
  | .restDelay => s.updAxis a fun x => { x with restDelay := w }
  | .waveTab => s.updAxis a fun x => { x with wave := waveWords v.toBytes }
  | _ => s

/-! ### Resets -/

/-- What every reset that reaches an axis does: an instant stop, trips cleared, CHATTER zeroed; the chopper holds (R56, R555). -/
def Axis.halted (x : Axis) : Axis :=
  let x := if x.turning then x.cut else x
  { x with state := .idle, vel := 0, stop := none, len := none, done := 0, homeStep := 0, latched := none
           trip := Vector.replicate 2 false, chatter := 0, frozen := x.frozen || (x.en && x.bridge) }

/-- A level-1 reset: defaults but for what holds the motor (R91, R555). -/
def Axis.resetL1 (x : Axis) : Axis :=
  let k := x.halted
  let n : Axis := {}
  { n with
    frozen := k.frozen, phases := k.phases, curNow := k.curNow, waveNow := k.waveNow, atRest := k.frozen && k.atRest, fallAt := k.fallAt
    lim := k.lim, home := k.home, limOff := k.limOff, choptime := if k.frozen then k.choptime else n.choptime }

/-! ### Commands -/

/-- The task of R554: refused while the axis is in reset. -/
def axisTask (a : Fin 8) (t : Task) (check : Axis → Status) (act : State → State) (s : State) : State :=
  let s := performTask t (fun s => if inReset (.axis a) s || check s.axes[a] != .ok then none else some (act s)) s
  s

/-- AXIS_START_TASK (R544, R554). -/
def execAxisStartTask (a : Fin 8) (s : State) : Host.Outcome State Fault Refusal :=
  let due := (activationOf s (.axisStart a)).isSome && ! inReset (.axis a) s
  let trips := due && moveRefused s.axes[a] == .state
  let s := axisTask a (.axisStart a) moveRefused (axisStart a) s
  .next (if trips then startTrips a s else s)

/-- AXIS_STOP_TASK (R540, R554). -/
def execAxisStopTask (a : Fin 8) (s : State) : Host.Outcome State Fault Refusal := .next (axisTask a (.axisStop a) (fun _ => .ok) (axisStop a) s)

/-- AXIS_ISTOP_TASK (R541, R554). -/
def execAxisIstopTask (a : Fin 8) (s : State) : Host.Outcome State Fault Refusal := .next (axisTask a (.axisIstop a) (fun _ => .ok) (axisIstop a) s)

/-- STEP_PULSE (R537). DESIGN CHOICE, log entry 50. -/
def execStepPulse (a : Fin 8) (s : State) : Host.Outcome State Fault Refusal := .next (stepPulse a s)

/-- SETTLE_END (R539). DESIGN CHOICE, log entry 6. -/
def execSettleEnd (a : Fin 8) (s : State) : Host.Outcome State Fault Refusal :=
  .next (if ! inReset (.axis a) s && s.axes[a].en && s.axes[a].state == .settling then
      publish (0x02E0 + a.1) (s.updAxis a fun x => { x with state := .idle })
    else s)

/-- REST_DELAY_END (R550). DESIGN CHOICE, log entry 6. -/
def execRestDelayEnd (a : Fin 8) (s : State) : Host.Outcome State Fault Refusal :=
  .next (if ! inReset (.axis a) s && s.axes[a].isIdle then s.updAxis a fun x => { x with atRest := true } else s)

/-- LIMIT_INPUT: an accepted level of MLIMFWD or MLIMREV (R543, R544). -/
def execLimitInput (a : Fin 8) (rev level : Bool) (s : State) : Host.Outcome State Fault Refusal :=
  let i : Fin 2 := if rev then 1 else 0
  .next (if inReset (.axis a) s then s else limitChange a i (level != s.axes[a].limPol i) s)

/-- HOME_INPUT: an accepted level of MHOME (R543, R546). -/
def execHomeInput (a : Fin 8) (level : Bool) (s : State) : Host.Outcome State Fault Refusal :=
  .next (if inReset (.axis a) s then s else homeChange a (level != bitAt s.axes[a].swcfg 15) s)

/-- CHOP_MASK_END (R551). -/
def execChopMaskEnd (a : Fin 8) (ph : Fin 2) (sense : Nat) (s : State) : Host.Outcome State Fault Refusal := .next (chopMaskEnd a ph sense s)

/-- CHOP_CEILING (R551). -/
def execChopCeiling (a : Fin 8) (ph : Fin 2) (s : State) : Host.Outcome State Fault Refusal := .next (chopCeiling a ph s)

/-- CHOP_DECAY_END (R551, R552). -/
def execChopDecayEnd (a : Fin 8) (ph : Fin 2) (s : State) : Host.Outcome State Fault Refusal := .next (chopDecayEnd a ph s)

/-- FAST_DECAY_END (R551). -/
def execFastDecayEnd (a : Fin 8) (ph : Fin 2) (s : State) : Host.Outcome State Fault Refusal := .next (fastDecayEnd a ph s)

end Sys2Proof.Machine
end

