-- ==== Sys2Proof/Machine/Resets.lean ====
section
/-! DEFINITION. Resets as they are asserted: their sources and levels, what each level does to each block, the cold states of
the pins (R51 to R61, R84 to R96, R105, and each chapter's own rules for its blocks). -/

namespace Sys2Proof.Machine

open Sys2Proof

/-! ### Cold and pre-fuse states of the pins -/

/-- TRIG_CS, MSTEP_CS, MDIR_CS, PPS_CS (R60). -/
def coldDrive (k : Nat) : Drive :=
  match k with
  | 0 => .low | 1 => .high | 2 => .weakLow | _ => .weakHigh

/-- MGATE_CS of gate g of a phase (R60). -/
def coldGate (map : Word) (g : Nat) : Drive :=
  let on : Drive := if bitAt map 20 then .low else .high
  let off : Drive := if bitAt map 20 then .high else .low
  match fld map 19 18 with
  | 1 => if g % 2 = 1 then on else off
  | 2 => .hiZ
  | _ => off

/-- SYNC_CS (R60). -/
def coldSync (map : Word) : DiffDrive :=
  match fld map 17 16 with
  | 0 => .low | 1 => .high | _ => .hiZWeak

/-- The rails that the fuse pin map needs to be sensed (R51). -/
def fuseRails : List Rail := [.vddCore, .vddIo18, .vddMram]

/-- Where a bank with this supply stands in the sequence: unpowered, pre-fuse until the map has been sensed, then cold (R51). -/
def bankPhase (s : State) (rail : Rail) : PinPhase :=
  if ! s.pins.railsGood.contains rail then .unpowered else if fuseRails.all s.pins.railsGood.contains then .cold else .preFuse

/-- The state of an output in its bank's phase: high impedance while the bank is unpowered (R51). -/
def inPhase (ph : PinPhase) (pre cold : Drive) : Drive :=
  match ph with
  | .unpowered => .hiZ | .preFuse => pre | .cold => cold

/-- The 1.8 V outputs in the state of their bank's phase (R51, R53, R60). -/
def cold18 (s : State) : State :=
  let m := s.pins.pinmap
  let ph := bankPhase s .vddIo18
  let lvds := ph == .cold && bitAt m 28
  let trig := inPhase ph .weakLow (coldDrive (fld m 30 29))
  s.updPins fun p =>
    { p with phase18 := ph, trig := Vector.replicate 32 trig, trigLvds := Vector.replicate 32 lvds
             trigN := Vector.replicate 32 (if ph = .cold then trigLeg lvds trig else trig)
             sync := Vector.replicate 4 (match ph with
               | .unpowered => .hiZ | .preFuse => .weakBoth | .cold => coldSync m)
             pps := inPhase ph .weakLow (coldDrive (fld m 15 14)), ppsFallAt := none
             spi := #v[inPhase ph .weakHigh .high, inPhase ph .weakLow .low], uartTx := inPhase ph .weakHigh .high
             rstoutN := inPhase ph .low .low, extest := false, clamp := false }

/-- The 3.3 V outputs in the state of their bank's phase (R51 to R53, R60). -/
def cold33 (s : State) : State :=
  let m := s.pins.pinmap
  let ph := bankPhase s .vddIo33
  s.updPins fun p =>
    { p with phase33 := ph, xoff := Vector.replicate 16 (inPhase ph .weakHigh (xoffCold s))
             mstep := Vector.replicate 8 (inPhase ph .weakLow (coldDrive (fld m 24 23)))
             mdir := Vector.replicate 8 (inPhase ph .weakLow (coldDrive (fld m 22 21)))
             mgate := Vector.replicate 8 (Vector.ofFn fun g : Fin 8 => inPhase ph .hiZ (coldGate m (g.1 % 4)))
             txdis := Vector.replicate 2 (inPhase ph .weakHigh .high) }

/-- Every output in its cold state, or in the state of its bank's phase while a rail is not good (R51, R53, R58). -/
def coldPins (s : State) : State := cold33 (cold18 s)

/-- The fields of a fuse map on which its two copies agree: a field that differs takes 0 (R61, R99). -/
def agreed (fields : List (Nat × Nat)) (a b : Word) : Word :=
  fields.foldl (fun w f => if fld a f.1 f.2 = fld b f.1 f.2 then w ||| place 32 f.2 (fld a f.1 f.2) else w) 0

/-- The fields of the fuse pin map (R59). -/
def pinFields : List (Nat × Nat) :=
  [(31, 31), (30, 29), (28, 28), (27, 26), (25, 25), (24, 23), (22, 21), (20, 20), (19, 18), (17, 16), (15, 14)]

/-- The fields of the fuse reset map (R97). -/
def rstFields : List (Nat × Nat) := [(31, 31), (13, 12), (11, 10), (9, 8), (7, 6), (5, 4), (3, 2), (1, 0)]

/-- A pair of copies differs within a field. -/
def splitIn (fields : List (Nat × Nat)) (a b : Word) : Bool := fields.any fun f => fld a f.1 f.2 != fld b f.1 f.2

/-- Both copies of the fuse pin map are sensed (R51, R61). -/
def sensePins (s : State) : State :=
  s.updPins fun p => { p with pinmap := agreed pinFields s.fuses.pinA s.fuses.pinB }

/-- The sync ring's outputs: a follower repeats, a master drives, its side lines idle while its cue unit is in reset (R53, R57). DESIGN CHOICE, log entry 115. -/
def driveSync (s : State) : State :=
  if ! bitAt s.tb.ring.ctl 31 then s
  else if s.pins.clkm = 3 then s.updPins fun p => { p with sync := Vector.replicate 4 .run }
  else if bitAt s.tb.ring.ctl 30 then
    let side : DiffDrive := if inReset .cue s then .idle else .run
    s.updPins fun p => { p with sync := #v[.run, side, side, side] }
  else s

/-- MGTn_TXDIS: low while the port is enabled and its module present (R589). DESIGN CHOICE, log entry 115. -/
def driveTxdis (m : Fin 2) (s : State) : State :=
  if inReset (.mgt m) s then s
  else
    let on := bitAt s.mgt[m].ctl 31 && s.mgt[m].present
    s.updPins fun p => { p with txdis := p.txdis.set m.1 (if on then .low else .high) m.2 }

/-! ### What a reset does to each block -/

/-- A lane: levels 1 to 3 keep the equaliser and the taps (R153, R164, R207). -/
def laneReset (lv : Nat) (l : Lane) : Lane :=
  if lv = 1 then
    { ({} : Lane) with taps := l.taps, presetDue := l.presetDue, ctle := l.ctle, vga := l.vga, dfe := l.dfe, calFail := l.calFail }
  else l.reset

/-- A port: its counters are zeroed (R210). -/
def portReset (lv : Nat) (q : Port) : Port :=
  if lv = 1 then {} else { ({} : Port) with ctl := q.ctl, upTime := q.upTime, eidleMax := q.eidleMax }

/-- What heads and parallel ports share: take and slate counters continue, the other counters are zeroed by level 0 and by the
defaults of level 1 (R90, R91, R232). -/
def srcReset (lv : Nat) (x : Source) : Source :=
  if lv = 1 then { ({} : Source) with takeNo := x.takeNo, slateNo := x.slateNo }
  else { x with take := .idle, takeFrames := 0, cmdWait := none, pendingSet := [] }

/-- A head. -/
def headReset (lv : Nat) (h : Head) : Head :=
  if lv = 1 then {} else { ({} : Head) with ctl := h.ctl, format := h.format, formatNow := h.formatNow }

/-- A parallel camera port. -/
def pcamReset (lv : Nat) (k : Pcam) : Pcam := if lv = 1 then {} else { ({} : Pcam) with ctl := k.ctl, pclkLost := k.pclkLost }

/-- A pipeline, after what it had under way has been given up (R90, R91, R263, R295, R302). DEDUCED, log entry 118. -/
def pipeReset (lv : Nat) (k : Pipe) : Pipe := if lv = 1 then { ({} : Pipe) with gap := true, resetCause := true } else k.reset

/-- Its Tally engine (R334). -/
def tallyReset (lv : Nat) (t : Tally) : Tally := if lv = 1 then { ({} : Tally) with image := { imgB := t.image.imgB } } else t.reset

/-- An encoder channel: the input levels stay (R91). -/
def encReset (lv : Nat) (e : Enc) : Enc :=
  if lv = 1 then ({ ({} : Enc) with a := e.a, b := e.b, i := e.i } : Enc).start else e.reset

/-- A sequencer goes Idle with its counters at zero and its configuration kept; a reset of the unit alone keeps LATE, MISSED and CURSOR,
which R384 does not clear (R91, R384). -/
def seqReset (lv : Nat) (q : Seq) : Seq :=
  if lv = 1 then { ({} : Seq) with ctl := q.ctl, range := q.range, loopAdd := q.loopAdd, loops := q.loops }
  else { q with state := .idle, fired := 0, missedCnt := 0, carry := none }

/-- The sync ring unit: its counters go, a calibration under way ends; at level 1 its status returns to the defaults (R57, R91, R384). -/
def ringReset (lv : Nat) (r : Ring) : Ring :=
  let r := { r with cal := false, calSeen := false, pairs := [], ppsAt := none, crcErr := 0, tbMismatch := 0 }
  if lv = 1 then { r with lock := false, masterIdle := false, calDone := false, calBad := false, drift := false, resync := false, dMeas := 0
                          localDelay := 0, goodRun := 0, badRun := 0 }
  else r

/-- A trigger output: its pending pulses are gone, a pulse in progress runs on (R55, R384). -/
def trigReset (k : Trig) : Trig := { ({} : Trig) with cfg := k.cfg, cfgNow := k.cfgNow, configured := k.configured, endAt := k.endAt }

/-- The cue unit at level 1 or 3: the cue table and the configuration stay; history and TID records go (R384). The ring runs in the
retention domain (R57). -/
def cueReset (lv : Nat) (s : State) : State :=
  driveSync (s.updTb fun t =>
    { t with hist := [], mainsPeriod := 0, mainsReject := 0, periods := [], edgeAt := none
             seqs := mapAll t.seqs fun _ => seqReset lv
             trigs := mapAll t.trigs fun _ => trigReset
             stamps := mapAll t.stamps fun _ k => { ({} : Stamp) with ctl := k.ctl }
             ring := ringReset lv t.ring })

/-- A PCIe link: down, and its functions in their reset state (R87). -/
def pcieReset (l : Fin 4) (s : State) : State :=
  (dropVfs l 0 (linkDown l s)).updLink l fun k => { ({} : Link) with perst := k.perst }

/-- A management port: its status goes, its pins' levels are held (R53, R87). -/
def mgtReset (lv : Nat) (m : Fin 2) (s : State) : State :=
  { s with ptp := { s.ptp with state := s.ptp.state.set m.1 0 m.2 } }.updMgt m fun g =>
    if lv = 1 then { ({} : Mgt) with present := g.present } else { g with link := false, los := false, addrNow := 0, linkLocal := false, dhcpWait := false }

/-- The control complex: firmware and the ROM stop, every session closes. Boot starts over, and with it ATTEMPTS and FAIL, of which the
manual does not say whether a level-3 reset keeps them (R87, R91, R124, R586, R634). DESIGN CHOICE, log entry 124. -/
def controlReset (s : State) : State :=
  let s := { s with svc := [], wdog := { s.wdog with running := none } }
  let s := s.updSec fun x => { x with verifying := none }
  let s := s.updAcc fun a => { a with sessions := [], mailbox := mapAll a.mailbox fun _ b => { b with busy := false } }
  s.updBoot fun b =>
    { b with phase := 0, attempts := 0, fail := 0, reverified := false, verifying := false, spiWait := .none, spiTries := 0, net := {}, window := false
             halted := false, lockstep := false }

/-- A stall-store channel's corrected and uncorrectable counts at their defaults (R91). -/
def DdrCh.zeroed (d : DdrCh) : DdrCh := { d with ce := 0, ue := 0 }

/-- The data path at level 1 or 2: takes end, open packets are rewound, channels are aborted, then each block is reset; XOFF holds its
levels (R53, R88 to R90, R118, R119). Ports that change STATE send vector 517 (R519). DEDUCED, log entry 85. -/
def dataPathReset (lv : Nat) (s : State) : State :=
  let xoff := s.pins.xoff
  let s := if s.ports.toList.any fun q => q.state != .disabled then deviceVector 517 s else s
  let s := s.each (List.finRange 18) abortTake
  let s := s.each (List.finRange 16) abortPipe
  let s := listPreserving s
  let s := s.each (List.finRange 512) fun c s => (landWrites c s).updDma c (Dma.afterReset c lv)
  { s with
    lanes := mapAll s.lanes fun _ => laneReset lv
    ports := mapAll s.ports fun _ => portReset lv
    srcs := mapAll s.srcs fun _ => srcReset lv
    heads := mapAll s.heads fun _ => headReset lv
    pcams := mapAll s.pcams fun _ => pcamReset lv
    pipes := mapAll s.pipes fun _ => pipeReset lv
    tallies := mapAll s.tallies fun _ => tallyReset lv
    pins := { s.pins with xoff := xoff } }

/-- Level 1: the data path, then everything else that R87 lists; objects that are not kept return to their defaults, and what MRAM
keeps is reloaded at the release (R91). DEDUCED, log entry 84. -/
def warmReset (s : State) : State :=
  let s := dataPathReset 1 s
  let s := s.each (List.finRange 4) pcieReset
  let s := controlReset s
  let s := (cueReset 1 s).each (List.finRange 2) (mgtReset 1)
  { s with
    encs := mapAll s.encs fun _ => encReset 1
    router := {}
    axes := mapAll s.axes fun _ => Axis.resetL1
    ptp := {}
    host := { s.host with cfg := 0, pairfn := ({} : HostPorts).pairfn, scrubHours := 24, rateMax := 8800, ddr := mapAll s.host.ddr fun _ => DdrCh.zeroed }
    faults := { s.faults with giveway := ({} : Faults).giveway }
    acc := { ({} : Access) with lastSession := s.acc.lastSession, jnlTokens := s.acc.jnlTokens, jnlTime := s.acc.jnlTime, rwpSecond := s.acc.rwpSecond
                                rwpCount := s.acc.rwpCount, ldpPortNow := s.acc.ldpPortNow }
    sec := { s.sec with updSlot := 0, updOfs := 0, updFail := 0, openSlot := none }
    thermal := ({ s.thermal with warnAt := ({} : Thermal).warnAt, warnSticky := false } : Thermal).followWarn
    wdog := { ({} : Wdog) with lastPc := s.wdog.lastPc }
    clk := { s.clk with ringswitch := 0 }
    rst := { s.rst with rstoutPending := false }
    boot := { s.boot with hostReady := false }
    pins := { s.pins with rstoutN := .low } }

/-- Level 0: everything but the fuses, the MRAM, the sensors and the record of the reset; the pins in their cold states (R58, R69, R82,
R87, R91, R101). -/
def coldReset (s : State) : State :=
  let t : State := {}
  coldPins { t with
    pending := s.pending, draw := s.draw, reply := s.reply, tx := s.tx, fuses := s.fuses, mram := s.mram
    rst := { ({} : Resets) with rstmap := s.rst.rstmap, level := s.rst.level, held := s.rst.held, causeLevel := s.rst.causeLevel
                                causeSrc := s.rst.causeSrc, causeDom := s.rst.causeDom, causeBlock := s.rst.causeBlock, lossDoms := s.rst.lossDoms }
    thermal := ({ s.thermal with warnAt := t.thermal.warnAt, warnSticky := false, warn := false } : Thermal).followWarn
    pins := s.pins
    host := { t.host with ddr := mapAll s.host.ddr fun _ d => { ({} : DdrCh) with trained := d.trained }
                          links := mapAll s.host.links fun _ k => { ({} : Link) with perst := k.perst } }
    mgt := mapAll s.mgt fun _ g => { ({} : Mgt) with present := g.present }
    encs := mapAll s.encs fun _ e => { ({} : Enc) with a := e.a, b := e.b, i := e.i }
    axes := mapAll s.axes fun _ x => { ({} : Axis) with lim := x.lim, home := x.home, limOff := x.limOff } }

/-- A reset of a source alone: its pipeline's outstanding sensor changes are dropped, the next frame opens an epoch, and the next
slate carries the gap flag (R90, R295). -/
def forgetSensor (i : Fin 18) (s : State) : State :=
  match boundPipe s i with
  | some p => s.updPipe p fun k => { k with outstanding := [], resetCause := true, gap := true }
  | none => s

/-- One block named by a level-3 reset (R85, R87, R120). DEDUCED, log entries 83, 85. -/
def resetBlk (b : Blk) (s : State) : State :=
  match b with
  | .lane n => settlePause ((moveLane n .disabled s).updLane n (laneReset 3))
  | .port p =>
    let s := match headOf s p with
      | some h => (linkLoses h s).2
      | none => s
    (setPState p .disabled s).updPort p (portReset 3)
  | .head h => ((forgetSensor (headSrc h) (abortTake (headSrc h) s)).updSrc (headSrc h) (srcReset 3)).updHead h (headReset 3)
  | .pcam n => ((forgetSensor (pcamSrc n) (abortTake (pcamSrc n) s)).updSrc (pcamSrc n) (srcReset 3)).updPcam n (pcamReset 3)
  | .pipe p =>
    let s := match boundSource s p with
      | some i => abortTake i s
      | none => s
    ((abortPipe p s).updPipe p (pipeReset 3)).updTally p (tallyReset 3)
  | .dma c => (landWrites c s).updDma c (Dma.afterReset c 3)
  | .link l => pcieReset l s
  | .enc n => s.updEnc n (encReset 3)
  | .cue => cueReset 3 s
  | .router => s.updRouter clearRouter
  | .axis a => s.updAxis a Axis.halted
  | .mgt m => mgtReset 3 m s
  | .control => controlReset s
  | .queues => listPreserving s
  | .stall | .ring => s

/-! ### Assertion -/

/-- The SRC bit of a source, counted from bit 22 (R101). -/
def RstSrc.bit : RstSrc → Nat
  | .por => 0 | .resetN => 1 | .wresetN => 2 | .wdog => 3 | .soft => 4 | .thermal => 5 | .clockLoss => 6 | .debug => 7

/-- CLASS and INDEX of a block in the 16 bits of BLOCK: six bits and ten (R101, R102). -/
def Blk.code : Blk → BitVec 16
  | .lane n => place 16 10 0x01 ||| place 16 0 n.1
  | .port n => place 16 10 0x02 ||| place 16 0 n.1
  | .head n => place 16 10 0x03 ||| place 16 0 n.1
  | .pcam n => place 16 10 0x04 ||| place 16 0 n.1
  | .pipe n => place 16 10 0x05 ||| place 16 0 n.1
  | .dma n => place 16 10 0x06 ||| place 16 0 n.1
  | .link n => place 16 10 0x07 ||| place 16 0 n.1
  | .enc n => place 16 10 0x08 ||| place 16 0 n.1
  | .cue => place 16 10 0x09
  | .router => place 16 10 0x0A
  | .axis n => place 16 10 0x0B ||| place 16 0 n.1
  | .mgt n => place 16 10 0x0C ||| place 16 0 n.1
  | .control => place 16 10 0x0D
  | .queues | .stall | .ring => 0

/-- The effect of a level as it is asserted (R87). -/
def applyLevel (lv : Fin 4) (b : Option Blk) (s : State) : State :=
  match lv with
  | 0 => coldReset s
  | 1 => warmReset s
  | 2 => dataPathReset 2 s
  | _ => match b with
    | some b => resetBlk b s
    | none => s

/-- A reset starts, or escalates: the assertion steps of its level. Blocks that a level-3 reset holds and the new level does not take
stay held with it (R94, R95, R101, R105). DEDUCED, log entry 83. -/
def startReset (lv : Fin 4) (b : Option Blk) (s : State) : State :=
  let b := if lv = 3 then b else none
  let kept := (s.rst.block.toList ++ s.rst.isolated).filter fun k => ! levelTakes lv b k
  applyLevel lv b { s with rst := { s.rst with level := some lv, block := b, causeLevel := lv, causeBlock := (b.map Blk.code).getD 0, isolated := kept } }

/-- A source asserts a reset of a level: it starts one, escalates the one in force, or is absorbed and recorded (R94 to R96, R101). DEDUCED, log entry 83. -/
def assertReset (src : RstSrc) (lv : Fin 4) (b : Option Blk) (s : State) : State :=
  let mark (t : State) : State := { t with rst := { t.rst with waitRefclk := false, causeSrc := t.rst.causeSrc ||| place 8 src.bit 1, held := if t.rst.held.contains src then t.rst.held else t.rst.held ++ [src] } }
  match s.rst.level with
  | none => startReset lv b (mark { s with rst := { s.rst with causeSrc := 0, causeDom := 0, held := [], lossDoms := [] } })
  | some cur =>
    let s := mark s
    if lv < cur then startReset lv b s
    else match b with
      | some k =>
        if cur = 3 ∧ s.rst.block ≠ b ∧ ¬ s.rst.isolated.contains k then resetBlk k { s with rst := { s.rst with isolated := s.rst.isolated ++ [k] } } else s
      | none => s

/-- POR: it alone clears RSTCAUSE, the sensors' state goes with everything volatile, and no MRAM write starts until level 0 is released
(R69, R101). DEDUCED, log entry 87. -/
def assertPor (s : State) : State :=
  let s := assertReset .por 0 none { s with mram := { s.mram with writesBarred := true } }
  { s with rst := { s.rst with causeLevel := 0, causeSrc := 1, causeDom := 0, causeBlock := 0 }
           thermal := { ({} : Thermal) with tripCount := s.thermal.tripCount } }

/-- The level a source is mapped to by the field at bit lo of the fuse reset map (R97, R98). -/
def mappedLevel (s : State) (lo : Nat) : Fin 4 := Fin.ofNat 4 (fld s.rst.rstmap (lo + 1) lo)

/-- A source with no block of its own: a mapped level 3 acts as level 2 (R85). -/
def wholeLevel (s : State) (lo : Nat) : Fin 4 := if mappedLevel s lo = 3 then 2 else mappedLevel s lo

/-- A reset of level 0 or 1, or of level 3 naming it, reaches the control complex. -/
def reachesControl (lv : Fin 4) (b : Option Blk) : Bool := lv == 0 || lv == 1 || (lv == 3 && b == some .control)

/-- Firmware enters the records it could not enter before (R628). DEDUCED, log entry 92. -/
def enterCaptured (s : State) : State :=
  let late := s.faults.captured
  { s with faults := { s.faults with captured := [] } }.each late logFault

/-- The watchdog expires: a mismatch before it has left its own record (R31, R634). When the mapped level leaves the control complex
running, the processors run again. DEDUCED, log entry 86. DESIGN CHOICE, log entry 114. -/
def wdogExpires (pc : BitVec 64) (s : State) : State :=
  if s.wdog.running.isNone then s
  else
    let s := if s.boot.lockstep then s
      else captureFault 0x0301 2 .control 0 (pc.toNat % 2 ^ 32) { s with wdog := { s.wdog with lastPc := pc } }
    let s := { s with wdog := { s.wdog with running := none } }
    let lv := mappedLevel s 8
    if reachesControl lv (some .control) then assertReset .wdog lv (some .control) s
    else
      let s := (assertReset .wdog lv none s).updBoot fun b => { b with halted := false, lockstep := false }
      enterCaptured { s with wdog := { s.wdog with running := some s.wdog.tmo } }

/-- The two processors disagree, on an instruction of firmware or of the ROM: both stop, and the mismatching program counter is captured;
which value that is comes from outside the manual (R31, R634). DEDUCED, log entry 86. -/
def lockstepMismatch (s : State) : State :=
  if inReset .control s || s.boot.halted then s
  else
    let (pc, s) := s.drawNat
    let s := { s with wdog := { s.wdog with lastPc := BitVec.ofNat 64 pc } }
    captureFault 0x0302 2 .control 0 (pc % 2 ^ 32) (s.updBoot fun b => { b with halted := true, lockstep := true })

/-- A SOFT request is asserted (R102, R103). -/
def assertSoft (v : Word) (s : State) : State := assertReset .soft (Fin.ofNat 4 (fld v 23 22)) (blkOf (fld v 21 16) (fld v 15 0)) s

/-- A SOFT request that waits 1 ms before it asserts (R103). -/
def softWaits (v : Word) : Bool := reachesControl (Fin.ofNat 4 (fld v 23 22)) (blkOf (fld v 21 16) (fld v 15 0))

/-- The DEBUG reset that a token has permitted (R85, R620). -/
def debugReset (s : State) : State := assertReset .debug (mappedLevel s 0) s.sec.rstBlock s

/-- The least voltage of a rail, in tenths of a millivolt (R64). -/
def Rail.least : Rail → Nat
  | .vddCore => 7275
  | .vddSram | .vddKln | .vddPcie | .vddMgt | .vddPll => 7760
  | .vddhKln | .vddhPcie => 11640
  | .vddqDdr => 10670
  | .vddDdrpll => 17460
  | .vddIo18 | .vddMram | .vppFuse | .vccioPc0 | .vccioPc1 => 17100
  | .vddIo33 => 31350
  | .vddAenc => 32000
  | .vddSpd => 9500

/-- The on-die detectors watch this rail (R69). -/
def Rail.watched : Rail → Bool
  | .vddCore | .vddSram | .vddIo18 | .vddMram => true
  | _ => false

/-- Every watched rail is good: what POR waits for (R84). -/
def railsUp (s : State) : Bool := (Rail.all.filter Rail.watched).all s.pins.railsGood.contains

/-- A rail leaves its limits: a watched one asserts POR, and an unpowered bank's outputs draw nothing (R51, R69). DEDUCED, log entry 87. -/
def railFalls (rail : Rail) (s : State) : State :=
  let s := s.updPins fun p => { p with railsGood := p.railsGood.erase rail }
  let s := if rail.watched then assertPor s else s
  if rail.watched then coldPins s else if rail = .vddIo33 then cold33 s else s

/-- A rail crosses its good level upward; with the rails of step 3 good the fuse pin map is sensed, and the pins take their cold states
(R51, R84). DEDUCED, log entry 87. -/
def railRises (rail : Rail) (s : State) : State :=
  let s := s.updPins fun p => { p with railsGood := if p.railsGood.contains rail then p.railsGood else p.railsGood ++ [rail] }
  let s := if rail.watched then assertPor s else s
  if fuseRails.contains rail then coldPins (if fuseRails.all s.pins.railsGood.contains then sensePins s else s)
  else if rail = .vddIo33 then cold33 s
  else s

/-- A supply is applied at a voltage: good from the least value of R64 on (R51, R64, R65). DEDUCED, log entry 87. -/
def powerUp (rail : Rail) (mv : Nat) (s : State) : State :=
  let s := s.updPins fun p => { p with vppMv := if rail = .vppFuse then mv else p.vppMv }
  if rail.least ≤ 10 * mv then railRises rail s else railFalls rail s

/-- POWER_UP (R51). DEDUCED, log entry 87. -/
def execPowerUp (rail : Rail) (mv : Nat) (s : State) : Host.Outcome State Fault Refusal := .next (powerUp rail mv s)

/-- POR (R69, R84): a watched rail dips below its minimum and comes back; one that stays away is POWER_UP's low voltage. DEDUCED, log entry 87. -/
def execPor (s : State) : Host.Outcome State Fault Refusal := .next (assertPor s)

/-- RESET_N_ASSERT (R84). -/
def execResetNAssert (s : State) : Host.Outcome State Fault Refusal := .next (assertReset .resetN (wholeLevel s 12) none s)

/-- WRESET_N_ASSERT (R84). -/
def execWresetNAssert (s : State) : Host.Outcome State Fault Refusal := .next (assertReset .wresetN (wholeLevel s 10) none s)

/-- SOFT_RESET_DELAYED_ASSERT (R103). -/
def execSoftResetDelayedAssert (s : State) : Host.Outcome State Fault Refusal :=
  .next (match s.rst.delayed with
    | v :: rest => assertSoft v { s with rst := { s.rst with delayed := rest } }
    | [] => s)

/-- WDOG_EXPIRY (R634). DESIGN CHOICE, log entry 114. -/
def execWdogExpiry (pc : BitVec 64) (s : State) : Host.Outcome State Fault Refusal := .next (wdogExpires pc s)

/-- WDOG_RESTART (R634, R636). DESIGN CHOICE, log entry 114. -/
def execWdogRestart (s : State) : Host.Outcome State Fault Refusal :=
  .next (if firmwareRuns s then { s with wdog := { s.wdog with running := some s.wdog.tmo } } else s)

/-- LOCKSTEP_MISMATCH (R31). -/
def execLockstepMismatch (s : State) : Host.Outcome State Fault Refusal := .next (lockstepMismatch s)

/-- RSTOUT_RELEASE (R50). -/
def execRstoutRelease (s : State) : Host.Outcome State Fault Refusal :=
  .next (if s.rst.rstoutPending then
    { s with rst := { s.rst with rstoutPending := false }, pins := { s.pins with rstoutN := .hiZ } } else s)

end Sys2Proof.Machine
end

