-- ==== Sys2Proof/Machine/Clocks.lean ====
section
/-! DEFINITION. The release of blocks, the clock monitor and the clock domains (R107 to R113, R116, R129). -/

namespace Sys2Proof.Machine

open Sys2Proof

/-! ### Release of blocks -/

/-- A quadrant calibrates; whether the result lies in the trim range, and the code, come from the resistor on the board: free values.
The first calibration after a release takes its code at once, a recalibration moves to it code by code (R129). DESIGN CHOICE, log entry 90. -/
def calibrate (first : Bool) (q : Fin 4) (s : State) : State :=
  let (failed, s) := s.drawBool
  let (code, s) := s.drawNat
  let code := if failed then Config.midTrim else code
  let s := { s with
    quads := modAt s.quads q fun k => { k with trim := if first then code else k.trim, goal := code, calTemp := s.thermal.sens[(Config.quadSensor q)] }
    lanes := mapAll s.lanes fun n l => if n.1 / 16 = q.1 then { l with calFail := failed } else l }
  if failed then fault 0x0501 0 .lane q.1 0 s else s

/-- The group counter of a quadrant starts (R174). DESIGN CHOICE, log entry 90. -/
def startQuad (q : Fin 4) (s : State) : State := { s with quads := modAt s.quads q fun k => { k with aseq := 0, alignSym := symbolsAt s.coreTime } }

/-- The timebase is reloaded from its source; the line and mains counts restart at 0, and a follower waits for the ring (R384, R396). -/
def reloadTb (s : State) : State :=
  match tbSrc s with
  | 1 => sourceLoad s.encs[(tbChan s)].count s
  | 2 | 3 => sourceLoad 0 s
  | 4 => sourceLoad (ptpTb s) s
  | 5 => s.updRing fun r => { r with reload := true }
  | _ => s

/-- UP_TIME of lane n's port runs from the release of a reset that includes its lanes, unless the port is Up (R184). -/
def restartUpTime (n : Fin 64) (s : State) : State :=
  match portOfLane s n with
  | some p => if s.ports[p].state = .up then s else s.updPort p fun q => { q with upTimer := true }
  | none => s

/-- A block is released and takes up its configuration (R54, R107, R119, R182). -/
def releaseBlk (b : Blk) (s : State) : State :=
  match b with
  | .lane n => restartUpTime n (if bitAt s.lanes[n].ctl 31 then moveLane n .detect s else s)
  | .port p => if bitAt s.ports[p].ctl 31 then enablePort p s else s
  | .head h => recheckHead h s
  | .cue => driveSync (reloadTb s)
  | .mgt m => driveTxdis m s
  | .queues => lend s
  | .link l => s.updLink l fun k => { k with training := ! k.perst && linkExists s l }
  | _ => s

/-- Blocks that nothing holds any longer are released, in order. -/
def releaseAll (bs : List Blk) (s : State) : State := s.each bs fun b s => if inReset b s then s else releaseBlk b s

/-- Blocks of the data path but for its lanes. -/
def dataBlks : List Blk :=
  [.queues] ++ (List.finRange 512).map .dma ++ (List.finRange 16).map .pipe ++ (List.finRange 16).map .port ++ (List.finRange 16).map .head
    ++ (List.finRange 2).map .pcam

/-- The other blocks of the CORE domain (R109). -/
def timingBlks : List Blk := (List.finRange 16).map .enc ++ [.router, .cue] ++ (List.finRange 8).map .axis

/-- The lanes of a quadrant. -/
def quadLanes (q : Nat) : List Blk := (List.range 16).map fun i => .lane (Fin.ofNat 64 (16 * q + i))

/-- The blocks of a clock domain (R109). -/
def domainBlks (d : Fin 23) : List Blk :=
  match d.1 with
  | 1 => [.control]
  | 2 => dataBlks ++ timingBlks
  | 3 => quadLanes 0
  | 4 => quadLanes 1
  | 5 => quadLanes 2
  | 6 => quadLanes 3
  | 7 => [.mgt 0, .mgt 1]
  | 20 => [.link 0, .link 1]
  | 21 => [.link 2, .link 3]
  | _ => []

/-- Lanes are released: each quadrant whose clock is good starts its group counter and calibrates (R129, R174). -/
def releaseQuads (qs : List (Fin 4)) (s : State) : State :=
  s.each qs fun q s =>
    if (quadLanes q.1).all fun b => inReset b s then s else releaseAll (quadLanes q.1) (calibrate true q (startQuad q s))

/-! ### Clock domains -/

/-- The clock of a DDR5 channel has failed: its contents are lost, and it stays out of service (R92, R526). DETAIL is the number of
committed packets that lose data. -/
def ddrLost (c : Fin 12) (s : State) : State :=
  if s.host.ddr[c].state ≠ 1 then s
  else
    let dead (t : State) (x : PCell) : Bool := decide (onDieCells ≤ x.index) && stallDead t (cellByte t x.index) 512
    let t := outOfService c s
    let hit (p : Packet) : Bool := p.cells.any fun x => dead t x && ! dead s x
    let n := (s.qm.queues.toList.map fun k => (k.packets.filter hit).length).sum
    fault 0x0205 2 .ddr c.1 n t

/-- CLKLOSS_CNT counts, kept in MRAM (R113). DESIGN CHOICE, log entry 88. -/
def countLoss (s : State) : State :=
  let n := satInc s.clk.lossCnt
  rwpRecord (objTarget 0x2010 3) (bv n) { s with clk := { s.clk with lossCnt := n } }

/-- The CORE PLL's input moves (R112). DEDUCED, log entry 89. -/
def moveCore (toRing : Bool) (s : State) : State :=
  { s with clk := { s.clk with ringSrc := toRing, ringswitch := satInc s.clk.ringswitch } }

/-- The level of a CLOCK_LOSS: REF's is 0 whatever the map says (R111, R112). DEDUCED, log entry 89. -/
def lossLevel (s : State) (d : Fin 23) : Fin 4 := if d = 0 then 0 else mappedLevel s 2

/-- A domain fails (R111, R112). SYNC_CLK_IN's loss moves CORE to REFCLK and resets nothing of it. "Sets the domain's bit in 2010.01" is
read as: CLKSTAT shows the failure, and by R113's table the bit of a domain that is not clock-good is 0. DEDUCED, log entries 89, 139. -/
def clockFails (d : Fin 23) (s : State) : State :=
  if ! s.clk.good[d] then s
  else if d = 22 then
    let s := countLoss { s with clk := { s.clk with good := s.clk.good.set 22 false, ringLost := true } }
    loseRing (if s.clk.ringSrc then fault 0x0401 2 .clock 22 0 (moveCore false s) else fault 0x0401 2 .clock 22 0 s)
  else
    let lv := lossLevel s d
    let before := (domainBlks d).filter fun b => ! inReset b s
    let s := countLoss s
    let s := if 8 ≤ d.1 ∧ d.1 < 20 then ddrLost (Fin.ofNat 12 (d.1 - 8)) s else s
    let s := if d = 1 then captureFault 0x0401 2 .clock d.1 0 s else fault 0x0401 2 .clock d.1 0 s
    let s := assertReset .clockLoss lv none s
    let s := { s with rst := { s.rst with causeDom := BitVec.ofNat 6 d.1, lossDoms := s.rst.lossDoms ++ [d] }
                      clk := { s.clk with good := if d = 0 then Vector.replicate 23 false else s.clk.good.set d.1 false d.2 } }
    let taken (b : Blk) : Bool := (s.rst.level.map fun lv => levelTakes lv s.rst.block b).getD false
    s.each (before.filter fun b => ! taken b) resetBlk

/-- A domain reset that a clock alone caused ends once nothing of it is held (R85, R104, R107). -/
def endDomainReset (s : State) : State :=
  if s.rst.level = some 3 ∧ s.rst.block = none ∧ s.rst.isolated = [] ∧ s.rst.held = [] then
    let n := satInc s.rst.count[(3 : Fin 4)]
    let s := rwpRecord (objTarget 0x2000 0x13) (bv n) { s with rst := { s.rst with level := none, count := s.rst.count.set 3 n } }
    if firmwareRuns s then jnlReset (enterCaptured s) else s
  else s

/-- A failed domain's clock is good again; CLOCK_LOSS ends with the last of them (R84). -/
def lossEnds (d : Fin 23) (r : Resets) : Resets :=
  let left := r.lossDoms.filter (· ≠ d)
  { r with lossDoms := left, held := if left.isEmpty then r.held.erase .clockLoss else r.held }

/-- A domain becomes clock-good: it is released, unless a level-0 reset is in force, whose release locks every PLL anew. CORE locks to
SYNC_CLK_IN in CLKM 0b11 unless that clock has been lost (R107, R111, R112, R116). DEDUCED, log entry 89. -/
def clockGood (d : Fin 23) (s : State) : State :=
  if d = 22 ∧ s.pins.clkm ≠ 3 then s
  else
    let s : State := { s with rst := lossEnds d s.rst }
    if s.rst.level = some 0 ∨ s.clk.good[d] then s
    else
      let s := { s with clk := { s.clk with good := s.clk.good.set d.1 true d.2, absent := s.clk.absent.set d.1 false d.2
                                            ringSrc := if d = 2 ∧ s.pins.clkm = 3 then ! s.clk.ringLost else s.clk.ringSrc } }
      let s := if 3 ≤ d.1 ∧ d.1 ≤ 6 then releaseQuads [Fin.ofNat 4 (d.1 - 3)] s else releaseAll (domainBlks d) s
      endDomainReset s

/-- A domain fails to lock at step 7: it stays in reset, and firmware enters the failure (R116). -/
def lockFails (d : Fin 23) (s : State) : State :=
  if s.rst.level = some 0 ∨ s.clk.good[d] ∨ d.1 < 2 ∨ (d = 22 ∧ s.pins.clkm ≠ 3) then s
  else
    let s := captureFault 0x0402 2 .clock d.1 0 { s with clk := { s.clk with absent := s.clk.absent.set d.1 true d.2 } }
    let s := if d ≠ 22 then s else
      let s := { s with clk := { s.clk with ringLost := true } }
      if s.clk.ringSrc then moveCore false s else s
    if firmwareRuns s then enterCaptured s else s

/-- SYNC_CLK_IN has been good for 1 ms: the CORE PLL's input returns to it (R112). -/
def ringReturns (s : State) : State :=
  if s.pins.clkm ≠ 3 ∨ s.rst.level = some 0 ∨ ! s.clk.ringLost then s
  else
    let s := { s with clk := { s.clk with good := s.clk.good.set 22 true, ringLost := false } }
    if s.clk.good[(2 : Fin 23)] then moveCore true s else s

/-- DOMAIN_LOCK_FAIL (R116). -/
def execDomainLockFail (d : Fin 23) (s : State) : Host.Outcome State Fault Refusal := .next (lockFails d s)

/-- CLOCK_FAILURE (R111). -/
def execClockFailure (d : Fin 23) (s : State) : Host.Outcome State Fault Refusal := .next (clockFails d s)

/-- RING_CLOCK_RETURN (R112). -/
def execRingClockReturn (s : State) : Host.Outcome State Fault Refusal := .next (ringReturns s)

end Sys2Proof.Machine
end

