-- ==== Sys2Proof/Machine/Heat.lean ====
section
/-! DEFINITION. The thermal sensors, the warning and the trip (R78 to R83). -/

namespace Sys2Proof.Machine

open Sys2Proof

/-- A number put into a rising list, duplicates kept. -/
def insertI (x : Int) : List Int → List Int
  | [] => [x]
  | y :: r => if x ≤ y then x :: y :: r else y :: insertI x r

/-- Twice the median of a list; of no reading at all it is taken as 0, which R82 leaves open (R82). DESIGN CHOICE, log entry 140. -/
def median2 (l : List Int) : Int :=
  let s := l.foldr insertI []
  s.getD ((s.length - 1) / 2) 0 + s.getD (s.length / 2) 0

/-- A reading outside -60 to 200 degrees (R82). -/
def outOfRange (t : Int) : Bool := decide (t < -960 ∨ 3200 < t)

/-- The sensors that work now. DEDUCED, log entry 91. -/
def working (s : State) : List (Fin 16) := (List.finRange 16).filter fun i => ! s.thermal.failed[i]

/-- The readings that the median is taken of: those of working sensors that lie in range. DEDUCED, log entry 91. -/
def soundTemps (s : State) : List Int := ((working s).map fun i => tempOf s.thermal.sens[i]).filter fun t => ! outOfRange t

/-- A sensor meets a failure condition (R82). -/
def sensorBad (s : State) (i : Fin 16) : Bool :=
  let t := tempOf s.thermal.sens[i]
  outOfRange t || decide (320 < (2 * t - median2 (soundTemps s)).natAbs)

/-- TJ_HOT and HOT_IDX of the working sensors: of several equally hot the lowest number, which R80 leaves open (R79, R80). DESIGN CHOICE, log entry 140. -/
def hottest (s : State) : Option (Fin 16) :=
  (working s).foldl (fun b i => match b with
    | some j => if tempOf s.thermal.sens[j] < tempOf s.thermal.sens[i] then some i else some j
    | none => some i) none

/-- A sensor fails (R82). -/
def failSensor (i : Fin 16) (s : State) : State :=
  fault 0x0405 0 .sensor i.1 0 { s with thermal := { s.thermal with failed := s.thermal.failed.set i.1 true i.2 } }

/-- TJ_HOT follows the sensors, with the warning. TJ_HOT and HOT_IDX keep their last values while no sensor works, and only a movement of
TJ_HOT is an upward crossing, not a write of TJ_WARN: the manual leaves both open (R79 to R81). DESIGN CHOICE, log entry 140. -/
def settleHot (s : State) : State :=
  match hottest s with
  | none => s
  | some i =>
    let was := tempOf s.thermal.hot
    let now := tempOf s.thermal.sens[i]
    let at_ := tempOf s.thermal.warnAt
    let s := { s with thermal := ({ s.thermal with hot := s.thermal.sens[i], hotIdx := i } : Thermal).followWarn }
    if was < at_ ∧ at_ ≤ now then
      deviceVector 516 (fault 0x0403 0 .sensor i.1 s.thermal.hot.toNat (publish 0x0320 { s with thermal := { s.thermal with warnSticky := true } }))
    else s

/-- THERMAL is asserted; firmware enters a trip's record after the reset (R83, R628, R635). DEDUCED, log entry 92. -/
def assertThermal (s : State) : State := if s.rst.held.contains .thermal then s else assertReset .thermal (wholeLevel s 4) none s

/-- A working sensor reaches 160 degrees; TRIP_COUNT lies in MRAM, where no new write starts while writes are barred (R69, R83). DEDUCED, log entry 92. -/
def tripHeat (s : State) : State :=
  match (working s).find? fun i => decide (2560 ≤ tempOf s.thermal.sens[i]) with
  | none => s
  | some i =>
    if s.pins.thermtripN = .low then s
    else
      let s := if s.mram.writesBarred then s else { s with thermal := { s.thermal with tripCount := satInc s.thermal.tripCount } }
      let s := captureFault 0x0404 2 .sensor i.1 0 s
      let s := s.updPins fun p => { p with thermtripN := .low }
      assertThermal s

/-- A quadrant calibrates again when its sensor has moved 10 degrees (R129). DESIGN CHOICE, log entry 90. -/
def recalibrate (q : Fin 4) (s : State) : State :=
  let t := tempOf s.thermal.sens[(Config.quadSensor q)]
  if (quadLanes q.1).all fun b => inReset b s then s
  else if 160 ≤ (t - tempOf s.quads[q].calTemp).natAbs then calibrate false q s else s

/-- One sample of all sixteen sensors (R78, R81 to R83). -/
def takeSample (t : Vector (BitVec 24) 16) (s : State) : State :=
  let s := { s with thermal := { s.thermal with sens := t } }
  let s := s.each ((working s).filter (sensorBad s)) failSensor
  let s := settleHot s
  let s := tripHeat s
  let s := if (working s).length < 8 then assertThermal s else s
  s.each (List.finRange 4) recalibrate

/-- A sample. During a level-0 reset the sensors are sampled and the trip watches, but nothing is logged and no interrupt is raised (R82, R116). -/
def thermalSample (t : Vector (BitVec 24) 16) (s : State) : State :=
  let r := takeSample t s
  if s.rst.level = some 0 then { r with faults := s.faults, host := s.host, thermal := { r.thermal with warnSticky := s.thermal.warnSticky } } else r

/-- A failed sensor has met neither failure condition for 100 ms (R82). -/
def sensorRecovers (i : Fin 16) (s : State) : State :=
  if ! s.thermal.failed[i] || sensorBad s i then s
  else settleHot { s with thermal := { s.thermal with failed := s.thermal.failed.set i.1 false i.2 } }

/-- The THERMAL source ends, and THERMTRIP_N with it (R50, R82, R83). -/
def thermalEnds (s : State) : State :=
  if s.rst.held.contains .thermal ∧ 8 ≤ (working s).length ∧ (working s).all fun i => decide (tempOf s.thermal.sens[i] < 2240) then
    { s with rst := { s.rst with held := s.rst.held.erase .thermal }, pins := { s.pins with thermtripN := .hiZ } }
  else s

/-- THERMAL_SAMPLE (R78). -/
def execThermalSample (t : Vector (BitVec 24) 16) (s : State) : Host.Outcome State Fault Refusal := .next (thermalSample t s)

/-- SENSOR_RECOVER (R82). DESIGN CHOICE, log entry 6. -/
def execSensorRecover (i : Fin 16) (s : State) : Host.Outcome State Fault Refusal := .next (sensorRecovers i s)

/-- THERMAL_RELEASE (R83). DESIGN CHOICE, log entry 6. -/
def execThermalRelease (s : State) : Host.Outcome State Fault Refusal := .next (thermalEnds s)

end Sys2Proof.Machine
end

