-- ==== Sys2Proof/Machine/SystemObjects.lean ====
section
/-! DEFINITION. The objects of identity, reset, clocks, boot, fuse maps and the thermal sensors (1000 to 2100), of LDP, the management
ports, PTP and the journal (8000 to 8020), and of faults, violations and the watchdog (8040 to 8060). -/

namespace Sys2Proof.Machine

open Sys2Proof

/-- The objects (R59, R62, R63, R79, R97, R100 to R104, R113, R121, R568, R599, R636). -/
inductive SysReg where
  | vendor | product | deviceId | siliconRev | serial | fwVersion | romVersion | ifRange | ifMinor
  | rstcause | softrst | rstcnt (k : Fin 4)
  | clkstat | ringswitch | clklossCnt
  | bootstat
  | rstmap | rstmapBurn
  | pinmap | pinmapBurn | pinstat
  | tjHot | tjWarn | thermstat | tripCount | tjSens (n : Fin 16)
  | ldpPort | idleTmo | sessions | ldpDrops | ldpStale | rateDrops
  | cred (k : Fin 2) | viewPriv (l : Fin 4) | viewLast (l : Fin 4)
  | mgtctl (m : Fin 2) | mgtstat (m : Fin 2) | mac (m : Fin 2) | ipv4 (m : Fin 2) | netmask (m : Fin 2) | gateway (m : Fin 2) | addrNow (m : Fin 2)
  | ptpctl | ptpstat | ptpOffset
  | jnlHead | jnlOldest | jnlSel | jnlW (k : Fin 4)
  | fltHead | fltLost | fltLog | giveway (k : Fin 5)
  | vioHead | vioOverflow | vioLog
  | wdogTmo | wdogLastpc
deriving DecidableEq, Repr

/-- The objects of management port m (R599). -/
def SysReg.mgtAt (m : Fin 2) (sub : Nat) : Option SysReg :=
  match sub with
  | 1 => some (.mgtctl m) | 2 => some (.mgtstat m) | 3 => some (.mac m) | 4 => some (.ipv4 m) | 5 => some (.netmask m) | 6 => some (.gateway m)
  | 7 => some (.addrNow m) | _ => none

/-- The object at an index and subindex. -/
def SysReg.at_ (index sub : Nat) : Option SysReg :=
  match index with
  | 0x1000 => [SysReg.vendor, .product, .deviceId, .siliconRev, .serial, .fwVersion, .romVersion, .ifRange, .ifMinor][sub - 1]?.filter fun _ => 1 ≤ sub
  | 0x2000 =>
    match sub with
    | 1 => some .rstcause | 2 => some .softrst
    | _ => if 0x10 ≤ sub then (finOf 4 (sub - 0x10)).map .rstcnt else none
  | 0x2010 => [SysReg.clkstat, .ringswitch, .clklossCnt][sub - 1]?.filter fun _ => 1 ≤ sub
  | 0x2020 => if sub = 1 then some .bootstat else none
  | 0x2030 => [SysReg.rstmap, .rstmapBurn][sub - 1]?.filter fun _ => 1 ≤ sub
  | 0x2040 => [SysReg.pinmap, .pinmapBurn, .pinstat][sub - 1]?.filter fun _ => 1 ≤ sub
  | 0x2100 =>
    match sub with
    | 1 => some .tjHot | 2 => some .tjWarn | 3 => some .thermstat | 4 => some .tripCount
    | _ => if 0x10 ≤ sub then (finOf 16 (sub - 0x10)).map .tjSens else none
  | 0x8000 => [SysReg.ldpPort, .idleTmo, .sessions, .ldpDrops, .ldpStale, .rateDrops][sub - 1]?.filter fun _ => 1 ≤ sub
  | 0x8004 => if 1 ≤ sub then (finOf 2 (sub - 1)).map .cred else none
  | 0x8008 => if 1 ≤ sub then (finOf 4 (sub - 1)).map .viewPriv else none
  | 0x8009 => if 1 ≤ sub then (finOf 4 (sub - 1)).map .viewLast else none
  | 0x8010 => SysReg.mgtAt 0 sub
  | 0x8011 => SysReg.mgtAt 1 sub
  | 0x8018 => [SysReg.ptpctl, .ptpstat, .ptpOffset][sub - 1]?.filter fun _ => 1 ≤ sub
  | 0x8020 =>
    match sub with
    | 1 => some .jnlHead | 2 => some .jnlOldest | 3 => some .jnlSel
    | _ => if 4 ≤ sub then (finOf 4 (sub - 4)).map .jnlW else none
  | 0x8040 =>
    match sub with
    | 1 => some .fltHead | 2 => some .fltLost | 0x10 => some .fltLog | _ => none
  | 0x8044 => if 2 ≤ sub then (finOf 5 (sub - 2)).map .giveway else none
  | 0x8048 =>
    match sub with
    | 1 => some .vioHead | 2 => some .vioOverflow | 0x10 => some .vioLog | _ => none
  | 0x8060 => [SysReg.wdogTmo, .wdogLastpc][sub - 1]?.filter fun _ => 1 ≤ sub
  | _ => none

/-- What the tables say of an object. DESIGN CHOICE, log entry 93. -/
def SysReg.desc : SysReg → Desc
  | .vendor | .product => (Desc.ro .str).fw.long 64
  | .deviceId | .siliconRev | .romVersion | .ifMinor => (Desc.ro .u16).fw
  | .serial => (Desc.ro .u64).fw
  | .fwVersion | .ifRange => (Desc.ro .u32).fw
  | .rstcause => .ro .bits32
  | .softrst => (Desc.wo .u32 1).fw
  | .rstcnt _ => (Desc.rwp .u32 2).fw
  | .clkstat => .ro .bits32
  | .ringswitch => .ro .u32
  | .clklossCnt => (Desc.rwp .u32 2).fw
  | .bootstat => .ro .bits32
  | .rstmap | .pinmap | .pinstat => .ro .u32
  | .rstmapBurn | .pinmapBurn => (Desc.wo .u32 2).fw
  | .tjHot | .tjSens _ => .ro .s24
  | .tjWarn => ((Desc.rwp .s24 2).within 0 0x9B0).fw
  | .thermstat => .status
  | .tripCount => .ro .u32
  | .ldpPort => ((Desc.rwp .u16 2 3).within 1024 65535).fw
  | .idleTmo => ((Desc.rwp .u32 2 4).within 1 3600).fw
  | .sessions => (Desc.ro .u8).fw
  | .ldpDrops | .ldpStale | .rateDrops => (Desc.ro .u32).fw
  | .cred _ => (Desc.wo .blob 2 4).fw.long 32
  | .viewPriv _ => ((Desc.rwp .u8 2).within 0 2).fw
  | .viewLast _ => (Desc.ro .u32).fw
  | .mgtctl _ => (Desc.rwp .bits32 2).fw
  | .mgtstat _ => (Desc.ro .bits32).fw
  | .mac _ => (Desc.ro .u48).fw
  | .ipv4 _ | .netmask _ | .gateway _ => (Desc.rwp .u32 2 4).fw
  | .addrNow _ => (Desc.ro .u32).fw
  | .ptpctl => (Desc.rwp .bits32 2).fw
  | .ptpstat => Desc.status.fw
  | .ptpOffset => (Desc.ro .s32).fw
  | .jnlHead | .jnlOldest => .ro .u48
  | .jnlSel => (Desc.rw .u48 0).unjournaled
  | .jnlW _ => .ro .u64
  | .fltHead | .fltLost => .ro .u32
  | .fltLog => (Desc.ro .blob).long 32768
  | .giveway _ => .ro .u48
  | .vioHead | .vioOverflow => .ro .u32
  | .vioLog => (Desc.ro .blob).long 4096
  | .wdogTmo => ((Desc.rwp .u32 2 4).within 100 60000).fw
  | .wdogLastpc => .ro .u64

/-- The block that holds it, for R106. -/
def SysReg.blk : SysReg → Option Blk
  | .mgtctl m | .mgtstat m | .mac m | .ipv4 m | .netmask m | .gateway m | .addrNow m => some (.mgt m)
  | _ => none

/-- RSTCAUSE (R101). DEDUCED, log entry 82. -/
def rstcause (r : Resets) : Word :=
  place 32 30 r.causeLevel.1 ||| place 32 22 r.causeSrc.toNat ||| place 32 16 r.causeDom.toNat ||| place 32 0 r.causeBlock.toNat

/-- BOOTSTAT (R121). -/
def bootstat (b : Boot) : Word :=
  place 32 30 b.source.toNat ||| place 32 27 b.phase.1 ||| place 32 26 b.slot.1 ||| flagBit 25 b.reverified ||| place 32 8 b.attempts.toNat
    ||| place 32 0 b.fail.toNat

/-- CLKSTAT (R113). -/
def clkstat (k : Clocks) : Word :=
  flagBit 31 k.ringSrc ||| flagBit 30 k.pcieRefsrc ||| (List.finRange 23).foldl (fun w d => w ||| flagBit d.1 k.good[d]) 0

/-- PINSTAT (R63). -/
def pinstat (p : Pins) : Word :=
  place 32 30 p.boot.toNat ||| place 32 28 p.clkm.toNat ||| flagBit 27 p.pc33[(1 : Fin 2)] ||| flagBit 26 p.pc33[(0 : Fin 2)] ||| flagBit 25 p.fpmSplit

/-- THERMSTAT (R80). -/
def thermstat (t : Thermal) : Word :=
  place 32 18 t.hotIdx.1 ||| (List.finRange 16).foldl (fun w i => w ||| flagBit (2 + i.1) t.failed[i]) 0 ||| flagBit 1 t.warnSticky ||| flagBit 0 t.warn

/-- MGTSTAT (R600). -/
def mgtstat (g : Mgt) : Word :=
  flagBit 31 g.link ||| flagBit 30 g.present ||| flagBit 29 g.los ||| flagBit 28 (g.addrNow != 0) ||| flagBit 27 g.linkLocal

/-- PTPSTAT (R601). -/
def ptpstat (p : Ptp) : Word :=
  place 32 29 p.state[(0 : Fin 2)].1 ||| place 32 26 p.state[(1 : Fin 2)].1 ||| flagBit 25 p.locked ||| flagBit 24 p.stepHeld

/-- The 32 bytes of a fault log entry (R629). -/
def FaultEntry.bytes (e : FaultEntry) : List Byte :=
  let r := e.record
  leBytes 4 e.seq.toNat ++ leBytes 2 r.code.toNat ++ [r.rung, r.sev, r.cls, 0] ++ leBytes 2 r.index.toNat ++ leBytes 4 r.detail.toNat
    ++ leBytes 6 r.tb.toNat ++ leBytes 6 r.ptpUs.toNat ++ leBytes 2 e.count.toNat ++ [0, 0]

/-- FLT_LOG: entry s at byte 32 * ((s - 1) mod 1,024) (R629). -/
def fltLog (f : Faults) : List Byte :=
  (List.range 1024).flatMap fun i =>
    match f.log.find? fun e => (e.seq.toNat + 1023) % 1024 == i with
    | some e => e.bytes
    | none => List.replicate 32 0

/-- The 16 bytes of a violation log entry (R632). -/
def VioEntry.bytes (e : VioEntry) : List Byte :=
  leBytes 6 e.target.toNat ++ [e.kind, e.status] ++ leBytes 2 e.initiator.toNat ++ leBytes 2 e.count.toNat ++ leBytes 4 e.time.toNat

/-- VIO_LOG: entry s at byte 16 * ((s - 1) mod 256), the newest being VIO_HEAD (R632). -/
def vioLog (v : Violations) : List Byte :=
  (List.range 256).flatMap fun i =>
    -- the entry k places behind the newest carries the number VIO_HEAD - k
    match v.log[(v.head.toNat + 255 - i) % 256]? with
    | some e => e.bytes
    | none => List.replicate 16 0

/-- The bytes of a text. -/
def text (t : List Nat) : List Byte := t.map (BitVec.ofNat 8)

/-- What an object reads. -/
def SysReg.read (s : State) : SysReg → Val
  | .vendor => .bytes (text [0x4F, 0x62, 0x6E, 0x6F, 0x72, 0x61, 0x6E])
  | .product => .bytes (text [0x53, 0x50, 0x4E, 0x36, 0x34, 0x30, 0x30])
  | .deviceId => .num 0x6400
  | .siliconRev => .num Machine.siliconRev
  | .serial => bv Config.serial
  | .fwVersion => bv s.boot.fwVersion
  | .romVersion => bv Config.romVersion
  | .ifRange => .num 0x00010001
  | .ifMinor => .num 0
  | .rstcause => bv (Machine.rstcause s.rst)
  | .rstcnt k => bv s.rst.count[k]
  | .clkstat => bv (Machine.clkstat s.clk)
  | .ringswitch => bv s.clk.ringswitch
  | .clklossCnt => bv s.clk.lossCnt
  | .bootstat => bv (Machine.bootstat s.boot)
  | .rstmap => bv s.rst.rstmap
  | .pinmap => bv s.pins.pinmap
  | .pinstat => bv (Machine.pinstat s.pins)
  | .tjHot => bv s.thermal.hot
  | .tjWarn => bv s.thermal.warnAt
  | .thermstat => bv (Machine.thermstat s.thermal)
  | .tripCount => bv s.thermal.tripCount
  | .tjSens n => bv s.thermal.sens[n]
  | .ldpPort => bv s.acc.ldpPort
  | .idleTmo => bv s.acc.idleTmo
  | .sessions => .num (s.acc.sessions.filter (·.isOpen)).length
  | .ldpDrops => bv s.acc.drops
  | .ldpStale => bv s.acc.stale
  | .rateDrops => bv s.acc.rateDrops
  | .viewPriv l => .num s.acc.viewPriv[l].1
  | .viewLast l => bv s.acc.viewLast[l]
  | .mgtctl m => bv s.mgt[m].ctl
  | .mgtstat m => bv (Machine.mgtstat s.mgt[m])
  | .mac m => bv (Config.mac m)
  | .ipv4 m => bv s.mgt[m].ipv4
  | .netmask m => bv s.mgt[m].netmask
  | .gateway m => bv s.mgt[m].gateway
  | .addrNow m => bv s.mgt[m].addrNow
  | .ptpctl => bv s.ptp.ctl
  | .ptpstat => bv (Machine.ptpstat s.ptp)
  | .ptpOffset => bv s.ptp.offset
  | .jnlHead => bv s.mram.head
  | .jnlOldest => .num (Machine.jnlOldest s)
  | .jnlSel => bv s.acc.jnlSel
  | .jnlW k => bv s.acc.jnlW[k]
  | .fltHead => bv s.faults.head
  | .fltLost => bv s.faults.lost
  | .fltLog => .bytes (Machine.fltLog s.faults)
  | .giveway k => bv s.faults.giveway[k]
  | .vioHead => bv s.vio.head
  | .vioOverflow => bv s.vio.overflow
  | .vioLog => .bytes (Machine.vioLog s.vio)
  | .wdogTmo => bv s.wdog.tmo
  | .wdogLastpc => bv s.wdog.lastPc
  | .cred _ => .bytes []
  | .softrst | .rstmapBurn | .pinmapBurn => .num 0

/-- The checks of a SOFTRST write (R103). -/
def checkSoft (s : State) (priv : Nat) (w : Word) : Status :=
  let lv := fld w 23 22
  firstRefusal
    [(decide (priv < if lv ≤ 1 then 2 else 1), .privilege), (fld w 31 24 != 0xA5, .range), (decide (lv < fld s.rst.rstmap 7 6), .access),
     (lv == 3 && (blkOf (fld w 21 16) (fld w 15 0)).isNone, .range)]

/-- Its own checks. A lock bit counts as burned when either stored copy has it: R62 does not say which copy of a split pair counts (R62, R100, R103,
R104, R597, R601). DESIGN CHOICE, log entries 88, 125. -/
def SysReg.check (s : State) (who : By) (r : SysReg) (v : Val) : Status :=
  let w := v.word
  match r with
  | .softrst => checkSoft s who.priv.1 w
  | .rstcnt _ | .clklossCnt => firstRefusal [(v.toNat != 0, .range)]
  | .rstmapBurn =>
    firstRefusal [(bitAt (s.fuses.rstA ||| s.fuses.rstB) 31, .access), (! vppBurning s, .state), (fld w 30 14 != 0, .range)]
  | .pinmapBurn =>
    firstRefusal [(bitAt (s.fuses.pinA ||| s.fuses.pinB) 31, .access), (! vppBurning s, .state), (fld w 13 0 != 0, .range)]
  | .ptpctl => firstRefusal [(decide (127 < fld w 20 13) || fld w 31 30 == 3, .range)]
  | .jnlSel => firstRefusal [((jnlFind s v.toNat).isNone, .range)]
  | _ => .ok

/-- PTP runs on this port: enabled, its link up, and, of an ordinary clock, the lowest-numbered such port (R590, R600, R601). DEDUCED, log entry 110. -/
def ptpPort (s : State) (m : Fin 2) : Bool :=
  let on := fun (k : Fin 2) => bitAt s.mgt[k].ctl 27 && s.mgt[k].link && ! inReset (.mgt k) s
  let mode := fld s.ptp.ctl 31 30
  on m && ((mode == 2) || (mode == 1 && (m == 0 || ! on 0)))

/-- A port on which PTP does not run is disabled, and nothing is locked in CLKM 0b00 and 0b01 without a port in slave state (R590, R601). DEDUCED, log entry 110. -/
def settlePtp (s : State) : State :=
  let st := Vector.ofFn fun m : Fin 2 => if ptpPort s m then s.ptp.state[m] else 0
  let steered := decide (2 ≤ s.pins.clkm.toNat) || st[(0 : Fin 2)] == 3 || st[(1 : Fin 2)] == 3
  { s with ptp := { s.ptp with state := st, locked := s.ptp.locked && steered, goodSince := if steered then s.ptp.goodSince else none } }

/-- MGTCTL takes hold: a port written EN = 0 is down (R589, R600). DEDUCED, log entry 109. -/
def writeMgtctl (m : Fin 2) (w : Word) (s : State) : State :=
  settlePtp (driveTxdis m (s.updMgt m fun g =>
    if bitAt w 31 then { g with ctl := w &&& maskOf 31 27 }
    else { g with ctl := w &&& maskOf 31 27, link := false, addrNow := 0, linkLocal := false, dhcpWait := false }))

/-- What an accepted write does. -/
def SysReg.write (r : SysReg) (v : Val) (s : State) : State :=
  let w := v.word
  match r with
  | .softrst => if softWaits w then { s with rst := { s.rst with delayed := s.rst.delayed ++ [w] } } else assertSoft w s
  | .rstcnt k => { s with rst := { s.rst with count := modAt s.rst.count k fun _ => w } }
  | .clklossCnt => { s with clk := { s.clk with lossCnt := w } }
  | .rstmapBurn => { s with fuses := { s.fuses with rstA := s.fuses.rstA ||| w, rstB := s.fuses.rstB ||| w } }
  | .pinmapBurn => { s with fuses := { s.fuses with pinA := s.fuses.pinA ||| w, pinB := s.fuses.pinB ||| w } }
  | .tjWarn => { s with thermal := ({ s.thermal with warnAt := BitVec.ofNat 24 v.toNat } : Thermal).followWarn }
  | .thermstat => { s with thermal := { s.thermal with warnSticky := keepSticky s.thermal.warnSticky (bitAt w 1) } }
  | .ldpPort => s.updAcc fun a => { a with ldpPort := BitVec.ofNat 16 v.toNat }
  | .idleTmo => s.updAcc fun a => { a with idleTmo := w }
  | .cred k => s.updAcc fun a => { a with cred := modAt a.cred k fun _ => v.toBytes }
  | .viewPriv l => s.updAcc fun a => { a with viewPriv := modAt a.viewPriv l fun _ => Fin.ofNat 3 v.toNat }
  | .mgtctl m => writeMgtctl m w s
  | .ipv4 m => s.updMgt m fun g => { g with ipv4 := w }
  | .netmask m => s.updMgt m fun g => { g with netmask := w }
  | .gateway m => s.updMgt m fun g => { g with gateway := w }
  | .ptpctl =>
    settlePtp { s with ptp := { s.ptp with ctl := w &&& maskOf 31 13 } }
  | .ptpstat => { s with ptp := { s.ptp with stepHeld := keepSticky s.ptp.stepHeld (bitAt w 24) } }
  | .jnlSel =>
    let bs := ((jnlFind s v.toNat).map JnlEntry.bytes).getD []
    s.updAcc fun a => { a with jnlSel := BitVec.ofNat 48 v.toNat, jnlW := Vector.ofFn fun k : Fin 4 => BitVec.ofNat 64 (leAt bs (8 * k.1) 8) }
  | .wdogTmo => { s with wdog := { s.wdog with tmo := w } }
  | _ => s

end Sys2Proof.Machine
end

