-- ==== Sys2Proof/Machine/Dictionary.lean ====
section
/-! DEFINITION. The object dictionary as one table: which object an index.sub names, its descriptor, its block, a read, the
checks of a write in their order, and what an accepted write does, journal and persistence included (R106, R562 to R570, R594 to
R596, R631, R637). -/

namespace Sys2Proof.Machine

open Sys2Proof

/-- An object of the dictionary. -/
inductive Obj where
  | lane (n : Fin 64) (r : LaneReg) | port (p : Fin 16) (r : PortReg) | src (i : Fin 18) (r : SrcReg) | pipe (p : Fin 16) (r : PipeReg)
  | queue (q : Fin 512) (r : QReg) | pool (r : PoolReg) | dma (c : Fin 512) (r : DmaReg) | ps (r : PsReg) | enc (n : Fin 16) (r : EncReg)
  | tb (r : TbReg) | router (r : RouterReg) | axis (a : Fin 8) (r : AxReg) | host (r : HostReg) | sys (r : SysReg) | sec (r : SecReg)
deriving DecidableEq, Repr

/-- The entry of a table at a place. -/
def lookup {α : Type} (t : List (Nat × α)) (k : Nat) : Option α := (t.find? fun e => e.1 == k).map (·.2)

/-- The object that an index and subindex name (R12, R562). -/
def objAt (index sub : Nat) : Option Obj :=
  -- objects of 512 queues or channels: an even base, and 256 to each of its two indices
  let pair := fun (n : Fin 512 → Obj) => some (n (Fin.ofNat 512 (index % 2 * 256 + sub % 256)))
  match index / 0x1000 with
  | 1 => (SysReg.at_ index sub).map .sys
  | 2 => (SysReg.at_ index sub).map .sys
  | 3 =>
    if index < 0x3040 then (lookup LaneReg.table sub).map (Obj.lane (Fin.ofNat 64 (index - 0x3000)))
    else if 0x3400 ≤ index ∧ index < 0x3410 then (lookup PortReg.table sub).map (Obj.port (Fin.ofNat 16 (index - 0x3400)))
    else none
  | 4 => match SrcReg.at_ index sub with
    | some x => some (.src x.1 x.2)
    | none => (PipeReg.at_ index sub).map fun x => .pipe x.1 x.2
  | 5 => (PipeReg.at_ index sub).map fun x => .pipe x.1 x.2
  | 6 =>
    match lookup QReg.table (index - index % 2) with
    | some r => pair fun q => .queue q r
    | none =>
      match lookup DmaReg.table (index - index % 2) with
      | some r => pair fun c => .dma c r
      | none =>
        match lookup PoolReg.table (objTarget index sub) with
        | some r => some (.pool r)
        | none =>
          match lookup PsReg.table (objTarget index sub) with
          | some r => some (.ps r)
          | none => (HostReg.at_ index sub).map .host
  | 7 =>
    if index < 0x7010 then (lookup EncReg.table sub).map (Obj.enc (Fin.ofNat 16 (index - 0x7000)))
    else if 0x7800 ≤ index ∧ index < 0x7808 then (lookup AxReg.table sub).map (Obj.axis (Fin.ofNat 8 (index - 0x7800)))
    else if 0x7400 ≤ index ∧ index < 0x7500 then (RouterReg.at_ index sub).map .router
    else (TbReg.at_ index sub).map .tb
  | 8 => (SysReg.at_ index sub).map .sys
  | 9 => (SecReg.at_ index sub).map .sec
  | _ => none

/-- Its descriptor. -/
def Obj.desc : Obj → Desc
  | .lane _ r => r.desc | .port _ r => r.desc | .src _ r => r.desc | .pipe _ r => r.desc_ | .queue _ r => r.desc | .pool r => r.desc
  | .dma _ r => r.desc | .ps r => r.desc | .enc _ r => r.desc | .tb r => r.desc | .router r => r.desc | .axis _ r => r.desc | .host r => r.desc
  | .sys r => r.desc | .sec r => r.desc

/-- The block whose isolation wrapper stands before it (R106). -/
def Obj.blk : Obj → Option Blk
  | .lane n _ => some (.lane n)
  | .port p _ => some (.port p)
  | .src i _ => match finOf 16 i.1 with
    | some h => some (.head h)
    | none => some (.pcam (Fin.ofNat 2 (i.1 - 16)))
  | .pipe p _ => some (.pipe p)
  | .queue _ _ | .pool _ => some .queues
  | .dma c _ => some (.dma c)
  | .enc n _ => some (.enc n)
  | .tb _ => some .cue
  | .router _ => some .router
  | .axis a _ => some (.axis a)
  | .host r => r.blk
  | .sys r => r.blk
  | .ps _ | .sec _ => none

/-- Its block is in reset (R106). -/
def Obj.held (o : Obj) (s : State) : Bool :=
  match o.blk with
  | some b => inReset b s
  | none => match o with
    | .ps _ => s.rst.level == some 0 || ! s.clk.good[(2 : Fin 23)]
    | _ => false

/-- What it reads. -/
def Obj.read (o : Obj) (s : State) : Val :=
  match o with
  | .lane n r => LaneReg.read s.lanes[n] (inPort s n) (isStandby s n) r
  | .port p r => PortReg.read s.ports[p] r
  | .src i r => SrcReg.read s i r
  | .pipe p r => PipeReg.read s p r
  | .queue q r => QReg.read s q r
  | .pool r => PoolReg.read s r
  | .dma c r => DmaReg.read s c r
  | .ps r => PsReg.read s r
  | .enc n r => EncReg.read s n r
  | .tb r => TbReg.read s r
  | .router r => RouterReg.read s r
  | .axis a r => AxReg.read s a r
  | .host r => HostReg.read s r
  | .sys r => SysReg.read s r
  | .sec r => SecReg.read s r

/-- A read of CELL_TAG or CELL_DATA takes the snapshot first (R450). -/
def Obj.touch (o : Obj) (s : State) : State :=
  match o with
  | .pool .cellTag => ensureSnap s
  | .pool .cellData => ensureSnap s
  | _ => s

/-- Its own checks of a write. -/
def Obj.check (o : Obj) (who : By) (v : Val) (s : State) : Status :=
  match o with
  | .lane n r => LaneReg.check s.lanes[n] (inPort s n) r v
  | .port p r => PortReg.check s p r v
  | .src i r => SrcReg.check s i r v
  | .pipe p r => PipeReg.check s p r v
  | .queue q r => QReg.check s q r v
  | .pool r => PoolReg.check s r v
  | .dma c r => DmaReg.check s c r v
  | .ps r => PsReg.check s r v
  | .enc n r => EncReg.check s.encs[n] n r v
  | .tb r => TbReg.check s r v
  | .router r => RouterReg.check r v
  | .axis a r => AxReg.check s.axes[a] s.coreTime r v
  | .host r => HostReg.check s r v
  | .sys r => SysReg.check s who r v
  | .sec r => SecReg.check s r v

/-- A QCTL write takes the producer's packet away with it: what the pipeline had in it is lost (R438, R442, R460). -/
def writeQueue (q : Fin 512) (r : QReg) (v : Val) (s : State) : State :=
  let old := s.qm.queues[q]
  let leaves := r == .qctl && old.en && (! bitAt v.word 31 || decide (fld v.word 21 16 ≠ old.producer)) && old.openPkt.isSome
  let s := QReg.write q r v s
  match (if leaves then (producerOf old.producer).bind fun r => finOf 16 r.1 else none) with
  | some p => packetLost p s
  | none => s

/-- What an accepted write does in its block. -/
def Obj.apply (o : Obj) (v : Val) (s : State) : State :=
  match o with
  | .lane n r => settlePause (writeLane n r v s)
  | .port p r => settlePause (PortReg.write p r v s)
  | .src i r => settlePause (SrcReg.write i r v s)
  | .pipe p r => settlePause (PipeReg.write p r v s)
  | .queue q r => settlePause (writeQueue q r v s)
  | .pool r => settlePause (PoolReg.write r v s)
  | .dma c r => DmaReg.write c r v s
  | .ps r => PsReg.write r v s
  | .enc n r => EncReg.write n r v s
  | .tb r => driveSync (TbReg.write r v s)
  | .router r => RouterReg.write r v s
  | .axis a r => AxReg.write a r v s
  | .host r => HostReg.write r v s
  | .sys r => SysReg.write r v s
  | .sec r => SecReg.write r v s

/-- What a refused write still does: a presented token counts (R619), a START refused at an active limit trips it (R544, R560). -/
def Obj.refused (o : Obj) (v : Val) (s : State) : State :=
  match o with
  | .sec r => SecReg.refused r v s
  | .axis a .movecmd => if startsMove v.word then startTrips a s else s
  | _ => s

/-- The value of a write has its object's type (R563, R637). -/
def fits (d : Desc) (v : Val) : Bool :=
  match d.ty, v with
  | .str, .bytes bs => decide (bs.length ≤ 64)
  | .blob, .bytes bs => decide (bs.length ≤ d.len)
  | .str, .num _ => false
  | .blob, .num _ => false
  | _, .num n => decide (n < 2 ^ (8 * d.ty.bytes))
  | _, .bytes _ => false

/-- The value has its object's type, as far as that is asked before the object's own order: ROOT_BURNn asks for its length after VPP_FUSE and
PROGRAMMED (R604, R637). -/
def Obj.fits (o : Obj) (v : Val) : Bool :=
  match o, v with
  | .sec (.rootBurn _), .bytes _ => true
  | _, _ => Machine.fits o.desc v

/-- A number lies in its object's range. -/
def inRange (d : Desc) (v : Val) : Bool :=
  match v with
  | .bytes _ => true
  | .num n =>
    let z : Int := if d.ty.signed then toSigned (8 * d.ty.bytes) n else n
    decide (d.min ≤ z) && decide (z ≤ d.max)

/-- A write that changes no setting of a register that holds sticky fields beside settings, and clears some of them (R594). DEDUCED, log entry 96. -/
def onlySticky (o : Obj) (v : Val) (s : State) : Bool :=
  let only := fun (sticky fields : Word) =>
    let now := (o.read s).word
    ((now ^^^ v.word) &&& fields) == 0 && (now &&& ~~~ v.word &&& sticky) != 0
  match o with
  | .src i .ctl => decide (16 ≤ i.1) && only (place 32 5 1) (maskOf 31 24 ||| maskOf 4 0)
  | .enc _ .cmpctl => only (maskOf 25 24) (maskOf 31 26)
  | _ => false

/-- A write of this object is journaled once it reaches the object's own checks (R564, R594). DEDUCED, log entry 96. -/
def journaled (o : Obj) (v : Val) (s : State) : Bool := (o.desc.acc == .ro || o.desc.journal) && ! onlySticky o v s

/-- The object is one of those whose writes are never journaled (R594). DEDUCED, log entry 96. -/
def Obj.unjournaled : Obj → Bool
  | .dma _ .doorbell | .dma _ .intstat | .queue _ .qpop | .pool .cellSel | .ps _ | .router .swPublish | .sys .jnlSel => true
  | _ => false

/-- VALUE of a write's entry, with HASH (R596). DEDUCED, log entry 96. -/
def entryValue (d : Desc) (ok : Bool) (v : Val) : Nat × Bool :=
  match v with
  | .num n => if ok then jnlValue d.ty v else (n % 2 ^ 64, false)
  | .bytes _ => jnlValue d.ty v

/-- The limits of a path (R517, R574): a VF's writes of QSEL and of most queue objects, and VIEW_PRIV through the view. -/
def pathBars (who : By) (o : Obj) (v : Val) (s : State) : Bool :=
  match who.path, o with
  | .view _ _, .sys (.viewPriv _) => true
  | .view _ g, .dma c .dctl => g != 0 && decide (fld v.word 8 0 ≠ fld s.dma[c].ctl 8 0)
  | .view _ g, .queue _ r => g != 0 && ! [QReg.limit, .maxpkt, .wmhi, .wmlo, .qpop].contains r
  | _, _ => false

/-- The object's view path was refused: VIEW_LAST of its PF (R576). DEDUCED, log entry 98. -/
def markView (who : By) (index sub : Nat) (st : Status) (s : State) : State :=
  match who.path with
  | .view l _ => s.updAcc fun a => { a with viewLast := modAt a.viewLast l fun _ => place 32 24 st.code ||| place 32 8 index ||| place 32 0 sub }
  | _ => s

/-- A refused access enters the violation log; a write through the view leaves its trace (R576, R584, R631). DEDUCED, log entry 94. -/
def refuse (who : By) (index sub : Nat) (st : Status) (s : State) : State := logVio 0 (objTarget index sub) st who.path.initiator s

/-- The status of a write that has reached its object's own checks (R106, R517, R564, R574, R594, R637). DEDUCED, log entry 94. -/
def ownStatus (who : By) (o : Obj) (ok : Bool) (v : Val) (s : State) : Status :=
  let d := o.desc
  firstRefusal
    [(o.held s, .state), (d.acc == .ro || pathBars who o v s, .access), (! ok || ! o.fits v, .type), (! inRange d v, .range),
     (true, o.check who v s)]

/-- A write refused for the writer's privilege (R103, R565): no privilege is checked of a read-only object (R564). DEDUCED, log entry 94. -/
def privRefused (who : By) (o : Obj) (v : Val) (s : State) : Bool :=
  o.desc.acc != .ro && (decide (who.priv.1 < o.desc.wpriv) || o.check who v s == .privilege)

/-- The write's entry in the journal (R594, R596, R598). DEDUCED, log entry 96. -/
def enter (who : By) (cond : Bool) (index sub : Nat) (d : Desc) (ok : Bool) (v : Val) (st : Status) (s : State) : State :=
  let e := entryValue d ok v
  jnlAppend who.path.jnlSrc index sub (st.code + (if cond then 0x40 else 0) + (if e.2 then 0x80 else 0)) e.1 s

/-- A write that has passed its privilege and the journal's rate: refused by the object's own checks or by the rate of persistent
writes, or applied, recorded and journaled (R569, R594). -/
def ownWrite (who : By) (cond : Bool) (index sub : Nat) (o : Obj) (ok : Bool) (v : Val) (s : State) : Status × State :=
  let jn := journaled o v s
  let note := fun (st : Status) (s : State) => if jn then enter who cond index sub o.desc (ok && o.fits v) v st s else s
  let refusal := fun (st : Status) (s : State) => (st, markView who index sub st (refuse who index sub st (note st s)))
  let st := ownStatus who o ok v s
  if st ≠ .ok then refusal st (if o.held s || ! ok || ! o.fits v then s else o.refused v s)
  else if o.desc.acc == .rwp then
    let (free, s) := rwpToken s
    if free then (.ok, note .ok (rwpRecord (objTarget index sub) v (o.apply v s))) else refusal .busy s
  else if o == .sys .softrst && ! softWaits v.word then
    -- asserted within 1 us, then answered; the journal's entry precedes it as in R103
    (.ok, o.apply v (note .ok s))
  else (.ok, note .ok (o.apply v s))

/-- One write of an object. `ok` says that the size on its path is the object's (R575, R582). DEDUCED, log entry 94. -/
def dictWrite (who : By) (cond : Bool) (index sub : Nat) (ok : Bool) (v : Val) (s : State) : Status × State :=
  let stop := fun (st : Status) (s : State) => (st, markView who index sub st (refuse who index sub st s))
  match objAt index sub with
  | none => stop .noObject s
  | some o =>
    if privRefused who o v s then stop .privilege s
    else if journaled o v s then
      let (free, s) := jnlToken s
      if free then ownWrite who cond index sub o ok v s else stop .busy s
    else ownWrite who cond index sub o ok v s

/-- The status of a read (R106, R562, R564, R565). DEDUCED, log entry 95. -/
def readStatus (who : By) (index sub : Nat) (s : State) : Status :=
  match objAt index sub with
  | none => .noObject
  | some o =>
    firstRefusal [(o.desc.acc != .wo && decide (who.priv.1 < o.desc.rpriv), .privilege), (o.held s, .state), (o.desc.acc == .wo, .access)]

/-- One read of an object: its value, or the refusal, logged. DEDUCED, log entry 95. -/
def dictRead (who : By) (index sub : Nat) (s : State) : (Status × Val) × State :=
  match objAt index sub with
  | none => ((.noObject, .num 0), refuse who index sub .noObject s)
  | some o =>
    let st := readStatus who index sub s
    if st = .ok then
      let s := o.touch s
      ((.ok, o.read s), s)
    else ((st, .num 0), refuse who index sub st s)

/-- The 24 bytes of DESCRIBE (R567). DEDUCED, log entry 97. -/
def describe (o : Obj) : List Byte :=
  let d := o.desc
  leBytes 1 d.ty.code ++ leBytes 1 d.acc.code ++ leBytes 1 (if d.acc = .wo then 0xFF else d.rpriv) ++ leBytes 1 (if d.acc = .ro then 0xFF else d.wpriv)
    ++ leBytes 1 d.effect ++ leBytes 1 ((if d.acc == .ro || d.journal then 1 else 0) + (if d.block || o.unjournaled then 2 else 0)) ++ leBytes 2 d.len
    ++ leBytes 8 (if d.ty = .bits32 ∨ d.ty = .str ∨ d.ty = .blob then 0 else ofSigned 64 d.min)
    ++ leBytes 8 (ofSigned 64 d.max)

/-- Every persistent object takes the value of its newest record (R91, R569, R570). DEDUCED, log entry 102. -/
def reloadRwp (s : State) : State :=
  s.each s.mram.records fun r s =>
    match objAt (r.1 / 256) (r.1 % 256) with
    | some o => if o.desc.acc = .rwp then o.apply r.2 s else s
    | none => s

/-! ### Who serves an access -/

/-- A write by this path is served by the block itself, without firmware: an unjournaled object through the view (R572). DESIGN CHOICE, log entry 93. -/
def direct (who : By) (index sub : Nat) : Bool :=
  match who.path with
  | .view _ _ => match objAt index sub with
    | some o => o.unjournaled
    | none => false
  | _ => false

/-- The service queue's length (R571). DESIGN CHOICE, log entry 99. -/
def svcMax : Nat := 1024

/-- Firmware can take a request at once: it runs, and no other waits (R571). DESIGN CHOICE, log entry 99. -/
def fwFree (s : State) : Bool := firmwareRuns s && s.svc.isEmpty

/-- A request waits in the service queue; an LDP request that finds it full is discarded and counted (R571). DESIGN CHOICE, log entry 99. -/
def waitFw (c : Request) (ldp : Bool) (s : State) : State :=
  if s.svc.length < svcMax then { s with svc := s.svc ++ [c] }
  else if ldp then s.updAcc fun a => { a with drops := satInc a.drops }
  else s

/-- A function answers its BARs: the link is up and out of reset, Memory Space is enabled, and it is not in D3hot (R508). PRESUMED, log entry 71. -/
def barServes (s : State) (l : Fin 4) (f : Fin 17) : Bool :=
  let k := s.host.links[l]
  linkExists s l && k.up && ! inReset (.link l) s && decide (f.1 ≤ k.vfs) && k.fns[f].memSpace && ! k.fns[f].d3

/-- An access outside a function's map: a read completes with Unsupported Request, a write is discarded, and both are logged (R515). DEDUCED, log entry 98. -/
def barUnmapped (l : Fin 4) (f : Fin 17) (ofs : Nat) (wr : Bool) (s : State) : State :=
  let s := logVio 1 ofs .access (Path.view l f).initiator s
  if wr then s else s.send (.unsupported l)

/-- An access into a block in reset (R106). DEDUCED, log entry 98. -/
def barHeld (l : Fin 4) (f : Fin 17) (ofs : Nat) (wr : Bool) (s : State) : State :=
  let s := logVio 1 ofs .state (Path.view l f).initiator s
  if wr then s else s.send (.completion l none)

/-- The BAR0 offset at which a function sees an object: the PF's object view, or the slot of the pair that a VF owns (R515, R517). -/
def viewOffset (s : State) (l : Fin 4) (f : Fin 17) (index sub : Nat) : Option Nat :=
  let slot := fun (c : Fin 512) (r : Nat) => ((ownedPairs s l f).findIdx? fun x => x == c).bind fun k => if k < 64 then some (k * 0x8000 + r) else none
  if f = 0 then some (0x01000000 + index * 0x800 + sub * 8)
  else match objAt index sub with
    | some (.dma c _) => slot c ((index - index % 2 - 0x6400) * 0x80)
    | some (.queue c _) => slot c (0x4000 + (index - index % 2 - 0x6000) * 0x80)
    | _ => none

/-- A view write of an object: discarded by the wrapper of a block in reset, carried out by its block or by firmware, left waiting for firmware,
or discarded while firmware does not run (R106, R571, R572). DEDUCED, log entry 98. DESIGN CHOICE, log entry 99. -/
def viewWrite (who : By) (l : Fin 4) (f : Fin 17) (ofs index sub : Nat) (ok : Bool) (v : Val) (act : State → State) (s : State) : State :=
  if (objAt index sub).any fun o => o.held s then markView who index sub .state (barHeld l f ofs true s)
  else if direct who index sub || fwFree s then act s
  else if firmwareRuns s then waitFw (.write who index sub ok v) false s
  else s

/-- A register write as a command: it is executed, or it waits for firmware; through the view it reaches what the function's map holds, once
the host ports serve it (R117, R571, R572). JTAG is no path into the dictionary. DESIGN CHOICE, log entry 99. DEDUCED, log entry 100. -/
def regWrite (who : By) (index sub : Nat) (v : Val) (s : State) : State :=
  let act := fun (s : State) =>
    let (st, s) := dictWrite who false index sub true v s
    s.answer st
  match who.path with
  | .jtag => s
  | .firmware => if firmwareRuns s then act s else s
  | .view l f =>
    if ! barServes s l f then s
    else match viewOffset s l f index sub with
      | some ofs => if s.boot.phase ≠ 3 then barUnmapped l f ofs true s else viewWrite who l f ofs index sub true v act s
      | none => s
  | .ldp _ _ => if fwFree s then act s else waitFw (.write who index sub true v) true s
  | .mailbox _ _ => if fwFree s then act s else waitFw (.write who index sub true v) true s

end Sys2Proof.Machine
end

