-- ==== Sys2Proof/Machine/Release.lean ====
section
/-! DEFINITION. The release of resets: the steps of a level-0 release, and the releases of levels 1 to 3 (R47 to R51, R104, R107,
R114 to R120, R499, R599, R619). -/

namespace Sys2Proof.Machine

open Sys2Proof

/-- A source that holds its reset until its own condition ends it: a thermal trip (R82, R83) or a failed clock (R84). -/
def stillHeld (s : State) : Bool := s.rst.held.contains .thermal || s.rst.held.contains .clockLoss

/-- One reset of a level is counted, in MRAM (R104). DEDUCED, log entry 82. DESIGN CHOICE, log entry 88. -/
def countReset (lv : Fin 4) (s : State) : State :=
  let n := satInc s.rst.count[lv]
  rwpRecord (objTarget 0x2000 (0x10 + lv.1)) (bv n) { s with rst := { s.rst with count := s.rst.count.set lv.1 n } }

/-- Persistent objects are reloaded, and those that take hold at this release do (R91, R499, R599). DEDUCED, log entry 102. -/
def reloadAll (s : State) : State :=
  let s := reloadRwp s
  { s with host := { s.host with bifNow := #v[bitAt s.host.cfg 31, bitAt s.host.cfg 30] }, acc := { s.acc with ldpPortNow := s.acc.ldpPort } }

/-- The reset ends: nothing holds it. DEDUCED, log entry 82. -/
def endReset (s : State) : State := { s with rst := { s.rst with level := none, block := none, isolated := [], held := [] } }

/-- Step 3: both copies of each fuse map and of the root fuses are sensed, and copies that differ are entered (R51, R61, R99, R602). DEDUCED, log entry 102. -/
def senseFuses (s : State) : State :=
  let pinSplit := splitIn pinFields s.fuses.pinA s.fuses.pinB
  let s := coldPins (sensePins { s with rst := { s.rst with rstmap := agreed rstFields s.fuses.rstA s.fuses.rstB } })
  let s := s.updPins fun p => { p with fpmSplit := pinSplit }
  let s := if pinSplit then fault 0x0601 0 .fuse 0 0 s else s
  let s := if splitIn rstFields s.fuses.rstA s.fuses.rstB then fault 0x0601 0 .fuse 1 0 s else s
  s.each (List.finRange 4) fun n s => if rootSplit s n then fault 0x0602 2 .fuse (2 + n.1) 0 s else s

/-- Steps 5 and 6: CTRL locks, the control domain is released, and the boot ROM starts (R50, R69, R116, R619). -/
def finishCold (s : State) : State :=
  let (nonce, s) := s.drawBytes 32
  let s := reloadAll { s with
    coreTime := 0
    clk := { s.clk with good := ((Vector.replicate 23 false).set 0 true).set 1 true }
    mram := { s.mram with writesBarred := false }
    sec := { s.sec with nonce := nonce }
    lanes := mapAll s.lanes fun _ l => l.loadPreset }
  let s := countReset 0 (endReset s)
  startBoot { s with rst := { s.rst with rstoutPending := true, waitRefclk := false } }

/-- Step 4: REFCLK is there, and the PCIe reference is detected; or the release waits for REFCLK (R108, R115, R116). -/
def refStep (present pcieRef : Bool) (s : State) : State :=
  let ext : Bool := if s.pins.clkm = 0 then false else if s.pins.clkm = 1 then true else pcieRef
  if present then finishCold { s with clk := { s.clk with pcieRefsrc := ext } } else { s with rst := { s.rst with waitRefclk := true } }

/-- A level-0 reset ends: straps, TST and bank supplies are sampled; a TST ball that reads high keeps the device in reset (R47 to R49, R84,
R108, R114, R116). DEDUCED, log entry 101. -/
def coldRelease (st : Straps) (refclk pcieRef : Bool) (s : State) : State :=
  if s.rst.level ≠ some 0 ∨ stillHeld s = true ∨ railsUp s = false then s
  else
    let s := s.updPins fun p => { p with boot := st.boot, clkm := st.clkm, trstN := st.trstN, extest := p.extest && st.trstN, clamp := p.clamp && st.trstN, pc33 := #v[decide (2500 ≤ st.pc0Mv), decide (2500 ≤ st.pc1Mv)] }
    let s := { s with rst := { s.rst with held := [], waitRefclk := false } }
    if st.tst ≠ 0 then s
    else
      let s := senseFuses s
      refStep refclk pcieRef { s with boot := { s.boot with source := st.boot } }

/-- Step 6 of a level-1 release: RWP objects are reloaded and host ports released (R118). -/
def releaseHosts (s : State) : State :=
  if s.boot.hostDue then releaseAll ((List.finRange 4).map .link) (reloadAll (s.updBoot fun b => { b with hostDue := false })) else s

/-- A ROM that boots over PCIe, over the network or in recovery releases the host ports itself, since it reports host ready (R117, R118). DEDUCED, log entry 102. -/
def romHosts (s : State) : State :=
  if s.boot.phase = 4 ∨ (s.boot.phase ≠ 0 ∧ s.boot.phase ≠ 3 ∧ 2 ≤ s.boot.source.toNat) then releaseHosts s else s

/-- The ROM starts in a control complex that has been released: step 5, and with firmware step 6 (R118, R120, R123). -/
def controlReleased (s : State) : State := if retainedOk s then reverify (releaseHosts s) else romHosts (reverify s)

/-- Blocks are released that were held before; with the control complex the ROM starts (R107, R118). -/
def afterControl (was s : State) : State := if inReset .control was && ! inReset .control s then controlReleased s else s

/-- A level-1 reset ends: every domain whose clock stayed good is released in the order of R109, and the ROM verifies the retained
firmware again (R50, R91, R107, R118, R123). -/
def warmRelease (s : State) : State :=
  if s.rst.level ≠ some 1 ∨ stillHeld s = true then s
  else
    let t := countReset 1 (endReset s)
    let t := { t with rst := { t.rst with rstoutPending := true }, boot := { t.boot with hostDue := true } }
    afterControl s (releaseAll [.mgt 0, .mgt 1] (releaseQuads (List.finRange 4) (releaseAll (dataBlks ++ timingBlks) t)))

/-- Firmware, which ran on, journals the reset and enters what waited (R119, R594, R628). DEDUCED, log entry 81. -/
def noteReset (s : State) : State := if firmwareRuns s then jnlReset (enterCaptured s) else s

/-- A level-2 reset ends: the data-path blocks are released in the order of R109, and with them the blocks of a level-3 reset that it
escalated from (R95, R107, R119). -/
def dataRelease (s : State) : State :=
  if s.rst.level ≠ some 2 ∨ stillHeld s = true then s
  else
    let t := releaseQuads (List.finRange 4) (releaseAll dataBlks (countReset 2 (endReset s)))
    let t := settlePause (releaseAll s.rst.isolated t)
    if inReset .control s && ! inReset .control t then controlReleased t else noteReset t

/-- A level-3 reset of a block ends (R107, R120, R129): a lane's quadrant calibrates, the control complex verifies its firmware again. -/
def blockRelease (b : Blk) (s : State) : State :=
  if s.rst.level ≠ some 3 ∨ ¬ (s.rst.block = some b ∨ s.rst.isolated.contains b = true) then s
  else
    let was := s
    let s := { s with rst := { s.rst with block := if s.rst.block = some b then none else s.rst.block, isolated := s.rst.isolated.erase b } }
    let ended := s.rst.block.isNone && s.rst.isolated.isEmpty && ! s.rst.held.contains .clockLoss
    let s := if ended then countReset 3 (endReset s) else s
    let s := match b with
      | .lane n => if inReset b s then s else calibrate true (Fin.ofNat 4 (n.1 / 16)) s
      | _ => s
    let s := settlePause (releaseAll [b] s)
    if ended && b != .control then noteReset s else if b = .control then afterControl was s else s

/-- LEVEL0_RELEASE (R116). DESIGN CHOICE, log entry 2. DEDUCED, log entry 101. -/
def execLevel0Release (straps : Straps) (refclk pcieRef : Bool) (s : State) : Host.Outcome State Fault Refusal :=
  .next (coldRelease straps refclk pcieRef s)

/-- REFCLK_LOCK_RETRY: REFCLK is absent still, or it is there, and the monitor sees PCIEn_REFCLK or not (R108, R116). DEDUCED, log entry 7. -/
def execRefclkLockRetry (seen : Option Bool) (s : State) : Host.Outcome State Fault Refusal :=
  .next (if s.rst.waitRefclk then refStep seen.isSome (seen.getD false) s else s)

/-- CLOCK_GOOD (R107). -/
def execClockGood (d : Fin 23) (s : State) : Host.Outcome State Fault Refusal := .next (afterControl s (clockGood d s))

/-- SPI_IMAGE_LOADED (R122). -/
def execSpiImageLoaded (bytes : List Byte) (s : State) : Host.Outcome State Fault Refusal := .next (romHosts (spiLoaded bytes s))

/-- BOOT_VERIFY_DONE (R118, R607). -/
def execBootVerifyDone (s : State) : Host.Outcome State Fault Refusal :=
  .next (if s.boot.verifying && romRuns s && verifyCode s == 0 then verifyEnds (releaseHosts s) else romHosts (verifyEnds s))

/-- RESET_RELEASE_L1 (R118). -/
def execResetReleaseL1 (s : State) : Host.Outcome State Fault Refusal := .next (warmRelease s)

/-- RESET_RELEASE_L2 (R119). -/
def execResetReleaseL2 (s : State) : Host.Outcome State Fault Refusal := .next (dataRelease s)

/-- RESET_RELEASE_L3 (R120). -/
def execResetReleaseL3 (b : Blk) (s : State) : Host.Outcome State Fault Refusal := .next (blockRelease b s)

end Sys2Proof.Machine
end

