-- ==== Sys2Proof/Machine/Ldp.lean ====
section
/-! DEFINITION. The Leund Dictionary Protocol: messages, sessions and operations, over the management ports and the mailboxes (R571,
R577 to R588, R592, R597, R598). -/

namespace Sys2Proof.Machine

open Sys2Proof

/-! ### Messages -/

/-- OP of a message (R580). -/
def msgOp (m : List Byte) : Nat := leAt m 3 1
/-- SESSION of a message. -/
def msgSession (m : List Byte) : Nat := leAt m 4 2
/-- FLAGS of a message. -/
def msgFlags (m : List Byte) : Nat := leAt m 6 1
/-- TAG of a message. -/
def msgTag (m : List Byte) : BitVec 32 := BitVec.ofNat 32 (leAt m 8 4)
/-- The payload of a message. -/
def msgPayload (m : List Byte) : List Byte := slice m 16 (leAt m 12 2)

/-- A message shorter than its header states, or with a wrong MAGIC or VERSION (R579). -/
def malformed (m : List Byte) : Bool :=
  decide (m.length < 16) || decide (m.length < 16 + leAt m 12 2) || leAt m 0 2 != 0x4C44 || leAt m 2 1 != 1

/-- The operations that the table lists (R581). -/
def listedOps : List Nat := [0x01, 0x02, 0x03, 0x10, 0x11, 0x12, 0x13, 0x14, 0x20, 0x30, 0x31, 0x32, 0x33]

/-- A reply: OP, SESSION and TAG repeated, REPLY set (R580). DEDUCED, log entry 103. -/
def replyTo (m : List Byte) (st : Status) (payload : List Byte) : List Byte :=
  slice m 0 6 ++ leBytes 1 (msgFlags m ||| 1) ++ leBytes 1 st.code ++ slice m 8 4 ++ leBytes 2 payload.length ++ leBytes 2 0 ++ payload

/-- The path of a message: its port or mailbox, with its session (R571, R596, R632). -/
def pathOf (src : LdpFrom) (session : Nat) : Path :=
  match src with
  | .udp p _ _ => .ldp p session
  | .mailbox pf => .mailbox pf session

/-- A mailbox changed. -/
def State.updMbox (s : State) (pf : Fin 4) (f : Mailbox → Mailbox) : State := s.updAcc fun a => { a with mailbox := modAt a.mailbox pf f }

/-- The reply is complete in the mailbox, with its interrupt when DEVVEC names this PF (R578). -/
def mailboxReply (pf : Fin 4) (m : List Byte) (s : State) : State :=
  let s := s.updMbox pf fun b => { b with replyBuf := m, busy := false, ready := true, length := BitVec.ofNat 15 m.length }
  if devLink s = pf then deviceVector 512 s else s

/-- A reply sent where its request came from, from the UDP port in force (R579, R599). -/
def sendReply (src : LdpFrom) (m : List Byte) (s : State) : State :=
  match src with
  | .udp p addr udp => s.send (.datagram p (some s.acc.ldpPortNow.toNat) (addr * 65536 + udp) m)
  | .mailbox pf => mailboxReply pf m s

/-- A request discarded and counted (R571, R579); a mailbox that posted it is free again. DEDUCED, log entry 107. -/
def dropRequest (src : LdpFrom) (s : State) : State :=
  let s := s.updAcc fun a => { a with drops := satInc a.drops }
  match src with
  | .udp _ _ _ => s
  | .mailbox pf => s.updMbox pf fun b => { b with busy := false }

/-! ### Sessions -/

/-- The session a number names (R586). -/
def findSession (s : State) (id : Nat) : Option Session := s.acc.sessions.find? fun x => x.id.toNat == id

/-- The session is bound to this source (R586). -/
def Session.boundTo (x : Session) (src : LdpFrom) : Bool :=
  match src with
  | .udp p addr udp => x.port == some p && x.addr == addr && x.udp == udp
  | .mailbox pf => x.pf == some pf

/-- A session changed. -/
def updSession (id : BitVec 16) (f : Session → Session) (s : State) : State :=
  s.updAcc fun a => { a with sessions := a.sessions.map fun x : Session => if x.id = id then f x else x }

/-- A session ends (R581, R585, R586). -/
def dropSession (id : BitVec 16) (s : State) : State := s.updAcc fun a => { a with sessions := a.sessions.filter fun x => x.id != id }

/-- The next free session number after one, going up and wrapping (R586). -/
def nextSession (s : State) : Nat → Nat → Nat
  | 0, n => n
  | k + 1, n =>
    let m := if 0x2FFF ≤ n then 1 else n + 1
    if (findSession s m).isSome then nextSession s k m else m

/-- The address that failures are counted by; a mailbox counts as an address of its own (R585). DEDUCED, log entry 105. -/
def failKey : LdpFrom → Nat
  | .udp _ addr _ => addr
  | .mailbox pf => 2 ^ 32 + pf.1

/-- OPEN from this address is answered BUSY (R585). DEDUCED, log entry 105. -/
def barredNow (s : State) (key : Nat) : Bool := s.acc.openFails.any fun f => f.addr == key && decide (s.coreTime < f.busyUntil)

/-- A failed OPEN counted: the eighth within 60 s bars the address for 60 s (R585). DEDUCED, log entry 105. -/
def countFail (key : Nat) (s : State) : State :=
  let now := s.coreTime
  let old := ((s.acc.openFails.find? fun f => f.addr == key).map (·.times)).getD []
  let times := now :: old.filter fun t => decide (now < t + 60 * clkS)
  let f : OpenFails := { addr := key, times := if 8 ≤ times.length then [] else times, busyUntil := if 8 ≤ times.length then now + 60 * clkS else 0 }
  s.updAcc fun a => { a with openFails := f :: a.openFails.filter fun x => x.addr != key }

/-- PRIV_MAX of the source (R585, R600). -/
def privMax (s : State) (src : LdpFrom) : Nat :=
  match src with
  | .udp p _ _ => fld s.mgt[p].ctl 29 28
  | .mailbox _ => 3

/-- A refused request enters the violation log (R584, R631). -/
def refuseMsg (src : LdpFrom) (session target : Nat) (st : Status) (s : State) : State :=
  logVio 0 target st (pathOf src session).initiator s

/-- What a request is answered: status and payload. -/
abbrev Answer := Status × List Byte

/-- A refused request. -/
def refusedMsg (src : LdpFrom) (session : Nat) (st : Status) (s : State) : Answer × State := ((st, []), refuseMsg src session 0 st s)

/-- OPEN, step 1 (R585, R586, R588). DEDUCED, log entry 103. -/
def openFirst (src : LdpFrom) (m : List Byte) (s : State) : Answer × State :=
  let p := msgPayload m
  let priv := leAt p 4 1
  let st := firstRefusal
    [(barredNow s (failKey src), .busy), (p.length != 8, .integrity), (decide (privMax s src < priv), .privilege),
     (! decide (leAt p 0 2 ≤ 1 ∧ 1 ≤ leAt p 2 2), .version), (decide (32 ≤ s.acc.sessions.length), .busy)]
  if st ≠ .ok then refusedMsg src 0 st s
  else
    let id := nextSession s 33 s.acc.lastSession.toNat
    let (nonce, s) := if priv = 0 then (List.replicate 16 (0 : Byte), s) else s.drawBytes 16
    let x : Session :=
      { id := BitVec.ofNat 16 id
        port := match src with
          | .udp p _ _ => some p
          | .mailbox _ => none
        addr := match src with
          | .udp _ a _ => a
          | .mailbox _ => 0
        udp := match src with
          | .udp _ _ u => u
          | .mailbox _ => 0
        pf := match src with
          | .udp _ _ _ => none
          | .mailbox f => some f
        priv := Fin.ofNat 4 priv, isOpen := priv == 0, nonce := nonce, highTag := msgTag m, kept := [], idleTmo := s.acc.idleTmo, staged := none }
    ((.ok, leBytes 2 id ++ leBytes 2 1 ++ leBytes 2 0 ++ nonce),
      s.updAcc fun a => { a with sessions := a.sessions ++ [x], lastSession := BitVec.ofNat 16 id })

/-- The first 16 bytes of SHAKE256(NONCE, SESSION, CRED) (R585). -/
def proofOf (s : State) (x : Session) : List Byte :=
  shake256 (x.nonce ++ leBytes 2 x.id.toNat ++ (if x.priv = 1 then s.acc.cred[(0 : Fin 2)] else s.acc.cred[(1 : Fin 2)])) 16

/-- OPEN, step 2: a proof, or a token that grants PRIV3 (R585, R619). DEDUCED, log entries 104, 105. -/
def openSecond (src : LdpFrom) (m : List Byte) (x : Session) (s : State) : Answer × State :=
  let p := msgPayload m
  let bad := fun (st : Status) (s : State) => refusedMsg src x.id.toNat st (countFail (failKey src) (dropSession x.id s))
  let good := fun (s : State) => ((Status.ok, ([] : List Byte)), updSession x.id (fun x => { x with isOpen := true }) s)
  if barredNow s (failKey src) then refusedMsg src x.id.toNat .busy s
  else if x.priv = 3 then
    let st := tokenStatus s openScopes p
    let s := tokenTaken openScopes p s
    if st = .ok then good s else bad st s
  else if p = proofOf s x then good s else bad .integrity s

/-! ### Reads and writes -/

/-- The bytes of a value as its type holds it (R563). -/
def valBytes (ty : Ty) (v : Val) : List Byte :=
  match v with
  | .num n => leBytes ty.bytes n
  | .bytes bs => bs

/-- One READ item: its reply and its status (R582). DEDUCED, log entry 106. -/
def readItem (who : By) (index sub : Nat) (s : State) : Answer × State :=
  let ty := ((objAt index sub).map fun o => o.desc.ty).getD .u32
  let head := leBytes 2 index ++ leBytes 1 sub
  let ((st, v), s) := dictRead who index sub s
  if st ≠ .ok then ((st, head ++ leBytes 1 st.code ++ leBytes 1 0), s)
  else if ty = .str ∨ ty = .blob then ((.type, head ++ leBytes 1 Status.type.code ++ leBytes 1 0), refuse who index sub .type s)
  else ((.ok, head ++ leBytes 1 0 ++ leBytes 1 ty.bytes ++ valBytes ty v), s)

/-- READ items one after another: replies and the first refusal (R582). DEDUCED, log entry 106. -/
def readItems (who : By) (p : List Byte) : Nat → Nat → State → Answer × State
  | 0, _, s => ((.ok, []), s)
  | k + 1, i, s =>
    let ((st, bs), s) := readItem who (leAt p (4 * i) 2) (leAt p (4 * i + 2) 1) s
    let ((st', bs'), s) := readItems who p k (i + 1) s
    ((if st = .ok then st' else st, bs ++ bs'), s)

/-- READ (R581, R582). -/
def ldpRead (src : LdpFrom) (who : By) (m : List Byte) (s : State) : Answer × State :=
  let p := msgPayload m
  let n := p.length / 4
  if p.length % 4 ≠ 0 ∨ n < 1 ∨ 64 < n ∨ (List.range n).any (fun i => leAt p (4 * i + 3) 1 != 0) then refusedMsg src (msgSession m) .integrity s
  else readItems who p n 0 s

/-- One WRITE item. -/
structure WriteItem where
  index : Nat
  sub : Nat
  bytes : List Byte

/-- The items of a WRITE; none when the payload ends within one (R581). -/
def parseItems : Nat → List Byte → Option (List WriteItem)
  | 0, p => if p.isEmpty then some [] else none
  | k + 1, p =>
    if p.isEmpty then some []
    else
      let size := leAt p 3 1
      if p.length < 4 + size then none
      else (parseItems k (p.drop (4 + size))).map fun r => { index := leAt p 0 2, sub := leAt p 2 1, bytes := slice p 4 size : WriteItem } :: r

/-- The value of an item and whether its SIZE is its object's (R582). -/
def itemValue (i : WriteItem) : Bool × Val :=
  match objAt i.index i.sub with
  | some o => if o.desc.ty.bytes = i.bytes.length ∧ o.desc.ty ≠ .str ∧ o.desc.ty ≠ .blob then (true, .num (ofLe i.bytes)) else (false, .bytes i.bytes)
  | none => (false, .bytes i.bytes)

/-- WRITE items in order; the first refused one ends the request (R582). -/
def writeItems (who : By) (cond : Bool) : List WriteItem → State → Answer × State
  | [], s => ((.ok, []), s)
  | i :: r, s =>
    let (ok, v) := itemValue i
    let (st, s) := dictWrite who cond i.index i.sub ok v s
    let head := leBytes 2 i.index ++ leBytes 1 i.sub ++ leBytes 1 st.code ++ leBytes 1 0
    if st ≠ .ok then ((st, head), s)
    else
      let ((st', bs), s) := writeItems who cond r s
      ((st', head ++ bs), s)

/-- HEAD and two bytes of 0 (R581). -/
def headBytes (s : State) : List Byte := leBytes 6 s.mram.head.toNat ++ leBytes 2 0

/-- WRITE, on its condition when it has one (R581, R582, R598). -/
def ldpWrite (src : LdpFrom) (who : By) (m : List Byte) (s : State) : Answer × State :=
  let p := msgPayload m
  let cond := (msgFlags m).testBit 1
  let body := if cond then p.drop 8 else p
  match (if cond ∧ p.length < 8 then none else parseItems 64 body) with
  | none => refusedMsg src (msgSession m) .integrity s
  | some [] => refusedMsg src (msgSession m) .integrity s
  | some (i :: r) =>
    if cond && leAt p 0 6 != s.mram.head.toNat then
      let s := refuseMsg src (msgSession m) (objTarget i.index i.sub) .sequence s
      ((.sequence, headBytes s), s)
    else
      let ((st, bs), s) := writeItems who cond (i :: r) s
      ((st, headBytes s ++ bs), s)

/-- The bytes of a BLOB or STR from an offset (R496, R583): PS_DATA is a window with rules of its own. DEDUCED, log entry 106. -/
def blobPart (o : Obj) (v : Val) (ofs len : Nat) (s : State) : Status × List Byte :=
  let n := min len 1424
  match o with
  | .ps .psData =>
    if ofs % 8 ≠ 0 ∨ len % 8 ≠ 0 ∨ 4096 < ofs + n ∨ 2 ^ 20 < s.psOfs.toNat + ofs + n then (.range, []) else (.ok, s.pstore.read (s.psOfs.toNat + ofs) n)
  | _ =>
    let bs := v.toBytes
    if bs.length < ofs then (.range, []) else (.ok, (bs.drop ofs).take n)

/-- READ_BLOB (R583). DEDUCED, log entry 106. -/
def ldpReadBlob (src : LdpFrom) (who : By) (m : List Byte) (s : State) : Answer × State :=
  let p := msgPayload m
  let index := leAt p 0 2
  let sub := leAt p 2 1
  if p.length ≠ 10 then refusedMsg src (msgSession m) .integrity s
  else
    let ((st, v), s) := dictRead who index sub s
    match objAt index sub with
    | some o =>
      if st ≠ .ok then ((st, []), s)
      else if o.desc.ty ≠ .str ∧ o.desc.ty ≠ .blob then ((.type, []), refuse who index sub .type s)
      else
        let (st, bs) := blobPart o v (leAt p 4 4) (leAt p 8 2) s
        if st = .ok then ((.ok, bs), s) else ((st, []), refuse who index sub st s)
    | none => ((st, []), s)

/-- WRITE_BLOB: a chunk staged, or the last one, which writes the whole value (R583). DEDUCED, log entry 106. -/
def ldpWriteBlob (src : LdpFrom) (who : By) (m : List Byte) (x : Session) (s : State) : Answer × State :=
  let p := msgPayload m
  let index := leAt p 0 2
  let sub := leAt p 2 1
  let ofs := leAt p 4 4
  let data := p.drop 8
  let stage := fun (v : Option (Nat × List Byte)) (s : State) => updSession x.id (fun x => { x with staged := v }) s
  if p.length < 8 then refusedMsg src (msgSession m) .integrity s
  else
    let before := if ofs = 0 then some [] else match x.staged with
      | some (k, bs) => if k = objTarget index sub ∧ bs.length = ofs then some bs else none
      | none => none
    match before with
    | none => ((.range, []), refuse who index sub .range (stage none s))
    | some bs =>
      let all := bs ++ data
      if (msgFlags m).testBit 2 then
        if 16384 < all.length then ((.range, []), refuse who index sub .range (stage none s))
        else ((.ok, []), stage (some (objTarget index sub, all)) s)
      else
        let (st, s) := dictWrite who false index sub true (.bytes all) (stage none s)
        ((st, headBytes s), s)

/-- DESCRIBE (R567). -/
def ldpDescribe (src : LdpFrom) (who : By) (m : List Byte) (s : State) : Answer × State :=
  let p := msgPayload m
  if p.length ≠ 3 then refusedMsg src (msgSession m) .integrity s
  else match objAt (leAt p 0 2) (leAt p 2 1) with
    | some o => ((.ok, describe o), s)
    | none => ((.noObject, []), refuse who (leAt p 0 2) (leAt p 2 1) .noObject s)

/-- The most entries of a JNL_READ (R597). -/
def jnlMost : LdpFrom → Nat
  | .udp _ _ _ => 44
  | .mailbox _ => 511

/-- JNL_READ (R597). DEDUCED, log entry 106. -/
def ldpJnlRead (src : LdpFrom) (m : List Byte) (s : State) : Answer × State :=
  let p := msgPayload m
  let from_ := leAt p 0 6
  let count := leAt p 6 2
  let head := headBytes s ++ leBytes 6 (jnlOldest s) ++ leBytes 2 0
  if p.length ≠ 8 then refusedMsg src (msgSession m) .integrity s
  else if from_ < jnlOldest s ∨ s.mram.head.toNat + 1 < from_ ∨ count < 1 ∨ jnlMost src < count then
    ((.range, head), refuseMsg src (msgSession m) 0 .range s)
  else ((.ok, head ++ (List.range count).flatMap fun i => ((jnlFind s (from_ + i)).map JnlEntry.bytes).getD []), s)

/-- One operation of an open session (R581). DEDUCED, log entry 104. -/
def sessionOp (src : LdpFrom) (m : List Byte) (x : Session) (s : State) : Answer × State :=
  let who : By := { path := pathOf src x.id.toNat, priv := x.priv }
  match msgOp m with
  | 0x02 => ((.ok, []), dropSession x.id s)
  | 0x03 => ((.ok, []), s)
  | 0x10 => ldpRead src who m s
  | 0x11 => ldpWrite src who m s
  | 0x12 => ldpReadBlob src who m s
  | 0x13 => ldpWriteBlob src who m x s
  | 0x14 => ldpDescribe src who m s
  | _ => ldpJnlRead src m s

/-! ### Service -/

/-- A tag ahead of the session's highest (R344, R587). DEDUCED, log entry 104. -/
def tagAhead (tag high : BitVec 32) : Bool :=
  let d := (tag - high).toNat
  decide (1 ≤ d ∧ d ≤ 2 ^ 31)

/-- An answer sent, and kept by its session with the tag (R587). -/
def finish (src : LdpFrom) (m : List Byte) (id : BitVec 16) (a : Answer × State) : State :=
  let r := replyTo m a.1.1 a.1.2
  sendReply src r (updSession id (fun x => { x with kept := ((msgTag m, r) :: x.kept).take 64, highTag := msgTag m }) (a.2.answer a.1.1 a.1.2))

/-- Firmware takes one well-formed message (R581, R584 to R587). Boot operations are the ROM's and are left. DEDUCED, log entry 104. -/
def serveMsg (src : LdpFrom) (m : List Byte) (s : State) : State :=
  let op := msgOp m
  let plain := fun (a : Answer × State) => sendReply src (replyTo m a.1.1 a.1.2) (a.2.answer a.1.1 a.1.2)
  if ! listedOps.contains op then plain (refusedMsg src (msgSession m) .version s)
  else if 0x30 ≤ op then s
  else if op = 0x01 ∧ msgSession m = 0 then
    let a := openFirst src m s
    -- a session at privilege 0 is open with this request, and keeps its reply; a half-open one has no highest tag yet
    if a.1.1 = .ok ∧ leAt (msgPayload m) 4 1 = 0 then finish src m a.2.acc.lastSession a else plain a
  else match findSession s (msgSession m) with
    | none => plain (refusedMsg src (msgSession m) .timeout s)
    | some x =>
      if ! x.boundTo src then plain (refusedMsg src (msgSession m) .integrity s)
      else if ! x.isOpen then
        if op = 0x01 then finish src m x.id (openSecond src m x s) else plain (refusedMsg src (msgSession m) .timeout s)
      else match x.kept.find? fun k => k.1 == msgTag m with
        | some k => sendReply src k.2 s
        | none =>
          if ! tagAhead (msgTag m) x.highTag then s.updAcc fun a => { a with stale := satInc a.stale }
          else if op = 0x01 then finish src m x.id (refusedMsg src x.id.toNat .state s)
          else finish src m x.id (sessionOp src m x s)

/-- A request that leaves no reply in a mailbox leaves it free (R578). DEDUCED, log entry 108. -/
def serveLdp (src : LdpFrom) (m : List Byte) (s : State) : State :=
  let s := serveMsg src m s
  match src with
  | .udp _ _ _ => s
  | .mailbox pf => s.updMbox pf fun b => { b with busy := false }

/-- A message has come: discarded when malformed, executed, or kept waiting for firmware (R571, R579). DEDUCED, log entry 108. -/
def arrive (src : LdpFrom) (m : List Byte) (s : State) : State :=
  if malformed m then dropRequest src s
  else if fwFree s then serveLdp src m s
  else if s.svc.length < svcMax then { s with svc := s.svc ++ [.ldp src m] }
  else dropRequest src s

/-- The port can receive a datagram: its link is up and it has an address (R579, R589). -/
def listens (s : State) (p : Fin 2) : Bool := s.mgt[p].link && s.mgt[p].addrNow != 0 && ! inReset (.mgt p) s

/-- A mailbox request is posted, or discarded while the mailbox is BUSY or READY (R577, R578). DEDUCED, log entry 107. -/
def postMailbox (pf : Fin 4) (m : List Byte) (s : State) : State :=
  let b := s.acc.mailbox[pf]
  if b.busy || b.ready then
    logVio 1 0x00410000 .busy (Path.view pf 0).initiator (s.updMbox pf fun b => { b with overrun := true })
  else arrive (.mailbox pf) m (s.updMbox pf fun b => { b with busy := true })

/-- A message of a row: the row acts on messages of its own kind alone. DEDUCED, log entry 108. -/
def ldpRow (kind : Bool) (src : LdpFrom) (m : List Byte) (s : State) : State :=
  if ! kind then s
  else match src with
    | .udp p _ _ => if listens s p then arrive src m s else s
    | .mailbox pf => postMailbox pf m s

/-- LDP_OPEN (R585). -/
def execLdpOpen (src : LdpFrom) (msg : List Byte) (s : State) : Host.Outcome State Fault Refusal :=
  .next (ldpRow (! malformed msg && msgOp msg == 0x01) src msg s)

/-- LDP_CLOSE (R581). -/
def execLdpClose (src : LdpFrom) (msg : List Byte) (s : State) : Host.Outcome State Fault Refusal :=
  .next (ldpRow (! malformed msg && msgOp msg == 0x02) src msg s)

/-- LDP_KEEPALIVE (R586). -/
def execLdpKeepalive (src : LdpFrom) (msg : List Byte) (s : State) : Host.Outcome State Fault Refusal :=
  .next (ldpRow (! malformed msg && msgOp msg == 0x03) src msg s)

/-- LDP_READ (R582). -/
def execLdpRead (src : LdpFrom) (msg : List Byte) (s : State) : Host.Outcome State Fault Refusal :=
  .next (ldpRow (! malformed msg && msgOp msg == 0x10) src msg s)

/-- LDP_WRITE (R582). -/
def execLdpWrite (src : LdpFrom) (msg : List Byte) (s : State) : Host.Outcome State Fault Refusal :=
  .next (ldpRow (! malformed msg && msgOp msg == 0x11) src msg s)

/-- LDP_READ_BLOB (R583). -/
def execLdpReadBlob (src : LdpFrom) (msg : List Byte) (s : State) : Host.Outcome State Fault Refusal :=
  .next (ldpRow (! malformed msg && msgOp msg == 0x12) src msg s)

/-- LDP_WRITE_BLOB (R583). -/
def execLdpWriteBlob (src : LdpFrom) (msg : List Byte) (s : State) : Host.Outcome State Fault Refusal :=
  .next (ldpRow (! malformed msg && msgOp msg == 0x13) src msg s)

/-- LDP_DESCRIBE (R567). -/
def execLdpDescribe (src : LdpFrom) (msg : List Byte) (s : State) : Host.Outcome State Fault Refusal :=
  .next (ldpRow (! malformed msg && msgOp msg == 0x14) src msg s)

/-- LDP_JNL_READ (R597). -/
def execLdpJnlRead (src : LdpFrom) (msg : List Byte) (s : State) : Host.Outcome State Fault Refusal :=
  .next (ldpRow (! malformed msg && msgOp msg == 0x20) src msg s)

/-- LDP_UNKNOWN_OP (R581). -/
def execLdpUnknownOp (src : LdpFrom) (msg : List Byte) (s : State) : Host.Outcome State Fault Refusal :=
  .next (ldpRow (! malformed msg && ! listedOps.contains (msgOp msg)) src msg s)

/-- LDP_MALFORMED (R579). -/
def execLdpMalformed (src : LdpFrom) (msg : List Byte) (s : State) : Host.Outcome State Fault Refusal :=
  .next (ldpRow (malformed msg) src msg s)

/-- SESSION_IDLE_TIMEOUT (R586): firmware closes the session. -/
def execSessionIdleTimeout (id : BitVec 16) (s : State) : Host.Outcome State Fault Refusal :=
  .next (if firmwareRuns s then dropSession id s else s)

end Sys2Proof.Machine
end

