-- ==== Sys2Proof/Machine/Jtag.lean ====
section
/-! DEFINITION. The test access port: its instructions, what is withheld while it is locked, and the debug unlock (R619 to R621). -/

namespace Sys2Proof.Machine

open Sys2Proof

/-- The TAP acts while TRST_N is high; low, it holds the TAP in reset, which shifts nothing (R43). DESIGN CHOICE, log entry 111. -/
def tap (act : State → State) (s : State) : State := if s.pins.trstN then act s else s

/-- An instruction is loaded: EXTEST and CLAMP last until the next one. DESIGN CHOICE, log entry 111. -/
def tapLoad (extest clamp : Bool) (s : State) : State := s.updPins fun p => { p with extest := extest, clamp := clamp }

/-- BYPASS: its register captures 0. DESIGN CHOICE, log entry 111. -/
def tapBypass (s : State) : State := (tapLoad false false s).send (.tdo 0)

/-- DBG_UNLOCK: a token of 1,376 bytes is presented (R619). DESIGN CHOICE, log entry 111. -/
def tapUnlock (bytes : List Byte) (s : State) : State :=
  let tok := padTo 1376 bytes
  let st := tokenStatus s tapScopes tok
  let s := tokenTaken tapScopes tok (tapLoad false false s)
  if st = .ok then s
  else
    let (target, s) := s.drawNat
    logVio 3 target st Path.jtag.initiator s

/-- JTAG_DBG_UNLOCK (R619). -/
def execJtagDbgUnlock (bytes : List Byte) (s : State) : Host.Outcome State Fault Refusal := .next (tap (tapUnlock bytes) s)

/-- JTAG_DBG_RESET (R620, R621): without the grant it acts as BYPASS. -/
def execJtagDbgReset (s : State) : Host.Outcome State Fault Refusal :=
  .next (tap (fun s => if s.sec.resetOk then debugReset (tapLoad false false s) else tapBypass s) s)

/-- JTAG_DBG_STATUS (R621). -/
def execJtagDbgStatus (s : State) : Host.Outcome State Fault Refusal :=
  .next (tap (fun s => (tapLoad false false s).send (.tdo (dbgStat s.sec).toNat)) s)

/-- JTAG_IDCODE (R621). -/
def execJtagIdcode (s : State) : Host.Outcome State Fault Refusal :=
  .next (tap (fun s => (tapLoad false false s).send (.tdo 0x164003A7)) s)

/-- JTAG_SAMPLE_PRELOAD (R621): the pins' levels are captured and shifted out; a value shifted in is preloaded. -/
def execJtagSamplePreload (load : Option Nat) (pins : Nat) (s : State) : Host.Outcome State Fault Refusal :=
  .next (tap (fun s => ((tapLoad false false s).updPins fun p => { p with bscan := load.getD pins }).send (.tdo pins)) s)

/-- JTAG_EXTEST (R621). -/
def execJtagExtest (s : State) : Host.Outcome State Fault Refusal :=
  .next (tap (fun s => if s.sec.tapOpen then tapLoad true false s else tapBypass s) s)

/-- JTAG_CLAMP (R621): the outputs are held by the boundary-scan register, and the bypass register is selected. -/
def execJtagClamp (s : State) : Host.Outcome State Fault Refusal :=
  .next (tap (fun s => if s.sec.tapOpen then (tapLoad false true s).send (.tdo 0) else tapBypass s) s)

/-- JTAG_PROC_DEBUG (R621): codes 0x30 to 0x3F, to which the manual gives no effect beyond their names; locked, and for any other code, BYPASS. DESIGN CHOICE, log entry 112. -/
def execJtagProcDebug (code : BitVec 8) (s : State) : Host.Outcome State Fault Refusal :=
  if s.pins.trstN && s.sec.tapOpen && decide (0x30 ≤ code.toNat ∧ code.toNat ≤ 0x3F) then .refused .processorDebug else .next (tap tapBypass s)

/-- JTAG_BYPASS (R621). -/
def execJtagBypass (s : State) : Host.Outcome State Fault Refusal := .next (tap tapBypass s)

end Sys2Proof.Machine
end

