-- ==== Sys2Proof/Machine/Mgmt.lean ====
section
/-! DEFINITION. The management ports' links and addresses, the PTP engine, and the fault records that firmware moves into the log (R589,
R590, R592, R601, R628). -/

namespace Sys2Proof.Machine

open Sys2Proof

/-- The module's pins and the link change (R589, R600): the link is down while the port is disabled, the module is absent or LOS is high. At
link up firmware takes the port's address, or the ROM that boots sends its request (R122). DEDUCED, log entry 109. -/
def linkChange (m : Fin 2) (present los up : Bool) (s : State) : State :=
  let s := s.updMgt m fun g => { g with present := present, los := los }
  if inReset (.mgt m) s then s
  else
    let was := s.mgt[m].link
    let on := up && present && ! los && bitAt s.mgt[m].ctl 31
    let s := driveTxdis m s
    if ! on then settlePtp (s.updMgt m fun g => { g with link := false, addrNow := 0, linkLocal := false, dhcpWait := false })
    else
      let s := settlePtp (s.updMgt m fun g => { g with link := true })
      if was then s
      else if firmwareRuns s then takeAddress m s
      else if netBooting s && ! inReset .control s && ! s.boot.verifying && s.boot.net.server.isNone then bootRound [m] s
      else s

/-- A DHCPv4 lease (R589). DEDUCED, log entry 109. -/
def lease (m : Fin 2) (addr : Word) (s : State) : State :=
  let g := s.mgt[m]
  if g.link && ! inReset (.mgt m) s && firmwareRuns s && bitAt g.ctl 30 && (g.dhcpWait || g.linkLocal) then
    s.updMgt m fun g => { g with addrNow := addr, linkLocal := false, dhcpWait := false }
  else s

/-- What the PTP engine learns: a port's state, or the times of an exchange, whose offset steers the clock in CLKM 0b00 and 0b01 (R374, R590,
R601). DESIGN CHOICE, log entry 11. DEDUCED, log entry 110. -/
def ptpLearns (m : Fin 2) (x : PtpMsg) (s : State) : State :=
  if ! ptpPort s m then s
  else match x with
  | .state st =>
    if 5 < st.1 ∨ (st = 4 ∧ bitAt s.ptp.ctl 29 = true) then s else settlePtp { s with ptp := { s.ptp with state := s.ptp.state.set m.1 st m.2 } }
  | .sync t1 t2 => { s with ptp := { s.ptp with stamps := s.ptp.stamps.set m.1 (some (t1, t2)) m.2 } }
  | .delay t3 t4 =>
    match s.ptp.stamps[m] with
    | some (t1, t2) =>
      let s := { s with ptp := { s.ptp with stamps := s.ptp.stamps.set m.1 none m.2 } }
      if s.ptp.state[m] = 3 ∧ s.pins.clkm.toNat < 2 then
        let (o, s) := openQuot ((t2 - t1) - (t4 - t3)) 2 s
        servo o s
      else s
    | none => s

/-- Firmware moves the oldest posted record into the fault log (R628, R630). -/
def moveRecord (s : State) : State :=
  if ! firmwareRuns s then s
  else match s.faults.queue with
    | [] => s
    | r :: rest => logFault r { s with faults := { s.faults with queue := rest } }

/-- MGT_LINK_CHANGE (R589). -/
def execMgtLinkChange (m : Fin 2) (present los up : Bool) (s : State) : Host.Outcome State Fault Refusal := .next (linkChange m present los up s)

/-- DHCP_LEASE (R589): the mask and the gateway serve the network stack alone. DEDUCED, log entry 109. -/
def execDhcpLease (m : Fin 2) (addr _mask _gw : Word) (s : State) : Host.Outcome State Fault Refusal := .next (lease m addr s)

/-- DHCP_TIMEOUT (R589). -/
def execDhcpTimeout (m : Fin 2) (s : State) : Host.Outcome State Fault Refusal :=
  .next (if s.mgt[m].dhcpWait && firmwareRuns s then linkLocal m s else s)

/-- PTP_MESSAGE (R590). -/
def execPtpMessage (m : Fin 2) (x : PtpMsg) (s : State) : Host.Outcome State Fault Refusal := .next (ptpLearns m x s)

/-- FAULT_RECORD_MOVE (R628). -/
def execFaultRecordMove (s : State) : Host.Outcome State Fault Refusal := .next (moveRecord s)

end Sys2Proof.Machine
end

