-- ==== Sys2Proof/Machine/Reception.lean ====
section
/-! DEFINITION. Data codewords received (chapters 05 and 06): link blocks are acted on, and stream blocks are put together to their
port's stream slot by slot (R167, R168, R178). -/

namespace Sys2Proof.Machine

open Sys2Proof

/-! ### Link blocks -/

/-- A control block that is not stream content, from lane n (R166, R167). Types that only the device sends are ignored. -/
def linkBlock (n : Fin 64) (x : BitVec 256) (s : State) : State :=
  match fld x 7 0 with
  | 0x10 => capsReceived n x s
  | 0x11 => ackReceived n x s
  | 0x12 => idleAnnounced n x s
  | 0x13 => if s.lanes[n].tstate == .active then moveLane n .pattern s else s
  | 0x14 => laneFault n x s
  | 0x19 =>
    match portOfLane s n with
    | some p => replySeen p x s
    | none => s
  | 0x31 => replayStarts n x s
  | _ => s

/-- The link blocks of a codeword, in their order; one that the negotiated version does not know is ignored (R167). DESIGN CHOICE, log entry 14. -/
def linkBlocks (n : Fin 64) (bs : List (Bool × BitVec 256)) (s : State) : State :=
  let ver := s.lanes[n].ver.1
  s.each bs fun b s => if b.1 && ! isUnknown ver b then linkBlock n b.2 s else s

/-! ### The port stream -/

/-- A stream block of port p (R166, R217): a block of another type is none. -/
def streamBlock (p : Fin 16) (b : Bool × BitVec 256) (s : State) : State :=
  if ! b.1 then dataSeen p b.2 s
  else match fld b.2 7 0 with
    | 1 => startSeen p b.2 s
    | 2 => endSeen p b.2 s
    | 3 => messageSeen p b.2 s
    | _ => s

/-- The blocks of a slot in the order of the port stream: position b is block b / N of role b mod N (R178). -/
def interleave (roles : List (List (Bool × BitVec 256))) : List (Bool × BitVec 256) :=
  (List.range 10).flatMap fun k => roles.filterMap fun bs => bs[k]?

/-- The oldest codeword of lane n that the port stream has still to take. -/
def oldestSlot (s : State) (n : Fin 64) : Option Nat := s.lanes[n].slots.head?.map (·.1)

/-- The earliest of the oldest codewords of a port's role lanes, once every one of them has one (R178). -/
def nextComplete (s : State) (p : Fin 16) : Option Nat :=
  let firsts := s.ports[p].roles.map (oldestSlot s)
  if firsts.isEmpty || firsts.any (·.isNone) then none
  else match firsts.filterMap id with
    | c :: cs => some (cs.foldl (fun a b => if cseqUpTo a b then a else b) c)
    | [] => none

/-- Slot c of port p is taken: its stream blocks in their order, or the break at a codeword that was uncorrectable. A lane that has no
codeword of the slot has sent none in it (R178, R203). -/
def takeSlot (p : Fin 16) (c : Nat) (s : State) : State :=
  let roles := s.ports[p].roles
  let got := roles.map fun n => match s.lanes[n].slots with
    | e :: _ => if e.1 = c then some (n, e.2) else none
    | [] => none
  let s := s.each roles fun n s => s.updLane n fun l => { l with slots := l.slots.dropWhile fun e => e.1 == c }
  let s := s.updPort p fun q =>
    { q with nextSlot := (c + 1) % 2 ^ 42, replayedTo := q.replayedTo.filter fun t => cseqUpTo c t }
  match got.find? fun e => match e with
    | some (_, none) => true
    | _ => false with
  | some (some (n, _)) => streamBreaks p n s
  | _ => s.each (interleave (got.map fun e => ((e.bind (·.2)).getD []))) (streamBlock p)

/-- Slots taken as long as every role lane has a codeword of one, at most k of them (R178). DESIGN CHOICE, log entry 14. -/
def assemble (p : Fin 16) : Nat → State → State
  | 0, s => s
  | k + 1, s =>
    match nextComplete s p with
    | some c => assemble p k (takeSlot p c s)
    | none => s

/-- A codeword of lane n joins its port's stream: only on a lane that serves a role, while the port runs and does not discard for a replay, and
from the slot on that the stream takes next (R178, R199, R201). -/
def joinStream (n : Fin 64) (c : Nat) (bs : Option (List (Bool × BitVec 256))) (s : State) : State :=
  match portOfLane s n with
  | none => s
  | some p =>
    let q := s.ports[p]
    if ! q.running || q.replay.isSome || ! q.roles.contains n || ! cseqUpTo q.nextSlot c then s
    else
      let s := s.updLane n fun l => { l with slots := l.slots ++ [(c, bs)] }
      assemble p ((q.roles.map fun m => s.lanes[m].slots.length).sum) s

/-! ### Codewords -/

/-- One more data codeword since EIDLE_ENTER: after those that LEAD counts the receiver enters electrical idle (R188). -/
def leadPasses (n : Fin 64) (s : State) : State :=
  match s.lanes[n].idleLead with
  | some k => if k ≤ 1 then enterIdle n s else s.updLane n fun l => { l with idleLead := some (k - 1) }
  | none => s

/-- The levels of a data codeword on lane n, or as many symbols of an unframed pattern (R140, R147, R168, R175, R203). DESIGN CHOICE, log entry 14. -/
def hearCodeword (n : Fin 64) (levels : List Level) (s : State) : State :=
  if ! runs s n || ! s.lanes[n].symLock then s
  else
    let (l, h) := s.lanes[n].codeword levels
    let led := s.lanes[n].idleLead.isSome
    let s := adaptLane n (s.updLane n fun _ => l)
    match h with
    | .nothing => s
    | .bad => if 32 ≤ l.uncorrRun then lockLost n s else joinStream n l.cseq none (badCodeword n s)
    | .blocks bs =>
      let s := joinStream n l.cseq (some bs) (linkBlocks n bs s)
      if led then leadPasses n s else s

/-- CODEWORD_RECEIVED (R168). DESIGN CHOICE, log entries 14, 15. -/
def execCodewordReceived (n : Fin 64) (levels : List Level) (s : State) : Host.Outcome State Fault Refusal :=
  if wholeCodeword levels then
    .next (if listening s n then settlePause (hearCodeword n levels (relay n levels s)) else s)
  else .fault .illFormed

end Sys2Proof.Machine
end

