-- ==== Sys2Proof/Machine/RegisterCommands.lean ====
section
/-! DEFINITION. The commands that are writes of one register: each names its object and sets the bit that makes it this command. The
writer's other bits are as the command carries them. -/

namespace Sys2Proof.Machine

open Sys2Proof

/-- The index of the objects of a frame source (R232). -/
def srcIndex (i : Fin 18) : Nat := if i.1 < 16 then 0x4000 + 0x100 * i.1 else 0x4E80 + 0x100 * (i.1 - 16)

/-- SOFTRST (R102, R103). -/
def execSoftrst (w : By) (v : Word) (s : State) : Host.Outcome State Fault Refusal :=
  .next (regWrite w 0x2000 0x2 (.num v.toNat) s)

/-- RSTMAP_BURN (R100). -/
def execRstmapBurn (w : By) (v : Word) (s : State) : Host.Outcome State Fault Refusal :=
  .next (regWrite w 0x2030 0x2 (.num v.toNat) s)

/-- PINMAP_BURN (R62). -/
def execPinmapBurn (w : By) (v : Word) (s : State) : Host.Outcome State Fault Refusal :=
  .next (regWrite w 0x2040 0x2 (.num v.toNat) s)

/-- CNTCTL_CLEAR (R153). -/
def execCntctlClear (w : By) (n : Fin 64) (v : Word) (s : State) : Host.Outcome State Fault Refusal :=
  .next (regWrite w (0x3000 + n.1) 0x11 (.num (v ||| place 32 0 1).toNat) s)

/-- EYE_START (R155). -/
def execEyeStart (w : By) (n : Fin 64) (v : Word) (s : State) : Host.Outcome State Fault Refusal :=
  .next (regWrite w (0x3000 + n.1) 0x12 (.num (v ||| place 32 31 1).toNat) s)

/-- LANE_ENABLE (R163). -/
def execLaneEnable (w : By) (n : Fin 64) (v : Word) (s : State) : Host.Outcome State Fault Refusal :=
  .next (regWrite w (0x3000 + n.1) 0x1 (.num (v ||| place 32 31 1).toNat) s)

/-- LANE_DISABLE (R163). -/
def execLaneDisable (w : By) (n : Fin 64) (v : Word) (s : State) : Host.Outcome State Fault Refusal :=
  .next (regWrite w (0x3000 + n.1) 0x1 (.num (v &&& ~~~ place 32 31 1).toNat) s)

/-- PORTCTL_WRITE (R212). -/
def execPortctlWrite (w : By) (p : Fin 16) (v : Word) (s : State) : Host.Outcome State Fault Refusal :=
  .next (regWrite w (0x3400 + p.1) 0x1 (.num v.toNat) s)

/-- PORT_RELEASE (R205). -/
def execPortRelease (w : By) (p : Fin 16) (v : Word) (s : State) : Host.Outcome State Fault Refusal :=
  .next (regWrite w (0x3400 + p.1) 0x1 (.num (v &&& ~~~ place 32 31 1).toNat) s)

/-- CMD_READ (R223, R237). -/
def execCmdRead (w : By) (i : Fin 18) (v : Word) (s : State) : Host.Outcome State Fault Refusal :=
  .next (regWrite w (srcIndex i) 0x18 (.num (setFld v 30 29 0).toNat) s)

/-- CMD_WRITE (R223, R237). -/
def execCmdWrite (w : By) (i : Fin 18) (v : Word) (s : State) : Host.Outcome State Fault Refusal :=
  .next (regWrite w (srcIndex i) 0x18 (.num (setFld v 30 29 1).toNat) s)

/-- CMD_PENDING_WRITE (R223, R237). -/
def execCmdPendingWrite (w : By) (i : Fin 18) (v : Word) (s : State) : Host.Outcome State Fault Refusal :=
  .next (regWrite w (srcIndex i) 0x18 (.num (setFld v 30 29 2).toNat) s)

/-- SOURCE_WRITE (R224). -/
def execSourceWrite (w : By) (p : Fin 16) (v : Word) (s : State) : Host.Outcome State Fault Refusal :=
  .next (regWrite w (0x4010 + 0x100 * p.1) 0x1 (.num v.toNat) s)

/-- PEAK_RATE_WRITE (R226). -/
def execPeakRateWrite (w : By) (i : Fin 18) (v : Word) (s : State) : Host.Outcome State Fault Refusal :=
  .next (regWrite w (srcIndex i) 0x4 (.num v.toNat) s)

/-- TAKE_START (R228). -/
def execTakeStart (w : By) (i : Fin 18) (v : Word) (s : State) : Host.Outcome State Fault Refusal :=
  .next (regWrite w (srcIndex i) 0x7 (.num (v ||| place 32 31 1).toNat) s)

/-- TAKE_STOP (R228). -/
def execTakeStop (w : By) (i : Fin 18) (v : Word) (s : State) : Host.Outcome State Fault Refusal :=
  .next (regWrite w (srcIndex i) 0x7 (.num (v ||| place 32 30 1).toNat) s)

/-- TAKE_ABORT (R228). -/
def execTakeAbort (w : By) (i : Fin 18) (v : Word) (s : State) : Host.Outcome State Fault Refusal :=
  .next (regWrite w (srcIndex i) 0x7 (.num (v ||| place 32 29 1).toNat) s)

/-- LIN_COMMIT (R246). -/
def execLinCommit (w : By) (p : Fin 16) (v : Word) (s : State) : Host.Outcome State Fault Refusal :=
  .next (regWrite w (0x4011 + 0x100 * p.1) 0x1 (.num (v ||| place 32 28 1).toNat) s)

/-- MAP_SWAP (R258). -/
def execMapSwap (w : By) (p : Fin 16) (v : Word) (s : State) : Host.Outcome State Fault Refusal :=
  .next (regWrite w (0x4014 + 0x100 * p.1) 0x6 (.num (v ||| place 32 31 1).toNat) s)

/-- MIX_COMMIT (R275). -/
def execMixCommit (w : By) (p : Fin 16) (v : Word) (s : State) : Host.Outcome State Fault Refusal :=
  .next (regWrite w (0x4015 + 0x100 * p.1) 0x1 (.num (v ||| place 32 29 1).toNat) s)

/-- CURVE_COMMIT (R278). -/
def execCurveCommit (w : By) (p : Fin 16) (v : Word) (s : State) : Host.Outcome State Fault Refusal :=
  .next (regWrite w (0x4016 + 0x100 * p.1) 0x1 (.num (v ||| place 32 29 1).toNat) s)

/-- CURVE_LOAD (R277). -/
def execCurveLoad (w : By) (p : Fin 16) (v : Word) (s : State) : Host.Outcome State Fault Refusal :=
  .next (regWrite w (0x4016 + 0x100 * p.1) 0x1 (.num v.toNat) s)

/-- TALLY_COMMIT (R335). -/
def execTallyCommit (w : By) (p : Fin 16) (v : Word) (s : State) : Host.Outcome State Fault Refusal :=
  .next (regWrite w (0x5000 + 0x10 * p.1) 0x1 (.num (v ||| place 32 31 1).toNat) s)

/-- SPEC_CLEAR (R337). -/
def execSpecClear (w : By) (p : Fin 16) (v : Word) (s : State) : Host.Outcome State Fault Refusal :=
  .next (regWrite w (0x5003 + 0x10 * p.1) 0x1 (.num (v ||| place 32 30 1).toNat) s)

/-- COUNT_LOAD (R345). -/
def execCountLoad (w : By) (n : Fin 16) (v : BitVec 48) (s : State) : Host.Outcome State Fault Refusal :=
  .next (regWrite w (0x7000 + n.1) 0x3 (.num v.toNat) s)

/-- ENC_ENABLE (R346). -/
def execEncEnable (w : By) (n : Fin 16) (v : Word) (s : State) : Host.Outcome State Fault Refusal :=
  .next (regWrite w (0x7000 + n.1) 0x1 (.num (v ||| place 32 31 1).toNat) s)

/-- ENC_DISABLE (R346). -/
def execEncDisable (w : By) (n : Fin 16) (v : Word) (s : State) : Host.Outcome State Fault Refusal :=
  .next (regWrite w (0x7000 + n.1) 0x1 (.num (v &&& ~~~ place 32 31 1).toNat) s)

/-- IDX_ARM (R348). -/
def execIdxArm (w : By) (n : Fin 16) (v : Word) (s : State) : Host.Outcome State Fault Refusal :=
  .next (regWrite w (0x7000 + n.1) 0x1 (.num (v ||| place 32 19 1).toNat) s)

/-- CMP_ARM (R369). -/
def execCmpArm (w : By) (n : Fin 16) (v : Word) (s : State) : Host.Outcome State Fault Refusal :=
  .next (regWrite w (0x7000 + n.1) 0x20 (.num (v ||| place 32 31 1).toNat) s)

/-- CMP_DISARM (R363). -/
def execCmpDisarm (w : By) (n : Fin 16) (v : Word) (s : State) : Host.Outcome State Fault Refusal :=
  .next (regWrite w (0x7000 + n.1) 0x20 (.num (v &&& ~~~ place 32 31 1).toNat) s)

/-- TARGET_WRITE (R362). -/
def execTargetWrite (w : By) (n : Fin 16) (v : BitVec 48) (s : State) : Host.Outcome State Fault Refusal :=
  .next (regWrite w (0x7000 + n.1) 0x21 (.num v.toNat) s)

/-- LIST_WRITE (R364). -/
def execListWrite (w : By) (n : Fin 16) (bytes : List Byte) (s : State) : Host.Outcome State Fault Refusal :=
  .next (regWrite w (0x7000 + n.1) 0x29 (.bytes bytes) s)

/-- TBCTL_WRITE (R372). -/
def execTbctlWrite (w : By) (v : Word) (s : State) : Host.Outcome State Fault Refusal :=
  .next (regWrite w 0x7200 0x1 (.num v.toNat) s)

/-- SEQ_RUN (R382). -/
def execSeqRun (w : By) (i : Fin 16) (v : Word) (s : State) : Host.Outcome State Fault Refusal :=
  .next (regWrite w (0x7130 + i.1) 0x1 (.num (v ||| place 32 31 1).toNat) s)

/-- SEQ_STOP (R382). -/
def execSeqStop (w : By) (i : Fin 16) (v : Word) (s : State) : Host.Outcome State Fault Refusal :=
  .next (regWrite w (0x7130 + i.1) 0x1 (.num (v &&& ~~~ place 32 31 1).toNat) s)

/-- CUE_WRITE (R376). -/
def execCueWrite (w : By) (k : Fin 4096) (hi : Bool) (v : BitVec 64) (s : State) : Host.Outcome State Fault Refusal :=
  .next (regWrite w (0x7110 + k.1 / 128) (k.1 % 128 * 2 + (if hi then 1 else 0)) (.num v.toNat) s)

/-- HIST_DIV_WRITE (R639). -/
def execHistDivWrite (w : By) (v : Word) (s : State) : Host.Outcome State Fault Refusal :=
  .next (regWrite w 0x7200 0x3 (.num v.toNat) s)

/-- ARRAY_CAL (R397). -/
def execArrayCal (w : By) (v : Word) (s : State) : Host.Outcome State Fault Refusal :=
  .next (regWrite w 0x7210 0x1 (.num (v ||| place 32 29 1).toNat) s)

/-- SW_PUBLISH (R416). -/
def execSwPublish (w : By) (v : Word) (s : State) : Host.Outcome State Fault Refusal :=
  .next (regWrite w 0x7416 0x9 (.num v.toNat) s)

/-- HERD_EN_WRITE (R406). -/
def execHerdEnWrite (w : By) (v : Word) (s : State) : Host.Outcome State Fault Refusal :=
  .next (regWrite w 0x7418 0x1 (.num v.toNat) s)

/-- XOFF_ENABLE (R448). -/
def execXoffEnable (w : By) (n : Fin 16) (v : Word) (s : State) : Host.Outcome State Fault Refusal :=
  .next (regWrite w 0x6110 (1 + n.1) (.num (v ||| place 32 31 1).toNat) s)

/-- XOFF_DISABLE (R448). -/
def execXoffDisable (w : By) (n : Fin 16) (v : Word) (s : State) : Host.Outcome State Fault Refusal :=
  .next (regWrite w 0x6110 (1 + n.1) (.num (v &&& ~~~ place 32 31 1).toNat) s)

/-- CELL_SELECT (R450). -/
def execCellSelect (w : By) (v : Word) (s : State) : Host.Outcome State Fault Refusal :=
  .next (regWrite w 0x6120 0x1 (.num v.toNat) s)

/-- QPOP (R452). -/
def execQpop (w : By) (q : Fin 512) (v : Word) (s : State) : Host.Outcome State Fault Refusal :=
  .next (regWrite w (0x601E + q.1 / 256) (q.1 % 256) (.num v.toNat) s)

/-- DMA_ENABLE (R492). -/
def execDmaEnable (w : By) (c : Fin 512) (v : Word) (s : State) : Host.Outcome State Fault Refusal :=
  .next (regWrite w (0x6400 + c.1 / 256) (c.1 % 256) (.num (v ||| place 32 31 1).toNat) s)

/-- DMA_DISABLE (R493). -/
def execDmaDisable (w : By) (c : Fin 512) (v : Word) (s : State) : Host.Outcome State Fault Refusal :=
  .next (regWrite w (0x6400 + c.1 / 256) (c.1 % 256) (.num (v &&& ~~~ place 32 31 1).toNat) s)

/-- DMA_ABORT (R494). -/
def execDmaAbort (w : By) (c : Fin 512) (v : Word) (s : State) : Host.Outcome State Fault Refusal :=
  .next (regWrite w (0x6400 + c.1 / 256) (c.1 % 256) (.num (v ||| place 32 30 1).toNat) s)

/-- DMA_RESUME (R490). -/
def execDmaResume (w : By) (c : Fin 512) (v : Word) (s : State) : Host.Outcome State Fault Refusal :=
  .next (regWrite w (0x6400 + c.1 / 256) (c.1 % 256) (.num (v ||| place 32 29 1).toNat) s)

/-- DB_CLEAR (R497). -/
def execDbClear (w : By) (c : Fin 512) (v : Word) (s : State) : Host.Outcome State Fault Refusal :=
  .next (regWrite w (0x6400 + c.1 / 256) (c.1 % 256) (.num (v ||| place 32 28 1).toNat) s)

/-- DOORBELL_WRITE (R496). -/
def execDoorbellWrite (w : By) (c : Fin 512) (v : Word) (s : State) : Host.Outcome State Fault Refusal :=
  .next (regWrite w (0x6410 + c.1 / 256) (c.1 % 256) (.num v.toNat) s)

/-- INTMASK_WRITE (R487). -/
def execIntmaskWrite (w : By) (c : Fin 512) (v : Word) (s : State) : Host.Outcome State Fault Refusal :=
  .next (regWrite w (0x6406 + c.1 / 256) (c.1 % 256) (.num v.toNat) s)

/-- PS_DATA_WRITE (R496). -/
def execPsDataWrite (w : By) (bytes : List Byte) (s : State) : Host.Outcome State Fault Refusal :=
  .next (regWrite w 0x6500 0x2 (.bytes bytes) s)

/-- PAIRFN_WRITE (R510). -/
def execPairfnWrite (w : By) (c : Fin 512) (v : Word) (s : State) : Host.Outcome State Fault Refusal :=
  .next (regWrite w (0x6820 + c.1 / 256) (c.1 % 256) (.num v.toNat) s)

/-- MAP_AREA_WRITE (R529). -/
def execMapAreaWrite (w : By) (v : Word) (s : State) : Host.Outcome State Fault Refusal :=
  .next (regWrite w 0x6810 0x3 (.num v.toNat) s)

/-- AXIS_START (R536). -/
def execAxisStart (w : By) (a : Fin 8) (v : Word) (s : State) : Host.Outcome State Fault Refusal :=
  .next (regWrite w (0x7800 + a.1) 0xA (.num (v ||| place 32 31 1).toNat) s)

/-- AXIS_STOP (R540). -/
def execAxisStop (w : By) (a : Fin 8) (v : Word) (s : State) : Host.Outcome State Fault Refusal :=
  .next (regWrite w (0x7800 + a.1) 0xA (.num (v ||| place 32 30 1).toNat) s)

/-- AXIS_ISTOP (R541). -/
def execAxisIstop (w : By) (a : Fin 8) (v : Word) (s : State) : Host.Outcome State Fault Refusal :=
  .next (regWrite w (0x7800 + a.1) 0xA (.num (v ||| place 32 29 1).toNat) s)

/-- TRIP_CLEAR (R545). -/
def execTripClear (w : By) (a : Fin 8) (v : Word) (s : State) : Host.Outcome State Fault Refusal :=
  .next (regWrite w (0x7800 + a.1) 0x2 (.num v.toNat) s)

/-- POS_WRITE (R534). -/
def execPosWrite (w : By) (a : Fin 8) (v : Word) (s : State) : Host.Outcome State Fault Refusal :=
  .next (regWrite w (0x7800 + a.1) 0x3 (.num v.toNat) s)

/-- WAVE_TAB_WRITE (R548). -/
def execWaveTabWrite (w : By) (a : Fin 8) (bytes : List Byte) (s : State) : Host.Outcome State Fault Refusal :=
  .next (regWrite w (0x7800 + a.1) 0x1D (.bytes bytes) s)

/-- JNL_SEL_WRITE (R597). -/
def execJnlSelWrite (w : By) (v : BitVec 64) (s : State) : Host.Outcome State Fault Refusal :=
  .next (regWrite w 0x8020 0x3 (.num v.toNat) s)

/-- ROOT_BURN (R604). -/
def execRootBurn (w : By) (n : Fin 4) (bytes : List Byte) (s : State) : Host.Outcome State Fault Refusal :=
  .next (regWrite w 0x9001 (1 + n.1) (.bytes bytes) s)

/-- ROOT_REVOKE (R604). -/
def execRootRevoke (w : By) (v : Word) (s : State) : Host.Outcome State Fault Refusal :=
  .next (regWrite w 0x9001 0x5 (.num v.toNat) s)

/-- ROOT_PUBKEY_WRITE (R603). -/
def execRootPubkeyWrite (w : By) (n : Fin 4) (bytes : List Byte) (s : State) : Host.Outcome State Fault Refusal :=
  .next (regWrite w 0x9002 (1 + n.1) (.bytes bytes) s)

/-- SVN_COMMIT (R613). -/
def execSvnCommit (w : By) (v : Word) (s : State) : Host.Outcome State Fault Refusal :=
  .next (regWrite w 0x9001 0x6 (.num v.toNat) s)

/-- UPD_OPEN (R610). -/
def execUpdOpen (w : By) (v : Word) (s : State) : Host.Outcome State Fault Refusal :=
  .next (regWrite w 0x9004 0x1 (.num (v ||| place 32 31 1).toNat) s)

/-- UPD_DATA (R610). -/
def execUpdData (w : By) (bytes : List Byte) (s : State) : Host.Outcome State Fault Refusal :=
  .next (regWrite w 0x9004 0x4 (.bytes bytes) s)

/-- UPD_VERIFY (R610). -/
def execUpdVerify (w : By) (v : Word) (s : State) : Host.Outcome State Fault Refusal :=
  .next (regWrite w 0x9004 0x1 (.num (v ||| place 32 30 1).toNat) s)

/-- UPD_RETIRE (R610). -/
def execUpdRetire (w : By) (v : Word) (s : State) : Host.Outcome State Fault Refusal :=
  .next (regWrite w 0x9004 0x1 (.num (v ||| place 32 29 1).toNat) s)

/-- UPD_REINSTATE (R610). -/
def execUpdReinstate (w : By) (v : Word) (s : State) : Host.Outcome State Fault Refusal :=
  .next (regWrite w 0x9004 0x1 (.num (v ||| place 32 28 1).toNat) s)

/-- ATT_REQ (R616). -/
def execAttReq (w : By) (bytes : List Byte) (s : State) : Host.Outcome State Fault Refusal :=
  .next (regWrite w 0x9006 0x1 (.bytes bytes) s)

/-- DBG_TOKEN (R619). -/
def execDbgToken (w : By) (bytes : List Byte) (s : State) : Host.Outcome State Fault Refusal :=
  .next (regWrite w 0x9007 0x2 (.bytes bytes) s)

/-- REGISTER_WRITE (R566): a write of any object. -/
def execRegisterWrite (w : By) (index : BitVec 16) (sub : BitVec 8) (x : Val) (s : State) : Host.Outcome State Fault Refusal :=
  .next (regWrite w index.toNat sub.toNat x s)

end Sys2Proof.Machine
end

