-- ==== Sys2Proof/Machine/Transmit.lean ====
section
/-! DEFINITION. What the lanes' transmitters send as time passes (chapters 05 and 06): training frames, data codewords with the blocks
that wait, exit and regular alignment codewords, test patterns, and the downstream electrical idle. -/

namespace Sys2Proof.Machine

open Sys2Proof

/-! ### One lane -/

/-- Symbols of lane n leave, or in a near-end loopback come to its own receiver, which hears them as f says (R150). -/
def emit (n : Fin 64) (ps : List Level) (f : List Level → State → State) (s : State) : State :=
  let s := drive n ps s
  if fld s.lanes[n].ctl 30 29 = 1 then f (invertLevels s.lanes[n].txInv ps) s else s

/-- A data codeword of some blocks, filled up with IDLE blocks (R168). -/
def sendCodeword (n : Fin 64) (bs : List (Bool × BitVec 256)) (s : State) : State :=
  let (ps, l) := s.lanes[n].dataCodeword (fillIdle bs)
  emit n ps (hearCodeword n) (s.updLane n fun _ => l)

/-- An alignment codeword at a position of the group: p(n-1) is 0 after it, and it gives the scrambler's next seed (R169, R171, R173). -/
def sendAligned (n : Fin 64) (pos : Nat) (s : State) : State :=
  let aseq := s.quads[(Fin.ofNat 4 (n.1 / 16))].aseq.toNat
  let ps := alignmentLevels (fieldBlock s n pos)
  emit n ps (fun x => hearAlignment n x (pos != 0)) (s.updLane n fun l => { l with txPrev := 0, scr := scrambleSeed n.1 pos aseq })

/-- 1,360 symbols of an unframed pattern (R147). -/
def sendPattern (n : Fin 64) (s : State) : State :=
  let l := s.lanes[n]
  let (bs, g) := prbsRun (fld l.ctl 26 24) 2720 l.gen
  let ps := levelsOf l.txPrev bs
  emit n ps (hearCodeword n) (s.updLane n fun l => { l with gen := g, txPrev := lastLevel l.txPrev ps })

/-- A training frame; after the one that carries COUNTDOWN 0 the lane enters Lock (R179, R180, R182). -/
def sendTraining (n : Fin 64) (s : State) : State :=
  let l := s.lanes[n]
  let (bs, g) := prbsRun 2 2400 l.trainGen
  let ps := trainingLevels (l.controlField n.1) bs
  let s := emit n ps (fun x => hearTraining n x true 0) (s.updLane n fun l => { l with trainGen := g, txPrev := lastLevel 0 ps })
  match l.countdown with
  | some 0 => moveLane n .lock s
  | some (k + 1) => s.updLane n fun l => { l with countdown := some k }
  | none => s

/-- CAPS goes out every 64 codewords of an Exchange until it is acknowledged (R182, R185). -/
def repeatCaps (n : Fin 64) (s : State) : State :=
  let l := s.lanes[n]
  if l.tstate ≠ .exchange ∨ l.ownAcked then s
  else if l.capsDue = 0 then (sendBlock n (ownCaps s n) s).updLane n fun l => { l with capsDue := 63 }
  else s.updLane n fun l => { l with capsDue := l.capsDue - 1 }

/-- The data blocks of a codeword in framed PRBS: PRBS31 in their payload bits, and the register after them (R149). -/
def framedBlocks (g : BitVec 31) : List (Bool × BitVec 256) × BitVec 31 :=
  let (bs, g) := prbsRun 3 2560 g
  ((List.range 10).map fun i => (false, BitVec.ofNat 256 (ofBitsLow ((bs.drop (256 * i)).take 256))), g)

/-- The codeword of lane n at a position other than 0 of the group: one of the 48 of an exit, a framed pattern, or the blocks that wait
(R149, R168, R189). -/
def sendData (n : Fin 64) (pos : Nat) (s : State) : State :=
  let l := s.lanes[n]
  if 0 < l.exitLeft then
    let s := s.updLane n fun l => { l with exitLeft := l.exitLeft - 1 }
    if (48 - l.exitLeft) % 8 = 7 then sendAligned n pos s else sendCodeword n [] s
  else if fld l.ctl 26 24 = 4 then
    let (bs, g) := framedBlocks l.gen
    sendCodeword n bs (s.updLane n fun l => { l with gen := g })
  else
    let s := repeatCaps n s
    sendCodeword n ((s.lanes[n].txq.headD []).map fun x => (true, x)) (s.updLane n fun l => { l with txq := l.txq.tail })

/-- What lane n sends in the codeword that begins at a position of its group; position 0, and what follows position 1,023, belong to the
regular alignment codeword (R147, R171, R182). -/
def laneSends (pos : Nat) (n : Fin 64) (s : State) : State :=
  let l := s.lanes[n]
  if ! runs s n || l.txIdle || fld l.ctl 30 29 == 2 then s
  else if 1 ≤ fld l.ctl 26 24 ∧ fld l.ctl 26 24 ≤ 3 then sendPattern n s
  else match l.tstate with
    | .detect | .pattern => sendTraining n s
    | .lock | .exchange | .active => if pos = 0 ∨ 1024 ≤ pos then s else sendData n pos s
    | .disabled => s

/-! ### A port's electrical idle -/

/-- The data codewords after EIDLE_ENTER pass; after the last the lanes enter idle, and leave it at once for a block that waits (R188, R191). -/
def leadSent (p : Fin 16) (s : State) : State :=
  match s.ports[p].dsLead with
  | none => s
  | some k =>
    if 1 < k then s.updPort p fun q => { q with dsLead := some (k - 1) }
    else
      let ls := activeLanes s p
      let s := (s.each ls fun n s => s.updLane n fun l => { l with txIdle := true }).updPort p fun q => { q with dsEidle := true, dsLead := none }
      if ls.any fun n => ! s.lanes[n].txq.isEmpty then wakeDown p s else s

/-! ### A quadrant -/

/-- The lanes of quadrant q, in order. -/
def lanesOf (q : Fin 4) : List (Fin 64) := (List.range 16).map fun i => Fin.ofNat 64 (16 * q.1 + i)

/-- The ports whose lanes lie in quadrant q (R176). -/
def portsOf (s : State) (q : Fin 4) : List (Fin 16) := (List.finRange 16).filter fun p => fld s.ports[p].ctl 13 8 / 16 == q.1

/-- Codewords of 1,360 symbols that a quadrant has begun since its last regular alignment codeword (R127, R174). -/
def Quad.codewords (k : Quad) (now : Nat) : Nat := (symbolsAt now - k.alignSym) / 1360

/-- A core clock passes: where a codeword begins in it, the quadrant's lanes send theirs (R127, R168, R179). -/
def quadSends (q : Fin 4) (s : State) : State :=
  let k := s.quads[q]
  let pos := k.codewords (s.coreTime + 1)
  if pos = k.codewords s.coreTime then s
  else
    let s := s.each (lanesOf q) (laneSends pos)
    if pos < 1024 then s.each (portsOf s q) leadSent else s

/-- The symbol with which a regular alignment codeword begins: 1,024 codewords after the last, where the command comes within a core
clock of it (R171, R193). DEDUCED, log entry 23. -/
def nextAlignSym (k : Quad) (now : Nat) : Nat :=
  let due := k.alignSym + 1024 * 1360
  if due ≤ symbolsAt now + 23 ∧ symbolsAt now ≤ due + 23 then due else symbolsAt now

/-- A quadrant's transmitters send a regular alignment codeword; a PAUSE ON is repeated in the group it opens (R171, R174, R189, R195). -/
def sendAlignment (q : Fin 4) (s : State) : State :=
  let s := { s with quads := modAt s.quads q fun k => { k with aseq := k.aseq + 1, alignSym := nextAlignSym k s.coreTime } }
  let s := s.each (lanesOf q) fun n s =>
    let l := s.lanes[n]
    if runs s n && ! l.txIdle && fld l.ctl 30 29 != 2 && ! decide (1 ≤ fld l.ctl 26 24 ∧ fld l.ctl 26 24 ≤ 3)
        && (l.tstate == .lock || l.tstate == .exchange || l.tstate == .active) then
      sendAligned n 0 (s.updLane n fun l => { l with exitLeft := l.exitLeft - 1 })
    else s
  s.each (portsOf s q) fun p s =>
    let k := s.ports[p]
    if k.paused then s.each (sendingLanes s p) fun n s => sendBlock n (pauseBlock true k.pseq) s else s

/-- REGULAR_ALIGNMENT_SEND (R174). -/
def execRegularAlignmentSend (q : Fin 4) (s : State) : Host.Outcome State Fault Refusal :=
  .next (if s.clk.good[(Fin.ofNat 23 (3 + q.1))] then sendAlignment q s else s)

end Sys2Proof.Machine
end

