-- ==== Sys2Proof/Machine/View.lean ====
section
/-! DEFINITION. What a host reaches through the BARs: the object view of PFs and VFs, the mailbox registers, the boot window, PSTORE, the
cell window and the map store (R106, R117, R514 to R517, R571 to R578). -/

namespace Sys2Proof.Machine

open Sys2Proof

/-- The object of a channel or queue whose place in a VF's slot is given, with the byte within its 8 (R517). -/
def slotObject (c : Fin 512) (r : Nat) : Option (Nat × Nat × Nat) :=
  let base := if r < 0x4000 then 0x6400 + r / 0x80 else 0x6000 + (r - 0x4000) / 0x80
  let index := base + c.1 / 256
  if 8 ≤ r % 0x80 ∨ base % 2 ≠ 0 then none
  else match objAt index (c.1 % 256) with
    | some (.dma _ _) => if r < 0x4000 then some (index, c.1 % 256, r % 8) else none
    | some (.queue _ _) => if 0x4000 ≤ r then some (index, c.1 % 256, r % 8) else none
    | _ => none

/-- A PF's window on CELL_DATA (R515). -/
def cellData (ofs : Nat) : Bool := decide (0x00600100 ≤ ofs) && decide (ofs < 0x00600300)

/-- The index, subindex and byte that a BAR0 offset names: the PF's view and its window on CELL_SEL, CELL_TAG and CELL_DATA, or a VF's slots
(R515, R517). DEDUCED, log entry 98. -/
def viewPlace (s : State) (l : Fin 4) (f : Fin 17) (ofs : Nat) : Option (Nat × Nat × Nat) :=
  if f = 0 then
    if 0x01000000 ≤ ofs ∧ ofs < 0x08000000 then
      let o := ofs - 0x01000000
      some (o / 0x800, o % 0x800 / 8, o % 8)
    else if 0x00600000 ≤ ofs ∧ ofs < 0x00600010 then some (0x6120, 1 + (ofs - 0x00600000) / 8, ofs % 8)
    else if cellData ofs then some (0x6120, 3, ofs % 8)
    else none
  else
    match (ownedPairs s l f)[ofs / 0x8000]? with
    | some c => if ofs / 0x8000 < 64 then slotObject c (ofs % 0x8000) else none
    | none => none

/-- A view access is naturally aligned, of 4 or 8 bytes (R515). -/
def viewAligned (ofs len : Nat) : Bool := (len == 4 && ofs % 4 == 0) || (len == 8 && ofs % 8 == 0)

/-- Who acts through the view (R517, R574). -/
def viewWho (s : State) (l : Fin 4) (f : Fin 17) : By :=
  { path := .view l f, priv := if f = 0 then Fin.ofNat 4 s.acc.viewPriv[l].1 else 1 }

/-- A value as the view shows it in 64 bits: extended by its type's sign, or the length of a STR or BLOB (R575). -/
def viewBits (d : Desc) (v : Val) : Nat :=
  match v with
  | .bytes bs => bs.length
  | .num n => if d.ty.signed then ofSigned 64 (toSigned (8 * d.ty.bytes) n) else n

/-- A view read is carried out: the value, or every data bit 1 when it is refused (R575, R576); the bytes of the CELL_DATA window, of which
those beyond a cell of 256 bytes are open (R451, R515). DESIGN CHOICE, log entry 63. -/
def viewServe (l : Fin 4) (f : Fin 17) (ofs len : Nat) (s : State) : State :=
  match viewPlace s l f ofs with
  | none => barUnmapped l f ofs false s
  | some (index, sub, at_) =>
    let ((st, v), s) := dictRead (viewWho s l f) index sub s
    if f = 0 ∧ cellData ofs then
      let (open_, s) := freeBytes len s
      let got := slice v.toBytes (ofs - 0x00600100) len
      s.send (.completion l (some (if st = .ok then got ++ open_.drop got.length else List.replicate len 0xFF)))
    else match objAt index sub with
    | some o =>
      let n := viewBits o.desc v / 2 ^ (8 * at_)
      s.send (.completion l (some (if st = .ok then leBytes len n else List.replicate len 0xFF)))
    | none => s.send (.completion l (some (List.replicate len 0xFF)))

/-- The boot window or its doorbell is served: port 0 link 0, while the window is open (R117, R122, R515). PRESUMED, log entry 71. -/
def windowOpen (s : State) (l : Fin 4) : Bool := l == 0 && s.boot.window

/-- MB_STAT (R577). -/
def Mailbox.stat (b : Mailbox) : Word := flagBit 31 b.busy ||| flagBit 30 b.ready ||| flagBit 29 b.overrun ||| place 32 0 b.length.toNat

/-- PSTORE is held: a level-0 reset clears it, and it stands in the CORE domain (R87, R106). -/
def pstoreHeld (s : State) : Bool := s.rst.level == some 0 || ! s.clk.good[(2 : Fin 23)]

/-- A read of a region of a PF's BAR0 beside the object view: BOOTSTAT, which is served while the ROM runs too, the boot window while it is
open, the mailbox and PSTORE (R117, R121, R495, R515, R577). DEDUCED, log entry 98. -/
def bar0Region (l : Fin 4) (ofs len : Nat) (s : State) : Option State :=
  let give := fun (n : Nat) => some (s.send (.completion l (some (leBytes len n))))
  -- a register that can only be written reads as nothing states, in the low 4 bytes
  let blind := fun (high : Nat) =>
    let (x, s) := s.drawNat
    some (s.send (.completion l (some (leBytes len (x % 2 ^ 32 + 2 ^ 32 * high)))))
  if ofs < 0x00400000 then if windowOpen s l then some (s.send (.completion l (some (memRead s.boot.ram ofs len)))) else none
  else if ofs = 0x00400004 ∧ len = 4 then give (bootstat s.boot).toNat
  else if ofs = 0x00400000 ∧ viewAligned ofs len ∧ (windowOpen s l ∨ s.boot.phase = 3) then blind (bootstat s.boot).toNat
  else if s.boot.phase ≠ 3 then none
  else if 0x00500000 ≤ ofs ∧ ofs + len ≤ 0x00600000 then
    some (if pstoreHeld s then barHeld l 0 ofs false s else s.send (.completion l (some (s.pstore.read (ofs - 0x00500000) len))))
  else if ! viewAligned ofs len then none
  else if ofs = 0x00410004 ∧ len = 4 then give s.acc.mailbox[l].stat.toNat
  else if ofs = 0x00410000 then blind s.acc.mailbox[l].stat.toNat
  else if ofs = 0x00410008 then blind 0
  else if 0x00411000 ≤ ofs ∧ ofs < 0x00415000 then some (s.send (.completion l (some (memRead s.acc.mailbox[l].request (ofs - 0x00411000) len))))
  else if 0x00418000 ≤ ofs ∧ ofs < 0x0041C000 then
    some (s.send (.completion l (some ((List.range len).map fun k => s.acc.mailbox[l].replyBuf.getD (ofs - 0x00418000 + k) 0))))
  else none

/-- A read of BAR0 arrives: served by the block, by firmware, or left waiting for it; a read that finds the queue
full completes with Completer Abort (R106, R117, R515, R571, R572). DESIGN CHOICE, log entry 99. -/
def viewReads (l : Fin 4) (f : Fin 17) (ofs len : Nat) (s : State) : State :=
  if ! barServes s l f then s
  else match (if f = 0 then bar0Region l ofs len s else none) with
  | some t => t
  | none =>
  if s.boot.phase != 3 || ! viewAligned ofs len then barUnmapped l f ofs false s
  else match viewPlace s l f ofs with
    | none => barUnmapped l f ofs false s
    | some (index, sub, _) =>
      match objAt index sub with
      | none => viewServe l f ofs len s
      | some o =>
        if o.desc.block && o.held s then barHeld l f ofs false s
        else if o.desc.block || fwFree s then viewServe l f ofs len s
        else if s.svc.length < svcMax then waitFw (.viewRead l f ofs len) false s
        else s.send (.completion l none)

/-- The value that a view write spells for an object, and whether its width allows it (R575). -/
def viewValue (o : Obj) (at_ : Nat) (bytes : List Byte) : Bool × Val :=
  let n := ofLe bytes
  let w := 8 * o.desc.ty.bytes
  let low := n % 2 ^ w
  let ext := if o.desc.ty.signed then ofSigned (8 * bytes.length) (toSigned w low) else low
  if w = 0 ∨ at_ ≠ 0 ∨ 8 * bytes.length < w ∨ ext ≠ n then (false, .num n) else (true, .num low)

/-- A view write arrives (R515, R575). -/
def viewArrives (l : Fin 4) (f : Fin 17) (ofs : Nat) (bytes : List Byte) (s : State) : State :=
  if ! barServes s l f then s
  else if s.boot.phase != 3 || ! viewAligned ofs bytes.length then barUnmapped l f ofs true s
  else match viewPlace s l f ofs with
    | some (index, sub, at_) =>
      let (ok, v) := ((objAt index sub).map fun o => viewValue o at_ bytes).getD (false, .num (ofLe bytes))
      let who := viewWho s l f
      viewWrite who l f ofs index sub ok v (fun s => (dictWrite who false index sub ok v s).2) s
    | none => barUnmapped l f ofs true s

/-- Firmware takes the request at the front of the service queue (R571). DESIGN CHOICE, log entry 1. -/
def serve (s : State) : State :=
  match s.svc with
  | [] => s
  | .ldp src m :: r => serveLdp src m { s with svc := r }
  | .write who index sub ok v :: r =>
    let (st, s) := dictWrite who false index sub ok v { s with svc := r }
    match who.path with
    | .view _ _ => s
    | _ => s.answer st
  | .viewRead l f ofs len :: r => viewServe l f ofs len { s with svc := r }

/-! ### BAR0 of a PF, and BAR4 -/

/-- MB_DOORBELL written: the message of that length in REQUEST is posted (R577, R578). DEDUCED, log entry 107. -/
def mailboxRing (l : Fin 4) (len : Nat) (s : State) : State :=
  if ! barServes s l 0 then s
  else if s.boot.phase != 3 then barUnmapped l 0 0x00410000 true s
  else postMailbox l (if 16 ≤ len ∧ len ≤ 16384 then memRead s.acc.mailbox[l].request 0 len else []) s

/-- MB_ACK written (R577). -/
def mailboxAck (l : Fin 4) (s : State) : State :=
  if ! barServes s l 0 then s
  else if s.boot.phase != 3 then barUnmapped l 0 0x00410008 true s
  else s.updMbox l fun b => { b with ready := false, overrun := false }

/-- What can only be read of BAR0 beside the object view: BOOTSTAT, MB_STAT and REPLY (R515, R577). -/
def readOnly (ofs : Nat) : Bool := ofs == 0x00400004 || ofs == 0x00410004 || (decide (0x00418000 ≤ ofs) && decide (ofs < 0x0041C000))

/-- A write to BAR0 of a PF, by region; what can only be read discards it (R117, R515, R578). DEDUCED, log entry 98. -/
def bar0Write (l : Fin 4) (ofs : Nat) (bytes : List Byte) (s : State) : State :=
  let small := viewAligned ofs bytes.length
  if ! barServes s l 0 || bytes.isEmpty then s
  else if ofs < 0x00400000 then
    if windowOpen s l then s.updBoot fun b => { b with ram := memWrite b.ram ofs (bytes.take (0x00400000 - ofs)) } else barUnmapped l 0 ofs true s
  else if ofs = 0x00400000 ∧ small then
    if windowOpen s l then bootDoorbell s else if s.boot.phase = 3 then s else barUnmapped l 0 ofs true s
  else if s.boot.phase != 3 then barUnmapped l 0 ofs true s
  else if 0x00500000 ≤ ofs ∧ ofs < 0x00600000 then if pstoreHeld s then barHeld l 0 ofs true s else { s with pstore := s.pstore.write (ofs - 0x00500000) (bytes.take (0x00600000 - ofs)) }
  else if ofs = 0x00410000 ∧ small then mailboxRing l (ofLe (bytes.take 4)) s
  else if ofs = 0x00410008 ∧ small then mailboxAck l s
  else if 0x00411000 ≤ ofs ∧ ofs < 0x00415000 ∧ small then
    if s.acc.mailbox[l].busy then s else s.updMbox l fun b => { b with request := memWrite b.request (ofs - 0x00411000) bytes }
  else if readOnly ofs ∧ small then s
  else if (viewPlace s l 0 ofs).isSome then viewArrives l 0 ofs bytes s
  else barUnmapped l 0 ofs true s

/-- A posted write through BAR4 (R514 to R516). -/
def bar4Write (l : Fin 4) (addr : Nat) (bytes : List Byte) (s : State) : State :=
  if ! barServes s l 0 || decide (2 ^ 28 < addr + bytes.length) then s
  else if ! s.clk.good[(2 : Fin 23)] then barHeld l 0 addr true s
  else { s with mapStore := s.mapStore.write addr bytes }

/-- What a read of n bytes through BAR4 returns, and whether its completion carries EP. The read changes no state, and the opcode table has no row
for one (R516). -/
def bar4Read (addr n : Nat) (s : State) : List Byte × Bool := (s.mapStore.read addr n, s.mapStore.poisoned addr n)

/-- BAR_UNMAPPED_ACCESS (R515). -/
def execBarUnmappedAccess (l : Fin 4) (f : Fin 17) (ofs : Nat) (wr : Bool) (s : State) : Host.Outcome State Fault Refusal :=
  .next (if barServes s l f then barUnmapped l f ofs wr s else s)

/-- BAR4_WRITE (R516). -/
def execBar4Write (l : Fin 4) (addr : Nat) (bytes : List Byte) (s : State) : Host.Outcome State Fault Refusal := .next (bar4Write l addr bytes s)

/-- BAR0_WINDOW_WRITE (R515). -/
def execBar0WindowWrite (l : Fin 4) (ofs : Nat) (bytes : List Byte) (s : State) : Host.Outcome State Fault Refusal := .next (bar0Write l ofs bytes s)

/-- VIEW_READ (R575). -/
def execViewRead (l : Fin 4) (f : Fin 17) (ofs len : Nat) (s : State) : Host.Outcome State Fault Refusal := .next (viewReads l f ofs len s)

/-- VIEW_WRITE (R575). -/
def execViewWrite (l : Fin 4) (f : Fin 17) (ofs : Nat) (bytes : List Byte) (s : State) : Host.Outcome State Fault Refusal :=
  .next (viewArrives l f ofs bytes s)

/-- VIEW_READ_TIMEOUT (R572): the read that waited completes with Completer Abort. -/
def execViewReadTimeout (l : Fin 4) (f : Fin 17) (ofs : Nat) (s : State) : Host.Outcome State Fault Refusal :=
  .next (match s.svc.find? (fun r => match r with
      | .viewRead l' f' o _ => l' == l && f' == f && o == ofs
      | _ => false) with
    | some r => if firmwareRuns s then s else { s with svc := s.svc.erase r }.send (.completion l none)
    | none => s)

/-- MB_DOORBELL (R578). -/
def execMbDoorbell (l : Fin 4) (len : Word) (s : State) : Host.Outcome State Fault Refusal := .next (mailboxRing l len.toNat s)

/-- MB_ACK (R577). -/
def execMbAck (l : Fin 4) (s : State) : Host.Outcome State Fault Refusal := .next (mailboxAck l s)

end Sys2Proof.Machine
end

