-- ==== Sys2Proof/Machine/Dispatch.lean ====
section
/-! DEFINITION. One arm for each command, each a direct call of its meaning. -/

namespace Sys2Proof.Machine

open Sys2Proof

/-- What a command does to everything but the queue. -/
def exec (i : Instr) (s : State) : Host.Outcome State Fault Refusal :=
  match i with
  | .powerUp rail mv => Sys2Proof.Machine.execPowerUp rail mv s
  | .por => Sys2Proof.Machine.execPor s
  | .resetNAssert => Sys2Proof.Machine.execResetNAssert s
  | .wresetNAssert => Sys2Proof.Machine.execWresetNAssert s
  | .level0Release straps refclk pcieRef => Sys2Proof.Machine.execLevel0Release straps refclk pcieRef s
  | .refclkLockRetry seen => Sys2Proof.Machine.execRefclkLockRetry seen s
  | .domainLockFail d => Sys2Proof.Machine.execDomainLockFail d s
  | .clockGood d => Sys2Proof.Machine.execClockGood d s
  | .resetReleaseL1 => Sys2Proof.Machine.execResetReleaseL1 s
  | .resetReleaseL2 => Sys2Proof.Machine.execResetReleaseL2 s
  | .resetReleaseL3 b => Sys2Proof.Machine.execResetReleaseL3 b s
  | .softrst w v => Sys2Proof.Machine.execSoftrst w v s
  | .softResetDelayedAssert => Sys2Proof.Machine.execSoftResetDelayedAssert s
  | .rstmapBurn w v => Sys2Proof.Machine.execRstmapBurn w v s
  | .pinmapBurn w v => Sys2Proof.Machine.execPinmapBurn w v s
  | .wdogExpiry pc => Sys2Proof.Machine.execWdogExpiry pc s
  | .wdogRestart => Sys2Proof.Machine.execWdogRestart s
  | .lockstepMismatch => Sys2Proof.Machine.execLockstepMismatch s
  | .clockFailure d => Sys2Proof.Machine.execClockFailure d s
  | .ringClockReturn => Sys2Proof.Machine.execRingClockReturn s
  | .spiImageLoaded bytes => Sys2Proof.Machine.execSpiImageLoaded bytes s
  | .bootDoorbell => Sys2Proof.Machine.execBootDoorbell s
  | .bootVerifyDone => Sys2Proof.Machine.execBootVerifyDone s
  | .netBootRetry => Sys2Proof.Machine.execNetBootRetry s
  | .bootOffer m server len => Sys2Proof.Machine.execBootOffer m server len s
  | .bootData m server ofs bytes => Sys2Proof.Machine.execBootData m server ofs bytes s
  | .bootReadRetry ofs => Sys2Proof.Machine.execBootReadRetry ofs s
  | .ddrTraining reports => Sys2Proof.Machine.execDdrTraining reports s
  | .thermalSample t => Sys2Proof.Machine.execThermalSample t s
  | .sensorRecover j => Sys2Proof.Machine.execSensorRecover j s
  | .thermalRelease => Sys2Proof.Machine.execThermalRelease s
  | .lossOfSignal n => Sys2Proof.Machine.execLossOfSignal n s
  | .signalDetect n => Sys2Proof.Machine.execSignalDetect n s
  | .exitLockFail n => Sys2Proof.Machine.execExitLockFail n s
  | .errorWindow n => Sys2Proof.Machine.execErrorWindow n s
  | .cntctlClear w n v => Sys2Proof.Machine.execCntctlClear w n v s
  | .eyeStart w n v => Sys2Proof.Machine.execEyeStart w n v s
  | .eyeDone n errors => Sys2Proof.Machine.execEyeDone n errors s
  | .laneEnable w n v => Sys2Proof.Machine.execLaneEnable w n v s
  | .laneDisable w n v => Sys2Proof.Machine.execLaneDisable w n v s
  | .codewordReceived n levels => Sys2Proof.Machine.execCodewordReceived n levels s
  | .alignmentCodeword n levels exit => Sys2Proof.Machine.execAlignmentCodeword n levels exit s
  | .trainingFrame n levels spaced wish => Sys2Proof.Machine.execTrainingFrame n levels spaced wish s
  | .signalDetectHeld n => Sys2Proof.Machine.execSignalDetectHeld n s
  | .countdownEnd n => Sys2Proof.Machine.execCountdownEnd n s
  | .trainingTimeout n => Sys2Proof.Machine.execTrainingTimeout n s
  | .backoffEnd n => Sys2Proof.Machine.execBackoffEnd n s
  | .caps n x => Sys2Proof.Machine.execCaps n x s
  | .capsAck n x => Sys2Proof.Machine.execCapsAck n x s
  | .eidleEnter n x => Sys2Proof.Machine.execEidleEnter n x s
  | .retrain n => Sys2Proof.Machine.execRetrain n s
  | .laneFault n x => Sys2Proof.Machine.execLaneFault n x s
  | .replayStart n x => Sys2Proof.Machine.execReplayStart n x s
  | .replayReqResend p => Sys2Proof.Machine.execReplayReqResend p s
  | .replayTimeout p => Sys2Proof.Machine.execReplayTimeout p s
  | .upTimeExpiry p => Sys2Proof.Machine.execUpTimeExpiry p s
  | .eidleMaxExpiry p => Sys2Proof.Machine.execEidleMaxExpiry p s
  | .dsIdleEntry p => Sys2Proof.Machine.execDsIdleEntry p s
  | .portctlWrite w p v => Sys2Proof.Machine.execPortctlWrite w p v s
  | .portRelease w p v => Sys2Proof.Machine.execPortRelease w p v s
  | .startOfFrame p x => Sys2Proof.Machine.execStartOfFrame p x s
  | .dataBlock p x => Sys2Proof.Machine.execDataBlock p x s
  | .endOfFrame p x => Sys2Proof.Machine.execEndOfFrame p x s
  | .headMessage p x => Sys2Proof.Machine.execHeadMessage p x s
  | .commandReply p x => Sys2Proof.Machine.execCommandReply p x s
  | .frameTimeout j => Sys2Proof.Machine.execFrameTimeout j s
  | .cmdRead w j v => Sys2Proof.Machine.execCmdRead w j v s
  | .cmdWrite w j v => Sys2Proof.Machine.execCmdWrite w j v s
  | .cmdPendingWrite w j v => Sys2Proof.Machine.execCmdPendingWrite w j v s
  | .cmdTimeout j => Sys2Proof.Machine.execCmdTimeout j s
  | .sourceWrite w p v => Sys2Proof.Machine.execSourceWrite w p v s
  | .peakRateWrite w j v => Sys2Proof.Machine.execPeakRateWrite w j v s
  | .takeStart w j v => Sys2Proof.Machine.execTakeStart w j v s
  | .takeStop w j v => Sys2Proof.Machine.execTakeStop w j v s
  | .takeAbort w j v => Sys2Proof.Machine.execTakeAbort w j v s
  | .pcamFrameStart n => Sys2Proof.Machine.execPcamFrameStart n s
  | .pcamFrameEnd n => Sys2Proof.Machine.execPcamFrameEnd n s
  | .pclkLost n => Sys2Proof.Machine.execPclkLost n s
  | .linCommit w p v => Sys2Proof.Machine.execLinCommit w p v s
  | .mapSwap w p v => Sys2Proof.Machine.execMapSwap w p v s
  | .mixCommit w p v => Sys2Proof.Machine.execMixCommit w p v s
  | .curveCommit w p v => Sys2Proof.Machine.execCurveCommit w p v s
  | .curveLoad w p v => Sys2Proof.Machine.execCurveLoad w p v s
  | .tallyCommit w p v => Sys2Proof.Machine.execTallyCommit w p v s
  | .reorderReadback p => Sys2Proof.Machine.execReorderReadback p s
  | .streamFill p region word bad => Sys2Proof.Machine.execStreamFill p region word bad s
  | .streamWordTimeout p region word => Sys2Proof.Machine.execStreamWordTimeout p region word s
  | .stage8FrameEnd p => Sys2Proof.Machine.execStage8FrameEnd p s
  | .statRecordCommit p => Sys2Proof.Machine.execStatRecordCommit p s
  | .eventRowOffer p => Sys2Proof.Machine.execEventRowOffer p s
  | .batchTimeout p => Sys2Proof.Machine.execBatchTimeout p s
  | .denseApply p => Sys2Proof.Machine.execDenseApply p s
  | .imageReadoutDone p => Sys2Proof.Machine.execImageReadoutDone p s
  | .specClear w p v => Sys2Proof.Machine.execSpecClear w p v s
  | .encEdge n a b => Sys2Proof.Machine.execEncEdge n a b s
  | .heldHitPublish n => Sys2Proof.Machine.execHeldHitPublish n s
  | .encIndex n level => Sys2Proof.Machine.execEncIndex n level s
  | .analogSample n sn cs => Sys2Proof.Machine.execAnalogSample n sn cs s
  | .encStandstill n => Sys2Proof.Machine.execEncStandstill n s
  | .countLoad w n v => Sys2Proof.Machine.execCountLoad w n v s
  | .encEnable w n v => Sys2Proof.Machine.execEncEnable w n v s
  | .encDisable w n v => Sys2Proof.Machine.execEncDisable w n v s
  | .idxArm w n v => Sys2Proof.Machine.execIdxArm w n v s
  | .cmpArm w n v => Sys2Proof.Machine.execCmpArm w n v s
  | .cmpDisarm w n v => Sys2Proof.Machine.execCmpDisarm w n v s
  | .targetWrite w n v => Sys2Proof.Machine.execTargetWrite w n v s
  | .listWrite w n bytes => Sys2Proof.Machine.execListWrite w n bytes s
  | .lineClockEdge line => Sys2Proof.Machine.execLineClockEdge line s
  | .mainsEdge => Sys2Proof.Machine.execMainsEdge s
  | .mainsLoss => Sys2Proof.Machine.execMainsLoss s
  | .tbctlWrite w v => Sys2Proof.Machine.execTbctlWrite w v s
  | .lateCueFire j => Sys2Proof.Machine.execLateCueFire j s
  | .seqRun w j v => Sys2Proof.Machine.execSeqRun w j v s
  | .seqStop w j v => Sys2Proof.Machine.execSeqStop w j v s
  | .cueWrite w k hi v => Sys2Proof.Machine.execCueWrite w k hi v s
  | .trigPulseStart n => Sys2Proof.Machine.execTrigPulseStart n s
  | .trigPulseEnd n => Sys2Proof.Machine.execTrigPulseEnd n s
  | .histSample => Sys2Proof.Machine.execHistSample s
  | .histDivWrite w v => Sys2Proof.Machine.execHistDivWrite w v s
  | .ptpSecond => Sys2Proof.Machine.execPtpSecond s
  | .ringWord word clap at64 => Sys2Proof.Machine.execRingWord word clap at64 s
  | .ringApply => Sys2Proof.Machine.execRingApply s
  | .ringFrame => Sys2Proof.Machine.execRingFrame s
  | .arrayCal w v => Sys2Proof.Machine.execArrayCal w v s
  | .calMeasureDone => Sys2Proof.Machine.execCalMeasureDone s
  | .calEnd roundTrip => Sys2Proof.Machine.execCalEnd roundTrip s
  | .driftCheck roundTrip => Sys2Proof.Machine.execDriftCheck roundTrip s
  | .routerPublish c => Sys2Proof.Machine.execRouterPublish c s
  | .swPublish w v => Sys2Proof.Machine.execSwPublish w v s
  | .herdEnWrite w v => Sys2Proof.Machine.execHerdEnWrite w v s
  | .seqStartTask j => Sys2Proof.Machine.execSeqStartTask j s
  | .seqStopTask j => Sys2Proof.Machine.execSeqStopTask j s
  | .cmpArmTask n => Sys2Proof.Machine.execCmpArmTask n s
  | .cmpDisarmTask n => Sys2Proof.Machine.execCmpDisarmTask n s
  | .idxArmTask n => Sys2Proof.Machine.execIdxArmTask n s
  | .takeStartTask j => Sys2Proof.Machine.execTakeStartTask j s
  | .takeStopTask j => Sys2Proof.Machine.execTakeStopTask j s
  | .axisStartTask a => Sys2Proof.Machine.execAxisStartTask a s
  | .axisStopTask a => Sys2Proof.Machine.execAxisStopTask a s
  | .axisIstopTask a => Sys2Proof.Machine.execAxisIstopTask a s
  | .dmaWake c => Sys2Proof.Machine.execDmaWake c s
  | .trigPulseTask n => Sys2Proof.Machine.execTrigPulseTask n s
  | .counterIncrement k => Sys2Proof.Machine.execCounterIncrement k s
  | .counterClear k => Sys2Proof.Machine.execCounterClear k s
  | .herdEnable k => Sys2Proof.Machine.execHerdEnable k s
  | .herdDisable k => Sys2Proof.Machine.execHerdDisable k s
  | .producerWrite r => Sys2Proof.Machine.execProducerWrite r s
  | .creditGrant => Sys2Proof.Machine.execCreditGrant s
  | .setMark r => Sys2Proof.Machine.execSetMark r s
  | .rewindToMark r => Sys2Proof.Machine.execRewindToMark r s
  | .packetRewind r => Sys2Proof.Machine.execPacketRewind r s
  | .returnWalk => Sys2Proof.Machine.execReturnWalk s
  | .packetCommit r => Sys2Proof.Machine.execPacketCommit r s
  | .stallAckTimeout r => Sys2Proof.Machine.execStallAckTimeout r s
  | .xoffMinEnd n => Sys2Proof.Machine.execXoffMinEnd n s
  | .xoffEnable w n v => Sys2Proof.Machine.execXoffEnable w n v s
  | .xoffDisable w n v => Sys2Proof.Machine.execXoffDisable w n v s
  | .cellSelect w v => Sys2Proof.Machine.execCellSelect w v s
  | .cellSnapshot w => Sys2Proof.Machine.execCellSnapshot w s
  | .qpop w q v => Sys2Proof.Machine.execQpop w q v s
  | .patrolScrub flaw => Sys2Proof.Machine.execPatrolScrub flaw s
  | .dmaEnd c => Sys2Proof.Machine.execDmaEnd c s
  | .dmaMove c => Sys2Proof.Machine.execDmaMove c s
  | .dmaMovex c => Sys2Proof.Machine.execDmaMovex c s
  | .dmaFill c => Sys2Proof.Machine.execDmaFill c s
  | .dmaCmp c => Sys2Proof.Machine.execDmaCmp c s
  | .dmaLoop c => Sys2Proof.Machine.execDmaLoop c s
  | .dmaJump c => Sys2Proof.Machine.execDmaJump c s
  | .dmaWait c => Sys2Proof.Machine.execDmaWait c s
  | .dmaSignal c => Sys2Proof.Machine.execDmaSignal c s
  | .dmaFence c => Sys2Proof.Machine.execDmaFence c s
  | .dmaIllegalOp c => Sys2Proof.Machine.execDmaIllegalOp c s
  | .waitSatisfied c => Sys2Proof.Machine.execWaitSatisfied c s
  | .waitTimeout c => Sys2Proof.Machine.execWaitTimeout c s
  | .readResponse c id r => Sys2Proof.Machine.execReadResponse c id r s
  | .requestTimeout c id => Sys2Proof.Machine.execRequestTimeout c id s
  | .fetchReturn c words => Sys2Proof.Machine.execFetchReturn c words s
  | .dmaEnable w c v => Sys2Proof.Machine.execDmaEnable w c v s
  | .dmaDisable w c v => Sys2Proof.Machine.execDmaDisable w c v s
  | .dmaDrained c => Sys2Proof.Machine.execDmaDrained c s
  | .dmaAbort w c v => Sys2Proof.Machine.execDmaAbort w c v s
  | .dmaResume w c v => Sys2Proof.Machine.execDmaResume w c v s
  | .dbClear w c v => Sys2Proof.Machine.execDbClear w c v s
  | .doorbellWrite w c v => Sys2Proof.Machine.execDoorbellWrite w c v s
  | .intmaskWrite w c v => Sys2Proof.Machine.execIntmaskWrite w c v s
  | .psDataWrite w bytes => Sys2Proof.Machine.execPsDataWrite w bytes s
  | .perstAssert l => Sys2Proof.Machine.execPerstAssert l s
  | .perstRelease l => Sys2Proof.Machine.execPerstRelease l s
  | .linkUp l speed width flit => Sys2Proof.Machine.execLinkUp l speed width flit s
  | .linkDown l => Sys2Proof.Machine.execLinkDown l s
  | .flr l f => Sys2Proof.Machine.execFlr l f s
  | .vfRemoval l num => Sys2Proof.Machine.execVfRemoval l num s
  | .pairfnWrite w c v => Sys2Proof.Machine.execPairfnWrite w c v s
  | .barUnmappedAccess l f ofs wr => Sys2Proof.Machine.execBarUnmappedAccess l f ofs wr s
  | .bar4Write l addr bytes => Sys2Proof.Machine.execBar4Write l addr bytes s
  | .viewRead l f ofs len => Sys2Proof.Machine.execViewRead l f ofs len s
  | .viewWrite l f ofs bytes => Sys2Proof.Machine.execViewWrite l f ofs bytes s
  | .viewReadTimeout l f ofs => Sys2Proof.Machine.execViewReadTimeout l f ofs s
  | .msixUnmask l f entry => Sys2Proof.Machine.execMsixUnmask l f entry s
  | .ddrRefresh => Sys2Proof.Machine.execDdrRefresh s
  | .ddrScrub c flaw => Sys2Proof.Machine.execDdrScrub c flaw s
  | .caParityError c good => Sys2Proof.Machine.execCaParityError c good s
  | .mapAreaWrite w v => Sys2Proof.Machine.execMapAreaWrite w v s
  | .axisStart w a v => Sys2Proof.Machine.execAxisStart w a v s
  | .axisStop w a v => Sys2Proof.Machine.execAxisStop w a v s
  | .axisIstop w a v => Sys2Proof.Machine.execAxisIstop w a v s
  | .stepPulse a => Sys2Proof.Machine.execStepPulse a s
  | .settleEnd a => Sys2Proof.Machine.execSettleEnd a s
  | .restDelayEnd a => Sys2Proof.Machine.execRestDelayEnd a s
  | .limitInput a rev level => Sys2Proof.Machine.execLimitInput a rev level s
  | .homeInput a level => Sys2Proof.Machine.execHomeInput a level s
  | .tripClear w a v => Sys2Proof.Machine.execTripClear w a v s
  | .posWrite w a v => Sys2Proof.Machine.execPosWrite w a v s
  | .waveTabWrite w a bytes => Sys2Proof.Machine.execWaveTabWrite w a bytes s
  | .chopMaskEnd a ph sense => Sys2Proof.Machine.execChopMaskEnd a ph sense s
  | .chopCeiling a ph => Sys2Proof.Machine.execChopCeiling a ph s
  | .chopDecayEnd a ph => Sys2Proof.Machine.execChopDecayEnd a ph s
  | .ldpOpen src msg => Sys2Proof.Machine.execLdpOpen src msg s
  | .ldpClose src msg => Sys2Proof.Machine.execLdpClose src msg s
  | .ldpKeepalive src msg => Sys2Proof.Machine.execLdpKeepalive src msg s
  | .ldpRead src msg => Sys2Proof.Machine.execLdpRead src msg s
  | .ldpWrite src msg => Sys2Proof.Machine.execLdpWrite src msg s
  | .ldpReadBlob src msg => Sys2Proof.Machine.execLdpReadBlob src msg s
  | .ldpWriteBlob src msg => Sys2Proof.Machine.execLdpWriteBlob src msg s
  | .ldpDescribe src msg => Sys2Proof.Machine.execLdpDescribe src msg s
  | .ldpJnlRead src msg => Sys2Proof.Machine.execLdpJnlRead src msg s
  | .ldpUnknownOp src msg => Sys2Proof.Machine.execLdpUnknownOp src msg s
  | .ldpMalformed src msg => Sys2Proof.Machine.execLdpMalformed src msg s
  | .sessionIdleTimeout id => Sys2Proof.Machine.execSessionIdleTimeout id s
  | .mbDoorbell l len => Sys2Proof.Machine.execMbDoorbell l len s
  | .mbAck l => Sys2Proof.Machine.execMbAck l s
  | .jnlSelWrite w v => Sys2Proof.Machine.execJnlSelWrite w v s
  | .mgtLinkChange m present los up => Sys2Proof.Machine.execMgtLinkChange m present los up s
  | .dhcpTimeout m => Sys2Proof.Machine.execDhcpTimeout m s
  | .ptpMessage m x => Sys2Proof.Machine.execPtpMessage m x s
  | .rootBurn w n bytes => Sys2Proof.Machine.execRootBurn w n bytes s
  | .rootRevoke w v => Sys2Proof.Machine.execRootRevoke w v s
  | .rootPubkeyWrite w n bytes => Sys2Proof.Machine.execRootPubkeyWrite w n bytes s
  | .svnCommit w v => Sys2Proof.Machine.execSvnCommit w v s
  | .updOpen w v => Sys2Proof.Machine.execUpdOpen w v s
  | .updData w bytes => Sys2Proof.Machine.execUpdData w bytes s
  | .updVerify w v => Sys2Proof.Machine.execUpdVerify w v s
  | .updRetire w v => Sys2Proof.Machine.execUpdRetire w v s
  | .updReinstate w v => Sys2Proof.Machine.execUpdReinstate w v s
  | .updVerifyDone => Sys2Proof.Machine.execUpdVerifyDone s
  | .identityKeyReady => Sys2Proof.Machine.execIdentityKeyReady s
  | .attReq w bytes => Sys2Proof.Machine.execAttReq w bytes s
  | .attReportSigned => Sys2Proof.Machine.execAttReportSigned s
  | .dbgToken w bytes => Sys2Proof.Machine.execDbgToken w bytes s
  | .jtagDbgUnlock bytes => Sys2Proof.Machine.execJtagDbgUnlock bytes s
  | .jtagDbgReset => Sys2Proof.Machine.execJtagDbgReset s
  | .jtagDbgStatus => Sys2Proof.Machine.execJtagDbgStatus s
  | .jtagIdcode => Sys2Proof.Machine.execJtagIdcode s
  | .jtagSamplePreload load pins => Sys2Proof.Machine.execJtagSamplePreload load pins s
  | .jtagExtest => Sys2Proof.Machine.execJtagExtest s
  | .jtagClamp => Sys2Proof.Machine.execJtagClamp s
  | .jtagProcDebug code => Sys2Proof.Machine.execJtagProcDebug code s
  | .jtagBypass => Sys2Proof.Machine.execJtagBypass s
  | .faultRecordMove => Sys2Proof.Machine.execFaultRecordMove s
  | .registerWrite w index sub x => Sys2Proof.Machine.execRegisterWrite w index sub x s
  | .pcamSample n lsync dval data => Sys2Proof.Machine.execPcamSample n lsync dval data s
  | .prbsCheckerLock n => Sys2Proof.Machine.execPrbsCheckerLock n s
  | .prbsCheckerLoss n => Sys2Proof.Machine.execPrbsCheckerLoss n s
  | .regularAlignmentSend q => Sys2Proof.Machine.execRegularAlignmentSend q s
  | .ptpTimeAdvance => Sys2Proof.Machine.execPtpTimeAdvance s
  | .mainsPhaseStep => Sys2Proof.Machine.execMainsPhaseStep s
  | .ppsInEdge at64 => Sys2Proof.Machine.execPpsInEdge at64 s
  | .fastDecayEnd a ph => Sys2Proof.Machine.execFastDecayEnd a ph s
  | .configSpaceWrite l f x => Sys2Proof.Machine.execConfigSpaceWrite l f x s
  | .bar0WindowWrite l ofs bytes => Sys2Proof.Machine.execBar0WindowWrite l ofs bytes s
  | .dhcpLease m addr mask gw => Sys2Proof.Machine.execDhcpLease m addr mask gw s
  | .rstoutRelease => Sys2Proof.Machine.execRstoutRelease s

end Sys2Proof.Machine
end

