-- ==== Sys2Proof/Machine/Idle.lean ====
section
/-! DEFINITION. What the device does when no command waits: firmware serves a request, or one core clock passes. -/

namespace Sys2Proof.Machine

open Sys2Proof

/-- The PTP clock advances by one core clock and its slew (R374, R590). -/
def Ptp.tick (p : Ptp) : Ptp :=
  let fr := p.frac + (800000 * (1000000000 + p.slew)).toNat
  if fr < 10 ^ 24 then { p with frac := fr } else { p with sec := p.sec + 1, frac := fr - 10 ^ 24 }

/-- A pipeline counts the core clocks it loses to its streamed regions (R265). DEDUCED, log entry 116. -/
def pipeTick (s : State) (p : Fin 16) (k : Pipe) : Pipe :=
  if streamStarved s p && ! inReset (.pipe p) s then { k with streamStalls := satInc k.streamStalls } else k

/-- A Tally engine counts the core clocks it loses (R323, R328). -/
def tallyTick (s : State) (p : Fin 16) (t : Tally) : Tally :=
  if tallyStalled s p && ! inReset (.pipe p) s then { t with stallClk := satInc t.stallClk } else t

/-- The pipeline takes what 128 bytes of its map-store port allow out of a head input: 16 samples of eight bytes or less (R23, R264). -/
def drainInput : Nat → List (BitVec 16 × Nat × Nat) → List (BitVec 16 × Nat × Nat)
  | _, [] => []
  | n, (f, k, c) :: r => if c ≤ n then drainInput (n - c) r else (f, k, c - n) :: r

/-- A head input in one core clock. -/
def headTick (s : State) (h : Fin 16) (k : Head) : Head :=
  if k.input.isEmpty then k
  else match boundPipe s (headSrc h) with
    | some p => if takesSamples s p then { k with input := drainInput 128 k.input } else k
    | none => { k with input := [] }

/-- MSTEP falls when its high time is over (R538). DESIGN CHOICE, log entry 55. -/
def stepFalls (a : Fin 8) (s : State) : State :=
  match s.axes[a].fallAt with
  | some t => if t ≤ s.coreTime then (s.updAxis a fun x => { x with fallAt := none }).updPins fun p => { p with mstep := p.mstep.set a.1 .low a.2 } else s
  | none => s

/-- The trim code moves by one towards the calibrated code at a codeword boundary (R129). -/
def Quad.tick (now : Nat) (k : Quad) : Quad :=
  if k.trim = k.goal ∨ k.codewords (now + 1) = k.codewords now then k
  else { k with trim := if k.trim < k.goal then k.trim + 1 else k.trim - 1 }

/-- The PTP clock is in reset, or its clock is not good (R87, R107). -/
def ptpHeld (s : State) : Bool := s.rst.level == some 0 || s.rst.level == some 1 || ! s.clk.good[(2 : Fin 23)]

/-- PPS_OUT rises as a second of PTP time begins, but for a master that calibrates (R51, R53, R397). -/
def ppsTick (s : State) : State :=
  let t := s.ptp.tick
  let s' := { s with ptp := t }
  if t.sec ≠ s.ptp.sec ∧ ! calibrating s then ppsRise s'
  else match s.pins.ppsFallAt with
    | some at_ => if at_ ≤ s.coreTime then s'.updPins fun p => { p with pps := .low, ppsFallAt := none } else s'
    | none => s'

/-- One core clock, 0.8 ns (R109, R370). DESIGN CHOICE, log entries 1, 120. -/
def tick (s : State) : State :=
  let s := (if ptpHeld s then s else ppsTick s).each (List.finRange 4) quadSends
  let full := s.heads.toList.any fun k => ! k.input.isEmpty
  let s := { s with
    coreTime := s.coreTime + 1
    quads := mapAll s.quads fun _ => Quad.tick s.coreTime
    heads := mapAll s.heads (headTick s)
    pipes := mapAll s.pipes (pipeTick s)
    tallies := mapAll s.tallies (tallyTick s) }.each (List.finRange 8) stepFalls
  if full then settlePause s else s

/-- No command waits. DESIGN CHOICE, log entry 1. -/
def idle (s : State) : State := if firmwareRuns s && ! s.svc.isEmpty then serve s else tick s

end Sys2Proof.Machine
end

