-- ==== Sys2Proof/Safety.lean ====
section
/-! DEFINITION. What the statements say of a state and a command: which write a register row makes and when it is accepted, which state
it leaves, which task a row performs, what a channel of the DMA engine is about to execute, and how fuses may change. -/

open Sys2Proof Sys2Proof.Machine

namespace Sys2Proof.Safety

/-- What a source adds to RSTCAUSE and to the sources that hold the reset in force. -/
def withSource (src : RstSrc) (s : State) : State :=
  { s with rst := { s.rst with waitRefclk := false, causeSrc := s.rst.causeSrc ||| place 8 src.bit 1
                               held := if s.rst.held.contains src then s.rst.held else s.rst.held ++ [src] } }

/-- The write of v to the object o by who is carried out at once: firmware is free for it, or the path is firmware's own. -/
def servedNow (who : By) (index sub : Nat) (s : State) : Bool :=
  match who.path with
  | .jtag => false
  | .firmware => firmwareRuns s
  | .view l f => barServes s l f && (viewOffset s l f index sub).isSome && decide (s.boot.phase = 3) && ! ((objAt index sub).any fun o => o.held s)
      && (direct who index sub || fwFree s)
  | .ldp _ _ => fwFree s
  | .mailbox _ _ => fwFree s

/-- The state once a journaled write has taken its token of the journal's rate (R595). -/
def spent (o : Obj) (v : Val) (s : State) : State := if journaled o v s then (jnlToken s).2 else s

/-- The write of v to the object o at index.sub meets every check that the manual puts before its effect (R106, R564, R565, R569, R595,
R637). -/
def Accepted (who : By) (index sub : Nat) (o : Obj) (v : Val) (s : State) : Prop :=
  objAt index sub = some o ∧ servedNow who index sub s = true ∧ privRefused who o v s = false ∧ (journaled o v s = true → 12500 ≤ jnlTokens s)
    ∧ ownStatus who o true v (spent o v s) = .ok ∧ (o.desc.acc = .rwp → (rwpToken (spent o v s)).1 = true)

/-- The entry that a journaled write leaves (R594, R596). -/
def noted (who : By) (index sub : Nat) (o : Obj) (v : Val) (j : Bool) (s : State) : State :=
  if j then enter who false index sub o.desc true v .ok s else s

/-- What an accepted write of an object that is neither persistent nor SOFTRST leaves: its effect, its entry, the answer OK. -/
def written (who : By) (index sub : Nat) (o : Obj) (v : Val) (s : State) : State :=
  (noted who index sub o v (journaled o v s) (o.apply v (spent o v s))).answer .ok

/-- The register rows of the opcode table: who writes, which object, and the value with the bit that makes the write this command. -/
def registerRow : Instr → Option (By × Nat × Nat × Val)
  | .softrst w v => some (w, 0x2000, 2, .num v.toNat)
  | .rstmapBurn w v => some (w, 0x2030, 2, .num v.toNat)
  | .pinmapBurn w v => some (w, 0x2040, 2, .num v.toNat)
  | .cntctlClear w n v => some (w, 0x3000 + n.1, 0x11, .num (v ||| 1#32).toNat)
  | .eyeStart w n v => some (w, 0x3000 + n.1, 0x12, .num (v ||| 0x80000000#32).toNat)
  | .laneEnable w n v => some (w, 0x3000 + n.1, 1, .num (v ||| 0x80000000#32).toNat)
  | .laneDisable w n v => some (w, 0x3000 + n.1, 1, .num (v &&& 0x7FFFFFFF#32).toNat)
  | .portctlWrite w p v => some (w, 0x3400 + p.1, 1, .num v.toNat)
  | .portRelease w p v => some (w, 0x3400 + p.1, 1, .num (v &&& 0x7FFFFFFF#32).toNat)
  | .cmdRead w i v => some (w, srcIndex i, 0x18, .num (v &&& 0x9FFFFFFF#32).toNat)
  | .cmdWrite w i v => some (w, srcIndex i, 0x18, .num ((v &&& 0x9FFFFFFF#32) ||| 0x20000000#32).toNat)
  | .cmdPendingWrite w i v => some (w, srcIndex i, 0x18, .num ((v &&& 0x9FFFFFFF#32) ||| 0x40000000#32).toNat)
  | .sourceWrite w p v => some (w, 0x4010 + 0x100 * p.1, 1, .num v.toNat)
  | .peakRateWrite w i v => some (w, srcIndex i, 4, .num v.toNat)
  | .takeStart w i v => some (w, srcIndex i, 7, .num (v ||| 0x80000000#32).toNat)
  | .takeStop w i v => some (w, srcIndex i, 7, .num (v ||| 0x40000000#32).toNat)
  | .takeAbort w i v => some (w, srcIndex i, 7, .num (v ||| 0x20000000#32).toNat)
  | .linCommit w p v => some (w, 0x4011 + 0x100 * p.1, 1, .num (v ||| 0x10000000#32).toNat)
  | .mapSwap w p v => some (w, 0x4014 + 0x100 * p.1, 6, .num (v ||| 0x80000000#32).toNat)
  | .mixCommit w p v => some (w, 0x4015 + 0x100 * p.1, 1, .num (v ||| 0x20000000#32).toNat)
  | .curveCommit w p v => some (w, 0x4016 + 0x100 * p.1, 1, .num (v ||| 0x20000000#32).toNat)
  | .curveLoad w p v => some (w, 0x4016 + 0x100 * p.1, 1, .num v.toNat)
  | .tallyCommit w p v => some (w, 0x5000 + 0x10 * p.1, 1, .num (v ||| 0x80000000#32).toNat)
  | .specClear w p v => some (w, 0x5003 + 0x10 * p.1, 1, .num (v ||| 0x40000000#32).toNat)
  | .countLoad w n v => some (w, 0x7000 + n.1, 3, .num v.toNat)
  | .encEnable w n v => some (w, 0x7000 + n.1, 1, .num (v ||| 0x80000000#32).toNat)
  | .encDisable w n v => some (w, 0x7000 + n.1, 1, .num (v &&& 0x7FFFFFFF#32).toNat)
  | .idxArm w n v => some (w, 0x7000 + n.1, 1, .num (v ||| 0x00080000#32).toNat)
  | .cmpArm w n v => some (w, 0x7000 + n.1, 0x20, .num (v ||| 0x80000000#32).toNat)
  | .cmpDisarm w n v => some (w, 0x7000 + n.1, 0x20, .num (v &&& 0x7FFFFFFF#32).toNat)
  | .targetWrite w n v => some (w, 0x7000 + n.1, 0x21, .num v.toNat)
  | .listWrite w n bs => some (w, 0x7000 + n.1, 0x29, .bytes bs)
  | .tbctlWrite w v => some (w, 0x7200, 1, .num v.toNat)
  | .seqRun w i v => some (w, 0x7130 + i.1, 1, .num (v ||| 0x80000000#32).toNat)
  | .seqStop w i v => some (w, 0x7130 + i.1, 1, .num (v &&& 0x7FFFFFFF#32).toNat)
  | .cueWrite w k hi v => some (w, 0x7110 + k.1 / 128, k.1 % 128 * 2 + (if hi then 1 else 0), .num v.toNat)
  | .histDivWrite w v => some (w, 0x7200, 3, .num v.toNat)
  | .arrayCal w v => some (w, 0x7210, 1, .num (v ||| 0x20000000#32).toNat)
  | .swPublish w v => some (w, 0x7416, 9, .num v.toNat)
  | .herdEnWrite w v => some (w, 0x7418, 1, .num v.toNat)
  | .xoffEnable w n v => some (w, 0x6110, 1 + n.1, .num (v ||| 0x80000000#32).toNat)
  | .xoffDisable w n v => some (w, 0x6110, 1 + n.1, .num (v &&& 0x7FFFFFFF#32).toNat)
  | .cellSelect w v => some (w, 0x6120, 1, .num v.toNat)
  | .qpop w q v => some (w, 0x601E + q.1 / 256, q.1 % 256, .num v.toNat)
  | .dmaEnable w c v => some (w, 0x6400 + c.1 / 256, c.1 % 256, .num (v ||| 0x80000000#32).toNat)
  | .dmaDisable w c v => some (w, 0x6400 + c.1 / 256, c.1 % 256, .num (v &&& 0x7FFFFFFF#32).toNat)
  | .dmaAbort w c v => some (w, 0x6400 + c.1 / 256, c.1 % 256, .num (v ||| 0x40000000#32).toNat)
  | .dmaResume w c v => some (w, 0x6400 + c.1 / 256, c.1 % 256, .num (v ||| 0x20000000#32).toNat)
  | .dbClear w c v => some (w, 0x6400 + c.1 / 256, c.1 % 256, .num (v ||| 0x10000000#32).toNat)
  | .doorbellWrite w c v => some (w, 0x6410 + c.1 / 256, c.1 % 256, .num v.toNat)
  | .intmaskWrite w c v => some (w, 0x6406 + c.1 / 256, c.1 % 256, .num v.toNat)
  | .psDataWrite w bs => some (w, 0x6500, 2, .bytes bs)
  | .pairfnWrite w c v => some (w, 0x6820 + c.1 / 256, c.1 % 256, .num v.toNat)
  | .mapAreaWrite w v => some (w, 0x6810, 3, .num v.toNat)
  | .axisStart w a v => some (w, 0x7800 + a.1, 0xA, .num (v ||| 0x80000000#32).toNat)
  | .axisStop w a v => some (w, 0x7800 + a.1, 0xA, .num (v ||| 0x40000000#32).toNat)
  | .axisIstop w a v => some (w, 0x7800 + a.1, 0xA, .num (v ||| 0x20000000#32).toNat)
  | .tripClear w a v => some (w, 0x7800 + a.1, 2, .num v.toNat)
  | .posWrite w a v => some (w, 0x7800 + a.1, 3, .num v.toNat)
  | .waveTabWrite w a bs => some (w, 0x7800 + a.1, 0x1D, .bytes bs)
  | .jnlSelWrite w v => some (w, 0x8020, 3, .num v.toNat)
  | .rootBurn w n bs => some (w, 0x9001, 1 + n.1, .bytes bs)
  | .rootRevoke w v => some (w, 0x9001, 5, .num v.toNat)
  | .rootPubkeyWrite w n bs => some (w, 0x9002, 1 + n.1, .bytes bs)
  | .svnCommit w v => some (w, 0x9001, 6, .num v.toNat)
  | .updOpen w v => some (w, 0x9004, 1, .num (v ||| 0x80000000#32).toNat)
  | .updData w bs => some (w, 0x9004, 4, .bytes bs)
  | .updVerify w v => some (w, 0x9004, 1, .num (v ||| 0x40000000#32).toNat)
  | .updRetire w v => some (w, 0x9004, 1, .num (v ||| 0x20000000#32).toNat)
  | .updReinstate w v => some (w, 0x9004, 1, .num (v ||| 0x10000000#32).toNat)
  | .attReq w bs => some (w, 0x9006, 1, .bytes bs)
  | .dbgToken w bs => some (w, 0x9007, 2, .bytes bs)
  | .registerWrite w index sub x => some (w, index.toNat, sub.toNat, x)
  | _ => none

/-- The rows that perform a task's action: the task and its action, none where the action refuses (R406, R411 to R413, R419). -/
def taskRow : Instr → Option (Task × (State → Option State))
  | .counterIncrement k => some (.cntInc k, fun s => if bitAt s.router.units[k].cfg 31 then some (addCount k 1 s.coreTime s) else none)
  | .counterClear k => some (.cntClear k, fun s => if bitAt s.router.units[k].cfg 31 then some (s.updCunit k fun u => { u with cnt := 0 }) else none)
  | .herdEnable k => some (.herdEnable k, fun s => some (s.updRouter fun r => { r with herdEn := r.herdEn ||| (1#16 <<< k.1) }))
  | .herdDisable k => some (.herdDisable k, fun s => some (s.updRouter fun r => { r with herdEn := r.herdEn &&& ~~~ (1#16 <<< k.1) }))
  | .seqStartTask i => some (.seqStart i, fun s => if bitAt s.tb.seqs[i].ctl 29 ∧ seqRefused s i = .ok ∧ ¬ inReset .cue s then some (startSeq i s) else none)
  | .seqStopTask i => some (.seqStop i, fun s => if bitAt s.tb.seqs[i].ctl 29 ∧ ¬ inReset .cue s then some (stopSeq i s) else none)
  | .trigPulseTask n => some (.trigPulse n, fun s => if bitAt s.tb.trigs[n].cfgNow 31 ∧ ¬ inReset .cue s then some (firePin n 0xFFFFFFFF s).2 else none)
  | .cmpArmTask n => some (.cmpArm n, fun s => if armRefused s.encs[n] s.encs[n].cmp.ctl = .ok ∧ ¬ inReset (.enc n) s then some (cmpArm n s) else none)
  | .cmpDisarmTask n => some (.cmpDisarm n, fun s => if inReset (.enc n) s then none else some (s.updEnc n fun e => { e with cmp := { e.cmp with arm := false } }))
  | .idxArmTask n => some (.idxArm n, fun s => if inReset (.enc n) s then none else some (s.updEnc n fun e => { e with idxArm := true }))
  | .takeStartTask i => some (.takeStart i, fun s => if startRefused s i = .ok ∧ ¬ inReset (srcBlk i) s then some (startTake i s) else none)
  | .takeStopTask i => some (.takeStop i, fun s => if inReset (srcBlk i) s then none else some (settlePause (stopTake i s)))
  | .axisStartTask a => some (.axisStart a, fun s => if inReset (.axis a) s ∨ moveRefused s.axes[a] ≠ .ok then none else some (axisStart a s))
  | .axisStopTask a => some (.axisStop a, fun s => if inReset (.axis a) s then none else some (axisStop a s))
  | .axisIstopTask a => some (.axisIstop a, fun s => if inReset (.axis a) s then none else some (axisIstop a s))
  | .dmaWake c => some (.dmaWake c, fun s => if inReset (.dma c) s ∨ s.dma[c].state = .off then none else some (s.updDma c fun d => { d with woken := true }))
  | _ => none

/-- No channel but c has a step in flight, and c's own are those given. -/
def onlyFlights (c : Fin 512) (fs : List Flight) (s : State) : Prop := s.dma[c].flights = fs ∧ ∀ k : Fin 512, k ≠ c → s.dma[k].flights = []

/-- Channel c runs a program in PSTORE, its next word is w and its second x, it has nothing outstanding, and the word may execute. -/
def executes (c : Fin 512) (opc : Nat) (w x : BitVec 64) (s : State) : Prop :=
  dmaReady c s = some w ∧ fld w 63 60 = opc ∧ s.dma[c].hostProgram = false ∧ s.dma[c].fence = none ∧ s.dma[c].count < s.dma[c].budget.toNat
    ∧ (programWord c 1 s = some x ∨ (wordCount opc = 1 ∧ x = (programWord c 1 s).getD 0)) ∧ illegalWords ((pairOwner s c).2 != 0) w x = false

/-- Channel c after it has fetched an instruction of n words. -/
def fetched (d : Dma) (n : Nat) : Dma :=
  { d with count := d.count + 1, steps := satInc d.steps, pc := d.pc + BitVec.ofNat 32 n, prefetch := d.prefetch.drop n }

/-- No channel of the device has a step in flight or a fetch outstanding. -/
def noRequests (s : State) : Prop := ∀ c : Fin 512, s.dma[c].flights = [] ∧ s.dma[c].fetchOut = false

/-- The rows that carry a request, with the condition its bytes must meet. -/
def ldpRequest : Instr → Option (LdpFrom × List Byte × Bool)
  | .ldpOpen src m => some (src, m, ! malformed m && msgOp m == 0x01)
  | .ldpClose src m => some (src, m, ! malformed m && msgOp m == 0x02)
  | .ldpKeepalive src m => some (src, m, ! malformed m && msgOp m == 0x03)
  | .ldpRead src m => some (src, m, ! malformed m && msgOp m == 0x10)
  | .ldpWrite src m => some (src, m, ! malformed m && msgOp m == 0x11)
  | .ldpReadBlob src m => some (src, m, ! malformed m && msgOp m == 0x12)
  | .ldpWriteBlob src m => some (src, m, ! malformed m && msgOp m == 0x13)
  | .ldpDescribe src m => some (src, m, ! malformed m && msgOp m == 0x14)
  | .ldpJnlRead src m => some (src, m, ! malformed m && msgOp m == 0x20)
  | .ldpUnknownOp src m => some (src, m, ! malformed m && ! listedOps.contains (msgOp m))
  | _ => none

/-- Fuses only burn: no bit of the pin map's or the reset map's copies clears, a programmed or revoked root slot stays so with its hash, and
the security version does not fall (R62, R100, R602, R613). -/
def burnsTo (a b : Fuses) : Prop :=
  a.pinA &&& b.pinA = a.pinA ∧ a.pinB &&& b.pinB = a.pinB ∧ a.rstA &&& b.rstA = a.rstA ∧ a.rstB &&& b.rstB = a.rstB ∧ a.svn ≤ b.svn
  ∧ ∀ n : Fin 4, (a.rootA[n].programmed = true → b.rootA[n].programmed = true ∧ b.rootA[n].hash = a.rootA[n].hash)
      ∧ (a.rootA[n].revoked = true → b.rootA[n].revoked = true) ∧ (a.rootB[n].programmed = true → b.rootB[n].programmed = true)
      ∧ (a.rootB[n].revoked = true → b.rootB[n].revoked = true)

end Sys2Proof.Safety
end

