-- ==== Sys2Proof/Certificates/Slice0/Obligations.lean ====
section
/-! DEFINITION. The statements for the provers: what each family of commands does to the device, by the manual's rules. -/

open Sys2Proof Sys2Proof.Machine Sys2Proof.Safety

/-- A step takes the command at the front and runs it with the queue's rest. -/
def Obligations.StepRunsTheFrontCommand : Prop :=
  ∀ (c : Instr) (rest : List Instr) (s : State), s.pending = c :: rest → step s = exec c { s with pending := rest }

/-- On an empty queue firmware serves the oldest request that waits, or one core clock passes (the model's choice, log entry 1): a clock in which no
quadrant begins a codeword and no head input holds samples moves the times and changes no queue, fuse or MRAM. -/
def Obligations.EmptyQueuePassesOneClock : Prop :=
  ∀ s : State, s.pending = [] →
    (s.svc = [] ∨ firmwareRuns s = false → (∀ q : Fin 4, s.quads[q].codewords (s.coreTime + 1) = s.quads[q].codewords s.coreTime) →
      (∀ h : Fin 16, s.heads[h].input = []) →
      ∃ t, step s = .next t ∧ t.coreTime = s.coreTime + 1 ∧ t.ptp = (if ptpHeld s then s.ptp else s.ptp.tick) ∧ t.pending = [] ∧ t.svc = s.svc
        ∧ t.qm = s.qm ∧ t.fuses = s.fuses ∧ t.mram = s.mram ∧ t.lanes = s.lanes ∧ t.srcs = s.srcs ∧ t.dma = s.dma ∧ t.tx = s.tx)
    ∧ (firmwareRuns s = true → s.svc ≠ [] → step s = .next (serve s))

/-- The device right after power-on: POR holds it in a level-0 reset, nothing runs, every log, store and queue is empty, the outputs stand in their
cold states and the fuses are as shipped. -/
def Obligations.ResetLeavesTheColdDevice : Prop :=
  State.reset.rst.level = some 0 ∧ State.reset.rst.held = [.por] ∧ State.reset.rst.causeSrc = 1 ∧ State.reset.rst.rstmap = 0x00000506#32
  ∧ State.reset.fuses.rstA = 0x00000506#32 ∧ State.reset.fuses.rstB = 0x00000506#32 ∧ State.reset.fuses.pinA = 0 ∧ State.reset.fuses.pinB = 0
  ∧ State.reset.clk.good = Vector.replicate 23 false ∧ State.reset.boot.phase = 0 ∧ State.reset.pending = [] ∧ State.reset.faults.log = []
  ∧ State.reset.vio.log = [] ∧ State.reset.pins.rstoutN = .low ∧ State.reset.pins.thermtripN = .hiZ ∧ firmwareRuns State.reset = false
  ∧ (∀ q : Fin 512, State.reset.qm.queues[q].packets = [] ∧ State.reset.qm.queues[q].openPkt = none)
  ∧ (∀ c : Fin 512, State.reset.dma[c].state = .off) ∧ (∀ a : Fin 8, State.reset.axes[a].posValid = false)

/-- POR takes the device to a level-0 reset, clears RSTCAUSE but for its own bit, bars new MRAM writes and touches no fuse. A rail that reaches its
least voltage is recorded as good; a watched rail asserts POR as it rises or falls; the 1.8 V banks keep their pre-fuse states until the three rails
that the fuses need are good, and drive nothing once their own supply is gone. -/
def Obligations.PowerOnAndRails : Prop :=
  (∀ s : State, ∃ t, exec .por s = .next t
        ∧ t.rst.level = some 0 ∧ t.rst.causeLevel = 0 ∧ t.rst.causeSrc = 1 ∧ t.rst.causeDom = 0 ∧ t.rst.causeBlock = 0
        ∧ t.mram = { s.mram with writesBarred := true } ∧ t.fuses = s.fuses
        ∧ (s.rst.level ≠ some 0 →
            t.faults = {} ∧ t.vio = {} ∧ t.pstore = {} ∧ t.mapStore = {} ∧ t.ports = Vector.replicate 16 {} ∧ t.heads = Vector.replicate 16 {}
              ∧ t.boot = {} ∧ t.tb = {} ∧ t.qm = {}))
  ∧ (∀ (rail : Rail) (mv : Nat) (s : State), rail.least ≤ 10 * mv → ∃ t, exec (.powerUp rail mv) s = .next t
        ∧ rail ∈ t.pins.railsGood ∧ t.fuses = s.fuses ∧ t.mram.records = s.mram.records ∧ t.mram.journal = s.mram.journal
        ∧ (rail.watched = true → t.rst.level = some 0)
        ∧ (rail = .vddIo18 → .vddCore ∉ s.pins.railsGood →
            t.pins.phase18 = .preFuse ∧ t.pins.trig = Vector.replicate 32 .weakLow ∧ t.pins.pps = .weakLow ∧ t.pins.rstoutN = .low)
        ∧ (rail = .vppFuse → t.pins.vppMv = mv))
  ∧ (∀ (rail : Rail) (mv : Nat) (s : State), 10 * mv < rail.least → s.pins.railsGood = Rail.all → ∃ t, exec (.powerUp rail mv) s = .next t
        ∧ rail ∉ t.pins.railsGood ∧ t.fuses = s.fuses ∧ t.mram.records = s.mram.records ∧ t.mram.journal = s.mram.journal
        ∧ (rail.watched = true → t.rst.level = some 0 ∧ t.mram.writesBarred = true) ∧ (rail.watched = false → t.rst = s.rst)
        ∧ (rail = .vddIo18 → t.pins.phase18 = .unpowered ∧ t.pins.rstoutN = .hiZ ∧ t.pins.trig = Vector.replicate 32 .hiZ))

/-- RESET_N and WRESET_N: a source mapped to a level no deeper than the reset in force is only recorded; one mapped to level 0 starts a level-0 reset,
which keeps MRAM and fuses. An accepted SOFT request that waited asserts its level; the watchdog asserts WDOG at its mapped level. The watchdog's
restart, the mismatch of the two processors with its captured program counter (a free value), and the release of RSTOUT_N, each with its whole frame.
-/
def Obligations.ResetSourcesActAtTheirLevel : Prop :=
  (∀ s : State,
        (∀ cur, s.rst.level = some cur →
          (cur ≤ wholeLevel s 12 → exec .resetNAssert s = .next (withSource .resetN s))
          ∧ (cur ≤ wholeLevel s 10 → exec .wresetNAssert s = .next (withSource .wresetN s)))
        ∧ (s.rst.level = none → wholeLevel s 12 = 0 → ∃ t, exec .resetNAssert s = .next t ∧ t.rst.level = some 0 ∧ t.rst.held = [.resetN]
            ∧ t.rst.causeSrc = place 8 1 1 ∧ t.rst.causeLevel = 0 ∧ t.mram = s.mram ∧ t.fuses = s.fuses ∧ t.pstore = {}
            ∧ (Rail.vddIo18 ∈ s.pins.railsGood → t.pins.rstoutN = .low))
        ∧ (s.rst.level = none → wholeLevel s 10 = 0 → ∃ t, exec .wresetNAssert s = .next t ∧ t.rst.level = some 0 ∧ t.rst.held = [.wresetN]
            ∧ t.rst.causeSrc = place 8 2 1 ∧ t.rst.causeLevel = 0 ∧ t.mram = s.mram ∧ t.fuses = s.fuses))
  ∧ (∀ s : State,
        (∀ v rest, s.rst.delayed = v :: rest → s.rst.level = none → fld v 23 22 = 0 →
          ∃ t, exec .softResetDelayedAssert s = .next t ∧ t.rst.level = some 0 ∧ t.rst.held = [.soft] ∧ t.rst.causeSrc = place 8 4 1
            ∧ t.mram = s.mram ∧ t.fuses = s.fuses)
        ∧ (s.rst.delayed = [] → exec .softResetDelayedAssert s = .next s)
        ∧ (∀ pc, s.wdog.running.isSome = true → s.rst.level = none → mappedLevel s 8 = 0 →
          ∃ t, exec (.wdogExpiry pc) s = .next t ∧ t.rst.level = some 0 ∧ t.rst.held = [.wdog] ∧ t.rst.causeSrc = place 8 3 1
            ∧ t.mram = s.mram ∧ t.fuses = s.fuses ∧ t.wdog.running = none)
        ∧ (∀ pc, s.wdog.running = none → exec (.wdogExpiry pc) s = .next s))
  ∧ (∀ s : State,
        (firmwareRuns s = true → exec .wdogRestart s = .next { s with wdog := { s.wdog with running := some s.wdog.tmo } })
        ∧ (firmwareRuns s = false → exec .wdogRestart s = .next s)
        ∧ (inReset .control s = true ∨ s.boot.halted = true → exec .lockstepMismatch s = .next s)
        ∧ (inReset .control s = false → s.boot.halted = false → ∃ pc : Nat, ∃ r : FaultRec,
            exec .lockstepMismatch s = .next
              { s with draw := s.draw + 1, wdog := { s.wdog with lastPc := BitVec.ofNat 64 pc }, boot := { s.boot with halted := true, lockstep := true }
                       faults := { s.faults with captured := s.faults.captured ++ [r] } }
            ∧ r.code = 0x0302#16 ∧ r.sev = 2#8 ∧ r.cls = 0x0D#8 ∧ r.detail = BitVec.ofNat 32 pc)
        ∧ (s.rst.rstoutPending = true →
            exec .rstoutRelease s = .next { s with rst := { s.rst with rstoutPending := false }, pins := { s.pins with rstoutN := .hiZ } })
        ∧ (s.rst.rstoutPending = false → exec .rstoutRelease s = .next s))

/-- The level-0 release: TST other than zero keeps the device in reset; without REFCLK the release waits; with it the reset ends and RSTOUT_N follows.
The release that waits for REFCLK: it goes on when REFCLK is there, with the PCIe reference found then, and waits on when it is not. A release while a
watched rail is not good changes nothing. -/
def Obligations.LevelZeroReleaseSteps : Prop :=
  (∀ (st : Straps) (ref pcie : Bool) (s : State), s.rst.level = some 0 → stillHeld s = false → railsUp s = true →
        (st.tst ≠ 0 → ∃ t, exec (.level0Release st ref pcie) s = .next t ∧ t.rst.level = some 0 ∧ t.clk = s.clk ∧ t.boot = s.boot
          ∧ t.pins.boot = st.boot ∧ t.pins.clkm = st.clkm ∧ t.pins.rstoutN = s.pins.rstoutN)
        ∧ (st.tst = 0 → ref = false → ∃ t, exec (.level0Release st ref pcie) s = .next t ∧ t.rst.level = some 0 ∧ t.rst.waitRefclk = true
            ∧ t.boot.source = st.boot ∧ t.rst.rstmap = agreed rstFields s.fuses.rstA s.fuses.rstB
            ∧ t.pins.pinmap = agreed pinFields s.fuses.pinA s.fuses.pinB ∧ t.fuses = s.fuses)
        ∧ (st.tst = 0 → ref = true → ∃ t, exec (.level0Release st ref pcie) s = .next t ∧ t.rst.level = none ∧ t.rst.held = []
            ∧ t.rst.rstoutPending = true ∧ t.rst.waitRefclk = false))
  ∧ (∀ s : State, s.rst.waitRefclk = true →
        exec (.refclkLockRetry none) s = .next s
        ∧ ∀ pcie, ∃ t, exec (.refclkLockRetry (some pcie)) s = .next t ∧ t.rst.level = none ∧ t.rst.rstoutPending = true ∧ t.rst.waitRefclk = false
            ∧ t.rst.isolated = []
            ∧ (s.mram.records = [] → t.clk.pcieRefsrc = (if s.pins.clkm = 0 then false else if s.pins.clkm = 1 then true else pcie)))
  ∧ (∀ (st : Straps) (ref pcie : Bool) (s : State), s.rst.level ≠ some 0 ∨ stillHeld s = true ∨ railsUp s = false →
        exec (.level0Release st ref pcie) s = .next s)

/-- The releases of levels 1 to 3, once no source that lasts holds the reset: the reset ends and nothing stays isolated; levels 2 and 3 leave the
clocks and the fuses as they are and count one reset. Of a level-1 release RSTOUT_N is due. While a thermal trip or a lost clock holds the reset,
nothing happens. -/
def Obligations.ReleasesEndTheirReset : Prop :=
  ∀ s : State,
    (stillHeld s = false →
      (s.rst.level = some 1 → ∃ t, exec .resetReleaseL1 s = .next t ∧ t.rst.level = none ∧ t.rst.held = [] ∧ t.rst.rstoutPending = true
        ∧ t.rst.isolated = [] ∧ t.fuses = s.fuses)
      ∧ (s.rst.level = some 2 → inReset .control s = false → ∃ t, exec .resetReleaseL2 s = .next t ∧ t.rst.level = none ∧ t.rst.held = []
        ∧ t.rst.isolated = [] ∧ t.rst.count[(2 : Fin 4)] = satInc s.rst.count[(2 : Fin 4)] ∧ t.clk = s.clk ∧ t.fuses = s.fuses)
      ∧ (∀ b, s.rst.level = some 3 → s.rst.block = some b → s.rst.isolated = [] → b ≠ .control →
        ∃ t, exec (.resetReleaseL3 b) s = .next t ∧ t.rst.level = none ∧ t.rst.block = none ∧ t.rst.held = []
          ∧ t.rst.count[(3 : Fin 4)] = satInc s.rst.count[(3 : Fin 4)] ∧ t.clk = s.clk ∧ t.fuses = s.fuses)
      ∧ (s.rst.level = some 3 → s.rst.block = some .control → s.rst.isolated = [] → s.boot.hostDue = false →
        ∃ t, exec (.resetReleaseL3 .control) s = .next t ∧ t.rst.level = none ∧ t.rst.block = none
          ∧ t.rst.count[(3 : Fin 4)] = satInc s.rst.count[(3 : Fin 4)] ∧ t.clk = s.clk ∧ t.fuses = s.fuses))
    ∧ (stillHeld s = true → exec .resetReleaseL1 s = .next s ∧ exec .resetReleaseL2 s = .next s)

/-- A DDR5 domain that becomes good is marked so and no other; a domain that failed to lock is reported absent; the loss of REFCLK is a level-0 reset
with every clock gone. -/
def Obligations.ClockDomains : Prop :=
  ∀ (d : Fin 23) (s : State),
    (8 ≤ d.1 → d.1 < 20 → s.rst.level ≠ some 0 → s.clk.good[d] = false → ∃ t, exec (.clockGood d) s = .next t
      ∧ t.clk = { s.clk with good := s.clk.good.set d.1 true d.2, absent := s.clk.absent.set d.1 false d.2 })
    ∧ (2 ≤ d.1 → d.1 ≠ 22 → s.rst.level ≠ some 0 → s.clk.good[d] = false → ∃ t, exec (.domainLockFail d) s = .next t
      ∧ t.clk = { s.clk with absent := s.clk.absent.set d.1 true d.2 } ∧ t.rst = s.rst)
    ∧ (s.clk.good[(0 : Fin 23)] = true → s.rst.level = none → ∃ t, exec (.clockFailure 0) s = .next t ∧ t.rst.level = some 0
        ∧ t.clk.good = Vector.replicate 23 false ∧ t.rst.held = [.clockLoss] ∧ t.fuses = s.fuses)
    ∧ (s.clk.good[d] = false → exec (.clockFailure d) s = .next s)
    ∧ (s.pins.clkm = 3 → s.rst.level ≠ some 0 → s.clk.ringLost = true → s.clk.good[(2 : Fin 23)] = true →
        exec .ringClockReturn s = .next { s with clk := { s.clk with
          good := s.clk.good.set 22 true, ringLost := false, ringSrc := true, ringswitch := satInc s.clk.ringswitch } })
    ∧ (s.clk.ringLost = false → exec .ringClockReturn s = .next s)

/-- A sample in which no sensor fails and none reaches the trip: TJ_HOT is the hottest working sensor, and the warning follows it. A working sensor at
160 degrees or more trips: THERMTRIP_N falls, TRIP_COUNT counts, THERMAL resets at level 0 as the device is shipped. A failed sensor that reads well
again is used again, and the thermal reset's source ends with THERMTRIP_N once every working sensor reads below 140 degrees. -/
def Obligations.ThermalSensorsAndTrip : Prop :=
  (∀ (v : Vector (BitVec 24) 16) (s u : State), u = { s with thermal := { s.thermal with sens := v } } → s.rst.level = none →
        8 ≤ (working u).length → (∀ i ∈ working u, sensorBad u i = false ∧ tempOf v[i] < 2560) →
        ∃ t i, exec (.thermalSample v) s = .next t ∧ hottest u = some i ∧ t.thermal.sens = v ∧ t.thermal.hot = v[i] ∧ t.thermal.hotIdx = i
          ∧ t.thermal.failed = s.thermal.failed ∧ (tempOf s.thermal.warnAt ≤ tempOf v[i] → t.thermal.warn = true)
          ∧ (tempOf v[i] < tempOf s.thermal.warnAt - 80 → t.thermal.warn = false) ∧ t.rst = s.rst ∧ t.fuses = s.fuses)
  ∧ (∀ (v : Vector (BitVec 24) 16) (s u : State), u = { s with thermal := { s.thermal with sens := v } } → s.rst.level = none → wholeLevel s 4 = 0 →
        s.pins.thermtripN = .hiZ → s.rst.held = [] → s.mram.writesBarred = false → 8 ≤ (working u).length → (∀ i ∈ working u, sensorBad u i = false) →
        (∃ i ∈ working u, 2560 ≤ tempOf v[i]) →
        ∃ t, exec (.thermalSample v) s = .next t ∧ t.pins.thermtripN = .low ∧ t.rst.level = some 0 ∧ t.rst.held = [.thermal]
          ∧ t.thermal.tripCount = satInc s.thermal.tripCount ∧ t.faults = {})
  ∧ (∀ (i : Fin 16) (s : State),
        (s.thermal.failed[i] = true → sensorBad s i = false → ∃ t, exec (.sensorRecover i) s = .next t
          ∧ t.thermal.failed = s.thermal.failed.set i.1 false i.2 ∧ t.thermal.sens = s.thermal.sens ∧ t.rst = s.rst)
        ∧ (s.thermal.failed[i] = false → exec (.sensorRecover i) s = .next s)
        ∧ (s.rst.held.contains .thermal = true → 8 ≤ (working s).length → (∀ k ∈ working s, tempOf s.thermal.sens[k] < 2240) →
            exec .thermalRelease s = .next { s with rst := { s.rst with held := s.rst.held.erase .thermal }, pins := { s.pins with thermtripN := .hiZ } }))

/-- While the ROM runs, the doorbell starts the verification of boot RAM if the window is open, and only then; a verified image runs with its
measurement kept, and a failed slot A is followed by slot B. -/
def Obligations.BootVerification : Prop :=
  ∀ s : State, s.boot.hostDue = false → romRuns s = true →
    (s.boot.window = true → exec .bootDoorbell s = .next { s with boot := { s.boot with
        window := false, attempts := satInc s.boot.attempts, verifying := true, fromRam := true, phase := if s.boot.phase = 4 then 4 else 2 } })
    ∧ (s.boot.window = false → exec .bootDoorbell s = .next s)
    ∧ (s.boot.verifying = true → s.boot.fromRam = true → verifyFail s s.boot.ram = 0 → ∃ t, exec .bootVerifyDone s = .next t
        ∧ t.boot.phase = 3 ∧ t.boot.meas = measurement s.boot.ram ∧ t.boot.retained = true ∧ t.boot.window = false ∧ t.wdog.running = some s.wdog.tmo
        ∧ t.fuses = s.fuses)
    ∧ (s.boot.verifying = true → s.boot.fromRam = false → s.boot.trySlot = 0 → s.boot.phase ≠ 4 → s.boot.source = 0 → slotFail s 0 ≠ 0 →
        ∃ t, exec .bootVerifyDone s = .next t ∧ t.boot.verifying = true ∧ t.boot.trySlot = 1 ∧ t.boot.phase = 2
          ∧ t.boot.fail = BitVec.ofNat 8 (slotFail s 0) ∧ t.boot.attempts = satInc s.boot.attempts ∧ t.mram = s.mram)
    ∧ (s.boot.verifying = false → exec .bootVerifyDone s = .next s)

/-- An SPI read: a header that passes checks 2 to 4 is followed by the image, whose verification then starts; a short read is a failed attempt. The
network boot: an offer is taken, data fill boot RAM and the last block starts the verification, an unanswered read is repeated and the eighth failure
gives the server up, and an unanswered request doubles its interval up to 64 s. -/
def Obligations.BootSources : Prop :=
  (∀ (bytes : List Byte) (s : State), s.boot.hostDue = false → romRuns s = true →
        (s.boot.spiWait = .header → 4096 ≤ bytes.length →
          ¬ (2 ≤ verifyFail (s.updBoot fun b => { b with ram := memWrite b.ram 0 (bytes.take 4194304) }) (memWrite s.boot.ram 0 (bytes.take 4194304)) ∧
             verifyFail (s.updBoot fun b => { b with ram := memWrite b.ram 0 (bytes.take 4194304) }) (memWrite s.boot.ram 0 (bytes.take 4194304)) ≤ 4) →
          exec (.spiImageLoaded bytes) s = .next { s with boot := { s.boot with ram := memWrite s.boot.ram 0 (bytes.take 4194304), spiWait := .image } })
        ∧ (s.boot.spiWait = .image → 4096 + bodyLen s.boot.ram ≤ bytes.length → ∃ t, exec (.spiImageLoaded bytes) s = .next t
            ∧ t.boot.verifying = true ∧ t.boot.fromRam = true ∧ t.boot.spiWait = .none ∧ t.boot.ram = memWrite s.boot.ram 0 (bytes.take 4194304))
        ∧ (s.boot.spiWait = .header → bytes.length < 4096 → s.boot.spiTries < 2 → ∃ t, exec (.spiImageLoaded bytes) s = .next t
            ∧ t.boot.fail = 0x10#8 ∧ t.boot.spiTries = s.boot.spiTries + 1 ∧ t.boot.spiWait = .header ∧ t.boot.phase = 1)
        ∧ (s.boot.spiWait = .none → exec (.spiImageLoaded bytes) s = .next s))
  ∧ (∀ (m : Fin 2) (server len ofs : Nat) (bytes : List Byte) (s : State), netBooting s = true → s.boot.verifying = false →
        (s.boot.net.server = none → s.boot.net.requested = true → inReset (.mgt m) s = false → 1 ≤ len → len ≤ 4194304 → ∃ t, exec (.bootOffer m server len) s = .next t
          ∧ t.boot.net.server = some (server, m, len) ∧ t.boot.net.got = 0 ∧ t.boot.ram = s.boot.ram ∧ t.fuses = s.fuses)
        ∧ (∀ total r, s.boot.net.server = some (server, m, total) →
            s.boot.net.outstanding.find? (fun r => r.1 == ofs && r.2.1 == bytes.length) = some r → s.boot.net.got + bytes.length = total →
            ∃ t, exec (.bootData m server ofs bytes) s = .next t ∧ t.boot.ram = memWrite s.boot.ram ofs bytes ∧ t.boot.verifying = true
              ∧ t.boot.fromRam = true ∧ t.boot.net.outstanding = [] ∧ t.boot.window = false)
        ∧ (∀ r, s.boot.net.outstanding.find? (fun r => r.1 == ofs) = some r → 8 ≤ r.2.2 → ∃ t, exec (.bootReadRetry ofs) s = .next t
            ∧ t.boot.net.server = none ∧ t.boot.net.outstanding = [] ∧ t.boot.fail = 0x10#8 ∧ t.tx = s.tx)
        ∧ (∀ r addr total, s.boot.net.server = some (addr, m, total) → s.boot.net.outstanding.find? (fun r => r.1 == ofs) = some r → r.2.2 < 8 →
            ∃ t bs, exec (.bootReadRetry ofs) s = .next t ∧ t.tx = s.tx ++ [.datagram m none (addr * 65536 + 5240) bs] ∧ t.boot.ram = s.boot.ram)
        ∧ (s.boot.net.server = none → ∃ t, exec .netBootRetry s = .next t ∧ t.boot.net.interval = min 64 (2 * s.boot.net.interval)
            ∧ t.boot.fail = 0x10#8 ∧ t.boot.ram = s.boot.ram))

/-- The management link is up exactly while the port is enabled, its module present and LOS low. A lease gives the port its address; without one the
port takes a link-local address of 169.254.1.0 to 169.254.254.255. PTP: a port's state is taken by the engine, but for a master state of a SLAVE_ONLY
clock; the first times of an exchange are held, and the last ones end it. -/
def Obligations.ManagementPortsAndPtp : Prop :=
  (∀ (m : Fin 2) (present los up : Bool) (s : State), inReset (.mgt m) s = false →
        ∃ t, exec (.mgtLinkChange m present los up) s = .next t
          ∧ t.mgt[m].link = (up && present && ! los && bitAt s.mgt[m].ctl 31) ∧ t.mgt[m].present = present ∧ t.mgt[m].los = los
          ∧ t.mgt[m].ctl = s.mgt[m].ctl ∧ (t.mgt[m].link = false → t.mgt[m].addrNow = 0) ∧ (∀ k, k ≠ m → t.mgt[k] = s.mgt[k])
          ∧ t.fuses = s.fuses ∧ t.mram = s.mram)
  ∧ (∀ (m : Fin 2) (addr mask gw : Word) (s : State), firmwareRuns s = true → s.mgt[m].dhcpWait = true →
        (s.mgt[m].link = true → inReset (.mgt m) s = false → bitAt s.mgt[m].ctl 30 = true →
          exec (.dhcpLease m addr mask gw) s = .next (s.updMgt m fun g => { g with addrNow := addr, linkLocal := false, dhcpWait := false }))
        ∧ ∃ t, exec (.dhcpTimeout m) s = .next t ∧ t.mgt[m].linkLocal = true ∧ t.mgt[m].dhcpWait = false
            ∧ 0xA9FE0100 ≤ t.mgt[m].addrNow.toNat ∧ t.mgt[m].addrNow.toNat ≤ 0xA9FEFEFF ∧ (∀ k, k ≠ m → t.mgt[k] = s.mgt[k])
            ∧ t.mgt[m].ctl = s.mgt[m].ctl)
  ∧ (∀ (m : Fin 2) (s : State), ptpPort s m = true →
        (∀ st : Fin 8, st.1 ≤ 5 → ¬ (st = 4 ∧ bitAt s.ptp.ctl 29 = true) →
          ∃ t, exec (.ptpMessage m (.state st)) s = .next t ∧ t.ptp.state[m] = st ∧ t.ptp.stamps = s.ptp.stamps ∧ t.ptp.ctl = s.ptp.ctl
            ∧ t.ptp.offset = s.ptp.offset ∧ t.ptp.sec = s.ptp.sec ∧ t = { s with ptp := t.ptp })
        ∧ (∀ t1 t2, exec (.ptpMessage m (.sync t1 t2)) s = .next { s with ptp := { s.ptp with stamps := s.ptp.stamps.set m.1 (some (t1, t2)) m.2 } })
        ∧ (∀ t1 t2 t3 t4, s.ptp.stamps[m] = some (t1, t2) → ∃ t, exec (.ptpMessage m (.delay t3 t4)) s = .next t ∧ t.ptp.stamps[m] = none
            ∧ t.ptp.state = s.ptp.state ∧ t.mgt = s.mgt
            ∧ (s.ptp.state[m] ≠ 3 ∨ 2 ≤ s.pins.clkm.toNat → t = { s with ptp := { s.ptp with stamps := s.ptp.stamps.set m.1 none m.2 } }))
        ∧ (bitAt s.ptp.ctl 29 = true → exec (.ptpMessage m (.state 4)) s = .next s))

/-- Firmware moves the oldest posted record into the fault log; a record that differs from the newest entry makes a new entry. -/
def Obligations.FaultRecordsMoveInOrder : Prop :=
  ∀ (r : FaultRec) (rest : List FaultRec) (s : State), firmwareRuns s = true → s.faults.queue = r :: rest →
    ∃ t, exec .faultRecordMove s = .next t ∧ t.faults.queue = rest ∧ t.faults.lost = s.faults.lost ∧ t.fuses = s.fuses ∧ t.mram = s.mram
      ∧ ((∀ e l, s.faults.log = e :: l → ¬ (e.record.code = r.code ∧ e.record.cls = r.cls ∧ e.record.index = r.index)) →
          t.faults.head = s.faults.head + 1 ∧ ∃ e, t.faults.log.head? = some e ∧ e.record = r ∧ e.seq = s.faults.head + 1 ∧ e.count = 1)
      ∧ (∀ e l, s.faults.log = e :: l → e.record.code = r.code → e.record.cls = r.cls → e.record.index = r.index → s.coreTime < e.made + clkMs →
          t.faults.log = { e with count := satInc e.count } :: l ∧ t.tx = s.tx)

/-- Locked, EXTEST, CLAMP, the debug codes and DBG_RESET act as BYPASS, whose register captures 0; the fixed codes answer, and unlocked EXTEST and
CLAMP drive the pins. Unlocked, the processor and memory debug codes stop the model: the manual names them and gives them no effect; every other code
is BYPASS. While TRST_N is low the port is held in reset and nothing is shifted. -/
def Obligations.TestAccessPort : Prop :=
  (∀ s : State, s.pins.trstN = true →
        (s.sec.tapOpen = false → ∀ code : BitVec 8,
          exec .jtagExtest s = exec .jtagBypass s ∧ exec .jtagClamp s = exec .jtagBypass s ∧ exec (.jtagProcDebug code) s = exec .jtagBypass s)
        ∧ (s.sec.resetOk = false → exec .jtagDbgReset s = exec .jtagBypass s)
        ∧ exec .jtagBypass s = .next { s with pins := { s.pins with extest := false, clamp := false }, tx := s.tx ++ [.tdo 0] }
        ∧ exec .jtagIdcode s = .next { s with pins := { s.pins with extest := false, clamp := false }, tx := s.tx ++ [.tdo 0x164003A7] }
        ∧ exec .jtagDbgStatus s =
            .next { s with pins := { s.pins with extest := false, clamp := false }, tx := s.tx ++ [.tdo (dbgStat s.sec).toNat] }
        ∧ (∀ load pins, exec (.jtagSamplePreload load pins) s =
            .next { s with pins := { s.pins with extest := false, clamp := false, bscan := load.getD pins }, tx := s.tx ++ [.tdo pins] })
        ∧ (s.sec.tapOpen = true → exec .jtagExtest s = .next { s with pins := { s.pins with extest := true, clamp := false } }
            ∧ exec .jtagClamp s = .next { s with pins := { s.pins with extest := false, clamp := true }, tx := s.tx ++ [.tdo 0] })
        ∧ (s.sec.resetOk = true → s.rst.level = none → mappedLevel s 0 = 0 →
            ∃ t, exec .jtagDbgReset s = .next t ∧ t.rst.level = some 0 ∧ t.rst.held = [.debug] ∧ t.fuses = s.fuses ∧ t.mram = s.mram))
  ∧ (∀ s : State, s.pins.trstN = false → exec .jtagBypass s = .next s ∧ exec .jtagIdcode s = .next s ∧ exec .jtagDbgStatus s = .next s
        ∧ exec .jtagExtest s = .next s ∧ exec .jtagClamp s = .next s ∧ exec .jtagDbgReset s = .next s
        ∧ (∀ load pins, exec (.jtagSamplePreload load pins) s = .next s) ∧ (∀ bs, exec (.jtagDbgUnlock bs) s = .next s)
        ∧ ∀ code, exec (.jtagProcDebug code) s = .next s)
  ∧ (∀ (code : BitVec 8) (s : State), s.pins.trstN = true → s.sec.tapOpen = true →
        (0x30 ≤ code.toNat → code.toNat ≤ 0x3F → exec (.jtagProcDebug code) s = .refused .processorDebug)
        ∧ (¬ (0x30 ≤ code.toNat ∧ code.toNat ≤ 0x3F) → exec (.jtagProcDebug code) s = exec .jtagBypass s))

/-- Every register row, when its write is accepted, does to the device what its object's write does, is journaled where the manual says so and is
answered OK: 0x6 to 0x9007 alike. A persistent object is recorded in MRAM as well, and a SOFT reset that asserts at once is journaled before it does.
-/
def Obligations.RegisterRowsWriteTheirObject : Prop :=
  ∀ (c : Instr) (who : By) (index sub : Nat) (v : Val) (o : Obj) (s : State), registerRow c = some (who, index, sub, v) →
    Accepted who index sub o v s →
    (o.desc.acc ≠ .rwp → ¬ (o = .sys .softrst ∧ softWaits v.word = false) → exec c s = .next (written who index sub o v s))
    ∧ (o.desc.acc = .rwp → exec c s = .next ((noted who index sub o v (journaled o v s)
        (rwpRecord (objTarget index sub) v (o.apply v (rwpToken (spent o v s)).2))).answer .ok))
    ∧ (o = .sys .softrst → softWaits v.word = false → exec c s = .next ((o.apply v (noted who index sub o v (journaled o v s) (spent o v s))).answer .ok))

/-- A write that firmware cannot take at once waits in the service queue when it comes through LDP or a mailbox; through the view it waits while
firmware runs and is discarded while it does not. -/
def Obligations.RegisterRowsWaitForFirmware : Prop :=
  ∀ (c : Instr) (who : By) (index sub : Nat) (v : Val) (s : State), registerRow c = some (who, index, sub, v) → fwFree s = false →
    direct who index sub = false →
    ((∃ p n, who.path = .ldp p n) ∨ (∃ p n, who.path = .mailbox p n) → s.svc.length < svcMax →
      exec c s = .next { s with svc := s.svc ++ [.write who index sub true v] })
    ∧ ((∃ p n, who.path = .ldp p n) → svcMax ≤ s.svc.length → exec c s = .next (s.updAcc fun a => { a with drops := satInc a.drops }))
    ∧ (∀ l g ofs o, who.path = .view l g → barServes s l g = true → s.boot.phase = 3 → viewOffset s l g index sub = some ofs → objAt index sub = some o →
        o.held s = false →
        (firmwareRuns s = true → s.svc.length < svcMax → exec c s = .next { s with svc := s.svc ++ [.write who index sub true v] })
        ∧ (firmwareRuns s = false → exec c s = .next s))
    ∧ (∀ l g, who.path = .view l g → barServes s l g = false → exec c s = .next s)

/-- Which refusal a write of one object meets first: no such object, privilege, the journal's rate, then the object's own checks. A refused write
changes no block: the queues, the heads, the encoders, MRAM's records and the fuses stay. A refused access is entered in the violation log with its
target, its status and its initiator. The journal takes one entry for a journaled write, numbered on from the head. -/
def Obligations.RefusedWrites : Prop :=
  (∀ (who : By) (index : BitVec 16) (sub : BitVec 8) (x : Val) (s : State), who.path = .firmware → firmwareRuns s = true →
        (objAt index.toNat sub.toNat = none → ∃ t, exec (.registerWrite who index sub x) s = .next t ∧ t.reply.status = .noObject
          ∧ t.mram = s.mram ∧ t.fuses = s.fuses ∧ t.qm = s.qm ∧ t.heads = s.heads ∧ t.encs = s.encs ∧ t.acc = s.acc)
        ∧ (∀ o, objAt index.toNat sub.toNat = some o → privRefused who o x s = true →
            ∃ t, exec (.registerWrite who index sub x) s = .next t ∧ t.reply.status = .privilege ∧ t.mram = s.mram ∧ t.fuses = s.fuses
              ∧ t.qm = s.qm ∧ t.heads = s.heads ∧ t.encs = s.encs ∧ t.sec = s.sec)
        ∧ (∀ o, objAt index.toNat sub.toNat = some o → privRefused who o x s = false → journaled o x s = true → jnlTokens s < 12500 →
            ∃ t, exec (.registerWrite who index sub x) s = .next t ∧ t.reply.status = .busy ∧ t.acc.rateDrops = satInc s.acc.rateDrops
              ∧ t.mram = s.mram ∧ t.fuses = s.fuses ∧ t.qm = s.qm ∧ t.heads = s.heads ∧ t.encs = s.encs ∧ t.sec = s.sec)
        ∧ (∀ o, objAt index.toNat sub.toNat = some o → privRefused who o x s = false → (journaled o x s = true → 12500 ≤ jnlTokens s) →
            o.held (spent o x s) = true →
            ∃ t, exec (.registerWrite who index sub x) s = .next t ∧ t.reply.status = .state ∧ t.mram.records = s.mram.records ∧ t.fuses = s.fuses
              ∧ t.qm = s.qm ∧ t.heads = s.heads ∧ t.encs = s.encs ∧ t.sec = s.sec))
  ∧ (∀ (who : By) (index : BitVec 16) (sub : BitVec 8) (x : Val) (s : State), who.path = .firmware → firmwareRuns s = true →
        objAt index.toNat sub.toNat = none → s.vio.log = [] →
        ∃ t e, exec (.registerWrite who index sub x) s = .next t ∧ t.vio.log = [e] ∧ e.target = BitVec.ofNat 48 (index.toNat * 256 + sub.toNat)
          ∧ e.status = 0x01#8 ∧ e.initiator = 0x3000#16 ∧ e.count = 1 ∧ t.vio.head = s.vio.head + 1)
  ∧ (∀ (w : By) (n : Fin 16) (v : BitVec 48) (s : State), w.path = .firmware → Accepted w (0x7000 + n.1) 0x21 (.enc n .target) (.num v.toNat) s →
        ∃ t e, exec (.targetWrite w n v) s = .next t ∧ t.mram.journal.head? = some e ∧ t.mram.head = s.mram.head + 1 ∧ e.seq = (s.mram.head + 1).toNat
          ∧ e.index = BitVec.ofNat 16 (0x7000 + n.1) ∧ e.sub = 0x21#8 ∧ e.status = 0 ∧ e.value = BitVec.ofNat 64 v.toNat ∧ e.src = 0xC000#16
          ∧ t.mram.records = s.mram.records)

/-- The takes: START arms an idle take with the geometry and the limit in force, STOP of an armed take ends it at once, ABORT ends any take. -/
def Obligations.TakesStartAndStop : Prop :=
  ∀ (w : By) (i : Fin 18) (v : Word) (s : State),
    (bitAt v 30 = false → bitAt v 29 = false → Accepted w (srcIndex i) 7 (.src i .takectl) (.num (v ||| 0x80000000#32).toNat) s →
      ∃ t, exec (.takeStart w i v) s = .next t ∧ t.srcs[i].take = .armed ∧ t.srcs[i].takeFrames = 0 ∧ t.srcs[i].limitNow = s.srcs[i].frameLimit
        ∧ t.srcs[i].geomNow = s.srcs[i].geom ∧ t.srcs[i].takeNo = s.srcs[i].takeNo ∧ (∀ j, j ≠ i → t.srcs[j] = s.srcs[j]) ∧ t.qm = s.qm)
    ∧ (bitAt v 29 = false → s.srcs[i].take = .armed → Accepted w (srcIndex i) 7 (.src i .takectl) (.num (v ||| 0x40000000#32).toNat) s →
      ∃ t, exec (.takeStop w i v) s = .next t ∧ t.srcs[i].take = .idle ∧ t.srcs[i].discards = s.srcs[i].discards)
    ∧ (takeOpen s i = true → frameOpen s i = false → boundPipe s i = none →
        Accepted w (srcIndex i) 7 (.src i .takectl) (.num (v ||| 0x20000000#32).toNat) s →
      ∃ t, exec (.takeAbort w i v) s = .next t ∧ t.srcs[i].take = .idle ∧ t.srcs[i].takeNo = s.srcs[i].takeNo)

/-- A command to the camera: a pending write joins the set with the data of CMD_DATA, a read or a write awaits its reply. A reply that bears the
awaited sequence number ends the wait with its result and data; any other reply changes nothing, and a time-out ends the wait with result 2. -/
def Obligations.CameraCommands : Prop :=
  (∀ (w : By) (i : Fin 18) (v : Word) (s : State),
        (Accepted w (srcIndex i) 0x18 (.src i .cmdctl) (.num ((v &&& 0x9FFFFFFF#32) ||| 0x40000000#32).toNat) s →
          ∃ t, exec (.cmdPendingWrite w i v) s = .next t ∧ t.srcs[i].pendingSet = s.srcs[i].pendingSet ++ [(BitVec.ofNat 24 (fld v 23 0), s.srcs[i].cmdData)]
            ∧ t.srcs[i].cmdRes = 3 ∧ t.srcs[i].cmdWait = s.srcs[i].cmdWait ∧ t.srcs[i].take = s.srcs[i].take)
        ∧ (i.1 < 16 → Accepted w (srcIndex i) 0x18 (.src i .cmdctl) (.num ((v &&& 0x9FFFFFFF#32) ||| 0x20000000#32).toNat) s →
          ∃ t, exec (.cmdWrite w i v) s = .next t ∧ t.srcs[i].cmdWait = some s.srcs[i].cmdSeq ∧ t.srcs[i].cmdSeq = s.srcs[i].cmdSeq + 1)
        ∧ (i.1 < 16 → Accepted w (srcIndex i) 0x18 (.src i .cmdctl) (.num (v &&& 0x9FFFFFFF#32).toNat) s →
          ∃ t, exec (.cmdRead w i v) s = .next t ∧ t.srcs[i].cmdWait = some s.srcs[i].cmdSeq ∧ t.srcs[i].cmdSeq = s.srcs[i].cmdSeq + 1))
  ∧ (∀ (p h : Fin 16) (x : BitVec 256) (s : State), headOf s p = some h → s.ports[p].running = true → inReset (.head h) s = false →
        (s.srcs[(headSrc h)].cmdWait = some (BitVec.ofNat 8 (fld x 15 8)) → ∃ t, exec (.commandReply p x) s = .next t
          ∧ t.srcs[(headSrc h)].cmdWait = none ∧ (bitAt x 16 = true → t.srcs[(headSrc h)].cmdRes = 1 ∧ t.srcs[(headSrc h)].cmdData = s.srcs[(headSrc h)].cmdData)
          ∧ (bitAt x 16 = false → t.srcs[(headSrc h)].cmdRes = 0 ∧ t.srcs[(headSrc h)].cmdData = BitVec.ofNat 64 (fld x 111 48))
          ∧ (∀ j, j ≠ headSrc h → t.srcs[j] = s.srcs[j]) ∧ t = { s with srcs := t.srcs })
        ∧ (s.srcs[(headSrc h)].cmdWait ≠ some (BitVec.ofNat 8 (fld x 15 8)) → ∃ t, exec (.commandReply p x) s = .next t ∧ t.srcs[(headSrc h)] = s.srcs[(headSrc h)])
        ∧ (∀ i : Fin 18, s.srcs[i].cmdWait.isSome = true →
            exec (.cmdTimeout i) s = .next (s.updSrc i fun k => { k with cmdWait := none, cmdRes := 2 })))

/-- A start-of-frame block on a port of no enabled head is counted on the port; at a Ready head with no frame open it opens one: a frame that no take
wants is counted as unbound or idle, and a wanted one whose checks hold makes its take Running. Data blocks of an open frame bring its samples in
order; a block outside a frame is counted once for its run. A head message is kept whole for the head. -/
def Obligations.FramesOpenAndFill : Prop :=
  (∀ (p : Fin 16) (x : BitVec 256) (s : State), s.ports[p].running = true → s.ports[p].replay = none → inReset (.port p) s = false →
        (headOf s p = none → ∃ t, exec (.startOfFrame p x) s = .next t ∧ t.ports[p].discards = satInc s.ports[p].discards ∧ t.ports[p].broken = false
          ∧ t.srcs = s.srcs ∧ t.heads = s.heads)
        ∧ (∀ h, headOf s p = some h → s.heads[h].state = .ready → inReset (.head h) s = false → s.heads[h].openAt = none → s.heads[h].group = [] →
            (∀ g, s.heads[h].gone = some g → g.1 ≠ (startOf x).frame) → s.srcs[(headSrc h)].pendingSet = [] →
            (wanted s (headSrc h) = false →
              ∃ t, exec (.startOfFrame p x) s = .next t ∧ t.heads[h].openAt = some s.coreTime ∧ t.heads[h].ignoring = true ∧ t.heads[h].skipping = false
                ∧ (boundPipe s (headSrc h) = none → t.srcs[(headSrc h)].unbound = satInc s.srcs[(headSrc h)].unbound
                    ∧ t.srcs[(headSrc h)].idleFrames = s.srcs[(headSrc h)].idleFrames)
                ∧ (boundPipe s (headSrc h) ≠ none → t.srcs[(headSrc h)].idleFrames = satInc s.srcs[(headSrc h)].idleFrames
                    ∧ t.srcs[(headSrc h)].unbound = s.srcs[(headSrc h)].unbound))
            ∧ (∀ q, boundPipe s (headSrc h) = some q → wanted s (headSrc h) = true → (startOf x).expIndex.1 = s.heads[h].expNext →
                startFails (takeEffect q s) q (headSrc h) = [] →
                ∃ t, exec (.startOfFrame p x) s = .next t ∧ t.heads[h].openAt = some s.coreTime ∧ t.heads[h].ignoring = false
                  ∧ t.heads[h].lastFrame = some (startOf x).frame
                  ∧ t.heads[h].rx[(Fin.ofNat 4 s.ports[p].headPort)].opened = some (startOf x) ∧ t.srcs[(headSrc h)].take = .running
                  ∧ t.srcs[(headSrc h)].takeNo = (if s.srcs[(headSrc h)].take = .armed then satInc s.srcs[(headSrc h)].takeNo else s.srcs[(headSrc h)].takeNo)
                  ∧ t.srcs[(headSrc h)].discards = s.srcs[(headSrc h)].discards)))
  ∧ (∀ (p h : Fin 16) (x : BitVec 256) (s : State), streamHead s p = some h → s.heads[h].skipping = false →
        (∀ q r, r = s.heads[h].rx[(Fin.ofNat 4 s.ports[p].headPort)] → r.opened.isSome = true → r.ended = none → s.heads[h].ignoring = false →
          boundPipe s (headSrc h) = some q → (takesSamples s q = true ∧ inputFull s h = false) ∨ pausable s h = true →
          r.samples.length < shareOf (shapeOf s (headSrc h)) (headPorts s h).length (Fin.ofNat 4 s.ports[p].headPort).1 →
          ∃ t, exec (.dataBlock p x) s = .next t
            ∧ t.heads[h].rx[(Fin.ofNat 4 s.ports[p].headPort)].samples = r.samples ++ (takeSmps (shapeOf s (headSrc h)).pixelBits
                (min 256 (shareOf (shapeOf s (headSrc h)) (headPorts s h).length (Fin.ofNat 4 s.ports[p].headPort).1 - r.samples.length))
                (r.bits + 256) (r.acc + x.toNat * 2 ^ r.bits)).1
            ∧ t.srcs = s.srcs)
        ∧ (s.heads[h].rx[(Fin.ofNat 4 s.ports[p].headPort)].opened = none → s.heads[h].rx[(Fin.ofNat 4 s.ports[p].headPort)].strayRun = false →
          ∃ t, exec (.dataBlock p x) s = .next t ∧ t.srcs[(headSrc h)].discards = satInc s.srcs[(headSrc h)].discards
            ∧ t.heads[h].rx[(Fin.ofNat 4 s.ports[p].headPort)].strayRun = true))
  ∧ (∀ (p h : Fin 16) (x : BitVec 256) (s : State), streamHead s p = some h → ∃ t, exec (.headMessage p x) s = .next t
        ∧ t.srcs[(headSrc h)].headMsg = leBytes 32 x.toNat ∧ (∀ i, i ≠ headSrc h → t.srcs[i] = s.srcs[i]) ∧ t = { s with srcs := t.srcs, router := t.router })

/-- An end-of-frame block closes its port's share, or, when its frame number, its count or its sensor flag is wrong, discards the frame whole; the one
that makes the last frame of its group whole hands it to the pipeline and counts it. A frame that is not complete in time is discarded whole too. A
discard leaves the next packet of the pipeline its gap flag to carry. -/
def Obligations.FramesEndOrAreDiscarded : Prop :=
  ∀ (p h : Fin 16) (x : BitVec 256) (f : FrameStart) (r : PortRx) (s : State), streamHead s p = some h → s.heads[h].skipping = false →
    r = s.heads[h].rx[(Fin.ofNat 4 s.ports[p].headPort)] → r.opened = some f → r.ended = none → s.heads[h].ignoring = false →
    ((endOf x).frame ≠ f.frame ∨ (endOf x).sensorErr = true →
      ∃ t, exec (.endOfFrame p x) s = .next t ∧ t.srcs[(headSrc h)].discards = satInc s.srcs[(headSrc h)].discards ∧ t.heads[h].openAt = none
        ∧ t.heads[h].skipping = true ∧ ∀ q, boundPipe s (headSrc h) = some q → t.pipes[q].gap = true)
    ∧ ((endOf x).frame = f.frame → (endOf x).sensorErr = false → (headPorts s h).length = 2 →
        (endOf x).samples.toNat = shareOf (shapeOf s (headSrc h)) 2 (Fin.ofNat 4 s.ports[p].headPort).1 →
        r.samples.length = shareOf (shapeOf s (headSrc h)) 2 (Fin.ofNat 4 s.ports[p].headPort).1 →
        (∃ k : Fin 4, k.1 < 2 ∧ k ≠ Fin.ofNat 4 s.ports[p].headPort ∧ s.heads[h].rx[k].ended = none) →
        ∃ t, exec (.endOfFrame p x) s = .next t ∧ t.heads[h].rx[(Fin.ofNat 4 s.ports[p].headPort)].ended = some (endOf x)
          ∧ t.heads[h].openAt = s.heads[h].openAt ∧ t.srcs = s.srcs)
    ∧ (∀ q m, (endOf x).frame = f.frame → (endOf x).sensorErr = false → (headPorts s h).length = 1 → Fin.ofNat 4 s.ports[p].headPort = 0 →
        (endOf x).samples.toNat = shareOf (shapeOf s (headSrc h)) 1 0 → r.samples.length = shareOf (shapeOf s (headSrc h)) 1 0 →
        boundPipe s (headSrc h) = some q → s.heads[h].mark = some m → (shapeOf s (headSrc h)).exposures ≤ s.heads[h].expNext + 1 →
        ∃ t w, exec (.endOfFrame p x) s = .next t ∧ t.srcs[(headSrc h)].frames = satInc s.srcs[(headSrc h)].frames
          ∧ t.srcs[(headSrc h)].discards = s.srcs[(headSrc h)].discards ∧ t.heads[h].openAt = none ∧ t.heads[h].group = []
          ∧ t.pipes[q].works.getLast? = some w ∧ w.whole = true ∧ w.src = headSrc h ∧ (s.heads[h].group = [] → w.frame = f.frame))
    ∧ (s.heads[h].openAt.isSome = true → ∃ t, exec (.frameTimeout (headSrc h)) s = .next t
        ∧ t.srcs[(headSrc h)].discards = satInc s.srcs[(headSrc h)].discards ∧ t.heads[h].openAt = none
        ∧ ∀ q, boundPipe s (headSrc h) = some q → t.pipes[q].gap = true)

/-- A parallel port: FSYNC opens a frame; one that no take wants is counted and its samples dropped, a wanted one makes its take Running and its
samples join the line, or overruns while its pipeline takes none. FSYNC's end hands a frame of all its lines to the pipeline and discards any other,
and the loss of PCLK discards the frame too. -/
def Obligations.ParallelPortFrames : Prop :=
  ∀ (n : Fin 2) (s : State), inReset (.pcam n) s = false →
    (bitAt s.pcams[n].ctl 31 = true → s.pcams[n].opened = false → wanted s (pcamSrc n) = false → ∃ t, exec (.pcamFrameStart n) s = .next t
      ∧ t.pcams[n].opened = true ∧ t.pcams[n].ignoring = true ∧ t.pcams[n].ctl = s.pcams[n].ctl
      ∧ (boundPipe s (pcamSrc n) = none → t.srcs[(pcamSrc n)].unbound = satInc s.srcs[(pcamSrc n)].unbound)
      ∧ (boundPipe s (pcamSrc n) ≠ none → t.srcs[(pcamSrc n)].idleFrames = satInc s.srcs[(pcamSrc n)].idleFrames))
    ∧ (∀ q u, bitAt s.pcams[n].ctl 31 = true → s.pcams[n].opened = false → wanted s (pcamSrc n) = true → boundPipe s (pcamSrc n) = some q →
        u = s.updPcam n (fun k => { k with opened := true, ignoring := false, line := [], lines := [] }) →
        (takesSamples u q = true → startFails (takeEffect q s) q (pcamSrc n) = [] → ∃ t, exec (.pcamFrameStart n) s = .next t
          ∧ t.pcams[n].opened = true ∧ t.pcams[n].ignoring = false ∧ t.pcams[n].lines = [] ∧ t.srcs[(pcamSrc n)].take = .running
          ∧ t.srcs[(pcamSrc n)].overruns = s.srcs[(pcamSrc n)].overruns)
        ∧ (takesSamples u q = false → ∃ t, exec (.pcamFrameStart n) s = .next t
          ∧ t.pcams[n].opened = true ∧ t.pcams[n].ignoring = true ∧ t.srcs[(pcamSrc n)].overruns = satInc s.srcs[(pcamSrc n)].overruns))
    ∧ (s.pcams[n].opened = false → ∀ ls dv d, exec (.pcamSample n ls dv d) s = .next s)
    ∧ (∀ ls dv d q, s.pcams[n].opened = true → s.pcams[n].ignoring = false → ls ≠ bitAt s.pcams[n].ctl 28 →
        bitAt s.pcams[n].ctl 26 = false ∨ dv ≠ bitAt s.pcams[n].ctl 27 → boundPipe s (pcamSrc n) = some q →
        (takesSamples s q = true → ∃ t, exec (.pcamSample n ls dv d) s = .next t
          ∧ t.pcams[n].line = s.pcams[n].line ++ pcamSmps s.pcams[n].ctl d ∧ t.pcams[n].inLine = true ∧ t.srcs = s.srcs)
        ∧ (takesSamples s q = false → ∃ t, exec (.pcamSample n ls dv d) s = .next t
          ∧ t.pcams[n].ignoring = true ∧ t.srcs[(pcamSrc n)].overruns = satInc s.srcs[(pcamSrc n)].overruns))
    ∧ (s.pcams[n].opened = true → s.pcams[n].ignoring = true → s.srcs[(pcamSrc n)].take = .idle → ∃ t, exec (.pcamFrameEnd n) s = .next t
        ∧ t.pcams[n].opened = false ∧ t.pcams[n].ignoring = false ∧ t.srcs = s.srcs ∧ t.qm = s.qm)
    ∧ (∀ q m, s.pcams[n].opened = true → s.pcams[n].ignoring = false → s.pcams[n].inLine = false → boundPipe s (pcamSrc n) = some q →
        s.pcams[n].mark = some m →
        (s.pcams[n].lines.length = (shapeOf s (pcamSrc n)).height → ∃ t w, exec (.pcamFrameEnd n) s = .next t ∧ t.pcams[n].opened = false
          ∧ t.srcs[(pcamSrc n)].frames = satInc s.srcs[(pcamSrc n)].frames ∧ t.srcs[(pcamSrc n)].discards = s.srcs[(pcamSrc n)].discards
          ∧ t.pipes[q].works.getLast? = some w ∧ w.whole = true ∧ w.src = pcamSrc n)
        ∧ (s.pcams[n].lines.length ≠ (shapeOf s (pcamSrc n)).height → ∃ t, exec (.pcamFrameEnd n) s = .next t ∧ t.pcams[n].opened = false
          ∧ t.srcs[(pcamSrc n)].frames = s.srcs[(pcamSrc n)].frames ∧ t.srcs[(pcamSrc n)].discards = satInc s.srcs[(pcamSrc n)].discards))
    ∧ (s.pcams[n].opened = true → s.pcams[n].ignoring = true → s.srcs[(pcamSrc n)].take = .idle → ∃ t, exec (.pclkLost n) s = .next t
        ∧ t.pcams[n].pclkLost = true ∧ t.pcams[n].opened = false ∧ t.srcs = s.srcs)
    ∧ (s.pcams[n].opened = true → s.pcams[n].ignoring = false → ∃ t, exec (.pclkLost n) s = .next t
        ∧ t.pcams[n].pclkLost = true ∧ t.pcams[n].opened = false ∧ t.srcs[(pcamSrc n)].discards = satInc s.srcs[(pcamSrc n)].discards)
    ∧ (s.pcams[n].opened = false → exec (.pclkLost n) s = .next s ∧ exec (.pcamFrameEnd n) s = .next s)

/-- A streamed word that the prefetch buffer has room for joins its region's entries there; a bad or late one is counted and marks the pipeline late;
a word that finds no room leaves them. The end of the reorder readback frees stage 8. Each touches its own pipeline alone. -/
def Obligations.StreamedWordsFillThePrefetch : Prop :=
  ∀ (p : Fin 16) (r : Fin 5) (w : Nat) (s : State),
    (inReset (.pipe p) s = false → streams s p r = true →
      (prefetched s p + 8 ≤ 524288 →
        (∃ t, exec (.streamFill p r w false) s = .next t ∧ t.pipes[p].prefetch = s.pipes[p].prefetch.set r.1 (s.pipes[p].prefetch[r] + 1) r.2
          ∧ t.pipes[p].eccUncorr = s.pipes[p].eccUncorr ∧ (∀ k, k ≠ p → t.pipes[k] = s.pipes[k]) ∧ t.qm = s.qm ∧ t.srcs = s.srcs ∧ t.mapStore = s.mapStore)
        ∧ (∃ t, exec (.streamFill p r w true) s = .next t ∧ t.pipes[p].prefetch = s.pipes[p].prefetch.set r.1 (s.pipes[p].prefetch[r] + 1) r.2
          ∧ t.pipes[p].eccUncorr = satInc s.pipes[p].eccUncorr ∧ t.pipes[p].streamLate = true ∧ t.pipes[p].eccLogged = true ∧ t.qm = s.qm)
        ∧ (∃ t, exec (.streamWordTimeout p r w) s = .next t ∧ t.pipes[p].prefetch = s.pipes[p].prefetch.set r.1 (s.pipes[p].prefetch[r] + 1) r.2
          ∧ t.pipes[p].eccUncorr = satInc s.pipes[p].eccUncorr ∧ t.pipes[p].streamLate = true ∧ t.qm = s.qm ∧ t.host = s.host))
      ∧ (524288 < prefetched s p + 8 → ∃ t, exec (.streamFill p r w false) s = .next t ∧ t.pipes = s.pipes ∧ t.qm = s.qm))
    ∧ (streams s p r = false → ∀ b, exec (.streamFill p r w b) s = .next s)
    ∧ (∃ t, exec (.reorderReadback p) s = .next t ∧ t.pipes[p].readback = false ∧ (∀ k, k ≠ p → t.pipes[k] = s.pipes[k]) ∧ t.qm = s.qm
        ∧ t.srcs = s.srcs ∧ t.mapStore = s.mapStore)

/-- The packer closes the packet of the frame at stage 8 with its payload and its slate; while the packet before it waits to commit, or the reorder
readback holds the frame, nothing happens. A statistics record whose data packet has committed is written and commits with its own slate; with no
record nothing happens, and another queue's packets stay. -/
def Obligations.PacketsAndRecordsLeaveStage8 : Prop :=
  (∀ (p : Fin 16) (w : Work) (ws : List Work) (s : State), inReset (.pipe p) s = false → s.pipes[p].works = w :: ws → w.whole = true →
        heldBack s p = false → s.qm.producers[(dataProducer p)].closing = none → isTally w.pack = false →
        (s.qm.producers[(dataProducer p)].discarding = false →
          ∃ t, exec (.stage8FrameEnd p) s = .next t ∧ t.pipes[p].works = ws
            ∧ t.qm.producers[(dataProducer p)].buf = s.qm.producers[(dataProducer p)].buf ++ (packPayload w).1.drop s.pipes[p].given
            ∧ (∃ slate, t.qm.producers[(dataProducer p)].closing = some slate ∧ slate.take 4 = [0xC5, 1, BitVec.ofNat 8 w.src.1, BitVec.ofNat 8 p.1])
            ∧ t.qm.queues = s.qm.queues ∧ t.srcs = s.srcs ∧ t.pipes[p].gap = s.pipes[p].gap)
        ∧ (s.qm.producers[(dataProducer p)].discarding = true →
          ∃ t, exec (.stage8FrameEnd p) s = .next t ∧ t.pipes[p].works = ws ∧ t.qm.producers[(dataProducer p)].discarding = false ∧ t.srcs = s.srcs))
  ∧ (∀ (p : Fin 16) (w : Work) (ws : List Work) (s : State), s.pipes[p].works = w :: ws →
        w.whole = false ∨ heldBack s p = true ∨ s.qm.producers[(dataProducer p)].closing ≠ none →
        ∃ t, exec (.stage8FrameEnd p) s = .next t ∧ t.pipes = s.pipes ∧ t.qm = s.qm ∧ t.srcs = s.srcs ∧ t.tallies = s.tallies)
  ∧ (∀ (p : Fin 16) (q : Fin 512) (s : State), inReset .queues s = false → inReset (.pipe p) s = false → queueOf s (statProducer p) = some q →
        (∀ o slate r rest, s.pipes[p].statRecs = r :: rest → s.qm.queues[q].openPkt = some o → s.qm.producers[(statProducer p)].closing = some slate →
          s.qm.producers[(statProducer p)].buf = [] →
          ∃ t pkt, exec (.statRecordCommit p) s = .next t ∧ t.pipes[p].statRecs = rest ∧ t.pipes[p].records = satInc s.pipes[p].records
            ∧ t.qm.queues[q].packets = s.qm.queues[q].packets ++ [pkt] ∧ pkt.bytes = o.bytes ∧ t.qm.queues[q].commits = satInc s.qm.queues[q].commits
            ∧ t.qm.producers[(statProducer p)].closing = none ∧ (∀ k, k ≠ q → t.qm.queues[k].packets = s.qm.queues[k].packets) ∧ t.srcs = s.srcs)
        ∧ (s.pipes[p].statRecs = [] → s.qm.producers[(statProducer p)].closing = none → s.qm.producers[(statProducer p)].buf = [] →
          ∃ t, exec (.statRecordCommit p) s = .next t ∧ t.pipes[p].records = s.pipes[p].records ∧ t.qm.queues[q].packets = s.qm.queues[q].packets))

/-- A row of Tally candidates: one event that the set keeps, within its budget and with room in the backlog, becomes one event record. A batch that
has timed out closes when no frame of it is in progress, and waits for the packet before it otherwise. A count image: a waiting frame's events are
added to the cells of a fresh image, and a read-out image is cleared. -/
def Obligations.TallyEventsBatchesAndImages : Prop :=
  (∀ (p : Fin 16) (w : Work) (ws : List Work) (c : Cand) (rest : List (List Cand)) (a : PktAcct) (s u : State), inReset (.pipe p) s = false →
        u = advance p s → u.pipes[p].works = w :: ws → w.rows = [c] :: rest → isTally w.pack = true → w.tset.dense = false → bitAt w.tset.ctl 27 = false →
        u.qm.producers[(dataProducer p)].closing = none → u.qm.producers[(dataProducer p)].discarding = false → heldBack u p = false →
        u.pipes[p].pkt = some a → w.tset.keeps c = true → w.kept < w.tset.budget.toNat → backlog u p < 8192 →
        ∃ t w', exec (.eventRowOffer p) s = .next t ∧ t.pipes[p].works = w' :: ws ∧ w'.rows = rest ∧ w'.kept = w.kept + 1 ∧ w'.written = w.written + 1
          ∧ t.qm.producers[(dataProducer p)].buf = u.qm.producers[(dataProducer p)].buf ++ eventRecord a.frames c ∧ t.tallies = u.tallies
          ∧ t.qm.queues = s.qm.queues)
  ∧ (∀ (p : Fin 16) (a : PktAcct) (s : State), inReset (.pipe p) s = false → s.pipes[p].pkt = some a → fld s.tallies[p].active.batch 31 12 ≠ 0 →
        (s.qm.producers[(dataProducer p)].closing ≠ none → ∃ t, exec (.batchTimeout p) s = .next t ∧ t.tallies[p].timedOut = true
          ∧ t.pipes[p].pkt = some a ∧ t.qm = s.qm)
        ∧ (s.qm.producers[(dataProducer p)].closing = none → s.pipes[p].works = [] → receiving s a.src = false → a.frames ≠ 0 →
            ∃ t, exec (.batchTimeout p) s = .next t ∧ t.tallies[p].timedOut = false ∧ t.pipes[p].pkt = none
              ∧ t.qm.producers[(dataProducer p)].closing.isSome = true))
  ∧ (∀ (p : Fin 16) (s : State), inReset (.pipe p) s = false →
        (∀ w m, m = s.tallies[p].image → m.waiting = some w → m.applied = 0 → ∃ t, exec (.denseApply p) s = .next t
          ∧ t.mapStore = (w.staged.foldl (fun (acc : Mem × Nat) c =>
              let (x, l) := addCell (imageBase w.tset w.width w.height m.imgB) (w.tset.cellBits / 8) acc.1 c; (x, if l then acc.2 + 1 else acc.2)) (s.mapStore, 0)).1
          ∧ t.tallies[p].image.waiting = none)
        ∧ (s.tallies[p].image.waiting = none → s.tallies[p].image.applied = 0 → ∃ t, exec (.denseApply p) s = .next t ∧ t.mapStore = s.mapStore ∧ t.tallies = s.tallies)
        ∧ (∀ m, m = s.tallies[p].image → m.reading = true → s.qm.producers[(dataProducer p)].buf = [] → m.applied = 0 → ∃ t,
            exec (.imageReadoutDone p) s = .next t ∧ t.tallies[p].image.reading = false
            ∧ t.mapStore = s.mapStore.write (imageBase m.tset m.width m.height (! m.imgB)) (List.replicate (m.tset.imageBytes m.width m.height) 0)))

/-- A producer writes what it has ready, the packer's bytes handed over first, into the room of its packet's last cell, and nothing else of the pool
moves but lending and its pins. A rewound packet's cells go to the return walker and none of it commits; a rewind to the mark keeps the bytes before
it. -/
def Obligations.ProducersWriteAndRewind : Prop :=
  (∀ (r : Fin 32) (q : Fin 512) (o : OpenPkt) (s u : State), inReset .queues s = false → u = (if r.1 < 16 then feed (Fin.ofNat 16 r.1) s else s) →
        queueOf s r = some q → s.qm.queues[q].openPkt = some o →
        u.qm.producers[r].buf ≠ [] → u.qm.producers[r].buf.length ≤ roomLeft o →
        o.bytes + u.qm.producers[r].buf.length ≤ s.qm.queues[q].maxpktNow.toNat → u.qm.producers[r].discarding = false →
        ∃ t, exec (.producerWrite r) s = .next t ∧ t.qm.queues[q].openPkt = some (fillLast o u.qm.producers[r].buf) ∧ t.qm.producers[r].buf = []
          ∧ t.qm.queues[q].packets = s.qm.queues[q].packets ∧ t.qm.producers[r].closing = s.qm.producers[r].closing ∧ t.srcs = s.srcs
          ∧ (∀ k, k ≠ q → t.qm.queues[k].packets = s.qm.queues[k].packets ∧ t.qm.queues[k].openPkt = s.qm.queues[k].openPkt))
  ∧ (∀ (r : Fin 32) (q : Fin 512) (o : OpenPkt) (s : State), inReset .queues s = false → queueOf s r = some q → s.qm.queues[q].openPkt = some o →
        (∃ t, exec (.packetRewind r) s = .next t ∧ t.qm.queues[q].openPkt = none ∧ t.qm.queues[q].packets = s.qm.queues[q].packets
          ∧ t.qm.queues[q].rewinds = satInc s.qm.queues[q].rewinds ∧ t.qm.returning = s.qm.returning ++ o.cells.map (·.index) ∧ t.qm.producers[r].buf = []
          ∧ t.qm.producers[r].closing = none)
        ∧ (exec (.setMark r) s = .next (s.updQueue q fun k =>
            { k with openPkt := some { o with mark := some (o.bytes + s.qm.producers[r].buf.length) } }))
        ∧ (∀ m, o.mark = some m → m < o.bytes → ∃ t, exec (.rewindToMark r) s = .next t ∧ t.qm.queues[q].openPkt = some { o with cells := (cutCells m o.cells).1, bytes := m }
            ∧ t.qm.returning = s.qm.returning ++ (cutCells m o.cells).2.map (·.index) ∧ t.qm.producers[r].buf = [] ∧ t.qm.queues[q].packets = s.qm.queues[q].packets))

/-- A commit moves the open packet behind the committed ones with its slate, which carries GAP after a loss, and CRC over its first 64 bytes, counts
it, and uses the slate number; the packets committed before stay in order. -/
def Obligations.CommitAppendsThePacket : Prop :=
  ∀ (p : Fin 16) (q : Fin 512) (o : OpenPkt) (slate : List Byte) (c : Closed) (s : State), inReset .queues s = false →
    queueOf s (dataProducer p) = some q → s.qm.queues[q].openPkt = some o → s.qm.producers[(dataProducer p)].closing = some slate →
    s.qm.producers[(dataProducer p)].buf = [] → s.pipes[p].closed = some c →
    ∃ t pkt, exec (.packetCommit (dataProducer p)) s = .next t ∧ t.qm.queues[q].packets = s.qm.queues[q].packets ++ [pkt]
      ∧ pkt.bytes = o.bytes
      ∧ pkt.cells = overFirst (slateWithCrc (if s.pipes[p].gap then withGap slate else slate) (((o.cells.flatMap (·.data)).take o.bytes).drop 64)) o.cells
      ∧ pkt.at_ = s.coreTime ∧ t.pipes[p].gap = false
      ∧ t.qm.queues[q].openPkt = none ∧ t.qm.queues[q].commits = satInc s.qm.queues[q].commits
      ∧ t.srcs[c.src].slateNo = satAdd s.srcs[c.src].slateNo 1 ∧ (∀ k, k ≠ q → t.qm.queues[k].packets = s.qm.queues[k].packets)

/-- The return walker moves up to eight cells to their free lists, and a credit block is 32 units of the source that can grant it. The pool's other
events: the end of an XOFF pin's minimum, the patrol scrub's walk over the on-die cells, the snapshot of the cell window. -/
def Obligations.CellPoolMoves : Prop :=
  (∀ s : State, inReset .queues s = false → s.qm.stallLend = false →
        (∃ t, exec .returnWalk s = .next t ∧ t.qm.returning = s.qm.returning.drop 8
          ∧ t.qm.freeD = s.qm.freeD + ((s.qm.returning.take 8).filter (· < onDieCells)).length
          ∧ t.qm.freeS = s.qm.freeS + 2 * ((s.qm.returning.take 8).filter (onDieCells ≤ ·)).length ∧ t.qm.queues = s.qm.queues ∧ t.qm.producers = s.qm.producers)
        ∧ (∀ q, requests s s.qm.robin = true → queueOf s s.qm.robin = some q → grantSource s q = some .reserve → (∀ r : Fin 32, s.qm.producers[r].waiting = false) →
            ∃ t, exec .creditGrant s = .next t ∧ t.qm.producers[s.qm.robin].credits = s.qm.producers[s.qm.robin].credits ++ [⟨.reserve, 32⟩]
              ∧ t.qm.freeD = s.qm.freeD - 32 ∧ t.qm.robin = s.qm.robin + 1 ∧ t.qm.queues = s.qm.queues))
  ∧ (∀ s : State,
        (∀ n, ∃ t, exec (.xoffMinEnd n) s = .next t ∧ t.qm.xoff[n].minHold = false ∧ t.qm.xoff[n].cfg = s.qm.xoff[n].cfg ∧ t.qm.queues = s.qm.queues
          ∧ t = { s with qm := t.qm, pins := t.pins })
        ∧ (inReset .queues s = false →
            exec (.patrolScrub .none) s = .next { s with qm := { s.qm with scrub := (s.qm.scrub + 1) % 262144 } }
            ∧ exec (.patrolScrub .corrected) s = .next { s with qm := { s.qm with scrub := (s.qm.scrub + 1) % 262144, eccCorr := satInc s.qm.eccCorr } }
            ∧ ∃ t, exec (.patrolScrub .uncorrectable) s = .next t ∧ t.qm.scrub = (s.qm.scrub + 1) % 262144
                ∧ ∀ (q : Fin 512) (o : OpenPkt), t.qm.queues[q].openPkt = some o → ∀ c ∈ o.cells, c.index = s.qm.scrub → c.poison = true)
        ∧ (∀ w, inReset .queues s = false → ∃ t, exec (.cellSnapshot w) s = .next t ∧ t.qm.snap.isSome = true ∧ t.qm.queues = s.qm.queues
            ∧ (s.qm.snap.isSome = true → t = s)))

/-- A released packet leaves its queue whole and its cells go to the return walker; CELL_SEL drops the snapshot; an XOFF pin's configuration is taken.
-/
def Obligations.QueueRegisters : Prop :=
  ∀ (w : By) (v : Word) (s : State),
    (∀ (q : Fin 512) pkt rest, v = 1 → s.qm.queues[q].packets = pkt :: rest → Accepted w (0x601E + q.1 / 256) (q.1 % 256) (.queue q .qpop) (.num v.toNat) s →
      ∃ t, exec (.qpop w q v) s = .next t ∧ t.qm.queues[q].packets = rest ∧ t.qm.returning = s.qm.returning ++ pkt.cells.map (·.index)
        ∧ t.qm.queues[q].openPkt = s.qm.queues[q].openPkt ∧ t.mram = s.mram)
    ∧ (Accepted w 0x6120 1 (.pool .cellSel) (.num v.toNat) s → ∃ t, exec (.cellSelect w v) s = .next t ∧ t.qm.cellSel = v ∧ t.qm.snap = none
        ∧ t.qm.queues = s.qm.queues ∧ t.mram = s.mram)
    ∧ (∀ n : Fin 16, Accepted w 0x6110 (1 + n.1) (.pool (.xoffcfg n)) (.num (v ||| 0x80000000#32).toNat) s →
        ∃ t, exec (.xoffEnable w n v) s = .next t ∧ bitAt t.qm.xoff[n].cfg 31 = true ∧ bitAt t.qm.xoff[n].cfg 30 = bitAt v 30 ∧ t.qm.queues = s.qm.queues)
    ∧ (∀ n : Fin 16, Accepted w 0x6110 (1 + n.1) (.pool (.xoffcfg n)) (.num (v &&& 0x7FFFFFFF#32).toNat) s →
        ∃ t, exec (.xoffDisable w n v) s = .next t ∧ bitAt t.qm.xoff[n].cfg 31 = false ∧ t.qm.xoff[n].minHold = false
          ∧ (bitAt s.qm.xoff[n].cfg 31 = true → t.pins.xoff[n] = xoffCold s))

/-- The training states: a held detect enters Pattern, the countdown's end enters Lock, a time-out returns to Detect with its back-off, and the back-
off's end allows Pattern again. No other lane moves. A training frame is the lane's own step alone: one without the comma ends the run of good frames,
one whose control field is valid carries it on. The lane registers: EN written 1 to a disabled lane enters Detect, EN written 0 to a lane of no port
disables it. -/
def Obligations.LaneTraining : Prop :=
  (∀ (n : Fin 64) (s : State),
        (listening s n = true → s.lanes[n].tstate = .detect → s.lanes[n].sigdet = true → s.lanes[n].backoff = false →
          ∃ t, exec (.signalDetectHeld n) s = .next t ∧ t.lanes[n] = s.lanes[n].enter .pattern ∧ t.lanes[n].tstate = .pattern
            ∧ (∀ k, k ≠ n → t.lanes[k] = s.lanes[k]) ∧ t.srcs = s.srcs ∧ t.qm = s.qm)
        ∧ (s.lanes[n].tstate = .pattern → s.lanes[n].countdown.isSome = true → ∃ t, exec (.countdownEnd n) s = .next t
            ∧ t.lanes[n] = s.lanes[n].enter .lock ∧ t.lanes[n].tstate = .lock ∧ (∀ k, k ≠ n → t.lanes[k] = s.lanes[k]) ∧ t.srcs = s.srcs ∧ t.qm = s.qm)
        ∧ (s.lanes[n].tstate = .pattern ∨ s.lanes[n].tstate = .lock ∨ s.lanes[n].tstate = .exchange → inReset (.lane n) s = false →
            ∃ t, exec (.trainingTimeout n) s = .next t ∧ t.lanes[n].tstate = .detect ∧ t.lanes[n].lastTmo = s.lanes[n].tstate
              ∧ t.lanes[n].timeouts = s.lanes[n].timeouts + 1 ∧ t.lanes[n].backoff = true ∧ (∀ k, k ≠ n → t.lanes[k] = s.lanes[k]))
        ∧ exec (.backoffEnd n) s = .next (s.updLane n fun l => { l with backoff := false })
        ∧ (s.lanes[n].tstate = .active → portOfLane s n = none → ∃ t, exec (.retrain n) s = .next t ∧ t.lanes[n].tstate = .pattern
            ∧ (s.lanes[n].hold = false → t.lanes[n].cnt.attempts = satInc s.lanes[n].cnt.attempts)))
  ∧ (∀ (n : Fin 64) (levels ps : List Level) (spaced : Bool) (wish : Nat) (s : State), ps = s.lanes[n].sliced levels →
        (levels.length ≠ 1360 → exec (.trainingFrame n levels spaced wish) s = .fault .illFormed)
        ∧ (levels.length = 1360 → listening s n = true → s.lanes[n].symLock = true → s.lanes[n].tstate = .pattern → s.lanes[n].unframed = false →
            ∃ t, exec (.trainingFrame n levels spaced wish) s = .next t ∧ t.lanes[n].tstate = .pattern ∧ (∀ k, k ≠ n → t.lanes[k] = s.lanes[k])
              ∧ t = { s with lanes := t.lanes, draw := t.draw, tx := t.tx }
              ∧ (ps.take 32 ≠ comma → t.lanes[n].goodFrames = 0 ∧ t.lanes[n].partnerReady = 0 ∧ t.lanes[n].trainChk = s.lanes[n].trainChk)
              ∧ (∀ f : BitVec 64, ps.take 32 = comma → (ps.drop 32).take 128 = manchester (bitsLow 64 f.toNat) → crc16 48 (fld f 47 0) = fld f 63 48 →
                  t.lanes[n].goodFrames = (if spaced then s.lanes[n].goodFrames + 1 else 1)
                  ∧ t.lanes[n].partnerReady = (if bitAt f 6 then s.lanes[n].partnerReady + 1 else 0))))
  ∧ (∀ (w : By) (n : Fin 64) (v : Word) (s : State),
        (bitAt s.lanes[n].ctl 31 = false → portOfLane s n = none → Accepted w (0x3000 + n.1) 1 (.lane n .lanectl) (.num (v ||| 0x80000000#32).toNat) s →
          ∃ t, exec (.laneEnable w n v) s = .next t ∧ t.lanes[n].tstate = .detect ∧ t.lanes[n].timeouts = 0 ∧ bitAt t.lanes[n].ctl 31 = true ∧ t.qm = s.qm)
        ∧ (bitAt s.lanes[n].ctl 31 = true → portOfLane s n = none → Accepted w (0x3000 + n.1) 1 (.lane n .lanectl) (.num (v &&& 0x7FFFFFFF#32).toNat) s →
          ∃ t, exec (.laneDisable w n v) s = .next t ∧ t.lanes[n].tstate = .disabled ∧ t.lanes[n].symLock = false ∧ bitAt t.lanes[n].ctl 31 = false
            ∧ t.qm = s.qm))

/-- The input's level: its rise locks clock and symbols, an announced idle keeps the training state, an unannounced fall is a loss of signal that
returns the lane to Detect, and so does an exit that does not lock. EIDLE_ENTER announces an idle that its LEAD further codewords bring. -/
def Obligations.SignalsRiseAndFall : Prop :=
  ∀ (n : Fin 64) (x : BitVec 256) (s : State), listening s n = true →
    (s.lanes[n].rxIdle = false → exec (.signalDetect n) s =
        .next (s.updLane n fun l => { l with sigdet := true, los := false, cdrLock := true, symLock := true }))
    ∧ (s.lanes[n].rxIdle = true → ∃ t, exec (.signalDetect n) s = .next t ∧ t.lanes[n].rxIdle = false ∧ t.lanes[n].exitCheck = true
        ∧ t.lanes[n].symLock = true ∧ t.lanes[n].cwLock = .search ∧ t.lanes[n].tstate = s.lanes[n].tstate ∧ t.heads = s.heads)
    ∧ (s.lanes[n].idleAnnounced = true → ∃ t, exec (.lossOfSignal n) s = .next t ∧ t.lanes[n].rxIdle = true ∧ t.lanes[n].symLock = false
        ∧ t.lanes[n].tstate = s.lanes[n].tstate ∧ t.lanes[n].los = s.lanes[n].los)
    ∧ (s.lanes[n].idleAnnounced = false → portOfLane s n = none → ∃ t, exec (.lossOfSignal n) s = .next t ∧ t.lanes[n].los = true
        ∧ t.lanes[n].sigdet = false ∧ t.lanes[n].symLock = false ∧ t.lanes[n].tstate = .detect)
    ∧ (s.lanes[n].rxIdle = true → portOfLane s n = none → ∃ t, exec (.exitLockFail n) s = .next t ∧ t.lanes[n].tstate = .detect
        ∧ (s.lanes[n].hold = false → t.lanes[n].cnt.exitFail = satInc s.lanes[n].cnt.exitFail) ∧ t.lanes[n].idleAnnounced = false)
    ∧ (s.lanes[n].tstate = .active → exec (.eidleEnter n x) s =
        .next (s.updLane n fun l => { l with idleAnnounced := true, idleLead := some (fld x 15 8) }))
    ∧ (s.lanes[n].tstate ≠ .active → exec (.eidleEnter n x) s = .next s)

/-- Windows, eye scans and the PRBS checker act on their lane alone. -/
def Obligations.LaneMeasurements : Prop :=
  ∀ (n : Fin 64) (s : State),
    (listening s n = true → s.lanes[n].locked = true → s.lanes[n].unframed = false → s.lanes[n].tstate ≠ .active →
      (s.lanes[n].winCorr ≤ s.lanes[n].ferNow.toNat → s.lanes[n].winUncorr = 0 → ∃ t, exec (.errorWindow n) s = .next t ∧ t.lanes[n].winCorr = 0
        ∧ t.lanes[n].crossed = 0 ∧ t.lanes[n].errLimit = s.lanes[n].errLimit ∧ t.router = s.router)
      ∧ (s.lanes[n].ferNow.toNat < s.lanes[n].winCorr ∨ s.lanes[n].winUncorr ≠ 0 → ∃ t, exec (.errorWindow n) s = .next t
        ∧ t.lanes[n].winCorr = 0 ∧ t.lanes[n].winUncorr = 0 ∧ t.lanes[n].errLimit = true ∧ t.lanes[n].exitCheck = false
        ∧ (s.lanes[n].exitCheck = false → t.lanes[n].crossed = s.lanes[n].crossed + 1 ∧ t.lanes[n].exitErr = s.lanes[n].exitErr)
        ∧ (s.lanes[n].exitCheck = true → t.lanes[n].crossed = 0 ∧ t.lanes[n].exitErr = true)))
    ∧ (∀ e, s.lanes[n].eye.running = true → ∃ t, exec (.eyeDone n e) s = .next t ∧ t.lanes[n].eye.running = false ∧ t.lanes[n].eye.done = true
        ∧ t.lanes[n].eye.cnt = BitVec.ofNat 48 (2 ^ fld s.lanes[n].eye.now 26 21)
        ∧ t.lanes[n].eye.err = BitVec.ofNat 48 (min e (2 ^ fld s.lanes[n].eye.now 26 21)) ∧ t = { s with lanes := t.lanes }
        ∧ ∀ k, k ≠ n → t.lanes[k] = s.lanes[k])
    ∧ (fld s.lanes[n].ctl 23 21 ≠ 0 → s.lanes[n].symLock = true → s.lanes[n].unframed = true ∨ s.lanes[n].locked = true → s.lanes[n].chk.locked = false →
        exec (.prbsCheckerLock n) s = .next (s.updLane n fun l => { l with chk := { l.chk with locked := true, since := 0, errAt := [] } }))
    ∧ (s.lanes[n].chk.locked = true → ∃ t, exec (.prbsCheckerLoss n) s = .next t ∧ t.lanes[n].chk = {}
        ∧ (s.lanes[n].hold = false → t.lanes[n].cnt.prbsLoss = satInc s.lanes[n].cnt.prbsLoss
            ∧ t.lanes[n].cnt.prbsBits = s.lanes[n].cnt.prbsBits - BitVec.ofNat 48 (min (min 1024 s.lanes[n].chk.since) s.lanes[n].cnt.prbsBits.toNat))
        ∧ (s.lanes[n].hold = true → t.lanes[n].cnt = s.lanes[n].cnt) ∧ t = { s with lanes := t.lanes })

/-- What is on the wire reads back: levels give the bits they were made of, Manchester coding its bits. A data codeword counts, as corrected where it
was and as uncorrectable where it cannot be; one of IDLE blocks moves the one-lane port's stream on by a slot; an unframed pattern goes to the
checker. An alignment codeword with a valid copy gives the lane its group number and lane identity, one without is missed and counted. Levels of any
other number than a codeword's 1,360 are no codeword. -/
def Obligations.CodewordsAndAlignment : Prop :=
  (∀ (prev : Level) (bs : List Bool), unManchester (manchester bs) = some bs ∧ (bs.length % 2 = 0 → bitsOf prev (levelsOf prev bs) = bs))
  ∧ (∀ (n : Fin 64) (levels : List Level) (bits : List Bool) (s : State), bits = bitsOf s.lanes[n].rxPrev (s.lanes[n].sliced levels) →
        (levels.length ≠ 1360 → exec (.codewordReceived n levels) s = .fault .illFormed)
        ∧ (levels.length = 1360 → listening s n = false → exec (.codewordReceived n levels) s = .next s)
        ∧ (levels.length = 1360 → listening s n = true → s.lanes[n].symLock = true → s.lanes[n].unframed = true →
            ∃ t, exec (.codewordReceived n levels) s = .next t ∧ t.lanes[n].chk = (s.lanes[n].check bits).chk ∧ t.lanes[n].cnt = (s.lanes[n].check bits).cnt
              ∧ t.lanes[n].tstate = s.lanes[n].tstate)
        ∧ (levels.length = 1360 → listening s n = true → s.lanes[n].symLock = true → s.lanes[n].unframed = false → s.lanes[n].locked = true →
            s.lanes[n].hold = false →
            (∀ fixed errs, rsDecode (symbolsOf bits) = some (fixed, errs) → ∃ t, exec (.codewordReceived n levels) s = .next t
              ∧ t.lanes[n].cnt.cwTotal = satInc s.lanes[n].cnt.cwTotal ∧ t.lanes[n].cnt.cwUncorr = s.lanes[n].cnt.cwUncorr
              ∧ t.lanes[n].cnt.cwCorr = (if errs = [] then s.lanes[n].cnt.cwCorr else satInc s.lanes[n].cnt.cwCorr)
              ∧ (errs ≠ [] → t.lanes[n].cnt.corrSym = satAdd s.lanes[n].cnt.corrSym errs.length))
            ∧ (∀ fixed errs p, rsDecode (symbolsOf bits) = some (fixed, errs) →
                (blocksOf (scramble s.lanes[n].descr (messageBits fixed)).1).all isIdle = true → s.lanes[n].idleLead = none → portOfLane s n = some p →
                s.ports[p].running = true → s.ports[p].replay = none → s.ports[p].roles = [n] → s.lanes[n].slots = [] →
                cseqUpTo s.ports[p].nextSlot (s.lanes[n].rxAseq * 1024 + s.lanes[n].rxIndex) = true →
                ∃ t, exec (.codewordReceived n levels) s = .next t ∧ t.ports[p].nextSlot = (s.lanes[n].rxAseq * 1024 + s.lanes[n].rxIndex + 1) % 2 ^ 42
                  ∧ t.lanes[n].slots = [] ∧ t.lanes[n].idleCount = s.lanes[n].idleCount + 1 ∧ t.heads = s.heads)
            ∧ (rsDecode (symbolsOf bits) = none → ∃ t, exec (.codewordReceived n levels) s = .next t
              ∧ t.lanes[n].cnt.cwTotal = satInc s.lanes[n].cnt.cwTotal ∧ t.lanes[n].cnt.cwUncorr = satInc s.lanes[n].cnt.cwUncorr
              ∧ t.lanes[n].cnt.cwCorr = s.lanes[n].cnt.cwCorr)))
  ∧ (∀ (n : Fin 64) (levels : List Level) (exit : Bool) (s : State),
        (levels.length ≠ 1360 → exec (.alignmentCodeword n levels exit) s = .fault .illFormed)
        ∧ (levels.length = 1360 → listening s n = true → s.lanes[n].symLock = true → s.lanes[n].unframed = false →
            s.lanes[n].tstate = .lock ∨ s.lanes[n].tstate = .exchange ∨ s.lanes[n].tstate = .active → s.lanes[n].cwLock = .locked → s.lanes[n].hold = false →
            (∀ f : BitVec 80, crc16 64 (fld f 63 0) = fld f 79 64 → fld f 41 32 = 0 → s.lanes[n].sliced levels = alignmentLevels f.toNat →
              ∃ t, exec (.alignmentCodeword n levels exit) s = .next t ∧ t.lanes[n].rxAseq = fld f 31 0 ∧ t.lanes[n].rxLid = fld f 47 42
                ∧ t.lanes[n].missed = 0 ∧ t.lanes[n].cwLock = .locked ∧ t.lanes[n].cnt.cwTotal = satInc s.lanes[n].cnt.cwTotal
                ∧ t.lanes[n].cnt.cwUncorr = s.lanes[n].cnt.cwUncorr)
            ∧ (validCopy (copiesIn (s.lanes[n].sliced levels)) = none → exit = false → s.lanes[n].missed < 3 →
              ∃ t, exec (.alignmentCodeword n levels exit) s = .next t ∧ t.lanes[n].rxAseq = (s.lanes[n].rxAseq + 1) % 2 ^ 32
                ∧ t.lanes[n].missed = s.lanes[n].missed + 1 ∧ t.lanes[n].cwLock = .locked ∧ t.lanes[n].winUncorr = s.lanes[n].winUncorr
                ∧ t.lanes[n].cnt.cwUncorr = satInc s.lanes[n].cnt.cwUncorr)))

/-- Capability exchange: CAPS are kept with the lower of the two versions and acknowledged, and the acknowledgement of the device's own makes the lane
Active once both are acknowledged. -/
def Obligations.CapabilitiesAreExchanged : Prop :=
  ∀ (n : Fin 64) (x : BitVec 256) (s : State), s.lanes[n].tstate = .exchange →
    (∃ t, exec (.caps n x) s = .next t ∧ t.lanes[n].caps = some (capsOf x)
      ∧ t.lanes[n].ver = Fin.ofNat 4 (min s.lanes[n].offer (offered (capsOf x)).1) ∧ ((offered (capsOf x)).1 ≠ 0 → t.lanes[n].partnerAcked = true))
    ∧ (s.lanes[n].ver ≠ 0 → fld x 9 8 = s.lanes[n].ver.1 → fld x 41 10 = Config.serial.toNat % 2 ^ 32 →
        ∃ t, exec (.capsAck n x) s = .next t ∧ t.lanes[n].ownAcked = true
          ∧ (s.lanes[n].partnerAcked = true → t.lanes[n].tstate = .active) ∧ (s.lanes[n].partnerAcked = false → t.lanes[n].tstate = .exchange))

/-- Replay on a K3 port: a request is sent again at most three times, the awaited start ends it, and its time-out takes the port down. The port's
timers and faults: UP_TIME and EIDLE_MAX set their sticky bits, the latter once in an idle; EIDLE_ENTER goes to every Active lane of a port that is
to idle; a fault of the standby takes its readiness; and a quadrant's regular alignment codeword advances its group counter and leaves on its
lanes. -/
def Obligations.PortTimersAndReplays : Prop :=
  (∀ (p : Fin 16) (n : Fin 64) (r : Replay) (x : BitVec 256) (s : State), s.ports[p].replay = some r →
        (r.repeats < 3 → ∃ t, exec (.replayReqResend p) s = .next t ∧ t.ports[p].replay = some { r with repeats := r.repeats + 1 }
          ∧ t.ports[p].state = s.ports[p].state ∧ t.heads = s.heads ∧ t.qm = s.qm)
        ∧ (¬ r.repeats < 3 → exec (.replayReqResend p) s = .next s)
        ∧ (∃ t, exec (.replayTimeout p) s = .next t ∧ t.ports[p].state = .down ∧ t.ports[p].replay = none ∧ t.ports[p].sbReady = false)
        ∧ (portOfLane s n = some p → s.ports[p].running = true → fld x 15 8 = r.rseq.toNat → s.lanes[n].tstate = .active → bitAt x 65 = false → r.move = false →
            s.ports[p].owed = [] →
            ∃ t, exec (.replayStart n x) s = .next t ∧ t.ports[p].state = .up ∧ t.ports[p].replay = none ∧ t.ports[p].replays = satInc s.ports[p].replays
              ∧ t.ports[p].roles = s.ports[p].roles)
        ∧ (portOfLane s n = some p → s.ports[p].running = true → fld x 15 8 = r.rseq.toNat → s.lanes[n].tstate = .active → bitAt x 65 = true →
            ∃ t, exec (.replayStart n x) s = .next t ∧ t.ports[p].state = .down ∧ t.ports[p].replay = none))
  ∧ (∀ (p : Fin 16) (s : State),
        (bitAt s.ports[p].ctl 31 = true → bitAt s.ports[p].ctl 30 = true → s.ports[p].upTimer = true → s.ports[p].state ≠ .up →
          ∃ t, exec (.upTimeExpiry p) s = .next t ∧ t.ports[p].notUp = true ∧ t.ports[p].upTimer = false ∧ t.ports[p].state = s.ports[p].state
            ∧ t.lanes = s.lanes ∧ t.heads = s.heads)
        ∧ (s.ports[p].usEidle = true → s.ports[p].eidleMax ≠ 0 → s.ports[p].idleTold = false → ∃ t, exec (.eidleMaxExpiry p) s = .next t
            ∧ t.ports[p].longEidle = true ∧ t.ports[p].idleTold = true ∧ t.ports[p].state = s.ports[p].state ∧ t.lanes = s.lanes ∧ t.heads = s.heads)
        ∧ (s.ports[p].idleTold = true → exec (.eidleMaxExpiry p) s = .next s)
        ∧ (bitAt s.ports[p].ctl 31 = true → bitAt s.ports[p].ctl 28 = true → s.ports[p].running = true → s.ports[p].dsEidle = false →
            s.ports[p].dsLead = none →
            ∃ t, exec (.dsIdleEntry p) s = .next t ∧ t.ports[p].dsLead = some 17 ∧ t.ports[p].dsEidle = false
              ∧ (∀ n ∈ activeLanes s p, ∃ q ∈ t.lanes[n].txq, payload 0x12 [(8, 16)] ∈ q) ∧ t.ports[p].state = s.ports[p].state ∧ t.heads = s.heads)
        ∧ (∀ (n : Fin 64) (x : BitVec 256) (b : Fin 64), portOfLane s n = some p → s.ports[p].running = true → s.ports[p].ver = 3 →
            s.lanes[n].tstate = .active → bitAt x 11 = true → s.ports[p].standbyLane = some b → portOfLane s b = some p →
            s.ports[p].roles.contains b = false → s.ports[p].replay = none →
            ∃ t, exec (.laneFault n x) s = .next t ∧ t.ports[p].sbReady = false ∧ t.ports[p].state = s.ports[p].state ∧ t.ports[p].roles = s.ports[p].roles))
  ∧ (∀ (q : Fin 4) (s u : State), s.clk.good[(Fin.ofNat 23 (3 + q.1))] = true →
        u = { s with quads := modAt s.quads q fun k => { k with aseq := k.aseq + 1, alignSym := nextAlignSym k s.coreTime } } →
        ∃ t, exec (.regularAlignmentSend q) s = .next t ∧ t.quads = u.quads
          ∧ ((∀ k : Fin 64, fld s.lanes[k].ctl 30 29 = 0) → ∀ n : Fin 64, n.1 / 16 = q.1 → runs s n = true → s.lanes[n].txIdle = false →
              s.lanes[n].tstate = .active → fld s.lanes[n].ctl 26 24 = 0 →
              Tx.symbols n (invertLevels s.lanes[n].txInv (alignmentLevels (fieldBlock u n 0))) ∈ t.tx ∧ t.lanes[n].txPrev = 0))

/-- The timebase follows its source: one for each line clock edge, PTP time in nanoseconds, the next multiple of 4,096 at each mains edge, the phase
between them; an early mains edge is rejected and a lost mains clears its measurement. -/
def Obligations.TimebaseFollowsItsSource : Prop :=
  ∀ s : State, inReset .cue s = false → ringMaster s = false → anyRunning s = false →
    (∀ l, tbSrc s = 2 → tbChan s = l → exec (.lineClockEdge l) s = .next (s.updTb fun t => { t with tb := t.tb + 1 }))
    ∧ (∀ l, tbSrc s = 2 → tbChan s ≠ l → exec (.lineClockEdge l) s = .next s)
    ∧ (tbSrc s = 4 → exec .ptpTimeAdvance s = .next (s.updTb fun t => { t with tb := ptpTb s }))
    ∧ (tbSrc s = 3 → s.tb.edgeAt = none → s.tb.periods = [] → ∃ t, exec .mainsEdge s = .next t ∧ t.tb.tb = nextCycle s.tb.tb
        ∧ t.tb.edgeAt = some s.coreTime ∧ t.tb.mainsReject = s.tb.mainsReject ∧ t.tb.seqs = s.tb.seqs)
    ∧ (∀ at0, tbSrc s = 3 → s.tb.edgeAt = some at0 → s.tb.mainsPeriod ≠ 0 → 4 * (s.coreTime - at0) < 3 * s.tb.mainsPeriod.toNat →
        exec .mainsEdge s = .next (s.updTb fun t => { t with mainsReject := satInc t.mainsReject }))
    ∧ (∀ at0, tbSrc s = 3 → s.tb.edgeAt = some at0 → s.tb.mainsPeriod ≠ 0 →
        s.tb.tb.toNat % 4096 < min 4095 (4096 * (s.coreTime - at0) / s.tb.mainsPeriod.toNat) →
        exec .mainsPhaseStep s = .next (s.updTb fun t => { t with
          tb := BitVec.ofNat 48 (s.tb.tb.toNat / 4096 * 4096 + min 4095 (4096 * (s.coreTime - at0) / s.tb.mainsPeriod.toNat)) }))
    ∧ (tbSrc s = 3 → exec .mainsLoss s = .next (s.updTb fun t => { t with mainsPeriod := 0, periods := [], edgeAt := none }))

/-- A timebase that stands still fires nothing, and one that leaps by half its range is loaded: no cue is reached by it. Sequencers: RUN starts at
START in pass 1 and waits for a cue still to come, a stop ends a run at once and keeps its cursor, and the cue that a late change owes fires late, as
the last of its list ends the run. -/
def Obligations.CuesAndSequencers : Prop :=
  (∀ (rev : Bool) (c d t : BitVec 48), reaches rev c d t = true →
        c ≠ d ∧ (d - c).toNat ≠ 2 ^ 47 ∧ t ≠ c ∧ reaches (! rev) c d t = false ∧ (rev = false → beyond false d t = true) ∧ (rev = true → beyond true d t = true))
  ∧ (∀ (w : By) (i : Fin 16) (v : Word) (s : State),
        (∀ q, q = { s.tb.seqs[i] with ctl := (v ||| 0x80000000#32) &&& 0x60000000#32, state := .running, cursor := BitVec.ofNat 12 (fld s.tb.seqs[i].range 11 0)
                                      pass := 1, loopAddNow := s.tb.seqs[i].loopAdd, loopsNow := s.tb.seqs[i].loops, carry := none } →
          cueAct s q [] none true = .wait → Accepted w (0x7130 + i.1) 1 (.tb (.seqctl i)) (.num (v ||| 0x80000000#32).toNat) s →
          ∃ t, exec (.seqRun w i v) s = .next t ∧ t.tb.seqs[i] = q ∧ (∀ k, k ≠ i → t.tb.seqs[k] = s.tb.seqs[k]) ∧ t.tb.tb = s.tb.tb)
        ∧ (Accepted w (0x7130 + i.1) 1 (.tb (.seqctl i)) (.num (v &&& 0x7FFFFFFF#32).toNat) s →
          ∃ t, exec (.seqStop w i v) s = .next t ∧ t.tb.seqs[i].state ≠ .running ∧ t.tb.seqs[i].cursor = s.tb.seqs[i].cursor
            ∧ (s.tb.seqs[i].state = .running → t.tb.seqs[i].state = .idle) ∧ t.tb.tb = s.tb.tb)
        ∧ (∀ owed q, q = s.tb.seqs[i] → q.carry = some owed → inReset .cue s = false → q.state = .running → cueAct s q owed none true = .late →
            (cueAt s q.cursor).hi = 0 → fld q.range 27 16 ≤ q.cursor.toNat → q.loopsNow = 1 → q.pass = 1 →
            ∃ t, exec (.lateCueFire i) s = .next t ∧ t.tb.seqs[i].state = .done ∧ t.tb.seqs[i].late = true ∧ t.tb.seqs[i].fired = satInc q.fired
              ∧ t.tb.seqs[i].carry = none ∧ t.faults.giveway[rung3] = satInc s.faults.giveway[rung3] ∧ t.tb.tb = s.tb.tb))

/-- A trigger output: the oldest pending pulse raises the pin for its width, one that meets a pulse in progress lengthens it, and the end of the pulse
takes the pin back to rest. The history takes its samples newest first, at most 65,536; the PTP second raises its source on the router and nothing
else; PPS_IN is a time stamp on a follower that calibrates. -/
def Obligations.TriggersHistoryAndSeconds : Prop :=
  (∀ (n : Fin 32) (s : State),
        (∀ d rest, inReset .cue s = false → s.tb.trigs[n].line = d :: rest → s.tb.trigs[n].endAt = none →
          ∃ t, exec (.trigPulseStart n) s = .next t ∧ t.tb.trigs[n].line = rest ∧ t.tb.trigs[n].endAt = some (d + pulseWidth s.tb.trigs[n].cfgNow)
            ∧ t.tb.trigs[n].pulses = satInc s.tb.trigs[n].pulses ∧ t.pins.trig[n] = trigLevel s.tb.trigs[n].cfgNow true ∧ t.tx = s.tx ++ [.trigPulse n]
            ∧ (∀ k, k ≠ n → t.tb.trigs[k] = s.tb.trigs[k] ∧ t.pins.trig[k] = s.pins.trig[k]))
        ∧ (∀ d rest, inReset .cue s = false → s.tb.trigs[n].line = d :: rest → s.tb.trigs[n].endAt.isSome = true →
          exec (.trigPulseStart n) s = .next (s.updTrig n fun k =>
            { k with line := rest, endAt := some (d + pulseWidth s.tb.trigs[n].cfgNow), merged := satInc k.merged }))
        ∧ (s.tb.trigs[n].endAt.isSome = true → ∃ t, exec (.trigPulseEnd n) s = .next t ∧ t.tb.trigs[n].endAt = none ∧ t.tb.trigs[n].line = s.tb.trigs[n].line
            ∧ (s.tb.trigs[n].configured = true → t.pins.trig[n] = trigLevel s.tb.trigs[n].cfg false ∧ t.tb.trigs[n].cfgNow = s.tb.trigs[n].cfg)
            ∧ (∀ k, k ≠ n → t.pins.trig[k] = s.pins.trig[k]))
        ∧ (s.tb.trigs[n].endAt = none → exec (.trigPulseEnd n) s = .next s))
  ∧ (∀ s : State,
        (inReset .cue s = false → ∃ t e, exec .histSample s = .next t
            ∧ t.tb.hist = (e :: s.tb.hist).take 65536 ∧ e.core = s.coreTime ∧ e.tb = s.tb.tb ∧ e.ptpS = s.ptp.sec ∧ t.tb.hist.length ≤ 65536
            ∧ t = { s with tb := t.tb })
        ∧ exec .ptpSecond s = .next (publish 0x0323 s)
        ∧ (∀ k, s.pins.clkm = 3 → s.tb.ring.calSeen = true → exec (.ppsInEdge k) s = .next (s.updRing fun r => { r with ppsAt := some k }))
        ∧ (∀ k, s.pins.clkm = 2 → s.ptp.ns < 500000000 → ∃ t, exec (.ppsInEdge k) s = .next t ∧ t.tb = s.tb ∧ t.pins = s.pins
            ∧ (s.ptp.ns ≤ 1000000 → t.ptp.offset = BitVec.ofNat 32 s.ptp.ns ∧ t.ptp.sec = s.ptp.sec))
        ∧ (s.pins.clkm = 0 → ∀ k, exec (.ppsInEdge k) s = .next s))

/-- The ring: a follower keeps each word's DELTA until its Array instant and then applies it, a word of a frame that fails its check is counted, the
fourth good frame gives the lock, and the fourth bad one or an idle master's frame loses it. Calibration of the Array: a follower keeps its
measurement, or reports CAL_BAD where it cannot use it, the master keeps the round trip, and a drift of more than 100 ps is reported. -/
def Obligations.RingAndArray : Prop :=
  (∀ s : State, bitAt s.tb.ring.ctl 31 = true →
        (∀ w clap k, ringFollower s = true → s.rst.level ≠ some 0 → ∃ t, exec (.ringWord w clap k) s = .next t
            ∧ t.tb.ring.deltas = s.tb.ring.deltas ++ [deltaOf w] ∧ t.tb.tb = s.tb.tb
            ∧ t.tb.ring.nibbles = (if clap then [w.toNat / 4096] else (s.tb.ring.nibbles ++ [w.toNat / 4096]).take 65) ∧ t.tx = s.tx ++ [.ring clap w.toNat])
        ∧ (∀ d rest, ringFollower s = true → s.tb.ring.deltas = d :: rest → s.tb.ring.lock = true → tbSrc s = 5 → inReset .cue s = false →
            anyRunning s = false → exec .ringApply s = .next ((s.updRing fun r => { r with deltas := rest }).updTb fun t => { t with tb := t.tb + BitVec.ofInt 48 d }))
        ∧ (∀ d rest, ringFollower s = true → s.tb.ring.deltas = d :: rest → s.tb.ring.lock = false →
            exec .ringApply s = .next (s.updRing fun r => { r with deltas := rest }))
        ∧ (inReset .cue s = false → s.tb.ring.nibbles.length ≠ 64 → ∃ t, exec .ringFrame s = .next t ∧ t.tb.ring.crcErr = satInc s.tb.ring.crcErr
            ∧ t.tb.ring.goodRun = 0 ∧ (s.tb.ring.badRun = 3 → t.tb.ring.lock = false) ∧ (s.tb.ring.badRun = 0 → t.tb.ring.lock = s.tb.ring.lock)
            ∧ t.tb.tb = s.tb.tb)
        ∧ (∀ f : BitVec 256, f = BitVec.ofNat 256 (s.tb.ring.nibbles.foldr (fun n acc => n + 16 * acc) 0) → inReset .cue s = false →
            s.tb.ring.nibbles.length = 64 → crc16 240 (fld f 239 0) = fld f 255 240 →
            (bitAt f 8 = true → ∃ t, exec .ringFrame s = .next t ∧ t.tb.ring.masterIdle = true ∧ t.tb.ring.lock = false ∧ t.tb.ring.crcErr = s.tb.ring.crcErr
              ∧ t.tb.tb = s.tb.tb)
            ∧ (bitAt f 8 = false → s.tb.ring.lock = false → ∃ t, exec .ringFrame s = .next t ∧ t.tb.ring.masterIdle = false
              ∧ t.tb.ring.lock = decide (3 ≤ s.tb.ring.goodRun) ∧ t.tb.ring.crcErr = s.tb.ring.crcErr ∧ t.tb.tb = s.tb.tb)))
  ∧ (∀ (rt : Nat) (s : State),
        (ringFollower s = true → 1024 ≤ s.tb.ring.pairs.length → anyTake s = true → ∃ t, exec .calMeasureDone s = .next t ∧ t.tb.ring.calBad = true
          ∧ t.tb.ring.calDone = false ∧ t.tb.ring.pairs = [] ∧ t.tb.tb = s.tb.tb)
        ∧ (∀ q : Int, ringFollower s = true → 1024 ≤ s.tb.ring.pairs.length → anyRunning s = false → anyTake s = false →
            (∀ x ∈ s.tb.ring.pairs, ∀ y ∈ s.tb.ring.pairs, x - y ≤ 4) → q = (25 * s.tb.ring.pairs.sum + 2048 * s.tb.ring.ppsFlight.toNat) / 25600 →
            1537 ≤ s.tb.ring.adelay.toNat - q →
            ∃ t d, exec .calMeasureDone s = .next t ∧ (d = q ∨ d = q + 1) ∧ t.tb.ring.calDone = true ∧ t.tb.ring.dMeas = BitVec.ofInt 32 d
              ∧ t.tb.ring.localDelay = BitVec.ofInt 32 (s.tb.ring.adelay.toNat - d) ∧ t.tb.ring.pairs = [] ∧ t.tb.tb = s.tb.tb)
        ∧ (ringFollower s = true → s.tb.ring.pairs.length < 1024 → exec .calMeasureDone s = .next s)
        ∧ (ringMaster s = true → s.tb.ring.cal = true → exec (.calEnd rt) s = .next (s.updRing fun r => { r with cal := false, dMeas := BitVec.ofNat 32 rt }))
        ∧ (ringMaster s = true → s.tb.ring.cal = false → s.tb.ring.dMeas ≠ 0 → s.tb.ring.dMeas.toNat + 8 < rt ∨ rt + 8 < s.tb.ring.dMeas.toNat →
            ∃ t, exec (.driftCheck rt) s = .next t ∧ t.tb.ring.drift = true ∧ t.tb.ring.dMeas = s.tb.ring.dMeas ∧ t.tb.tb = s.tb.tb)
        ∧ (ringMaster s = true → s.tb.ring.cal = false → s.tb.ring.dMeas.toNat ≤ rt + 8 → rt ≤ s.tb.ring.dMeas.toNat + 8 → exec (.driftCheck rt) s = .next s))

/-- An accepted change of one line counts by the mode's rule, a change of both is illegal, in the counting modes 0 to 2; the compare unit is not armed
and the index is inactive. In mode 0 a full cycle of the four states counts four one way and the same four back: no state is counted twice. -/
def Obligations.EncoderEdges : Prop :=
  (∀ (n : Fin 16) (a b : Bool) (s : State), inReset (.enc n) s = false → s.encs[n].en = true → s.encs[n].mode ≤ 2 → s.encs[n].cmp.arm = false →
        s.encs[n].i = bitAt s.encs[n].ctl 26 → ¬ (tbSrc s = 1 ∧ tbChan s = n) →
        (¬ (a ≠ s.encs[n].a ∧ b ≠ s.encs[n].b) → ∃ t, exec (.encEdge n a b) s = .next t
          ∧ t.encs[n].count = s.encs[n].count + BitVec.ofInt 48 (if bitAt s.encs[n].ctl 27 then - quadDelta s.encs[n].mode s.encs[n].a s.encs[n].b a b
              else quadDelta s.encs[n].mode s.encs[n].a s.encs[n].b a b)
          ∧ t.encs[n].a = a ∧ t.encs[n].b = b ∧ t.encs[n].posValid = s.encs[n].posValid ∧ (∀ k, k ≠ n → t.encs[k] = s.encs[k]) ∧ t.tb = s.tb)
        ∧ (a ≠ s.encs[n].a → b ≠ s.encs[n].b → ∃ t, exec (.encEdge n a b) s = .next t ∧ t.encs[n].illegal = true ∧ t.encs[n].posValid = false
          ∧ t.encs[n].illegalCnt = satInc s.encs[n].illegalCnt ∧ t.encs[n].count = s.encs[n].count))
  ∧ (∀ (mode : Nat) (a b c d : Bool), mode ≤ 2 → ¬ (a ≠ c ∧ b ≠ d) →
        quadDelta mode c d a b = - quadDelta mode a b c d
        ∧ quadDelta 0 false false true false + quadDelta 0 true false true true + quadDelta 0 true true false true + quadDelta 0 false true false false = 4)

/-- The index, standstill, a held hit and a sample out of its amplitude window. The channel's registers: a count is loaded, EN written 0 makes the
position invalid, a disarmed unit stays as it is but for ARM. -/
def Obligations.EncoderEventsAndRegisters : Prop :=
  (∀ (n : Fin 16) (s : State), inReset (.enc n) s = false →
        exec (.encStandstill n) s = .next (s.updEnc n fun e => { e with standstill := true })
        ∧ (s.encs[n].en = true → s.encs[n].g = false → fld s.encs[n].ctl 22 20 = 0 → s.encs[n].idxArm = false →
            ∃ t, exec (.encIndex n (! bitAt s.encs[n].ctl 26)) s = .next t ∧ t.encs[n].idxCount = s.encs[n].count ∧ t.encs[n].indexSeen = true
              ∧ t.encs[n].indexCnt = satInc s.encs[n].indexCnt ∧ t.encs[n].count = s.encs[n].count)
        ∧ (s.encs[n].en = true → s.encs[n].g = false → fld s.encs[n].ctl 22 20 = 0 → s.encs[n].idxArm = true → s.encs[n].cmp.arm = false →
            ¬ (tbSrc s = 1 ∧ tbChan s = n) → ∃ t, exec (.encIndex n (! bitAt s.encs[n].ctl 26)) s = .next t ∧ t.encs[n].count = s.encs[n].idxLoad
              ∧ t.encs[n].idxArm = false ∧ t.encs[n].posValid = true ∧ t.encs[n].idxCount = s.encs[n].count)
        ∧ (s.encs[n].cmp.held = true → ∃ t, exec (.heldHitPublish n) s = .next t ∧ t.encs[n].cmp.held = false
            ∧ t.encs[n].cmp.late = (s.encs[n].cmp.late || ! bitAt s.encs[n].cmp.ctl 27)
            ∧ t.encs[n].cmp.hits = s.encs[n].cmp.hits ∧ t.encs[n].count = s.encs[n].count)
        ∧ (s.encs[n].cmp.held = false → exec (.heldHitPublish n) s = .next s)
        ∧ (∀ sn cs, s.encs[n].en = false ∨ s.encs[n].mode ≠ 5 → exec (.analogSample n sn cs) s = .next s))
  ∧ (∀ (w : By) (n : Fin 16) (v : Word) (c : BitVec 48) (s : State),
        (s.encs[n].cmp.arm = false → ¬ (tbSrc s = 1 ∧ tbChan s = n) → Accepted w (0x7000 + n.1) 3 (.enc n .count) (.num c.toNat) s →
          ∃ t, exec (.countLoad w n c) s = .next t ∧ t.encs[n].count = c ∧ t.encs[n].posValid = true ∧ (∀ k, k ≠ n → t.encs[k] = s.encs[k]) ∧ t.tb = s.tb)
        ∧ (Accepted w (0x7000 + n.1) 1 (.enc n .encctl) (.num (v &&& 0x7FFFFFFF#32).toNat) s →
          ∃ t, exec (.encDisable w n v) s = .next t ∧ t.encs[n].en = false ∧ t.encs[n].posValid = false ∧ t.encs[n].count = s.encs[n].count)
        ∧ (Accepted w (0x7000 + n.1) 1 (.enc n .encctl) (.num (v ||| 0x80000000#32).toNat) s →
          ∃ t, exec (.encEnable w n v) s = .next t ∧ t.encs[n].en = true ∧ t.encs[n].runLen = 0 ∧ t.encs[n].phase = none ∧ t.encs[n].count = s.encs[n].count)
        ∧ (Accepted w (0x7000 + n.1) 0x20 (.enc n .cmpctl) (.num (v &&& 0x7FFFFFFF#32).toNat) s →
          ∃ t, exec (.cmpDisarm w n v) s = .next t ∧ t.encs[n].cmp.arm = false ∧ t.encs[n].cmp.target = s.encs[n].cmp.target
            ∧ t.encs[n].cmp.hits = s.encs[n].cmp.hits))

/-- A sample of sine and cosine whose amplitude lies within the window gives the phase, within one unit of the exact one, and counts by its step from
the phase before; a sample out of it counts towards the amplitude fault. -/
def Obligations.AnalogSamplesGiveThePhase : Prop :=
  ∀ (n : Fin 16) (sn cs s1 c1 : Int) (s : State), inReset (.enc n) s = false → s.encs[n].en = true → s.encs[n].mode = 5 →
    s1 = clampI (-8192) 8191 sn - toSigned 24 s.encs[n].sinOfs.toNat →
    c1 = ((clampI (-8192) 8191 cs - toSigned 24 s.encs[n].cosOfs.toNat) * s.encs[n].cosGain.toNat + 2 ^ 13) / 2 ^ 14 →
    (s.encs[n].amin.toNat ^ 2 ≤ (s1 * s1 + c1 * c1).toNat → (s1 * s1 + c1 * c1).toNat ≤ s.encs[n].amax.toNat ^ 2 →
      s.encs[n].ampOut = false → s.encs[n].i = bitAt s.encs[n].ctl 26 →
      ∃ t k p, exec (.analogSample n sn cs) s = .next t ∧ k < 3 ∧ p = (phaseOf s1 c1 + 4095 + k) % 4096 ∧ t.encs[n].phase = some p
        ∧ (s.encs[n].phase = none → t.encs[n].count = s.encs[n].count)
        ∧ (∀ was, s.encs[n].phase = some was →
            t.encs[n].count = s.encs[n].count + BitVec.ofInt 48 (if bitAt s.encs[n].ctl 27 then - phaseStep p was else phaseStep p was))
        ∧ t.encs[n].amp = BitVec.ofNat 24 ((s1 * s1 + c1 * c1).toNat.sqrt) ∧ t.encs[n].outRun = 0)
    ∧ (s.encs[n].amax.toNat ^ 2 < (s1 * s1 + c1 * c1).toNat → s.encs[n].ampOut = false → s.encs[n].awinN.toNat ≤ s.encs[n].outRun + 1 →
      ∃ t, exec (.analogSample n sn cs) s = .next t ∧ t.encs[n].ampFault = true ∧ t.encs[n].ampOut = true ∧ t.encs[n].posValid = false
        ∧ t.encs[n].ampFaults = satInc s.encs[n].ampFaults ∧ t.encs[n].count = s.encs[n].count)

/-- A task's row takes the task's activation and acts, or refuses and counts the refusal; without an activation nothing happens; of two tasks of which
one prevails, activated in one core clock, the one acts and the other is refused. -/
def Obligations.TasksActOnTheirActivation : Prop :=
  ∀ (c : Instr) (task : Task) (act : State → Option State) (k : Nat) (s u : State), taskRow c = some (task, act) →
    (s.router.activated = [(task, k)] → u = { s with router := { s.router with activated := [] } } →
      (∀ v, act u = some v → exec c s = .next v)
      ∧ (act u = none → (∀ i, c ≠ .takeStopTask i) → (∀ a, c ≠ .axisStartTask a) → exec c s = .next (dropTask task u)))
    ∧ (s.router.activated = [] → (∀ i, c ≠ .takeStopTask i) → exec c s = .next s)
    ∧ (∀ other, other ∈ beatenBy task → s.router.activated = [(task, k), (other, k)] → (∀ a, c ≠ .axisStartTask a) →
        exec c s = .next (dropTask task { s with router := { s.router with activated := [(other, k)] } }))
    ∧ (∀ other v, task ∈ beatenBy other → s.router.activated = [(other, k), (task, k)] →
        act (dropTask other { s with router := { s.router with activated := [] } }) = some v → exec c s = .next v)

/-- A channel's publishes, those of the oldest core clock that has any: masked by its herd they only mark it, within the holdoff they are dropped, and
otherwise they activate the enabled subscribers of the channel, in the order of their numbers. -/
def Obligations.PublishesActivateSubscribers : Prop :=
  ∀ (c : Fin 128) (k u : Chan) (t1 n : Nat) (rest : List (Nat × Nat)) (s : State), inReset .router s = false → k = s.router.chans[c] →
    u = { k with pend := rest, published := satAdd k.published n, fired := true, lastTime := BitVec.ofNat 64 t1 } →
    (k.pend = [] → exec (.routerPublish c) s = .next s)
    ∧ (k.pend = (t1, n) :: rest → bitAt s.router.herdEn (c.1 / 8) = false → exec (.routerPublish c) s = .next (s.updChan c fun _ => { u with masked := true }))
    ∧ (∀ t0, k.pend = (t1, n) :: rest → bitAt s.router.herdEn (c.1 / 8) = true → (∀ m, rawUnit s c m = false) → k.lastDelivered = some t0 →
        t1 < t0 + fld k.cfg 15 0 →
        exec (.routerPublish c) s = .next (s.updChan c fun _ => { u with recursion := true, holdDrops := satInc k.holdDrops }))
    ∧ (k.pend = (t1, n) :: rest → bitAt s.router.herdEn (c.1 / 8) = true → (∀ m, rawUnit s c m = false) →
        (∀ t0, k.lastDelivered = some t0 → t0 + fld k.cfg 15 0 ≤ t1) →
        ∃ t, exec (.routerPublish c) s = .next t ∧ t.router.chans = modAt s.router.chans c (fun _ =>
            { u with delivered := satInc k.delivered, lastDelivered := some t1 })
          ∧ t.router.activated = s.router.activated ++ ((subscribers s c).filter fun x => ! isRaw s x).map (fun x => (x, t1))
          ∧ (n = 1 → t.router.tasks = s.router.tasks) ∧ t.router.units = s.router.units ∧ t = { s with router := t.router })

/-- A channel with EN = 0 ignores every publisher: whatever event is published, it counts nothing and sets no flag; SW_PUBLISH on it leaves the router
as it is. -/
def Obligations.DisabledChannelsIgnorePublishers : Prop :=
  ∀ (c : Fin 128) (s : State), bitAt s.router.chans[c].cfg 31 = false →
    (∀ code, (publish code s).router.chans[c] = s.router.chans[c])
    ∧ (∀ (w : By) (v : Word), v.toNat = c.1 → Accepted w 0x7416 9 (.router .swPublish) (.num v.toNat) s → ∃ t, exec (.swPublish w v) s = .next t
        ∧ t.router = s.router)

/-- SW_PUBLISH publishes on the channel written, in the core clock of the write, and merges with the other publishes of that core clock: with no earlier
one waiting, ROUTER_PUBLISH then processes them as one event. A value above 127 is refused with RANGE. -/
def Obligations.SoftwarePublishes : Prop :=
  ∀ (w : By) (v : Word) (s : State),
    (∀ c : Fin 128, v.toNat = c.1 → Accepted w 0x7416 9 (.router .swPublish) (.num v.toNat) s → inReset .router s = false → bitAt s.router.chans[c].cfg 31 = true →
      ∃ t, exec (.swPublish w v) s = .next t ∧ t.router.chans[c].pend = addPend s.coreTime s.router.chans[c].pend
        ∧ (∀ k, k ≠ c → t.router.chans[k] = s.router.chans[k]) ∧ t.mram = s.mram ∧ ∃ u, exec (.routerPublish c) t = .next u
        ∧ (∀ n, (s.router.chans[c].pend = [] ∧ n = 0) ∨ s.router.chans[c].pend = [(s.coreTime, n)] → u.router.chans[c].lastTime = BitVec.ofNat 64 s.coreTime
            ∧ u.router.chans[c].published = satAdd s.router.chans[c].published (n + 1) ∧ ∀ e ∈ u.router.chans[c].pend, s.coreTime < e.1))
    ∧ (127 < v.toNat → w.path = .firmware → firmwareRuns s = true → inReset .router s = false → privRefused w (.router .swPublish) (.num v.toNat) s = false →
      ∃ t, exec (.swPublish w v) s = .next t ∧ t.reply.status = .range ∧ t.router = s.router)

/-- A step moves the position by one in the leg's direction; in step mode MSTEP rises, in bridge mode the microstep index turns; the last step of a
move settles the axis, and a homing search beyond its bound is a fault. Nothing but the axis and its pins changes. Settling ends in Idle with its
publish, the rest delay ends at rest, a limit that becomes active ahead of a move stops it at once and trips, one that becomes inactive is noted with
its time, and the home input is followed. -/
def Obligations.AxisMotionAndInputs : Prop :=
  (∀ (a : Fin 8) (x : Axis) (s : State), x = s.axes[a] → inReset (.axis a) s = false →
        (x.turning = false → exec (.stepPulse a) s = .next s)
        ∧ (x.turning = true → (∀ b, homeBound x = some b → x.homeCount < b) → x.len ≠ some (x.done + 1) → ∃ t, exec (.stepPulse a) s = .next t
            ∧ t.axes[a].pos = (if x.fwd then x.pos + 1 else x.pos - 1) ∧ t.axes[a].steps = satInc x.steps ∧ t.axes[a].done = x.done + 1
            ∧ t.axes[a].state = x.state ∧ t.axes[a].posValid = x.posValid
            ∧ (x.bridge = false → t.pins.mstep[a] = .high ∧ t.axes[a].fallAt = some (s.coreTime + fld x.stepNow 31 16) ∧ t.tx = s.tx ++ [.step a x.fwd]
                ∧ t.axes[a].e = x.e ∧ t.pins.mgate = s.pins.mgate)
            ∧ (x.bridge = true → x.frozen = false → t.tx = s.tx ∧ t.pins.mstep = s.pins.mstep
                ∧ t.axes[a].e = (if x.fwd != x.inv then x.e + 2 ^ (8 - x.subdiv) else x.e + 1024 - 2 ^ (8 - x.subdiv)) % 1024)
            ∧ (∀ k, k ≠ a → t.axes[k] = s.axes[k]) ∧ t = { s with axes := t.axes, pins := t.pins, tx := t.tx, draw := t.draw })
        ∧ (x.en = true → x.state = .moving → x.len = some (x.done + 1) → ∃ t, exec (.stepPulse a) s = .next t ∧ t.axes[a].state = .settling ∧ t.axes[a].vel = 0
            ∧ t.axes[a].pos = (if x.fwd then x.pos + 1 else x.pos - 1) ∧ t.axes[a].posValid = x.posValid
            ∧ t = { s with axes := t.axes, pins := t.pins, tx := t.tx, draw := t.draw })
        ∧ (∀ b, x.turning = true → homeBound x = some b → b ≤ x.homeCount → ∃ t, exec (.stepPulse a) s = .next t ∧ t.axes[a].homingFault = true
            ∧ t.axes[a].state = .idle ∧ t.axes[a].posValid = false ∧ t.axes[a].pos = x.pos ∧ t.axes[a].vel = 0
            ∧ t = { s with axes := t.axes, router := t.router }))
  ∧ (∀ (a : Fin 8) (x : Axis) (s : State), x = s.axes[a] → inReset (.axis a) s = false →
        (x.en = true → x.state = .settling → exec (.settleEnd a) s = .next (publish (0x02E0 + a.1) (s.updAxis a fun x => { x with state := .idle })))
        ∧ (x.state ≠ .settling → exec (.settleEnd a) s = .next s)
        ∧ (x.en = true → x.state = .idle → exec (.restDelayEnd a) s = .next (s.updAxis a fun x => { x with atRest := true }))
        ∧ (x.state ≠ .idle → exec (.restDelayEnd a) s = .next s)
        ∧ (∀ (rev level : Bool) (i : Fin 2), i = (if rev then 1 else 0) →
            ((level != x.limPol i) = x.lim[i] → exec (.limitInput a rev level) s = .next s)
            ∧ ((level != x.limPol i) = false → x.lim[i] = true → exec (.limitInput a rev level) s = .next (s.updAxis a fun x =>
                { x with lim := x.lim.set i.1 false i.2, limOff := x.limOff.set i.1 s.coreTime i.2 }))
            ∧ ((level != x.limPol i) = true → x.lim[i] = false → x.trip[i] = false → x.en = true → x.state = .moving → x.limEn i = true →
                x.fwd = (! rev) → ∃ t, exec (.limitInput a rev level) s = .next t ∧ t.axes[a].state = .settling ∧ t.axes[a].trip[i] = true
                  ∧ t.axes[a].lim[i] = true ∧ t.axes[a].vel = 0 ∧ t.axes[a].pos = x.pos
                  ∧ (x.vsafe.toNat < x.vel.natAbs → t.axes[a].posValid = false ∧ t.axes[a].posLost = true)
                  ∧ (x.vel.natAbs ≤ x.vsafe.toNat → t.axes[a].posValid = x.posValid) ∧ t = { s with axes := t.axes, router := t.router })
            ∧ ((level != x.limPol i) = true → x.lim[i] = false → x.trip[i] = true → x.state = .idle → ∃ t, exec (.limitInput a rev level) s = .next t
                  ∧ t.axes[a].chatter = satInc x.chatter ∧ t.axes[a].lim[i] = true ∧ t.axes[a].state = .idle ∧ t = { s with axes := t.axes }))
        ∧ (∀ level, x.state ≠ .homing → exec (.homeInput a level) s = .next (s.updAxis a fun k => { k with home := level != bitAt x.swcfg 15 }))
        ∧ (∀ level, (level != bitAt x.swcfg 15) = true → x.home = false → x.en = true → x.state = .homing → x.method = 0 → x.homeStep = 1 →
            ∃ t, exec (.homeInput a level) s = .next t ∧ t.axes[a].home = true ∧ t.axes[a].state = .homing
              ∧ (t.axes[a].homeStep = 2 ∨ t.axes[a].homeStep = 3) ∧ t.axes[a].pos = x.pos ∧ t = { s with axes := t.axes, pins := t.pins, draw := t.draw }))

/-- The chopper's cycle: mask, drive, fast decay, slow decay and the next cycle with its band tracked; and in no state of a phase are both gates of
one leg on. -/
def Obligations.ChopperCycle : Prop :=
  ∀ (a : Fin 8) (p : Fin 2) (x : Axis) (k : Phase) (s : State), x = s.axes[a] → k = x.phases[p] →
    (chopping a s = false → ∀ sense, exec (.chopMaskEnd a p sense) s = .next s ∧ exec (.chopCeiling a p) s = .next s
      ∧ exec (.fastDecayEnd a p) s = .next s ∧ exec (.chopDecayEnd a p) s = .next s)
    ∧ (chopping a s = true →
        (∀ sense, k.st = .mask → ∃ t, exec (.chopMaskEnd a p sense) s = .next t ∧ t.axes[a].phases[p].low = decide (sense < x.floor p)
          ∧ (sense < x.ceiling p → t.axes[a].phases[p].st = .drive)
          ∧ (x.ceiling p ≤ sense → t.axes[a].phases[p].st = if fld k.time 22 14 = 0 then .slow else .fast)
          ∧ t = { s with axes := t.axes, pins := t.pins } ∧ ∀ b, b ≠ a → t.axes[b] = s.axes[b])
        ∧ (k.st = .drive → ∃ t, exec (.chopCeiling a p) s = .next t ∧ t.axes[a].phases[p] = { k with st := if fld k.time 22 14 = 0 then .slow else .fast }
          ∧ t = { s with axes := t.axes, pins := t.pins } ∧ ∀ b, b ≠ a → t.axes[b] = s.axes[b])
        ∧ (k.st = .fast → ∃ t, exec (.fastDecayEnd a p) s = .next t ∧ t.axes[a].phases[p] = { k with st := .slow }
          ∧ t = { s with axes := t.axes, pins := t.pins } ∧ ∀ b, b ≠ a → t.axes[b] = s.axes[b])
        ∧ (k.st = .slow → k.w ≠ 0 → ∃ t, exec (.chopDecayEnd a p) s = .next t ∧ t.axes[a].phases[p].st = .mask ∧ t.axes[a].phases[p].time = x.choptime
          ∧ (bitAt x.curNow 31 = false → t.axes[a].phases[p].band = k.band)
          ∧ (bitAt x.curNow 31 = true → k.low = true → t.axes[a].phases[p].band = min (fld x.curNow 7 0) (k.band + 1))
          ∧ (bitAt x.curNow 31 = true → k.low = false → t.axes[a].phases[p].band = min (fld x.curNow 7 0) (k.band - 1))
          ∧ t = { s with axes := t.axes, pins := t.pins } ∧ ∀ b, b ≠ a → t.axes[b] = s.axes[b]))
    ∧ ¬ (0 ∈ k.gates ∧ 1 ∈ k.gates) ∧ ¬ (2 ∈ k.gates ∧ 3 ∈ k.gates)

/-- The control instructions of a channel with nothing in flight: LOOP, JUMP, WAIT, FENCE without a flush, SIGNAL without an effect, and END. The
channel's own registers change as the manual says and nothing else does. An illegal instruction, a program word that will not come and a spent budget
halt the channel with the cause. -/
def Obligations.DmaControlInstructions : Prop :=
  (∀ (c : Fin 512) (w x : BitVec 64) (d : Dma) (s : State), d = s.dma[c] → onlyFlights c [] s →
        (executes c 9 w x s →
          (∀ u, fld w 59 58 = 0 ∨ (fld w 59 58 = 1 ∧ d.z = true) ∨ (fld w 59 58 = 2 ∧ d.z = false) →
            u = s.updDma c (fun _ => { fetched d 1 with pc := BitVec.ofNat 32 (fld w 31 0), prefetch := [], fetchOut := false, fetchBad := false }) →
            (programWord c 0 u).isSome = true → exec (.dmaJump c) s = .next u)
          ∧ (∀ u, (fld w 59 58 = 1 ∧ d.z = false) ∨ (fld w 59 58 = 2 ∧ d.z = true) → u = s.updDma c (fun _ => fetched d 1) →
            (programWord c 0 u).isSome = true → exec (.dmaJump c) s = .next u))
        ∧ (executes c 5 w x s → ∀ (n : Fin 4) (v : Nat) (u : State), n = Fin.ofNat 4 (fld w 59 58) → fld w 55 32 ≠ 0 →
            v = (if d.live[n] then d.c[n].toNat else fld w 55 32) - 1 →
            u = s.updDma c (fun _ =>
              let e := { fetched d 1 with c := d.c.set n.1 (BitVec.ofNat 32 v) n.2, live := d.live.set n.1 (decide (0 < v)) n.2 }
              if 0 < v then { e with pc := BitVec.ofNat 32 (fld w 31 0), prefetch := [], fetchOut := false, fetchBad := false } else e) →
            (programWord c 0 u).isSome = true → exec (.dmaLoop c) s = .next u)
        ∧ (executes c 6 w x s →
            (∀ u, u = s.updDma c (fun _ => { fetched d 1 with count := 0, state := .waiting, wait := some (w, s.coreTime) }) →
              waitHolds c w s.coreTime s = false → exec (.dmaWait c) s = .next u)
            ∧ (∀ u, fld w 59 57 = 2 → fld w 31 0 ≤ d.doorbell.toNat →
              u = s.updDma c (fun _ => { fetched d 1 with count := 0, doorbell := d.doorbell - BitVec.ofNat 32 (fld w 31 0), z := true, wait := none }) →
              (programWord c 0 u).isSome = true → exec (.dmaWait c) s = .next u))
        ∧ (executes c 8 w x s → bitAt w 59 = false → ∀ u, u = s.updDma c (fun _ => fetched d 1) → (programWord c 0 u).isSome = true →
            exec (.dmaFence c) s = .next u)
        ∧ (executes c 7 w x s → bitAt w 59 = false → bitAt w 58 = false → bitAt w 57 = false →
            ∀ u, u = s.updDma c (fun _ => { fetched d 1 with count := 0, signals := satInc d.signals }) → (programWord c 0 u).isSome = true →
            exec (.dmaSignal c) s = .next u)
        ∧ (executes c 0 w x s → ∃ t, exec (.dmaEnd c) s = .next t ∧ t.dma[c].state = .done ∧ bitAt t.dma[c].intstat 4 = true ∧ t.dma[c].pc = d.pc + 1
            ∧ t.dma[c].a = d.a ∧ t.pstore = s.pstore ∧ (∀ k, k ≠ c → t.dma[k] = s.dma[k])))
  ∧ (∀ (c : Fin 512) (w : BitVec 64) (s : State), onlyFlights c [] s → dmaReady c s = some w → s.dma[c].hostProgram = false → s.dma[c].fence = none →
        (10 ≤ fld w 63 60 → s.dma[c].count < s.dma[c].budget.toNat → ∃ t, exec (.dmaIllegalOp c) s = .next t ∧ t.dma[c].state = .halted
          ∧ t.dma[c].halt = some .illegal ∧ t.dma[c].pc = s.dma[c].pc ∧ bitAt t.dma[c].intstat 3 = true ∧ t.dma[c].steps = s.dma[c].steps
          ∧ t.pstore = s.pstore ∧ (∀ k, k ≠ c → t.dma[k] = s.dma[k]))
        ∧ (10 ≤ fld w 63 60 → s.dma[c].budget.toNat ≤ s.dma[c].count → ∃ t, exec (.dmaIllegalOp c) s = .next t ∧ t.dma[c].state = .halted
          ∧ t.dma[c].halt = some .runaway ∧ t.dma[c].pc = s.dma[c].pc)
        ∧ (fld w 63 60 = 9 → s.dma[c].budget.toNat ≤ s.dma[c].count → ∃ t, exec (.dmaJump c) s = .next t ∧ t.dma[c].state = .halted
          ∧ t.dma[c].halt = some .runaway ∧ t.dma[c].pc = s.dma[c].pc)
        ∧ (fld w 63 60 = 3 → programWord c 1 s = none → ∃ t, exec (.dmaFill c) s = .next t ∧ t.dma[c].state = .halted ∧ t.dma[c].halt = some .fetch
          ∧ t.dma[c].pc = s.dma[c].pc + 1 ∧ t.dma[c].steps = s.dma[c].steps ∧ (∀ k, k ≠ c → t.dma[k] = s.dma[k]))
        ∧ (fld w 63 60 < 10 → exec (.dmaIllegalOp c) s = .next s))

/-- The transfers of a channel with nothing in flight. A fill of PSTORE waits for its write's acknowledgement with its bytes; a move, a gathering move
and a comparison inside PSTORE issue the first request they need, with every register as the instruction leaves it; a move out of its ring is a bad
step that moves nothing, and a comparison below address 0 gives Z = 0. -/
def Obligations.TransferInstructions : Prop :=
  ∀ (c : Fin 512) (w x : BitVec 64) (d : Dma) (s : State), d = s.dma[c] → onlyFlights c [] s →
    (∀ n : Fin 8, executes c 3 w x s → fld w 56 54 = 2 → n = Fin.ofNat 8 (fld w 50 48) → d.inRing n d.a[n].toNat (fld w 31 0) = true →
      d.a[n].toNat + fld w 31 0 ≤ 2 ^ 20 →
      ∃ t f, exec (.dmaFill c) s = .next t ∧ t.dma[c].flights = [f] ∧ f.bad = false ∧ f.opc = 3 ∧ f.pc = d.pc.toNat
        ∧ f.pieces = [{ id := d.nextId, st := .ack ((List.range (fld w 31 0)).map fun j => BitVec.ofNat 8 (x.toNat >>> (8 * (j % 8)))) [], src := 0, tab := 0
                        len := fld w 31 0, dst := d.a[n].toNat }]
        ∧ t.dma[c].a = (if bitAt w 45 then d.advance n (fld w 31 0) else d).a ∧ t.pstore = s.pstore ∧ t.mapStore = s.mapStore ∧ t.qm = s.qm)
    ∧ (∀ n m : Fin 8, executes c 1 w x s → n = Fin.ofNat 8 (fld w 53 51) → m = Fin.ofNat 8 (fld w 50 48) → fld w 59 57 = 2 → fld w 56 54 = 2 →
        bitAt w 47 = false → d.inRing n d.a[n].toNat (fld w 31 0) = true → d.inRing m d.a[m].toNat (fld w 31 0) = true →
        d.a[n].toNat % 4096 + fld w 31 0 ≤ 4096 → d.a[n].toNat + fld w 31 0 ≤ 2 ^ 20 → d.a[m].toNat + fld w 31 0 ≤ 2 ^ 20 → d.maxreq ≠ 0 →
        ∃ t f, exec (.dmaMove c) s = .next t ∧ t.dma[c].flights = [f] ∧ f.bad = false ∧ f.op = .move ∧ f.ssp = .pstore ∧ f.dsp = .pstore
          ∧ f.pieces = [{ id := d.nextId, st := .read, src := d.a[n].toNat, tab := 0, len := fld w 31 0, dst := d.a[m].toNat }]
          ∧ t.dma[c].a = (let e := if bitAt w 46 then d.advance n (fld w 31 0) else d; if bitAt w 45 then e.advance m (fld w 31 0) else e).a
          ∧ t.dma[c].steps = satInc d.steps ∧ t.dma[c].badsteps = d.badsteps ∧ t.pstore = s.pstore ∧ t.mapStore = s.mapStore ∧ t.qm = s.qm)
    ∧ (∀ n : Fin 8, executes c 1 w x s → n = Fin.ofNat 8 (fld w 53 51) → fld w 59 57 = 2 → bitAt w 47 = false → bitAt w 46 = false → bitAt w 45 = false →
        bitAt w 44 = false → bitAt w 43 = false → d.inRing n d.a[n].toNat (fld w 31 0) = false →
        ∃ t e rest, exec (.dmaMove c) s = .next t ∧ t.dma[c].flights = [] ∧ t.dma[c].badsteps = satInc d.badsteps ∧ t.dma[c].badlog = e :: rest
          ∧ e.pc = d.pc ∧ e.cause = .range ∧ e.op = 1 ∧ e.addr = d.a[n] ∧ bitAt t.dma[c].intstat 2 = true ∧ t.dma[c].a = d.a
          ∧ t.pstore = s.pstore ∧ t.mapStore = s.mapStore ∧ t.qm = s.qm)
    ∧ (executes c 2 w x s → ∃ t, exec (.dmaMovex c) s = .next t ∧ t.dma[c].steps = satInc d.steps ∧ t.dma[c].pc = d.pc + 2 ∧ t.pstore = s.pstore
        ∧ t.mapStore = s.mapStore)
    ∧ (∀ n m : Fin 8, executes c 2 w x s → fld w 31 0 = 1 → n = Fin.ofNat 8 (fld w 44 42) → m = Fin.ofNat 8 (fld w 50 48) → fld w 47 45 = 2 →
        fld w 59 57 = 2 → fld w 56 54 = 2 → d.inRing n d.a[n].toNat 4 = true → d.inRing m d.a[m].toNat (fld x 31 0) = true →
        d.a[n].toNat + 4 ≤ 2 ^ 20 → d.a[m].toNat + fld x 31 0 ≤ 2 ^ 20 → d.maxreq ≠ 0 →
        ∃ t f, exec (.dmaMovex c) s = .next t ∧ t.dma[c].flights = [f] ∧ f.bad = false ∧ f.tsp = .pstore
          ∧ f.pieces = [{ id := d.nextId, st := .table, src := 0, tab := d.a[n].toNat, len := fld x 31 0, dst := d.a[m].toNat }])
    ∧ (∀ n : Fin 8, executes c 4 w x s → n = Fin.ofNat 8 (fld w 53 51) →
        ((d.a[n].toNat : Int) + toSigned 32 (fld w 31 0) < 0 → ∃ t, exec (.dmaCmp c) s = .next t ∧ t.dma[c].z = false ∧ t.dma[c].flights = []
          ∧ t.dma[c].badsteps = satInc d.badsteps ∧ t.pstore = s.pstore ∧ t.qm = s.qm)
        ∧ (∀ a : Nat, (d.a[n].toNat : Int) + toSigned 32 (fld w 31 0) = a → fld w 59 57 = 2 → d.inRing n a 4 = true → a + 4 ≤ 2 ^ 20 → d.maxreq ≠ 0 →
            ∃ t f, exec (.dmaCmp c) s = .next t ∧ t.dma[c].flights = [f] ∧ f.bad = false ∧ f.op = .cmp (fld w 50 48) (fld x 63 32) (fld x 31 0)
              ∧ f.pieces = [{ id := d.nextId, st := .read, src := a, tab := 0, len := 4, dst := 0 }] ∧ t.dma[c].z = d.z ∧ t.dma[c].a = d.a
              ∧ t.dma[c].pc = d.pc + 2 ∧ t.pstore = s.pstore ∧ t.qm = s.qm))
    ∧ (∀ y, dmaReady c s = some y →
        (fld y 63 60 ≠ 1 → exec (.dmaMove c) s = .next s) ∧ (fld y 63 60 ≠ 2 → exec (.dmaMovex c) s = .next s)
        ∧ (fld y 63 60 ≠ 3 → exec (.dmaFill c) s = .next s) ∧ (fld y 63 60 ≠ 4 → exec (.dmaCmp c) s = .next s))

/-- What comes back to a channel: the acknowledgement of a write inside the device lands its bytes, a comparison's data set Z, a time-out marks the
step bad, an unknown answer is discarded, fetched words join the prefetch, waits end, and a draining channel goes Off. Program words of HOST: those
that come join the prefetch behind the words there, and a failed fetch halts a channel that has none left. -/
def Obligations.DmaAnswers : Prop :=
  (∀ (c : Fin 512) (d : Dma) (s : State), d = s.dma[c] → inReset (.dma c) s = false → d.hostProgram = false → d.fence = none →
        (∀ f p id bs bad poison, onlyFlights c [f] s → f.pieces = [p] → p.id = id → p.st = .ack bs bad → f.dsp = .pstore → p.dst + bs.length ≤ 2 ^ 20 →
          f.eoc = false → f.release = false →
          ∃ t, exec (.readResponse c id (.ok [] poison)) s = .next t ∧ t.pstore = s.pstore.write p.dst bs bad ∧ t.dma[c].flights = []
            ∧ t.dma[c].bytes = satAdd d.bytes (f.bytes + bs.length) ∧ t.dma[c].badsteps = d.badsteps ∧ t.mapStore = s.mapStore)
        ∧ (∀ f p id bs func mask value, onlyFlights c [f] s → f.pieces = [p] → f.op = .cmp func mask value → f.ssp = .host → p.id = id → p.st = .read →
          p.len = 4 → f.eoc = false → f.release = false → d.state = .running → (programWord c 0 s).isSome = true →
          ∃ t, exec (.readResponse c id (.ok bs false)) s = .next t ∧ t.dma[c].z = cmpHolds func (ofLe (padTo 4 bs) &&& mask) (value &&& mask)
            ∧ t.dma[c].flights = [] ∧ t.dma[c].badsteps = d.badsteps ∧ t.pstore = s.pstore)
        ∧ (∀ f p id, onlyFlights c [f] s → f.pieces = [p] → f.op = .move → f.ssp = .host → p.id = id → p.st = .read → f.bad = false → f.eoc = false →
          f.release = false → ∃ t e rest, exec (.requestTimeout c id) s = .next t ∧ t.dma[c].flights = [] ∧ t.dma[c].badsteps = satInc d.badsteps
            ∧ t.dma[c].badlog = e :: rest ∧ e.cause = .timeout ∧ e.addr = BitVec.ofNat 64 p.src ∧ t.pstore = s.pstore ∧ t.mapStore = s.mapStore)
        ∧ (∀ id r, onlyFlights c [] s → d.state ≠ .running → exec (.readResponse c id r) s = .next s ∧ exec (.requestTimeout c id) s = .next s)
        ∧ (d.state = .draining → d.flights = [] → exec (.dmaDrained c) s = .next (s.updDma c Dma.off))
        ∧ (d.state ≠ .draining → exec (.dmaDrained c) s = .next s)
        ∧ (∀ w t0 u, onlyFlights c [] s → d.state = .waiting → d.wait = some (w, t0) → fld w 59 57 = 2 → fld w 31 0 ≤ d.doorbell.toNat →
            u = s.updDma c (fun _ => { d with doorbell := d.doorbell - BitVec.ofNat 32 (fld w 31 0), z := true, wait := none, state := .running }) →
            (programWord c 0 u).isSome = true → exec (.waitSatisfied c) s = .next u)
        ∧ (∀ w t0 u, onlyFlights c [] s → d.state = .waiting → d.wait = some (w, t0) → fld w 55 32 ≠ 0 →
            u = s.updDma c (fun _ => { d with z := false, wait := none, state := .running }) →
            (programWord c 0 u).isSome = true → exec (.waitTimeout c) s = .next u)
        ∧ (d.wait = none → exec (.waitSatisfied c) s = .next s ∧ exec (.waitTimeout c) s = .next s))
  ∧ (∀ (c : Fin 512) (d : Dma) (s : State), d = s.dma[c] → inReset (.dma c) s = false → d.hostProgram = true → d.fetchOut = true → d.state = .running →
        (∀ ws, ws ≠ [] → ∃ t, exec (.fetchReturn c (some ws)) s = .next t ∧ t.dma[c].prefetch = (d.prefetch ++ ws).take 16 ∧ t.dma[c].pc = d.pc
          ∧ t.dma[c].state = .running ∧ (16 ≤ d.prefetch.length + ws.length → t.dma[c].fetchOut = false) ∧ (∀ k, k ≠ c → t.dma[k] = s.dma[k])
          ∧ t.pstore = s.pstore)
        ∧ (d.prefetch = [] → d.flights = [] → ∃ t, exec (.fetchReturn c none) s = .next t ∧ t.dma[c].state = .halted ∧ t.dma[c].halt = some .fetch
          ∧ t.dma[c].pc = d.pc ∧ bitAt t.dma[c].intstat 3 = true ∧ (∀ k, k ≠ c → t.dma[k] = s.dma[k]) ∧ t.pstore = s.pstore))

/-- RESUME continues a Halted channel at PC with the step count at 0, zeroes the failure count after PKT_FAULT, and keeps registers, Z and the taken
packet. -/
def Obligations.ResumeContinues : Prop :=
  ∀ (w : By) (c : Fin 512) (v : Word) (d : Dma) (s : State), d = s.dma[c] → d.state = .halted → bitAt v 31 = true → bitAt d.ctl 31 = true →
    bitAt v 30 = false → bitAt v 28 = false → d.hostProgram = false → fld v 25 24 = 0 → (programWord c 0 s).isSome = true →
    Accepted w (0x6400 + c.1 / 256) (c.1 % 256) (.dma c .dctl) (.num (v ||| 0x20000000#32).toNat) s →
    ∃ t, exec (.dmaResume w c v) s = .next t
      ∧ t.dma[c] = { d with ctl := t.dma[c].ctl, state := .running, halt := none, count := 0
                            taken := if d.halt = some .pktFault then d.taken.map (fun k => { k with failures := 0 }) else d.taken }
      ∧ (∀ k, k ≠ c → t.dma[k] = s.dma[k]) ∧ t.qm = s.qm ∧ t.pstore = s.pstore

/-- When NumVFs is lowered or VF Enable is cleared, each pair of a VF that no longer exists has its channel aborted and returns to the PF of its link,
and its queue keeps its content; no other pair moves. -/
def Obligations.RemovedFunctionsReturnTheirPairs : Prop :=
  ∀ (l : Fin 4) (num : Nat) (c : Instr) (s : State),
    c = .vfRemoval l num
      ∨ (s.host.links[l].up = true ∧ s.boot.hostReady = true ∧ num ≤ totalVfs s l ∧ c = .configSpaceWrite l 0 (.numVfs num))
      ∨ (s.host.links[l].up = true ∧ s.boot.hostReady = true ∧ num = 0 ∧ c = .configSpaceWrite l 0 (.vfEnable false)) →
    ∃ t, exec c s = .next t ∧ t.qm = s.qm
      ∧ (∀ p, (pairOwner s p).1 = l → num < (pairOwner s p).2.1 → pairOwner t p = (l, 0) ∧ t.dma[p].state = .off ∧ t.dma[p].flights = []
          ∧ bitAt t.dma[p].ctl 31 = false)
      ∧ (∀ p, ¬ ((pairOwner s p).1 = l ∧ num < (pairOwner s p).2.1) → t.host.pairfn[p] = s.host.pairfn[p] ∧ t.dma[p] = s.dma[p])

/-- The links: PERST_N and the trained state, and the fall of a link with nothing outstanding through it; of a link that does not exist only its pin
is followed. A function's reset reaches its own channels and configuration alone; configuration writes take hold on a link that is up, are answered
with a retry until the host ports are ready, and an entry unmasked while its bit is pending is sent. -/
def Obligations.LinksAndFunctions : Prop :=
  (∀ (l : Fin 4) (s : State), linkExists s l = true →
        exec (.perstRelease l) s = .next (s.updLink l fun k => { k with perst := false, training := ! inReset (.link l) s && ! k.up })
        ∧ (∀ speed width flit, s.host.links[l].perst = false → inReset (.link l) s = false → s.boot.source ≠ 2 → exec (.linkUp l speed width flit) s =
            .next (s.updLink l fun k => { k with up := true, training := false, speed := speed, width := width, flit := flit && speed == 6 }))
        ∧ (∀ speed width flit, s.host.links[l].perst = true → exec (.linkUp l speed width flit) s = .next s)
        ∧ (noRequests s → exec (.linkDown l) s =
            .next (s.updLink l fun k => { k with up := false, flit := false, speed := 0, width := 0, training := false }))
        ∧ (noRequests s → (∀ c, (pairOwner s c).1 = l → (pairOwner s c).2 = 0) → exec (.perstAssert l) s = .next (s.updLink l fun k =>
            { k with up := false, flit := false, speed := 0, width := 0, training := false, perst := true, vfEnable := false, numVfs := 0
                     fns := Vector.replicate 17 {} })))
  ∧ (∀ (l : Fin 4) (s : State), linkExists s l = false →
        exec (.perstAssert l) s = .next (s.updLink l fun k => { k with perst := true })
        ∧ exec (.perstRelease l) s = .next (s.updLink l fun k => { k with perst := false })
        ∧ ∀ speed width flit, exec (.linkUp l speed width flit) s = .next s)
  ∧ (∀ (l : Fin 4) (f : Fin 17) (s : State), s.host.links[l].up = true → f.1 ≤ s.host.links[l].vfs →
        (f ≠ 0 → s.boot.hostReady = true → ∃ t, exec (.flr l f) s = .next t ∧ t.host.links[l].fns[f] = {} ∧ (∀ g : Fin 17, g ≠ f → t.host.links[l].fns[g] = s.host.links[l].fns[g])
            ∧ (∀ c, pairOwner s c = (l, f) → t.dma[c].state = .off ∧ t.dma[c].intstat = 0 ∧ t.dma[c].doorbell = 0 ∧ t.dma[c].a = s.dma[c].a)
            ∧ (∀ c, pairOwner s c ≠ (l, f) → t.dma[c] = s.dma[c]) ∧ t.host.pairfn = s.host.pairfn ∧ t.qm = s.qm)
        ∧ (s.boot.hostReady = true →
            (∀ b, exec (.configSpaceWrite l f (.memSpace b)) s = .next (s.updFn l f fun g => { g with memSpace := b }))
            ∧ (∀ m, exec (.configSpaceWrite l f (.msix false m)) s = .next (s.updFn l f fun g => { g with msixEn := false, fnMask := m }))
            ∧ (∀ p r, exec (.configSpaceWrite l f (.sizes p r)) s = .next (s.updFn l f fun g => { g with mps := clampN 128 512 p, mrrs := clampN 128 4096 r }))
            ∧ (∀ n, f = 0 → totalVfs s l < n → exec (.configSpaceWrite l f (.numVfs n)) s = .next s))
        ∧ (s.boot.hostReady = false → exec (.flr l f) s = .next { s with tx := s.tx ++ [.configRetry l] }
            ∧ ∀ x, exec (.configSpaceWrite l f x) s = .next { s with tx := s.tx ++ [.configRetry l] })
        ∧ (∀ e, e < (if f = 0 then 1024 else 64) → s.host.links[l].fns[f].msixEn = true → s.host.links[l].fns[f].fnMask = false →
            s.host.links[l].fns[f].busMaster = true → s.host.links[l].fns[f].d3 = false → s.host.links[l].fns[f].pend = [e] →
            ∃ t, exec (.msixUnmask l f e) s = .next t ∧ t.tx = s.tx ++ [.msix l f e] ∧ t.host.links[l].fns[f].pend = [] ∧ e ∈ t.host.links[l].fns[f].unmasked
              ∧ t = { s with host := t.host, tx := t.tx })
        ∧ (∀ e, (if f = 0 then 1024 else 64) ≤ e → exec (.msixUnmask l f e) s = .next s))

/-- The stall store: refresh changes nothing, the scrub walks and counts, a channel whose command bus stays bad goes out of service, training puts a
good channel in service, and a write that is not acknowledged rewinds its packet whole. -/
def Obligations.StallStoreEvents : Prop :=
  ∀ (c : Fin 12) (s : State),
    exec .ddrRefresh s = .next s
    ∧ exec (.caParityError c true) s = .next s
    ∧ (s.host.ddr[c].state = 1 → (∀ r, opensOn c s r = false) → ∃ t, exec (.caParityError c false) s = .next t ∧ t.host.ddr[c].state = 3
        ∧ (∀ k, k ≠ c → t.host.ddr[k] = s.host.ddr[k]) ∧ t.qm.queues = s.qm.queues)
    ∧ (s.host.ddr[c].state ≠ 1 → exec (.caParityError c false) s = .next s)
    ∧ (∀ flaw, s.host.ready = false → exec (.ddrScrub c flaw) s = .next s)
    ∧ (s.host.ready = true → s.host.ddr[c].state = 1 → ddrDead s c = false →
        (∃ t, exec (.ddrScrub c .none) s = .next t ∧ t.host.ddr = s.host.ddr ∧ t.host.scrubAt[c] ≤ s.host.scrubAt[c] + 1 ∧ t = { s with host := t.host })
        ∧ (∃ t, exec (.ddrScrub c .corrected) s = .next t ∧ t.host.ddr[c].ce = satInc s.host.ddr[c].ce ∧ t.host.ddr[c].ue = s.host.ddr[c].ue
          ∧ t = { s with host := t.host })
        ∧ (∃ t, exec (.ddrScrub c .uncorrectable) s = .next t ∧ t.host.ddr[c].ue = satInc s.host.ddr[c].ue ∧ t.host.ddr[c].ce = s.host.ddr[c].ce
          ∧ t = { s with host := t.host, qm := t.qm, draw := t.draw }))
    ∧ (∀ r : DdrReport, s.host.ready = false → firmwareRuns s = true → inReset .stall s = false → r.dimms ≠ 0 → r.good = true →
        ddrRate [r] s.host.rateMax.toNat false ≠ 0 → atNat s.clk.good (8 + r.ch.1) = some true →
        ∃ t, exec (.ddrTraining [r]) s = .next t ∧ t.host.ready = true ∧ t.host.mismatch = false ∧ t.host.ddr[r.ch].state = 1
          ∧ t.host.ddr[r.ch].rate = BitVec.ofNat 16 (ddrRate [r] s.host.rateMax.toNat false) ∧ t.host.ddr[r.ch].gib = BitVec.ofNat 8 (min 128 r.gib)
          ∧ ∀ k, k ≠ r.ch → t.host.ddr[k] = s.host.ddr[k])
    ∧ (∀ reports, s.host.ready = true → exec (.ddrTraining reports) s = .next s)
    ∧ (∀ (r : Fin 32) q o i, inReset .queues s = false → queueOf s r = some q → s.qm.queues[q].openPkt = some o → firstStall o = some i →
        ∃ t, exec (.stallAckTimeout r) s = .next t ∧ t.qm.queues[q].openPkt = none ∧ t.qm.queues[q].packets = s.qm.queues[q].packets
          ∧ t.qm.queues[q].rewinds = satInc s.qm.queues[q].rewinds ∧ t.host = s.host)

/-- The verification of an update marks its slot valid only when every check passes; the identity key is ready; a report that was asked for is signed;
a token opens the test access port only when it is valid and names that scope, and every presentation takes a fresh nonce; while TRST_N is low the
port takes none. -/
def Obligations.SecurityEngine : Prop :=
  ∀ s : State,
    (s.sec.verifying = none → exec .updVerifyDone s = .next s)
    ∧ (∀ n, s.sec.verifying = some n → ∃ t, exec .updVerifyDone s = .next t ∧ t.sec.verifying = none
        ∧ t.sec.updFail = BitVec.ofNat 8 (verifyFail s s.mram.slots[n].image)
        ∧ (verifyFail s s.mram.slots[n].image = 0 → t.mram.slots[n].mark = .valid ∧ t.mram.slots[n].image = s.mram.slots[n].image)
        ∧ (verifyFail s s.mram.slots[n].image ≠ 0 → t.mram = s.mram) ∧ t = { s with sec := t.sec, mram := t.mram })
    ∧ (s.rst.level ≠ some 0 → exec .identityKeyReady s = .next { s with sec := { s.sec with keyReady := true } })
    ∧ (s.sec.attReq = none → exec .attReportSigned s = .next s)
    ∧ (∀ req, s.sec.attReq = some req → exec .attReportSigned s = .next { s with sec := { s.sec with
        attReq := none, report := reportBody s req ++ (List.range 1280).map (Config.falconSign (reportBody s req)) } })
    ∧ (∀ bs, s.pins.trstN = false → exec (.jtagDbgUnlock bs) s = .next s)
    ∧ (∀ bs, s.pins.trstN = true → ∃ t, exec (.jtagDbgUnlock bs) s = .next t ∧ t.fuses = s.fuses ∧ t.mram = s.mram ∧ t.sec.nonce.length = 32
        ∧ (tokenInvalid s (padTo 1376 bs) = true → t.sec.tapOpen = s.sec.tapOpen ∧ t.sec.resetOk = s.sec.resetOk ∧ t.sec.failed = satInc s.sec.failed
            ∧ t.sec.last = BitVec.ofNat 8 Status.integrity.code)
        ∧ (tokenInvalid s (padTo 1376 bs) = false → tokenScope (padTo 1376 bs) 0 = true → tokenScope (padTo 1376 bs) 2 = false →
            t.sec.tapOpen = true ∧ t.sec.failed = s.sec.failed ∧ t.sec.resetOk = s.sec.resetOk ∧ t.vio = s.vio))

/-- Every request that reaches a port with a link and an address is carried out when firmware is free, waits while it is not, and is counted and lost
when no more can wait; a malformed one is counted and answered with nothing. Sessions: OPEN adds one and answers its number; an open one answers
KEEPALIVE, CLOSE, READ, WRITE, the BLOB operations, DESCRIBE and JNL_READ with what they give, a repeated tag is answered again without being carried
out, a tag that is not ahead is counted, a request of no session meets TIMEOUT, an operation that the table does not list VERSION, and an idle session
ends. -/
def Obligations.DictionaryProtocol : Prop :=
  (∀ (c : Instr) (p : Fin 2) (addr udp : Nat) (m : List Byte) (kind : Bool) (s : State),
        (ldpRequest c = some (.udp p addr udp, m, kind) →
          (kind = false → exec c s = .next s)
          ∧ (listens s p = false → exec c s = .next s)
          ∧ (kind = true → listens s p = true →
              (fwFree s = true → exec c s = .next (serveMsg (.udp p addr udp) m s))
              ∧ (fwFree s = false → s.svc.length < svcMax → exec c s = .next { s with svc := s.svc ++ [.ldp (.udp p addr udp) m] })
              ∧ (fwFree s = false → svcMax ≤ s.svc.length → exec c s = .next { s with acc := { s.acc with drops := satInc s.acc.drops } })))
        ∧ (malformed m = true → listens s p = true →
            exec (.ldpMalformed (.udp p addr udp) m) s = .next { s with acc := { s.acc with drops := satInc s.acc.drops } })
        ∧ (malformed m = false → exec (.ldpMalformed (.udp p addr udp) m) s = .next s))
  ∧ (∀ (p : Fin 2) (addr udp : Nat) (src : LdpFrom) (m pay : List Byte) (sent : State → Status → List Byte → Tx) (s : State),
        src = .udp p addr udp → pay = msgPayload m → (∀ u st bs, sent u st bs = .datagram p (some u.acc.ldpPortNow.toNat) (addr * 65536 + udp) (replyTo m st bs)) →
        malformed m = false → listens s p = true → fwFree s = true →
        (∀ x who, findSession s (msgSession m) = some x → x.boundTo src = true → x.isOpen = true →
          who = ({ path := pathOf src x.id.toNat, priv := x.priv } : By) →
          (∀ k, x.kept.find? (fun k => k.1 == msgTag m) = some k → msgOp m = 0x03 →
            exec (.ldpKeepalive src m) s = .next { s with tx := s.tx ++ [.datagram p (some s.acc.ldpPortNow.toNat) (addr * 65536 + udp) k.2] })
          ∧ (x.kept.find? (fun k => k.1 == msgTag m) = none → tagAhead (msgTag m) x.highTag = false → msgOp m = 0x11 →
            exec (.ldpWrite src m) s = .next { s with acc := { s.acc with stale := satInc s.acc.stale } })
          ∧ (x.kept.find? (fun k => k.1 == msgTag m) = none → tagAhead (msgTag m) x.highTag = true →
            (msgOp m = 0x03 → ∃ t, exec (.ldpKeepalive src m) s = .next t ∧ t.tx = s.tx ++ [sent s .ok []]
              ∧ t.acc.sessions = s.acc.sessions.map (fun y : Session =>
                  if y.id = x.id then { y with kept := ((msgTag m, replyTo m .ok []) :: y.kept).take 64, highTag := msgTag m } else y)
              ∧ t.mram = s.mram ∧ t.fuses = s.fuses ∧ t.vio = s.vio)
            ∧ (msgOp m = 0x02 → ∃ t, exec (.ldpClose src m) s = .next t ∧ t.tx = s.tx ++ [sent s .ok []]
              ∧ t.acc.sessions = s.acc.sessions.filter (fun y => y.id != x.id) ∧ t.mram = s.mram ∧ t.vio = s.vio)
            ∧ (msgOp m = 0x10 → ∀ n st bs u, pay.length = 4 * n → 1 ≤ n → n ≤ 64 → (∀ i < n, leAt pay (4 * i + 3) 1 = 0) →
                readItems who pay n 0 s = ((st, bs), u) →
                ∃ t, exec (.ldpRead src m) s = .next t ∧ t.tx = u.tx ++ [sent u st bs] ∧ t.mram = u.mram ∧ t.fuses = u.fuses)
            ∧ (msgOp m = 0x11 → ∀ items st bs u, (msgFlags m).testBit 1 = false → parseItems 64 pay = some items → items ≠ [] →
                writeItems who false items s = ((st, bs), u) →
                ∃ t, exec (.ldpWrite src m) s = .next t ∧ t.tx = u.tx ++ [sent u st (headBytes u ++ bs)] ∧ t.mram = u.mram ∧ t.fuses = u.fuses)
            ∧ (msgOp m = 0x12 → ∀ o v u bs, pay.length = 10 → objAt (leAt pay 0 2) (leAt pay 2 1) = some o → o.desc.ty = .str ∨ o.desc.ty = .blob →
                dictRead who (leAt pay 0 2) (leAt pay 2 1) s = ((.ok, v), u) → blobPart o v (leAt pay 4 4) (leAt pay 8 2) u = (.ok, bs) →
                ∃ t, exec (.ldpReadBlob src m) s = .next t ∧ t.tx = u.tx ++ [sent u .ok bs] ∧ t.mram = u.mram)
            ∧ (msgOp m = 0x13 → 8 ≤ pay.length → pay.length ≤ 16392 → leAt pay 4 4 = 0 → (msgFlags m).testBit 2 = true →
                ∃ t, exec (.ldpWriteBlob src m) s = .next t ∧ t.tx = s.tx ++ [sent s .ok []] ∧ t.mram = s.mram
                  ∧ ∀ y ∈ t.acc.sessions, y.id = x.id → y.staged = some (objTarget (leAt pay 0 2) (leAt pay 2 1), pay.drop 8))
            ∧ (msgOp m = 0x14 → ∀ o, pay.length = 3 → objAt (leAt pay 0 2) (leAt pay 2 1) = some o →
                ∃ t, exec (.ldpDescribe src m) s = .next t ∧ t.tx = s.tx ++ [sent s .ok (describe o)] ∧ t.mram = s.mram ∧ t.vio = s.vio)
            ∧ (msgOp m = 0x20 → ∀ a n, a = leAt pay 0 6 → n = leAt pay 6 2 → pay.length = 8 → jnlOldest s ≤ a → a ≤ s.mram.head.toNat + 1 → 1 ≤ n → n ≤ 44 →
                ∃ t, exec (.ldpJnlRead src m) s = .next t ∧ t.mram = s.mram ∧ t.vio = s.vio
                  ∧ t.tx = s.tx ++ [sent s .ok (headBytes s ++ leBytes 6 (jnlOldest s) ++ leBytes 2 0
                      ++ (List.range n).flatMap fun i => ((jnlFind s (a + i)).map JnlEntry.bytes).getD [])])))
        ∧ (msgOp m = 0x01 → msgSession m = 0 → barredNow s addr = false → pay.length = 8 → leAt pay 4 1 ≤ privMax s src → leAt pay 0 2 ≤ 1 → 1 ≤ leAt pay 2 2 →
            s.acc.sessions.length < 32 →
            ∃ t bs, exec (.ldpOpen src m) s = .next t ∧ t.tx = s.tx ++ [sent s .ok bs] ∧ bs.length = 22
              ∧ bs.take 2 = leBytes 2 (nextSession s 33 s.acc.lastSession.toNat) ∧ t.acc.sessions.length = s.acc.sessions.length + 1
              ∧ (0 < leAt pay 4 1 → ∃ x, t.acc.sessions = s.acc.sessions ++ [x] ∧ x.isOpen = false ∧ x.boundTo src = true ∧ x.priv.1 = leAt pay 4 1))
        ∧ (findSession s (msgSession m) = none → msgOp m = 0x10 → ∃ t told, exec (.ldpRead src m) s = .next t
            ∧ t.tx = s.tx ++ told ++ [sent s .timeout []] ∧ (told = [] ∨ told = [.msix (devLink s) 0 514]) ∧ t.acc.sessions = s.acc.sessions ∧ t.mram = s.mram)
        ∧ (listedOps.contains (msgOp m) = false → ∃ t told, exec (.ldpUnknownOp src m) s = .next t
            ∧ t.tx = s.tx ++ told ++ [sent s .version []] ∧ (told = [] ∨ told = [.msix (devLink s) 0 514]) ∧ t.acc.sessions = s.acc.sessions ∧ t.mram = s.mram)
        ∧ (∀ id, exec (.sessionIdleTimeout id) s = .next { s with acc := { s.acc with sessions := s.acc.sessions.filter fun y => y.id != id } }))

/-- Writes through the BARs: the map store by BAR4, PSTORE and the boot window by BAR0, and an access outside the map is logged and a read of it
answered as unsupported. The object view and the mailbox registers: a read of an object that is held in its block, of a cell's bytes and of BOOTSTAT is
completed at once, a write of an unjournaled one is carried out at once, a read that waited for firmware is aborted, a posted message makes the mailbox
busy or is answered in it at once, and MB_ACK frees the reply. -/
def Obligations.BarsAndView : Prop :=
  (∀ (l : Fin 4) (f : Fin 17) (ofs : Nat) (bytes : List Byte) (s : State),
        (barServes s l 0 = true → ofs + bytes.length ≤ 2 ^ 28 → s.clk.good[(2 : Fin 23)] = true →
          exec (.bar4Write l ofs bytes) s = .next { s with mapStore := s.mapStore.write ofs bytes })
        ∧ (barServes s l 0 = true → s.boot.phase = 3 → pstoreHeld s = false → bytes ≠ [] → 0x00500000 ≤ ofs → ofs + bytes.length ≤ 0x00600000 →
          exec (.bar0WindowWrite l ofs bytes) s = .next { s with pstore := s.pstore.write (ofs - 0x00500000) bytes })
        ∧ (barServes s l 0 = true → l = 0 → s.boot.window = true → bytes ≠ [] → ofs + bytes.length ≤ 0x00400000 →
          exec (.bar0WindowWrite l ofs bytes) s = .next { s with boot := { s.boot with ram := memWrite s.boot.ram ofs bytes } })
        ∧ (barServes s l f = true → s.vio.log = [] →
          ∃ told : List Tx, (told = [] ∨ told = [.msix (devLink s) 0 514])
          ∧ (∃ t e, exec (.barUnmappedAccess l f ofs false) s = .next t ∧ t.tx = s.tx ++ told ++ [.unsupported l] ∧ t.vio.log = [e]
            ∧ e.target = BitVec.ofNat 48 ofs ∧ e.status = BitVec.ofNat 8 Status.access.code ∧ t.mapStore = s.mapStore ∧ t.pstore = s.pstore)
          ∧ (∃ t e, exec (.barUnmappedAccess l f ofs true) s = .next t ∧ t.tx = s.tx ++ told ∧ t.vio.log = [e] ∧ t.mapStore = s.mapStore
            ∧ t.pstore = s.pstore))
        ∧ (barServes s l f = false → ∀ wr, exec (.barUnmappedAccess l f ofs wr) s = .next s)
        ∧ (barServes s l 0 = false → exec (.bar4Write l ofs bytes) s = .next s ∧ exec (.bar0WindowWrite l ofs bytes) s = .next s))
  ∧ (∀ (l : Fin 4) (f : Fin 17) (ofs len : Nat) (bytes : List Byte) (s : State),
        (∀ index sub at_ o v u, barServes s l f = true → s.boot.phase = 3 → viewAligned ofs len = true → viewPlace s l f ofs = some (index, sub, at_) →
          objAt index sub = some o → o.desc.block = true → o.held s = false → ¬ (f = 0 ∧ cellData ofs = true) →
          dictRead (viewWho s l f) index sub s = ((.ok, v), u) →
          exec (.viewRead l f ofs len) s = .next { u with tx := u.tx ++ [.completion l (some (leBytes len (viewBits o.desc v / 2 ^ (8 * at_))))] })
        ∧ (∀ o bs u, barServes s l 0 = true → s.boot.phase = 3 → viewAligned ofs len = true → cellData ofs = true →
          objAt 0x6120 3 = some o → o.desc.block = true → o.held s = false → dictRead (viewWho s l 0) 0x6120 3 s = ((.ok, .bytes bs), u) →
          ofs - 0x00600100 + len ≤ bs.length →
          ∃ t, exec (.viewRead l 0 ofs len) s = .next t ∧ t.tx = u.tx ++ [.completion l (some (slice bs (ofs - 0x00600100) len))])
        ∧ (barServes s l 0 = true → exec (.viewRead l 0 0x00400004 4) s =
          .next { s with tx := s.tx ++ [.completion l (some (leBytes 4 (bootstat s.boot).toNat))] })
        ∧ (∀ index sub at_ o v, barServes s l f = true → s.boot.phase = 3 → viewAligned ofs bytes.length = true → viewPlace s l f ofs = some (index, sub, at_) →
          objAt index sub = some o → o.unjournaled = true → o.held s = false → viewValue o at_ bytes = (true, v) →
          exec (.viewWrite l f ofs bytes) s = .next (dictWrite (viewWho s l f) false index sub true v s).2)
        ∧ (barServes s l f = false → exec (.viewRead l f ofs len) s = .next s ∧ exec (.viewWrite l f ofs bytes) s = .next s)
        ∧ (firmwareRuns s = false → s.svc = [.viewRead l f ofs len] →
          exec (.viewReadTimeout l f ofs) s = .next { s with svc := [], tx := s.tx ++ [.completion l none] })
        ∧ (s.svc = [] → exec (.viewReadTimeout l f ofs) s = .next s)
        ∧ (barServes s l 0 = true → s.boot.phase = 3 →
          exec (.mbAck l) s = .next (s.updMbox l fun b => { b with ready := false, overrun := false })
          ∧ (∀ w : Word, s.acc.mailbox[l].busy = true → ∃ t, exec (.mbDoorbell l w) s = .next t ∧ t.acc.mailbox[l].overrun = true ∧ t.acc.mailbox[l].busy = true
              ∧ t.svc = s.svc ∧ t.acc.sessions = s.acc.sessions)
          ∧ (∀ w : Word, s.acc.mailbox[l].busy = false → s.acc.mailbox[l].ready = false → 16 ≤ w.toNat → w.toNat ≤ 16384 →
              malformed (memRead s.acc.mailbox[l].request 0 w.toNat) = false → fwFree s = false → s.svc.length < svcMax →
              exec (.mbDoorbell l w) s = .next { (s.updMbox l fun b => { b with busy := true }) with
                svc := s.svc ++ [.ldp (.mailbox l) (memRead s.acc.mailbox[l].request 0 w.toNat)] })
          ∧ (∀ (w : Word) m, s.acc.mailbox[l].busy = false → s.acc.mailbox[l].ready = false → 16 ≤ w.toNat → w.toNat ≤ 16384 →
              m = memRead s.acc.mailbox[l].request 0 w.toNat → malformed m = false → fwFree s = true → listedOps.contains (msgOp m) = false →
              ∃ t, exec (.mbDoorbell l w) s = .next t ∧ t.acc.mailbox[l].ready = true ∧ t.acc.mailbox[l].busy = false
                ∧ t.acc.mailbox[l].replyBuf = replyTo m .version [] ∧ t.acc.sessions = s.acc.sessions ∧ t.svc = s.svc)))

/-- Whatever the step, from whatever state: fuses only burn. No reset, no command and no access path clears a burned bit. -/
def Obligations.FusesOnlyBurn : Prop :=
  ∀ s t : State, step s = .next t → burnsTo s.fuses t.fuses

/-- No fuse changes while the fuse supply is not at its burning level. -/
def Obligations.FusesNeedTheirSupply : Prop :=
  ∀ s t : State, vppBurning s = false → step s = .next t → t.fuses = s.fuses
end

