-- ==== Sys2Proof/Laws/Memory.lean ====
section
/-! SUPPORT. Memories: reading after writing, and the canonical form that every memory operation keeps. -/

namespace Sys2Proof.Machine

open Sys2Proof

theorem memOk_mono {lo hi : Nat} {m : List Host.Cell} (h : lo ≤ hi) (w : memOk hi m = true) : memOk lo m = true := by
  cases m with
  | nil => rfl
  | cons x r => obtain ⟨a, b⟩ := x; simp only [memOk, Bool.and_eq_true, decide_eq_true_eq] at *; exact ⟨⟨by omega, w.1.2⟩, w.2⟩

/-- An address below every listed one reads as 0. -/
theorem memGet_below {lo a : Nat} {m : List Host.Cell} (w : memOk lo m = true) (h : a < lo) : memGet m a = 0 := by
  induction m generalizing lo with
  | nil => rfl
  | cons x r ih =>
    obtain ⟨y, b⟩ := x
    simp only [memOk, Bool.and_eq_true, decide_eq_true_eq] at w
    simp only [memGet]
    rw [if_neg (by omega)]
    exact ih w.2 (by omega)

/-- Writing a byte keeps the canonical form. -/
theorem memSet_ok {lo a : Nat} {m : List Host.Cell} (b : Byte) (w : memOk lo m = true) (h : lo ≤ a) : memOk lo (memSet m a b) = true := by
  induction m generalizing lo with
  | nil => by_cases hb : b = 0#8 <;> simp [memSet, memOk, hb, h]
  | cons x r ih =>
    obtain ⟨y, c⟩ := x
    simp only [memOk, Bool.and_eq_true, decide_eq_true_eq] at w
    unfold memSet
    split
    · rename_i hlt
      simp only [memOk, Bool.and_eq_true, decide_eq_true_eq]
      exact ⟨w.1, ih w.2 (by omega)⟩
    · split
      · split
        · exact memOk_mono (by omega) w.2
        · rename_i he hb; subst he
          simp only [memOk, Bool.and_eq_true, decide_eq_true_eq]
          exact ⟨⟨w.1.1, by simpa using hb⟩, w.2⟩
      · split
        · simp only [memOk, Bool.and_eq_true, decide_eq_true_eq]; exact w
        · rename_i hb
          simp only [memOk, Bool.and_eq_true, decide_eq_true_eq]
          exact ⟨⟨h, by simpa using hb⟩, ⟨⟨by omega, w.1.2⟩, w.2⟩⟩

/-- The byte written is the byte read. -/
theorem memGet_memSet {lo : Nat} {m : List Host.Cell} (a : Nat) (b : Byte) (w : memOk lo m = true) : memGet (memSet m a b) a = b := by
  induction m generalizing lo with
  | nil => by_cases hb : b = 0#8 <;> simp [memSet, memGet, hb]
  | cons x r ih =>
    obtain ⟨y, c⟩ := x
    simp only [memOk, Bool.and_eq_true, decide_eq_true_eq] at w
    unfold memSet
    split
    · rw [memGet, if_neg (by omega)]; exact ih w.2
    · split
      · split
        · rename_i he hb; subst he hb; exact memGet_below w.2 (by omega)
        · simp [memGet]
      · split
        · rename_i hb; subst hb; rw [memGet, if_neg (by omega)]; exact memGet_below w.2 (by omega)
        · simp [memGet]

/-- Every other byte stays. -/
theorem memGet_memSet_ne {m : List Host.Cell} {a k : Nat} (b : Byte) (h : k ≠ a) : memGet (memSet m a b) k = memGet m k := by
  induction m with
  | nil => by_cases hb : b = 0#8 <;> simp [memSet, memGet, hb, h.symm]
  | cons x r ih =>
    obtain ⟨y, c⟩ := x
    unfold memSet
    split
    · simp only [memGet]; split
      · rfl
      · exact ih
    · split
      · rename_i he; subst he
        split
        · simp only [memGet]; rw [if_neg h.symm]
        · simp only [memGet]; rw [if_neg h.symm, if_neg h.symm]
      · split
        · rfl
        · simp only [memGet]; rw [if_neg h.symm]

theorem memSet_wf {m : List Host.Cell} (a : Nat) (b : Byte) (w : Memory.wf m = true) : Memory.wf (memSet m a b) = true := memSet_ok b w (Nat.zero_le a)

/-- Writing bytes keeps the canonical form. -/
theorem memWrite_wf {m : List Host.Cell} (a : Nat) (bs : List Byte) (w : Memory.wf m = true) : Memory.wf (memWrite m a bs) = true := by
  induction bs generalizing m a with
  | nil => exact w
  | cons b r ih => exact ih (a + 1) (memSet_wf a b w)

/-- A byte outside those written stays. -/
theorem memGet_memWrite_out {m : List Host.Cell} {a k : Nat} {bs : List Byte} (h : k < a ∨ a + bs.length ≤ k) : memGet (memWrite m a bs) k = memGet m k := by
  induction bs generalizing m a with
  | nil => rfl
  | cons b r ih =>
    simp only [List.length_cons] at h
    show memGet (memWrite (memSet m a b) (a + 1) r) k = _
    rw [ih (by omega), memGet_memSet_ne b (by omega)]

/-- A byte written reads as it was written. -/
theorem memGet_memWrite_in {m : List Host.Cell} {a i : Nat} {bs : List Byte} (w : Memory.wf m = true) (h : i < bs.length) :
    memGet (memWrite m a bs) (a + i) = bs[i] := by
  induction bs generalizing m a i with
  | nil => simp at h
  | cons b r ih =>
    show memGet (memWrite (memSet m a b) (a + 1) r) (a + i) = _
    cases i with
    | zero => rw [memGet_memWrite_out (by omega)]; exact memGet_memSet a b w
    | succ i =>
      have := ih (a := a + 1) (i := i) (memSet_wf a b w) (by simpa using h)
      rw [show a + (i + 1) = a + 1 + i by omega, this]; simp

/-- Bytes written read back. -/
theorem memRead_memWrite {m : List Host.Cell} (a : Nat) (bs : List Byte) (w : Memory.wf m = true) : memRead (memWrite m a bs) a bs.length = bs := by
  apply List.ext_getElem
  · simp [memRead]
  · intro i h1 h2
    simp only [memRead, List.getElem_map, List.getElem_range]
    exact memGet_memWrite_in w h2

/-- A write of a memory keeps its canonical form. -/
theorem Mem.write_wf {m : Mem} (a : Nat) (bs : List Byte) (p : List Nat) (w : Memory.wf m.cells = true) : Memory.wf (m.write a bs p).cells = true :=
  memWrite_wf a bs w

/-- A read after a write of the same bytes gives them. -/
theorem Mem.read_write {m : Mem} (a : Nat) (bs : List Byte) (p : List Nat) (w : Memory.wf m.cells = true) : (m.write a bs p).read a bs.length = bs :=
  memRead_memWrite a bs w

/-- A read that lies outside the bytes written gives what it gave before. -/
theorem Mem.read_write_out {m : Mem} (a k n : Nat) (bs : List Byte) (p : List Nat) (h : k + n ≤ a ∨ a + bs.length ≤ k) :
    (m.write a bs p).read k n = m.read k n := by
  simp only [Mem.read, Mem.write, memRead]
  apply List.map_congr_left
  intro i hi
  have := List.mem_range.mp hi
  exact memGet_memWrite_out (by omega)

/-- The memories of the state after reset are in canonical form. -/
theorem State.reset_memory_wf : Memory.wf State.reset.mapStore.cells = true ∧ Memory.wf State.reset.pstore.cells = true
    ∧ Memory.wf State.reset.host.smap.cells = true ∧ Memory.wf State.reset.boot.ram = true := ⟨rfl, rfl, rfl, rfl⟩

end Sys2Proof.Machine
end

