-- ==== Sys2Proof/Laws/State.lean ====
section
/-! SUPPORT. The small lemmas of the state: each field after each named update. -/

namespace Sys2Proof.Machine

/-! ### Elements of a changed vector -/

/-- The element at the index changed. -/
@[simp] theorem modAt_get {α : Type} {n : Nat} (v : Vector α n) (i : Fin n) (f : α → α) : (modAt v i f)[i] = f v[i] := by
  simp [modAt]

/-- Every other element. -/
theorem modAt_get_ne {α : Type} {n : Nat} (v : Vector α n) (i k : Fin n) (f : α → α) (h : k ≠ i) : (modAt v i f)[k] = v[k] := by
  have : i.1 ≠ k.1 := fun e => h (Fin.ext e.symm)
  simp [modAt, this]

/-! ### Fields after updates -/

@[simp] theorem State.updLane_pending (s : State) (n : Fin 64) (f : Lane → Lane) : (s.updLane n f).pending = s.pending := rfl
@[simp] theorem State.updLane_svc (s : State) (n : Fin 64) (f : Lane → Lane) : (s.updLane n f).svc = s.svc := rfl
@[simp] theorem State.updLane_coreTime (s : State) (n : Fin 64) (f : Lane → Lane) : (s.updLane n f).coreTime = s.coreTime := rfl
@[simp] theorem State.updLane_draw (s : State) (n : Fin 64) (f : Lane → Lane) : (s.updLane n f).draw = s.draw := rfl
@[simp] theorem State.updLane_reply (s : State) (n : Fin 64) (f : Lane → Lane) : (s.updLane n f).reply = s.reply := rfl
@[simp] theorem State.updLane_tx (s : State) (n : Fin 64) (f : Lane → Lane) : (s.updLane n f).tx = s.tx := rfl
@[simp] theorem State.updLane_pins (s : State) (n : Fin 64) (f : Lane → Lane) : (s.updLane n f).pins = s.pins := rfl
@[simp] theorem State.updLane_fuses (s : State) (n : Fin 64) (f : Lane → Lane) : (s.updLane n f).fuses = s.fuses := rfl
@[simp] theorem State.updLane_rst (s : State) (n : Fin 64) (f : Lane → Lane) : (s.updLane n f).rst = s.rst := rfl
@[simp] theorem State.updLane_clk (s : State) (n : Fin 64) (f : Lane → Lane) : (s.updLane n f).clk = s.clk := rfl
@[simp] theorem State.updLane_boot (s : State) (n : Fin 64) (f : Lane → Lane) : (s.updLane n f).boot = s.boot := rfl
@[simp] theorem State.updLane_thermal (s : State) (n : Fin 64) (f : Lane → Lane) : (s.updLane n f).thermal = s.thermal := rfl
@[simp] theorem State.updLane_mram (s : State) (n : Fin 64) (f : Lane → Lane) : (s.updLane n f).mram = s.mram := rfl
@[simp] theorem State.updLane_faults (s : State) (n : Fin 64) (f : Lane → Lane) : (s.updLane n f).faults = s.faults := rfl
@[simp] theorem State.updLane_vio (s : State) (n : Fin 64) (f : Lane → Lane) : (s.updLane n f).vio = s.vio := rfl
@[simp] theorem State.updLane_wdog (s : State) (n : Fin 64) (f : Lane → Lane) : (s.updLane n f).wdog = s.wdog := rfl
@[simp] theorem State.updLane_acc (s : State) (n : Fin 64) (f : Lane → Lane) : (s.updLane n f).acc = s.acc := rfl
@[simp] theorem State.updLane_mgt (s : State) (n : Fin 64) (f : Lane → Lane) : (s.updLane n f).mgt = s.mgt := rfl
@[simp] theorem State.updLane_ptp (s : State) (n : Fin 64) (f : Lane → Lane) : (s.updLane n f).ptp = s.ptp := rfl
@[simp] theorem State.updLane_sec (s : State) (n : Fin 64) (f : Lane → Lane) : (s.updLane n f).sec = s.sec := rfl
@[simp] theorem State.updLane_quads (s : State) (n : Fin 64) (f : Lane → Lane) : (s.updLane n f).quads = s.quads := rfl
@[simp] theorem State.updLane_lanes (s : State) (n : Fin 64) (f : Lane → Lane) : (s.updLane n f).lanes = modAt s.lanes n f := rfl
@[simp] theorem State.updLane_ports (s : State) (n : Fin 64) (f : Lane → Lane) : (s.updLane n f).ports = s.ports := rfl
@[simp] theorem State.updLane_srcs (s : State) (n : Fin 64) (f : Lane → Lane) : (s.updLane n f).srcs = s.srcs := rfl
@[simp] theorem State.updLane_heads (s : State) (n : Fin 64) (f : Lane → Lane) : (s.updLane n f).heads = s.heads := rfl
@[simp] theorem State.updLane_pcams (s : State) (n : Fin 64) (f : Lane → Lane) : (s.updLane n f).pcams = s.pcams := rfl
@[simp] theorem State.updLane_pipes (s : State) (n : Fin 64) (f : Lane → Lane) : (s.updLane n f).pipes = s.pipes := rfl
@[simp] theorem State.updLane_mapStore (s : State) (n : Fin 64) (f : Lane → Lane) : (s.updLane n f).mapStore = s.mapStore := rfl
@[simp] theorem State.updLane_tallies (s : State) (n : Fin 64) (f : Lane → Lane) : (s.updLane n f).tallies = s.tallies := rfl
@[simp] theorem State.updLane_encs (s : State) (n : Fin 64) (f : Lane → Lane) : (s.updLane n f).encs = s.encs := rfl
@[simp] theorem State.updLane_tb (s : State) (n : Fin 64) (f : Lane → Lane) : (s.updLane n f).tb = s.tb := rfl
@[simp] theorem State.updLane_router (s : State) (n : Fin 64) (f : Lane → Lane) : (s.updLane n f).router = s.router := rfl
@[simp] theorem State.updLane_qm (s : State) (n : Fin 64) (f : Lane → Lane) : (s.updLane n f).qm = s.qm := rfl
@[simp] theorem State.updLane_dma (s : State) (n : Fin 64) (f : Lane → Lane) : (s.updLane n f).dma = s.dma := rfl
@[simp] theorem State.updLane_pstore (s : State) (n : Fin 64) (f : Lane → Lane) : (s.updLane n f).pstore = s.pstore := rfl
@[simp] theorem State.updLane_psOfs (s : State) (n : Fin 64) (f : Lane → Lane) : (s.updLane n f).psOfs = s.psOfs := rfl
@[simp] theorem State.updLane_host (s : State) (n : Fin 64) (f : Lane → Lane) : (s.updLane n f).host = s.host := rfl
@[simp] theorem State.updLane_axes (s : State) (n : Fin 64) (f : Lane → Lane) : (s.updLane n f).axes = s.axes := rfl
@[simp] theorem State.updPort_pending (s : State) (p : Fin 16) (f : Port → Port) : (s.updPort p f).pending = s.pending := rfl
@[simp] theorem State.updPort_svc (s : State) (p : Fin 16) (f : Port → Port) : (s.updPort p f).svc = s.svc := rfl
@[simp] theorem State.updPort_coreTime (s : State) (p : Fin 16) (f : Port → Port) : (s.updPort p f).coreTime = s.coreTime := rfl
@[simp] theorem State.updPort_draw (s : State) (p : Fin 16) (f : Port → Port) : (s.updPort p f).draw = s.draw := rfl
@[simp] theorem State.updPort_reply (s : State) (p : Fin 16) (f : Port → Port) : (s.updPort p f).reply = s.reply := rfl
@[simp] theorem State.updPort_tx (s : State) (p : Fin 16) (f : Port → Port) : (s.updPort p f).tx = s.tx := rfl
@[simp] theorem State.updPort_pins (s : State) (p : Fin 16) (f : Port → Port) : (s.updPort p f).pins = s.pins := rfl
@[simp] theorem State.updPort_fuses (s : State) (p : Fin 16) (f : Port → Port) : (s.updPort p f).fuses = s.fuses := rfl
@[simp] theorem State.updPort_rst (s : State) (p : Fin 16) (f : Port → Port) : (s.updPort p f).rst = s.rst := rfl
@[simp] theorem State.updPort_clk (s : State) (p : Fin 16) (f : Port → Port) : (s.updPort p f).clk = s.clk := rfl
@[simp] theorem State.updPort_boot (s : State) (p : Fin 16) (f : Port → Port) : (s.updPort p f).boot = s.boot := rfl
@[simp] theorem State.updPort_thermal (s : State) (p : Fin 16) (f : Port → Port) : (s.updPort p f).thermal = s.thermal := rfl
@[simp] theorem State.updPort_mram (s : State) (p : Fin 16) (f : Port → Port) : (s.updPort p f).mram = s.mram := rfl
@[simp] theorem State.updPort_faults (s : State) (p : Fin 16) (f : Port → Port) : (s.updPort p f).faults = s.faults := rfl
@[simp] theorem State.updPort_vio (s : State) (p : Fin 16) (f : Port → Port) : (s.updPort p f).vio = s.vio := rfl
@[simp] theorem State.updPort_wdog (s : State) (p : Fin 16) (f : Port → Port) : (s.updPort p f).wdog = s.wdog := rfl
@[simp] theorem State.updPort_acc (s : State) (p : Fin 16) (f : Port → Port) : (s.updPort p f).acc = s.acc := rfl
@[simp] theorem State.updPort_mgt (s : State) (p : Fin 16) (f : Port → Port) : (s.updPort p f).mgt = s.mgt := rfl
@[simp] theorem State.updPort_ptp (s : State) (p : Fin 16) (f : Port → Port) : (s.updPort p f).ptp = s.ptp := rfl
@[simp] theorem State.updPort_sec (s : State) (p : Fin 16) (f : Port → Port) : (s.updPort p f).sec = s.sec := rfl
@[simp] theorem State.updPort_quads (s : State) (p : Fin 16) (f : Port → Port) : (s.updPort p f).quads = s.quads := rfl
@[simp] theorem State.updPort_lanes (s : State) (p : Fin 16) (f : Port → Port) : (s.updPort p f).lanes = s.lanes := rfl
@[simp] theorem State.updPort_ports (s : State) (p : Fin 16) (f : Port → Port) : (s.updPort p f).ports = modAt s.ports p f := rfl
@[simp] theorem State.updPort_srcs (s : State) (p : Fin 16) (f : Port → Port) : (s.updPort p f).srcs = s.srcs := rfl
@[simp] theorem State.updPort_heads (s : State) (p : Fin 16) (f : Port → Port) : (s.updPort p f).heads = s.heads := rfl
@[simp] theorem State.updPort_pcams (s : State) (p : Fin 16) (f : Port → Port) : (s.updPort p f).pcams = s.pcams := rfl
@[simp] theorem State.updPort_pipes (s : State) (p : Fin 16) (f : Port → Port) : (s.updPort p f).pipes = s.pipes := rfl
@[simp] theorem State.updPort_mapStore (s : State) (p : Fin 16) (f : Port → Port) : (s.updPort p f).mapStore = s.mapStore := rfl
@[simp] theorem State.updPort_tallies (s : State) (p : Fin 16) (f : Port → Port) : (s.updPort p f).tallies = s.tallies := rfl
@[simp] theorem State.updPort_encs (s : State) (p : Fin 16) (f : Port → Port) : (s.updPort p f).encs = s.encs := rfl
@[simp] theorem State.updPort_tb (s : State) (p : Fin 16) (f : Port → Port) : (s.updPort p f).tb = s.tb := rfl
@[simp] theorem State.updPort_router (s : State) (p : Fin 16) (f : Port → Port) : (s.updPort p f).router = s.router := rfl
@[simp] theorem State.updPort_qm (s : State) (p : Fin 16) (f : Port → Port) : (s.updPort p f).qm = s.qm := rfl
@[simp] theorem State.updPort_dma (s : State) (p : Fin 16) (f : Port → Port) : (s.updPort p f).dma = s.dma := rfl
@[simp] theorem State.updPort_pstore (s : State) (p : Fin 16) (f : Port → Port) : (s.updPort p f).pstore = s.pstore := rfl
@[simp] theorem State.updPort_psOfs (s : State) (p : Fin 16) (f : Port → Port) : (s.updPort p f).psOfs = s.psOfs := rfl
@[simp] theorem State.updPort_host (s : State) (p : Fin 16) (f : Port → Port) : (s.updPort p f).host = s.host := rfl
@[simp] theorem State.updPort_axes (s : State) (p : Fin 16) (f : Port → Port) : (s.updPort p f).axes = s.axes := rfl
@[simp] theorem State.updSrc_pending (s : State) (i : Fin 18) (f : Source → Source) : (s.updSrc i f).pending = s.pending := rfl
@[simp] theorem State.updSrc_svc (s : State) (i : Fin 18) (f : Source → Source) : (s.updSrc i f).svc = s.svc := rfl
@[simp] theorem State.updSrc_coreTime (s : State) (i : Fin 18) (f : Source → Source) : (s.updSrc i f).coreTime = s.coreTime := rfl
@[simp] theorem State.updSrc_draw (s : State) (i : Fin 18) (f : Source → Source) : (s.updSrc i f).draw = s.draw := rfl
@[simp] theorem State.updSrc_reply (s : State) (i : Fin 18) (f : Source → Source) : (s.updSrc i f).reply = s.reply := rfl
@[simp] theorem State.updSrc_tx (s : State) (i : Fin 18) (f : Source → Source) : (s.updSrc i f).tx = s.tx := rfl
@[simp] theorem State.updSrc_pins (s : State) (i : Fin 18) (f : Source → Source) : (s.updSrc i f).pins = s.pins := rfl
@[simp] theorem State.updSrc_fuses (s : State) (i : Fin 18) (f : Source → Source) : (s.updSrc i f).fuses = s.fuses := rfl
@[simp] theorem State.updSrc_rst (s : State) (i : Fin 18) (f : Source → Source) : (s.updSrc i f).rst = s.rst := rfl
@[simp] theorem State.updSrc_clk (s : State) (i : Fin 18) (f : Source → Source) : (s.updSrc i f).clk = s.clk := rfl
@[simp] theorem State.updSrc_boot (s : State) (i : Fin 18) (f : Source → Source) : (s.updSrc i f).boot = s.boot := rfl
@[simp] theorem State.updSrc_thermal (s : State) (i : Fin 18) (f : Source → Source) : (s.updSrc i f).thermal = s.thermal := rfl
@[simp] theorem State.updSrc_mram (s : State) (i : Fin 18) (f : Source → Source) : (s.updSrc i f).mram = s.mram := rfl
@[simp] theorem State.updSrc_faults (s : State) (i : Fin 18) (f : Source → Source) : (s.updSrc i f).faults = s.faults := rfl
@[simp] theorem State.updSrc_vio (s : State) (i : Fin 18) (f : Source → Source) : (s.updSrc i f).vio = s.vio := rfl
@[simp] theorem State.updSrc_wdog (s : State) (i : Fin 18) (f : Source → Source) : (s.updSrc i f).wdog = s.wdog := rfl
@[simp] theorem State.updSrc_acc (s : State) (i : Fin 18) (f : Source → Source) : (s.updSrc i f).acc = s.acc := rfl
@[simp] theorem State.updSrc_mgt (s : State) (i : Fin 18) (f : Source → Source) : (s.updSrc i f).mgt = s.mgt := rfl
@[simp] theorem State.updSrc_ptp (s : State) (i : Fin 18) (f : Source → Source) : (s.updSrc i f).ptp = s.ptp := rfl
@[simp] theorem State.updSrc_sec (s : State) (i : Fin 18) (f : Source → Source) : (s.updSrc i f).sec = s.sec := rfl
@[simp] theorem State.updSrc_quads (s : State) (i : Fin 18) (f : Source → Source) : (s.updSrc i f).quads = s.quads := rfl
@[simp] theorem State.updSrc_lanes (s : State) (i : Fin 18) (f : Source → Source) : (s.updSrc i f).lanes = s.lanes := rfl
@[simp] theorem State.updSrc_ports (s : State) (i : Fin 18) (f : Source → Source) : (s.updSrc i f).ports = s.ports := rfl
@[simp] theorem State.updSrc_srcs (s : State) (i : Fin 18) (f : Source → Source) : (s.updSrc i f).srcs = modAt s.srcs i f := rfl
@[simp] theorem State.updSrc_heads (s : State) (i : Fin 18) (f : Source → Source) : (s.updSrc i f).heads = s.heads := rfl
@[simp] theorem State.updSrc_pcams (s : State) (i : Fin 18) (f : Source → Source) : (s.updSrc i f).pcams = s.pcams := rfl
@[simp] theorem State.updSrc_pipes (s : State) (i : Fin 18) (f : Source → Source) : (s.updSrc i f).pipes = s.pipes := rfl
@[simp] theorem State.updSrc_mapStore (s : State) (i : Fin 18) (f : Source → Source) : (s.updSrc i f).mapStore = s.mapStore := rfl
@[simp] theorem State.updSrc_tallies (s : State) (i : Fin 18) (f : Source → Source) : (s.updSrc i f).tallies = s.tallies := rfl
@[simp] theorem State.updSrc_encs (s : State) (i : Fin 18) (f : Source → Source) : (s.updSrc i f).encs = s.encs := rfl
@[simp] theorem State.updSrc_tb (s : State) (i : Fin 18) (f : Source → Source) : (s.updSrc i f).tb = s.tb := rfl
@[simp] theorem State.updSrc_router (s : State) (i : Fin 18) (f : Source → Source) : (s.updSrc i f).router = s.router := rfl
@[simp] theorem State.updSrc_qm (s : State) (i : Fin 18) (f : Source → Source) : (s.updSrc i f).qm = s.qm := rfl
@[simp] theorem State.updSrc_dma (s : State) (i : Fin 18) (f : Source → Source) : (s.updSrc i f).dma = s.dma := rfl
@[simp] theorem State.updSrc_pstore (s : State) (i : Fin 18) (f : Source → Source) : (s.updSrc i f).pstore = s.pstore := rfl
@[simp] theorem State.updSrc_psOfs (s : State) (i : Fin 18) (f : Source → Source) : (s.updSrc i f).psOfs = s.psOfs := rfl
@[simp] theorem State.updSrc_host (s : State) (i : Fin 18) (f : Source → Source) : (s.updSrc i f).host = s.host := rfl
@[simp] theorem State.updSrc_axes (s : State) (i : Fin 18) (f : Source → Source) : (s.updSrc i f).axes = s.axes := rfl
@[simp] theorem State.updHead_pending (s : State) (h : Fin 16) (f : Head → Head) : (s.updHead h f).pending = s.pending := rfl
@[simp] theorem State.updHead_svc (s : State) (h : Fin 16) (f : Head → Head) : (s.updHead h f).svc = s.svc := rfl
@[simp] theorem State.updHead_coreTime (s : State) (h : Fin 16) (f : Head → Head) : (s.updHead h f).coreTime = s.coreTime := rfl
@[simp] theorem State.updHead_draw (s : State) (h : Fin 16) (f : Head → Head) : (s.updHead h f).draw = s.draw := rfl
@[simp] theorem State.updHead_reply (s : State) (h : Fin 16) (f : Head → Head) : (s.updHead h f).reply = s.reply := rfl
@[simp] theorem State.updHead_tx (s : State) (h : Fin 16) (f : Head → Head) : (s.updHead h f).tx = s.tx := rfl
@[simp] theorem State.updHead_pins (s : State) (h : Fin 16) (f : Head → Head) : (s.updHead h f).pins = s.pins := rfl
@[simp] theorem State.updHead_fuses (s : State) (h : Fin 16) (f : Head → Head) : (s.updHead h f).fuses = s.fuses := rfl
@[simp] theorem State.updHead_rst (s : State) (h : Fin 16) (f : Head → Head) : (s.updHead h f).rst = s.rst := rfl
@[simp] theorem State.updHead_clk (s : State) (h : Fin 16) (f : Head → Head) : (s.updHead h f).clk = s.clk := rfl
@[simp] theorem State.updHead_boot (s : State) (h : Fin 16) (f : Head → Head) : (s.updHead h f).boot = s.boot := rfl
@[simp] theorem State.updHead_thermal (s : State) (h : Fin 16) (f : Head → Head) : (s.updHead h f).thermal = s.thermal := rfl
@[simp] theorem State.updHead_mram (s : State) (h : Fin 16) (f : Head → Head) : (s.updHead h f).mram = s.mram := rfl
@[simp] theorem State.updHead_faults (s : State) (h : Fin 16) (f : Head → Head) : (s.updHead h f).faults = s.faults := rfl
@[simp] theorem State.updHead_vio (s : State) (h : Fin 16) (f : Head → Head) : (s.updHead h f).vio = s.vio := rfl
@[simp] theorem State.updHead_wdog (s : State) (h : Fin 16) (f : Head → Head) : (s.updHead h f).wdog = s.wdog := rfl
@[simp] theorem State.updHead_acc (s : State) (h : Fin 16) (f : Head → Head) : (s.updHead h f).acc = s.acc := rfl
@[simp] theorem State.updHead_mgt (s : State) (h : Fin 16) (f : Head → Head) : (s.updHead h f).mgt = s.mgt := rfl
@[simp] theorem State.updHead_ptp (s : State) (h : Fin 16) (f : Head → Head) : (s.updHead h f).ptp = s.ptp := rfl
@[simp] theorem State.updHead_sec (s : State) (h : Fin 16) (f : Head → Head) : (s.updHead h f).sec = s.sec := rfl
@[simp] theorem State.updHead_quads (s : State) (h : Fin 16) (f : Head → Head) : (s.updHead h f).quads = s.quads := rfl
@[simp] theorem State.updHead_lanes (s : State) (h : Fin 16) (f : Head → Head) : (s.updHead h f).lanes = s.lanes := rfl
@[simp] theorem State.updHead_ports (s : State) (h : Fin 16) (f : Head → Head) : (s.updHead h f).ports = s.ports := rfl
@[simp] theorem State.updHead_srcs (s : State) (h : Fin 16) (f : Head → Head) : (s.updHead h f).srcs = s.srcs := rfl
@[simp] theorem State.updHead_heads (s : State) (h : Fin 16) (f : Head → Head) : (s.updHead h f).heads = modAt s.heads h f := rfl
@[simp] theorem State.updHead_pcams (s : State) (h : Fin 16) (f : Head → Head) : (s.updHead h f).pcams = s.pcams := rfl
@[simp] theorem State.updHead_pipes (s : State) (h : Fin 16) (f : Head → Head) : (s.updHead h f).pipes = s.pipes := rfl
@[simp] theorem State.updHead_mapStore (s : State) (h : Fin 16) (f : Head → Head) : (s.updHead h f).mapStore = s.mapStore := rfl
@[simp] theorem State.updHead_tallies (s : State) (h : Fin 16) (f : Head → Head) : (s.updHead h f).tallies = s.tallies := rfl
@[simp] theorem State.updHead_encs (s : State) (h : Fin 16) (f : Head → Head) : (s.updHead h f).encs = s.encs := rfl
@[simp] theorem State.updHead_tb (s : State) (h : Fin 16) (f : Head → Head) : (s.updHead h f).tb = s.tb := rfl
@[simp] theorem State.updHead_router (s : State) (h : Fin 16) (f : Head → Head) : (s.updHead h f).router = s.router := rfl
@[simp] theorem State.updHead_qm (s : State) (h : Fin 16) (f : Head → Head) : (s.updHead h f).qm = s.qm := rfl
@[simp] theorem State.updHead_dma (s : State) (h : Fin 16) (f : Head → Head) : (s.updHead h f).dma = s.dma := rfl
@[simp] theorem State.updHead_pstore (s : State) (h : Fin 16) (f : Head → Head) : (s.updHead h f).pstore = s.pstore := rfl
@[simp] theorem State.updHead_psOfs (s : State) (h : Fin 16) (f : Head → Head) : (s.updHead h f).psOfs = s.psOfs := rfl
@[simp] theorem State.updHead_host (s : State) (h : Fin 16) (f : Head → Head) : (s.updHead h f).host = s.host := rfl
@[simp] theorem State.updHead_axes (s : State) (h : Fin 16) (f : Head → Head) : (s.updHead h f).axes = s.axes := rfl
@[simp] theorem State.updPcam_pending (s : State) (n : Fin 2) (f : Pcam → Pcam) : (s.updPcam n f).pending = s.pending := rfl
@[simp] theorem State.updPcam_svc (s : State) (n : Fin 2) (f : Pcam → Pcam) : (s.updPcam n f).svc = s.svc := rfl
@[simp] theorem State.updPcam_coreTime (s : State) (n : Fin 2) (f : Pcam → Pcam) : (s.updPcam n f).coreTime = s.coreTime := rfl
@[simp] theorem State.updPcam_draw (s : State) (n : Fin 2) (f : Pcam → Pcam) : (s.updPcam n f).draw = s.draw := rfl
@[simp] theorem State.updPcam_reply (s : State) (n : Fin 2) (f : Pcam → Pcam) : (s.updPcam n f).reply = s.reply := rfl
@[simp] theorem State.updPcam_tx (s : State) (n : Fin 2) (f : Pcam → Pcam) : (s.updPcam n f).tx = s.tx := rfl
@[simp] theorem State.updPcam_pins (s : State) (n : Fin 2) (f : Pcam → Pcam) : (s.updPcam n f).pins = s.pins := rfl
@[simp] theorem State.updPcam_fuses (s : State) (n : Fin 2) (f : Pcam → Pcam) : (s.updPcam n f).fuses = s.fuses := rfl
@[simp] theorem State.updPcam_rst (s : State) (n : Fin 2) (f : Pcam → Pcam) : (s.updPcam n f).rst = s.rst := rfl
@[simp] theorem State.updPcam_clk (s : State) (n : Fin 2) (f : Pcam → Pcam) : (s.updPcam n f).clk = s.clk := rfl
@[simp] theorem State.updPcam_boot (s : State) (n : Fin 2) (f : Pcam → Pcam) : (s.updPcam n f).boot = s.boot := rfl
@[simp] theorem State.updPcam_thermal (s : State) (n : Fin 2) (f : Pcam → Pcam) : (s.updPcam n f).thermal = s.thermal := rfl
@[simp] theorem State.updPcam_mram (s : State) (n : Fin 2) (f : Pcam → Pcam) : (s.updPcam n f).mram = s.mram := rfl
@[simp] theorem State.updPcam_faults (s : State) (n : Fin 2) (f : Pcam → Pcam) : (s.updPcam n f).faults = s.faults := rfl
@[simp] theorem State.updPcam_vio (s : State) (n : Fin 2) (f : Pcam → Pcam) : (s.updPcam n f).vio = s.vio := rfl
@[simp] theorem State.updPcam_wdog (s : State) (n : Fin 2) (f : Pcam → Pcam) : (s.updPcam n f).wdog = s.wdog := rfl
@[simp] theorem State.updPcam_acc (s : State) (n : Fin 2) (f : Pcam → Pcam) : (s.updPcam n f).acc = s.acc := rfl
@[simp] theorem State.updPcam_mgt (s : State) (n : Fin 2) (f : Pcam → Pcam) : (s.updPcam n f).mgt = s.mgt := rfl
@[simp] theorem State.updPcam_ptp (s : State) (n : Fin 2) (f : Pcam → Pcam) : (s.updPcam n f).ptp = s.ptp := rfl
@[simp] theorem State.updPcam_sec (s : State) (n : Fin 2) (f : Pcam → Pcam) : (s.updPcam n f).sec = s.sec := rfl
@[simp] theorem State.updPcam_quads (s : State) (n : Fin 2) (f : Pcam → Pcam) : (s.updPcam n f).quads = s.quads := rfl
@[simp] theorem State.updPcam_lanes (s : State) (n : Fin 2) (f : Pcam → Pcam) : (s.updPcam n f).lanes = s.lanes := rfl
@[simp] theorem State.updPcam_ports (s : State) (n : Fin 2) (f : Pcam → Pcam) : (s.updPcam n f).ports = s.ports := rfl
@[simp] theorem State.updPcam_srcs (s : State) (n : Fin 2) (f : Pcam → Pcam) : (s.updPcam n f).srcs = s.srcs := rfl
@[simp] theorem State.updPcam_heads (s : State) (n : Fin 2) (f : Pcam → Pcam) : (s.updPcam n f).heads = s.heads := rfl
@[simp] theorem State.updPcam_pcams (s : State) (n : Fin 2) (f : Pcam → Pcam) : (s.updPcam n f).pcams = modAt s.pcams n f := rfl
@[simp] theorem State.updPcam_pipes (s : State) (n : Fin 2) (f : Pcam → Pcam) : (s.updPcam n f).pipes = s.pipes := rfl
@[simp] theorem State.updPcam_mapStore (s : State) (n : Fin 2) (f : Pcam → Pcam) : (s.updPcam n f).mapStore = s.mapStore := rfl
@[simp] theorem State.updPcam_tallies (s : State) (n : Fin 2) (f : Pcam → Pcam) : (s.updPcam n f).tallies = s.tallies := rfl
@[simp] theorem State.updPcam_encs (s : State) (n : Fin 2) (f : Pcam → Pcam) : (s.updPcam n f).encs = s.encs := rfl
@[simp] theorem State.updPcam_tb (s : State) (n : Fin 2) (f : Pcam → Pcam) : (s.updPcam n f).tb = s.tb := rfl
@[simp] theorem State.updPcam_router (s : State) (n : Fin 2) (f : Pcam → Pcam) : (s.updPcam n f).router = s.router := rfl
@[simp] theorem State.updPcam_qm (s : State) (n : Fin 2) (f : Pcam → Pcam) : (s.updPcam n f).qm = s.qm := rfl
@[simp] theorem State.updPcam_dma (s : State) (n : Fin 2) (f : Pcam → Pcam) : (s.updPcam n f).dma = s.dma := rfl
@[simp] theorem State.updPcam_pstore (s : State) (n : Fin 2) (f : Pcam → Pcam) : (s.updPcam n f).pstore = s.pstore := rfl
@[simp] theorem State.updPcam_psOfs (s : State) (n : Fin 2) (f : Pcam → Pcam) : (s.updPcam n f).psOfs = s.psOfs := rfl
@[simp] theorem State.updPcam_host (s : State) (n : Fin 2) (f : Pcam → Pcam) : (s.updPcam n f).host = s.host := rfl
@[simp] theorem State.updPcam_axes (s : State) (n : Fin 2) (f : Pcam → Pcam) : (s.updPcam n f).axes = s.axes := rfl
@[simp] theorem State.updPipe_pending (s : State) (p : Fin 16) (f : Pipe → Pipe) : (s.updPipe p f).pending = s.pending := rfl
@[simp] theorem State.updPipe_svc (s : State) (p : Fin 16) (f : Pipe → Pipe) : (s.updPipe p f).svc = s.svc := rfl
@[simp] theorem State.updPipe_coreTime (s : State) (p : Fin 16) (f : Pipe → Pipe) : (s.updPipe p f).coreTime = s.coreTime := rfl
@[simp] theorem State.updPipe_draw (s : State) (p : Fin 16) (f : Pipe → Pipe) : (s.updPipe p f).draw = s.draw := rfl
@[simp] theorem State.updPipe_reply (s : State) (p : Fin 16) (f : Pipe → Pipe) : (s.updPipe p f).reply = s.reply := rfl
@[simp] theorem State.updPipe_tx (s : State) (p : Fin 16) (f : Pipe → Pipe) : (s.updPipe p f).tx = s.tx := rfl
@[simp] theorem State.updPipe_pins (s : State) (p : Fin 16) (f : Pipe → Pipe) : (s.updPipe p f).pins = s.pins := rfl
@[simp] theorem State.updPipe_fuses (s : State) (p : Fin 16) (f : Pipe → Pipe) : (s.updPipe p f).fuses = s.fuses := rfl
@[simp] theorem State.updPipe_rst (s : State) (p : Fin 16) (f : Pipe → Pipe) : (s.updPipe p f).rst = s.rst := rfl
@[simp] theorem State.updPipe_clk (s : State) (p : Fin 16) (f : Pipe → Pipe) : (s.updPipe p f).clk = s.clk := rfl
@[simp] theorem State.updPipe_boot (s : State) (p : Fin 16) (f : Pipe → Pipe) : (s.updPipe p f).boot = s.boot := rfl
@[simp] theorem State.updPipe_thermal (s : State) (p : Fin 16) (f : Pipe → Pipe) : (s.updPipe p f).thermal = s.thermal := rfl
@[simp] theorem State.updPipe_mram (s : State) (p : Fin 16) (f : Pipe → Pipe) : (s.updPipe p f).mram = s.mram := rfl
@[simp] theorem State.updPipe_faults (s : State) (p : Fin 16) (f : Pipe → Pipe) : (s.updPipe p f).faults = s.faults := rfl
@[simp] theorem State.updPipe_vio (s : State) (p : Fin 16) (f : Pipe → Pipe) : (s.updPipe p f).vio = s.vio := rfl
@[simp] theorem State.updPipe_wdog (s : State) (p : Fin 16) (f : Pipe → Pipe) : (s.updPipe p f).wdog = s.wdog := rfl
@[simp] theorem State.updPipe_acc (s : State) (p : Fin 16) (f : Pipe → Pipe) : (s.updPipe p f).acc = s.acc := rfl
@[simp] theorem State.updPipe_mgt (s : State) (p : Fin 16) (f : Pipe → Pipe) : (s.updPipe p f).mgt = s.mgt := rfl
@[simp] theorem State.updPipe_ptp (s : State) (p : Fin 16) (f : Pipe → Pipe) : (s.updPipe p f).ptp = s.ptp := rfl
@[simp] theorem State.updPipe_sec (s : State) (p : Fin 16) (f : Pipe → Pipe) : (s.updPipe p f).sec = s.sec := rfl
@[simp] theorem State.updPipe_quads (s : State) (p : Fin 16) (f : Pipe → Pipe) : (s.updPipe p f).quads = s.quads := rfl
@[simp] theorem State.updPipe_lanes (s : State) (p : Fin 16) (f : Pipe → Pipe) : (s.updPipe p f).lanes = s.lanes := rfl
@[simp] theorem State.updPipe_ports (s : State) (p : Fin 16) (f : Pipe → Pipe) : (s.updPipe p f).ports = s.ports := rfl
@[simp] theorem State.updPipe_srcs (s : State) (p : Fin 16) (f : Pipe → Pipe) : (s.updPipe p f).srcs = s.srcs := rfl
@[simp] theorem State.updPipe_heads (s : State) (p : Fin 16) (f : Pipe → Pipe) : (s.updPipe p f).heads = s.heads := rfl
@[simp] theorem State.updPipe_pcams (s : State) (p : Fin 16) (f : Pipe → Pipe) : (s.updPipe p f).pcams = s.pcams := rfl
@[simp] theorem State.updPipe_pipes (s : State) (p : Fin 16) (f : Pipe → Pipe) : (s.updPipe p f).pipes = modAt s.pipes p f := rfl
@[simp] theorem State.updPipe_mapStore (s : State) (p : Fin 16) (f : Pipe → Pipe) : (s.updPipe p f).mapStore = s.mapStore := rfl
@[simp] theorem State.updPipe_tallies (s : State) (p : Fin 16) (f : Pipe → Pipe) : (s.updPipe p f).tallies = s.tallies := rfl
@[simp] theorem State.updPipe_encs (s : State) (p : Fin 16) (f : Pipe → Pipe) : (s.updPipe p f).encs = s.encs := rfl
@[simp] theorem State.updPipe_tb (s : State) (p : Fin 16) (f : Pipe → Pipe) : (s.updPipe p f).tb = s.tb := rfl
@[simp] theorem State.updPipe_router (s : State) (p : Fin 16) (f : Pipe → Pipe) : (s.updPipe p f).router = s.router := rfl
@[simp] theorem State.updPipe_qm (s : State) (p : Fin 16) (f : Pipe → Pipe) : (s.updPipe p f).qm = s.qm := rfl
@[simp] theorem State.updPipe_dma (s : State) (p : Fin 16) (f : Pipe → Pipe) : (s.updPipe p f).dma = s.dma := rfl
@[simp] theorem State.updPipe_pstore (s : State) (p : Fin 16) (f : Pipe → Pipe) : (s.updPipe p f).pstore = s.pstore := rfl
@[simp] theorem State.updPipe_psOfs (s : State) (p : Fin 16) (f : Pipe → Pipe) : (s.updPipe p f).psOfs = s.psOfs := rfl
@[simp] theorem State.updPipe_host (s : State) (p : Fin 16) (f : Pipe → Pipe) : (s.updPipe p f).host = s.host := rfl
@[simp] theorem State.updPipe_axes (s : State) (p : Fin 16) (f : Pipe → Pipe) : (s.updPipe p f).axes = s.axes := rfl
@[simp] theorem State.updTally_pending (s : State) (p : Fin 16) (f : Tally → Tally) : (s.updTally p f).pending = s.pending := rfl
@[simp] theorem State.updTally_svc (s : State) (p : Fin 16) (f : Tally → Tally) : (s.updTally p f).svc = s.svc := rfl
@[simp] theorem State.updTally_coreTime (s : State) (p : Fin 16) (f : Tally → Tally) : (s.updTally p f).coreTime = s.coreTime := rfl
@[simp] theorem State.updTally_draw (s : State) (p : Fin 16) (f : Tally → Tally) : (s.updTally p f).draw = s.draw := rfl
@[simp] theorem State.updTally_reply (s : State) (p : Fin 16) (f : Tally → Tally) : (s.updTally p f).reply = s.reply := rfl
@[simp] theorem State.updTally_tx (s : State) (p : Fin 16) (f : Tally → Tally) : (s.updTally p f).tx = s.tx := rfl
@[simp] theorem State.updTally_pins (s : State) (p : Fin 16) (f : Tally → Tally) : (s.updTally p f).pins = s.pins := rfl
@[simp] theorem State.updTally_fuses (s : State) (p : Fin 16) (f : Tally → Tally) : (s.updTally p f).fuses = s.fuses := rfl
@[simp] theorem State.updTally_rst (s : State) (p : Fin 16) (f : Tally → Tally) : (s.updTally p f).rst = s.rst := rfl
@[simp] theorem State.updTally_clk (s : State) (p : Fin 16) (f : Tally → Tally) : (s.updTally p f).clk = s.clk := rfl
@[simp] theorem State.updTally_boot (s : State) (p : Fin 16) (f : Tally → Tally) : (s.updTally p f).boot = s.boot := rfl
@[simp] theorem State.updTally_thermal (s : State) (p : Fin 16) (f : Tally → Tally) : (s.updTally p f).thermal = s.thermal := rfl
@[simp] theorem State.updTally_mram (s : State) (p : Fin 16) (f : Tally → Tally) : (s.updTally p f).mram = s.mram := rfl
@[simp] theorem State.updTally_faults (s : State) (p : Fin 16) (f : Tally → Tally) : (s.updTally p f).faults = s.faults := rfl
@[simp] theorem State.updTally_vio (s : State) (p : Fin 16) (f : Tally → Tally) : (s.updTally p f).vio = s.vio := rfl
@[simp] theorem State.updTally_wdog (s : State) (p : Fin 16) (f : Tally → Tally) : (s.updTally p f).wdog = s.wdog := rfl
@[simp] theorem State.updTally_acc (s : State) (p : Fin 16) (f : Tally → Tally) : (s.updTally p f).acc = s.acc := rfl
@[simp] theorem State.updTally_mgt (s : State) (p : Fin 16) (f : Tally → Tally) : (s.updTally p f).mgt = s.mgt := rfl
@[simp] theorem State.updTally_ptp (s : State) (p : Fin 16) (f : Tally → Tally) : (s.updTally p f).ptp = s.ptp := rfl
@[simp] theorem State.updTally_sec (s : State) (p : Fin 16) (f : Tally → Tally) : (s.updTally p f).sec = s.sec := rfl
@[simp] theorem State.updTally_quads (s : State) (p : Fin 16) (f : Tally → Tally) : (s.updTally p f).quads = s.quads := rfl
@[simp] theorem State.updTally_lanes (s : State) (p : Fin 16) (f : Tally → Tally) : (s.updTally p f).lanes = s.lanes := rfl
@[simp] theorem State.updTally_ports (s : State) (p : Fin 16) (f : Tally → Tally) : (s.updTally p f).ports = s.ports := rfl
@[simp] theorem State.updTally_srcs (s : State) (p : Fin 16) (f : Tally → Tally) : (s.updTally p f).srcs = s.srcs := rfl
@[simp] theorem State.updTally_heads (s : State) (p : Fin 16) (f : Tally → Tally) : (s.updTally p f).heads = s.heads := rfl
@[simp] theorem State.updTally_pcams (s : State) (p : Fin 16) (f : Tally → Tally) : (s.updTally p f).pcams = s.pcams := rfl
@[simp] theorem State.updTally_pipes (s : State) (p : Fin 16) (f : Tally → Tally) : (s.updTally p f).pipes = s.pipes := rfl
@[simp] theorem State.updTally_mapStore (s : State) (p : Fin 16) (f : Tally → Tally) : (s.updTally p f).mapStore = s.mapStore := rfl
@[simp] theorem State.updTally_tallies (s : State) (p : Fin 16) (f : Tally → Tally) : (s.updTally p f).tallies = modAt s.tallies p f := rfl
@[simp] theorem State.updTally_encs (s : State) (p : Fin 16) (f : Tally → Tally) : (s.updTally p f).encs = s.encs := rfl
@[simp] theorem State.updTally_tb (s : State) (p : Fin 16) (f : Tally → Tally) : (s.updTally p f).tb = s.tb := rfl
@[simp] theorem State.updTally_router (s : State) (p : Fin 16) (f : Tally → Tally) : (s.updTally p f).router = s.router := rfl
@[simp] theorem State.updTally_qm (s : State) (p : Fin 16) (f : Tally → Tally) : (s.updTally p f).qm = s.qm := rfl
@[simp] theorem State.updTally_dma (s : State) (p : Fin 16) (f : Tally → Tally) : (s.updTally p f).dma = s.dma := rfl
@[simp] theorem State.updTally_pstore (s : State) (p : Fin 16) (f : Tally → Tally) : (s.updTally p f).pstore = s.pstore := rfl
@[simp] theorem State.updTally_psOfs (s : State) (p : Fin 16) (f : Tally → Tally) : (s.updTally p f).psOfs = s.psOfs := rfl
@[simp] theorem State.updTally_host (s : State) (p : Fin 16) (f : Tally → Tally) : (s.updTally p f).host = s.host := rfl
@[simp] theorem State.updTally_axes (s : State) (p : Fin 16) (f : Tally → Tally) : (s.updTally p f).axes = s.axes := rfl
@[simp] theorem State.updEnc_pending (s : State) (n : Fin 16) (f : Enc → Enc) : (s.updEnc n f).pending = s.pending := rfl
@[simp] theorem State.updEnc_svc (s : State) (n : Fin 16) (f : Enc → Enc) : (s.updEnc n f).svc = s.svc := rfl
@[simp] theorem State.updEnc_coreTime (s : State) (n : Fin 16) (f : Enc → Enc) : (s.updEnc n f).coreTime = s.coreTime := rfl
@[simp] theorem State.updEnc_draw (s : State) (n : Fin 16) (f : Enc → Enc) : (s.updEnc n f).draw = s.draw := rfl
@[simp] theorem State.updEnc_reply (s : State) (n : Fin 16) (f : Enc → Enc) : (s.updEnc n f).reply = s.reply := rfl
@[simp] theorem State.updEnc_tx (s : State) (n : Fin 16) (f : Enc → Enc) : (s.updEnc n f).tx = s.tx := rfl
@[simp] theorem State.updEnc_pins (s : State) (n : Fin 16) (f : Enc → Enc) : (s.updEnc n f).pins = s.pins := rfl
@[simp] theorem State.updEnc_fuses (s : State) (n : Fin 16) (f : Enc → Enc) : (s.updEnc n f).fuses = s.fuses := rfl
@[simp] theorem State.updEnc_rst (s : State) (n : Fin 16) (f : Enc → Enc) : (s.updEnc n f).rst = s.rst := rfl
@[simp] theorem State.updEnc_clk (s : State) (n : Fin 16) (f : Enc → Enc) : (s.updEnc n f).clk = s.clk := rfl
@[simp] theorem State.updEnc_boot (s : State) (n : Fin 16) (f : Enc → Enc) : (s.updEnc n f).boot = s.boot := rfl
@[simp] theorem State.updEnc_thermal (s : State) (n : Fin 16) (f : Enc → Enc) : (s.updEnc n f).thermal = s.thermal := rfl
@[simp] theorem State.updEnc_mram (s : State) (n : Fin 16) (f : Enc → Enc) : (s.updEnc n f).mram = s.mram := rfl
@[simp] theorem State.updEnc_faults (s : State) (n : Fin 16) (f : Enc → Enc) : (s.updEnc n f).faults = s.faults := rfl
@[simp] theorem State.updEnc_vio (s : State) (n : Fin 16) (f : Enc → Enc) : (s.updEnc n f).vio = s.vio := rfl
@[simp] theorem State.updEnc_wdog (s : State) (n : Fin 16) (f : Enc → Enc) : (s.updEnc n f).wdog = s.wdog := rfl
@[simp] theorem State.updEnc_acc (s : State) (n : Fin 16) (f : Enc → Enc) : (s.updEnc n f).acc = s.acc := rfl
@[simp] theorem State.updEnc_mgt (s : State) (n : Fin 16) (f : Enc → Enc) : (s.updEnc n f).mgt = s.mgt := rfl
@[simp] theorem State.updEnc_ptp (s : State) (n : Fin 16) (f : Enc → Enc) : (s.updEnc n f).ptp = s.ptp := rfl
@[simp] theorem State.updEnc_sec (s : State) (n : Fin 16) (f : Enc → Enc) : (s.updEnc n f).sec = s.sec := rfl
@[simp] theorem State.updEnc_quads (s : State) (n : Fin 16) (f : Enc → Enc) : (s.updEnc n f).quads = s.quads := rfl
@[simp] theorem State.updEnc_lanes (s : State) (n : Fin 16) (f : Enc → Enc) : (s.updEnc n f).lanes = s.lanes := rfl
@[simp] theorem State.updEnc_ports (s : State) (n : Fin 16) (f : Enc → Enc) : (s.updEnc n f).ports = s.ports := rfl
@[simp] theorem State.updEnc_srcs (s : State) (n : Fin 16) (f : Enc → Enc) : (s.updEnc n f).srcs = s.srcs := rfl
@[simp] theorem State.updEnc_heads (s : State) (n : Fin 16) (f : Enc → Enc) : (s.updEnc n f).heads = s.heads := rfl
@[simp] theorem State.updEnc_pcams (s : State) (n : Fin 16) (f : Enc → Enc) : (s.updEnc n f).pcams = s.pcams := rfl
@[simp] theorem State.updEnc_pipes (s : State) (n : Fin 16) (f : Enc → Enc) : (s.updEnc n f).pipes = s.pipes := rfl
@[simp] theorem State.updEnc_mapStore (s : State) (n : Fin 16) (f : Enc → Enc) : (s.updEnc n f).mapStore = s.mapStore := rfl
@[simp] theorem State.updEnc_tallies (s : State) (n : Fin 16) (f : Enc → Enc) : (s.updEnc n f).tallies = s.tallies := rfl
@[simp] theorem State.updEnc_encs (s : State) (n : Fin 16) (f : Enc → Enc) : (s.updEnc n f).encs = modAt s.encs n f := rfl
@[simp] theorem State.updEnc_tb (s : State) (n : Fin 16) (f : Enc → Enc) : (s.updEnc n f).tb = s.tb := rfl
@[simp] theorem State.updEnc_router (s : State) (n : Fin 16) (f : Enc → Enc) : (s.updEnc n f).router = s.router := rfl
@[simp] theorem State.updEnc_qm (s : State) (n : Fin 16) (f : Enc → Enc) : (s.updEnc n f).qm = s.qm := rfl
@[simp] theorem State.updEnc_dma (s : State) (n : Fin 16) (f : Enc → Enc) : (s.updEnc n f).dma = s.dma := rfl
@[simp] theorem State.updEnc_pstore (s : State) (n : Fin 16) (f : Enc → Enc) : (s.updEnc n f).pstore = s.pstore := rfl
@[simp] theorem State.updEnc_psOfs (s : State) (n : Fin 16) (f : Enc → Enc) : (s.updEnc n f).psOfs = s.psOfs := rfl
@[simp] theorem State.updEnc_host (s : State) (n : Fin 16) (f : Enc → Enc) : (s.updEnc n f).host = s.host := rfl
@[simp] theorem State.updEnc_axes (s : State) (n : Fin 16) (f : Enc → Enc) : (s.updEnc n f).axes = s.axes := rfl
@[simp] theorem State.updDma_pending (s : State) (c : Fin 512) (f : Dma → Dma) : (s.updDma c f).pending = s.pending := rfl
@[simp] theorem State.updDma_svc (s : State) (c : Fin 512) (f : Dma → Dma) : (s.updDma c f).svc = s.svc := rfl
@[simp] theorem State.updDma_coreTime (s : State) (c : Fin 512) (f : Dma → Dma) : (s.updDma c f).coreTime = s.coreTime := rfl
@[simp] theorem State.updDma_draw (s : State) (c : Fin 512) (f : Dma → Dma) : (s.updDma c f).draw = s.draw := rfl
@[simp] theorem State.updDma_reply (s : State) (c : Fin 512) (f : Dma → Dma) : (s.updDma c f).reply = s.reply := rfl
@[simp] theorem State.updDma_tx (s : State) (c : Fin 512) (f : Dma → Dma) : (s.updDma c f).tx = s.tx := rfl
@[simp] theorem State.updDma_pins (s : State) (c : Fin 512) (f : Dma → Dma) : (s.updDma c f).pins = s.pins := rfl
@[simp] theorem State.updDma_fuses (s : State) (c : Fin 512) (f : Dma → Dma) : (s.updDma c f).fuses = s.fuses := rfl
@[simp] theorem State.updDma_rst (s : State) (c : Fin 512) (f : Dma → Dma) : (s.updDma c f).rst = s.rst := rfl
@[simp] theorem State.updDma_clk (s : State) (c : Fin 512) (f : Dma → Dma) : (s.updDma c f).clk = s.clk := rfl
@[simp] theorem State.updDma_boot (s : State) (c : Fin 512) (f : Dma → Dma) : (s.updDma c f).boot = s.boot := rfl
@[simp] theorem State.updDma_thermal (s : State) (c : Fin 512) (f : Dma → Dma) : (s.updDma c f).thermal = s.thermal := rfl
@[simp] theorem State.updDma_mram (s : State) (c : Fin 512) (f : Dma → Dma) : (s.updDma c f).mram = s.mram := rfl
@[simp] theorem State.updDma_faults (s : State) (c : Fin 512) (f : Dma → Dma) : (s.updDma c f).faults = s.faults := rfl
@[simp] theorem State.updDma_vio (s : State) (c : Fin 512) (f : Dma → Dma) : (s.updDma c f).vio = s.vio := rfl
@[simp] theorem State.updDma_wdog (s : State) (c : Fin 512) (f : Dma → Dma) : (s.updDma c f).wdog = s.wdog := rfl
@[simp] theorem State.updDma_acc (s : State) (c : Fin 512) (f : Dma → Dma) : (s.updDma c f).acc = s.acc := rfl
@[simp] theorem State.updDma_mgt (s : State) (c : Fin 512) (f : Dma → Dma) : (s.updDma c f).mgt = s.mgt := rfl
@[simp] theorem State.updDma_ptp (s : State) (c : Fin 512) (f : Dma → Dma) : (s.updDma c f).ptp = s.ptp := rfl
@[simp] theorem State.updDma_sec (s : State) (c : Fin 512) (f : Dma → Dma) : (s.updDma c f).sec = s.sec := rfl
@[simp] theorem State.updDma_quads (s : State) (c : Fin 512) (f : Dma → Dma) : (s.updDma c f).quads = s.quads := rfl
@[simp] theorem State.updDma_lanes (s : State) (c : Fin 512) (f : Dma → Dma) : (s.updDma c f).lanes = s.lanes := rfl
@[simp] theorem State.updDma_ports (s : State) (c : Fin 512) (f : Dma → Dma) : (s.updDma c f).ports = s.ports := rfl
@[simp] theorem State.updDma_srcs (s : State) (c : Fin 512) (f : Dma → Dma) : (s.updDma c f).srcs = s.srcs := rfl
@[simp] theorem State.updDma_heads (s : State) (c : Fin 512) (f : Dma → Dma) : (s.updDma c f).heads = s.heads := rfl
@[simp] theorem State.updDma_pcams (s : State) (c : Fin 512) (f : Dma → Dma) : (s.updDma c f).pcams = s.pcams := rfl
@[simp] theorem State.updDma_pipes (s : State) (c : Fin 512) (f : Dma → Dma) : (s.updDma c f).pipes = s.pipes := rfl
@[simp] theorem State.updDma_mapStore (s : State) (c : Fin 512) (f : Dma → Dma) : (s.updDma c f).mapStore = s.mapStore := rfl
@[simp] theorem State.updDma_tallies (s : State) (c : Fin 512) (f : Dma → Dma) : (s.updDma c f).tallies = s.tallies := rfl
@[simp] theorem State.updDma_encs (s : State) (c : Fin 512) (f : Dma → Dma) : (s.updDma c f).encs = s.encs := rfl
@[simp] theorem State.updDma_tb (s : State) (c : Fin 512) (f : Dma → Dma) : (s.updDma c f).tb = s.tb := rfl
@[simp] theorem State.updDma_router (s : State) (c : Fin 512) (f : Dma → Dma) : (s.updDma c f).router = s.router := rfl
@[simp] theorem State.updDma_qm (s : State) (c : Fin 512) (f : Dma → Dma) : (s.updDma c f).qm = s.qm := rfl
@[simp] theorem State.updDma_dma (s : State) (c : Fin 512) (f : Dma → Dma) : (s.updDma c f).dma = modAt s.dma c f := rfl
@[simp] theorem State.updDma_pstore (s : State) (c : Fin 512) (f : Dma → Dma) : (s.updDma c f).pstore = s.pstore := rfl
@[simp] theorem State.updDma_psOfs (s : State) (c : Fin 512) (f : Dma → Dma) : (s.updDma c f).psOfs = s.psOfs := rfl
@[simp] theorem State.updDma_host (s : State) (c : Fin 512) (f : Dma → Dma) : (s.updDma c f).host = s.host := rfl
@[simp] theorem State.updDma_axes (s : State) (c : Fin 512) (f : Dma → Dma) : (s.updDma c f).axes = s.axes := rfl
@[simp] theorem State.updAxis_pending (s : State) (a : Fin 8) (f : Axis → Axis) : (s.updAxis a f).pending = s.pending := rfl
@[simp] theorem State.updAxis_svc (s : State) (a : Fin 8) (f : Axis → Axis) : (s.updAxis a f).svc = s.svc := rfl
@[simp] theorem State.updAxis_coreTime (s : State) (a : Fin 8) (f : Axis → Axis) : (s.updAxis a f).coreTime = s.coreTime := rfl
@[simp] theorem State.updAxis_draw (s : State) (a : Fin 8) (f : Axis → Axis) : (s.updAxis a f).draw = s.draw := rfl
@[simp] theorem State.updAxis_reply (s : State) (a : Fin 8) (f : Axis → Axis) : (s.updAxis a f).reply = s.reply := rfl
@[simp] theorem State.updAxis_tx (s : State) (a : Fin 8) (f : Axis → Axis) : (s.updAxis a f).tx = s.tx := rfl
@[simp] theorem State.updAxis_pins (s : State) (a : Fin 8) (f : Axis → Axis) : (s.updAxis a f).pins = s.pins := rfl
@[simp] theorem State.updAxis_fuses (s : State) (a : Fin 8) (f : Axis → Axis) : (s.updAxis a f).fuses = s.fuses := rfl
@[simp] theorem State.updAxis_rst (s : State) (a : Fin 8) (f : Axis → Axis) : (s.updAxis a f).rst = s.rst := rfl
@[simp] theorem State.updAxis_clk (s : State) (a : Fin 8) (f : Axis → Axis) : (s.updAxis a f).clk = s.clk := rfl
@[simp] theorem State.updAxis_boot (s : State) (a : Fin 8) (f : Axis → Axis) : (s.updAxis a f).boot = s.boot := rfl
@[simp] theorem State.updAxis_thermal (s : State) (a : Fin 8) (f : Axis → Axis) : (s.updAxis a f).thermal = s.thermal := rfl
@[simp] theorem State.updAxis_mram (s : State) (a : Fin 8) (f : Axis → Axis) : (s.updAxis a f).mram = s.mram := rfl
@[simp] theorem State.updAxis_faults (s : State) (a : Fin 8) (f : Axis → Axis) : (s.updAxis a f).faults = s.faults := rfl
@[simp] theorem State.updAxis_vio (s : State) (a : Fin 8) (f : Axis → Axis) : (s.updAxis a f).vio = s.vio := rfl
@[simp] theorem State.updAxis_wdog (s : State) (a : Fin 8) (f : Axis → Axis) : (s.updAxis a f).wdog = s.wdog := rfl
@[simp] theorem State.updAxis_acc (s : State) (a : Fin 8) (f : Axis → Axis) : (s.updAxis a f).acc = s.acc := rfl
@[simp] theorem State.updAxis_mgt (s : State) (a : Fin 8) (f : Axis → Axis) : (s.updAxis a f).mgt = s.mgt := rfl
@[simp] theorem State.updAxis_ptp (s : State) (a : Fin 8) (f : Axis → Axis) : (s.updAxis a f).ptp = s.ptp := rfl
@[simp] theorem State.updAxis_sec (s : State) (a : Fin 8) (f : Axis → Axis) : (s.updAxis a f).sec = s.sec := rfl
@[simp] theorem State.updAxis_quads (s : State) (a : Fin 8) (f : Axis → Axis) : (s.updAxis a f).quads = s.quads := rfl
@[simp] theorem State.updAxis_lanes (s : State) (a : Fin 8) (f : Axis → Axis) : (s.updAxis a f).lanes = s.lanes := rfl
@[simp] theorem State.updAxis_ports (s : State) (a : Fin 8) (f : Axis → Axis) : (s.updAxis a f).ports = s.ports := rfl
@[simp] theorem State.updAxis_srcs (s : State) (a : Fin 8) (f : Axis → Axis) : (s.updAxis a f).srcs = s.srcs := rfl
@[simp] theorem State.updAxis_heads (s : State) (a : Fin 8) (f : Axis → Axis) : (s.updAxis a f).heads = s.heads := rfl
@[simp] theorem State.updAxis_pcams (s : State) (a : Fin 8) (f : Axis → Axis) : (s.updAxis a f).pcams = s.pcams := rfl
@[simp] theorem State.updAxis_pipes (s : State) (a : Fin 8) (f : Axis → Axis) : (s.updAxis a f).pipes = s.pipes := rfl
@[simp] theorem State.updAxis_mapStore (s : State) (a : Fin 8) (f : Axis → Axis) : (s.updAxis a f).mapStore = s.mapStore := rfl
@[simp] theorem State.updAxis_tallies (s : State) (a : Fin 8) (f : Axis → Axis) : (s.updAxis a f).tallies = s.tallies := rfl
@[simp] theorem State.updAxis_encs (s : State) (a : Fin 8) (f : Axis → Axis) : (s.updAxis a f).encs = s.encs := rfl
@[simp] theorem State.updAxis_tb (s : State) (a : Fin 8) (f : Axis → Axis) : (s.updAxis a f).tb = s.tb := rfl
@[simp] theorem State.updAxis_router (s : State) (a : Fin 8) (f : Axis → Axis) : (s.updAxis a f).router = s.router := rfl
@[simp] theorem State.updAxis_qm (s : State) (a : Fin 8) (f : Axis → Axis) : (s.updAxis a f).qm = s.qm := rfl
@[simp] theorem State.updAxis_dma (s : State) (a : Fin 8) (f : Axis → Axis) : (s.updAxis a f).dma = s.dma := rfl
@[simp] theorem State.updAxis_pstore (s : State) (a : Fin 8) (f : Axis → Axis) : (s.updAxis a f).pstore = s.pstore := rfl
@[simp] theorem State.updAxis_psOfs (s : State) (a : Fin 8) (f : Axis → Axis) : (s.updAxis a f).psOfs = s.psOfs := rfl
@[simp] theorem State.updAxis_host (s : State) (a : Fin 8) (f : Axis → Axis) : (s.updAxis a f).host = s.host := rfl
@[simp] theorem State.updAxis_axes (s : State) (a : Fin 8) (f : Axis → Axis) : (s.updAxis a f).axes = modAt s.axes a f := rfl
@[simp] theorem State.updMgt_pending (s : State) (m : Fin 2) (f : Mgt → Mgt) : (s.updMgt m f).pending = s.pending := rfl
@[simp] theorem State.updMgt_svc (s : State) (m : Fin 2) (f : Mgt → Mgt) : (s.updMgt m f).svc = s.svc := rfl
@[simp] theorem State.updMgt_coreTime (s : State) (m : Fin 2) (f : Mgt → Mgt) : (s.updMgt m f).coreTime = s.coreTime := rfl
@[simp] theorem State.updMgt_draw (s : State) (m : Fin 2) (f : Mgt → Mgt) : (s.updMgt m f).draw = s.draw := rfl
@[simp] theorem State.updMgt_reply (s : State) (m : Fin 2) (f : Mgt → Mgt) : (s.updMgt m f).reply = s.reply := rfl
@[simp] theorem State.updMgt_tx (s : State) (m : Fin 2) (f : Mgt → Mgt) : (s.updMgt m f).tx = s.tx := rfl
@[simp] theorem State.updMgt_pins (s : State) (m : Fin 2) (f : Mgt → Mgt) : (s.updMgt m f).pins = s.pins := rfl
@[simp] theorem State.updMgt_fuses (s : State) (m : Fin 2) (f : Mgt → Mgt) : (s.updMgt m f).fuses = s.fuses := rfl
@[simp] theorem State.updMgt_rst (s : State) (m : Fin 2) (f : Mgt → Mgt) : (s.updMgt m f).rst = s.rst := rfl
@[simp] theorem State.updMgt_clk (s : State) (m : Fin 2) (f : Mgt → Mgt) : (s.updMgt m f).clk = s.clk := rfl
@[simp] theorem State.updMgt_boot (s : State) (m : Fin 2) (f : Mgt → Mgt) : (s.updMgt m f).boot = s.boot := rfl
@[simp] theorem State.updMgt_thermal (s : State) (m : Fin 2) (f : Mgt → Mgt) : (s.updMgt m f).thermal = s.thermal := rfl
@[simp] theorem State.updMgt_mram (s : State) (m : Fin 2) (f : Mgt → Mgt) : (s.updMgt m f).mram = s.mram := rfl
@[simp] theorem State.updMgt_faults (s : State) (m : Fin 2) (f : Mgt → Mgt) : (s.updMgt m f).faults = s.faults := rfl
@[simp] theorem State.updMgt_vio (s : State) (m : Fin 2) (f : Mgt → Mgt) : (s.updMgt m f).vio = s.vio := rfl
@[simp] theorem State.updMgt_wdog (s : State) (m : Fin 2) (f : Mgt → Mgt) : (s.updMgt m f).wdog = s.wdog := rfl
@[simp] theorem State.updMgt_acc (s : State) (m : Fin 2) (f : Mgt → Mgt) : (s.updMgt m f).acc = s.acc := rfl
@[simp] theorem State.updMgt_mgt (s : State) (m : Fin 2) (f : Mgt → Mgt) : (s.updMgt m f).mgt = modAt s.mgt m f := rfl
@[simp] theorem State.updMgt_ptp (s : State) (m : Fin 2) (f : Mgt → Mgt) : (s.updMgt m f).ptp = s.ptp := rfl
@[simp] theorem State.updMgt_sec (s : State) (m : Fin 2) (f : Mgt → Mgt) : (s.updMgt m f).sec = s.sec := rfl
@[simp] theorem State.updMgt_quads (s : State) (m : Fin 2) (f : Mgt → Mgt) : (s.updMgt m f).quads = s.quads := rfl
@[simp] theorem State.updMgt_lanes (s : State) (m : Fin 2) (f : Mgt → Mgt) : (s.updMgt m f).lanes = s.lanes := rfl
@[simp] theorem State.updMgt_ports (s : State) (m : Fin 2) (f : Mgt → Mgt) : (s.updMgt m f).ports = s.ports := rfl
@[simp] theorem State.updMgt_srcs (s : State) (m : Fin 2) (f : Mgt → Mgt) : (s.updMgt m f).srcs = s.srcs := rfl
@[simp] theorem State.updMgt_heads (s : State) (m : Fin 2) (f : Mgt → Mgt) : (s.updMgt m f).heads = s.heads := rfl
@[simp] theorem State.updMgt_pcams (s : State) (m : Fin 2) (f : Mgt → Mgt) : (s.updMgt m f).pcams = s.pcams := rfl
@[simp] theorem State.updMgt_pipes (s : State) (m : Fin 2) (f : Mgt → Mgt) : (s.updMgt m f).pipes = s.pipes := rfl
@[simp] theorem State.updMgt_mapStore (s : State) (m : Fin 2) (f : Mgt → Mgt) : (s.updMgt m f).mapStore = s.mapStore := rfl
@[simp] theorem State.updMgt_tallies (s : State) (m : Fin 2) (f : Mgt → Mgt) : (s.updMgt m f).tallies = s.tallies := rfl
@[simp] theorem State.updMgt_encs (s : State) (m : Fin 2) (f : Mgt → Mgt) : (s.updMgt m f).encs = s.encs := rfl
@[simp] theorem State.updMgt_tb (s : State) (m : Fin 2) (f : Mgt → Mgt) : (s.updMgt m f).tb = s.tb := rfl
@[simp] theorem State.updMgt_router (s : State) (m : Fin 2) (f : Mgt → Mgt) : (s.updMgt m f).router = s.router := rfl
@[simp] theorem State.updMgt_qm (s : State) (m : Fin 2) (f : Mgt → Mgt) : (s.updMgt m f).qm = s.qm := rfl
@[simp] theorem State.updMgt_dma (s : State) (m : Fin 2) (f : Mgt → Mgt) : (s.updMgt m f).dma = s.dma := rfl
@[simp] theorem State.updMgt_pstore (s : State) (m : Fin 2) (f : Mgt → Mgt) : (s.updMgt m f).pstore = s.pstore := rfl
@[simp] theorem State.updMgt_psOfs (s : State) (m : Fin 2) (f : Mgt → Mgt) : (s.updMgt m f).psOfs = s.psOfs := rfl
@[simp] theorem State.updMgt_host (s : State) (m : Fin 2) (f : Mgt → Mgt) : (s.updMgt m f).host = s.host := rfl
@[simp] theorem State.updMgt_axes (s : State) (m : Fin 2) (f : Mgt → Mgt) : (s.updMgt m f).axes = s.axes := rfl
@[simp] theorem State.updTb_pending (s : State) (f : Timebase → Timebase) : (s.updTb f).pending = s.pending := rfl
@[simp] theorem State.updTb_svc (s : State) (f : Timebase → Timebase) : (s.updTb f).svc = s.svc := rfl
@[simp] theorem State.updTb_coreTime (s : State) (f : Timebase → Timebase) : (s.updTb f).coreTime = s.coreTime := rfl
@[simp] theorem State.updTb_draw (s : State) (f : Timebase → Timebase) : (s.updTb f).draw = s.draw := rfl
@[simp] theorem State.updTb_reply (s : State) (f : Timebase → Timebase) : (s.updTb f).reply = s.reply := rfl
@[simp] theorem State.updTb_tx (s : State) (f : Timebase → Timebase) : (s.updTb f).tx = s.tx := rfl
@[simp] theorem State.updTb_pins (s : State) (f : Timebase → Timebase) : (s.updTb f).pins = s.pins := rfl
@[simp] theorem State.updTb_fuses (s : State) (f : Timebase → Timebase) : (s.updTb f).fuses = s.fuses := rfl
@[simp] theorem State.updTb_rst (s : State) (f : Timebase → Timebase) : (s.updTb f).rst = s.rst := rfl
@[simp] theorem State.updTb_clk (s : State) (f : Timebase → Timebase) : (s.updTb f).clk = s.clk := rfl
@[simp] theorem State.updTb_boot (s : State) (f : Timebase → Timebase) : (s.updTb f).boot = s.boot := rfl
@[simp] theorem State.updTb_thermal (s : State) (f : Timebase → Timebase) : (s.updTb f).thermal = s.thermal := rfl
@[simp] theorem State.updTb_mram (s : State) (f : Timebase → Timebase) : (s.updTb f).mram = s.mram := rfl
@[simp] theorem State.updTb_faults (s : State) (f : Timebase → Timebase) : (s.updTb f).faults = s.faults := rfl
@[simp] theorem State.updTb_vio (s : State) (f : Timebase → Timebase) : (s.updTb f).vio = s.vio := rfl
@[simp] theorem State.updTb_wdog (s : State) (f : Timebase → Timebase) : (s.updTb f).wdog = s.wdog := rfl
@[simp] theorem State.updTb_acc (s : State) (f : Timebase → Timebase) : (s.updTb f).acc = s.acc := rfl
@[simp] theorem State.updTb_mgt (s : State) (f : Timebase → Timebase) : (s.updTb f).mgt = s.mgt := rfl
@[simp] theorem State.updTb_ptp (s : State) (f : Timebase → Timebase) : (s.updTb f).ptp = s.ptp := rfl
@[simp] theorem State.updTb_sec (s : State) (f : Timebase → Timebase) : (s.updTb f).sec = s.sec := rfl
@[simp] theorem State.updTb_quads (s : State) (f : Timebase → Timebase) : (s.updTb f).quads = s.quads := rfl
@[simp] theorem State.updTb_lanes (s : State) (f : Timebase → Timebase) : (s.updTb f).lanes = s.lanes := rfl
@[simp] theorem State.updTb_ports (s : State) (f : Timebase → Timebase) : (s.updTb f).ports = s.ports := rfl
@[simp] theorem State.updTb_srcs (s : State) (f : Timebase → Timebase) : (s.updTb f).srcs = s.srcs := rfl
@[simp] theorem State.updTb_heads (s : State) (f : Timebase → Timebase) : (s.updTb f).heads = s.heads := rfl
@[simp] theorem State.updTb_pcams (s : State) (f : Timebase → Timebase) : (s.updTb f).pcams = s.pcams := rfl
@[simp] theorem State.updTb_pipes (s : State) (f : Timebase → Timebase) : (s.updTb f).pipes = s.pipes := rfl
@[simp] theorem State.updTb_mapStore (s : State) (f : Timebase → Timebase) : (s.updTb f).mapStore = s.mapStore := rfl
@[simp] theorem State.updTb_tallies (s : State) (f : Timebase → Timebase) : (s.updTb f).tallies = s.tallies := rfl
@[simp] theorem State.updTb_encs (s : State) (f : Timebase → Timebase) : (s.updTb f).encs = s.encs := rfl
@[simp] theorem State.updTb_tb (s : State) (f : Timebase → Timebase) : (s.updTb f).tb = f s.tb := rfl
@[simp] theorem State.updTb_router (s : State) (f : Timebase → Timebase) : (s.updTb f).router = s.router := rfl
@[simp] theorem State.updTb_qm (s : State) (f : Timebase → Timebase) : (s.updTb f).qm = s.qm := rfl
@[simp] theorem State.updTb_dma (s : State) (f : Timebase → Timebase) : (s.updTb f).dma = s.dma := rfl
@[simp] theorem State.updTb_pstore (s : State) (f : Timebase → Timebase) : (s.updTb f).pstore = s.pstore := rfl
@[simp] theorem State.updTb_psOfs (s : State) (f : Timebase → Timebase) : (s.updTb f).psOfs = s.psOfs := rfl
@[simp] theorem State.updTb_host (s : State) (f : Timebase → Timebase) : (s.updTb f).host = s.host := rfl
@[simp] theorem State.updTb_axes (s : State) (f : Timebase → Timebase) : (s.updTb f).axes = s.axes := rfl
@[simp] theorem State.updRing_pending (s : State) (f : Ring → Ring) : (s.updRing f).pending = s.pending := rfl
@[simp] theorem State.updRing_svc (s : State) (f : Ring → Ring) : (s.updRing f).svc = s.svc := rfl
@[simp] theorem State.updRing_coreTime (s : State) (f : Ring → Ring) : (s.updRing f).coreTime = s.coreTime := rfl
@[simp] theorem State.updRing_draw (s : State) (f : Ring → Ring) : (s.updRing f).draw = s.draw := rfl
@[simp] theorem State.updRing_reply (s : State) (f : Ring → Ring) : (s.updRing f).reply = s.reply := rfl
@[simp] theorem State.updRing_tx (s : State) (f : Ring → Ring) : (s.updRing f).tx = s.tx := rfl
@[simp] theorem State.updRing_pins (s : State) (f : Ring → Ring) : (s.updRing f).pins = s.pins := rfl
@[simp] theorem State.updRing_fuses (s : State) (f : Ring → Ring) : (s.updRing f).fuses = s.fuses := rfl
@[simp] theorem State.updRing_rst (s : State) (f : Ring → Ring) : (s.updRing f).rst = s.rst := rfl
@[simp] theorem State.updRing_clk (s : State) (f : Ring → Ring) : (s.updRing f).clk = s.clk := rfl
@[simp] theorem State.updRing_boot (s : State) (f : Ring → Ring) : (s.updRing f).boot = s.boot := rfl
@[simp] theorem State.updRing_thermal (s : State) (f : Ring → Ring) : (s.updRing f).thermal = s.thermal := rfl
@[simp] theorem State.updRing_mram (s : State) (f : Ring → Ring) : (s.updRing f).mram = s.mram := rfl
@[simp] theorem State.updRing_faults (s : State) (f : Ring → Ring) : (s.updRing f).faults = s.faults := rfl
@[simp] theorem State.updRing_vio (s : State) (f : Ring → Ring) : (s.updRing f).vio = s.vio := rfl
@[simp] theorem State.updRing_wdog (s : State) (f : Ring → Ring) : (s.updRing f).wdog = s.wdog := rfl
@[simp] theorem State.updRing_acc (s : State) (f : Ring → Ring) : (s.updRing f).acc = s.acc := rfl
@[simp] theorem State.updRing_mgt (s : State) (f : Ring → Ring) : (s.updRing f).mgt = s.mgt := rfl
@[simp] theorem State.updRing_ptp (s : State) (f : Ring → Ring) : (s.updRing f).ptp = s.ptp := rfl
@[simp] theorem State.updRing_sec (s : State) (f : Ring → Ring) : (s.updRing f).sec = s.sec := rfl
@[simp] theorem State.updRing_quads (s : State) (f : Ring → Ring) : (s.updRing f).quads = s.quads := rfl
@[simp] theorem State.updRing_lanes (s : State) (f : Ring → Ring) : (s.updRing f).lanes = s.lanes := rfl
@[simp] theorem State.updRing_ports (s : State) (f : Ring → Ring) : (s.updRing f).ports = s.ports := rfl
@[simp] theorem State.updRing_srcs (s : State) (f : Ring → Ring) : (s.updRing f).srcs = s.srcs := rfl
@[simp] theorem State.updRing_heads (s : State) (f : Ring → Ring) : (s.updRing f).heads = s.heads := rfl
@[simp] theorem State.updRing_pcams (s : State) (f : Ring → Ring) : (s.updRing f).pcams = s.pcams := rfl
@[simp] theorem State.updRing_pipes (s : State) (f : Ring → Ring) : (s.updRing f).pipes = s.pipes := rfl
@[simp] theorem State.updRing_mapStore (s : State) (f : Ring → Ring) : (s.updRing f).mapStore = s.mapStore := rfl
@[simp] theorem State.updRing_tallies (s : State) (f : Ring → Ring) : (s.updRing f).tallies = s.tallies := rfl
@[simp] theorem State.updRing_encs (s : State) (f : Ring → Ring) : (s.updRing f).encs = s.encs := rfl
@[simp] theorem State.updRing_tb (s : State) (f : Ring → Ring) : (s.updRing f).tb = { s.tb with ring := f s.tb.ring } := rfl
@[simp] theorem State.updRing_router (s : State) (f : Ring → Ring) : (s.updRing f).router = s.router := rfl
@[simp] theorem State.updRing_qm (s : State) (f : Ring → Ring) : (s.updRing f).qm = s.qm := rfl
@[simp] theorem State.updRing_dma (s : State) (f : Ring → Ring) : (s.updRing f).dma = s.dma := rfl
@[simp] theorem State.updRing_pstore (s : State) (f : Ring → Ring) : (s.updRing f).pstore = s.pstore := rfl
@[simp] theorem State.updRing_psOfs (s : State) (f : Ring → Ring) : (s.updRing f).psOfs = s.psOfs := rfl
@[simp] theorem State.updRing_host (s : State) (f : Ring → Ring) : (s.updRing f).host = s.host := rfl
@[simp] theorem State.updRing_axes (s : State) (f : Ring → Ring) : (s.updRing f).axes = s.axes := rfl
@[simp] theorem State.updSeq_pending (s : State) (i : Fin 16) (f : Seq → Seq) : (s.updSeq i f).pending = s.pending := rfl
@[simp] theorem State.updSeq_svc (s : State) (i : Fin 16) (f : Seq → Seq) : (s.updSeq i f).svc = s.svc := rfl
@[simp] theorem State.updSeq_coreTime (s : State) (i : Fin 16) (f : Seq → Seq) : (s.updSeq i f).coreTime = s.coreTime := rfl
@[simp] theorem State.updSeq_draw (s : State) (i : Fin 16) (f : Seq → Seq) : (s.updSeq i f).draw = s.draw := rfl
@[simp] theorem State.updSeq_reply (s : State) (i : Fin 16) (f : Seq → Seq) : (s.updSeq i f).reply = s.reply := rfl
@[simp] theorem State.updSeq_tx (s : State) (i : Fin 16) (f : Seq → Seq) : (s.updSeq i f).tx = s.tx := rfl
@[simp] theorem State.updSeq_pins (s : State) (i : Fin 16) (f : Seq → Seq) : (s.updSeq i f).pins = s.pins := rfl
@[simp] theorem State.updSeq_fuses (s : State) (i : Fin 16) (f : Seq → Seq) : (s.updSeq i f).fuses = s.fuses := rfl
@[simp] theorem State.updSeq_rst (s : State) (i : Fin 16) (f : Seq → Seq) : (s.updSeq i f).rst = s.rst := rfl
@[simp] theorem State.updSeq_clk (s : State) (i : Fin 16) (f : Seq → Seq) : (s.updSeq i f).clk = s.clk := rfl
@[simp] theorem State.updSeq_boot (s : State) (i : Fin 16) (f : Seq → Seq) : (s.updSeq i f).boot = s.boot := rfl
@[simp] theorem State.updSeq_thermal (s : State) (i : Fin 16) (f : Seq → Seq) : (s.updSeq i f).thermal = s.thermal := rfl
@[simp] theorem State.updSeq_mram (s : State) (i : Fin 16) (f : Seq → Seq) : (s.updSeq i f).mram = s.mram := rfl
@[simp] theorem State.updSeq_faults (s : State) (i : Fin 16) (f : Seq → Seq) : (s.updSeq i f).faults = s.faults := rfl
@[simp] theorem State.updSeq_vio (s : State) (i : Fin 16) (f : Seq → Seq) : (s.updSeq i f).vio = s.vio := rfl
@[simp] theorem State.updSeq_wdog (s : State) (i : Fin 16) (f : Seq → Seq) : (s.updSeq i f).wdog = s.wdog := rfl
@[simp] theorem State.updSeq_acc (s : State) (i : Fin 16) (f : Seq → Seq) : (s.updSeq i f).acc = s.acc := rfl
@[simp] theorem State.updSeq_mgt (s : State) (i : Fin 16) (f : Seq → Seq) : (s.updSeq i f).mgt = s.mgt := rfl
@[simp] theorem State.updSeq_ptp (s : State) (i : Fin 16) (f : Seq → Seq) : (s.updSeq i f).ptp = s.ptp := rfl
@[simp] theorem State.updSeq_sec (s : State) (i : Fin 16) (f : Seq → Seq) : (s.updSeq i f).sec = s.sec := rfl
@[simp] theorem State.updSeq_quads (s : State) (i : Fin 16) (f : Seq → Seq) : (s.updSeq i f).quads = s.quads := rfl
@[simp] theorem State.updSeq_lanes (s : State) (i : Fin 16) (f : Seq → Seq) : (s.updSeq i f).lanes = s.lanes := rfl
@[simp] theorem State.updSeq_ports (s : State) (i : Fin 16) (f : Seq → Seq) : (s.updSeq i f).ports = s.ports := rfl
@[simp] theorem State.updSeq_srcs (s : State) (i : Fin 16) (f : Seq → Seq) : (s.updSeq i f).srcs = s.srcs := rfl
@[simp] theorem State.updSeq_heads (s : State) (i : Fin 16) (f : Seq → Seq) : (s.updSeq i f).heads = s.heads := rfl
@[simp] theorem State.updSeq_pcams (s : State) (i : Fin 16) (f : Seq → Seq) : (s.updSeq i f).pcams = s.pcams := rfl
@[simp] theorem State.updSeq_pipes (s : State) (i : Fin 16) (f : Seq → Seq) : (s.updSeq i f).pipes = s.pipes := rfl
@[simp] theorem State.updSeq_mapStore (s : State) (i : Fin 16) (f : Seq → Seq) : (s.updSeq i f).mapStore = s.mapStore := rfl
@[simp] theorem State.updSeq_tallies (s : State) (i : Fin 16) (f : Seq → Seq) : (s.updSeq i f).tallies = s.tallies := rfl
@[simp] theorem State.updSeq_encs (s : State) (i : Fin 16) (f : Seq → Seq) : (s.updSeq i f).encs = s.encs := rfl
@[simp] theorem State.updSeq_tb (s : State) (i : Fin 16) (f : Seq → Seq) : (s.updSeq i f).tb = { s.tb with seqs := modAt s.tb.seqs i f } := rfl
@[simp] theorem State.updSeq_router (s : State) (i : Fin 16) (f : Seq → Seq) : (s.updSeq i f).router = s.router := rfl
@[simp] theorem State.updSeq_qm (s : State) (i : Fin 16) (f : Seq → Seq) : (s.updSeq i f).qm = s.qm := rfl
@[simp] theorem State.updSeq_dma (s : State) (i : Fin 16) (f : Seq → Seq) : (s.updSeq i f).dma = s.dma := rfl
@[simp] theorem State.updSeq_pstore (s : State) (i : Fin 16) (f : Seq → Seq) : (s.updSeq i f).pstore = s.pstore := rfl
@[simp] theorem State.updSeq_psOfs (s : State) (i : Fin 16) (f : Seq → Seq) : (s.updSeq i f).psOfs = s.psOfs := rfl
@[simp] theorem State.updSeq_host (s : State) (i : Fin 16) (f : Seq → Seq) : (s.updSeq i f).host = s.host := rfl
@[simp] theorem State.updSeq_axes (s : State) (i : Fin 16) (f : Seq → Seq) : (s.updSeq i f).axes = s.axes := rfl
@[simp] theorem State.updTrig_pending (s : State) (n : Fin 32) (f : Trig → Trig) : (s.updTrig n f).pending = s.pending := rfl
@[simp] theorem State.updTrig_svc (s : State) (n : Fin 32) (f : Trig → Trig) : (s.updTrig n f).svc = s.svc := rfl
@[simp] theorem State.updTrig_coreTime (s : State) (n : Fin 32) (f : Trig → Trig) : (s.updTrig n f).coreTime = s.coreTime := rfl
@[simp] theorem State.updTrig_draw (s : State) (n : Fin 32) (f : Trig → Trig) : (s.updTrig n f).draw = s.draw := rfl
@[simp] theorem State.updTrig_reply (s : State) (n : Fin 32) (f : Trig → Trig) : (s.updTrig n f).reply = s.reply := rfl
@[simp] theorem State.updTrig_tx (s : State) (n : Fin 32) (f : Trig → Trig) : (s.updTrig n f).tx = s.tx := rfl
@[simp] theorem State.updTrig_pins (s : State) (n : Fin 32) (f : Trig → Trig) : (s.updTrig n f).pins = s.pins := rfl
@[simp] theorem State.updTrig_fuses (s : State) (n : Fin 32) (f : Trig → Trig) : (s.updTrig n f).fuses = s.fuses := rfl
@[simp] theorem State.updTrig_rst (s : State) (n : Fin 32) (f : Trig → Trig) : (s.updTrig n f).rst = s.rst := rfl
@[simp] theorem State.updTrig_clk (s : State) (n : Fin 32) (f : Trig → Trig) : (s.updTrig n f).clk = s.clk := rfl
@[simp] theorem State.updTrig_boot (s : State) (n : Fin 32) (f : Trig → Trig) : (s.updTrig n f).boot = s.boot := rfl
@[simp] theorem State.updTrig_thermal (s : State) (n : Fin 32) (f : Trig → Trig) : (s.updTrig n f).thermal = s.thermal := rfl
@[simp] theorem State.updTrig_mram (s : State) (n : Fin 32) (f : Trig → Trig) : (s.updTrig n f).mram = s.mram := rfl
@[simp] theorem State.updTrig_faults (s : State) (n : Fin 32) (f : Trig → Trig) : (s.updTrig n f).faults = s.faults := rfl
@[simp] theorem State.updTrig_vio (s : State) (n : Fin 32) (f : Trig → Trig) : (s.updTrig n f).vio = s.vio := rfl
@[simp] theorem State.updTrig_wdog (s : State) (n : Fin 32) (f : Trig → Trig) : (s.updTrig n f).wdog = s.wdog := rfl
@[simp] theorem State.updTrig_acc (s : State) (n : Fin 32) (f : Trig → Trig) : (s.updTrig n f).acc = s.acc := rfl
@[simp] theorem State.updTrig_mgt (s : State) (n : Fin 32) (f : Trig → Trig) : (s.updTrig n f).mgt = s.mgt := rfl
@[simp] theorem State.updTrig_ptp (s : State) (n : Fin 32) (f : Trig → Trig) : (s.updTrig n f).ptp = s.ptp := rfl
@[simp] theorem State.updTrig_sec (s : State) (n : Fin 32) (f : Trig → Trig) : (s.updTrig n f).sec = s.sec := rfl
@[simp] theorem State.updTrig_quads (s : State) (n : Fin 32) (f : Trig → Trig) : (s.updTrig n f).quads = s.quads := rfl
@[simp] theorem State.updTrig_lanes (s : State) (n : Fin 32) (f : Trig → Trig) : (s.updTrig n f).lanes = s.lanes := rfl
@[simp] theorem State.updTrig_ports (s : State) (n : Fin 32) (f : Trig → Trig) : (s.updTrig n f).ports = s.ports := rfl
@[simp] theorem State.updTrig_srcs (s : State) (n : Fin 32) (f : Trig → Trig) : (s.updTrig n f).srcs = s.srcs := rfl
@[simp] theorem State.updTrig_heads (s : State) (n : Fin 32) (f : Trig → Trig) : (s.updTrig n f).heads = s.heads := rfl
@[simp] theorem State.updTrig_pcams (s : State) (n : Fin 32) (f : Trig → Trig) : (s.updTrig n f).pcams = s.pcams := rfl
@[simp] theorem State.updTrig_pipes (s : State) (n : Fin 32) (f : Trig → Trig) : (s.updTrig n f).pipes = s.pipes := rfl
@[simp] theorem State.updTrig_mapStore (s : State) (n : Fin 32) (f : Trig → Trig) : (s.updTrig n f).mapStore = s.mapStore := rfl
@[simp] theorem State.updTrig_tallies (s : State) (n : Fin 32) (f : Trig → Trig) : (s.updTrig n f).tallies = s.tallies := rfl
@[simp] theorem State.updTrig_encs (s : State) (n : Fin 32) (f : Trig → Trig) : (s.updTrig n f).encs = s.encs := rfl
@[simp] theorem State.updTrig_tb (s : State) (n : Fin 32) (f : Trig → Trig) : (s.updTrig n f).tb = { s.tb with trigs := modAt s.tb.trigs n f } := rfl
@[simp] theorem State.updTrig_router (s : State) (n : Fin 32) (f : Trig → Trig) : (s.updTrig n f).router = s.router := rfl
@[simp] theorem State.updTrig_qm (s : State) (n : Fin 32) (f : Trig → Trig) : (s.updTrig n f).qm = s.qm := rfl
@[simp] theorem State.updTrig_dma (s : State) (n : Fin 32) (f : Trig → Trig) : (s.updTrig n f).dma = s.dma := rfl
@[simp] theorem State.updTrig_pstore (s : State) (n : Fin 32) (f : Trig → Trig) : (s.updTrig n f).pstore = s.pstore := rfl
@[simp] theorem State.updTrig_psOfs (s : State) (n : Fin 32) (f : Trig → Trig) : (s.updTrig n f).psOfs = s.psOfs := rfl
@[simp] theorem State.updTrig_host (s : State) (n : Fin 32) (f : Trig → Trig) : (s.updTrig n f).host = s.host := rfl
@[simp] theorem State.updTrig_axes (s : State) (n : Fin 32) (f : Trig → Trig) : (s.updTrig n f).axes = s.axes := rfl
@[simp] theorem State.updStamp_pending (s : State) (i : Fin 18) (f : Stamp → Stamp) : (s.updStamp i f).pending = s.pending := rfl
@[simp] theorem State.updStamp_svc (s : State) (i : Fin 18) (f : Stamp → Stamp) : (s.updStamp i f).svc = s.svc := rfl
@[simp] theorem State.updStamp_coreTime (s : State) (i : Fin 18) (f : Stamp → Stamp) : (s.updStamp i f).coreTime = s.coreTime := rfl
@[simp] theorem State.updStamp_draw (s : State) (i : Fin 18) (f : Stamp → Stamp) : (s.updStamp i f).draw = s.draw := rfl
@[simp] theorem State.updStamp_reply (s : State) (i : Fin 18) (f : Stamp → Stamp) : (s.updStamp i f).reply = s.reply := rfl
@[simp] theorem State.updStamp_tx (s : State) (i : Fin 18) (f : Stamp → Stamp) : (s.updStamp i f).tx = s.tx := rfl
@[simp] theorem State.updStamp_pins (s : State) (i : Fin 18) (f : Stamp → Stamp) : (s.updStamp i f).pins = s.pins := rfl
@[simp] theorem State.updStamp_fuses (s : State) (i : Fin 18) (f : Stamp → Stamp) : (s.updStamp i f).fuses = s.fuses := rfl
@[simp] theorem State.updStamp_rst (s : State) (i : Fin 18) (f : Stamp → Stamp) : (s.updStamp i f).rst = s.rst := rfl
@[simp] theorem State.updStamp_clk (s : State) (i : Fin 18) (f : Stamp → Stamp) : (s.updStamp i f).clk = s.clk := rfl
@[simp] theorem State.updStamp_boot (s : State) (i : Fin 18) (f : Stamp → Stamp) : (s.updStamp i f).boot = s.boot := rfl
@[simp] theorem State.updStamp_thermal (s : State) (i : Fin 18) (f : Stamp → Stamp) : (s.updStamp i f).thermal = s.thermal := rfl
@[simp] theorem State.updStamp_mram (s : State) (i : Fin 18) (f : Stamp → Stamp) : (s.updStamp i f).mram = s.mram := rfl
@[simp] theorem State.updStamp_faults (s : State) (i : Fin 18) (f : Stamp → Stamp) : (s.updStamp i f).faults = s.faults := rfl
@[simp] theorem State.updStamp_vio (s : State) (i : Fin 18) (f : Stamp → Stamp) : (s.updStamp i f).vio = s.vio := rfl
@[simp] theorem State.updStamp_wdog (s : State) (i : Fin 18) (f : Stamp → Stamp) : (s.updStamp i f).wdog = s.wdog := rfl
@[simp] theorem State.updStamp_acc (s : State) (i : Fin 18) (f : Stamp → Stamp) : (s.updStamp i f).acc = s.acc := rfl
@[simp] theorem State.updStamp_mgt (s : State) (i : Fin 18) (f : Stamp → Stamp) : (s.updStamp i f).mgt = s.mgt := rfl
@[simp] theorem State.updStamp_ptp (s : State) (i : Fin 18) (f : Stamp → Stamp) : (s.updStamp i f).ptp = s.ptp := rfl
@[simp] theorem State.updStamp_sec (s : State) (i : Fin 18) (f : Stamp → Stamp) : (s.updStamp i f).sec = s.sec := rfl
@[simp] theorem State.updStamp_quads (s : State) (i : Fin 18) (f : Stamp → Stamp) : (s.updStamp i f).quads = s.quads := rfl
@[simp] theorem State.updStamp_lanes (s : State) (i : Fin 18) (f : Stamp → Stamp) : (s.updStamp i f).lanes = s.lanes := rfl
@[simp] theorem State.updStamp_ports (s : State) (i : Fin 18) (f : Stamp → Stamp) : (s.updStamp i f).ports = s.ports := rfl
@[simp] theorem State.updStamp_srcs (s : State) (i : Fin 18) (f : Stamp → Stamp) : (s.updStamp i f).srcs = s.srcs := rfl
@[simp] theorem State.updStamp_heads (s : State) (i : Fin 18) (f : Stamp → Stamp) : (s.updStamp i f).heads = s.heads := rfl
@[simp] theorem State.updStamp_pcams (s : State) (i : Fin 18) (f : Stamp → Stamp) : (s.updStamp i f).pcams = s.pcams := rfl
@[simp] theorem State.updStamp_pipes (s : State) (i : Fin 18) (f : Stamp → Stamp) : (s.updStamp i f).pipes = s.pipes := rfl
@[simp] theorem State.updStamp_mapStore (s : State) (i : Fin 18) (f : Stamp → Stamp) : (s.updStamp i f).mapStore = s.mapStore := rfl
@[simp] theorem State.updStamp_tallies (s : State) (i : Fin 18) (f : Stamp → Stamp) : (s.updStamp i f).tallies = s.tallies := rfl
@[simp] theorem State.updStamp_encs (s : State) (i : Fin 18) (f : Stamp → Stamp) : (s.updStamp i f).encs = s.encs := rfl
@[simp] theorem State.updStamp_tb (s : State) (i : Fin 18) (f : Stamp → Stamp) : (s.updStamp i f).tb = { s.tb with stamps := modAt s.tb.stamps i f } := rfl
@[simp] theorem State.updStamp_router (s : State) (i : Fin 18) (f : Stamp → Stamp) : (s.updStamp i f).router = s.router := rfl
@[simp] theorem State.updStamp_qm (s : State) (i : Fin 18) (f : Stamp → Stamp) : (s.updStamp i f).qm = s.qm := rfl
@[simp] theorem State.updStamp_dma (s : State) (i : Fin 18) (f : Stamp → Stamp) : (s.updStamp i f).dma = s.dma := rfl
@[simp] theorem State.updStamp_pstore (s : State) (i : Fin 18) (f : Stamp → Stamp) : (s.updStamp i f).pstore = s.pstore := rfl
@[simp] theorem State.updStamp_psOfs (s : State) (i : Fin 18) (f : Stamp → Stamp) : (s.updStamp i f).psOfs = s.psOfs := rfl
@[simp] theorem State.updStamp_host (s : State) (i : Fin 18) (f : Stamp → Stamp) : (s.updStamp i f).host = s.host := rfl
@[simp] theorem State.updStamp_axes (s : State) (i : Fin 18) (f : Stamp → Stamp) : (s.updStamp i f).axes = s.axes := rfl
@[simp] theorem State.updRouter_pending (s : State) (f : Router → Router) : (s.updRouter f).pending = s.pending := rfl
@[simp] theorem State.updRouter_svc (s : State) (f : Router → Router) : (s.updRouter f).svc = s.svc := rfl
@[simp] theorem State.updRouter_coreTime (s : State) (f : Router → Router) : (s.updRouter f).coreTime = s.coreTime := rfl
@[simp] theorem State.updRouter_draw (s : State) (f : Router → Router) : (s.updRouter f).draw = s.draw := rfl
@[simp] theorem State.updRouter_reply (s : State) (f : Router → Router) : (s.updRouter f).reply = s.reply := rfl
@[simp] theorem State.updRouter_tx (s : State) (f : Router → Router) : (s.updRouter f).tx = s.tx := rfl
@[simp] theorem State.updRouter_pins (s : State) (f : Router → Router) : (s.updRouter f).pins = s.pins := rfl
@[simp] theorem State.updRouter_fuses (s : State) (f : Router → Router) : (s.updRouter f).fuses = s.fuses := rfl
@[simp] theorem State.updRouter_rst (s : State) (f : Router → Router) : (s.updRouter f).rst = s.rst := rfl
@[simp] theorem State.updRouter_clk (s : State) (f : Router → Router) : (s.updRouter f).clk = s.clk := rfl
@[simp] theorem State.updRouter_boot (s : State) (f : Router → Router) : (s.updRouter f).boot = s.boot := rfl
@[simp] theorem State.updRouter_thermal (s : State) (f : Router → Router) : (s.updRouter f).thermal = s.thermal := rfl
@[simp] theorem State.updRouter_mram (s : State) (f : Router → Router) : (s.updRouter f).mram = s.mram := rfl
@[simp] theorem State.updRouter_faults (s : State) (f : Router → Router) : (s.updRouter f).faults = s.faults := rfl
@[simp] theorem State.updRouter_vio (s : State) (f : Router → Router) : (s.updRouter f).vio = s.vio := rfl
@[simp] theorem State.updRouter_wdog (s : State) (f : Router → Router) : (s.updRouter f).wdog = s.wdog := rfl
@[simp] theorem State.updRouter_acc (s : State) (f : Router → Router) : (s.updRouter f).acc = s.acc := rfl
@[simp] theorem State.updRouter_mgt (s : State) (f : Router → Router) : (s.updRouter f).mgt = s.mgt := rfl
@[simp] theorem State.updRouter_ptp (s : State) (f : Router → Router) : (s.updRouter f).ptp = s.ptp := rfl
@[simp] theorem State.updRouter_sec (s : State) (f : Router → Router) : (s.updRouter f).sec = s.sec := rfl
@[simp] theorem State.updRouter_quads (s : State) (f : Router → Router) : (s.updRouter f).quads = s.quads := rfl
@[simp] theorem State.updRouter_lanes (s : State) (f : Router → Router) : (s.updRouter f).lanes = s.lanes := rfl
@[simp] theorem State.updRouter_ports (s : State) (f : Router → Router) : (s.updRouter f).ports = s.ports := rfl
@[simp] theorem State.updRouter_srcs (s : State) (f : Router → Router) : (s.updRouter f).srcs = s.srcs := rfl
@[simp] theorem State.updRouter_heads (s : State) (f : Router → Router) : (s.updRouter f).heads = s.heads := rfl
@[simp] theorem State.updRouter_pcams (s : State) (f : Router → Router) : (s.updRouter f).pcams = s.pcams := rfl
@[simp] theorem State.updRouter_pipes (s : State) (f : Router → Router) : (s.updRouter f).pipes = s.pipes := rfl
@[simp] theorem State.updRouter_mapStore (s : State) (f : Router → Router) : (s.updRouter f).mapStore = s.mapStore := rfl
@[simp] theorem State.updRouter_tallies (s : State) (f : Router → Router) : (s.updRouter f).tallies = s.tallies := rfl
@[simp] theorem State.updRouter_encs (s : State) (f : Router → Router) : (s.updRouter f).encs = s.encs := rfl
@[simp] theorem State.updRouter_tb (s : State) (f : Router → Router) : (s.updRouter f).tb = s.tb := rfl
@[simp] theorem State.updRouter_router (s : State) (f : Router → Router) : (s.updRouter f).router = f s.router := rfl
@[simp] theorem State.updRouter_qm (s : State) (f : Router → Router) : (s.updRouter f).qm = s.qm := rfl
@[simp] theorem State.updRouter_dma (s : State) (f : Router → Router) : (s.updRouter f).dma = s.dma := rfl
@[simp] theorem State.updRouter_pstore (s : State) (f : Router → Router) : (s.updRouter f).pstore = s.pstore := rfl
@[simp] theorem State.updRouter_psOfs (s : State) (f : Router → Router) : (s.updRouter f).psOfs = s.psOfs := rfl
@[simp] theorem State.updRouter_host (s : State) (f : Router → Router) : (s.updRouter f).host = s.host := rfl
@[simp] theorem State.updRouter_axes (s : State) (f : Router → Router) : (s.updRouter f).axes = s.axes := rfl
@[simp] theorem State.updChan_pending (s : State) (c : Fin 128) (f : Chan → Chan) : (s.updChan c f).pending = s.pending := rfl
@[simp] theorem State.updChan_svc (s : State) (c : Fin 128) (f : Chan → Chan) : (s.updChan c f).svc = s.svc := rfl
@[simp] theorem State.updChan_coreTime (s : State) (c : Fin 128) (f : Chan → Chan) : (s.updChan c f).coreTime = s.coreTime := rfl
@[simp] theorem State.updChan_draw (s : State) (c : Fin 128) (f : Chan → Chan) : (s.updChan c f).draw = s.draw := rfl
@[simp] theorem State.updChan_reply (s : State) (c : Fin 128) (f : Chan → Chan) : (s.updChan c f).reply = s.reply := rfl
@[simp] theorem State.updChan_tx (s : State) (c : Fin 128) (f : Chan → Chan) : (s.updChan c f).tx = s.tx := rfl
@[simp] theorem State.updChan_pins (s : State) (c : Fin 128) (f : Chan → Chan) : (s.updChan c f).pins = s.pins := rfl
@[simp] theorem State.updChan_fuses (s : State) (c : Fin 128) (f : Chan → Chan) : (s.updChan c f).fuses = s.fuses := rfl
@[simp] theorem State.updChan_rst (s : State) (c : Fin 128) (f : Chan → Chan) : (s.updChan c f).rst = s.rst := rfl
@[simp] theorem State.updChan_clk (s : State) (c : Fin 128) (f : Chan → Chan) : (s.updChan c f).clk = s.clk := rfl
@[simp] theorem State.updChan_boot (s : State) (c : Fin 128) (f : Chan → Chan) : (s.updChan c f).boot = s.boot := rfl
@[simp] theorem State.updChan_thermal (s : State) (c : Fin 128) (f : Chan → Chan) : (s.updChan c f).thermal = s.thermal := rfl
@[simp] theorem State.updChan_mram (s : State) (c : Fin 128) (f : Chan → Chan) : (s.updChan c f).mram = s.mram := rfl
@[simp] theorem State.updChan_faults (s : State) (c : Fin 128) (f : Chan → Chan) : (s.updChan c f).faults = s.faults := rfl
@[simp] theorem State.updChan_vio (s : State) (c : Fin 128) (f : Chan → Chan) : (s.updChan c f).vio = s.vio := rfl
@[simp] theorem State.updChan_wdog (s : State) (c : Fin 128) (f : Chan → Chan) : (s.updChan c f).wdog = s.wdog := rfl
@[simp] theorem State.updChan_acc (s : State) (c : Fin 128) (f : Chan → Chan) : (s.updChan c f).acc = s.acc := rfl
@[simp] theorem State.updChan_mgt (s : State) (c : Fin 128) (f : Chan → Chan) : (s.updChan c f).mgt = s.mgt := rfl
@[simp] theorem State.updChan_ptp (s : State) (c : Fin 128) (f : Chan → Chan) : (s.updChan c f).ptp = s.ptp := rfl
@[simp] theorem State.updChan_sec (s : State) (c : Fin 128) (f : Chan → Chan) : (s.updChan c f).sec = s.sec := rfl
@[simp] theorem State.updChan_quads (s : State) (c : Fin 128) (f : Chan → Chan) : (s.updChan c f).quads = s.quads := rfl
@[simp] theorem State.updChan_lanes (s : State) (c : Fin 128) (f : Chan → Chan) : (s.updChan c f).lanes = s.lanes := rfl
@[simp] theorem State.updChan_ports (s : State) (c : Fin 128) (f : Chan → Chan) : (s.updChan c f).ports = s.ports := rfl
@[simp] theorem State.updChan_srcs (s : State) (c : Fin 128) (f : Chan → Chan) : (s.updChan c f).srcs = s.srcs := rfl
@[simp] theorem State.updChan_heads (s : State) (c : Fin 128) (f : Chan → Chan) : (s.updChan c f).heads = s.heads := rfl
@[simp] theorem State.updChan_pcams (s : State) (c : Fin 128) (f : Chan → Chan) : (s.updChan c f).pcams = s.pcams := rfl
@[simp] theorem State.updChan_pipes (s : State) (c : Fin 128) (f : Chan → Chan) : (s.updChan c f).pipes = s.pipes := rfl
@[simp] theorem State.updChan_mapStore (s : State) (c : Fin 128) (f : Chan → Chan) : (s.updChan c f).mapStore = s.mapStore := rfl
@[simp] theorem State.updChan_tallies (s : State) (c : Fin 128) (f : Chan → Chan) : (s.updChan c f).tallies = s.tallies := rfl
@[simp] theorem State.updChan_encs (s : State) (c : Fin 128) (f : Chan → Chan) : (s.updChan c f).encs = s.encs := rfl
@[simp] theorem State.updChan_tb (s : State) (c : Fin 128) (f : Chan → Chan) : (s.updChan c f).tb = s.tb := rfl
@[simp] theorem State.updChan_router (s : State) (c : Fin 128) (f : Chan → Chan) : (s.updChan c f).router = { s.router with chans := modAt s.router.chans c f } := rfl
@[simp] theorem State.updChan_qm (s : State) (c : Fin 128) (f : Chan → Chan) : (s.updChan c f).qm = s.qm := rfl
@[simp] theorem State.updChan_dma (s : State) (c : Fin 128) (f : Chan → Chan) : (s.updChan c f).dma = s.dma := rfl
@[simp] theorem State.updChan_pstore (s : State) (c : Fin 128) (f : Chan → Chan) : (s.updChan c f).pstore = s.pstore := rfl
@[simp] theorem State.updChan_psOfs (s : State) (c : Fin 128) (f : Chan → Chan) : (s.updChan c f).psOfs = s.psOfs := rfl
@[simp] theorem State.updChan_host (s : State) (c : Fin 128) (f : Chan → Chan) : (s.updChan c f).host = s.host := rfl
@[simp] theorem State.updChan_axes (s : State) (c : Fin 128) (f : Chan → Chan) : (s.updChan c f).axes = s.axes := rfl
@[simp] theorem State.updCunit_pending (s : State) (k : Fin 32) (f : Cunit → Cunit) : (s.updCunit k f).pending = s.pending := rfl
@[simp] theorem State.updCunit_svc (s : State) (k : Fin 32) (f : Cunit → Cunit) : (s.updCunit k f).svc = s.svc := rfl
@[simp] theorem State.updCunit_coreTime (s : State) (k : Fin 32) (f : Cunit → Cunit) : (s.updCunit k f).coreTime = s.coreTime := rfl
@[simp] theorem State.updCunit_draw (s : State) (k : Fin 32) (f : Cunit → Cunit) : (s.updCunit k f).draw = s.draw := rfl
@[simp] theorem State.updCunit_reply (s : State) (k : Fin 32) (f : Cunit → Cunit) : (s.updCunit k f).reply = s.reply := rfl
@[simp] theorem State.updCunit_tx (s : State) (k : Fin 32) (f : Cunit → Cunit) : (s.updCunit k f).tx = s.tx := rfl
@[simp] theorem State.updCunit_pins (s : State) (k : Fin 32) (f : Cunit → Cunit) : (s.updCunit k f).pins = s.pins := rfl
@[simp] theorem State.updCunit_fuses (s : State) (k : Fin 32) (f : Cunit → Cunit) : (s.updCunit k f).fuses = s.fuses := rfl
@[simp] theorem State.updCunit_rst (s : State) (k : Fin 32) (f : Cunit → Cunit) : (s.updCunit k f).rst = s.rst := rfl
@[simp] theorem State.updCunit_clk (s : State) (k : Fin 32) (f : Cunit → Cunit) : (s.updCunit k f).clk = s.clk := rfl
@[simp] theorem State.updCunit_boot (s : State) (k : Fin 32) (f : Cunit → Cunit) : (s.updCunit k f).boot = s.boot := rfl
@[simp] theorem State.updCunit_thermal (s : State) (k : Fin 32) (f : Cunit → Cunit) : (s.updCunit k f).thermal = s.thermal := rfl
@[simp] theorem State.updCunit_mram (s : State) (k : Fin 32) (f : Cunit → Cunit) : (s.updCunit k f).mram = s.mram := rfl
@[simp] theorem State.updCunit_faults (s : State) (k : Fin 32) (f : Cunit → Cunit) : (s.updCunit k f).faults = s.faults := rfl
@[simp] theorem State.updCunit_vio (s : State) (k : Fin 32) (f : Cunit → Cunit) : (s.updCunit k f).vio = s.vio := rfl
@[simp] theorem State.updCunit_wdog (s : State) (k : Fin 32) (f : Cunit → Cunit) : (s.updCunit k f).wdog = s.wdog := rfl
@[simp] theorem State.updCunit_acc (s : State) (k : Fin 32) (f : Cunit → Cunit) : (s.updCunit k f).acc = s.acc := rfl
@[simp] theorem State.updCunit_mgt (s : State) (k : Fin 32) (f : Cunit → Cunit) : (s.updCunit k f).mgt = s.mgt := rfl
@[simp] theorem State.updCunit_ptp (s : State) (k : Fin 32) (f : Cunit → Cunit) : (s.updCunit k f).ptp = s.ptp := rfl
@[simp] theorem State.updCunit_sec (s : State) (k : Fin 32) (f : Cunit → Cunit) : (s.updCunit k f).sec = s.sec := rfl
@[simp] theorem State.updCunit_quads (s : State) (k : Fin 32) (f : Cunit → Cunit) : (s.updCunit k f).quads = s.quads := rfl
@[simp] theorem State.updCunit_lanes (s : State) (k : Fin 32) (f : Cunit → Cunit) : (s.updCunit k f).lanes = s.lanes := rfl
@[simp] theorem State.updCunit_ports (s : State) (k : Fin 32) (f : Cunit → Cunit) : (s.updCunit k f).ports = s.ports := rfl
@[simp] theorem State.updCunit_srcs (s : State) (k : Fin 32) (f : Cunit → Cunit) : (s.updCunit k f).srcs = s.srcs := rfl
@[simp] theorem State.updCunit_heads (s : State) (k : Fin 32) (f : Cunit → Cunit) : (s.updCunit k f).heads = s.heads := rfl
@[simp] theorem State.updCunit_pcams (s : State) (k : Fin 32) (f : Cunit → Cunit) : (s.updCunit k f).pcams = s.pcams := rfl
@[simp] theorem State.updCunit_pipes (s : State) (k : Fin 32) (f : Cunit → Cunit) : (s.updCunit k f).pipes = s.pipes := rfl
@[simp] theorem State.updCunit_mapStore (s : State) (k : Fin 32) (f : Cunit → Cunit) : (s.updCunit k f).mapStore = s.mapStore := rfl
@[simp] theorem State.updCunit_tallies (s : State) (k : Fin 32) (f : Cunit → Cunit) : (s.updCunit k f).tallies = s.tallies := rfl
@[simp] theorem State.updCunit_encs (s : State) (k : Fin 32) (f : Cunit → Cunit) : (s.updCunit k f).encs = s.encs := rfl
@[simp] theorem State.updCunit_tb (s : State) (k : Fin 32) (f : Cunit → Cunit) : (s.updCunit k f).tb = s.tb := rfl
@[simp] theorem State.updCunit_router (s : State) (k : Fin 32) (f : Cunit → Cunit) : (s.updCunit k f).router = { s.router with units := modAt s.router.units k f } := rfl
@[simp] theorem State.updCunit_qm (s : State) (k : Fin 32) (f : Cunit → Cunit) : (s.updCunit k f).qm = s.qm := rfl
@[simp] theorem State.updCunit_dma (s : State) (k : Fin 32) (f : Cunit → Cunit) : (s.updCunit k f).dma = s.dma := rfl
@[simp] theorem State.updCunit_pstore (s : State) (k : Fin 32) (f : Cunit → Cunit) : (s.updCunit k f).pstore = s.pstore := rfl
@[simp] theorem State.updCunit_psOfs (s : State) (k : Fin 32) (f : Cunit → Cunit) : (s.updCunit k f).psOfs = s.psOfs := rfl
@[simp] theorem State.updCunit_host (s : State) (k : Fin 32) (f : Cunit → Cunit) : (s.updCunit k f).host = s.host := rfl
@[simp] theorem State.updCunit_axes (s : State) (k : Fin 32) (f : Cunit → Cunit) : (s.updCunit k f).axes = s.axes := rfl
@[simp] theorem State.updQm_pending (s : State) (f : QueueMgr → QueueMgr) : (s.updQm f).pending = s.pending := rfl
@[simp] theorem State.updQm_svc (s : State) (f : QueueMgr → QueueMgr) : (s.updQm f).svc = s.svc := rfl
@[simp] theorem State.updQm_coreTime (s : State) (f : QueueMgr → QueueMgr) : (s.updQm f).coreTime = s.coreTime := rfl
@[simp] theorem State.updQm_draw (s : State) (f : QueueMgr → QueueMgr) : (s.updQm f).draw = s.draw := rfl
@[simp] theorem State.updQm_reply (s : State) (f : QueueMgr → QueueMgr) : (s.updQm f).reply = s.reply := rfl
@[simp] theorem State.updQm_tx (s : State) (f : QueueMgr → QueueMgr) : (s.updQm f).tx = s.tx := rfl
@[simp] theorem State.updQm_pins (s : State) (f : QueueMgr → QueueMgr) : (s.updQm f).pins = s.pins := rfl
@[simp] theorem State.updQm_fuses (s : State) (f : QueueMgr → QueueMgr) : (s.updQm f).fuses = s.fuses := rfl
@[simp] theorem State.updQm_rst (s : State) (f : QueueMgr → QueueMgr) : (s.updQm f).rst = s.rst := rfl
@[simp] theorem State.updQm_clk (s : State) (f : QueueMgr → QueueMgr) : (s.updQm f).clk = s.clk := rfl
@[simp] theorem State.updQm_boot (s : State) (f : QueueMgr → QueueMgr) : (s.updQm f).boot = s.boot := rfl
@[simp] theorem State.updQm_thermal (s : State) (f : QueueMgr → QueueMgr) : (s.updQm f).thermal = s.thermal := rfl
@[simp] theorem State.updQm_mram (s : State) (f : QueueMgr → QueueMgr) : (s.updQm f).mram = s.mram := rfl
@[simp] theorem State.updQm_faults (s : State) (f : QueueMgr → QueueMgr) : (s.updQm f).faults = s.faults := rfl
@[simp] theorem State.updQm_vio (s : State) (f : QueueMgr → QueueMgr) : (s.updQm f).vio = s.vio := rfl
@[simp] theorem State.updQm_wdog (s : State) (f : QueueMgr → QueueMgr) : (s.updQm f).wdog = s.wdog := rfl
@[simp] theorem State.updQm_acc (s : State) (f : QueueMgr → QueueMgr) : (s.updQm f).acc = s.acc := rfl
@[simp] theorem State.updQm_mgt (s : State) (f : QueueMgr → QueueMgr) : (s.updQm f).mgt = s.mgt := rfl
@[simp] theorem State.updQm_ptp (s : State) (f : QueueMgr → QueueMgr) : (s.updQm f).ptp = s.ptp := rfl
@[simp] theorem State.updQm_sec (s : State) (f : QueueMgr → QueueMgr) : (s.updQm f).sec = s.sec := rfl
@[simp] theorem State.updQm_quads (s : State) (f : QueueMgr → QueueMgr) : (s.updQm f).quads = s.quads := rfl
@[simp] theorem State.updQm_lanes (s : State) (f : QueueMgr → QueueMgr) : (s.updQm f).lanes = s.lanes := rfl
@[simp] theorem State.updQm_ports (s : State) (f : QueueMgr → QueueMgr) : (s.updQm f).ports = s.ports := rfl
@[simp] theorem State.updQm_srcs (s : State) (f : QueueMgr → QueueMgr) : (s.updQm f).srcs = s.srcs := rfl
@[simp] theorem State.updQm_heads (s : State) (f : QueueMgr → QueueMgr) : (s.updQm f).heads = s.heads := rfl
@[simp] theorem State.updQm_pcams (s : State) (f : QueueMgr → QueueMgr) : (s.updQm f).pcams = s.pcams := rfl
@[simp] theorem State.updQm_pipes (s : State) (f : QueueMgr → QueueMgr) : (s.updQm f).pipes = s.pipes := rfl
@[simp] theorem State.updQm_mapStore (s : State) (f : QueueMgr → QueueMgr) : (s.updQm f).mapStore = s.mapStore := rfl
@[simp] theorem State.updQm_tallies (s : State) (f : QueueMgr → QueueMgr) : (s.updQm f).tallies = s.tallies := rfl
@[simp] theorem State.updQm_encs (s : State) (f : QueueMgr → QueueMgr) : (s.updQm f).encs = s.encs := rfl
@[simp] theorem State.updQm_tb (s : State) (f : QueueMgr → QueueMgr) : (s.updQm f).tb = s.tb := rfl
@[simp] theorem State.updQm_router (s : State) (f : QueueMgr → QueueMgr) : (s.updQm f).router = s.router := rfl
@[simp] theorem State.updQm_qm (s : State) (f : QueueMgr → QueueMgr) : (s.updQm f).qm = f s.qm := rfl
@[simp] theorem State.updQm_dma (s : State) (f : QueueMgr → QueueMgr) : (s.updQm f).dma = s.dma := rfl
@[simp] theorem State.updQm_pstore (s : State) (f : QueueMgr → QueueMgr) : (s.updQm f).pstore = s.pstore := rfl
@[simp] theorem State.updQm_psOfs (s : State) (f : QueueMgr → QueueMgr) : (s.updQm f).psOfs = s.psOfs := rfl
@[simp] theorem State.updQm_host (s : State) (f : QueueMgr → QueueMgr) : (s.updQm f).host = s.host := rfl
@[simp] theorem State.updQm_axes (s : State) (f : QueueMgr → QueueMgr) : (s.updQm f).axes = s.axes := rfl
@[simp] theorem State.updQueue_pending (s : State) (q : Fin 512) (f : Queue → Queue) : (s.updQueue q f).pending = s.pending := rfl
@[simp] theorem State.updQueue_svc (s : State) (q : Fin 512) (f : Queue → Queue) : (s.updQueue q f).svc = s.svc := rfl
@[simp] theorem State.updQueue_coreTime (s : State) (q : Fin 512) (f : Queue → Queue) : (s.updQueue q f).coreTime = s.coreTime := rfl
@[simp] theorem State.updQueue_draw (s : State) (q : Fin 512) (f : Queue → Queue) : (s.updQueue q f).draw = s.draw := rfl
@[simp] theorem State.updQueue_reply (s : State) (q : Fin 512) (f : Queue → Queue) : (s.updQueue q f).reply = s.reply := rfl
@[simp] theorem State.updQueue_tx (s : State) (q : Fin 512) (f : Queue → Queue) : (s.updQueue q f).tx = s.tx := rfl
@[simp] theorem State.updQueue_pins (s : State) (q : Fin 512) (f : Queue → Queue) : (s.updQueue q f).pins = s.pins := rfl
@[simp] theorem State.updQueue_fuses (s : State) (q : Fin 512) (f : Queue → Queue) : (s.updQueue q f).fuses = s.fuses := rfl
@[simp] theorem State.updQueue_rst (s : State) (q : Fin 512) (f : Queue → Queue) : (s.updQueue q f).rst = s.rst := rfl
@[simp] theorem State.updQueue_clk (s : State) (q : Fin 512) (f : Queue → Queue) : (s.updQueue q f).clk = s.clk := rfl
@[simp] theorem State.updQueue_boot (s : State) (q : Fin 512) (f : Queue → Queue) : (s.updQueue q f).boot = s.boot := rfl
@[simp] theorem State.updQueue_thermal (s : State) (q : Fin 512) (f : Queue → Queue) : (s.updQueue q f).thermal = s.thermal := rfl
@[simp] theorem State.updQueue_mram (s : State) (q : Fin 512) (f : Queue → Queue) : (s.updQueue q f).mram = s.mram := rfl
@[simp] theorem State.updQueue_faults (s : State) (q : Fin 512) (f : Queue → Queue) : (s.updQueue q f).faults = s.faults := rfl
@[simp] theorem State.updQueue_vio (s : State) (q : Fin 512) (f : Queue → Queue) : (s.updQueue q f).vio = s.vio := rfl
@[simp] theorem State.updQueue_wdog (s : State) (q : Fin 512) (f : Queue → Queue) : (s.updQueue q f).wdog = s.wdog := rfl
@[simp] theorem State.updQueue_acc (s : State) (q : Fin 512) (f : Queue → Queue) : (s.updQueue q f).acc = s.acc := rfl
@[simp] theorem State.updQueue_mgt (s : State) (q : Fin 512) (f : Queue → Queue) : (s.updQueue q f).mgt = s.mgt := rfl
@[simp] theorem State.updQueue_ptp (s : State) (q : Fin 512) (f : Queue → Queue) : (s.updQueue q f).ptp = s.ptp := rfl
@[simp] theorem State.updQueue_sec (s : State) (q : Fin 512) (f : Queue → Queue) : (s.updQueue q f).sec = s.sec := rfl
@[simp] theorem State.updQueue_quads (s : State) (q : Fin 512) (f : Queue → Queue) : (s.updQueue q f).quads = s.quads := rfl
@[simp] theorem State.updQueue_lanes (s : State) (q : Fin 512) (f : Queue → Queue) : (s.updQueue q f).lanes = s.lanes := rfl
@[simp] theorem State.updQueue_ports (s : State) (q : Fin 512) (f : Queue → Queue) : (s.updQueue q f).ports = s.ports := rfl
@[simp] theorem State.updQueue_srcs (s : State) (q : Fin 512) (f : Queue → Queue) : (s.updQueue q f).srcs = s.srcs := rfl
@[simp] theorem State.updQueue_heads (s : State) (q : Fin 512) (f : Queue → Queue) : (s.updQueue q f).heads = s.heads := rfl
@[simp] theorem State.updQueue_pcams (s : State) (q : Fin 512) (f : Queue → Queue) : (s.updQueue q f).pcams = s.pcams := rfl
@[simp] theorem State.updQueue_pipes (s : State) (q : Fin 512) (f : Queue → Queue) : (s.updQueue q f).pipes = s.pipes := rfl
@[simp] theorem State.updQueue_mapStore (s : State) (q : Fin 512) (f : Queue → Queue) : (s.updQueue q f).mapStore = s.mapStore := rfl
@[simp] theorem State.updQueue_tallies (s : State) (q : Fin 512) (f : Queue → Queue) : (s.updQueue q f).tallies = s.tallies := rfl
@[simp] theorem State.updQueue_encs (s : State) (q : Fin 512) (f : Queue → Queue) : (s.updQueue q f).encs = s.encs := rfl
@[simp] theorem State.updQueue_tb (s : State) (q : Fin 512) (f : Queue → Queue) : (s.updQueue q f).tb = s.tb := rfl
@[simp] theorem State.updQueue_router (s : State) (q : Fin 512) (f : Queue → Queue) : (s.updQueue q f).router = s.router := rfl
@[simp] theorem State.updQueue_qm (s : State) (q : Fin 512) (f : Queue → Queue) : (s.updQueue q f).qm = { s.qm with queues := modAt s.qm.queues q f } := rfl
@[simp] theorem State.updQueue_dma (s : State) (q : Fin 512) (f : Queue → Queue) : (s.updQueue q f).dma = s.dma := rfl
@[simp] theorem State.updQueue_pstore (s : State) (q : Fin 512) (f : Queue → Queue) : (s.updQueue q f).pstore = s.pstore := rfl
@[simp] theorem State.updQueue_psOfs (s : State) (q : Fin 512) (f : Queue → Queue) : (s.updQueue q f).psOfs = s.psOfs := rfl
@[simp] theorem State.updQueue_host (s : State) (q : Fin 512) (f : Queue → Queue) : (s.updQueue q f).host = s.host := rfl
@[simp] theorem State.updQueue_axes (s : State) (q : Fin 512) (f : Queue → Queue) : (s.updQueue q f).axes = s.axes := rfl
@[simp] theorem State.updProducer_pending (s : State) (r : Fin 32) (f : Producer → Producer) : (s.updProducer r f).pending = s.pending := rfl
@[simp] theorem State.updProducer_svc (s : State) (r : Fin 32) (f : Producer → Producer) : (s.updProducer r f).svc = s.svc := rfl
@[simp] theorem State.updProducer_coreTime (s : State) (r : Fin 32) (f : Producer → Producer) : (s.updProducer r f).coreTime = s.coreTime := rfl
@[simp] theorem State.updProducer_draw (s : State) (r : Fin 32) (f : Producer → Producer) : (s.updProducer r f).draw = s.draw := rfl
@[simp] theorem State.updProducer_reply (s : State) (r : Fin 32) (f : Producer → Producer) : (s.updProducer r f).reply = s.reply := rfl
@[simp] theorem State.updProducer_tx (s : State) (r : Fin 32) (f : Producer → Producer) : (s.updProducer r f).tx = s.tx := rfl
@[simp] theorem State.updProducer_pins (s : State) (r : Fin 32) (f : Producer → Producer) : (s.updProducer r f).pins = s.pins := rfl
@[simp] theorem State.updProducer_fuses (s : State) (r : Fin 32) (f : Producer → Producer) : (s.updProducer r f).fuses = s.fuses := rfl
@[simp] theorem State.updProducer_rst (s : State) (r : Fin 32) (f : Producer → Producer) : (s.updProducer r f).rst = s.rst := rfl
@[simp] theorem State.updProducer_clk (s : State) (r : Fin 32) (f : Producer → Producer) : (s.updProducer r f).clk = s.clk := rfl
@[simp] theorem State.updProducer_boot (s : State) (r : Fin 32) (f : Producer → Producer) : (s.updProducer r f).boot = s.boot := rfl
@[simp] theorem State.updProducer_thermal (s : State) (r : Fin 32) (f : Producer → Producer) : (s.updProducer r f).thermal = s.thermal := rfl
@[simp] theorem State.updProducer_mram (s : State) (r : Fin 32) (f : Producer → Producer) : (s.updProducer r f).mram = s.mram := rfl
@[simp] theorem State.updProducer_faults (s : State) (r : Fin 32) (f : Producer → Producer) : (s.updProducer r f).faults = s.faults := rfl
@[simp] theorem State.updProducer_vio (s : State) (r : Fin 32) (f : Producer → Producer) : (s.updProducer r f).vio = s.vio := rfl
@[simp] theorem State.updProducer_wdog (s : State) (r : Fin 32) (f : Producer → Producer) : (s.updProducer r f).wdog = s.wdog := rfl
@[simp] theorem State.updProducer_acc (s : State) (r : Fin 32) (f : Producer → Producer) : (s.updProducer r f).acc = s.acc := rfl
@[simp] theorem State.updProducer_mgt (s : State) (r : Fin 32) (f : Producer → Producer) : (s.updProducer r f).mgt = s.mgt := rfl
@[simp] theorem State.updProducer_ptp (s : State) (r : Fin 32) (f : Producer → Producer) : (s.updProducer r f).ptp = s.ptp := rfl
@[simp] theorem State.updProducer_sec (s : State) (r : Fin 32) (f : Producer → Producer) : (s.updProducer r f).sec = s.sec := rfl
@[simp] theorem State.updProducer_quads (s : State) (r : Fin 32) (f : Producer → Producer) : (s.updProducer r f).quads = s.quads := rfl
@[simp] theorem State.updProducer_lanes (s : State) (r : Fin 32) (f : Producer → Producer) : (s.updProducer r f).lanes = s.lanes := rfl
@[simp] theorem State.updProducer_ports (s : State) (r : Fin 32) (f : Producer → Producer) : (s.updProducer r f).ports = s.ports := rfl
@[simp] theorem State.updProducer_srcs (s : State) (r : Fin 32) (f : Producer → Producer) : (s.updProducer r f).srcs = s.srcs := rfl
@[simp] theorem State.updProducer_heads (s : State) (r : Fin 32) (f : Producer → Producer) : (s.updProducer r f).heads = s.heads := rfl
@[simp] theorem State.updProducer_pcams (s : State) (r : Fin 32) (f : Producer → Producer) : (s.updProducer r f).pcams = s.pcams := rfl
@[simp] theorem State.updProducer_pipes (s : State) (r : Fin 32) (f : Producer → Producer) : (s.updProducer r f).pipes = s.pipes := rfl
@[simp] theorem State.updProducer_mapStore (s : State) (r : Fin 32) (f : Producer → Producer) : (s.updProducer r f).mapStore = s.mapStore := rfl
@[simp] theorem State.updProducer_tallies (s : State) (r : Fin 32) (f : Producer → Producer) : (s.updProducer r f).tallies = s.tallies := rfl
@[simp] theorem State.updProducer_encs (s : State) (r : Fin 32) (f : Producer → Producer) : (s.updProducer r f).encs = s.encs := rfl
@[simp] theorem State.updProducer_tb (s : State) (r : Fin 32) (f : Producer → Producer) : (s.updProducer r f).tb = s.tb := rfl
@[simp] theorem State.updProducer_router (s : State) (r : Fin 32) (f : Producer → Producer) : (s.updProducer r f).router = s.router := rfl
@[simp] theorem State.updProducer_qm (s : State) (r : Fin 32) (f : Producer → Producer) : (s.updProducer r f).qm = { s.qm with producers := modAt s.qm.producers r f } := rfl
@[simp] theorem State.updProducer_dma (s : State) (r : Fin 32) (f : Producer → Producer) : (s.updProducer r f).dma = s.dma := rfl
@[simp] theorem State.updProducer_pstore (s : State) (r : Fin 32) (f : Producer → Producer) : (s.updProducer r f).pstore = s.pstore := rfl
@[simp] theorem State.updProducer_psOfs (s : State) (r : Fin 32) (f : Producer → Producer) : (s.updProducer r f).psOfs = s.psOfs := rfl
@[simp] theorem State.updProducer_host (s : State) (r : Fin 32) (f : Producer → Producer) : (s.updProducer r f).host = s.host := rfl
@[simp] theorem State.updProducer_axes (s : State) (r : Fin 32) (f : Producer → Producer) : (s.updProducer r f).axes = s.axes := rfl
@[simp] theorem State.updXoff_pending (s : State) (n : Fin 16) (f : Xoff → Xoff) : (s.updXoff n f).pending = s.pending := rfl
@[simp] theorem State.updXoff_svc (s : State) (n : Fin 16) (f : Xoff → Xoff) : (s.updXoff n f).svc = s.svc := rfl
@[simp] theorem State.updXoff_coreTime (s : State) (n : Fin 16) (f : Xoff → Xoff) : (s.updXoff n f).coreTime = s.coreTime := rfl
@[simp] theorem State.updXoff_draw (s : State) (n : Fin 16) (f : Xoff → Xoff) : (s.updXoff n f).draw = s.draw := rfl
@[simp] theorem State.updXoff_reply (s : State) (n : Fin 16) (f : Xoff → Xoff) : (s.updXoff n f).reply = s.reply := rfl
@[simp] theorem State.updXoff_tx (s : State) (n : Fin 16) (f : Xoff → Xoff) : (s.updXoff n f).tx = s.tx := rfl
@[simp] theorem State.updXoff_pins (s : State) (n : Fin 16) (f : Xoff → Xoff) : (s.updXoff n f).pins = s.pins := rfl
@[simp] theorem State.updXoff_fuses (s : State) (n : Fin 16) (f : Xoff → Xoff) : (s.updXoff n f).fuses = s.fuses := rfl
@[simp] theorem State.updXoff_rst (s : State) (n : Fin 16) (f : Xoff → Xoff) : (s.updXoff n f).rst = s.rst := rfl
@[simp] theorem State.updXoff_clk (s : State) (n : Fin 16) (f : Xoff → Xoff) : (s.updXoff n f).clk = s.clk := rfl
@[simp] theorem State.updXoff_boot (s : State) (n : Fin 16) (f : Xoff → Xoff) : (s.updXoff n f).boot = s.boot := rfl
@[simp] theorem State.updXoff_thermal (s : State) (n : Fin 16) (f : Xoff → Xoff) : (s.updXoff n f).thermal = s.thermal := rfl
@[simp] theorem State.updXoff_mram (s : State) (n : Fin 16) (f : Xoff → Xoff) : (s.updXoff n f).mram = s.mram := rfl
@[simp] theorem State.updXoff_faults (s : State) (n : Fin 16) (f : Xoff → Xoff) : (s.updXoff n f).faults = s.faults := rfl
@[simp] theorem State.updXoff_vio (s : State) (n : Fin 16) (f : Xoff → Xoff) : (s.updXoff n f).vio = s.vio := rfl
@[simp] theorem State.updXoff_wdog (s : State) (n : Fin 16) (f : Xoff → Xoff) : (s.updXoff n f).wdog = s.wdog := rfl
@[simp] theorem State.updXoff_acc (s : State) (n : Fin 16) (f : Xoff → Xoff) : (s.updXoff n f).acc = s.acc := rfl
@[simp] theorem State.updXoff_mgt (s : State) (n : Fin 16) (f : Xoff → Xoff) : (s.updXoff n f).mgt = s.mgt := rfl
@[simp] theorem State.updXoff_ptp (s : State) (n : Fin 16) (f : Xoff → Xoff) : (s.updXoff n f).ptp = s.ptp := rfl
@[simp] theorem State.updXoff_sec (s : State) (n : Fin 16) (f : Xoff → Xoff) : (s.updXoff n f).sec = s.sec := rfl
@[simp] theorem State.updXoff_quads (s : State) (n : Fin 16) (f : Xoff → Xoff) : (s.updXoff n f).quads = s.quads := rfl
@[simp] theorem State.updXoff_lanes (s : State) (n : Fin 16) (f : Xoff → Xoff) : (s.updXoff n f).lanes = s.lanes := rfl
@[simp] theorem State.updXoff_ports (s : State) (n : Fin 16) (f : Xoff → Xoff) : (s.updXoff n f).ports = s.ports := rfl
@[simp] theorem State.updXoff_srcs (s : State) (n : Fin 16) (f : Xoff → Xoff) : (s.updXoff n f).srcs = s.srcs := rfl
@[simp] theorem State.updXoff_heads (s : State) (n : Fin 16) (f : Xoff → Xoff) : (s.updXoff n f).heads = s.heads := rfl
@[simp] theorem State.updXoff_pcams (s : State) (n : Fin 16) (f : Xoff → Xoff) : (s.updXoff n f).pcams = s.pcams := rfl
@[simp] theorem State.updXoff_pipes (s : State) (n : Fin 16) (f : Xoff → Xoff) : (s.updXoff n f).pipes = s.pipes := rfl
@[simp] theorem State.updXoff_mapStore (s : State) (n : Fin 16) (f : Xoff → Xoff) : (s.updXoff n f).mapStore = s.mapStore := rfl
@[simp] theorem State.updXoff_tallies (s : State) (n : Fin 16) (f : Xoff → Xoff) : (s.updXoff n f).tallies = s.tallies := rfl
@[simp] theorem State.updXoff_encs (s : State) (n : Fin 16) (f : Xoff → Xoff) : (s.updXoff n f).encs = s.encs := rfl
@[simp] theorem State.updXoff_tb (s : State) (n : Fin 16) (f : Xoff → Xoff) : (s.updXoff n f).tb = s.tb := rfl
@[simp] theorem State.updXoff_router (s : State) (n : Fin 16) (f : Xoff → Xoff) : (s.updXoff n f).router = s.router := rfl
@[simp] theorem State.updXoff_qm (s : State) (n : Fin 16) (f : Xoff → Xoff) : (s.updXoff n f).qm = { s.qm with xoff := modAt s.qm.xoff n f } := rfl
@[simp] theorem State.updXoff_dma (s : State) (n : Fin 16) (f : Xoff → Xoff) : (s.updXoff n f).dma = s.dma := rfl
@[simp] theorem State.updXoff_pstore (s : State) (n : Fin 16) (f : Xoff → Xoff) : (s.updXoff n f).pstore = s.pstore := rfl
@[simp] theorem State.updXoff_psOfs (s : State) (n : Fin 16) (f : Xoff → Xoff) : (s.updXoff n f).psOfs = s.psOfs := rfl
@[simp] theorem State.updXoff_host (s : State) (n : Fin 16) (f : Xoff → Xoff) : (s.updXoff n f).host = s.host := rfl
@[simp] theorem State.updXoff_axes (s : State) (n : Fin 16) (f : Xoff → Xoff) : (s.updXoff n f).axes = s.axes := rfl
@[simp] theorem State.updHost_pending (s : State) (f : HostPorts → HostPorts) : (s.updHost f).pending = s.pending := rfl
@[simp] theorem State.updHost_svc (s : State) (f : HostPorts → HostPorts) : (s.updHost f).svc = s.svc := rfl
@[simp] theorem State.updHost_coreTime (s : State) (f : HostPorts → HostPorts) : (s.updHost f).coreTime = s.coreTime := rfl
@[simp] theorem State.updHost_draw (s : State) (f : HostPorts → HostPorts) : (s.updHost f).draw = s.draw := rfl
@[simp] theorem State.updHost_reply (s : State) (f : HostPorts → HostPorts) : (s.updHost f).reply = s.reply := rfl
@[simp] theorem State.updHost_tx (s : State) (f : HostPorts → HostPorts) : (s.updHost f).tx = s.tx := rfl
@[simp] theorem State.updHost_pins (s : State) (f : HostPorts → HostPorts) : (s.updHost f).pins = s.pins := rfl
@[simp] theorem State.updHost_fuses (s : State) (f : HostPorts → HostPorts) : (s.updHost f).fuses = s.fuses := rfl
@[simp] theorem State.updHost_rst (s : State) (f : HostPorts → HostPorts) : (s.updHost f).rst = s.rst := rfl
@[simp] theorem State.updHost_clk (s : State) (f : HostPorts → HostPorts) : (s.updHost f).clk = s.clk := rfl
@[simp] theorem State.updHost_boot (s : State) (f : HostPorts → HostPorts) : (s.updHost f).boot = s.boot := rfl
@[simp] theorem State.updHost_thermal (s : State) (f : HostPorts → HostPorts) : (s.updHost f).thermal = s.thermal := rfl
@[simp] theorem State.updHost_mram (s : State) (f : HostPorts → HostPorts) : (s.updHost f).mram = s.mram := rfl
@[simp] theorem State.updHost_faults (s : State) (f : HostPorts → HostPorts) : (s.updHost f).faults = s.faults := rfl
@[simp] theorem State.updHost_vio (s : State) (f : HostPorts → HostPorts) : (s.updHost f).vio = s.vio := rfl
@[simp] theorem State.updHost_wdog (s : State) (f : HostPorts → HostPorts) : (s.updHost f).wdog = s.wdog := rfl
@[simp] theorem State.updHost_acc (s : State) (f : HostPorts → HostPorts) : (s.updHost f).acc = s.acc := rfl
@[simp] theorem State.updHost_mgt (s : State) (f : HostPorts → HostPorts) : (s.updHost f).mgt = s.mgt := rfl
@[simp] theorem State.updHost_ptp (s : State) (f : HostPorts → HostPorts) : (s.updHost f).ptp = s.ptp := rfl
@[simp] theorem State.updHost_sec (s : State) (f : HostPorts → HostPorts) : (s.updHost f).sec = s.sec := rfl
@[simp] theorem State.updHost_quads (s : State) (f : HostPorts → HostPorts) : (s.updHost f).quads = s.quads := rfl
@[simp] theorem State.updHost_lanes (s : State) (f : HostPorts → HostPorts) : (s.updHost f).lanes = s.lanes := rfl
@[simp] theorem State.updHost_ports (s : State) (f : HostPorts → HostPorts) : (s.updHost f).ports = s.ports := rfl
@[simp] theorem State.updHost_srcs (s : State) (f : HostPorts → HostPorts) : (s.updHost f).srcs = s.srcs := rfl
@[simp] theorem State.updHost_heads (s : State) (f : HostPorts → HostPorts) : (s.updHost f).heads = s.heads := rfl
@[simp] theorem State.updHost_pcams (s : State) (f : HostPorts → HostPorts) : (s.updHost f).pcams = s.pcams := rfl
@[simp] theorem State.updHost_pipes (s : State) (f : HostPorts → HostPorts) : (s.updHost f).pipes = s.pipes := rfl
@[simp] theorem State.updHost_mapStore (s : State) (f : HostPorts → HostPorts) : (s.updHost f).mapStore = s.mapStore := rfl
@[simp] theorem State.updHost_tallies (s : State) (f : HostPorts → HostPorts) : (s.updHost f).tallies = s.tallies := rfl
@[simp] theorem State.updHost_encs (s : State) (f : HostPorts → HostPorts) : (s.updHost f).encs = s.encs := rfl
@[simp] theorem State.updHost_tb (s : State) (f : HostPorts → HostPorts) : (s.updHost f).tb = s.tb := rfl
@[simp] theorem State.updHost_router (s : State) (f : HostPorts → HostPorts) : (s.updHost f).router = s.router := rfl
@[simp] theorem State.updHost_qm (s : State) (f : HostPorts → HostPorts) : (s.updHost f).qm = s.qm := rfl
@[simp] theorem State.updHost_dma (s : State) (f : HostPorts → HostPorts) : (s.updHost f).dma = s.dma := rfl
@[simp] theorem State.updHost_pstore (s : State) (f : HostPorts → HostPorts) : (s.updHost f).pstore = s.pstore := rfl
@[simp] theorem State.updHost_psOfs (s : State) (f : HostPorts → HostPorts) : (s.updHost f).psOfs = s.psOfs := rfl
@[simp] theorem State.updHost_host (s : State) (f : HostPorts → HostPorts) : (s.updHost f).host = f s.host := rfl
@[simp] theorem State.updHost_axes (s : State) (f : HostPorts → HostPorts) : (s.updHost f).axes = s.axes := rfl
@[simp] theorem State.updLink_pending (s : State) (l : Fin 4) (f : Link → Link) : (s.updLink l f).pending = s.pending := rfl
@[simp] theorem State.updLink_svc (s : State) (l : Fin 4) (f : Link → Link) : (s.updLink l f).svc = s.svc := rfl
@[simp] theorem State.updLink_coreTime (s : State) (l : Fin 4) (f : Link → Link) : (s.updLink l f).coreTime = s.coreTime := rfl
@[simp] theorem State.updLink_draw (s : State) (l : Fin 4) (f : Link → Link) : (s.updLink l f).draw = s.draw := rfl
@[simp] theorem State.updLink_reply (s : State) (l : Fin 4) (f : Link → Link) : (s.updLink l f).reply = s.reply := rfl
@[simp] theorem State.updLink_tx (s : State) (l : Fin 4) (f : Link → Link) : (s.updLink l f).tx = s.tx := rfl
@[simp] theorem State.updLink_pins (s : State) (l : Fin 4) (f : Link → Link) : (s.updLink l f).pins = s.pins := rfl
@[simp] theorem State.updLink_fuses (s : State) (l : Fin 4) (f : Link → Link) : (s.updLink l f).fuses = s.fuses := rfl
@[simp] theorem State.updLink_rst (s : State) (l : Fin 4) (f : Link → Link) : (s.updLink l f).rst = s.rst := rfl
@[simp] theorem State.updLink_clk (s : State) (l : Fin 4) (f : Link → Link) : (s.updLink l f).clk = s.clk := rfl
@[simp] theorem State.updLink_boot (s : State) (l : Fin 4) (f : Link → Link) : (s.updLink l f).boot = s.boot := rfl
@[simp] theorem State.updLink_thermal (s : State) (l : Fin 4) (f : Link → Link) : (s.updLink l f).thermal = s.thermal := rfl
@[simp] theorem State.updLink_mram (s : State) (l : Fin 4) (f : Link → Link) : (s.updLink l f).mram = s.mram := rfl
@[simp] theorem State.updLink_faults (s : State) (l : Fin 4) (f : Link → Link) : (s.updLink l f).faults = s.faults := rfl
@[simp] theorem State.updLink_vio (s : State) (l : Fin 4) (f : Link → Link) : (s.updLink l f).vio = s.vio := rfl
@[simp] theorem State.updLink_wdog (s : State) (l : Fin 4) (f : Link → Link) : (s.updLink l f).wdog = s.wdog := rfl
@[simp] theorem State.updLink_acc (s : State) (l : Fin 4) (f : Link → Link) : (s.updLink l f).acc = s.acc := rfl
@[simp] theorem State.updLink_mgt (s : State) (l : Fin 4) (f : Link → Link) : (s.updLink l f).mgt = s.mgt := rfl
@[simp] theorem State.updLink_ptp (s : State) (l : Fin 4) (f : Link → Link) : (s.updLink l f).ptp = s.ptp := rfl
@[simp] theorem State.updLink_sec (s : State) (l : Fin 4) (f : Link → Link) : (s.updLink l f).sec = s.sec := rfl
@[simp] theorem State.updLink_quads (s : State) (l : Fin 4) (f : Link → Link) : (s.updLink l f).quads = s.quads := rfl
@[simp] theorem State.updLink_lanes (s : State) (l : Fin 4) (f : Link → Link) : (s.updLink l f).lanes = s.lanes := rfl
@[simp] theorem State.updLink_ports (s : State) (l : Fin 4) (f : Link → Link) : (s.updLink l f).ports = s.ports := rfl
@[simp] theorem State.updLink_srcs (s : State) (l : Fin 4) (f : Link → Link) : (s.updLink l f).srcs = s.srcs := rfl
@[simp] theorem State.updLink_heads (s : State) (l : Fin 4) (f : Link → Link) : (s.updLink l f).heads = s.heads := rfl
@[simp] theorem State.updLink_pcams (s : State) (l : Fin 4) (f : Link → Link) : (s.updLink l f).pcams = s.pcams := rfl
@[simp] theorem State.updLink_pipes (s : State) (l : Fin 4) (f : Link → Link) : (s.updLink l f).pipes = s.pipes := rfl
@[simp] theorem State.updLink_mapStore (s : State) (l : Fin 4) (f : Link → Link) : (s.updLink l f).mapStore = s.mapStore := rfl
@[simp] theorem State.updLink_tallies (s : State) (l : Fin 4) (f : Link → Link) : (s.updLink l f).tallies = s.tallies := rfl
@[simp] theorem State.updLink_encs (s : State) (l : Fin 4) (f : Link → Link) : (s.updLink l f).encs = s.encs := rfl
@[simp] theorem State.updLink_tb (s : State) (l : Fin 4) (f : Link → Link) : (s.updLink l f).tb = s.tb := rfl
@[simp] theorem State.updLink_router (s : State) (l : Fin 4) (f : Link → Link) : (s.updLink l f).router = s.router := rfl
@[simp] theorem State.updLink_qm (s : State) (l : Fin 4) (f : Link → Link) : (s.updLink l f).qm = s.qm := rfl
@[simp] theorem State.updLink_dma (s : State) (l : Fin 4) (f : Link → Link) : (s.updLink l f).dma = s.dma := rfl
@[simp] theorem State.updLink_pstore (s : State) (l : Fin 4) (f : Link → Link) : (s.updLink l f).pstore = s.pstore := rfl
@[simp] theorem State.updLink_psOfs (s : State) (l : Fin 4) (f : Link → Link) : (s.updLink l f).psOfs = s.psOfs := rfl
@[simp] theorem State.updLink_host (s : State) (l : Fin 4) (f : Link → Link) : (s.updLink l f).host = { s.host with links := modAt s.host.links l f } := rfl
@[simp] theorem State.updLink_axes (s : State) (l : Fin 4) (f : Link → Link) : (s.updLink l f).axes = s.axes := rfl
@[simp] theorem State.updFn_pending (s : State) (l : Fin 4) (g : Fin 17) (f : Fn → Fn) : (s.updFn l g f).pending = s.pending := rfl
@[simp] theorem State.updFn_svc (s : State) (l : Fin 4) (g : Fin 17) (f : Fn → Fn) : (s.updFn l g f).svc = s.svc := rfl
@[simp] theorem State.updFn_coreTime (s : State) (l : Fin 4) (g : Fin 17) (f : Fn → Fn) : (s.updFn l g f).coreTime = s.coreTime := rfl
@[simp] theorem State.updFn_draw (s : State) (l : Fin 4) (g : Fin 17) (f : Fn → Fn) : (s.updFn l g f).draw = s.draw := rfl
@[simp] theorem State.updFn_reply (s : State) (l : Fin 4) (g : Fin 17) (f : Fn → Fn) : (s.updFn l g f).reply = s.reply := rfl
@[simp] theorem State.updFn_tx (s : State) (l : Fin 4) (g : Fin 17) (f : Fn → Fn) : (s.updFn l g f).tx = s.tx := rfl
@[simp] theorem State.updFn_pins (s : State) (l : Fin 4) (g : Fin 17) (f : Fn → Fn) : (s.updFn l g f).pins = s.pins := rfl
@[simp] theorem State.updFn_fuses (s : State) (l : Fin 4) (g : Fin 17) (f : Fn → Fn) : (s.updFn l g f).fuses = s.fuses := rfl
@[simp] theorem State.updFn_rst (s : State) (l : Fin 4) (g : Fin 17) (f : Fn → Fn) : (s.updFn l g f).rst = s.rst := rfl
@[simp] theorem State.updFn_clk (s : State) (l : Fin 4) (g : Fin 17) (f : Fn → Fn) : (s.updFn l g f).clk = s.clk := rfl
@[simp] theorem State.updFn_boot (s : State) (l : Fin 4) (g : Fin 17) (f : Fn → Fn) : (s.updFn l g f).boot = s.boot := rfl
@[simp] theorem State.updFn_thermal (s : State) (l : Fin 4) (g : Fin 17) (f : Fn → Fn) : (s.updFn l g f).thermal = s.thermal := rfl
@[simp] theorem State.updFn_mram (s : State) (l : Fin 4) (g : Fin 17) (f : Fn → Fn) : (s.updFn l g f).mram = s.mram := rfl
@[simp] theorem State.updFn_faults (s : State) (l : Fin 4) (g : Fin 17) (f : Fn → Fn) : (s.updFn l g f).faults = s.faults := rfl
@[simp] theorem State.updFn_vio (s : State) (l : Fin 4) (g : Fin 17) (f : Fn → Fn) : (s.updFn l g f).vio = s.vio := rfl
@[simp] theorem State.updFn_wdog (s : State) (l : Fin 4) (g : Fin 17) (f : Fn → Fn) : (s.updFn l g f).wdog = s.wdog := rfl
@[simp] theorem State.updFn_acc (s : State) (l : Fin 4) (g : Fin 17) (f : Fn → Fn) : (s.updFn l g f).acc = s.acc := rfl
@[simp] theorem State.updFn_mgt (s : State) (l : Fin 4) (g : Fin 17) (f : Fn → Fn) : (s.updFn l g f).mgt = s.mgt := rfl
@[simp] theorem State.updFn_ptp (s : State) (l : Fin 4) (g : Fin 17) (f : Fn → Fn) : (s.updFn l g f).ptp = s.ptp := rfl
@[simp] theorem State.updFn_sec (s : State) (l : Fin 4) (g : Fin 17) (f : Fn → Fn) : (s.updFn l g f).sec = s.sec := rfl
@[simp] theorem State.updFn_quads (s : State) (l : Fin 4) (g : Fin 17) (f : Fn → Fn) : (s.updFn l g f).quads = s.quads := rfl
@[simp] theorem State.updFn_lanes (s : State) (l : Fin 4) (g : Fin 17) (f : Fn → Fn) : (s.updFn l g f).lanes = s.lanes := rfl
@[simp] theorem State.updFn_ports (s : State) (l : Fin 4) (g : Fin 17) (f : Fn → Fn) : (s.updFn l g f).ports = s.ports := rfl
@[simp] theorem State.updFn_srcs (s : State) (l : Fin 4) (g : Fin 17) (f : Fn → Fn) : (s.updFn l g f).srcs = s.srcs := rfl
@[simp] theorem State.updFn_heads (s : State) (l : Fin 4) (g : Fin 17) (f : Fn → Fn) : (s.updFn l g f).heads = s.heads := rfl
@[simp] theorem State.updFn_pcams (s : State) (l : Fin 4) (g : Fin 17) (f : Fn → Fn) : (s.updFn l g f).pcams = s.pcams := rfl
@[simp] theorem State.updFn_pipes (s : State) (l : Fin 4) (g : Fin 17) (f : Fn → Fn) : (s.updFn l g f).pipes = s.pipes := rfl
@[simp] theorem State.updFn_mapStore (s : State) (l : Fin 4) (g : Fin 17) (f : Fn → Fn) : (s.updFn l g f).mapStore = s.mapStore := rfl
@[simp] theorem State.updFn_tallies (s : State) (l : Fin 4) (g : Fin 17) (f : Fn → Fn) : (s.updFn l g f).tallies = s.tallies := rfl
@[simp] theorem State.updFn_encs (s : State) (l : Fin 4) (g : Fin 17) (f : Fn → Fn) : (s.updFn l g f).encs = s.encs := rfl
@[simp] theorem State.updFn_tb (s : State) (l : Fin 4) (g : Fin 17) (f : Fn → Fn) : (s.updFn l g f).tb = s.tb := rfl
@[simp] theorem State.updFn_router (s : State) (l : Fin 4) (g : Fin 17) (f : Fn → Fn) : (s.updFn l g f).router = s.router := rfl
@[simp] theorem State.updFn_qm (s : State) (l : Fin 4) (g : Fin 17) (f : Fn → Fn) : (s.updFn l g f).qm = s.qm := rfl
@[simp] theorem State.updFn_dma (s : State) (l : Fin 4) (g : Fin 17) (f : Fn → Fn) : (s.updFn l g f).dma = s.dma := rfl
@[simp] theorem State.updFn_pstore (s : State) (l : Fin 4) (g : Fin 17) (f : Fn → Fn) : (s.updFn l g f).pstore = s.pstore := rfl
@[simp] theorem State.updFn_psOfs (s : State) (l : Fin 4) (g : Fin 17) (f : Fn → Fn) : (s.updFn l g f).psOfs = s.psOfs := rfl
@[simp] theorem State.updFn_axes (s : State) (l : Fin 4) (g : Fin 17) (f : Fn → Fn) : (s.updFn l g f).axes = s.axes := rfl
@[simp] theorem State.updDdr_pending (s : State) (c : Fin 12) (f : DdrCh → DdrCh) : (s.updDdr c f).pending = s.pending := rfl
@[simp] theorem State.updDdr_svc (s : State) (c : Fin 12) (f : DdrCh → DdrCh) : (s.updDdr c f).svc = s.svc := rfl
@[simp] theorem State.updDdr_coreTime (s : State) (c : Fin 12) (f : DdrCh → DdrCh) : (s.updDdr c f).coreTime = s.coreTime := rfl
@[simp] theorem State.updDdr_draw (s : State) (c : Fin 12) (f : DdrCh → DdrCh) : (s.updDdr c f).draw = s.draw := rfl
@[simp] theorem State.updDdr_reply (s : State) (c : Fin 12) (f : DdrCh → DdrCh) : (s.updDdr c f).reply = s.reply := rfl
@[simp] theorem State.updDdr_tx (s : State) (c : Fin 12) (f : DdrCh → DdrCh) : (s.updDdr c f).tx = s.tx := rfl
@[simp] theorem State.updDdr_pins (s : State) (c : Fin 12) (f : DdrCh → DdrCh) : (s.updDdr c f).pins = s.pins := rfl
@[simp] theorem State.updDdr_fuses (s : State) (c : Fin 12) (f : DdrCh → DdrCh) : (s.updDdr c f).fuses = s.fuses := rfl
@[simp] theorem State.updDdr_rst (s : State) (c : Fin 12) (f : DdrCh → DdrCh) : (s.updDdr c f).rst = s.rst := rfl
@[simp] theorem State.updDdr_clk (s : State) (c : Fin 12) (f : DdrCh → DdrCh) : (s.updDdr c f).clk = s.clk := rfl
@[simp] theorem State.updDdr_boot (s : State) (c : Fin 12) (f : DdrCh → DdrCh) : (s.updDdr c f).boot = s.boot := rfl
@[simp] theorem State.updDdr_thermal (s : State) (c : Fin 12) (f : DdrCh → DdrCh) : (s.updDdr c f).thermal = s.thermal := rfl
@[simp] theorem State.updDdr_mram (s : State) (c : Fin 12) (f : DdrCh → DdrCh) : (s.updDdr c f).mram = s.mram := rfl
@[simp] theorem State.updDdr_faults (s : State) (c : Fin 12) (f : DdrCh → DdrCh) : (s.updDdr c f).faults = s.faults := rfl
@[simp] theorem State.updDdr_vio (s : State) (c : Fin 12) (f : DdrCh → DdrCh) : (s.updDdr c f).vio = s.vio := rfl
@[simp] theorem State.updDdr_wdog (s : State) (c : Fin 12) (f : DdrCh → DdrCh) : (s.updDdr c f).wdog = s.wdog := rfl
@[simp] theorem State.updDdr_acc (s : State) (c : Fin 12) (f : DdrCh → DdrCh) : (s.updDdr c f).acc = s.acc := rfl
@[simp] theorem State.updDdr_mgt (s : State) (c : Fin 12) (f : DdrCh → DdrCh) : (s.updDdr c f).mgt = s.mgt := rfl
@[simp] theorem State.updDdr_ptp (s : State) (c : Fin 12) (f : DdrCh → DdrCh) : (s.updDdr c f).ptp = s.ptp := rfl
@[simp] theorem State.updDdr_sec (s : State) (c : Fin 12) (f : DdrCh → DdrCh) : (s.updDdr c f).sec = s.sec := rfl
@[simp] theorem State.updDdr_quads (s : State) (c : Fin 12) (f : DdrCh → DdrCh) : (s.updDdr c f).quads = s.quads := rfl
@[simp] theorem State.updDdr_lanes (s : State) (c : Fin 12) (f : DdrCh → DdrCh) : (s.updDdr c f).lanes = s.lanes := rfl
@[simp] theorem State.updDdr_ports (s : State) (c : Fin 12) (f : DdrCh → DdrCh) : (s.updDdr c f).ports = s.ports := rfl
@[simp] theorem State.updDdr_srcs (s : State) (c : Fin 12) (f : DdrCh → DdrCh) : (s.updDdr c f).srcs = s.srcs := rfl
@[simp] theorem State.updDdr_heads (s : State) (c : Fin 12) (f : DdrCh → DdrCh) : (s.updDdr c f).heads = s.heads := rfl
@[simp] theorem State.updDdr_pcams (s : State) (c : Fin 12) (f : DdrCh → DdrCh) : (s.updDdr c f).pcams = s.pcams := rfl
@[simp] theorem State.updDdr_pipes (s : State) (c : Fin 12) (f : DdrCh → DdrCh) : (s.updDdr c f).pipes = s.pipes := rfl
@[simp] theorem State.updDdr_mapStore (s : State) (c : Fin 12) (f : DdrCh → DdrCh) : (s.updDdr c f).mapStore = s.mapStore := rfl
@[simp] theorem State.updDdr_tallies (s : State) (c : Fin 12) (f : DdrCh → DdrCh) : (s.updDdr c f).tallies = s.tallies := rfl
@[simp] theorem State.updDdr_encs (s : State) (c : Fin 12) (f : DdrCh → DdrCh) : (s.updDdr c f).encs = s.encs := rfl
@[simp] theorem State.updDdr_tb (s : State) (c : Fin 12) (f : DdrCh → DdrCh) : (s.updDdr c f).tb = s.tb := rfl
@[simp] theorem State.updDdr_router (s : State) (c : Fin 12) (f : DdrCh → DdrCh) : (s.updDdr c f).router = s.router := rfl
@[simp] theorem State.updDdr_qm (s : State) (c : Fin 12) (f : DdrCh → DdrCh) : (s.updDdr c f).qm = s.qm := rfl
@[simp] theorem State.updDdr_dma (s : State) (c : Fin 12) (f : DdrCh → DdrCh) : (s.updDdr c f).dma = s.dma := rfl
@[simp] theorem State.updDdr_pstore (s : State) (c : Fin 12) (f : DdrCh → DdrCh) : (s.updDdr c f).pstore = s.pstore := rfl
@[simp] theorem State.updDdr_psOfs (s : State) (c : Fin 12) (f : DdrCh → DdrCh) : (s.updDdr c f).psOfs = s.psOfs := rfl
@[simp] theorem State.updDdr_host (s : State) (c : Fin 12) (f : DdrCh → DdrCh) : (s.updDdr c f).host = { s.host with ddr := modAt s.host.ddr c f } := rfl
@[simp] theorem State.updDdr_axes (s : State) (c : Fin 12) (f : DdrCh → DdrCh) : (s.updDdr c f).axes = s.axes := rfl
@[simp] theorem State.updPins_pending (s : State) (f : Pins → Pins) : (s.updPins f).pending = s.pending := rfl
@[simp] theorem State.updPins_svc (s : State) (f : Pins → Pins) : (s.updPins f).svc = s.svc := rfl
@[simp] theorem State.updPins_coreTime (s : State) (f : Pins → Pins) : (s.updPins f).coreTime = s.coreTime := rfl
@[simp] theorem State.updPins_draw (s : State) (f : Pins → Pins) : (s.updPins f).draw = s.draw := rfl
@[simp] theorem State.updPins_reply (s : State) (f : Pins → Pins) : (s.updPins f).reply = s.reply := rfl
@[simp] theorem State.updPins_tx (s : State) (f : Pins → Pins) : (s.updPins f).tx = s.tx := rfl
@[simp] theorem State.updPins_pins (s : State) (f : Pins → Pins) : (s.updPins f).pins = f s.pins := rfl
@[simp] theorem State.updPins_fuses (s : State) (f : Pins → Pins) : (s.updPins f).fuses = s.fuses := rfl
@[simp] theorem State.updPins_rst (s : State) (f : Pins → Pins) : (s.updPins f).rst = s.rst := rfl
@[simp] theorem State.updPins_clk (s : State) (f : Pins → Pins) : (s.updPins f).clk = s.clk := rfl
@[simp] theorem State.updPins_boot (s : State) (f : Pins → Pins) : (s.updPins f).boot = s.boot := rfl
@[simp] theorem State.updPins_thermal (s : State) (f : Pins → Pins) : (s.updPins f).thermal = s.thermal := rfl
@[simp] theorem State.updPins_mram (s : State) (f : Pins → Pins) : (s.updPins f).mram = s.mram := rfl
@[simp] theorem State.updPins_faults (s : State) (f : Pins → Pins) : (s.updPins f).faults = s.faults := rfl
@[simp] theorem State.updPins_vio (s : State) (f : Pins → Pins) : (s.updPins f).vio = s.vio := rfl
@[simp] theorem State.updPins_wdog (s : State) (f : Pins → Pins) : (s.updPins f).wdog = s.wdog := rfl
@[simp] theorem State.updPins_acc (s : State) (f : Pins → Pins) : (s.updPins f).acc = s.acc := rfl
@[simp] theorem State.updPins_mgt (s : State) (f : Pins → Pins) : (s.updPins f).mgt = s.mgt := rfl
@[simp] theorem State.updPins_ptp (s : State) (f : Pins → Pins) : (s.updPins f).ptp = s.ptp := rfl
@[simp] theorem State.updPins_sec (s : State) (f : Pins → Pins) : (s.updPins f).sec = s.sec := rfl
@[simp] theorem State.updPins_quads (s : State) (f : Pins → Pins) : (s.updPins f).quads = s.quads := rfl
@[simp] theorem State.updPins_lanes (s : State) (f : Pins → Pins) : (s.updPins f).lanes = s.lanes := rfl
@[simp] theorem State.updPins_ports (s : State) (f : Pins → Pins) : (s.updPins f).ports = s.ports := rfl
@[simp] theorem State.updPins_srcs (s : State) (f : Pins → Pins) : (s.updPins f).srcs = s.srcs := rfl
@[simp] theorem State.updPins_heads (s : State) (f : Pins → Pins) : (s.updPins f).heads = s.heads := rfl
@[simp] theorem State.updPins_pcams (s : State) (f : Pins → Pins) : (s.updPins f).pcams = s.pcams := rfl
@[simp] theorem State.updPins_pipes (s : State) (f : Pins → Pins) : (s.updPins f).pipes = s.pipes := rfl
@[simp] theorem State.updPins_mapStore (s : State) (f : Pins → Pins) : (s.updPins f).mapStore = s.mapStore := rfl
@[simp] theorem State.updPins_tallies (s : State) (f : Pins → Pins) : (s.updPins f).tallies = s.tallies := rfl
@[simp] theorem State.updPins_encs (s : State) (f : Pins → Pins) : (s.updPins f).encs = s.encs := rfl
@[simp] theorem State.updPins_tb (s : State) (f : Pins → Pins) : (s.updPins f).tb = s.tb := rfl
@[simp] theorem State.updPins_router (s : State) (f : Pins → Pins) : (s.updPins f).router = s.router := rfl
@[simp] theorem State.updPins_qm (s : State) (f : Pins → Pins) : (s.updPins f).qm = s.qm := rfl
@[simp] theorem State.updPins_dma (s : State) (f : Pins → Pins) : (s.updPins f).dma = s.dma := rfl
@[simp] theorem State.updPins_pstore (s : State) (f : Pins → Pins) : (s.updPins f).pstore = s.pstore := rfl
@[simp] theorem State.updPins_psOfs (s : State) (f : Pins → Pins) : (s.updPins f).psOfs = s.psOfs := rfl
@[simp] theorem State.updPins_host (s : State) (f : Pins → Pins) : (s.updPins f).host = s.host := rfl
@[simp] theorem State.updPins_axes (s : State) (f : Pins → Pins) : (s.updPins f).axes = s.axes := rfl
@[simp] theorem State.updBoot_pending (s : State) (f : Boot → Boot) : (s.updBoot f).pending = s.pending := rfl
@[simp] theorem State.updBoot_svc (s : State) (f : Boot → Boot) : (s.updBoot f).svc = s.svc := rfl
@[simp] theorem State.updBoot_coreTime (s : State) (f : Boot → Boot) : (s.updBoot f).coreTime = s.coreTime := rfl
@[simp] theorem State.updBoot_draw (s : State) (f : Boot → Boot) : (s.updBoot f).draw = s.draw := rfl
@[simp] theorem State.updBoot_reply (s : State) (f : Boot → Boot) : (s.updBoot f).reply = s.reply := rfl
@[simp] theorem State.updBoot_tx (s : State) (f : Boot → Boot) : (s.updBoot f).tx = s.tx := rfl
@[simp] theorem State.updBoot_pins (s : State) (f : Boot → Boot) : (s.updBoot f).pins = s.pins := rfl
@[simp] theorem State.updBoot_fuses (s : State) (f : Boot → Boot) : (s.updBoot f).fuses = s.fuses := rfl
@[simp] theorem State.updBoot_rst (s : State) (f : Boot → Boot) : (s.updBoot f).rst = s.rst := rfl
@[simp] theorem State.updBoot_clk (s : State) (f : Boot → Boot) : (s.updBoot f).clk = s.clk := rfl
@[simp] theorem State.updBoot_boot (s : State) (f : Boot → Boot) : (s.updBoot f).boot = f s.boot := rfl
@[simp] theorem State.updBoot_thermal (s : State) (f : Boot → Boot) : (s.updBoot f).thermal = s.thermal := rfl
@[simp] theorem State.updBoot_mram (s : State) (f : Boot → Boot) : (s.updBoot f).mram = s.mram := rfl
@[simp] theorem State.updBoot_faults (s : State) (f : Boot → Boot) : (s.updBoot f).faults = s.faults := rfl
@[simp] theorem State.updBoot_vio (s : State) (f : Boot → Boot) : (s.updBoot f).vio = s.vio := rfl
@[simp] theorem State.updBoot_wdog (s : State) (f : Boot → Boot) : (s.updBoot f).wdog = s.wdog := rfl
@[simp] theorem State.updBoot_acc (s : State) (f : Boot → Boot) : (s.updBoot f).acc = s.acc := rfl
@[simp] theorem State.updBoot_mgt (s : State) (f : Boot → Boot) : (s.updBoot f).mgt = s.mgt := rfl
@[simp] theorem State.updBoot_ptp (s : State) (f : Boot → Boot) : (s.updBoot f).ptp = s.ptp := rfl
@[simp] theorem State.updBoot_sec (s : State) (f : Boot → Boot) : (s.updBoot f).sec = s.sec := rfl
@[simp] theorem State.updBoot_quads (s : State) (f : Boot → Boot) : (s.updBoot f).quads = s.quads := rfl
@[simp] theorem State.updBoot_lanes (s : State) (f : Boot → Boot) : (s.updBoot f).lanes = s.lanes := rfl
@[simp] theorem State.updBoot_ports (s : State) (f : Boot → Boot) : (s.updBoot f).ports = s.ports := rfl
@[simp] theorem State.updBoot_srcs (s : State) (f : Boot → Boot) : (s.updBoot f).srcs = s.srcs := rfl
@[simp] theorem State.updBoot_heads (s : State) (f : Boot → Boot) : (s.updBoot f).heads = s.heads := rfl
@[simp] theorem State.updBoot_pcams (s : State) (f : Boot → Boot) : (s.updBoot f).pcams = s.pcams := rfl
@[simp] theorem State.updBoot_pipes (s : State) (f : Boot → Boot) : (s.updBoot f).pipes = s.pipes := rfl
@[simp] theorem State.updBoot_mapStore (s : State) (f : Boot → Boot) : (s.updBoot f).mapStore = s.mapStore := rfl
@[simp] theorem State.updBoot_tallies (s : State) (f : Boot → Boot) : (s.updBoot f).tallies = s.tallies := rfl
@[simp] theorem State.updBoot_encs (s : State) (f : Boot → Boot) : (s.updBoot f).encs = s.encs := rfl
@[simp] theorem State.updBoot_tb (s : State) (f : Boot → Boot) : (s.updBoot f).tb = s.tb := rfl
@[simp] theorem State.updBoot_router (s : State) (f : Boot → Boot) : (s.updBoot f).router = s.router := rfl
@[simp] theorem State.updBoot_qm (s : State) (f : Boot → Boot) : (s.updBoot f).qm = s.qm := rfl
@[simp] theorem State.updBoot_dma (s : State) (f : Boot → Boot) : (s.updBoot f).dma = s.dma := rfl
@[simp] theorem State.updBoot_pstore (s : State) (f : Boot → Boot) : (s.updBoot f).pstore = s.pstore := rfl
@[simp] theorem State.updBoot_psOfs (s : State) (f : Boot → Boot) : (s.updBoot f).psOfs = s.psOfs := rfl
@[simp] theorem State.updBoot_host (s : State) (f : Boot → Boot) : (s.updBoot f).host = s.host := rfl
@[simp] theorem State.updBoot_axes (s : State) (f : Boot → Boot) : (s.updBoot f).axes = s.axes := rfl
@[simp] theorem State.updAcc_pending (s : State) (f : Access → Access) : (s.updAcc f).pending = s.pending := rfl
@[simp] theorem State.updAcc_svc (s : State) (f : Access → Access) : (s.updAcc f).svc = s.svc := rfl
@[simp] theorem State.updAcc_coreTime (s : State) (f : Access → Access) : (s.updAcc f).coreTime = s.coreTime := rfl
@[simp] theorem State.updAcc_draw (s : State) (f : Access → Access) : (s.updAcc f).draw = s.draw := rfl
@[simp] theorem State.updAcc_reply (s : State) (f : Access → Access) : (s.updAcc f).reply = s.reply := rfl
@[simp] theorem State.updAcc_tx (s : State) (f : Access → Access) : (s.updAcc f).tx = s.tx := rfl
@[simp] theorem State.updAcc_pins (s : State) (f : Access → Access) : (s.updAcc f).pins = s.pins := rfl
@[simp] theorem State.updAcc_fuses (s : State) (f : Access → Access) : (s.updAcc f).fuses = s.fuses := rfl
@[simp] theorem State.updAcc_rst (s : State) (f : Access → Access) : (s.updAcc f).rst = s.rst := rfl
@[simp] theorem State.updAcc_clk (s : State) (f : Access → Access) : (s.updAcc f).clk = s.clk := rfl
@[simp] theorem State.updAcc_boot (s : State) (f : Access → Access) : (s.updAcc f).boot = s.boot := rfl
@[simp] theorem State.updAcc_thermal (s : State) (f : Access → Access) : (s.updAcc f).thermal = s.thermal := rfl
@[simp] theorem State.updAcc_mram (s : State) (f : Access → Access) : (s.updAcc f).mram = s.mram := rfl
@[simp] theorem State.updAcc_faults (s : State) (f : Access → Access) : (s.updAcc f).faults = s.faults := rfl
@[simp] theorem State.updAcc_vio (s : State) (f : Access → Access) : (s.updAcc f).vio = s.vio := rfl
@[simp] theorem State.updAcc_wdog (s : State) (f : Access → Access) : (s.updAcc f).wdog = s.wdog := rfl
@[simp] theorem State.updAcc_acc (s : State) (f : Access → Access) : (s.updAcc f).acc = f s.acc := rfl
@[simp] theorem State.updAcc_mgt (s : State) (f : Access → Access) : (s.updAcc f).mgt = s.mgt := rfl
@[simp] theorem State.updAcc_ptp (s : State) (f : Access → Access) : (s.updAcc f).ptp = s.ptp := rfl
@[simp] theorem State.updAcc_sec (s : State) (f : Access → Access) : (s.updAcc f).sec = s.sec := rfl
@[simp] theorem State.updAcc_quads (s : State) (f : Access → Access) : (s.updAcc f).quads = s.quads := rfl
@[simp] theorem State.updAcc_lanes (s : State) (f : Access → Access) : (s.updAcc f).lanes = s.lanes := rfl
@[simp] theorem State.updAcc_ports (s : State) (f : Access → Access) : (s.updAcc f).ports = s.ports := rfl
@[simp] theorem State.updAcc_srcs (s : State) (f : Access → Access) : (s.updAcc f).srcs = s.srcs := rfl
@[simp] theorem State.updAcc_heads (s : State) (f : Access → Access) : (s.updAcc f).heads = s.heads := rfl
@[simp] theorem State.updAcc_pcams (s : State) (f : Access → Access) : (s.updAcc f).pcams = s.pcams := rfl
@[simp] theorem State.updAcc_pipes (s : State) (f : Access → Access) : (s.updAcc f).pipes = s.pipes := rfl
@[simp] theorem State.updAcc_mapStore (s : State) (f : Access → Access) : (s.updAcc f).mapStore = s.mapStore := rfl
@[simp] theorem State.updAcc_tallies (s : State) (f : Access → Access) : (s.updAcc f).tallies = s.tallies := rfl
@[simp] theorem State.updAcc_encs (s : State) (f : Access → Access) : (s.updAcc f).encs = s.encs := rfl
@[simp] theorem State.updAcc_tb (s : State) (f : Access → Access) : (s.updAcc f).tb = s.tb := rfl
@[simp] theorem State.updAcc_router (s : State) (f : Access → Access) : (s.updAcc f).router = s.router := rfl
@[simp] theorem State.updAcc_qm (s : State) (f : Access → Access) : (s.updAcc f).qm = s.qm := rfl
@[simp] theorem State.updAcc_dma (s : State) (f : Access → Access) : (s.updAcc f).dma = s.dma := rfl
@[simp] theorem State.updAcc_pstore (s : State) (f : Access → Access) : (s.updAcc f).pstore = s.pstore := rfl
@[simp] theorem State.updAcc_psOfs (s : State) (f : Access → Access) : (s.updAcc f).psOfs = s.psOfs := rfl
@[simp] theorem State.updAcc_host (s : State) (f : Access → Access) : (s.updAcc f).host = s.host := rfl
@[simp] theorem State.updAcc_axes (s : State) (f : Access → Access) : (s.updAcc f).axes = s.axes := rfl
@[simp] theorem State.updSec_pending (s : State) (f : Security → Security) : (s.updSec f).pending = s.pending := rfl
@[simp] theorem State.updSec_svc (s : State) (f : Security → Security) : (s.updSec f).svc = s.svc := rfl
@[simp] theorem State.updSec_coreTime (s : State) (f : Security → Security) : (s.updSec f).coreTime = s.coreTime := rfl
@[simp] theorem State.updSec_draw (s : State) (f : Security → Security) : (s.updSec f).draw = s.draw := rfl
@[simp] theorem State.updSec_reply (s : State) (f : Security → Security) : (s.updSec f).reply = s.reply := rfl
@[simp] theorem State.updSec_tx (s : State) (f : Security → Security) : (s.updSec f).tx = s.tx := rfl
@[simp] theorem State.updSec_pins (s : State) (f : Security → Security) : (s.updSec f).pins = s.pins := rfl
@[simp] theorem State.updSec_fuses (s : State) (f : Security → Security) : (s.updSec f).fuses = s.fuses := rfl
@[simp] theorem State.updSec_rst (s : State) (f : Security → Security) : (s.updSec f).rst = s.rst := rfl
@[simp] theorem State.updSec_clk (s : State) (f : Security → Security) : (s.updSec f).clk = s.clk := rfl
@[simp] theorem State.updSec_boot (s : State) (f : Security → Security) : (s.updSec f).boot = s.boot := rfl
@[simp] theorem State.updSec_thermal (s : State) (f : Security → Security) : (s.updSec f).thermal = s.thermal := rfl
@[simp] theorem State.updSec_mram (s : State) (f : Security → Security) : (s.updSec f).mram = s.mram := rfl
@[simp] theorem State.updSec_faults (s : State) (f : Security → Security) : (s.updSec f).faults = s.faults := rfl
@[simp] theorem State.updSec_vio (s : State) (f : Security → Security) : (s.updSec f).vio = s.vio := rfl
@[simp] theorem State.updSec_wdog (s : State) (f : Security → Security) : (s.updSec f).wdog = s.wdog := rfl
@[simp] theorem State.updSec_acc (s : State) (f : Security → Security) : (s.updSec f).acc = s.acc := rfl
@[simp] theorem State.updSec_mgt (s : State) (f : Security → Security) : (s.updSec f).mgt = s.mgt := rfl
@[simp] theorem State.updSec_ptp (s : State) (f : Security → Security) : (s.updSec f).ptp = s.ptp := rfl
@[simp] theorem State.updSec_sec (s : State) (f : Security → Security) : (s.updSec f).sec = f s.sec := rfl
@[simp] theorem State.updSec_quads (s : State) (f : Security → Security) : (s.updSec f).quads = s.quads := rfl
@[simp] theorem State.updSec_lanes (s : State) (f : Security → Security) : (s.updSec f).lanes = s.lanes := rfl
@[simp] theorem State.updSec_ports (s : State) (f : Security → Security) : (s.updSec f).ports = s.ports := rfl
@[simp] theorem State.updSec_srcs (s : State) (f : Security → Security) : (s.updSec f).srcs = s.srcs := rfl
@[simp] theorem State.updSec_heads (s : State) (f : Security → Security) : (s.updSec f).heads = s.heads := rfl
@[simp] theorem State.updSec_pcams (s : State) (f : Security → Security) : (s.updSec f).pcams = s.pcams := rfl
@[simp] theorem State.updSec_pipes (s : State) (f : Security → Security) : (s.updSec f).pipes = s.pipes := rfl
@[simp] theorem State.updSec_mapStore (s : State) (f : Security → Security) : (s.updSec f).mapStore = s.mapStore := rfl
@[simp] theorem State.updSec_tallies (s : State) (f : Security → Security) : (s.updSec f).tallies = s.tallies := rfl
@[simp] theorem State.updSec_encs (s : State) (f : Security → Security) : (s.updSec f).encs = s.encs := rfl
@[simp] theorem State.updSec_tb (s : State) (f : Security → Security) : (s.updSec f).tb = s.tb := rfl
@[simp] theorem State.updSec_router (s : State) (f : Security → Security) : (s.updSec f).router = s.router := rfl
@[simp] theorem State.updSec_qm (s : State) (f : Security → Security) : (s.updSec f).qm = s.qm := rfl
@[simp] theorem State.updSec_dma (s : State) (f : Security → Security) : (s.updSec f).dma = s.dma := rfl
@[simp] theorem State.updSec_pstore (s : State) (f : Security → Security) : (s.updSec f).pstore = s.pstore := rfl
@[simp] theorem State.updSec_psOfs (s : State) (f : Security → Security) : (s.updSec f).psOfs = s.psOfs := rfl
@[simp] theorem State.updSec_host (s : State) (f : Security → Security) : (s.updSec f).host = s.host := rfl
@[simp] theorem State.updSec_axes (s : State) (f : Security → Security) : (s.updSec f).axes = s.axes := rfl
@[simp] theorem State.send_pending (s : State) (x : Tx) : (s.send x).pending = s.pending := rfl
@[simp] theorem State.send_svc (s : State) (x : Tx) : (s.send x).svc = s.svc := rfl
@[simp] theorem State.send_coreTime (s : State) (x : Tx) : (s.send x).coreTime = s.coreTime := rfl
@[simp] theorem State.send_draw (s : State) (x : Tx) : (s.send x).draw = s.draw := rfl
@[simp] theorem State.send_reply (s : State) (x : Tx) : (s.send x).reply = s.reply := rfl
@[simp] theorem State.send_tx (s : State) (x : Tx) : (s.send x).tx = s.tx ++ [x] := rfl
@[simp] theorem State.send_pins (s : State) (x : Tx) : (s.send x).pins = s.pins := rfl
@[simp] theorem State.send_fuses (s : State) (x : Tx) : (s.send x).fuses = s.fuses := rfl
@[simp] theorem State.send_rst (s : State) (x : Tx) : (s.send x).rst = s.rst := rfl
@[simp] theorem State.send_clk (s : State) (x : Tx) : (s.send x).clk = s.clk := rfl
@[simp] theorem State.send_boot (s : State) (x : Tx) : (s.send x).boot = s.boot := rfl
@[simp] theorem State.send_thermal (s : State) (x : Tx) : (s.send x).thermal = s.thermal := rfl
@[simp] theorem State.send_mram (s : State) (x : Tx) : (s.send x).mram = s.mram := rfl
@[simp] theorem State.send_faults (s : State) (x : Tx) : (s.send x).faults = s.faults := rfl
@[simp] theorem State.send_vio (s : State) (x : Tx) : (s.send x).vio = s.vio := rfl
@[simp] theorem State.send_wdog (s : State) (x : Tx) : (s.send x).wdog = s.wdog := rfl
@[simp] theorem State.send_acc (s : State) (x : Tx) : (s.send x).acc = s.acc := rfl
@[simp] theorem State.send_mgt (s : State) (x : Tx) : (s.send x).mgt = s.mgt := rfl
@[simp] theorem State.send_ptp (s : State) (x : Tx) : (s.send x).ptp = s.ptp := rfl
@[simp] theorem State.send_sec (s : State) (x : Tx) : (s.send x).sec = s.sec := rfl
@[simp] theorem State.send_quads (s : State) (x : Tx) : (s.send x).quads = s.quads := rfl
@[simp] theorem State.send_lanes (s : State) (x : Tx) : (s.send x).lanes = s.lanes := rfl
@[simp] theorem State.send_ports (s : State) (x : Tx) : (s.send x).ports = s.ports := rfl
@[simp] theorem State.send_srcs (s : State) (x : Tx) : (s.send x).srcs = s.srcs := rfl
@[simp] theorem State.send_heads (s : State) (x : Tx) : (s.send x).heads = s.heads := rfl
@[simp] theorem State.send_pcams (s : State) (x : Tx) : (s.send x).pcams = s.pcams := rfl
@[simp] theorem State.send_pipes (s : State) (x : Tx) : (s.send x).pipes = s.pipes := rfl
@[simp] theorem State.send_mapStore (s : State) (x : Tx) : (s.send x).mapStore = s.mapStore := rfl
@[simp] theorem State.send_tallies (s : State) (x : Tx) : (s.send x).tallies = s.tallies := rfl
@[simp] theorem State.send_encs (s : State) (x : Tx) : (s.send x).encs = s.encs := rfl
@[simp] theorem State.send_tb (s : State) (x : Tx) : (s.send x).tb = s.tb := rfl
@[simp] theorem State.send_router (s : State) (x : Tx) : (s.send x).router = s.router := rfl
@[simp] theorem State.send_qm (s : State) (x : Tx) : (s.send x).qm = s.qm := rfl
@[simp] theorem State.send_dma (s : State) (x : Tx) : (s.send x).dma = s.dma := rfl
@[simp] theorem State.send_pstore (s : State) (x : Tx) : (s.send x).pstore = s.pstore := rfl
@[simp] theorem State.send_psOfs (s : State) (x : Tx) : (s.send x).psOfs = s.psOfs := rfl
@[simp] theorem State.send_host (s : State) (x : Tx) : (s.send x).host = s.host := rfl
@[simp] theorem State.send_axes (s : State) (x : Tx) : (s.send x).axes = s.axes := rfl
@[simp] theorem State.answer_pending (s : State) (st : Status) (d : List Byte) : (s.answer st d).pending = s.pending := rfl
@[simp] theorem State.answer_svc (s : State) (st : Status) (d : List Byte) : (s.answer st d).svc = s.svc := rfl
@[simp] theorem State.answer_coreTime (s : State) (st : Status) (d : List Byte) : (s.answer st d).coreTime = s.coreTime := rfl
@[simp] theorem State.answer_draw (s : State) (st : Status) (d : List Byte) : (s.answer st d).draw = s.draw := rfl
@[simp] theorem State.answer_reply (s : State) (st : Status) (d : List Byte) : (s.answer st d).reply = { status := st, data := d } := rfl
@[simp] theorem State.answer_tx (s : State) (st : Status) (d : List Byte) : (s.answer st d).tx = s.tx := rfl
@[simp] theorem State.answer_pins (s : State) (st : Status) (d : List Byte) : (s.answer st d).pins = s.pins := rfl
@[simp] theorem State.answer_fuses (s : State) (st : Status) (d : List Byte) : (s.answer st d).fuses = s.fuses := rfl
@[simp] theorem State.answer_rst (s : State) (st : Status) (d : List Byte) : (s.answer st d).rst = s.rst := rfl
@[simp] theorem State.answer_clk (s : State) (st : Status) (d : List Byte) : (s.answer st d).clk = s.clk := rfl
@[simp] theorem State.answer_boot (s : State) (st : Status) (d : List Byte) : (s.answer st d).boot = s.boot := rfl
@[simp] theorem State.answer_thermal (s : State) (st : Status) (d : List Byte) : (s.answer st d).thermal = s.thermal := rfl
@[simp] theorem State.answer_mram (s : State) (st : Status) (d : List Byte) : (s.answer st d).mram = s.mram := rfl
@[simp] theorem State.answer_faults (s : State) (st : Status) (d : List Byte) : (s.answer st d).faults = s.faults := rfl
@[simp] theorem State.answer_vio (s : State) (st : Status) (d : List Byte) : (s.answer st d).vio = s.vio := rfl
@[simp] theorem State.answer_wdog (s : State) (st : Status) (d : List Byte) : (s.answer st d).wdog = s.wdog := rfl
@[simp] theorem State.answer_acc (s : State) (st : Status) (d : List Byte) : (s.answer st d).acc = s.acc := rfl
@[simp] theorem State.answer_mgt (s : State) (st : Status) (d : List Byte) : (s.answer st d).mgt = s.mgt := rfl
@[simp] theorem State.answer_ptp (s : State) (st : Status) (d : List Byte) : (s.answer st d).ptp = s.ptp := rfl
@[simp] theorem State.answer_sec (s : State) (st : Status) (d : List Byte) : (s.answer st d).sec = s.sec := rfl
@[simp] theorem State.answer_quads (s : State) (st : Status) (d : List Byte) : (s.answer st d).quads = s.quads := rfl
@[simp] theorem State.answer_lanes (s : State) (st : Status) (d : List Byte) : (s.answer st d).lanes = s.lanes := rfl
@[simp] theorem State.answer_ports (s : State) (st : Status) (d : List Byte) : (s.answer st d).ports = s.ports := rfl
@[simp] theorem State.answer_srcs (s : State) (st : Status) (d : List Byte) : (s.answer st d).srcs = s.srcs := rfl
@[simp] theorem State.answer_heads (s : State) (st : Status) (d : List Byte) : (s.answer st d).heads = s.heads := rfl
@[simp] theorem State.answer_pcams (s : State) (st : Status) (d : List Byte) : (s.answer st d).pcams = s.pcams := rfl
@[simp] theorem State.answer_pipes (s : State) (st : Status) (d : List Byte) : (s.answer st d).pipes = s.pipes := rfl
@[simp] theorem State.answer_mapStore (s : State) (st : Status) (d : List Byte) : (s.answer st d).mapStore = s.mapStore := rfl
@[simp] theorem State.answer_tallies (s : State) (st : Status) (d : List Byte) : (s.answer st d).tallies = s.tallies := rfl
@[simp] theorem State.answer_encs (s : State) (st : Status) (d : List Byte) : (s.answer st d).encs = s.encs := rfl
@[simp] theorem State.answer_tb (s : State) (st : Status) (d : List Byte) : (s.answer st d).tb = s.tb := rfl
@[simp] theorem State.answer_router (s : State) (st : Status) (d : List Byte) : (s.answer st d).router = s.router := rfl
@[simp] theorem State.answer_qm (s : State) (st : Status) (d : List Byte) : (s.answer st d).qm = s.qm := rfl
@[simp] theorem State.answer_dma (s : State) (st : Status) (d : List Byte) : (s.answer st d).dma = s.dma := rfl
@[simp] theorem State.answer_pstore (s : State) (st : Status) (d : List Byte) : (s.answer st d).pstore = s.pstore := rfl
@[simp] theorem State.answer_psOfs (s : State) (st : Status) (d : List Byte) : (s.answer st d).psOfs = s.psOfs := rfl
@[simp] theorem State.answer_host (s : State) (st : Status) (d : List Byte) : (s.answer st d).host = s.host := rfl
@[simp] theorem State.answer_axes (s : State) (st : Status) (d : List Byte) : (s.answer st d).axes = s.axes := rfl
@[simp] theorem State.drawNat_pending (s : State) : (s.drawNat.2).pending = s.pending := rfl
@[simp] theorem State.drawNat_svc (s : State) : (s.drawNat.2).svc = s.svc := rfl
@[simp] theorem State.drawNat_coreTime (s : State) : (s.drawNat.2).coreTime = s.coreTime := rfl
@[simp] theorem State.drawNat_draw (s : State) : (s.drawNat.2).draw = s.draw + 1 := rfl
@[simp] theorem State.drawNat_reply (s : State) : (s.drawNat.2).reply = s.reply := rfl
@[simp] theorem State.drawNat_tx (s : State) : (s.drawNat.2).tx = s.tx := rfl
@[simp] theorem State.drawNat_pins (s : State) : (s.drawNat.2).pins = s.pins := rfl
@[simp] theorem State.drawNat_fuses (s : State) : (s.drawNat.2).fuses = s.fuses := rfl
@[simp] theorem State.drawNat_rst (s : State) : (s.drawNat.2).rst = s.rst := rfl
@[simp] theorem State.drawNat_clk (s : State) : (s.drawNat.2).clk = s.clk := rfl
@[simp] theorem State.drawNat_boot (s : State) : (s.drawNat.2).boot = s.boot := rfl
@[simp] theorem State.drawNat_thermal (s : State) : (s.drawNat.2).thermal = s.thermal := rfl
@[simp] theorem State.drawNat_mram (s : State) : (s.drawNat.2).mram = s.mram := rfl
@[simp] theorem State.drawNat_faults (s : State) : (s.drawNat.2).faults = s.faults := rfl
@[simp] theorem State.drawNat_vio (s : State) : (s.drawNat.2).vio = s.vio := rfl
@[simp] theorem State.drawNat_wdog (s : State) : (s.drawNat.2).wdog = s.wdog := rfl
@[simp] theorem State.drawNat_acc (s : State) : (s.drawNat.2).acc = s.acc := rfl
@[simp] theorem State.drawNat_mgt (s : State) : (s.drawNat.2).mgt = s.mgt := rfl
@[simp] theorem State.drawNat_ptp (s : State) : (s.drawNat.2).ptp = s.ptp := rfl
@[simp] theorem State.drawNat_sec (s : State) : (s.drawNat.2).sec = s.sec := rfl
@[simp] theorem State.drawNat_quads (s : State) : (s.drawNat.2).quads = s.quads := rfl
@[simp] theorem State.drawNat_lanes (s : State) : (s.drawNat.2).lanes = s.lanes := rfl
@[simp] theorem State.drawNat_ports (s : State) : (s.drawNat.2).ports = s.ports := rfl
@[simp] theorem State.drawNat_srcs (s : State) : (s.drawNat.2).srcs = s.srcs := rfl
@[simp] theorem State.drawNat_heads (s : State) : (s.drawNat.2).heads = s.heads := rfl
@[simp] theorem State.drawNat_pcams (s : State) : (s.drawNat.2).pcams = s.pcams := rfl
@[simp] theorem State.drawNat_pipes (s : State) : (s.drawNat.2).pipes = s.pipes := rfl
@[simp] theorem State.drawNat_mapStore (s : State) : (s.drawNat.2).mapStore = s.mapStore := rfl
@[simp] theorem State.drawNat_tallies (s : State) : (s.drawNat.2).tallies = s.tallies := rfl
@[simp] theorem State.drawNat_encs (s : State) : (s.drawNat.2).encs = s.encs := rfl
@[simp] theorem State.drawNat_tb (s : State) : (s.drawNat.2).tb = s.tb := rfl
@[simp] theorem State.drawNat_router (s : State) : (s.drawNat.2).router = s.router := rfl
@[simp] theorem State.drawNat_qm (s : State) : (s.drawNat.2).qm = s.qm := rfl
@[simp] theorem State.drawNat_dma (s : State) : (s.drawNat.2).dma = s.dma := rfl
@[simp] theorem State.drawNat_pstore (s : State) : (s.drawNat.2).pstore = s.pstore := rfl
@[simp] theorem State.drawNat_psOfs (s : State) : (s.drawNat.2).psOfs = s.psOfs := rfl
@[simp] theorem State.drawNat_host (s : State) : (s.drawNat.2).host = s.host := rfl
@[simp] theorem State.drawNat_axes (s : State) : (s.drawNat.2).axes = s.axes := rfl
@[simp] theorem State.drawBool_pending (s : State) : (s.drawBool.2).pending = s.pending := rfl
@[simp] theorem State.drawBool_svc (s : State) : (s.drawBool.2).svc = s.svc := rfl
@[simp] theorem State.drawBool_coreTime (s : State) : (s.drawBool.2).coreTime = s.coreTime := rfl
@[simp] theorem State.drawBool_draw (s : State) : (s.drawBool.2).draw = s.draw + 1 := rfl
@[simp] theorem State.drawBool_reply (s : State) : (s.drawBool.2).reply = s.reply := rfl
@[simp] theorem State.drawBool_tx (s : State) : (s.drawBool.2).tx = s.tx := rfl
@[simp] theorem State.drawBool_pins (s : State) : (s.drawBool.2).pins = s.pins := rfl
@[simp] theorem State.drawBool_fuses (s : State) : (s.drawBool.2).fuses = s.fuses := rfl
@[simp] theorem State.drawBool_rst (s : State) : (s.drawBool.2).rst = s.rst := rfl
@[simp] theorem State.drawBool_clk (s : State) : (s.drawBool.2).clk = s.clk := rfl
@[simp] theorem State.drawBool_boot (s : State) : (s.drawBool.2).boot = s.boot := rfl
@[simp] theorem State.drawBool_thermal (s : State) : (s.drawBool.2).thermal = s.thermal := rfl
@[simp] theorem State.drawBool_mram (s : State) : (s.drawBool.2).mram = s.mram := rfl
@[simp] theorem State.drawBool_faults (s : State) : (s.drawBool.2).faults = s.faults := rfl
@[simp] theorem State.drawBool_vio (s : State) : (s.drawBool.2).vio = s.vio := rfl
@[simp] theorem State.drawBool_wdog (s : State) : (s.drawBool.2).wdog = s.wdog := rfl
@[simp] theorem State.drawBool_acc (s : State) : (s.drawBool.2).acc = s.acc := rfl
@[simp] theorem State.drawBool_mgt (s : State) : (s.drawBool.2).mgt = s.mgt := rfl
@[simp] theorem State.drawBool_ptp (s : State) : (s.drawBool.2).ptp = s.ptp := rfl
@[simp] theorem State.drawBool_sec (s : State) : (s.drawBool.2).sec = s.sec := rfl
@[simp] theorem State.drawBool_quads (s : State) : (s.drawBool.2).quads = s.quads := rfl
@[simp] theorem State.drawBool_lanes (s : State) : (s.drawBool.2).lanes = s.lanes := rfl
@[simp] theorem State.drawBool_ports (s : State) : (s.drawBool.2).ports = s.ports := rfl
@[simp] theorem State.drawBool_srcs (s : State) : (s.drawBool.2).srcs = s.srcs := rfl
@[simp] theorem State.drawBool_heads (s : State) : (s.drawBool.2).heads = s.heads := rfl
@[simp] theorem State.drawBool_pcams (s : State) : (s.drawBool.2).pcams = s.pcams := rfl
@[simp] theorem State.drawBool_pipes (s : State) : (s.drawBool.2).pipes = s.pipes := rfl
@[simp] theorem State.drawBool_mapStore (s : State) : (s.drawBool.2).mapStore = s.mapStore := rfl
@[simp] theorem State.drawBool_tallies (s : State) : (s.drawBool.2).tallies = s.tallies := rfl
@[simp] theorem State.drawBool_encs (s : State) : (s.drawBool.2).encs = s.encs := rfl
@[simp] theorem State.drawBool_tb (s : State) : (s.drawBool.2).tb = s.tb := rfl
@[simp] theorem State.drawBool_router (s : State) : (s.drawBool.2).router = s.router := rfl
@[simp] theorem State.drawBool_qm (s : State) : (s.drawBool.2).qm = s.qm := rfl
@[simp] theorem State.drawBool_dma (s : State) : (s.drawBool.2).dma = s.dma := rfl
@[simp] theorem State.drawBool_pstore (s : State) : (s.drawBool.2).pstore = s.pstore := rfl
@[simp] theorem State.drawBool_psOfs (s : State) : (s.drawBool.2).psOfs = s.psOfs := rfl
@[simp] theorem State.drawBool_host (s : State) : (s.drawBool.2).host = s.host := rfl
@[simp] theorem State.drawBool_axes (s : State) : (s.drawBool.2).axes = s.axes := rfl
@[simp] theorem State.drawBytes_pending (s : State) (k : Nat) : ((s.drawBytes k).2).pending = s.pending := rfl
@[simp] theorem State.drawBytes_svc (s : State) (k : Nat) : ((s.drawBytes k).2).svc = s.svc := rfl
@[simp] theorem State.drawBytes_coreTime (s : State) (k : Nat) : ((s.drawBytes k).2).coreTime = s.coreTime := rfl
@[simp] theorem State.drawBytes_draw (s : State) (k : Nat) : ((s.drawBytes k).2).draw = s.draw + 1 := rfl
@[simp] theorem State.drawBytes_reply (s : State) (k : Nat) : ((s.drawBytes k).2).reply = s.reply := rfl
@[simp] theorem State.drawBytes_tx (s : State) (k : Nat) : ((s.drawBytes k).2).tx = s.tx := rfl
@[simp] theorem State.drawBytes_pins (s : State) (k : Nat) : ((s.drawBytes k).2).pins = s.pins := rfl
@[simp] theorem State.drawBytes_fuses (s : State) (k : Nat) : ((s.drawBytes k).2).fuses = s.fuses := rfl
@[simp] theorem State.drawBytes_rst (s : State) (k : Nat) : ((s.drawBytes k).2).rst = s.rst := rfl
@[simp] theorem State.drawBytes_clk (s : State) (k : Nat) : ((s.drawBytes k).2).clk = s.clk := rfl
@[simp] theorem State.drawBytes_boot (s : State) (k : Nat) : ((s.drawBytes k).2).boot = s.boot := rfl
@[simp] theorem State.drawBytes_thermal (s : State) (k : Nat) : ((s.drawBytes k).2).thermal = s.thermal := rfl
@[simp] theorem State.drawBytes_mram (s : State) (k : Nat) : ((s.drawBytes k).2).mram = s.mram := rfl
@[simp] theorem State.drawBytes_faults (s : State) (k : Nat) : ((s.drawBytes k).2).faults = s.faults := rfl
@[simp] theorem State.drawBytes_vio (s : State) (k : Nat) : ((s.drawBytes k).2).vio = s.vio := rfl
@[simp] theorem State.drawBytes_wdog (s : State) (k : Nat) : ((s.drawBytes k).2).wdog = s.wdog := rfl
@[simp] theorem State.drawBytes_acc (s : State) (k : Nat) : ((s.drawBytes k).2).acc = s.acc := rfl
@[simp] theorem State.drawBytes_mgt (s : State) (k : Nat) : ((s.drawBytes k).2).mgt = s.mgt := rfl
@[simp] theorem State.drawBytes_ptp (s : State) (k : Nat) : ((s.drawBytes k).2).ptp = s.ptp := rfl
@[simp] theorem State.drawBytes_sec (s : State) (k : Nat) : ((s.drawBytes k).2).sec = s.sec := rfl
@[simp] theorem State.drawBytes_quads (s : State) (k : Nat) : ((s.drawBytes k).2).quads = s.quads := rfl
@[simp] theorem State.drawBytes_lanes (s : State) (k : Nat) : ((s.drawBytes k).2).lanes = s.lanes := rfl
@[simp] theorem State.drawBytes_ports (s : State) (k : Nat) : ((s.drawBytes k).2).ports = s.ports := rfl
@[simp] theorem State.drawBytes_srcs (s : State) (k : Nat) : ((s.drawBytes k).2).srcs = s.srcs := rfl
@[simp] theorem State.drawBytes_heads (s : State) (k : Nat) : ((s.drawBytes k).2).heads = s.heads := rfl
@[simp] theorem State.drawBytes_pcams (s : State) (k : Nat) : ((s.drawBytes k).2).pcams = s.pcams := rfl
@[simp] theorem State.drawBytes_pipes (s : State) (k : Nat) : ((s.drawBytes k).2).pipes = s.pipes := rfl
@[simp] theorem State.drawBytes_mapStore (s : State) (k : Nat) : ((s.drawBytes k).2).mapStore = s.mapStore := rfl
@[simp] theorem State.drawBytes_tallies (s : State) (k : Nat) : ((s.drawBytes k).2).tallies = s.tallies := rfl
@[simp] theorem State.drawBytes_encs (s : State) (k : Nat) : ((s.drawBytes k).2).encs = s.encs := rfl
@[simp] theorem State.drawBytes_tb (s : State) (k : Nat) : ((s.drawBytes k).2).tb = s.tb := rfl
@[simp] theorem State.drawBytes_router (s : State) (k : Nat) : ((s.drawBytes k).2).router = s.router := rfl
@[simp] theorem State.drawBytes_qm (s : State) (k : Nat) : ((s.drawBytes k).2).qm = s.qm := rfl
@[simp] theorem State.drawBytes_dma (s : State) (k : Nat) : ((s.drawBytes k).2).dma = s.dma := rfl
@[simp] theorem State.drawBytes_pstore (s : State) (k : Nat) : ((s.drawBytes k).2).pstore = s.pstore := rfl
@[simp] theorem State.drawBytes_psOfs (s : State) (k : Nat) : ((s.drawBytes k).2).psOfs = s.psOfs := rfl
@[simp] theorem State.drawBytes_host (s : State) (k : Nat) : ((s.drawBytes k).2).host = s.host := rfl
@[simp] theorem State.drawBytes_axes (s : State) (k : Nat) : ((s.drawBytes k).2).axes = s.axes := rfl

/-! ### A change made for each element of a list -/

/-- What holds at the start and is kept by each change holds at the end. -/
theorem State.each_ind {α : Type} (P : State → Prop) (l : List α) (f : α → State → State) (keep : ∀ a s, a ∈ l → P s → P (f a s)) (s : State) (h : P s) :
    P (s.each l f) := by
  induction l generalizing s with
  | nil => exact h
  | cons a r ih => exact ih (fun b t hb ht => keep b t (List.mem_cons_of_mem _ hb) ht) (f a s) (keep a s List.mem_cons_self h)

/-- A part that each change leaves alone is left alone by all of them. -/
theorem State.each_keeps {α β : Type} (get : State → β) (l : List α) (f : α → State → State) (keep : ∀ a s, get (f a s) = get s) (s : State) :
    get (s.each l f) = get s :=
  State.each_ind (fun t => get t = get s) l f (fun a t _ h => (keep a t).trans h) s rfl

@[simp] theorem State.each_nil {α : Type} (f : α → State → State) (s : State) : s.each [] f = s := rfl
@[simp] theorem State.each_cons {α : Type} (a : α) (l : List α) (f : α → State → State) (s : State) : s.each (a :: l) f = (f a s).each l f := rfl

end Sys2Proof.Machine
end

