-- ==== Sys2Proof/Laws/Ops.lean ====
section
/-! SUPPORT. What each shared operation can do, said once: its frame as one equation, and its outcomes. -/

namespace Sys2Proof.Machine

open Sys2Proof

/-! ### Interrupt vectors -/

/-- A vector that may not be delivered becomes pending; one that may leaves as a message; with the function unable to send, nothing happens (R520). -/
theorem sendVector_cases (l : Fin 4) (g : Fin 17) (e : Nat) (s : State) :
    (sendVector l g e s = s.updFn l g fun f => { f with pend := insertNat f.pend e })
    ∨ (sendVector l g e s = s.send (.msix l g e) ∧ s.host.links[l].up = true ∧ s.host.links[l].fns[g].busMaster = true ∧ s.host.links[l].fns[g].d3 = false)
    ∨ sendVector l g e s = s := by
  unfold sendVector
  dsimp only
  split
  next => exact .inl rfl
  next =>
    split
    next h => exact .inr (.inl ⟨rfl, by simp_all, by simp_all, by simp_all⟩)
    next => exact .inr (.inr rfl)

/-- A vector changes the host ports and the record of what is sent, and nothing else. -/
theorem sendVector_frame (l : Fin 4) (g : Fin 17) (e : Nat) (s : State) :
    sendVector l g e s = { s with host := (sendVector l g e s).host, tx := (sendVector l g e s).tx } := by
  rcases sendVector_cases l g e s with h | ⟨h, -⟩ | h <;> rw [h] <;> rfl

/-- So does a device vector. -/
theorem deviceVector_frame (e : Nat) (s : State) :
    deviceVector e s = { s with host := (deviceVector e s).host, tx := (deviceVector e s).tx } :=
  sendVector_frame (devLink s) 0 e s

/-- So does a channel's vector. -/
theorem channelVector_frame (c : Fin 512) (s : State) :
    channelVector c s = { s with host := (channelVector c s).host, tx := (channelVector c s).tx } :=
  sendVector_frame _ _ _ s

/-! ### Router publishing -/

/-- A source code raised in core clock t while the router is out of reset, on each channel that selects it; the router alone changes (R401, R403). -/
theorem publishAt_cases (t code : Nat) (s : State) :
    publishAt t code s = s ∧ inReset .router s = true
    ∨ inReset .router s = false ∧ publishAt t code s = s.updRouter fun r =>
        { r with chans := mapAll r.chans fun _ c => if fld c.cfg 28 16 = code then c.raise t else c } := by
  unfold publishAt
  split
  next h => exact .inl ⟨rfl, h⟩
  next h => exact .inr ⟨Bool.eq_false_iff.2 h, rfl⟩

/-- Raising a code changes the router and nothing else. -/
theorem publishAt_frame (t code : Nat) (s : State) : publishAt t code s = { s with router := (publishAt t code s).router } := by
  rcases publishAt_cases t code s with ⟨h, -⟩ | ⟨-, h⟩
  · rw [h]
  · rw [h]; rfl

/-- So does publishing it now. -/
theorem publish_frame (code : Nat) (s : State) : publish code s = { s with router := (publish code s).router } :=
  publishAt_frame s.coreTime code s

/-- A publisher of one channel acts on it while the router is out of reset (R401, R403). -/
theorem publishOn_cases (c : Fin 128) (s : State) :
    publishOn c s = s ∧ inReset .router s = true
    ∨ inReset .router s = false ∧ publishOn c s = s.updChan c (Chan.raise s.coreTime) := by
  unfold publishOn
  split
  next h => exact .inl ⟨rfl, h⟩
  next h => exact .inr ⟨Bool.eq_false_iff.2 h, rfl⟩

/-- A publisher changes the router and nothing else. -/
theorem publishOn_frame (c : Fin 128) (s : State) : publishOn c s = { s with router := (publishOn c s).router } := by
  rcases publishOn_cases c s with ⟨h, -⟩ | ⟨-, h⟩
  · rw [h]
  · rw [h]; rfl

/-! ### The fault log -/

/-- A record joins the hardware queue's end, or with 256 waiting is lost and counted (R628). -/
theorem postRec_cases (r : FaultRec) (s : State) :
    (s.faults.queue.length < 256 ∧ postRec r s = { s with faults := { s.faults with queue := s.faults.queue ++ [r] } })
    ∨ (256 ≤ s.faults.queue.length ∧ postRec r s = { s with faults := { s.faults with lost := satInc s.faults.lost } }) := by
  unfold postRec
  split
  next h => exact .inl ⟨h, rfl⟩
  next h => exact .inr ⟨Nat.le_of_not_lt h, rfl⟩

/-- A record posted changes the fault state and nothing else. -/
theorem postRec_frame (r : FaultRec) (s : State) : postRec r s = { s with faults := (postRec r s).faults } := by
  rcases postRec_cases r s with ⟨-, h⟩ | ⟨-, h⟩ <;> rw [h]

/-- So does a fault. -/
theorem fault_frame (code sev : Nat) (cls : FClass) (idx detail : Nat) (s : State) :
    fault code sev cls idx detail s = { s with faults := (fault code sev cls idx detail s).faults } :=
  postRec_frame _ s

/-- So does a give-way, which counts on its rung whether or not its record finds room (R627). -/
theorem giveWay_frame (code : Nat) (rung : Fin 5) (cls : FClass) (idx detail : Nat) (s : State) :
    giveWay code rung cls idx detail s = { s with faults := (giveWay code rung cls idx detail s).faults } := by
  unfold giveWay
  rw [postRec_frame]

/-- A give-way's rung counts one more; every other rung stays (R627). -/
theorem giveWay_counts (code : Nat) (rung : Fin 5) (cls : FClass) (idx detail : Nat) (s : State) :
    (giveWay code rung cls idx detail s).faults.giveway = modAt s.faults.giveway rung satInc := by
  unfold giveWay
  rcases postRec_cases _ _ with ⟨-, h⟩ | ⟨-, h⟩ <;> rw [h]

/-- A record moved into the log is merged with the newest entry within 1 ms, without a message, or makes a new entry with the next number (R630). -/
theorem logFault_cases (r : FaultRec) (s : State) :
    (∃ e rest, s.faults.log = e :: rest ∧ e.record.code = r.code ∧ e.record.cls = r.cls ∧ e.record.index = r.index ∧ s.coreTime < e.made + clkMs
      ∧ logFault r s = { s with faults := { s.faults with log := { e with count := satInc e.count } :: rest } })
    ∨ ∃ log, logFault r s = deviceVector 513 { s with faults := { s.faults with head := s.faults.head + 1, log := log } }
      ∧ log = (({ seq := s.faults.head + 1, record := r, count := 1, made := s.coreTime } : FaultEntry) :: s.faults.log).take 1024 := by
  unfold logFault
  dsimp only
  split
  next e rest hlog =>
    split
    next h => exact .inl ⟨e, rest, hlog, h.1, h.2.1, h.2.2.1, h.2.2.2, rfl⟩
    next h => exact .inr ⟨_, rfl, by rw [hlog]⟩
  next hlog => exact .inr ⟨_, rfl, by rw [hlog]; rfl⟩

/-- Moving a record changes the fault state, the host ports and the record of what is sent. -/
theorem logFault_frame (r : FaultRec) (s : State) :
    logFault r s = { s with faults := (logFault r s).faults, host := (logFault r s).host, tx := (logFault r s).tx } := by
  rcases logFault_cases r s with ⟨e, rest, -, -, -, -, -, h⟩ | ⟨log, h, -⟩ <;> rw [h]
  rw [deviceVector_frame]

/-! ### The violation log -/

/-- A refused access changes the violation log, the host ports and the record of what is sent, and nothing else (R631, R632). -/
theorem logVio_frame (kind target : Nat) (st : Status) (initiator : Nat) (s : State) :
    logVio kind target st initiator s = { s with vio := (logVio kind target st initiator s).vio, host := (logVio kind target st initiator s).host
                                                 tx := (logVio kind target st initiator s).tx } := by
  unfold logVio
  dsimp only
  split
  next => split <;> first | rfl | rw [deviceVector_frame]
  next => rw [deviceVector_frame]

/-! ### Checks in their order -/

@[simp] theorem firstRefusal_nil : firstRefusal [] = .ok := rfl

/-- The first condition of a list decides before all that follow it. -/
@[simp] theorem firstRefusal_cons (bars : Bool) (st : Status) (l : List (Bool × Status)) :
    firstRefusal ((bars, st) :: l) = if bars then st else firstRefusal l := by
  cases bars <;> rfl

/-- Checks that each refuse with another status than OK pass exactly when none of them bars the write. -/
theorem firstRefusal_ok {l : List (Bool × Status)} (h : ∀ p ∈ l, p.2 ≠ .ok) : firstRefusal l = .ok ↔ ∀ p ∈ l, p.1 = false := by
  induction l with
  | nil => simp
  | cons p r ih =>
    obtain ⟨bars, st⟩ := p
    have hst : st ≠ .ok := h (bars, st) List.mem_cons_self
    have ih := ih fun p hp => h p (List.mem_cons_of_mem _ hp)
    cases bars <;> simp [hst, ih]

end Sys2Proof.Machine
end

