-- ==== Sys2Proof/WellFormed.lean ====
section
/-! DEFINITION. When a command's operands are something the device can be given: a codeword, an alignment codeword
and a training frame have 1,360 symbols (R168, R171, R179), sensor samples and sizes lie in their ranges. -/

namespace Sys2Proof

open Sys2Proof.Machine

/-- The operands are in the ranges the manual gives them. DESIGN CHOICE, log entry 15. -/
def Instr.wf : Instr → Bool
  | .codewordReceived _ ps => ps.length == 1360
  | .alignmentCodeword _ ps _ => ps.length == 1360
  | .trainingFrame _ ps _ wish => ps.length == 1360 && wish < 256
  | .bootOffer _ _ len => decide (1 ≤ len ∧ len ≤ 4194304)
  | .bootData _ _ _ bs => bs.length ≤ 1432
  | .thermalSample _ => true
  | .analogSample _ s c => decide (-8192 ≤ s ∧ s < 8192 ∧ -8192 ≤ c ∧ c < 8192)
  | .chopMaskEnd _ _ m => m < 1024
  | .pcamSample _ _ _ d => d < 4294967296
  | .viewRead _ _ _ len => len == 4 || len == 8
  | .viewWrite _ _ _ bs => bs.length == 4 || bs.length == 8
  | .ddrTraining rs => (rs.map (·.ch)).Nodup
  | _ => true

end Sys2Proof
end

