-- ==== Sys2Proof/Laws/PerInstr.lean ====
section
/-! SUPPORT. One statement of the commands as syntax, with its lemma for each constructor: a register row has no operand check, so no value
that a path can carry is shut out. -/

namespace Sys2Proof.Laws.EveryRegisterValueIsAnOperand

open Sys2Proof Sys2Proof.Machine Sys2Proof.Safety

/-- A register row is well formed whatever its value. -/
def Statement (c : Instr) : Prop := (registerRow c).isSome = true → c.wf = true

theorem powerUp (rail : Rail) (mv : Nat) : Statement (.powerUp rail mv) := fun h => Bool.noConfusion h
theorem por : Statement (.por) := fun h => Bool.noConfusion h
theorem resetNAssert : Statement (.resetNAssert) := fun h => Bool.noConfusion h
theorem wresetNAssert : Statement (.wresetNAssert) := fun h => Bool.noConfusion h
theorem level0Release (straps : Straps) (refclk : Bool) (pcieRef : Bool) : Statement (.level0Release straps refclk pcieRef) := fun h => Bool.noConfusion h
theorem refclkLockRetry (seen : Option Bool) : Statement (.refclkLockRetry seen) := fun h => Bool.noConfusion h
theorem domainLockFail (d : Fin 23) : Statement (.domainLockFail d) := fun h => Bool.noConfusion h
theorem clockGood (d : Fin 23) : Statement (.clockGood d) := fun h => Bool.noConfusion h
theorem resetReleaseL1 : Statement (.resetReleaseL1) := fun h => Bool.noConfusion h
theorem resetReleaseL2 : Statement (.resetReleaseL2) := fun h => Bool.noConfusion h
theorem resetReleaseL3 (b : Blk) : Statement (.resetReleaseL3 b) := fun h => Bool.noConfusion h
theorem softrst (w : By) (v : Word) : Statement (.softrst w v) := fun _ => rfl
theorem softResetDelayedAssert : Statement (.softResetDelayedAssert) := fun h => Bool.noConfusion h
theorem rstmapBurn (w : By) (v : Word) : Statement (.rstmapBurn w v) := fun _ => rfl
theorem pinmapBurn (w : By) (v : Word) : Statement (.pinmapBurn w v) := fun _ => rfl
theorem wdogExpiry (pc : BitVec 64) : Statement (.wdogExpiry pc) := fun h => Bool.noConfusion h
theorem wdogRestart : Statement (.wdogRestart) := fun h => Bool.noConfusion h
theorem lockstepMismatch : Statement (.lockstepMismatch) := fun h => Bool.noConfusion h
theorem clockFailure (d : Fin 23) : Statement (.clockFailure d) := fun h => Bool.noConfusion h
theorem ringClockReturn : Statement (.ringClockReturn) := fun h => Bool.noConfusion h
theorem spiImageLoaded (bytes : List Byte) : Statement (.spiImageLoaded bytes) := fun h => Bool.noConfusion h
theorem bootDoorbell : Statement (.bootDoorbell) := fun h => Bool.noConfusion h
theorem bootVerifyDone : Statement (.bootVerifyDone) := fun h => Bool.noConfusion h
theorem netBootRetry : Statement (.netBootRetry) := fun h => Bool.noConfusion h
theorem bootOffer (m : Fin 2) (server : Nat) (len : Nat) : Statement (.bootOffer m server len) := fun h => Bool.noConfusion h
theorem bootData (m : Fin 2) (server : Nat) (ofs : Nat) (bytes : List Byte) : Statement (.bootData m server ofs bytes) := fun h => Bool.noConfusion h
theorem bootReadRetry (ofs : Nat) : Statement (.bootReadRetry ofs) := fun h => Bool.noConfusion h
theorem ddrTraining (reports : List DdrReport) : Statement (.ddrTraining reports) := fun h => Bool.noConfusion h
theorem thermalSample (t : Vector (BitVec 24) 16) : Statement (.thermalSample t) := fun h => Bool.noConfusion h
theorem sensorRecover (i : Fin 16) : Statement (.sensorRecover i) := fun h => Bool.noConfusion h
theorem thermalRelease : Statement (.thermalRelease) := fun h => Bool.noConfusion h
theorem lossOfSignal (n : Fin 64) : Statement (.lossOfSignal n) := fun h => Bool.noConfusion h
theorem signalDetect (n : Fin 64) : Statement (.signalDetect n) := fun h => Bool.noConfusion h
theorem exitLockFail (n : Fin 64) : Statement (.exitLockFail n) := fun h => Bool.noConfusion h
theorem errorWindow (n : Fin 64) : Statement (.errorWindow n) := fun h => Bool.noConfusion h
theorem cntctlClear (w : By) (n : Fin 64) (v : Word) : Statement (.cntctlClear w n v) := fun _ => rfl
theorem eyeStart (w : By) (n : Fin 64) (v : Word) : Statement (.eyeStart w n v) := fun _ => rfl
theorem eyeDone (n : Fin 64) (errors : Nat) : Statement (.eyeDone n errors) := fun h => Bool.noConfusion h
theorem laneEnable (w : By) (n : Fin 64) (v : Word) : Statement (.laneEnable w n v) := fun _ => rfl
theorem laneDisable (w : By) (n : Fin 64) (v : Word) : Statement (.laneDisable w n v) := fun _ => rfl
theorem codewordReceived (n : Fin 64) (levels : List Level) : Statement (.codewordReceived n levels) := fun h => Bool.noConfusion h
theorem alignmentCodeword (n : Fin 64) (levels : List Level) (exit : Bool) : Statement (.alignmentCodeword n levels exit) := fun h => Bool.noConfusion h
theorem trainingFrame (n : Fin 64) (levels : List Level) (spaced : Bool) (wish : Nat) : Statement (.trainingFrame n levels spaced wish) := fun h => Bool.noConfusion h
theorem signalDetectHeld (n : Fin 64) : Statement (.signalDetectHeld n) := fun h => Bool.noConfusion h
theorem countdownEnd (n : Fin 64) : Statement (.countdownEnd n) := fun h => Bool.noConfusion h
theorem trainingTimeout (n : Fin 64) : Statement (.trainingTimeout n) := fun h => Bool.noConfusion h
theorem backoffEnd (n : Fin 64) : Statement (.backoffEnd n) := fun h => Bool.noConfusion h
theorem caps (n : Fin 64) (x : BitVec 256) : Statement (.caps n x) := fun h => Bool.noConfusion h
theorem capsAck (n : Fin 64) (x : BitVec 256) : Statement (.capsAck n x) := fun h => Bool.noConfusion h
theorem eidleEnter (n : Fin 64) (x : BitVec 256) : Statement (.eidleEnter n x) := fun h => Bool.noConfusion h
theorem retrain (n : Fin 64) : Statement (.retrain n) := fun h => Bool.noConfusion h
theorem laneFault (n : Fin 64) (x : BitVec 256) : Statement (.laneFault n x) := fun h => Bool.noConfusion h
theorem replayStart (n : Fin 64) (x : BitVec 256) : Statement (.replayStart n x) := fun h => Bool.noConfusion h
theorem replayReqResend (p : Fin 16) : Statement (.replayReqResend p) := fun h => Bool.noConfusion h
theorem replayTimeout (p : Fin 16) : Statement (.replayTimeout p) := fun h => Bool.noConfusion h
theorem upTimeExpiry (p : Fin 16) : Statement (.upTimeExpiry p) := fun h => Bool.noConfusion h
theorem eidleMaxExpiry (p : Fin 16) : Statement (.eidleMaxExpiry p) := fun h => Bool.noConfusion h
theorem dsIdleEntry (p : Fin 16) : Statement (.dsIdleEntry p) := fun h => Bool.noConfusion h
theorem portctlWrite (w : By) (p : Fin 16) (v : Word) : Statement (.portctlWrite w p v) := fun _ => rfl
theorem portRelease (w : By) (p : Fin 16) (v : Word) : Statement (.portRelease w p v) := fun _ => rfl
theorem startOfFrame (p : Fin 16) (x : BitVec 256) : Statement (.startOfFrame p x) := fun h => Bool.noConfusion h
theorem dataBlock (p : Fin 16) (x : BitVec 256) : Statement (.dataBlock p x) := fun h => Bool.noConfusion h
theorem endOfFrame (p : Fin 16) (x : BitVec 256) : Statement (.endOfFrame p x) := fun h => Bool.noConfusion h
theorem headMessage (p : Fin 16) (x : BitVec 256) : Statement (.headMessage p x) := fun h => Bool.noConfusion h
theorem commandReply (p : Fin 16) (x : BitVec 256) : Statement (.commandReply p x) := fun h => Bool.noConfusion h
theorem frameTimeout (i : Fin 18) : Statement (.frameTimeout i) := fun h => Bool.noConfusion h
theorem cmdRead (w : By) (i : Fin 18) (v : Word) : Statement (.cmdRead w i v) := fun _ => rfl
theorem cmdWrite (w : By) (i : Fin 18) (v : Word) : Statement (.cmdWrite w i v) := fun _ => rfl
theorem cmdPendingWrite (w : By) (i : Fin 18) (v : Word) : Statement (.cmdPendingWrite w i v) := fun _ => rfl
theorem cmdTimeout (i : Fin 18) : Statement (.cmdTimeout i) := fun h => Bool.noConfusion h
theorem sourceWrite (w : By) (p : Fin 16) (v : Word) : Statement (.sourceWrite w p v) := fun _ => rfl
theorem peakRateWrite (w : By) (i : Fin 18) (v : Word) : Statement (.peakRateWrite w i v) := fun _ => rfl
theorem takeStart (w : By) (i : Fin 18) (v : Word) : Statement (.takeStart w i v) := fun _ => rfl
theorem takeStop (w : By) (i : Fin 18) (v : Word) : Statement (.takeStop w i v) := fun _ => rfl
theorem takeAbort (w : By) (i : Fin 18) (v : Word) : Statement (.takeAbort w i v) := fun _ => rfl
theorem pcamFrameStart (n : Fin 2) : Statement (.pcamFrameStart n) := fun h => Bool.noConfusion h
theorem pcamFrameEnd (n : Fin 2) : Statement (.pcamFrameEnd n) := fun h => Bool.noConfusion h
theorem pclkLost (n : Fin 2) : Statement (.pclkLost n) := fun h => Bool.noConfusion h
theorem linCommit (w : By) (p : Fin 16) (v : Word) : Statement (.linCommit w p v) := fun _ => rfl
theorem mapSwap (w : By) (p : Fin 16) (v : Word) : Statement (.mapSwap w p v) := fun _ => rfl
theorem mixCommit (w : By) (p : Fin 16) (v : Word) : Statement (.mixCommit w p v) := fun _ => rfl
theorem curveCommit (w : By) (p : Fin 16) (v : Word) : Statement (.curveCommit w p v) := fun _ => rfl
theorem curveLoad (w : By) (p : Fin 16) (v : Word) : Statement (.curveLoad w p v) := fun _ => rfl
theorem tallyCommit (w : By) (p : Fin 16) (v : Word) : Statement (.tallyCommit w p v) := fun _ => rfl
theorem reorderReadback (p : Fin 16) : Statement (.reorderReadback p) := fun h => Bool.noConfusion h
theorem streamFill (p : Fin 16) (region : Fin 5) (word : Nat) (bad : Bool) : Statement (.streamFill p region word bad) := fun h => Bool.noConfusion h
theorem streamWordTimeout (p : Fin 16) (region : Fin 5) (word : Nat) : Statement (.streamWordTimeout p region word) := fun h => Bool.noConfusion h
theorem stage8FrameEnd (p : Fin 16) : Statement (.stage8FrameEnd p) := fun h => Bool.noConfusion h
theorem statRecordCommit (p : Fin 16) : Statement (.statRecordCommit p) := fun h => Bool.noConfusion h
theorem eventRowOffer (p : Fin 16) : Statement (.eventRowOffer p) := fun h => Bool.noConfusion h
theorem batchTimeout (p : Fin 16) : Statement (.batchTimeout p) := fun h => Bool.noConfusion h
theorem denseApply (p : Fin 16) : Statement (.denseApply p) := fun h => Bool.noConfusion h
theorem imageReadoutDone (p : Fin 16) : Statement (.imageReadoutDone p) := fun h => Bool.noConfusion h
theorem specClear (w : By) (p : Fin 16) (v : Word) : Statement (.specClear w p v) := fun _ => rfl
theorem encEdge (n : Fin 16) (a : Bool) (b : Bool) : Statement (.encEdge n a b) := fun h => Bool.noConfusion h
theorem heldHitPublish (n : Fin 16) : Statement (.heldHitPublish n) := fun h => Bool.noConfusion h
theorem encIndex (n : Fin 16) (level : Bool) : Statement (.encIndex n level) := fun h => Bool.noConfusion h
theorem analogSample (n : Fin 16) (sn : Int) (cs : Int) : Statement (.analogSample n sn cs) := fun h => Bool.noConfusion h
theorem encStandstill (n : Fin 16) : Statement (.encStandstill n) := fun h => Bool.noConfusion h
theorem countLoad (w : By) (n : Fin 16) (v : BitVec 48) : Statement (.countLoad w n v) := fun _ => rfl
theorem encEnable (w : By) (n : Fin 16) (v : Word) : Statement (.encEnable w n v) := fun _ => rfl
theorem encDisable (w : By) (n : Fin 16) (v : Word) : Statement (.encDisable w n v) := fun _ => rfl
theorem idxArm (w : By) (n : Fin 16) (v : Word) : Statement (.idxArm w n v) := fun _ => rfl
theorem cmpArm (w : By) (n : Fin 16) (v : Word) : Statement (.cmpArm w n v) := fun _ => rfl
theorem cmpDisarm (w : By) (n : Fin 16) (v : Word) : Statement (.cmpDisarm w n v) := fun _ => rfl
theorem targetWrite (w : By) (n : Fin 16) (v : BitVec 48) : Statement (.targetWrite w n v) := fun _ => rfl
theorem listWrite (w : By) (n : Fin 16) (bytes : List Byte) : Statement (.listWrite w n bytes) := fun _ => rfl
theorem lineClockEdge (line : Fin 16) : Statement (.lineClockEdge line) := fun h => Bool.noConfusion h
theorem mainsEdge : Statement (.mainsEdge) := fun h => Bool.noConfusion h
theorem mainsLoss : Statement (.mainsLoss) := fun h => Bool.noConfusion h
theorem tbctlWrite (w : By) (v : Word) : Statement (.tbctlWrite w v) := fun _ => rfl
theorem lateCueFire (i : Fin 16) : Statement (.lateCueFire i) := fun h => Bool.noConfusion h
theorem seqRun (w : By) (i : Fin 16) (v : Word) : Statement (.seqRun w i v) := fun _ => rfl
theorem seqStop (w : By) (i : Fin 16) (v : Word) : Statement (.seqStop w i v) := fun _ => rfl
theorem cueWrite (w : By) (k : Fin 4096) (hi : Bool) (v : BitVec 64) : Statement (.cueWrite w k hi v) := fun _ => rfl
theorem trigPulseStart (n : Fin 32) : Statement (.trigPulseStart n) := fun h => Bool.noConfusion h
theorem trigPulseEnd (n : Fin 32) : Statement (.trigPulseEnd n) := fun h => Bool.noConfusion h
theorem histSample : Statement (.histSample) := fun h => Bool.noConfusion h
theorem histDivWrite (w : By) (v : Word) : Statement (.histDivWrite w v) := fun _ => rfl
theorem ptpSecond : Statement (.ptpSecond) := fun h => Bool.noConfusion h
theorem ringWord (word : BitVec 16) (clap : Bool) (at64 : Nat) : Statement (.ringWord word clap at64) := fun h => Bool.noConfusion h
theorem ringApply : Statement (.ringApply) := fun h => Bool.noConfusion h
theorem ringFrame : Statement (.ringFrame) := fun h => Bool.noConfusion h
theorem arrayCal (w : By) (v : Word) : Statement (.arrayCal w v) := fun _ => rfl
theorem calMeasureDone : Statement (.calMeasureDone) := fun h => Bool.noConfusion h
theorem calEnd (roundTrip : Nat) : Statement (.calEnd roundTrip) := fun h => Bool.noConfusion h
theorem driftCheck (roundTrip : Nat) : Statement (.driftCheck roundTrip) := fun h => Bool.noConfusion h
theorem routerPublish (c : Fin 128) : Statement (.routerPublish c) := fun h => Bool.noConfusion h
theorem swPublish (w : By) (v : Word) : Statement (.swPublish w v) := fun _ => rfl
theorem herdEnWrite (w : By) (v : Word) : Statement (.herdEnWrite w v) := fun _ => rfl
theorem seqStartTask (i : Fin 16) : Statement (.seqStartTask i) := fun h => Bool.noConfusion h
theorem seqStopTask (i : Fin 16) : Statement (.seqStopTask i) := fun h => Bool.noConfusion h
theorem cmpArmTask (n : Fin 16) : Statement (.cmpArmTask n) := fun h => Bool.noConfusion h
theorem cmpDisarmTask (n : Fin 16) : Statement (.cmpDisarmTask n) := fun h => Bool.noConfusion h
theorem idxArmTask (n : Fin 16) : Statement (.idxArmTask n) := fun h => Bool.noConfusion h
theorem takeStartTask (i : Fin 18) : Statement (.takeStartTask i) := fun h => Bool.noConfusion h
theorem takeStopTask (i : Fin 18) : Statement (.takeStopTask i) := fun h => Bool.noConfusion h
theorem axisStartTask (a : Fin 8) : Statement (.axisStartTask a) := fun h => Bool.noConfusion h
theorem axisStopTask (a : Fin 8) : Statement (.axisStopTask a) := fun h => Bool.noConfusion h
theorem axisIstopTask (a : Fin 8) : Statement (.axisIstopTask a) := fun h => Bool.noConfusion h
theorem dmaWake (c : Fin 512) : Statement (.dmaWake c) := fun h => Bool.noConfusion h
theorem trigPulseTask (n : Fin 32) : Statement (.trigPulseTask n) := fun h => Bool.noConfusion h
theorem counterIncrement (k : Fin 32) : Statement (.counterIncrement k) := fun h => Bool.noConfusion h
theorem counterClear (k : Fin 32) : Statement (.counterClear k) := fun h => Bool.noConfusion h
theorem herdEnable (k : Fin 16) : Statement (.herdEnable k) := fun h => Bool.noConfusion h
theorem herdDisable (k : Fin 16) : Statement (.herdDisable k) := fun h => Bool.noConfusion h
theorem producerWrite (r : Fin 32) : Statement (.producerWrite r) := fun h => Bool.noConfusion h
theorem creditGrant : Statement (.creditGrant) := fun h => Bool.noConfusion h
theorem setMark (r : Fin 32) : Statement (.setMark r) := fun h => Bool.noConfusion h
theorem rewindToMark (r : Fin 32) : Statement (.rewindToMark r) := fun h => Bool.noConfusion h
theorem packetRewind (r : Fin 32) : Statement (.packetRewind r) := fun h => Bool.noConfusion h
theorem returnWalk : Statement (.returnWalk) := fun h => Bool.noConfusion h
theorem packetCommit (r : Fin 32) : Statement (.packetCommit r) := fun h => Bool.noConfusion h
theorem stallAckTimeout (r : Fin 32) : Statement (.stallAckTimeout r) := fun h => Bool.noConfusion h
theorem xoffMinEnd (n : Fin 16) : Statement (.xoffMinEnd n) := fun h => Bool.noConfusion h
theorem xoffEnable (w : By) (n : Fin 16) (v : Word) : Statement (.xoffEnable w n v) := fun _ => rfl
theorem xoffDisable (w : By) (n : Fin 16) (v : Word) : Statement (.xoffDisable w n v) := fun _ => rfl
theorem cellSelect (w : By) (v : Word) : Statement (.cellSelect w v) := fun _ => rfl
theorem cellSnapshot (w : By) : Statement (.cellSnapshot w) := fun h => Bool.noConfusion h
theorem qpop (w : By) (q : Fin 512) (v : Word) : Statement (.qpop w q v) := fun _ => rfl
theorem patrolScrub (flaw : CellFlaw) : Statement (.patrolScrub flaw) := fun h => Bool.noConfusion h
theorem dmaEnd (c : Fin 512) : Statement (.dmaEnd c) := fun h => Bool.noConfusion h
theorem dmaMove (c : Fin 512) : Statement (.dmaMove c) := fun h => Bool.noConfusion h
theorem dmaMovex (c : Fin 512) : Statement (.dmaMovex c) := fun h => Bool.noConfusion h
theorem dmaFill (c : Fin 512) : Statement (.dmaFill c) := fun h => Bool.noConfusion h
theorem dmaCmp (c : Fin 512) : Statement (.dmaCmp c) := fun h => Bool.noConfusion h
theorem dmaLoop (c : Fin 512) : Statement (.dmaLoop c) := fun h => Bool.noConfusion h
theorem dmaJump (c : Fin 512) : Statement (.dmaJump c) := fun h => Bool.noConfusion h
theorem dmaWait (c : Fin 512) : Statement (.dmaWait c) := fun h => Bool.noConfusion h
theorem dmaSignal (c : Fin 512) : Statement (.dmaSignal c) := fun h => Bool.noConfusion h
theorem dmaFence (c : Fin 512) : Statement (.dmaFence c) := fun h => Bool.noConfusion h
theorem dmaIllegalOp (c : Fin 512) : Statement (.dmaIllegalOp c) := fun h => Bool.noConfusion h
theorem waitSatisfied (c : Fin 512) : Statement (.waitSatisfied c) := fun h => Bool.noConfusion h
theorem waitTimeout (c : Fin 512) : Statement (.waitTimeout c) := fun h => Bool.noConfusion h
theorem readResponse (c : Fin 512) (id : Nat) (r : Resp) : Statement (.readResponse c id r) := fun h => Bool.noConfusion h
theorem requestTimeout (c : Fin 512) (id : Nat) : Statement (.requestTimeout c id) := fun h => Bool.noConfusion h
theorem fetchReturn (c : Fin 512) (words : Option (List (BitVec 64))) : Statement (.fetchReturn c words) := fun h => Bool.noConfusion h
theorem dmaEnable (w : By) (c : Fin 512) (v : Word) : Statement (.dmaEnable w c v) := fun _ => rfl
theorem dmaDisable (w : By) (c : Fin 512) (v : Word) : Statement (.dmaDisable w c v) := fun _ => rfl
theorem dmaDrained (c : Fin 512) : Statement (.dmaDrained c) := fun h => Bool.noConfusion h
theorem dmaAbort (w : By) (c : Fin 512) (v : Word) : Statement (.dmaAbort w c v) := fun _ => rfl
theorem dmaResume (w : By) (c : Fin 512) (v : Word) : Statement (.dmaResume w c v) := fun _ => rfl
theorem dbClear (w : By) (c : Fin 512) (v : Word) : Statement (.dbClear w c v) := fun _ => rfl
theorem doorbellWrite (w : By) (c : Fin 512) (v : Word) : Statement (.doorbellWrite w c v) := fun _ => rfl
theorem intmaskWrite (w : By) (c : Fin 512) (v : Word) : Statement (.intmaskWrite w c v) := fun _ => rfl
theorem psDataWrite (w : By) (bytes : List Byte) : Statement (.psDataWrite w bytes) := fun _ => rfl
theorem perstAssert (l : Fin 4) : Statement (.perstAssert l) := fun h => Bool.noConfusion h
theorem perstRelease (l : Fin 4) : Statement (.perstRelease l) := fun h => Bool.noConfusion h
theorem linkUp (l : Fin 4) (speed : Fin 8) (width : Fin 32) (flit : Bool) : Statement (.linkUp l speed width flit) := fun h => Bool.noConfusion h
theorem linkDown (l : Fin 4) : Statement (.linkDown l) := fun h => Bool.noConfusion h
theorem flr (l : Fin 4) (f : Fin 17) : Statement (.flr l f) := fun h => Bool.noConfusion h
theorem vfRemoval (l : Fin 4) (num : Nat) : Statement (.vfRemoval l num) := fun h => Bool.noConfusion h
theorem pairfnWrite (w : By) (c : Fin 512) (v : Word) : Statement (.pairfnWrite w c v) := fun _ => rfl
theorem barUnmappedAccess (l : Fin 4) (f : Fin 17) (ofs : Nat) (wr : Bool) : Statement (.barUnmappedAccess l f ofs wr) := fun h => Bool.noConfusion h
theorem bar4Write (l : Fin 4) (addr : Nat) (bytes : List Byte) : Statement (.bar4Write l addr bytes) := fun h => Bool.noConfusion h
theorem viewRead (l : Fin 4) (f : Fin 17) (ofs : Nat) (len : Nat) : Statement (.viewRead l f ofs len) := fun h => Bool.noConfusion h
theorem viewWrite (l : Fin 4) (f : Fin 17) (ofs : Nat) (bytes : List Byte) : Statement (.viewWrite l f ofs bytes) := fun h => Bool.noConfusion h
theorem viewReadTimeout (l : Fin 4) (f : Fin 17) (ofs : Nat) : Statement (.viewReadTimeout l f ofs) := fun h => Bool.noConfusion h
theorem msixUnmask (l : Fin 4) (f : Fin 17) (entry : Nat) : Statement (.msixUnmask l f entry) := fun h => Bool.noConfusion h
theorem ddrRefresh : Statement (.ddrRefresh) := fun h => Bool.noConfusion h
theorem ddrScrub (c : Fin 12) (flaw : CellFlaw) : Statement (.ddrScrub c flaw) := fun h => Bool.noConfusion h
theorem caParityError (c : Fin 12) (good : Bool) : Statement (.caParityError c good) := fun h => Bool.noConfusion h
theorem mapAreaWrite (w : By) (v : Word) : Statement (.mapAreaWrite w v) := fun _ => rfl
theorem axisStart (w : By) (a : Fin 8) (v : Word) : Statement (.axisStart w a v) := fun _ => rfl
theorem axisStop (w : By) (a : Fin 8) (v : Word) : Statement (.axisStop w a v) := fun _ => rfl
theorem axisIstop (w : By) (a : Fin 8) (v : Word) : Statement (.axisIstop w a v) := fun _ => rfl
theorem stepPulse (a : Fin 8) : Statement (.stepPulse a) := fun h => Bool.noConfusion h
theorem settleEnd (a : Fin 8) : Statement (.settleEnd a) := fun h => Bool.noConfusion h
theorem restDelayEnd (a : Fin 8) : Statement (.restDelayEnd a) := fun h => Bool.noConfusion h
theorem limitInput (a : Fin 8) (rev : Bool) (level : Bool) : Statement (.limitInput a rev level) := fun h => Bool.noConfusion h
theorem homeInput (a : Fin 8) (level : Bool) : Statement (.homeInput a level) := fun h => Bool.noConfusion h
theorem tripClear (w : By) (a : Fin 8) (v : Word) : Statement (.tripClear w a v) := fun _ => rfl
theorem posWrite (w : By) (a : Fin 8) (v : Word) : Statement (.posWrite w a v) := fun _ => rfl
theorem waveTabWrite (w : By) (a : Fin 8) (bytes : List Byte) : Statement (.waveTabWrite w a bytes) := fun _ => rfl
theorem chopMaskEnd (a : Fin 8) (ph : Fin 2) (sense : Nat) : Statement (.chopMaskEnd a ph sense) := fun h => Bool.noConfusion h
theorem chopCeiling (a : Fin 8) (ph : Fin 2) : Statement (.chopCeiling a ph) := fun h => Bool.noConfusion h
theorem chopDecayEnd (a : Fin 8) (ph : Fin 2) : Statement (.chopDecayEnd a ph) := fun h => Bool.noConfusion h
theorem ldpOpen (src : LdpFrom) (msg : List Byte) : Statement (.ldpOpen src msg) := fun h => Bool.noConfusion h
theorem ldpClose (src : LdpFrom) (msg : List Byte) : Statement (.ldpClose src msg) := fun h => Bool.noConfusion h
theorem ldpKeepalive (src : LdpFrom) (msg : List Byte) : Statement (.ldpKeepalive src msg) := fun h => Bool.noConfusion h
theorem ldpRead (src : LdpFrom) (msg : List Byte) : Statement (.ldpRead src msg) := fun h => Bool.noConfusion h
theorem ldpWrite (src : LdpFrom) (msg : List Byte) : Statement (.ldpWrite src msg) := fun h => Bool.noConfusion h
theorem ldpReadBlob (src : LdpFrom) (msg : List Byte) : Statement (.ldpReadBlob src msg) := fun h => Bool.noConfusion h
theorem ldpWriteBlob (src : LdpFrom) (msg : List Byte) : Statement (.ldpWriteBlob src msg) := fun h => Bool.noConfusion h
theorem ldpDescribe (src : LdpFrom) (msg : List Byte) : Statement (.ldpDescribe src msg) := fun h => Bool.noConfusion h
theorem ldpJnlRead (src : LdpFrom) (msg : List Byte) : Statement (.ldpJnlRead src msg) := fun h => Bool.noConfusion h
theorem ldpUnknownOp (src : LdpFrom) (msg : List Byte) : Statement (.ldpUnknownOp src msg) := fun h => Bool.noConfusion h
theorem ldpMalformed (src : LdpFrom) (msg : List Byte) : Statement (.ldpMalformed src msg) := fun h => Bool.noConfusion h
theorem sessionIdleTimeout (id : BitVec 16) : Statement (.sessionIdleTimeout id) := fun h => Bool.noConfusion h
theorem mbDoorbell (l : Fin 4) (len : Word) : Statement (.mbDoorbell l len) := fun h => Bool.noConfusion h
theorem mbAck (l : Fin 4) : Statement (.mbAck l) := fun h => Bool.noConfusion h
theorem jnlSelWrite (w : By) (v : BitVec 64) : Statement (.jnlSelWrite w v) := fun _ => rfl
theorem mgtLinkChange (m : Fin 2) (present : Bool) (los : Bool) (up : Bool) : Statement (.mgtLinkChange m present los up) := fun h => Bool.noConfusion h
theorem dhcpTimeout (m : Fin 2) : Statement (.dhcpTimeout m) := fun h => Bool.noConfusion h
theorem ptpMessage (m : Fin 2) (x : PtpMsg) : Statement (.ptpMessage m x) := fun h => Bool.noConfusion h
theorem rootBurn (w : By) (n : Fin 4) (bytes : List Byte) : Statement (.rootBurn w n bytes) := fun _ => rfl
theorem rootRevoke (w : By) (v : Word) : Statement (.rootRevoke w v) := fun _ => rfl
theorem rootPubkeyWrite (w : By) (n : Fin 4) (bytes : List Byte) : Statement (.rootPubkeyWrite w n bytes) := fun _ => rfl
theorem svnCommit (w : By) (v : Word) : Statement (.svnCommit w v) := fun _ => rfl
theorem updOpen (w : By) (v : Word) : Statement (.updOpen w v) := fun _ => rfl
theorem updData (w : By) (bytes : List Byte) : Statement (.updData w bytes) := fun _ => rfl
theorem updVerify (w : By) (v : Word) : Statement (.updVerify w v) := fun _ => rfl
theorem updRetire (w : By) (v : Word) : Statement (.updRetire w v) := fun _ => rfl
theorem updReinstate (w : By) (v : Word) : Statement (.updReinstate w v) := fun _ => rfl
theorem updVerifyDone : Statement (.updVerifyDone) := fun h => Bool.noConfusion h
theorem identityKeyReady : Statement (.identityKeyReady) := fun h => Bool.noConfusion h
theorem attReq (w : By) (bytes : List Byte) : Statement (.attReq w bytes) := fun _ => rfl
theorem attReportSigned : Statement (.attReportSigned) := fun h => Bool.noConfusion h
theorem dbgToken (w : By) (bytes : List Byte) : Statement (.dbgToken w bytes) := fun _ => rfl
theorem jtagDbgUnlock (bytes : List Byte) : Statement (.jtagDbgUnlock bytes) := fun h => Bool.noConfusion h
theorem jtagDbgReset : Statement (.jtagDbgReset) := fun h => Bool.noConfusion h
theorem jtagDbgStatus : Statement (.jtagDbgStatus) := fun h => Bool.noConfusion h
theorem jtagIdcode : Statement (.jtagIdcode) := fun h => Bool.noConfusion h
theorem jtagSamplePreload (load : Option Nat) (pins : Nat) : Statement (.jtagSamplePreload load pins) := fun h => Bool.noConfusion h
theorem jtagExtest : Statement (.jtagExtest) := fun h => Bool.noConfusion h
theorem jtagClamp : Statement (.jtagClamp) := fun h => Bool.noConfusion h
theorem jtagProcDebug (code : BitVec 8) : Statement (.jtagProcDebug code) := fun h => Bool.noConfusion h
theorem jtagBypass : Statement (.jtagBypass) := fun h => Bool.noConfusion h
theorem faultRecordMove : Statement (.faultRecordMove) := fun h => Bool.noConfusion h
theorem registerWrite (w : By) (index : BitVec 16) (sub : BitVec 8) (x : Val) : Statement (.registerWrite w index sub x) := fun _ => rfl
theorem pcamSample (n : Fin 2) (lsync : Bool) (dval : Bool) (data : Nat) : Statement (.pcamSample n lsync dval data) := fun h => Bool.noConfusion h
theorem prbsCheckerLock (n : Fin 64) : Statement (.prbsCheckerLock n) := fun h => Bool.noConfusion h
theorem prbsCheckerLoss (n : Fin 64) : Statement (.prbsCheckerLoss n) := fun h => Bool.noConfusion h
theorem regularAlignmentSend (q : Fin 4) : Statement (.regularAlignmentSend q) := fun h => Bool.noConfusion h
theorem ptpTimeAdvance : Statement (.ptpTimeAdvance) := fun h => Bool.noConfusion h
theorem mainsPhaseStep : Statement (.mainsPhaseStep) := fun h => Bool.noConfusion h
theorem ppsInEdge (at64 : Nat) : Statement (.ppsInEdge at64) := fun h => Bool.noConfusion h
theorem fastDecayEnd (a : Fin 8) (ph : Fin 2) : Statement (.fastDecayEnd a ph) := fun h => Bool.noConfusion h
theorem configSpaceWrite (l : Fin 4) (f : Fin 17) (x : CfgWrite) : Statement (.configSpaceWrite l f x) := fun h => Bool.noConfusion h
theorem bar0WindowWrite (l : Fin 4) (ofs : Nat) (bytes : List Byte) : Statement (.bar0WindowWrite l ofs bytes) := fun h => Bool.noConfusion h
theorem dhcpLease (m : Fin 2) (addr : Word) (mask : Word) (gw : Word) : Statement (.dhcpLease m addr mask gw) := fun h => Bool.noConfusion h
theorem rstoutRelease : Statement (.rstoutRelease) := fun h => Bool.noConfusion h

end Sys2Proof.Laws.EveryRegisterValueIsAnOperand
end

