-- ==== Sys2Proof/Machine/PinStates.lean ====
section
/-! DEFINITION. What the balls whose state follows from the rest of the device show: lanes, PCIe, DDR5, JTAG and the inputs
(R51, R53). The outputs with a state of their own are in State.pins. -/

namespace Sys2Proof.Machine

open Sys2Proof

/-- A serial transmitter at its balls. -/
inductive SerialOut where
  | hiZ | electricalIdle | driven
deriving DecidableEq, Repr

/-- The weak pull, or bias, of an input. -/
inductive InputBias where
  | pullUp | pullDown | failsafe
deriving DecidableEq, Repr

/-- The input groups of R53. -/
inductive InputGroup where
  | encoder | pcam | limitsAndHome | tmsTdi | trstTck
deriving DecidableEq, Repr

/-- The single-ended levels of a DDR5 channel while its controller does not run: DRST_N, CS_N, CK_P, CK_N, CA, DQ and DQS. -/
structure DdrLevels where
  drstN : Drive
  csN : Drive
  ckP : Drive
  ckN : Drive
  ca : Drive
  dq : Drive
deriving DecidableEq, Repr

/-- KTX of a lane: high impedance before the fuse pin map is sensed, electrical idle in reset, disabled, idle or looped, else driven (R53,
R142, R150, R163). -/
def ktx (s : State) (n : Fin 64) : SerialOut :=
  if bankPhase s .vddhKln ≠ .cold then .hiZ
  else if inReset (.lane n) s || s.lanes[n].txIdle || fld s.lanes[n].ctl 30 29 == 1 then .electricalIdle
  else .driven

/-- The 85 ohm termination of KRX is on (R53, R163). -/
def krxTerminated (s : State) (_n : Fin 64) : Bool := bankPhase s .vddhKln == .cold

/-- PCIe transmitters of a link: electrical idle until boot releases the port and the link trains (R53, R119). -/
def pcieTx (s : State) (l : Fin 4) : SerialOut :=
  if bankPhase s .vddhPcie ≠ .cold then .hiZ
  else if inReset (.link l) s || ! (s.host.links[l].training || s.host.links[l].up) then .electricalIdle
  else .driven

/-- PCIe receiver termination of a link: off in reset (R53). -/
def pcieRxTerminated (s : State) (l : Fin 4) : Bool := bankPhase s .vddhPcie == .cold && ! inReset (.link l) s

/-- PCIEn_WAKE_N and PCIEn_CLKREQ_N: the manual has nothing that drives them low (R53). -/
def pcieSideband (_s : State) : Drive := .hiZ

/-- The pins of a DDR5 channel in a level-0 reset and before; none while the controller has them (R53). -/
def ddrPins (s : State) : Option DdrLevels :=
  if bankPhase s .vddqDdr ≠ .cold then
    some ⟨if bankPhase s .vddqDdr = .preFuse then .weakLow else .hiZ, .hiZ, .hiZ, .hiZ, .hiZ, .hiZ⟩
  else if s.rst.level = some 0 then some ⟨.low, .high, .low, .hiZ, .low, .hiZ⟩
  else none

/-- TDO between shifts (R53). -/
def tdoRest (_s : State) : Drive := .hiZ

/-- The 120 ohm terminations of a digital encoder channel's A, B and I inputs: off until the channel is configured, and in reset (R53, R339). -/
def encTerminated (s : State) (n : Fin 16) : Bool × Bool × Bool :=
  let on := bankPhase s .vddIo33 == .cold && ! inReset (.enc n) s
  let w := s.encs[n].ctl
  (on && bitAt w 25, on && bitAt w 24, on && bitAt w 23)

/-- The bias of an input group, the same in every state of R53. -/
def inputBias : InputGroup → InputBias
  | .encoder => .failsafe | .pcam => .pullDown | .limitsAndHome => .pullUp | .tmsTdi => .pullUp | .trstTck => .pullDown

end Sys2Proof.Machine
end

