-- ==== Sys2Proof/Tests/Slice0.lean ====
section
/-! SUPPORT. Tests: ill-formed operands are refused, a state for each statement's hypotheses, and the manual's worked examples. -/

open Sys2Proof Sys2Proof.Machine Sys2Proof.Safety

namespace Sys2Proof.Tests

set_option Elab.async false

/-! ### States that the witnesses start from -/

/-- The device in operation: no reset, every clock good, firmware running. -/
def live : State :=
  { State.reset with rst := { State.reset.rst with level := none, held := [] }, clk := { State.reset.clk with good := Vector.replicate 23 true }
                     boot := { State.reset.boot with phase := 3, hostReady := true } }

/-- The device in operation with every field of the reset map at level 0. -/
def liveMap0 : State := { live with rst := { live.rst with rstmap := 0 } }

/-- Firmware itself, with every privilege. -/
def fw : By := ⟨.firmware, 3⟩

/-- An LDP session with every privilege. -/
def ldp : By := ⟨.ldp 0 1, 3⟩

/-! ### Ill-formed operands are refused -/

theorem test_wf_codeword : (Instr.codewordReceived 0 (List.replicate 1359 3)).wf = false ∧ (Instr.codewordReceived 0 (List.replicate 1360 3)).wf = true := by
  decide +kernel
theorem test_wf_alignment :
    (Instr.alignmentCodeword 0 (List.replicate 1361 0) true).wf = false ∧ (Instr.alignmentCodeword 0 (List.replicate 1360 0) false).wf = true := by
  decide +kernel
theorem test_wf_training :
    (Instr.trainingFrame 0 [] true 0).wf = false ∧ (Instr.trainingFrame 0 (List.replicate 1360 0) true 256).wf = false
    ∧ (Instr.trainingFrame 0 (List.replicate 1360 0) true 255).wf = true := by decide +kernel
theorem test_wf_bootOffer : (Instr.bootOffer 0 1 0).wf = false ∧ (Instr.bootOffer 0 1 4194305).wf = false ∧ (Instr.bootOffer 0 1 4194304).wf = true := by
  decide
theorem test_wf_bootData : (Instr.bootData 0 1 0 (List.replicate 1433 0)).wf = false := by decide +kernel
theorem test_wf_analog : (Instr.analogSample 0 8192 0).wf = false ∧ (Instr.analogSample 0 0 (-8193)).wf = false ∧ (Instr.analogSample 0 8191 (-8192)).wf = true := by
  decide
theorem test_wf_chop : (Instr.chopMaskEnd 0 0 1024).wf = false ∧ (Instr.chopMaskEnd 0 0 1023).wf = true := by decide
theorem test_wf_pcam : (Instr.pcamSample 0 true true 4294967296).wf = false := by decide
theorem test_wf_viewRead : (Instr.viewRead 0 0 0 3).wf = false ∧ (Instr.viewRead 0 0 0 8).wf = true := by decide
theorem test_wf_viewWrite : (Instr.viewWrite 0 0 0 [1, 2]).wf = false ∧ (Instr.viewWrite 0 0 0 [1, 2, 3, 4]).wf = true := by decide

/-- A DIMM channel that trained: one 16 GiB module. -/
def trainedChannel : DdrReport := { ch := 3, kind := 1, dimms := 1, ranks := 1, gib := 16, rates := [8800], serials := [1], good := true }

theorem test_wf_ddr : (Instr.ddrTraining [trainedChannel, trainedChannel]).wf = false ∧ (Instr.ddrTraining [trainedChannel]).wf = true := by decide

/-! ### Witnesses: states that meet the hypotheses of each statement -/

theorem witness_StepRunsTheFrontCommand : ({ live with pending := [.por] } : State).pending = .por :: [] := rfl

/-- A request of firmware waits. -/
def liveWaiting : State := { live with svc := [.viewRead 0 0 0x00600000 4] }

theorem witness_EmptyQueuePassesOneClock :
    (live.pending = [] ∧ live.svc = [] ∧ (∀ q : Fin 4, live.quads[q].codewords (live.coreTime + 1) = live.quads[q].codewords live.coreTime)
      ∧ ∀ h : Fin 16, live.heads[h].input = [])
    ∧ (State.reset.pending = [] ∧ firmwareRuns State.reset = false)
    ∧ (liveWaiting.pending = [] ∧ firmwareRuns liveWaiting = true ∧ liveWaiting.svc ≠ []) := by decide +kernel

theorem witness_PowerOnAndRails :
    live.rst.level ≠ some 0 ∧ Rail.vddCore ∉ ({ live.pins with railsGood := [] } : Pins).railsGood ∧ Rail.vddIo18.least ≤ 10 * 1800
    ∧ 10 * 100 < Rail.vddIo18.least ∧ live.pins.railsGood = Rail.all ∧ Rail.vddIo18.watched = true ∧ Rail.vddSpd.watched = false := by decide +kernel

/-- A reset of level n in force. -/
def inLevel (n : Fin 4) : State := { live with rst := { live.rst with level := some n } }

theorem witness_ResetSourcesActAtTheirLevel :
    ((inLevel 0).rst.level = some 0 ∧ 0 ≤ wholeLevel (inLevel 0) 12) ∧ ((inLevel 1).rst.level = some 1 ∧ 1 ≤ wholeLevel (inLevel 1) 10)
    ∧ (live.rst.level = none ∧ wholeLevel live 12 = 0) ∧ (liveMap0.rst.level = none ∧ wholeLevel liveMap0 10 = 0 ∧ mappedLevel liveMap0 8 = 0)
    ∧ fld (0xA5000000#32) 23 22 = 0 ∧ live.rst.delayed = [] ∧ firmwareRuns live = true ∧ firmwareRuns State.reset = false
    ∧ live.wdog.running = none ∧ live.rst.rstoutPending = false
    ∧ Rail.vddIo18 ∈ live.pins.railsGood ∧ inReset .control live = false ∧ live.boot.halted = false ∧ inReset .control State.reset = true := by decide +kernel

/-- The straps of a board that boots from MRAM. -/
def straps : Straps := ⟨0, 0, 0, 1800, 1800, true⟩

theorem witness_LevelZeroReleaseSteps :
    (State.reset.rst.level = some 0 ∧ stillHeld State.reset = false ∧ railsUp State.reset = true) ∧ straps.tst = 0 ∧ ({ straps with tst := 8 } : Straps).tst ≠ 0
    ∧ ({ State.reset with rst := { State.reset.rst with waitRefclk := true } } : State).rst.waitRefclk = true
    ∧ railsUp { State.reset with pins := { State.reset.pins with railsGood := [] } } = false ∧ live.rst.level ≠ some 0 := by decide +kernel

/-- A reset of level n whose sources have ended, with no clock good. -/
def releasing (n : Fin 4) (b : Option Blk) : State := { State.reset with rst := { State.reset.rst with level := some n, held := [], block := b } }

theorem witness_ReleasesEndTheirReset :
    (stillHeld (releasing 1 none) = false ∧ (releasing 1 none).rst.level = some 1)
    ∧ (stillHeld (releasing 2 none) = false ∧ (releasing 2 none).rst.level = some 2)
    ∧ inReset .control { inLevel 2 with rst := { (inLevel 2).rst with held := [] } } = false
    ∧ (stillHeld (releasing 3 (some .cue)) = false ∧ (releasing 3 (some .cue)).rst.level = some 3 ∧ (releasing 3 (some .cue)).rst.block = some .cue
        ∧ (releasing 3 (some .cue)).rst.isolated = [])
    ∧ ((releasing 3 (some .control)).rst.block = some .control ∧ (releasing 3 (some .control)).boot.hostDue = false)
    ∧ stillHeld { live with rst := { live.rst with held := [.thermal] } } = true := by decide +kernel

/-- Domain d has lost its clock. -/
def without (d : Fin 23) : State := { live with clk := { live.clk with good := live.clk.good.set d.1 false d.2 } }

theorem witness_ClockDomains :
    ((without 8).rst.level ≠ some 0 ∧ (without 8).clk.good[(8 : Fin 23)] = false) ∧ ((without 19).rst.level ≠ some 0 ∧ (without 19).clk.good[(19 : Fin 23)] = false)
    ∧ ((without 2).rst.level ≠ some 0 ∧ (without 2).clk.good[(2 : Fin 23)] = false) ∧ ((without 21).clk.good[(21 : Fin 23)] = false)
    ∧ (live.clk.good[(0 : Fin 23)] = true ∧ live.rst.level = none) ∧ live.clk.ringLost = false
    ∧ (∃ s : State, s = { live with pins := { live.pins with clkm := 3 }, clk := { live.clk with ringLost := true } } ∧ s.pins.clkm = 3 ∧ s.rst.level ≠ some 0
        ∧ s.clk.ringLost = true ∧ s.clk.good[(2 : Fin 23)] = true) :=
  ⟨by decide +kernel, by decide +kernel, by decide +kernel, by decide +kernel, by decide +kernel, by decide +kernel, _, rfl, by decide +kernel⟩

/-- Every sensor at 40 degrees. -/
def cool : Vector (BitVec 24) 16 := Vector.replicate 16 640

/-- One sensor at 160 degrees, the others at 155. -/
def tripping : Vector (BitVec 24) 16 := (Vector.replicate 16 2480).set 7 2560

/-- The device with the readings v. -/
def sensed (v : Vector (BitVec 24) 16) (s : State) : State := { s with thermal := { s.thermal with sens := v } }

theorem witness_ThermalSensorsAndTrip :
    (live.rst.level = none ∧ 8 ≤ (working (sensed cool live)).length ∧ (∀ i ∈ working (sensed cool live), sensorBad (sensed cool live) i = false ∧ tempOf cool[i] < 2560))
    ∧ (wholeLevel liveMap0 4 = 0 ∧ liveMap0.pins.thermtripN = .hiZ ∧ liveMap0.rst.held = [] ∧ liveMap0.rst.level = none
        ∧ liveMap0.mram.writesBarred = false ∧ 8 ≤ (working (sensed tripping liveMap0)).length ∧ (∀ i ∈ working (sensed tripping liveMap0), sensorBad (sensed tripping liveMap0) i = false)
        ∧ (∃ i ∈ working (sensed tripping liveMap0), 2560 ≤ tempOf tripping[i]))
    ∧ wholeLevel live 4 = 0
    ∧ (∃ s : State, s = { live with thermal := { live.thermal with sens := cool, failed := live.thermal.failed.set 3 true } }
        ∧ s.thermal.failed[(3 : Fin 16)] = true ∧ sensorBad s 3 = false ∧ s.thermal.failed[(4 : Fin 16)] = false)
    ∧ (∃ s : State, s = { sensed cool live with rst := { live.rst with held := [.thermal] } } ∧ s.rst.held.contains .thermal = true ∧ 8 ≤ (working s).length
        ∧ ∀ k ∈ working s, tempOf s.thermal.sens[k] < 2240) := by
  refine ⟨by decide +kernel, by decide +kernel, by decide +kernel, ⟨_, rfl, by decide +kernel⟩, ⟨_, rfl, by decide +kernel⟩⟩

/-- Booting over the network from server 9 on port 0, with one read of 1,024 bytes sent n times. -/
def netBoot (n : Nat) : State :=
  { live with boot := { live.boot with phase := 4, net := { server := some (9, 0, 1024), outstanding := [(0, 1024, n)] } } }

theorem witness_BootVerification :
    (∃ s : State, s = { live with boot := { live.boot with phase := 1, window := true } } ∧ s.boot.hostDue = false ∧ romRuns s = true ∧ s.boot.window = true
        ∧ s.boot.verifying = false)
    ∧ (∃ s : State, s = { live with boot := { live.boot with verifying := true, phase := 2 } } ∧ romRuns s = true ∧ s.boot.hostDue = false ∧ s.boot.verifying = true
        ∧ s.boot.fromRam = false ∧ s.boot.window = false ∧ s.boot.trySlot = 0 ∧ s.boot.phase ≠ 4 ∧ s.boot.source = 0 ∧ slotFail s 0 ≠ 0) :=
  ⟨⟨_, rfl, by decide +kernel⟩, ⟨_, rfl, by decide +kernel⟩⟩

theorem witness_BootSources :
    (netBooting (netBoot 8) = true ∧ (netBoot 8).boot.verifying = false
      ∧ (netBoot 8).boot.net.outstanding.find? (fun r => r.1 == 0) = some (0, 1024, 8)
      ∧ (netBoot 7).boot.net.server = some (9, 0, 1024)
      ∧ (netBoot 7).boot.net.outstanding.find? (fun r => r.1 == 0 && r.2.1 == 1024) = some (0, 1024, 7) ∧ (netBoot 7).boot.net.got + 1024 = 1024)
    ∧ (∃ s : State, s = { live with boot := { live.boot with phase := 4, net := { requested := true } } } ∧ netBooting s = true ∧ s.boot.verifying = false
        ∧ s.boot.net.server = none ∧ s.boot.net.requested = true ∧ inReset (.mgt 0) s = false)
    ∧ (∃ s : State, s = { live with boot := { live.boot with phase := 1, spiWait := .header } } ∧ s.boot.hostDue = false ∧ romRuns s = true
        ∧ s.boot.spiWait = .header ∧ s.boot.spiTries < 2)
    ∧ (∃ s : State, s = { live with boot := { live.boot with phase := 1, spiWait := .image } } ∧ romRuns s = true ∧ s.boot.spiWait = .image ∧ live.boot.spiWait = .none)
    ∧ 4096 + bodyLen [] ≤ 4096 :=
  ⟨by decide +kernel, ⟨_, rfl, by decide +kernel⟩, ⟨_, rfl, by decide +kernel⟩, ⟨_, rfl, by decide +kernel⟩, by decide +kernel⟩

/-- Management port m enabled with DHCP and PTP, its link up, waiting for a lease; the PTP clock ordinary, on that port. -/
def mgtUp (m : Fin 2) : State :=
  { live.updMgt m (fun g => { g with ctl := 0xFFFFFFFF#32, link := true, dhcpWait := true }) with ptp := { live.ptp with ctl := 0x60000000#32 } }

theorem witness_ManagementPortsAndPtp :
    (inReset (.mgt 1) live = false) ∧ (firmwareRuns (mgtUp 1) = true ∧ (mgtUp 1).mgt[(1 : Fin 2)].dhcpWait = true ∧ (mgtUp 1).mgt[(1 : Fin 2)].link = true
      ∧ inReset (.mgt 1) (mgtUp 1) = false ∧ bitAt (mgtUp 1).mgt[(1 : Fin 2)].ctl 30 = true)
    ∧ (ptpPort (mgtUp 1) 1 = true ∧ bitAt (mgtUp 1).ptp.ctl 29 = true) ∧ ptpPort (mgtUp 0) 0 = true ∧ inReset (.mgt 0) live = false := by decide +kernel

/-- A fault record. -/
def record (code : BitVec 16) : FaultRec := ⟨code, 0, 0, 0x02, 1, 0, 0, 0⟩

/-- The device with records posted and logged. -/
def faulty (q : List FaultRec) (l : List FaultEntry) : State := { live with faults := { live.faults with queue := q, log := l } }

theorem witness_FaultRecordsMoveInOrder :
    (firmwareRuns (faulty [record 1] []) = true ∧ (faulty [record 1] []).faults.queue = [record 1])
    ∧ (firmwareRuns (faulty [record 1] [⟨1, record 2, 1, 0⟩]) = true
        ∧ ¬ ((record 2).code = (record 1).code ∧ (record 2).cls = (record 1).cls ∧ (record 2).index = (record 1).index))
    ∧ (firmwareRuns (faulty [record 1] [⟨1, record 1, 1, 0⟩]) = true ∧ (faulty [record 1] [⟨1, record 1, 1, 0⟩]).coreTime < 0 + clkMs) := by
  decide +kernel

/-- The device with TRST_N high. -/
def tapped (f : Security → Security) : State := { liveMap0 with sec := f liveMap0.sec, pins := { liveMap0.pins with trstN := true } }

theorem witness_TestAccessPort :
    ((tapped id).pins.trstN = true ∧ (tapped id).sec.tapOpen = false ∧ (tapped id).sec.resetOk = false)
    ∧ (tapped fun x => { x with tapOpen := true }).sec.tapOpen = true
    ∧ (∃ s : State, s = tapped (fun x => { x with resetOk := true }) ∧ s.sec.resetOk = true ∧ s.rst.level = none ∧ mappedLevel s 0 = 0)
    ∧ live.pins.trstN = false
    ∧ (0x30 ≤ (0x30#8).toNat ∧ (0x3F#8).toNat ≤ 0x3F) ∧ ¬ (0x30 ≤ (0x40#8).toNat ∧ (0x40#8).toNat ≤ 0x3F) :=
  ⟨by decide +kernel, rfl, ⟨_, rfl, by decide +kernel⟩, rfl, by decide, by decide⟩

/-! ### Register writes -/

/-- A firmware-free device has room; a busy one has a request before it. -/
theorem witness_RegisterRowsWriteTheirObject :
    (registerRow (.encEnable fw 0 0) = some (fw, 0x7000, 1, .num 0x80000000) ∧ Accepted fw 0x7000 1 (.enc 0 .encctl) (.num 0x80000000) live
      ∧ (Obj.enc 0 .encctl).desc.acc ≠ .rwp)
    ∧ (registerRow (.registerWrite fw 0x2100#16 2#8 (.num 0x800)) = some (fw, 0x2100, 2, .num 0x800)
      ∧ ∃ o, Accepted fw 0x2100 2 o (.num 0x800) live ∧ o.desc.acc = .rwp)
    ∧ (registerRow (.softrst ldp 0xA5C80000#32) = some (ldp, 0x2000, 2, .num 0xA5C80000)
      ∧ Accepted ldp 0x2000 2 (.sys .softrst) (.num 0xA5C80000) live ∧ softWaits (Val.num 0xA5C80000).word = false) := by
  refine ⟨?_, ⟨by decide +kernel, (objAt 0x2100 2).get (by decide +kernel), ?_⟩, ?_⟩ <;> simp only [Accepted] <;> decide +kernel

/-- The journal's rate is spent. -/
def liveSpent : State := { live with acc := { live.acc with jnlTokens := 12499 } }

theorem witness_RefusedWrites :
    (fw.path = .firmware ∧ firmwareRuns live = true ∧ objAt 0x0FFF 0xFF = none ∧ live.vio.log = [])
    ∧ (∃ w : By, w = ⟨.firmware, 0⟩ ∧ objAt 0x7000 1 = some (.enc 0 .encctl) ∧ privRefused w (.enc 0 .encctl) (.num 0) live = true)
    ∧ (firmwareRuns liveSpent = true ∧ privRefused fw (.enc 0 .encctl) (.num 0) liveSpent = false ∧ journaled (.enc 0 .encctl) (.num 0) liveSpent = true
      ∧ jnlTokens liveSpent < 12500)
    ∧ (∃ s : State, s = { live with rst := { live.rst with isolated := [.enc 0] } } ∧ firmwareRuns s = true
        ∧ privRefused fw (.enc 0 .encctl) (.num 0) s = false ∧ 12500 ≤ jnlTokens s ∧ (Obj.enc 0 .encctl).held (spent (.enc 0 .encctl) (.num 0) s) = true)
    ∧ Accepted fw 0x7000 0x21 (.enc 0 .target) (.num 5) live := by
  refine ⟨by decide +kernel, ⟨_, rfl, by decide +kernel⟩, by decide +kernel, ⟨_, rfl, by decide +kernel⟩, ?_⟩
  unfold Accepted; decide +kernel

/-! ### Heads and parallel ports -/

/-- Head 0 on port 0, Ready, its source bound to pipeline 0, with a take armed. -/
def headed : State :=
  ((((live.updHead 0 fun h => { h with ctl := 0x80000000#32, state := .ready }).updPort 0 fun q => { q with state := .up, ver := 3 }).updPipe 0 fun p =>
    { p with source := 0x40#32 }).updSrc 0 fun k => { k with take := .armed })

/-- The same with no pipeline bound and no take. -/
def unboundHead : State := (headed.updPipe 0 fun p => { p with source := 0 }).updSrc 0 fun k => { k with take := .idle }

/-- The head bound with no take open. -/
def idleHead : State := headed.updSrc 0 fun k => { k with take := .idle }

/-- A frame is open on the port of the head. -/
def framing (s : State) : State :=
  s.updHead 0 fun h => { h with openAt := some 0, rx := h.rx.set 0 { h.rx[(0 : Fin 4)] with opened := some ⟨7, 0, false, false, 0, 0⟩ } }

/-- The start mark of a frame that no cue triggers. -/
def mark0 : StampMark := ⟨none, 0, 0, 0, false, none⟩

/-- Two ports serve the head. -/
def twoPorts : State := framing ((unboundHead.updHead 0 fun h => { h with ctl := 0x90010000#32 }).updPort 1 fun q => { q with state := .up, headPort := 1 })

theorem witness_TakesStartAndStop :
    Accepted fw (srcIndex 0) 7 (.src 0 .takectl) (.num 0x80000000) idleHead
    ∧ (headed.srcs[(0 : Fin 18)].take = .armed ∧ Accepted fw (srcIndex 0) 7 (.src 0 .takectl) (.num 0x40000000) headed)
    ∧ (∃ s : State, s = unboundHead.updSrc 17 (fun k => { k with take := .armed }) ∧ takeOpen s 17 = true ∧ frameOpen s 17 = false ∧ boundPipe s 17 = none
        ∧ Accepted fw (srcIndex 17) 7 (.src 17 .takectl) (.num 0x20000000) s) := by
  refine ⟨?_, ⟨by decide +kernel, ?_⟩, ⟨_, rfl, ?_⟩⟩ <;> unfold Accepted <;> decide +kernel

theorem witness_CameraCommands :
    Accepted fw (srcIndex 0) 0x18 (.src 0 .cmdctl) (.num 0x40000001) headed ∧ Accepted fw (srcIndex 0) 0x18 (.src 0 .cmdctl) (.num 0x20000001) headed
    ∧ Accepted fw (srcIndex 0) 0x18 (.src 0 .cmdctl) (.num 1) headed
    ∧ (headOf headed 0 = some 0 ∧ headed.ports[(0 : Fin 16)].running = true ∧ inReset (.head 0) headed = false ∧ headed.srcs[(headSrc 0)].cmdWait = none)
    ∧ (∃ s : State, s = headed.updSrc 0 (fun k => { k with cmdWait := some 0 }) ∧ headOf s 0 = some 0 ∧ s.srcs[(headSrc 0)].cmdWait = some 0) := by
  refine ⟨?_, ?_, ?_, by decide +kernel, ⟨_, rfl, by decide +kernel⟩⟩ <;> unfold Accepted <;> decide +kernel

theorem witness_FramesOpenAndFill :
    (headed.ports[(0 : Fin 16)].running = true ∧ headed.ports[(0 : Fin 16)].replay = none ∧ inReset (.port 0) headed = false)
    ∧ (headOf unboundHead 0 = some 0 ∧ unboundHead.heads[(0 : Fin 16)].state = .ready ∧ inReset (.head 0) unboundHead = false ∧ unboundHead.heads[(0 : Fin 16)].openAt = none
        ∧ unboundHead.heads[(0 : Fin 16)].group = [] ∧ unboundHead.heads[(0 : Fin 16)].gone = none ∧ wanted unboundHead (headSrc 0) = false ∧ unboundHead.srcs[(headSrc 0)].pendingSet = []
        ∧ boundPipe unboundHead (headSrc 0) = none)
    ∧ (∃ s : State, s = live.updPort 5 (fun q => { q with state := .up }) ∧ headOf s 5 = none ∧ s.ports[(5 : Fin 16)].running = true)
    ∧ (∃ s : State, s = headed.updSrc 0 (fun k => { k with take := .idle }) ∧ wanted s (headSrc 0) = false ∧ boundPipe s (headSrc 0) ≠ none)
    ∧ (boundPipe headed (headSrc 0) = some 0 ∧ wanted headed (headSrc 0) = true ∧ (startOf 0).expIndex.1 = headed.heads[(0 : Fin 16)].expNext
        ∧ startFails (takeEffect 0 headed) 0 (headSrc 0) = [])
    ∧ (streamHead (framing headed) 0 = some 0 ∧ (framing headed).heads[(0 : Fin 16)].skipping = false ∧ (framing headed).heads[(0 : Fin 16)].ignoring = false
        ∧ ((framing headed).heads[(0 : Fin 16)].rx[(0 : Fin 4)]).opened.isSome = true ∧ ((framing headed).heads[(0 : Fin 16)].rx[(0 : Fin 4)]).ended = none
        ∧ boundPipe (framing headed) (headSrc 0) = some 0 ∧ takesSamples (framing headed) 0 = true
        ∧ pausable (framing headed) 0 = true ∧ 0 < shareOf (shapeOf (framing headed) (headSrc 0)) (headPorts (framing headed) 0).length 0)
    ∧ (headed.heads[(0 : Fin 16)].rx[(0 : Fin 4)].opened = none ∧ headed.heads[(0 : Fin 16)].rx[(0 : Fin 4)].strayRun = false) :=
  ⟨by decide +kernel, by decide +kernel, ⟨_, rfl, by decide +kernel⟩, ⟨_, rfl, by decide +kernel⟩, by decide +kernel, by decide +kernel, by decide +kernel⟩

theorem witness_FramesEndOrAreDiscarded :
    (streamHead (framing unboundHead) 0 = some 0 ∧ boundPipe (framing unboundHead) (headSrc 0) = none ∧ (framing unboundHead).heads[(0 : Fin 16)].openAt.isSome = true
      ∧ (endOf 0).frame ≠ 7)
    ∧ (∃ f : FrameStart, f = ⟨7, 0, false, false, 0, 0⟩ ∧ (twoPorts.heads[(0 : Fin 16)].rx[(0 : Fin 4)]).opened = some f
        ∧ streamHead twoPorts 0 = some 0 ∧ (headPorts twoPorts 0).length = 2)
    ∧ (∃ (s : State) (x : BitVec 256), s = ((twoPorts.updSrc 0 fun k => { k with geomNow := 0x00000000#32 }).updHead 0 fun h =>
          { h with rx := h.rx.set 0 { h.rx[(0 : Fin 4)] with samples := [1] } })
        ∧ (endOf x).frame = 7 ∧ (endOf x).sensorErr = false ∧ (endOf x).samples.toNat = shareOf (shapeOf s (headSrc 0)) 2 0
        ∧ (s.heads[(0 : Fin 16)].rx[(0 : Fin 4)]).samples.length = shareOf (shapeOf s (headSrc 0)) 2 0 ∧ s.heads[(0 : Fin 16)].rx[(1 : Fin 4)].ended = none)
    ∧ (∃ (s : State) (x : BitVec 256), s = (((framing headed).updSrc 0 fun k => { k with geomNow := 0 }).updHead 0 fun h =>
          { h with mark := some mark0, rx := h.rx.set 0 { h.rx[(0 : Fin 4)] with samples := [1] } })
        ∧ streamHead s 0 = some 0 ∧ (headPorts s 0).length = 1 ∧ (endOf x).frame = 7 ∧ (endOf x).sensorErr = false
        ∧ (endOf x).samples.toNat = shareOf (shapeOf s (headSrc 0)) 1 0 ∧ (s.heads[(0 : Fin 16)].rx[(0 : Fin 4)]).samples.length = shareOf (shapeOf s (headSrc 0)) 1 0
        ∧ boundPipe s (headSrc 0) = some 0 ∧ s.heads[(0 : Fin 16)].mark.isSome = true
        ∧ (shapeOf s (headSrc 0)).exposures ≤ s.heads[(0 : Fin 16)].expNext + 1 ∧ s.heads[(0 : Fin 16)].openAt.isSome = true) :=
  ⟨by decide +kernel, ⟨_, rfl, by decide +kernel⟩, ⟨_, BitVec.ofNat 256 (7 * 2 ^ 8 + 2 ^ 64), rfl, by decide +kernel⟩,
    ⟨_, BitVec.ofNat 256 (7 * 2 ^ 8 + 2 ^ 64), rfl, by decide +kernel⟩⟩

/-- Parallel port n enabled. -/
def pcamOn (n : Fin 2) : State := live.updPcam n fun c => { c with ctl := c.ctl ||| 0x80000000#32 }

/-- A frame is open on it: one that no take wants, or one of an armed take bound to pipeline 14. -/
def pcamOpen (n : Fin 2) (ignored : Bool) : State :=
  (((pcamOn n).updPcam n fun c => { c with ctl := 0x80000008#32, opened := true, ignoring := ignored }).updPipe 14 fun p => { p with source := BitVec.ofNat 32 (0x80 + n.1) })

/-- Parallel port 0 enabled and bound to pipeline 14, with an armed take. -/
def pcamWaiting : State :=
  ((pcamOpen 0 false).updPcam 0 fun c => { c with opened := false }).updSrc 16 fun k => { k with take := .armed }

theorem witness_ParallelPortFrames :
    (inReset (.pcam 1) (pcamOn 1) = false ∧ bitAt (pcamOn 1).pcams[(1 : Fin 2)].ctl 31 = true ∧ (pcamOn 1).pcams[(1 : Fin 2)].opened = false
      ∧ wanted (pcamOn 1) (pcamSrc 1) = false ∧ boundPipe (pcamOn 1) (pcamSrc 1) = none)
    ∧ ((pcamOpen 0 true).pcams[(0 : Fin 2)].opened = true ∧ (pcamOpen 0 true).pcams[(0 : Fin 2)].ignoring = true ∧ (pcamOpen 0 true).srcs[(pcamSrc 0)].take = .idle)
    ∧ ((pcamOpen 0 false).pcams[(0 : Fin 2)].opened = true ∧ (pcamOpen 0 false).pcams[(0 : Fin 2)].ignoring = false
      ∧ (! bitAt (pcamOpen 0 false).pcams[(0 : Fin 2)].ctl 28) ≠ bitAt (pcamOpen 0 false).pcams[(0 : Fin 2)].ctl 28
      ∧ bitAt (pcamOpen 0 false).pcams[(0 : Fin 2)].ctl 26 = false ∧ boundPipe (pcamOpen 0 false) (pcamSrc 0) = some 14 ∧ takesSamples (pcamOpen 0 false) 14 = true)
    ∧ (wanted pcamWaiting (pcamSrc 0) = true ∧ boundPipe pcamWaiting (pcamSrc 0) = some 14 ∧ takesSamples pcamWaiting 14 = true
      ∧ startFails (takeEffect 14 pcamWaiting) 14 (pcamSrc 0) = [] ∧ takesSamples (pcamWaiting.updProducer 14 fun p => { p with waiting := true }) 14 = false)
    ∧ (∃ s : State, s = ((pcamOpen 0 false).updSrc 16 fun k => { k with geomNow := 0 }).updPcam 0 (fun c => { c with mark := some mark0, lines := [[1]] }) ∧ s.pcams[(0 : Fin 2)].mark = some mark0
        ∧ s.pcams[(0 : Fin 2)].lines.length = (shapeOf s (pcamSrc 0)).height ∧ (pcamOpen 0 false).pcams[(0 : Fin 2)].lines.length ≠ (shapeOf s (pcamSrc 0)).height) :=
  ⟨by decide +kernel, by decide +kernel, by decide +kernel, by decide +kernel, ⟨_, rfl, by decide +kernel⟩⟩

/-! ### Pipelines and queues -/

/-- Pipeline p streams region r from the stall store. -/
def streaming (p : Fin 16) (r : Fin 5) : State :=
  live.updPipe p fun k => { k with descActive := k.descActive.set r.1 (0xFFFFFFFFFFFFFFFF#64) r.2 }

theorem witness_StreamedWordsFillThePrefetch :
    (inReset (.pipe 15) (streaming 15 4) = false ∧ streams (streaming 15 4) 15 4 = true ∧ prefetched (streaming 15 4) 15 + 8 ≤ 524288)
    ∧ 524288 < prefetched ((streaming 15 4).updPipe 15 fun k => { k with prefetch := k.prefetch.set 4 65536 }) 15 + 8 ∧ streams live 15 4 = false := by decide +kernel

/-- A stamp. -/
def stamp : Stamps := ⟨0, 0, 0, 0, false⟩

/-- A frame of one sample at stage 8, packed as PACKCTL says, with rows of candidates. -/
def workOf (pack : Word) (rows : List (List Cand)) : Work :=
  { whole := true, opens := false, src := 0, frame := 7, take := 1, epoch := 0, stamps := stamp, skip := false, replayed := false, standby := false, layout4 := false, pack := pack, tset := {}
    width := 1, height := 1, out := 1, signed := false, samples := [⟨5, false⟩], rows := rows, settled := 0, kept := 0, written := 0, truncated := false, staged := [3], record := none }

/-- Pipeline 0 with the frame w in stage 8. -/
def stage8 (w : Work) : State := live.updPipe 0 fun k => { k with works := [w] }

/-- An open packet of one on-die cell with n bytes. -/
def openOf (n : Nat) : OpenPkt := ⟨[⟨5, List.replicate n 1, false⟩], n, none⟩

/-- The queue of producer 0 with an open packet of 80 bytes. -/
def opened : State := live.updQueue 0 fun q => { q with openPkt := some (openOf 80) }

theorem witness_PacketsAndRecordsLeaveStage8 :
    (inReset (.pipe 0) (stage8 (workOf 0 [])) = false ∧ (stage8 (workOf 0 [])).pipes[(0 : Fin 16)].works = [workOf 0 []] ∧ isTally (workOf 0 []).pack = false
      ∧ heldBack (stage8 (workOf 0 [])) 0 = false ∧ (stage8 (workOf 0 [])).qm.producers[(dataProducer 0)].closing = none
      ∧ (stage8 (workOf 0 [])).qm.producers[(dataProducer 0)].discarding = false)
    ∧ (∃ w : Work, w = { workOf 0 [] with whole := false } ∧ (stage8 w).pipes[(0 : Fin 16)].works = [w] ∧ w.whole = false)
    ∧ (inReset .queues live = false ∧ inReset (.pipe 0) live = false ∧ queueOf live (statProducer 0) = some 1 ∧ live.pipes[(0 : Fin 16)].statRecs = []
      ∧ live.qm.producers[(statProducer 0)].closing = none ∧ live.qm.producers[(statProducer 0)].buf = [])
    ∧ (∃ s : State, s = ((live.updPipe 0 fun k => { k with statRecs := [⟨[1], 0, some [], .closed⟩] }).updQueue 1 fun q => { q with openPkt := some (openOf 80) }).updProducer 16
          (fun p => { p with closing := some [] })
        ∧ inReset .queues s = false ∧ queueOf s (statProducer 0) = some 1 ∧ s.pipes[(0 : Fin 16)].statRecs = [⟨[1], 0, some [], .closed⟩]
        ∧ s.qm.queues[(1 : Fin 512)].openPkt = some (openOf 80) ∧ s.qm.producers[(statProducer 0)].closing = some [] ∧ s.qm.producers[(statProducer 0)].buf = []) :=
  ⟨by decide +kernel, ⟨_, rfl, rfl, rfl⟩, by decide +kernel, ⟨_, rfl, by decide +kernel⟩⟩

/-- A candidate of energy 100. -/
def cand : Cand := ⟨0, 0, 0, 0, 100, 0, 0⟩

/-- A batch of one frame from source 0. -/
def batch : PktAcct := ⟨0, 1, 0, stamp, stamp, false, false, false, false, false, false, 1, 0, 0⟩

/-- A Tally pipeline with a row to offer and a batch open. -/
def tallying : State := live.updPipe 0 fun k => { k with works := [workOf 0x80000000#32 [[cand]]], pkt := some batch }

/-- Its batch has a time-out. -/
def batching (works : List Work) : State :=
  (live.updPipe 0 fun k => { k with works := works, pkt := some batch }).updTally 0 fun t => { t with active := { t.active with batch := 0x00001000#32 } }

theorem witness_TallyEventsBatchesAndImages :
    advance 0 tallying = tallying
    ∧ (inReset (.pipe 0) tallying = false ∧ tallying.pipes[(0 : Fin 16)].pkt = some batch ∧ (workOf 0x80000000#32 [[cand]]).rows = [[cand]] ∧ isTally (workOf 0x80000000#32 [[cand]]).pack = true
      ∧ (workOf 0x80000000#32 [[cand]]).tset.dense = false ∧ bitAt (workOf 0x80000000#32 [[cand]]).tset.ctl 27 = false
      ∧ tallying.qm.producers[(dataProducer 0)].closing = none ∧ tallying.qm.producers[(dataProducer 0)].discarding = false ∧ heldBack tallying 0 = false
      ∧ (workOf 0x80000000#32 [[cand]]).tset.keeps cand = true ∧ (0 : Nat) < (workOf 0x80000000#32 [[cand]]).tset.budget.toNat ∧ backlog tallying 0 < 8192)
    ∧ (fld (batching []).tallies[(0 : Fin 16)].active.batch 31 12 ≠ 0 ∧ inReset (.pipe 0) (batching []) = false ∧ (batching []).qm.producers[(dataProducer 0)].closing = none
      ∧ (batching []).pipes[(0 : Fin 16)].works = [] ∧ receiving (batching []) batch.src = false ∧ batch.frames ≠ 0)
    ∧ (∃ s : State, s = (batching []).updProducer 0 (fun p => { p with closing := some [] }) ∧ s.qm.producers[(dataProducer 0)].closing ≠ none
        ∧ inReset (.pipe 0) s = false)
    ∧ (live.tallies[(0 : Fin 16)].image.waiting = none ∧ live.tallies[(0 : Fin 16)].image.applied = 0)
    ∧ (∃ s : State, s = live.updTally 0 (fun t => { t with image := { t.image with reading := true } }) ∧ (s.tallies[(0 : Fin 16)].image).reading = true
        ∧ (s.tallies[(0 : Fin 16)].image).applied = 0 ∧ s.qm.producers[(dataProducer 0)].buf = [] ∧ inReset (.pipe 0) s = false)
    ∧ (∃ s : State, s = live.updTally 0 (fun t => { t with image := { t.image with waiting := some (workOf 0 []) } })
        ∧ (s.tallies[(0 : Fin 16)].image).waiting = some (workOf 0 []) ∧ (s.tallies[(0 : Fin 16)].image).applied = 0) :=
  ⟨rfl, by decide +kernel, by decide +kernel, ⟨_, rfl, by decide +kernel⟩, by decide +kernel, ⟨_, rfl, by decide +kernel⟩, ⟨_, rfl, by decide +kernel⟩⟩

/-- Producer 0 has bytes to write. -/
def writing : State := opened.updProducer 0 fun p => { p with buf := [9] }

theorem witness_ProducersWriteAndRewind :
    (inReset .queues writing = false ∧ queueOf writing 0 = some 0 ∧ writing.qm.queues[(0 : Fin 512)].openPkt = some (openOf 80)
      ∧ writing.qm.producers[(0 : Fin 32)].buf ≠ [] ∧ writing.qm.producers[(0 : Fin 32)].buf.length ≤ roomLeft (openOf 80)
      ∧ (openOf 80).bytes + writing.qm.producers[(0 : Fin 32)].buf.length ≤ writing.qm.queues[(0 : Fin 512)].maxpktNow.toNat
      ∧ writing.qm.producers[(0 : Fin 32)].discarding = false)
    ∧ feed 0 writing = writing ∧ (∃ o : OpenPkt, o = { openOf 80 with mark := some 79 } ∧ o.mark = some 79 ∧ 79 < o.bytes) :=
  ⟨by decide +kernel, rfl, ⟨_, rfl, by decide +kernel⟩⟩

/-- The packet of producer 0 is closed and its bytes written. -/
def committing : State :=
  (opened.updProducer 0 fun p => { p with closing := some [] }).updPipe 0 fun k => { k with closed := some ⟨0, [], 0, 0, false, 0, 1⟩ }

theorem witness_CommitAppendsThePacket :
    inReset .queues committing = false ∧ queueOf committing (dataProducer 0) = some 0 ∧ committing.qm.queues[(0 : Fin 512)].openPkt = some (openOf 80)
    ∧ committing.qm.producers[(dataProducer 0)].closing = some [] ∧ committing.qm.producers[(dataProducer 0)].buf = []
    ∧ committing.pipes[(0 : Fin 16)].closed.isSome = true := by decide +kernel

theorem witness_CellPoolMoves :
    (inReset .queues live = false ∧ live.qm.stallLend = false) ∧ (requests live live.qm.robin = true ∧ queueOf live live.qm.robin = some 0
      ∧ grantSource live 0 = some .reserve ∧ ∀ r : Fin 32, live.qm.producers[r].waiting = false) := by decide +kernel

/-- Queue 0 has a committed packet for software. -/
def committed : State := live.updQueue 0 fun q => { q with ctl := 0x50000000#32, packets := [⟨(openOf 80).cells, 80, false, 0⟩] }

theorem witness_QueueRegisters :
    Accepted fw 0x6120 1 (.pool .cellSel) (.num 7) live ∧ Accepted fw 0x6110 16 (.pool (.xoffcfg 15)) (.num 0xC0000000) live
    ∧ Accepted fw 0x6110 1 (.pool (.xoffcfg 0)) (.num 0x40000000) live
    ∧ committed.qm.queues[(0 : Fin 512)].packets ≠ [] ∧ Accepted fw 0x601E 0 (.queue 0 .qpop) (.num 1) committed := by
  refine ⟨?_, ?_, ?_, by decide +kernel, ?_⟩ <;> unfold Accepted <;> decide +kernel

/-! ### Lanes and ports -/

/-- Lane n with the fields f changes. -/
def laned (n : Fin 64) (f : Lane → Lane) : State := live.updLane n f

/-- Lane 63 in a training state with its symbols locked. -/
def inState (t : TState) : State := laned 63 fun l => { l with tstate := t, sigdet := true, symLock := true, countdown := some 3 }

theorem witness_LaneTraining :
    (listening (inState .detect) 63 = true ∧ (inState .detect).lanes[(63 : Fin 64)].tstate = .detect ∧ (inState .detect).lanes[(63 : Fin 64)].sigdet = true
      ∧ (inState .detect).lanes[(63 : Fin 64)].backoff = false)
    ∧ ((inState .pattern).lanes[(63 : Fin 64)].tstate = .pattern ∧ (inState .pattern).lanes[(63 : Fin 64)].countdown.isSome = true
      ∧ listening (inState .pattern) 63 = true ∧ (inState .pattern).lanes[(63 : Fin 64)].symLock = true ∧ inReset (.lane 63) (inState .pattern) = false)
    ∧ ((inState .lock).lanes[(63 : Fin 64)].tstate = .lock ∧ inReset (.lane 63) (inState .lock) = false)
    ∧ ((inState .exchange).lanes[(63 : Fin 64)].tstate = .exchange ∧ inReset (.lane 63) (inState .exchange) = false)
    ∧ ((inState .active).lanes[(63 : Fin 64)].tstate = .active ∧ portOfLane (inState .active) 63 = none)
    ∧ ((inState .pattern).lanes[(63 : Fin 64)].unframed = false ∧ (List.replicate 1359 (0 : Level)).length ≠ 1360
      ∧ (∃ ls : List Level, ls = List.replicate 1360 0 ∧ ls.length = 1360 ∧ ((inState .pattern).lanes[(63 : Fin 64)].sliced ls).take 32 ≠ comma)
      ∧ (∃ (ls ps : List Level) (f : BitVec 64), f = BitVec.ofNat 64 (5 + crc16 48 5 * 2 ^ 48) ∧ ls = trainingLevels f.toNat (List.replicate 2400 true)
        ∧ ps = (inState .pattern).lanes[(63 : Fin 64)].sliced ls ∧ ls.length = 1360 ∧ ps.take 32 = comma
        ∧ (ps.drop 32).take 128 = manchester (bitsLow 64 f.toNat) ∧ crc16 48 (fld f 47 0) = fld f 63 48))
    ∧ (bitAt (laned 0 fun l => { l with ctl := 0 }).lanes[(0 : Fin 64)].ctl 31 = false ∧ portOfLane (laned 0 fun l => { l with ctl := 0 }) 0 = none)
    ∧ Accepted fw (0x3000 + 0) 1 (.lane 0 .lanectl) (.num 0x80000000) (laned 0 fun l => { l with ctl := 0 })
    ∧ (bitAt live.lanes[(0 : Fin 64)].ctl 31 = true ∧ portOfLane live 0 = none) ∧ Accepted fw (0x3000 + 0) 1 (.lane 0 .lanectl) (.num 0x00040000) live := by
  refine ⟨?_, ?_, ?_, ?_, ?_, ⟨by decide +kernel, by decide +kernel, ⟨_, rfl, by decide +kernel⟩, ⟨_, _, _, rfl, rfl, rfl, by decide +kernel⟩⟩, ?_, ?_, ?_, ?_⟩ <;>
    (try unfold Accepted) <;> decide +kernel

theorem witness_SignalsRiseAndFall :
    (listening (inState .active) 63 = true ∧ (inState .active).lanes[(63 : Fin 64)].rxIdle = false
      ∧ (inState .active).lanes[(63 : Fin 64)].idleAnnounced = false ∧ portOfLane (inState .active) 63 = none ∧ (inState .active).lanes[(63 : Fin 64)].tstate = .active)
    ∧ (∃ s : State, s = laned 63 (fun l => { l with tstate := .active, rxIdle := true, idleAnnounced := true }) ∧ listening s 63 = true
        ∧ s.lanes[(63 : Fin 64)].rxIdle = true ∧ s.lanes[(63 : Fin 64)].idleAnnounced = true ∧ portOfLane s 63 = none) :=
  ⟨by decide +kernel, ⟨_, rfl, by decide +kernel⟩⟩

/-- Lane 63 locked, with n corrected bits in its window. -/
def windowed (n : Nat) : State := laned 63 fun l => { l with tstate := .lock, symLock := true, cwLock := .locked, winCorr := n }

/-- Its PRBS checker has locked. -/
def checking (hold : Bool) : State := laned 63 fun l => { l with chk := { l.chk with locked := true, since := 2000 }, hold := hold }

theorem witness_LaneMeasurements :
    (listening (windowed 223) 63 = true ∧ (windowed 223).lanes[(63 : Fin 64)].locked = true ∧ (windowed 223).lanes[(63 : Fin 64)].unframed = false
      ∧ (windowed 223).lanes[(63 : Fin 64)].tstate ≠ .active ∧ (windowed 223).lanes[(63 : Fin 64)].winCorr ≤ (windowed 223).lanes[(63 : Fin 64)].ferNow.toNat
      ∧ (windowed 223).lanes[(63 : Fin 64)].winUncorr = 0)
    ∧ (listening (windowed 224) 63 = true ∧ (windowed 224).lanes[(63 : Fin 64)].ferNow.toNat < (windowed 224).lanes[(63 : Fin 64)].winCorr
      ∧ (windowed 224).lanes[(63 : Fin 64)].exitCheck = false)
    ∧ (∃ s : State, s = laned 63 (fun l => { l with ctl := 0x80240000#32, symLock := true, eye := { l.eye with running := true } })
        ∧ s.lanes[(63 : Fin 64)].eye.running = true ∧ fld s.lanes[(63 : Fin 64)].ctl 23 21 ≠ 0 ∧ s.lanes[(63 : Fin 64)].symLock = true
        ∧ s.lanes[(63 : Fin 64)].unframed = true ∧ s.lanes[(63 : Fin 64)].chk.locked = false)
    ∧ ((checking false).lanes[(63 : Fin 64)].chk.locked = true ∧ (checking false).lanes[(63 : Fin 64)].hold = false)
    ∧ ((checking true).lanes[(63 : Fin 64)].chk.locked = true ∧ (checking true).lanes[(63 : Fin 64)].hold = true)
    ∧ (∃ s : State, s = laned 63 (fun l => { l with tstate := .lock, symLock := true, cwLock := .locked, winUncorr := 1, exitCheck := true })
        ∧ s.lanes[(63 : Fin 64)].winUncorr ≠ 0 ∧ s.lanes[(63 : Fin 64)].exitCheck = true) :=
  ⟨by decide +kernel, by decide +kernel, ⟨_, rfl, by decide +kernel⟩, by decide +kernel, by decide +kernel, ⟨_, rfl, by decide +kernel⟩⟩

/-- Lane 63 aligned in Lock, scrambling with the state st, serving port 0 alone. -/
def aligned (st : BitVec 58) : State :=
  (laned 63 fun l => { l with tstate := .lock, sigdet := true, symLock := true, cwLock := .locked, descr := st }).updPort 0 fun q =>
    { q with ctl := 0x80003F00#32, state := .up, ver := 3, roles := [63], formedRoles := [63] }

/-- The message of ten IDLE blocks: their header bits alone are 1. -/
def idleMessage : List Nat := (List.range 257).map fun i => ((List.range 10).map fun b => if 257 * b / 10 = i then 2 ^ (9 - 257 * b % 10) else 0).sum

/-- Its codeword. -/
def idleWord : List Nat := idleMessage ++ [543, 343, 563, 638, 807, 492, 614, 386, 404, 398, 750, 369, 420, 395, 639]

/-- A word of eight wrong symbols. -/
def badWord : List Nat := List.replicate 264 0 ++ List.replicate 8 1

/-- The levels of a codeword's symbols. -/
def wordLevels (w : List Nat) : List Level := levelsOf 0 (w.flatMap (bitsHigh 10))

/-- A fold that looks at what it has before it goes on, so that the kernel evaluates it as it goes. -/
def strict (f : Nat → Nat → Nat) : List Nat → Nat → Nat
  | [], a => a
  | c :: cs, a => if a = 0 then strict f cs (f 0 c) else strict f cs (f a c)

theorem foldl_strict (f : Nat → Nat → Nat) : ∀ (l : List Nat) (a : Nat), l.foldl f a = strict f l a
  | [], _ => rfl
  | c :: cs, a => by
    show cs.foldl f (f a c) = _
    rw [foldl_strict f cs (f a c)]
    by_cases h : a = 0 <;> simp [strict, h]

/-- Ten bits at a time. -/
def tenBits : Nat → List Bool → List Nat
  | 0, _ => []
  | k + 1, bs => ofBitsHigh (bs.take 10) :: tenBits k (bs.drop 10)

theorem map_tenBits : ∀ (k : Nat) (bs : List Bool), ((List.range k).map fun i => ofBitsHigh ((bs.drop (10 * i)).take 10)) = tenBits k bs
  | 0, _ => rfl
  | k + 1, bs => by
    rw [tenBits, ← map_tenBits k, List.range_succ_eq_map, List.map_cons, List.map_map]
    simp only [Function.comp_def, List.drop_drop, Nat.mul_succ, Nat.mul_zero, List.drop_zero, Nat.add_comm]

theorem symbolsOf_tenBits (bs : List Bool) (h : bs.length / 10 = 272) : symbolsOf bs = tenBits 272 bs := by rw [symbolsOf, h, map_tenBits]

/-- A scrambler at 0 leaves the bits as they are. -/
theorem scramble_zero : ∀ ds : List Bool, scramble 0 ds = (ds, 0)
  | [] => rfl
  | d :: ds => by
    have hk : (bitAt (0 : BitVec 58) 57 != bitAt (0 : BitVec 58) 38) = false := by decide
    have hs : ((0 : BitVec 58) <<< 1) ||| BitVec.ofNat 58 (if (false = true) then 1 else 0) = 0 := by decide
    rw [scramble]
    simp only [hk, hs, scramble_zero ds]
    cases d <;> rfl

theorem idle_symbols : symbolsOf (bitsOf 0 (wordLevels idleWord)) = idleWord ∧ (wordLevels idleWord).length = 1360 := by
  rw [symbolsOf_tenBits _ (by decide +kernel)]
  decide +kernel

theorem idle_decodes : (rsSyndromes idleWord).all (· == 0) = true := by
  simp only [rsSyndromes, foldl_strict]
  decide +kernel

theorem idle_blocks : (blocksOf (messageBits idleWord)).all isIdle = true := by decide +kernel

theorem bad_symbols : symbolsOf (bitsOf 0 (wordLevels badWord)) = badWord ∧ (wordLevels badWord).length = 1360 := by
  rw [symbolsOf_tenBits _ (by decide +kernel)]
  decide +kernel

theorem bad_uncorrectable : rsDecode badWord = none := by
  simp only [rsDecode, rsSyndromes, foldl_strict]
  decide +kernel

theorem witness_CodewordsAndAlignment :
    (∀ ls, (aligned 0).lanes[(63 : Fin 64)].sliced ls = ls) ∧ (aligned 0).lanes[(63 : Fin 64)].rxPrev = 0 ∧ (aligned 0).lanes[(63 : Fin 64)].descr = 0
    ∧ (rsDecode (symbolsOf (bitsOf 0 (wordLevels idleWord))) = some (idleWord, []) ∧ (blocksOf (scramble 0 (messageBits idleWord)).1).all isIdle = true)
    ∧ rsDecode (symbolsOf (bitsOf 0 (wordLevels badWord))) = none
    ∧ (listening (aligned 0) 63 = true ∧ (aligned 0).lanes[(63 : Fin 64)].symLock = true ∧ (aligned 0).lanes[(63 : Fin 64)].unframed = false
      ∧ (aligned 0).lanes[(63 : Fin 64)].locked = true ∧ (aligned 0).lanes[(63 : Fin 64)].hold = false ∧ (aligned 0).lanes[(63 : Fin 64)].idleLead = none
      ∧ portOfLane (aligned 0) 63 = some 0 ∧ (aligned 0).ports[(0 : Fin 16)].running = true ∧ (aligned 0).ports[(0 : Fin 16)].replay = none
      ∧ (aligned 0).ports[(0 : Fin 16)].roles = [63] ∧ (aligned 0).lanes[(63 : Fin 64)].slots = []
      ∧ cseqUpTo (aligned 0).ports[(0 : Fin 16)].nextSlot ((aligned 0).lanes[(63 : Fin 64)].rxAseq * 1024 + (aligned 0).lanes[(63 : Fin 64)].rxIndex) = true)
    ∧ (listening State.reset 63 = false ∧ (List.replicate 1361 (0 : Level)).length ≠ 1360)
    ∧ (∃ s : State, s = laned 63 (fun l => { l with ctl := 0x80240000#32, tstate := .pattern, symLock := true }) ∧ listening s 63 = true ∧ s.lanes[(63 : Fin 64)].symLock = true
        ∧ s.lanes[(63 : Fin 64)].unframed = true)
    ∧ ((aligned 0).lanes[(63 : Fin 64)].tstate = .lock ∧ (aligned 0).lanes[(63 : Fin 64)].cwLock = .locked ∧ (aligned 0).lanes[(63 : Fin 64)].missed < 3)
    ∧ (∃ f : BitVec 80, f = BitVec.ofNat 80 (crc16 64 5 * 2 ^ 64 + 5) ∧ crc16 64 (fld f 63 0) = fld f 79 64 ∧ fld f 41 32 = 0
        ∧ (alignmentLevels f.toNat).length = 1360)
    ∧ validCopy (copiesIn (List.replicate 1360 0)) = none := by
  refine ⟨fun ls => rfl, by decide +kernel, by decide +kernel, ⟨?_, ?_⟩, ?_, by decide +kernel, by decide +kernel, ⟨_, rfl, by decide +kernel⟩, by decide +kernel,
    ⟨_, rfl, by decide +kernel⟩, by decide +kernel⟩
  · rw [idle_symbols.1, rsDecode, if_pos idle_decodes]
  · rw [scramble_zero]; exact idle_blocks
  · rw [bad_symbols.1, bad_uncorrectable]

theorem witness_CapabilitiesAreExchanged :
    ((inState .exchange).lanes[(63 : Fin 64)].tstate = .exchange ∧ portOfLane (inState .exchange) 63 = none ∧ (offered (capsOf (0x300#256))).1 ≠ 0)
    ∧ (∃ (s : State) (x : BitVec 256), s = laned 63 (fun l => { l with tstate := .exchange, ver := 3 })
        ∧ x = BitVec.ofNat 256 (3 * 2 ^ 8 + Config.serial.toNat % 2 ^ 32 * 2 ^ 10) ∧ s.lanes[(63 : Fin 64)].ver ≠ 0
        ∧ fld x 9 8 = s.lanes[(63 : Fin 64)].ver.1 ∧ fld x 41 10 = Config.serial.toNat % 2 ^ 32) := by
  refine ⟨by decide +kernel, ⟨_, _, rfl, rfl, by decide +kernel, ?_, ?_⟩⟩
  · refine Eq.trans ?_ (show 3 = ((laned 63 fun l => { l with tstate := .exchange, ver := 3 }).lanes[(63 : Fin 64)].ver.1) by decide +kernel)
    have h : Config.serial.toNat % 2 ^ 32 < 2 ^ 32 := Nat.mod_lt _ (by decide)
    generalize Config.serial.toNat % 2 ^ 32 = n at h ⊢
    simp only [fld, BitVec.toNat_ofNat, Nat.shiftRight_eq_div_pow]; omega
  · have h : Config.serial.toNat % 2 ^ 32 < 2 ^ 32 := Nat.mod_lt _ (by decide)
    generalize Config.serial.toNat % 2 ^ 32 = n at h ⊢
    simp only [fld, BitVec.toNat_ofNat, Nat.shiftRight_eq_div_pow]; omega

/-- Port 0 Up at version 3 over lane 0, with a standby at lane 8 and downstream idle allowed. -/
def portUp (f : Port → Port) : State :=
  (live.updPort 0 fun q => f { q with ctl := 0xB0880000#32, state := .up, ver := 3, roles := [0], formedRoles := [0], curSb := 8 }).updLane 0 fun l =>
    { l with tstate := .active, symLock := true, cwLock := .locked }

/-- A replay in progress. -/
def replaying (n : Nat) : Replay := { rseq := 5, x := 0, move := false, role := 0, newLid := 0, failed := none, repeats := n }

theorem witness_PortTimersAndReplays :
    ((portUp fun q => { q with replay := some (replaying 2) }).ports[(0 : Fin 16)].replay = some (replaying 2) ∧ (replaying 2).repeats < 3 ∧ ¬ (replaying 3).repeats < 3)
    ∧ (∃ s : State, s = portUp (fun q => { q with state := .replaying, replay := some (replaying 2) }) ∧ portOfLane s 0 = some 0 ∧ s.ports[(0 : Fin 16)].running = true
        ∧ fld (0x500#256) 15 8 = (replaying 2).rseq.toNat ∧ s.lanes[(0 : Fin 64)].tstate = .active ∧ bitAt (0x500#256) 65 = false ∧ (replaying 2).move = false
        ∧ s.ports[(0 : Fin 16)].owed = [] ∧ bitAt (0x20000000000000500#256) 65 = true)
    ∧ (∃ s : State, s = portUp (fun q => { q with ctl := 0xF0880000#32, state := .down, upTimer := true }) ∧ bitAt s.ports[(0 : Fin 16)].ctl 31 = true
        ∧ bitAt s.ports[(0 : Fin 16)].ctl 30 = true ∧ s.ports[(0 : Fin 16)].upTimer = true ∧ s.ports[(0 : Fin 16)].state ≠ .up)
    ∧ (∃ s : State, s = portUp (fun q => { q with usEidle := true }) ∧ s.ports[(0 : Fin 16)].usEidle = true ∧ s.ports[(0 : Fin 16)].eidleMax ≠ 0
        ∧ s.ports[(0 : Fin 16)].idleTold = false ∧ bitAt s.ports[(0 : Fin 16)].ctl 31 = true ∧ bitAt s.ports[(0 : Fin 16)].ctl 28 = true
        ∧ s.ports[(0 : Fin 16)].running = true ∧ s.ports[(0 : Fin 16)].dsEidle = false ∧ s.ports[(0 : Fin 16)].dsLead = none ∧ activeLanes s 0 = [0])
    ∧ (portUp fun q => { q with idleTold := true }).ports[(0 : Fin 16)].idleTold = true
    ∧ (∃ s : State, s = portUp (fun q => q) ∧ portOfLane s 0 = some 0 ∧ s.ports[(0 : Fin 16)].running = true ∧ s.ports[(0 : Fin 16)].ver = 3
        ∧ s.lanes[(0 : Fin 64)].tstate = .active ∧ bitAt (0x800#256) 11 = true ∧ s.ports[(0 : Fin 16)].standbyLane = some 8 ∧ portOfLane s 8 = some 0
        ∧ s.ports[(0 : Fin 16)].roles.contains 8 = false ∧ s.ports[(0 : Fin 16)].replay = none)
    ∧ (∃ s : State, s = (portUp id).updLane 0 (fun l => { l with txIdle := false }) ∧ s.clk.good[(Fin.ofNat 23 (3 + (0 : Fin 4).1))] = true
        ∧ (∀ k : Fin 64, fld s.lanes[k].ctl 30 29 = 0) ∧ (0 : Fin 64).1 / 16 = (0 : Fin 4).1 ∧ runs s 0 = true ∧ s.lanes[(0 : Fin 64)].txIdle = false
        ∧ s.lanes[(0 : Fin 64)].tstate = .active ∧ fld s.lanes[(0 : Fin 64)].ctl 26 24 = 0) :=
  ⟨by decide +kernel, ⟨_, rfl, by decide +kernel⟩, ⟨_, rfl, by decide +kernel⟩, ⟨_, rfl, by decide +kernel⟩, by decide +kernel, ⟨_, rfl, by decide +kernel⟩,
    ⟨_, rfl, by decide +kernel⟩⟩

/-! ### Timebase, cues, Array, encoders -/

/-- The timebase unit changed. -/
def timed (f : Timebase → Timebase) : State := live.updTb f

theorem witness_TimebaseFollowsItsSource :
    (∃ s : State, s = timed (fun t => { t with ctl := 0x4F000000#32 }) ∧ inReset .cue s = false ∧ ringMaster s = false ∧ anyRunning s = false ∧ tbSrc s = 2 ∧ tbChan s = 15)
    ∧ (∃ s : State, s = timed (fun t => { t with ctl := 0x80000000#32 }) ∧ tbSrc s = 4 ∧ inReset .cue s = false)
    ∧ (∃ s : State, s = timed (fun t => { t with ctl := 0x60000000#32 }) ∧ tbSrc s = 3 ∧ s.tb.edgeAt = none ∧ s.tb.periods = [])
    ∧ (∃ s : State, s = { timed (fun t => { t with ctl := 0x60000000#32, edgeAt := some 0, mainsPeriod := 1000, periods := [1000] }) with coreTime := 749 }
        ∧ tbSrc s = 3 ∧ s.tb.edgeAt = some 0 ∧ s.tb.mainsPeriod ≠ 0 ∧ 4 * (s.coreTime - 0) < 3 * s.tb.mainsPeriod.toNat
        ∧ s.tb.tb.toNat % 4096 < min 4095 (4096 * (s.coreTime - 0) / s.tb.mainsPeriod.toNat)) :=
  ⟨⟨_, rfl, by decide +kernel⟩, ⟨_, rfl, by decide +kernel⟩, ⟨_, rfl, by decide +kernel⟩, ⟨_, rfl, by decide +kernel⟩⟩

/-- Sequencer 15 and the cues changed, the timebase on PTP. -/
def sequenced (cue : Cue) (f : Seq → Seq) : State :=
  timed fun t => { t with ctl := 0x80000000#32, cues := t.cues.set 0 cue, seqs := t.seqs.set 15 (f t.seqs[(15 : Fin 16)]) }

/-- A cue forward of the timebase, enabled, that does nothing. -/
def cueAhead : Cue := ⟨0x8000000000000064#64, 0⟩

theorem witness_CuesAndSequencers :
    reaches false 0 1 1 = true ∧ reaches false 0 ((2 ^ 47 - 1) : BitVec 48) 1 = true
    ∧ Accepted fw (0x7130 + 15) 1 (.tb (.seqctl 15)) (.num 0x80000000) (sequenced cueAhead id)
    ∧ (∃ q : Seq, q = { (sequenced cueAhead id).tb.seqs[(15 : Fin 16)] with
          ctl := (0 ||| 0x80000000#32) &&& 0x60000000#32, state := .running, cursor := 0, pass := 1, loopAddNow := 0, loopsNow := 1, carry := none }
        ∧ cueAct (sequenced cueAhead id) q [] none true = .wait)
    ∧ Accepted fw (0x7130 + 15) 1 (.tb (.seqctl 15)) (.num 0) (sequenced cueAhead fun q => { q with state := .running })
    ∧ (∃ (s : State) (q : Seq), s = sequenced cueAhead (fun q => { q with state := .running, carry := some [(0, 100)] }) ∧ q = s.tb.seqs[(15 : Fin 16)]
        ∧ q.carry = some [(0, 100)] ∧ inReset .cue s = false ∧ q.state = .running ∧ cueAct s q [(0, 100)] none true = .late ∧ (cueAt s q.cursor).hi = 0
        ∧ fld q.range 27 16 ≤ q.cursor.toNat ∧ q.loopsNow = 1 ∧ q.pass = 1) := by
  refine ⟨by decide +kernel, by decide +kernel, ?_, ⟨_, rfl, by decide +kernel⟩, ?_, ⟨_, _, rfl, rfl, by decide +kernel⟩⟩ <;> unfold Accepted <;> decide +kernel

theorem witness_TriggersHistoryAndSeconds :
    (∃ s : State, s = live.updTrig 31 (fun k => { k with line := [4] }) ∧ inReset .cue s = false ∧ s.tb.trigs[(31 : Fin 32)].line = [4]
        ∧ s.tb.trigs[(31 : Fin 32)].endAt = none)
    ∧ (∃ s : State, s = live.updTrig 31 (fun k => { k with line := [4], endAt := some 5, configured := true }) ∧ s.tb.trigs[(31 : Fin 32)].line = [4]
        ∧ s.tb.trigs[(31 : Fin 32)].endAt.isSome = true ∧ s.tb.trigs[(31 : Fin 32)].configured = true ∧ inReset .cue s = false)
    ∧ (∃ s : State, s = { live.updRing (fun r => { r with calSeen := true }) with pins := { live.pins with clkm := 3 } } ∧ s.pins.clkm = 3 ∧ s.tb.ring.calSeen = true)
    ∧ (∃ s : State, s = { live with pins := { live.pins with clkm := 2 } } ∧ s.pins.clkm = 2 ∧ s.ptp.ns < 500000000 ∧ s.ptp.ns ≤ 1000000 ∧ live.pins.clkm = 0) :=
  ⟨⟨_, rfl, by decide +kernel⟩, ⟨_, rfl, by decide +kernel⟩, ⟨_, rfl, by decide +kernel⟩, ⟨_, rfl, by decide +kernel⟩⟩

/-- A follower of the Array, its ring unit enabled. -/
def follower (f : Ring → Ring) : State :=
  { timed (fun t => { t with ctl := 0xA0000000#32, ring := f { t.ring with ctl := 0x80000000#32 } }) with pins := { live.pins with clkm := 3 } }

/-- The master of the Array. -/
def master (f : Ring → Ring) : State := timed fun t => { t with ring := f { t.ring with ctl := 0xC0000000#32 } }

theorem witness_RingAndArray :
    (∃ s : State, s = follower (fun r => { r with deltas := [1], lock := true, badRun := 3 }) ∧ bitAt s.tb.ring.ctl 31 = true ∧ ringFollower s = true
        ∧ s.rst.level ≠ some 0 ∧ s.tb.ring.deltas = [1] ∧ s.tb.ring.lock = true ∧ tbSrc s = 5 ∧ inReset .cue s = false ∧ anyRunning s = false ∧ s.tb.ring.nibbles.length ≠ 64
        ∧ s.tb.ring.badRun = 3)
    ∧ (∃ s : State, s = follower (fun r => { r with deltas := [1] }) ∧ ringFollower s = true ∧ s.tb.ring.deltas = [1] ∧ s.tb.ring.lock = false
        ∧ s.tb.ring.badRun = 0 ∧ s.tb.ring.pairs.length < 1024)
    ∧ (∃ s : State, s = (follower fun r => { r with pairs := List.replicate 1024 0 }).updSrc 0 (fun k => { k with take := .armed }) ∧ ringFollower s = true
        ∧ 1024 ≤ s.tb.ring.pairs.length ∧ anyTake s = true)
    ∧ (∃ (s : State) (f : BitVec 256), f = BitVec.ofNat 256 (5 * 2 ^ 16 + crc16 240 (5 * 2 ^ 16) * 2 ^ 240)
        ∧ s = follower (fun r => { r with nibbles := (List.range 64).map fun i => f.toNat / 16 ^ i % 16, goodRun := 3 }) ∧ inReset .cue s = false
        ∧ f = BitVec.ofNat 256 (s.tb.ring.nibbles.foldr (fun n acc => n + 16 * acc) 0) ∧ s.tb.ring.nibbles.length = 64
        ∧ crc16 240 (fld f 239 0) = fld f 255 240 ∧ bitAt f 8 = false ∧ s.tb.ring.lock = false)
    ∧ (∃ (s : State) (f : BitVec 256), f = BitVec.ofNat 256 (256 + crc16 240 256 * 2 ^ 240)
        ∧ s = follower (fun r => { r with nibbles := (List.range 64).map fun i => f.toNat / 16 ^ i % 16 })
        ∧ f = BitVec.ofNat 256 (s.tb.ring.nibbles.foldr (fun n acc => n + 16 * acc) 0) ∧ s.tb.ring.nibbles.length = 64
        ∧ crc16 240 (fld f 239 0) = fld f 255 240 ∧ bitAt f 8 = true)
    ∧ (∃ (s : State) (q : Int), s = follower (fun r => { r with pairs := List.replicate 1024 (0 : Int), adelay := 2000 }) ∧ ringFollower s = true
        ∧ 1024 ≤ s.tb.ring.pairs.length ∧ anyRunning s = false ∧ anyTake s = false ∧ s.tb.ring.pairs = List.replicate 1024 0
        ∧ q = (25 * s.tb.ring.pairs.sum + 2048 * s.tb.ring.ppsFlight.toNat) / 25600 ∧ 1537 ≤ s.tb.ring.adelay.toNat - q)
    ∧ (∀ x ∈ List.replicate 1024 (0 : Int), ∀ y ∈ List.replicate 1024 (0 : Int), x - y ≤ 4)
    ∧ (ringMaster (master fun r => { r with cal := true }) = true ∧ (master fun r => { r with cal := true }).tb.ring.cal = true)
    ∧ (∃ s : State, s = master (fun r => { r with dMeas := 100 }) ∧ ringMaster s = true ∧ s.tb.ring.cal = false ∧ s.tb.ring.dMeas ≠ 0
        ∧ s.tb.ring.dMeas.toNat + 8 < 109 ∧ 91 + 8 < s.tb.ring.dMeas.toNat ∧ s.tb.ring.dMeas.toNat ≤ 92 + 8 ∧ 108 ≤ s.tb.ring.dMeas.toNat + 8) :=
  ⟨⟨_, rfl, by decide +kernel⟩, ⟨_, rfl, by decide +kernel⟩, ⟨_, rfl, by decide +kernel⟩, ⟨_, _, rfl, rfl, by decide +kernel⟩,
    ⟨_, _, rfl, rfl, by decide +kernel⟩, ⟨_, _, rfl, by decide +kernel, by decide +kernel, by decide +kernel, by decide +kernel, rfl, rfl, by decide +kernel⟩,
    fun x hx y hy => by simp only [List.mem_replicate] at hx hy; omega, by decide +kernel, ⟨_, rfl, by decide +kernel⟩⟩

/-- Encoder channel 15 enabled in mode m. -/
def encoding (m : Nat) (f : Enc → Enc) : State := live.updEnc 15 fun e => f { e with ctl := BitVec.ofNat 32 (0x80003004 + m * 2 ^ 28) }

theorem witness_EncoderEdges :
    (∃ s : State, s = encoding 2 id ∧ inReset (.enc 15) s = false ∧ s.encs[(15 : Fin 16)].en = true ∧ s.encs[(15 : Fin 16)].mode ≤ 2
        ∧ s.encs[(15 : Fin 16)].cmp.arm = false ∧ s.encs[(15 : Fin 16)].i = bitAt s.encs[(15 : Fin 16)].ctl 26 ∧ ¬ (tbSrc s = 1 ∧ tbChan s = 15)
        ∧ ¬ (true ≠ s.encs[(15 : Fin 16)].a ∧ false ≠ s.encs[(15 : Fin 16)].b) ∧ true ≠ s.encs[(15 : Fin 16)].a ∧ true ≠ s.encs[(15 : Fin 16)].b)
    ∧ ¬ (true ≠ true ∧ false ≠ true) :=
  ⟨⟨_, rfl, by decide +kernel⟩, by decide⟩

theorem witness_EncoderEventsAndRegisters :
    (∃ s : State, s = encoding 0 id ∧ inReset (.enc 15) s = false ∧ s.encs[(15 : Fin 16)].en = true ∧ s.encs[(15 : Fin 16)].g = false
        ∧ fld s.encs[(15 : Fin 16)].ctl 22 20 = 0 ∧ s.encs[(15 : Fin 16)].idxArm = false ∧ s.encs[(15 : Fin 16)].cmp.held = false ∧ s.encs[(15 : Fin 16)].mode ≠ 5)
    ∧ (∃ s : State, s = encoding 0 (fun e => { e with idxArm := true, cmp := { e.cmp with held := true } }) ∧ s.encs[(15 : Fin 16)].idxArm = true
        ∧ s.encs[(15 : Fin 16)].cmp.arm = false ∧ s.encs[(15 : Fin 16)].cmp.held = true ∧ s.encs[(15 : Fin 16)].g = false ∧ ¬ (tbSrc s = 1 ∧ tbChan s = 15))
    ∧ live.encs[(15 : Fin 16)].cmp.arm = false ∧ Accepted fw (0x7000 + 15) 3 (.enc 15 .count) (.num 7) live
    ∧ Accepted fw (0x7000 + 15) 1 (.enc 15 .encctl) (.num 0) live ∧ Accepted fw (0x7000 + 15) 1 (.enc 15 .encctl) (.num 0x80000000) live
    ∧ Accepted fw (0x7000 + 15) 0x20 (.enc 15 .cmpctl) (.num 0) live := by
  refine ⟨⟨_, rfl, by decide +kernel⟩, ⟨_, rfl, by decide +kernel⟩, by decide +kernel, ?_, ?_, ?_, ?_⟩ <;> unfold Accepted <;> decide +kernel

theorem witness_AnalogSamplesGiveThePhase :
    (∃ s : State, s = encoding 5 (fun e => { e with outRun := 3 }) ∧ inReset (.enc 15) s = false ∧ s.encs[(15 : Fin 16)].en = true ∧ s.encs[(15 : Fin 16)].mode = 5
        ∧ s.encs[(15 : Fin 16)].phase = none ∧ s.encs[(15 : Fin 16)].ampOut = false ∧ s.encs[(15 : Fin 16)].i = bitAt s.encs[(15 : Fin 16)].ctl 26
        ∧ (3000 : Int) = clampI (-8192) 8191 3000 - toSigned 24 s.encs[(15 : Fin 16)].sinOfs.toNat
        ∧ (2000 : Int) = ((clampI (-8192) 8191 2000 - toSigned 24 s.encs[(15 : Fin 16)].cosOfs.toNat) * s.encs[(15 : Fin 16)].cosGain.toNat + 2 ^ 13) / 2 ^ 14
        ∧ s.encs[(15 : Fin 16)].amin.toNat ^ 2 ≤ ((3000 : Int) * 3000 + 2000 * 2000).toNat
        ∧ ((3000 : Int) * 3000 + 2000 * 2000).toNat ≤ s.encs[(15 : Fin 16)].amax.toNat ^ 2
        ∧ (8191 : Int) = clampI (-8192) 8191 9000 - toSigned 24 s.encs[(15 : Fin 16)].sinOfs.toNat
        ∧ s.encs[(15 : Fin 16)].amax.toNat ^ 2 < ((8191 : Int) * 8191 + 0 * 0).toNat ∧ s.encs[(15 : Fin 16)].awinN.toNat ≤ s.encs[(15 : Fin 16)].outRun + 1) :=
  ⟨_, rfl, by decide +kernel⟩

/-! ### Router, motion -/

/-- The router with activations. -/
def activated (ts : List (Task × Nat)) : State := live.updRouter fun r => { r with activated := ts }

theorem witness_TasksActOnTheirActivation :
    ((taskRow (.herdDisable 15)).isSome = true ∧ (activated [(.herdDisable 15, 9)]).router.activated = [(.herdDisable 15, 9)])
    ∧ (∃ act, taskRow (.counterClear 31) = some (.cntClear 31, act) ∧ (act { (activated []) with router := { (activated []).router with activated := [] } }).isNone = true)
    ∧ (Task.seqStop 3 ∈ beatenBy (.seqStart 3) ∧ (activated [(.seqStart 3, 9), (.seqStop 3, 9)]).router.activated = [(.seqStart 3, 9), (.seqStop 3, 9)])
    ∧ (∃ act, taskRow (.herdDisable 3) = some (.herdDisable 3, act)
        ∧ (act (dropTask (.herdEnable 3) { activated [] with router := { (activated []).router with activated := [] } })).isSome = true ∧ Task.herdDisable 3 ∈ beatenBy (.herdEnable 3)) := by
  refine ⟨⟨rfl, rfl⟩, ⟨_, rfl, ?_⟩, by decide +kernel, ⟨_, rfl, ?_, ?_⟩⟩ <;> decide +kernel

/-- Channel 8 enabled with publishes waiting. -/
def publishing (l : List (Nat × Nat)) (t0 : Option Nat) : State := live.updChan 8 fun c => { c with cfg := 0x80000008#32, pend := l, lastDelivered := t0 }

theorem witness_PublishesActivateSubscribers :
    (inReset .router (publishing [] none) = false ∧ (publishing [] none).router.chans[(8 : Fin 128)].pend = [])
    ∧ (∃ s : State, s = (publishing [(7, 1)] none).updRouter (fun r => { r with herdEn := 0xFFFD#16 }) ∧ s.router.chans[(8 : Fin 128)].pend = (7, 1) :: []
        ∧ bitAt s.router.herdEn (8 / 8) = false)
    ∧ ((publishing [(7, 2)] (some 0)).router.chans[(8 : Fin 128)].pend = (7, 2) :: [] ∧ bitAt (publishing [(7, 2)] (some 0)).router.herdEn (8 / 8) = true
        ∧ (∀ n, rawUnit (publishing [(7, 2)] (some 0)) 8 n = false) ∧ (publishing [(7, 2)] (some 0)).router.chans[(8 : Fin 128)].lastDelivered = some 0
        ∧ 7 < 0 + fld (publishing [(7, 2)] (some 0)).router.chans[(8 : Fin 128)].cfg 15 0)
    ∧ ((publishing [(8, 1), (9, 1)] (some 0)).router.chans[(8 : Fin 128)].pend = (8, 1) :: [(9, 1)] ∧ (∀ n, rawUnit (publishing [(8, 1), (9, 1)] (some 0)) 8 n = false)
        ∧ 0 + fld (publishing [(8, 1), (9, 1)] (some 0)).router.chans[(8 : Fin 128)].cfg 15 0 ≤ 8) :=
  ⟨by decide +kernel, ⟨_, rfl, by decide +kernel⟩, by decide +kernel, by decide +kernel⟩

theorem witness_DisabledChannelsIgnorePublishers :
    bitAt live.router.chans[(127 : Fin 128)].cfg 31 = false ∧ Accepted fw 0x7416 9 (.router .swPublish) (.num 127) live := by
  unfold Accepted; decide +kernel

theorem witness_SoftwarePublishes :
    (Accepted fw 0x7416 9 (.router .swPublish) (.num 8) (publishing [] none) ∧ inReset .router (publishing [] none) = false
      ∧ bitAt (publishing [] none).router.chans[(8 : Fin 128)].cfg 31 = true ∧ (publishing [] none).router.chans[(8 : Fin 128)].pend = []
      ∧ (publishing [(live.coreTime, 3)] none).router.chans[(8 : Fin 128)].pend = [((publishing [(live.coreTime, 3)] none).coreTime, 3)])
    ∧ (127 < (128 : Word).toNat ∧ fw.path = .firmware ∧ firmwareRuns live = true ∧ inReset .router live = false
      ∧ privRefused fw (.router .swPublish) (.num 128) live = false) := by
  unfold Accepted; decide +kernel

/-- Axis 7 enabled in a state, with n steps placed. -/
def axis (bridge : Bool) (t : AxState) (f : Axis → Axis) : State :=
  live.updAxis 7 fun x => f { x with ctl := if bridge then 0xC8000000#32 else 0x88000000#32, state := t }

theorem witness_AxisMotionAndInputs :
    (∃ s : State, s = axis false .moving (fun x => { x with len := some 5, done := 3 }) ∧ inReset (.axis 7) s = false ∧ s.axes[(7 : Fin 8)].turning = true
        ∧ homeBound s.axes[(7 : Fin 8)] = none ∧ s.axes[(7 : Fin 8)].len ≠ some (s.axes[(7 : Fin 8)].done + 1) ∧ s.axes[(7 : Fin 8)].bridge = false)
    ∧ (∃ s : State, s = axis true .moving (fun x => { x with len := some 5, done := 4 }) ∧ s.axes[(7 : Fin 8)].en = true ∧ s.axes[(7 : Fin 8)].state = .moving
        ∧ s.axes[(7 : Fin 8)].len = some (s.axes[(7 : Fin 8)].done + 1) ∧ s.axes[(7 : Fin 8)].bridge = true ∧ s.axes[(7 : Fin 8)].frozen = false)
    ∧ (∃ s : State, s = axis false .homing (fun x => { x with homeStep := 1, homeCount := 0x7FFFFFFF }) ∧ s.axes[(7 : Fin 8)].turning = true
        ∧ homeBound s.axes[(7 : Fin 8)] = some 0x7FFFFFFF ∧ 0x7FFFFFFF ≤ s.axes[(7 : Fin 8)].homeCount ∧ s.axes[(7 : Fin 8)].method = 0
        ∧ s.axes[(7 : Fin 8)].home = false ∧ (true != bitAt s.axes[(7 : Fin 8)].swcfg 15) = true)
    ∧ live.axes[(7 : Fin 8)].turning = false
    ∧ (∃ s : State, s = axis false .settling id ∧ s.axes[(7 : Fin 8)].en = true ∧ s.axes[(7 : Fin 8)].state = .settling)
    ∧ (∃ s : State, s = axis false .idle (fun x => { x with lim := x.lim.set 1 true }) ∧ s.axes[(7 : Fin 8)].en = true ∧ s.axes[(7 : Fin 8)].state = .idle
        ∧ (false != s.axes[(7 : Fin 8)].limPol 1) = false ∧ s.axes[(7 : Fin 8)].lim[(1 : Fin 2)] = true)
    ∧ (∃ s : State, s = axis false .moving (fun x => { x with fwd := false, vel := 5, vsafe := 4 }) ∧ (true != s.axes[(7 : Fin 8)].limPol 1) = true
        ∧ s.axes[(7 : Fin 8)].lim[(1 : Fin 2)] = false ∧ s.axes[(7 : Fin 8)].trip[(1 : Fin 2)] = false ∧ s.axes[(7 : Fin 8)].limEn 1 = true
        ∧ s.axes[(7 : Fin 8)].fwd = (! true) ∧ s.axes[(7 : Fin 8)].vsafe.toNat < s.axes[(7 : Fin 8)].vel.natAbs)
    ∧ (∃ s : State, s = axis false .idle (fun x => { x with trip := x.trip.set 0 true }) ∧ (true != s.axes[(7 : Fin 8)].limPol 0) = true
        ∧ s.axes[(7 : Fin 8)].lim[(0 : Fin 2)] = false ∧ s.axes[(7 : Fin 8)].trip[(0 : Fin 2)] = true ∧ s.axes[(7 : Fin 8)].state = .idle) :=
  ⟨⟨_, rfl, by decide +kernel⟩, ⟨_, rfl, by decide +kernel⟩, ⟨_, rfl, by decide +kernel⟩, by decide +kernel, ⟨_, rfl, by decide +kernel⟩,
    ⟨_, rfl, by decide +kernel⟩, ⟨_, rfl, by decide +kernel⟩, ⟨_, rfl, by decide +kernel⟩⟩

/-- Phase B of the bridge-driven axis 7 in a part of its cycle. -/
def chop (st : ChopSt) : State := axis true .idle fun x => { x with phases := x.phases.set 1 { x.phases[(1 : Fin 2)] with st := st, w := 5 } }

theorem witness_ChopperCycle :
    (∀ st ∈ [ChopSt.mask, .drive, .fast, .slow], chopping 7 (chop st) = true ∧ (chop st).axes[(7 : Fin 8)].phases[(1 : Fin 2)].st = st
      ∧ (chop st).axes[(7 : Fin 8)].phases[(1 : Fin 2)].w ≠ 0) ∧ chopping 7 live = false := by decide +kernel

/-! ### DMA -/

/-- Channel 0 runs the program ws in PSTORE. -/
def running (ws : List (BitVec 64)) (f : Dma → Dma) : State :=
  { live with dma := (Vector.replicate 512 ({} : Dma)).set 0 (f { ({} : Dma) with ctl := 0x80000000#32, state := .running })
              pstore := ({} : Mem).write 0 (ws.flatMap fun w => leBytes 8 w.toNat) }

theorem onlyFlights_running (ws : List (BitVec 64)) (f : Dma → Dma) (fs : List Flight)
    (h : (f { ({} : Dma) with ctl := 0x80000000#32, state := .running }).flights = fs) : onlyFlights 0 fs (running ws f) := by
  refine ⟨by simpa [running] using h, fun k hk => ?_⟩
  have hk : ¬ 0 = k.1 := fun h => hk (Fin.ext h.symm)
  simp [running, hk]

/-- A FILL whose second word is uncorrectable. -/
def lostFill : State := { running [0x3080000000000008#64] id with pstore := (running [0x3080000000000008#64] id).pstore.write 8 [0, 0, 0, 0, 0, 0, 0, 0] [0] }

theorem witness_DmaControlInstructions :
    onlyFlights 0 [] (running [0x9000000000000000#64] id) ∧ executes 0 9 0x9000000000000000#64 0 (running [0x9000000000000000#64] id)
    ∧ executes 0 5 0x5000000100000000#64 0 (running [0x5000000100000000#64] id) ∧ executes 0 6 0x6400000000000001#64 0 (running [0x6400000000000001#64] id)
    ∧ executes 0 8 0x8000000000000000#64 0 (running [0x8000000000000000#64] id) ∧ executes 0 7 0x7000000000000000#64 0 (running [0x7000000000000000#64] id)
    ∧ executes 0 0 0 0 (running [0] id)
    ∧ (dmaReady 0 (running [0xF000000000000000#64] id) = some 0xF000000000000000#64 ∧ 10 ≤ fld (0xA000000000000000#64) 63 60)
    ∧ (running [0xA000000000000000#64] fun d => { d with count := 65536 }).dma[(0 : Fin 512)].budget.toNat ≤ 65536
    ∧ (dmaReady 0 lostFill = some 0x3080000000000008#64 ∧ programWord 0 1 lostFill = none ∧ lostFill.dma[(0 : Fin 512)].hostProgram = false
      ∧ lostFill.dma[(0 : Fin 512)].fence = none ∧ onlyFlights 0 [] lostFill) := by
  refine ⟨onlyFlights_running _ _ _ rfl, ?_, ?_, ?_, ?_, ?_, ?_, ?_, ?_, by decide +kernel, by decide +kernel, by decide +kernel, by decide +kernel,
    onlyFlights_running [0x3080000000000008#64] id [] rfl⟩ <;> (try unfold executes) <;> decide +kernel

theorem witness_TransferInstructions :
    executes 0 3 0x3080000000000008#64 5 (running [0x3080000000000008#64, 5] id) ∧ fld (0x3080000000000008#64) 56 54 = 2
    ∧ (running [0x3080000000000008#64, 5] id).dma[(0 : Fin 512)].inRing 0 0 8 = true
    ∧ executes 0 1 0x1480000000000008#64 0 (running [0x1480000000000008#64] id) ∧ fld (0x1480000000000008#64) 59 57 = 2
    ∧ (running [] fun d => { d with limit := d.limit.set 0 7 }).dma[(0 : Fin 512)].inRing 0 0 8 = false
    ∧ executes 0 2 0x2480400000000001#64 1 (running [0x2480400000000001#64, 1] id) ∧ executes 0 4 0x44000000FFFFFFFF#64 0 (running [0x44000000FFFFFFFF#64, 0] id)
    ∧ ((0 : Nat) : Int) + toSigned 32 (fld (0x44000000FFFFFFFF#64) 31 0) < 0
    ∧ (∃ d : Dma, d = (running [0x1480000000000008#64] id).dma[(0 : Fin 512)] ∧ fld (0x1480000000000008#64) 56 54 = 2 ∧ bitAt (0x1480000000000008#64) 47 = false
        ∧ d.inRing 0 d.a[(0 : Fin 8)].toNat 8 = true ∧ d.a[(0 : Fin 8)].toNat % 4096 + 8 ≤ 4096 ∧ d.a[(0 : Fin 8)].toNat + 8 ≤ 2 ^ 20 ∧ d.maxreq ≠ 0)
    ∧ executes 0 1 0x1480000000000008#64 0 (running [0x1480000000000008#64] fun d => { d with limit := d.limit.set 0 7 })
    ∧ (executes 0 2 0x2480400000000001#64 1 (running [0x2480400000000001#64, 1] id) ∧ fld (0x2480400000000001#64) 31 0 = 1 ∧ fld (0x2480400000000001#64) 47 45 = 2
        ∧ fld (0x2480400000000001#64) 59 57 = 2 ∧ fld (0x2480400000000001#64) 56 54 = 2
        ∧ (running [0x2480400000000001#64, 1] id).dma[(0 : Fin 512)].inRing 0 0 4 = true ∧ (running [0x2480400000000001#64, 1] id).dma[(0 : Fin 512)].inRing 0 0 1 = true)
    ∧ (executes 0 4 0x4400000000000000#64 0 (running [0x4400000000000000#64, 0] id) ∧ ((0 : Nat) : Int) + toSigned 32 (fld (0x4400000000000000#64) 31 0) = (0 : Nat)
        ∧ fld (0x4400000000000000#64) 59 57 = 2 ∧ (running [0x4400000000000000#64, 0] id).dma[(0 : Fin 512)].inRing 0 0 4 = true) := by
  refine ⟨?_, ?_, ?_, ?_, ?_, ?_, ?_, ?_, ?_, ⟨_, rfl, by decide +kernel⟩, ?_, ?_, ?_⟩ <;> (try unfold executes) <;> decide +kernel

/-- A piece in a state, and its step. -/
def piece (st : PieceSt) : Piece := ⟨7, st, 0x1000, 0, 4, 1048572⟩
def flight (op : FlightOp) (st : PieceSt) : Flight := { pc := 0, words := 1, opc := 3, op := op, dsp := .pstore, pieces := [piece st] }

/-- Channel 0 with one step in flight. -/
def flying (op : FlightOp) (st : PieceSt) : State := running [0] fun d => { d with flights := [flight op st] }

theorem witness_DmaAnswers :
    (onlyFlights 0 [flight .move (.ack [1, 2, 3, 4] [])] (flying .move (.ack [1, 2, 3, 4] [])) ∧ inReset (.dma 0) (flying .move .read) = false
      ∧ (piece (.ack [1, 2, 3, 4] [])).dst + 4 ≤ 2 ^ 20)
    ∧ (onlyFlights 0 [flight (.cmp 0 1 1) .read] (flying (.cmp 0 1 1) .read) ∧ (flying (.cmp 0 1 1) .read).dma[(0 : Fin 512)].state = .running
      ∧ (programWord 0 0 (flying (.cmp 0 1 1) .read)).isSome = true)
    ∧ onlyFlights 0 [flight .move .read] (flying .move .read) ∧ onlyFlights 0 [] (running [0] fun d => { d with state := .draining })
    ∧ (∃ w : BitVec 64, w = 0x6400000100000001#64 ∧ fld w 59 57 = 2 ∧ fld w 55 32 ≠ 0
        ∧ fld w 31 0 ≤ (running [0] fun d => { d with state := .waiting, wait := some (w, 0), doorbell := 1 }).dma[(0 : Fin 512)].doorbell.toNat)
    ∧ (∃ s : State, s = running [] (fun d => { d with ctl := 0x81000000#32, fetchOut := true }) ∧ s.dma[(0 : Fin 512)].hostProgram = true
        ∧ s.dma[(0 : Fin 512)].fetchOut = true ∧ s.dma[(0 : Fin 512)].state = .running ∧ s.dma[(0 : Fin 512)].prefetch = []
        ∧ s.dma[(0 : Fin 512)].flights = []) :=
  ⟨⟨onlyFlights_running _ _ _ rfl, by decide +kernel⟩, ⟨onlyFlights_running _ _ _ rfl, by decide +kernel⟩, onlyFlights_running _ _ _ rfl,
    onlyFlights_running _ _ _ rfl, ⟨_, rfl, by decide +kernel⟩, ⟨_, rfl, by decide +kernel⟩⟩

/-- No other channel is enabled, so none holds the queue that DCTL names (R497). -/
theorem queueFree_running (ws : List (BitVec 64)) (f : Dma → Dma) (s : State) (h : s.dma = (running ws f).dma) (q : Nat) :
    (List.finRange 512).any (fun o => decide (o ≠ (0 : Fin 512)) && bitAt s.dma[o].ctl 31 && fld s.dma[o].ctl 8 0 == q) = false := by
  rw [List.any_eq_false]
  intro o _
  by_cases ho : o = 0
  · simp [ho]
  · have hk : ¬ 0 = o.1 := fun e => ho (Fin.ext e.symm)
    simp [h, running, hk, bitAt]

/-- Channel 0 halted on a failed packet. -/
def haltedChannel : State := running [0] (fun d => { d with state := .halted, halt := some .pktFault })

/-- The own checks of a DCTL write that resumes the halted channel pass, whatever else changes in the state. -/
theorem resume_check (s : State) (hd : s.dma = haltedChannel.dma) (hq : s.qm = haltedChannel.qm) (hh : s.host = haltedChannel.host) :
    DmaReg.check s 0 .dctl (.num 0xA0000000) = .ok := by
  have hp : pairOwner s 0 = pairOwner haltedChannel 0 := by unfold pairOwner; rw [hh]
  have hany := queueFree_running [0] (fun d => { d with state := .halted, halt := some .pktFault }) s hd
  unfold DmaReg.check
  dsimp only
  rw [hany, hp, hq, hd]
  decide +kernel

theorem witness_ResumeContinues :
    ∃ s : State, s = haltedChannel ∧ s.dma[(0 : Fin 512)].state = .halted
      ∧ bitAt s.dma[(0 : Fin 512)].ctl 31 = true ∧ s.dma[(0 : Fin 512)].hostProgram = false ∧ fld (0x80000000#32) 25 24 = 0
      ∧ bitAt (0x80000000#32) 31 = true ∧ bitAt (0x80000000#32) 30 = false ∧ bitAt (0x80000000#32) 28 = false ∧ (programWord 0 0 s).isSome = true
      ∧ Accepted fw 0x6400 0 (.dma 0 .dctl) (.num 0xA0000000) s := by
  refine ⟨_, rfl, by decide +kernel, by decide +kernel, by decide +kernel, by decide +kernel, by decide +kernel, by decide +kernel, by decide +kernel,
    by decide +kernel, ?_⟩
  have now : Obj.check (.dma 0 .dctl) fw (.num 0xA0000000) haltedChannel = .ok := resume_check _ rfl rfl rfl
  have later : Obj.check (.dma 0 .dctl) fw (.num 0xA0000000) (spent (.dma 0 .dctl) (.num 0xA0000000) haltedChannel) = .ok := by
    refine resume_check _ ?_ ?_ ?_ <;> (unfold spent; split <;> rfl)
  refine ⟨by decide +kernel, by decide +kernel, ?_, by decide +kernel, ?_, by decide +kernel⟩
  · unfold privRefused; rw [now]; decide +kernel
  · unfold ownStatus; rw [later]; decide +kernel

/-! ### Host links, stall store, security, protocol, BARs -/

/-- Link 0 up, its functions changed. -/
def linked (f : Link → Link) : State := live.updLink 0 fun k => f { k with up := true, perst := false }

theorem witness_LinksAndFunctions :
    (linkExists live 0 = true ∧ linkExists live 2 = true ∧ live.host.links[(0 : Fin 4)].perst = true)
    ∧ ((linked id).host.links[(0 : Fin 4)].perst = false ∧ inReset (.link 0) (linked id) = false ∧ (linked id).boot.source ≠ 2)
    ∧ (∃ s : State, s = linked (fun k => { k with vfEnable := true, numVfs := 16 }) ∧ s.host.links[(0 : Fin 4)].up = true ∧ (16 : Fin 17).1 ≤ s.host.links[(0 : Fin 4)].vfs
        ∧ s.boot.hostReady = true ∧ totalVfs s 0 < 17 ∧ ({ s with boot := { s.boot with hostReady := false } } : State).host.links[(0 : Fin 4)].up = true)
    ∧ linkExists live 1 = false
    ∧ (∃ s : State, s = linked (fun k => { k with fns := k.fns.set 0 { k.fns[(0 : Fin 17)] with msixEn := true, busMaster := true, pend := [1023] } })
        ∧ s.host.links[(0 : Fin 4)].fns[(0 : Fin 17)].msixEn = true ∧ s.host.links[(0 : Fin 4)].fns[(0 : Fin 17)].fnMask = false
        ∧ s.host.links[(0 : Fin 4)].fns[(0 : Fin 17)].busMaster = true ∧ s.host.links[(0 : Fin 4)].fns[(0 : Fin 17)].d3 = false
        ∧ s.host.links[(0 : Fin 4)].fns[(0 : Fin 17)].pend = [1023]) :=
  ⟨by decide +kernel, by decide +kernel, ⟨_, rfl, by decide +kernel⟩, by decide +kernel, ⟨_, rfl, by decide +kernel⟩⟩

/-- No request is outstanding while no channel has run. -/
theorem noRequests_fresh (s : State) (h : s.dma = Vector.replicate 512 {}) : noRequests s := by
  intro c; simp [h]

theorem witness_noRequests : ∃ s : State, noRequests s ∧ linkExists s 0 = true ∧ ∀ c, (pairOwner s c).1 = 0 → (pairOwner s c).2 = 0 :=
  ⟨{ live with dma := Vector.replicate 512 {}, host := { live.host with pairfn := Vector.replicate 512 0 } }, noRequests_fresh _ rfl, by decide +kernel, fun c _ => by
    simp [pairOwner, fld]⟩

theorem witness_RemovedFunctionsReturnTheirPairs :
    ∃ s : State, s = linked (fun k => { k with vfEnable := true, numVfs := 16 }) ∧ s.host.links[(0 : Fin 4)].up = true ∧ s.boot.hostReady = true ∧ 0 ≤ totalVfs s 0
      ∧ 16 ≤ totalVfs s 0 :=
  ⟨_, rfl, by decide +kernel⟩

/-- Stall-store channel 11 in service. -/
def stored : State := { live.updDdr 11 fun d => { d with state := 1 } with host := { (live.updDdr 11 fun d => { d with state := 1 }).host with ready := true } }

theorem witness_StallStoreEvents :
    (stored.host.ready = true ∧ stored.host.ddr[(11 : Fin 12)].state = 1 ∧ ddrDead stored 11 = false) ∧ live.host.ddr[(11 : Fin 12)].state ≠ 1
    ∧ (∀ r, opensOn 11 stored r = false)
    ∧ (live.host.ready = false ∧ firmwareRuns live = true ∧ inReset .stall live = false ∧ trainedChannel.dimms ≠ 0 ∧ trainedChannel.good = true
        ∧ ddrRate [{ trainedChannel with kind := 2 }] live.host.rateMax.toNat false ≠ 0 ∧ atNat live.clk.good (8 + trainedChannel.ch.1) = some true)
    ∧ (∃ o : OpenPkt, o = ⟨[⟨onDieCells, [1], false⟩], 1, none⟩ ∧ firstStall o = some onDieCells ∧ inReset .queues live = false ∧ queueOf live 0 = some 0) :=
  ⟨by decide +kernel, by decide +kernel, by decide +kernel, by decide +kernel, ⟨_, rfl, by decide +kernel⟩⟩

theorem witness_SecurityEngine :
    live.sec.verifying = none ∧ ({ live.sec with verifying := some 1 } : Security).verifying = some 1 ∧ live.rst.level ≠ some 0 ∧ live.sec.attReq = none
    ∧ ({ live.sec with attReq := some [] } : Security).attReq = some [] ∧ tokenInvalid live (padTo 1376 []) = true ∧ live.pins.trstN = false ∧ (tapped id).pins.trstN = true := by decide +kernel

/-- An LDP header: OP, SESSION and TAG with no payload. -/
def message (op session tag : Nat) : List Byte :=
  [0x44, 0x4C, 1, BitVec.ofNat 8 op, BitVec.ofNat 8 session, 0, 0, 0, BitVec.ofNat 8 tag, 0, 0, 0, 0, 0, 0, 0]

/-- The same with a payload and with FLAGS. -/
def messageOf (op session tag flags : Nat) (pay : List Byte) : List Byte :=
  [0x44, 0x4C, 1, BitVec.ofNat 8 op, BitVec.ofNat 8 session, 0, BitVec.ofNat 8 flags, 0, BitVec.ofNat 8 tag, 0, 0, 0, BitVec.ofNat 8 pay.length, 0, 0, 0] ++ pay

/-- Session 1 is open on port 1 for the address 9 and UDP port 7, with the reply to tag 4 kept. -/
def session : Session :=
  { id := 1, port := some 1, addr := 9, udp := 7, pf := none, priv := 3, isOpen := true, nonce := [], highTag := 4, kept := [(4, [1])], idleTmo := 10, staged := none }

/-- Management port 1 listens, with that session. -/
def listening1 : State :=
  let s := live.updMgt 1 fun g => { g with link := true, addrNow := 1 }
  { s with acc := { s.acc with sessions := [session] } }

theorem witness_DictionaryProtocol :
    (∀ op ∈ [0x01, 0x02, 0x03, 0x10, 0x11, 0x12, 0x13, 0x14, 0x20, 0x7F], malformed (message op 1 5) = false ∧ msgOp (message op 1 5) = op)
    ∧ (listens listening1 1 = true ∧ fwFree listening1 = true ∧ listens live 1 = false ∧ malformed [] = true)
    ∧ ((ldpRequest (.ldpRead (.udp 1 9 7) (message 0x10 1 5))).isSome = true ∧ fwFree { listening1 with svc := liveWaiting.svc } = false)
    ∧ (findSession listening1 (msgSession (message 3 1 5)) = some session ∧ session.boundTo (.udp 1 9 7) = true ∧ session.isOpen = true
        ∧ session.kept.find? (fun k => k.1 == msgTag (message 3 1 5)) = none ∧ tagAhead (msgTag (message 3 1 5)) session.highTag = true
        ∧ session.kept.find? (fun k => k.1 == msgTag (message 3 1 4)) = some (4, [1]) ∧ tagAhead (msgTag (message 0x11 1 3)) session.highTag = false
        ∧ session.kept.find? (fun k => k.1 == msgTag (message 0x11 1 3)) = none)
    ∧ findSession listening1 (msgSession (message 0x10 2 5)) = none
    ∧ (∃ m pay, m = messageOf 0x10 1 5 0 [0, 0x30, 1, 0] ∧ pay = msgPayload m ∧ malformed m = false ∧ msgOp m = 0x10 ∧ pay.length = 4 * 1
        ∧ leAt pay (4 * 0 + 3) 1 = 0 ∧ tagAhead (msgTag m) session.highTag = true ∧ session.kept.find? (fun k => k.1 == msgTag m) = none)
    ∧ (∃ m pay, m = messageOf 0x11 1 5 0 [0, 0x45, 0x0A, 4, 0, 0x20, 0, 0] ∧ pay = msgPayload m ∧ malformed m = false ∧ msgOp m = 0x11
        ∧ (msgFlags m).testBit 1 = false ∧ (parseItems 64 pay).map List.length = some 1)
    ∧ (∃ m pay o v, m = messageOf 0x12 1 5 0 [0, 0x40, 0x1A, 0, 0, 0, 0, 0, 32, 0] ∧ pay = msgPayload m ∧ malformed m = false ∧ msgOp m = 0x12
        ∧ pay.length = 10 ∧ o = Obj.src 0 .headmsg ∧ objAt (leAt pay 0 2) (leAt pay 2 1) = some o ∧ o.desc.ty = .blob ∧ v = Val.bytes (List.replicate 32 0)
        ∧ (dictRead (⟨.ldp 1 1, 3⟩ : By) (leAt pay 0 2) (leAt pay 2 1) listening1).1 = (.ok, v) ∧ (blobPart o v (leAt pay 4 4) (leAt pay 8 2) listening1).1 = .ok)
    ∧ (∃ m pay, m = messageOf 0x13 1 5 4 [0, 0x45, 0x0A, 0, 0, 0, 0, 0] ∧ pay = msgPayload m ∧ malformed m = false ∧ msgOp m = 0x13 ∧ 8 ≤ pay.length
        ∧ pay.length ≤ 16392 ∧ leAt pay 4 4 = 0 ∧ (msgFlags m).testBit 2 = true)
    ∧ (∃ m pay, m = messageOf 0x14 1 5 0 [0, 0x30, 1] ∧ pay = msgPayload m ∧ malformed m = false ∧ msgOp m = 0x14 ∧ pay.length = 3
        ∧ (objAt (leAt pay 0 2) (leAt pay 2 1)).isSome = true)
    ∧ (∃ m pay, m = messageOf 0x20 1 5 0 [1, 0, 0, 0, 0, 0, 44, 0] ∧ pay = msgPayload m ∧ malformed m = false ∧ msgOp m = 0x20 ∧ pay.length = 8
        ∧ jnlOldest listening1 ≤ leAt pay 0 6 ∧ leAt pay 0 6 ≤ listening1.mram.head.toNat + 1 ∧ 1 ≤ leAt pay 6 2 ∧ leAt pay 6 2 ≤ 44)
    ∧ (∃ m pay, m = messageOf 0x01 0 5 0 [1, 0, 1, 0, 1, 0, 0, 0] ∧ pay = msgPayload m ∧ malformed m = false ∧ msgOp m = 0x01 ∧ msgSession m = 0
        ∧ barredNow listening1 9 = false ∧ pay.length = 8 ∧ leAt pay 4 1 ≤ privMax listening1 (.udp 1 9 7) ∧ 0 < leAt pay 4 1 ∧ leAt pay 0 2 ≤ 1 ∧ 1 ≤ leAt pay 2 2
        ∧ listening1.acc.sessions.length < 32)
    ∧ (malformed (message 0x7F 1 5) = false ∧ listedOps.contains (msgOp (message 0x7F 1 5)) = false) := by
  refine ⟨by decide +kernel, by decide +kernel, by decide +kernel, by decide +kernel, by decide +kernel, ⟨_, _, rfl, rfl, by decide +kernel⟩,
    ⟨_, _, rfl, rfl, by decide +kernel⟩,
    ⟨_, _, _, _, rfl, rfl, by decide +kernel, by decide +kernel, by decide +kernel, rfl, by decide +kernel, by decide +kernel, rfl, by decide +kernel, by decide +kernel⟩,
    ⟨_, _, rfl, rfl, by decide +kernel⟩, ⟨_, _, rfl, rfl, by decide +kernel⟩, ⟨_, _, rfl, rfl, by decide +kernel⟩, ⟨_, _, rfl, rfl, by decide +kernel⟩, by decide +kernel⟩

/-- Link 0 up with memory space enabled. -/
def serving : State := linked fun k => { k with fns := k.fns.set 0 { k.fns[(0 : Fin 17)] with memSpace := true } }

theorem witness_RegisterRowsWaitForFirmware :
    (registerRow (.qpop ldp 5 1) = some (ldp, 0x601E, 5, .num 1) ∧ fwFree liveWaiting = false ∧ direct ldp 0x601E 5 = false
      ∧ ldp.path = .ldp 0 1 ∧ liveWaiting.svc.length < svcMax)
    ∧ (∃ s : State, s = { live with svc := List.replicate svcMax (.viewRead 0 0 0x00600000 4) } ∧ fwFree s = false ∧ svcMax ≤ s.svc.length)
    ∧ (∃ (w : By) (s : State), w = ⟨.view 0 0, 1⟩ ∧ s = { serving with svc := liveWaiting.svc } ∧ registerRow (.encEnable w 0 0) = some (w, 0x7000, 1, .num 0x80000000)
        ∧ direct w 0x7000 1 = false ∧ barServes s 0 0 = true ∧ s.boot.phase = 3 ∧ viewOffset s 0 0 0x7000 1 = some 0x04800008 ∧ objAt 0x7000 1 = some (.enc 0 .encctl)
        ∧ (Obj.enc 0 .encctl).held s = false ∧ fwFree s = false ∧ firmwareRuns s = true ∧ s.svc.length < svcMax
        ∧ firmwareRuns { s with boot := { s.boot with halted := true } } = false ∧ barServes live 0 0 = false) :=
  ⟨by decide +kernel, ⟨_, rfl, by decide +kernel⟩, ⟨_, _, rfl, rfl, by decide +kernel⟩⟩

/-- The same with service privilege for the object view of link 0, and a cell snapshot taken. -/
def trusting : State :=
  { serving with acc := { serving.acc with viewPriv := serving.acc.viewPriv.set 0 2 }, qm := { serving.qm with snap := some { tag := 0, data := [1, 2, 3, 4, 5, 6, 7, 8] } } }

theorem witness_BarsAndView :
    (barServes serving 0 0 = true ∧ serving.clk.good[(2 : Fin 23)] = true ∧ serving.boot.phase = 3 ∧ serving.vio.log = [] ∧ barServes live 0 0 = false
      ∧ ({ serving.boot with window := true } : Boot).window = true)
    ∧ (viewAligned 0x04800008 8 = true ∧ viewPlace serving 0 0 0x04800008 = some (0x7000, 1, 0) ∧ objAt 0x7000 1 = some (.enc 0 .encctl)
        ∧ (Obj.enc 0 .encctl).desc.block = true ∧ (Obj.enc 0 .encctl).held serving = false)
    ∧ (viewAligned 0x04208000 4 = true ∧ viewPlace serving 0 0 0x04208000 = some (0x6410, 0, 0) ∧ objAt 0x6410 0 = some (.dma 0 .doorbell)
        ∧ (Obj.dma 0 .doorbell).unjournaled = true ∧ (Obj.dma 0 .doorbell).held serving = false ∧ viewValue (.dma 0 .doorbell) 0 [1, 0, 0, 0] = (true, .num 1))
    ∧ (firmwareRuns { serving with boot := { serving.boot with halted := true } } = false)
    ∧ (∃ s : State, s = { serving with svc := liveWaiting.svc } ∧ fwFree s = false ∧ s.svc.length < svcMax
        ∧ malformed (memRead [(0, 0x44), (1, 0x4C), (2, 1)] 0 16) = false)
    ∧ ({ serving.acc.mailbox[(0 : Fin 4)] with busy := true } : Mailbox).busy = true
    ∧ pstoreHeld serving = false
    ∧ (viewAligned 0x00600100 8 = true ∧ cellData 0x00600100 = true ∧ objAt 0x6120 3 = some (.pool .cellData) ∧ (Obj.pool .cellData).desc.block = true
        ∧ (Obj.pool .cellData).held serving = false ∧ (∃ bs s, s = trusting ∧ (dictRead (viewWho s 0 0) 0x6120 3 s).1 = (.ok, .bytes bs) ∧ 0x00600100 - 0x00600100 + 8 ≤ bs.length))
    ∧ (∃ (s : State) (m : List Byte), s = serving.updMbox 0 (fun b => { b with request := memWrite b.request 0 (message 0x7F 1 5) }) ∧ fwFree s = true
        ∧ barServes s 0 0 = true ∧ s.boot.phase = 3 ∧ m = memRead s.acc.mailbox[(0 : Fin 4)].request 0 16 ∧ malformed m = false ∧ listedOps.contains (msgOp m) = false
        ∧ s.acc.mailbox[(0 : Fin 4)].busy = false ∧ s.acc.mailbox[(0 : Fin 4)].ready = false) := by
  refine ⟨by decide +kernel, by decide +kernel, by decide +kernel, by decide +kernel, ⟨_, rfl, by decide +kernel⟩, rfl, by decide +kernel,
    ⟨by decide +kernel, by decide +kernel, by decide +kernel, by decide +kernel, by decide +kernel, ⟨[1, 2, 3, 4, 5, 6, 7, 8], _, rfl, by decide +kernel⟩⟩,
    ⟨_, _, rfl, by decide +kernel, by decide +kernel, by decide +kernel, rfl, by decide +kernel⟩⟩

theorem witness_FusesNeedTheirSupply : vppBurning live = false ∧ (∃ t, step live = .next t) := ⟨by decide +kernel, _, rfl⟩

/-! ### The manual's worked examples, and single commands -/

/-- The state a command leaves, and a value of it. -/
def seen {α : Type} (f : State → α) (c : Instr) (s : State) : Option α :=
  match exec c s with
  | .next t => some (f t)
  | _ => none

/-- Worked example "one knot segment" (chapter 08). -/
theorem test_linearise : linearise (.knots (List.replicate 625 0 ++ [10300000, 10317500])) (widen 12 2503) = 10313125 := by decide +kernel

/-- Worked example "one pixel through stages 1 to 4" (chapter 08): stages 3 and 4. -/
theorem test_merge_select :
    mergeOne 0 #v[0x010000#24, 0x080000#24, 0, 0] #v[0xF00000#24, 0xF00000#24, 0, 0] 0 [15974400, 1843200] = (14745600, false) := by decide +kernel
theorem test_correct : correctOne false 14745600 800000 17990 0 = (15312582, false) := by decide +kernel

/-- The same example's defect entry. -/
theorem test_defect_entry : defectOf 0x00406418FC000000#64 = { kind := 0, rule := 0, chmask := 1, row := 100, col := 1599, len := 0, rsvd := 0 } := by
  decide +kernel

/-- Worked example "one colour pixel from stage 5 to a code" (chapter 09). -/
theorem test_mix :
    mixPixel { m := #v[0x140000#24, 0xFE0000#24, 0xFE0000#24, 0, 0xFE0000#24, 0x140000#24, 0xFE0000#24, 0, 0xFF0000#24, 0xFD0000#24, 0x140000#24, 0, 0, 0, 0, 0]
               gin := #v[0x180000#24, 0x100000#24, 0x200000#24, 0], ofs := #v[0, 2048, 0, 0] } false 3 [⟨7929856, false⟩, ⟨13107200, false⟩, ⟨6356992, false⟩]
      = [⟨11640832, false⟩, ⟨13309952, false⟩, ⟨12691456, false⟩] := by decide +kernel
theorem test_curve_and_code : encodeOne .sqrt false 13309952 = 14943358 ∧ codeOf false 10 14943358 = 912 := by decide +kernel

/-- Worked example "one block" (chapter 09): 63 bits, the first byte 0x22. -/
theorem test_rice_block :
    fieldBits (blockFields 12 [4, 6, 3, 2, 12, 3, 1, 4, 4, 9, 3, 2, 3, 3, 1, 4]) = 63
    ∧ (packBits (blockFields 12 [4, 6, 3, 2, 12, 3, 1, 4, 4, 9, 3, 2, 3, 3, 1, 4]) 0 0).head? = some 0x22 := by decide +kernel

/-- The cluster of the worked example in chapter 10, at rows 7 to 9 and columns 15 to 17 of a frame of zeros 18 wide and 10 high. -/
def cluster : List Smp :=
  (List.replicate (7 * 18 + 15) 0 ++ [300000, 900000, 500000] ++ List.replicate 15 0 ++ [1200000, 3100000, 1800000] ++ List.replicate 15 0
    ++ [200000, 700000, 350000]).map fun v => ⟨v, false⟩

/-- The event of that cluster, as the manual's bytes. -/
theorem test_event_record :
    ((detect { ({} : TallySet) with ctl := 0x00800000#32, tPeak := 2000000, tPix := 400000 } 18 10 cluster).map fun row => row.map (eventRecord 5))
      = [[[0x50, 0xF0, 0xD1, 0xF7, 0x07, 0x80, 0x40, 0x00]]] := by decide +kernel

/-- Worked example "arming behind a moving stage" (chapter 11), with SKIP = 0 and SKIP = 1. -/
def late : State :=
  live.updEnc 0 fun e => { e with count := 105300, ctl := 0x80003004#32, cmp := { e.cmp with target := 100000, step := 2000, npulse := 50, minsp := 1250 } }
theorem test_arm_behind :
    seen (fun t => (t.encs[(0 : Fin 16)].cmp.hitCount, t.encs[(0 : Fin 16)].cmp.late, t.encs[(0 : Fin 16)].cmp.skipped, t.encs[(0 : Fin 16)].cmp.target,
      t.encs[(0 : Fin 16)].cmp.consumed, t.encs[(0 : Fin 16)].cmp.hits)) (.cmpArm fw 0 0x90000000#32) late = some (105300, true, 2, 106000, 3, 1) := by decide +kernel
theorem test_arm_behind_skip :
    seen (fun t => (t.encs[(0 : Fin 16)].cmp.missed, t.encs[(0 : Fin 16)].cmp.skipped, t.encs[(0 : Fin 16)].cmp.target, t.encs[(0 : Fin 16)].cmp.hits))
      (.cmpArm fw 0 0xB0000000#32) late = some (true, 3, 106000, 0) := by decide +kernel

/-- Worked example of the fuse pin map (chapter 02): the burn writes both copies, and PINMAP itself waits for the next level-0 release. -/
theorem test_pinmap_burn :
    seen (fun t => (t.reply.status, t.fuses.pinA, t.fuses.pinB, t.pins.pinmap)) (.pinmapBurn fw 0xA0100000#32) { live with pins := { live.pins with vppMv := 2500 } }
      = some (.ok, 0xA0100000#32, 0xA0100000#32, 0) := by decide +kernel

/-- Without the burning voltage the same write is refused with STATE (R604's order for root fuses; R62). -/
theorem test_pinmap_unpowered : seen (fun t => (t.reply.status, t.fuses.pinA)) (.pinmapBurn fw 0xA0100000#32) live = some (.state, 0) := by decide +kernel

/-- The driver's session in the worked example of chapter 18, on management port 0, and the journal where it stands. -/
def driver : State :=
  let s := live.updMgt 0 fun g => { g with link := true, addrNow := 1 }
  { s with acc := { s.acc with sessions := [{ session with id := 0x0125, port := some 0, priv := 1, highTag := 5, kept := [] }] }
           mram := { s.mram with head := 7340036 } }
theorem test_ldp_write :
    seen (fun t => (t.srcs[(5 : Fin 18)].frameLimit, t.mram.head, t.tx))
      (.ldpWrite (.udp 0 9 7) [0x44, 0x4C, 0x01, 0x11, 0x25, 0x01, 0x02, 0x00, 0x06, 0, 0, 0, 0x10, 0, 0, 0, 0x04, 0, 0x70, 0, 0, 0, 0, 0,
        0x00, 0x45, 0x0A, 0x04, 0x00, 0x20, 0, 0]) driver
      = some (8192, 7340037, [.datagram 0 (some 5240) (9 * 65536 + 7) [0x44, 0x4C, 0x01, 0x11, 0x25, 0x01, 0x03, 0x00, 0x06, 0, 0, 0, 0x0D, 0, 0, 0,
          0x05, 0, 0x70, 0, 0, 0, 0, 0, 0x00, 0x45, 0x0A, 0, 0]]) := by decide +kernel

/-- Defaults of the manual's tables read back, and a read of an index that no table lists. -/
theorem test_defaults :
    (dictRead fw 0x3000 1 live).1 = (.ok, .num 0x80040000) ∧ (dictRead fw 0x7000 1 live).1 = (.ok, .num 0x00003004)
    ∧ (dictRead fw 0x6000 4 live).1 = (.ok, .num 0xC0220000) ∧ (dictRead fw 0x0FFF 1 live).1.1 = .noObject := by decide +kernel

/-- Lane 9 held at detect enters Pattern; a command for a lane in another state changes nothing. -/
theorem test_signal_detect_held :
    seen (fun t => t.lanes[(9 : Fin 64)].tstate) (.signalDetectHeld 9) (laned 9 fun l => { l with tstate := .detect, sigdet := true }) = some .pattern := by
  decide +kernel

/-- A DMA JUMP taken on Z = 0 goes to its target (R473). -/
theorem test_dma_jump : (dmaJump 0 0x9800000000000001#64 (running [0x9800000000000001#64, 0] id)).dma[(0 : Fin 512)].pc = 1 := by decide +kernel

/-- A forward step of axis 7 in step mode (R534, R537). -/
theorem test_step :
    seen (fun t => (t.axes[(7 : Fin 8)].pos, t.pins.mstep[(7 : Fin 8)])) (.stepPulse 7) (axis false .moving fun x => { x with len := some 5, pos := 0xFFFFFFFF })
      = some (0, .high) := by decide +kernel

/-- The herd's task clears its bit alone (R406). -/
theorem test_herd : seen (fun t => t.router.herdEn) (.herdDisable 15) (activated [(.herdDisable 15, 0)]) = some 0x7FFF#16 := by decide +kernel

end Sys2Proof.Tests
end

