-- ==== Sys2Proof/Proofs/FuseFrames.lean ====
section
/-! The operations of the units touch no fuse (R62, R100, R602, R613): one lemma for each, in the order of the model's units. An operation that
takes a function as its argument asks that this function keeps the fuses. The five registers that burn are left out. -/

namespace Sys2Proof.Machine

open Sys2Proof

/-! ### Choices and walks -/

@[simp] theorem State.ite_fuses (c : Prop) [Decidable c] (s t : State) : (if c then s else t).fuses = if c then s.fuses else t.fuses :=
  apply_ite State.fuses c s t

@[simp] theorem foldl_fuses {α : Type} (f : State → α → State) (l : List α) (s : State) (h : ∀ t a, (f t a).fuses = t.fuses) :
    (l.foldl f s).fuses = s.fuses := by
  induction l generalizing s with
  | nil => rfl
  | cons a l ih => rw [List.foldl_cons, ih, h]

@[simp] theorem State.each_fuses {α : Type} (s : State) (l : List α) (f : α → State → State) (h : ∀ a t, (f a t).fuses = t.fuses) :
    (s.each l f).fuses = s.fuses :=
  foldl_fuses _ l s fun t a => h a t

/-- The state of a pair, once the pair is known by its parts. -/
theorem snd_fuses {α : Type} {r : α × State} {x : α} {s t : State} (h : r = (x, t)) (hr : r.2.fuses = s.fuses) : t.fuses = s.fuses := by
  rw [← hr, h]

/-! ### Shared operations: vectors, publishes, the fault and violation logs, reads that draw -/

@[simp] theorem sendVector_fuses (l : Fin 4) (g : Fin 17) (e : Nat) (s : State) : (sendVector l g e s).fuses = s.fuses := by
  simp [sendVector]

@[simp] theorem deviceVector_fuses (e : Nat) (s : State) : (deviceVector e s).fuses = s.fuses := by simp [deviceVector]
@[simp] theorem channelVector_fuses (c : Fin 512) (s : State) : (channelVector c s).fuses = s.fuses := by simp [channelVector]
@[simp] theorem publishAt_fuses (t : Nat) (code : Nat) (s : State) : (publishAt t code s).fuses = s.fuses := by simp [publishAt]
@[simp] theorem publish_fuses (code : Nat) (s : State) : (publish code s).fuses = s.fuses := by simp [publish]
@[simp] theorem publishOn_fuses (c : Fin 128) (s : State) : (publishOn c s).fuses = s.fuses := by simp [publishOn]
@[simp] theorem postRec_fuses (r : FaultRec) (s : State) : (postRec r s).fuses = s.fuses := by simp [postRec]

@[simp] theorem fault_fuses (code : Nat) (sev : Nat) (cls : FClass) (idx : Nat) (detail : Nat) (s : State) :
    (fault code sev cls idx detail s).fuses = s.fuses := by
  simp [fault]

@[simp] theorem captureFault_fuses (code : Nat) (sev : Nat) (cls : FClass) (idx : Nat) (detail : Nat) (s : State) :
    (captureFault code sev cls idx detail s).fuses = s.fuses := by
  simp [captureFault]

@[simp] theorem giveWay_fuses (code : Nat) (rung : Fin 5) (cls : FClass) (idx : Nat) (detail : Nat) (s : State) :
    (giveWay code rung cls idx detail s).fuses = s.fuses := by
  simp [giveWay]

@[simp] theorem logFault_fuses (r : FaultRec) (s : State) : (logFault r s).fuses = s.fuses := by fun_cases logFault r s <;> simp

@[simp] theorem logVio_fuses (kind : Nat) (target : Nat) (st : Status) (initiator : Nat) (s : State) :
    (logVio kind target st initiator s).fuses = s.fuses := by
  fun_cases logVio kind target st initiator s <;> simp +zetaDelta

/-! ### The journal -/

@[simp] theorem jnlAppend_fuses (src : Nat) (index : Nat) (sub : Nat) (status : Nat) (value : Nat) (s : State) :
    (jnlAppend src index sub status value s).fuses = s.fuses := by
  simp [jnlAppend]

@[simp] theorem jnlReset_fuses (s : State) : (jnlReset s).fuses = s.fuses := by simp [jnlReset]

@[simp] theorem jnlToken_fuses (s : State) : (jnlToken s).2.fuses = s.fuses := by
  fun_cases jnlToken s <;> exact State.updAcc_fuses _ _

@[simp] theorem rwpToken_fuses (s : State) : (rwpToken s).2.fuses = s.fuses := by fun_cases rwpToken s <;> simp
@[simp] theorem rwpRecord_fuses (key : Nat) (v : Val) (s : State) : (rwpRecord key v s).fuses = s.fuses := by simp [rwpRecord]

/-! ### Security: images, attestation, tokens -/

@[simp] theorem updSlot_fuses (n : Fin 2) (f : Slot → Slot) (s : State) : (updSlot n f s).fuses = s.fuses := by simp [updSlot]
@[simp] theorem verifyDone_fuses (s : State) : (verifyDone s).fuses = s.fuses := by fun_cases verifyDone s <;> simp +zetaDelta
@[simp] theorem reportSigned_fuses (s : State) : (reportSigned s).fuses = s.fuses := by fun_cases reportSigned s <;> simp

@[simp] theorem tokenTaken_fuses (honours : List Nat) (bs : List Byte) (s : State) : (tokenTaken honours bs s).fuses = s.fuses := by
  simp [tokenTaken]

@[simp] theorem writeUpdCtl_fuses (w : Word) (s : State) : (writeUpdCtl w s).fuses = s.fuses := by simp [writeUpdCtl]

@[simp] theorem SecReg.refused_fuses (r : SecReg) (v : Val) (s : State) : (SecReg.refused r v s).fuses = s.fuses := by
  fun_cases SecReg.refused r v s <;> simp

/-! ### Boot -/

@[simp] theorem linkLocal_fuses (m : Fin 2) (s : State) : (linkLocal m s).fuses = s.fuses := by simp [linkLocal]
@[simp] theorem takeAddress_fuses (m : Fin 2) (s : State) : (takeAddress m s).fuses = s.fuses := by simp [takeAddress]

@[simp] theorem bootMessage_fuses (op : Nat) (payload : List Byte) (s : State) : (bootMessage op payload s).2.fuses = s.fuses := by
  simp [bootMessage]

@[simp] theorem bootRequest_fuses (m : Fin 2) (s : State) : (bootRequest m s).fuses = s.fuses := by simp [bootRequest]
@[simp] theorem bootRound_fuses (ms : List (Fin 2)) (s : State) : (bootRound ms s).fuses = s.fuses := by simp [bootRound]

@[simp] theorem bootRead_fuses (ofs : Nat) (len : Nat) (s : State) : (bootRead ofs len s).fuses = s.fuses := by
  unfold bootRead
  dsimp only
  (repeat' split) <;> simp

@[simp] theorem bootReads_fuses (k : Nat) (s : State) : (bootReads k s).fuses = s.fuses := by
  induction k generalizing s with
  | zero => rfl
  | succ k ih => unfold bootReads; dsimp only; (repeat' split) <;> simp [ih]

@[simp] theorem noAnswer_fuses (s : State) : (noAnswer s).fuses = s.fuses := by simp [noAnswer]
@[simp] theorem startVerify_fuses (slot : Option (Fin 2)) (s : State) : (startVerify slot s).fuses = s.fuses := by simp [startVerify]
@[simp] theorem attempt_fuses (s : State) : (attempt s).fuses = s.fuses := by simp [attempt]
@[simp] theorem recovery_fuses (s : State) : (recovery s).fuses = s.fuses := by simp [recovery]
@[simp] theorem openWindow_fuses (s : State) : (openWindow s).fuses = s.fuses := by simp [openWindow]
@[simp] theorem startBoot_fuses (s : State) : (startBoot s).fuses = s.fuses := by fun_cases startBoot s <;> simp +zetaDelta
@[simp] theorem firmwareStarts_fuses (s : State) : (firmwareStarts s).fuses = s.fuses := by simp [firmwareStarts]
@[simp] theorem runImage_fuses (s : State) : (runImage s).fuses = s.fuses := by simp [runImage]
@[simp] theorem spiFails_fuses (s : State) : (spiFails s).fuses = s.fuses := by simp [spiFails]

@[simp] theorem imageFails_fuses (code : Nat) (s : State) : (imageFails code s).fuses = s.fuses := by
  fun_cases imageFails code s <;> simp +zetaDelta

@[simp] theorem verifyEnds_fuses (s : State) : (verifyEnds s).fuses = s.fuses := by simp [verifyEnds]
@[simp] theorem reverify_fuses (s : State) : (reverify s).fuses = s.fuses := by simp [reverify]

@[simp] theorem spiLoaded_fuses (bytes : List Byte) (s : State) : (spiLoaded bytes s).fuses = s.fuses := by
  fun_cases spiLoaded bytes s <;> simp +zetaDelta

@[simp] theorem bootDoorbell_fuses (s : State) : (bootDoorbell s).fuses = s.fuses := by simp [bootDoorbell]

@[simp] theorem bootOffer_fuses (m : Fin 2) (server : Nat) (len : Nat) (s : State) : (bootOffer m server len s).fuses = s.fuses := by
  simp [bootOffer]

@[simp] theorem bootData_fuses (m : Fin 2) (server : Nat) (ofs : Nat) (bytes : List Byte) (s : State) :
    (bootData m server ofs bytes s).fuses = s.fuses := by
  fun_cases bootData m server ofs bytes s <;> simp +zetaDelta

@[simp] theorem bootReadRetry_fuses (ofs : Nat) (s : State) : (bootReadRetry ofs s).fuses = s.fuses := by
  fun_cases bootReadRetry ofs s <;> simp

@[simp] theorem netRetry_fuses (s : State) : (netRetry s).fuses = s.fuses := by fun_cases netRetry s <;> simp +zetaDelta

/-! ### Lanes -/

@[simp] theorem sendBlock_fuses (n : Fin 64) (x : BitVec 256) (s : State) : (sendBlock n x s).fuses = s.fuses := by simp [sendBlock]
@[simp] theorem sendTwice_fuses (n : Fin 64) (x : BitVec 256) (s : State) : (sendTwice n x s).fuses = s.fuses := by simp [sendTwice]
@[simp] theorem drive_fuses (n : Fin 64) (ps : List Level) (s : State) : (drive n ps s).fuses = s.fuses := by simp [drive]
@[simp] theorem sendNow_fuses (n : Fin 64) (xs : List (BitVec 256)) (s : State) : (sendNow n xs s).fuses = s.fuses := by simp [sendNow]
@[simp] theorem leaveIdle_fuses (n : Fin 64) (s : State) : (leaveIdle n s).fuses = s.fuses := by simp [leaveIdle]
@[simp] theorem adaptLane_fuses (n : Fin 64) (s : State) : (adaptLane n s).fuses = s.fuses := by simp [adaptLane]
@[simp] theorem enterT_fuses (n : Fin 64) (t : TState) (s : State) : (enterT n t s).fuses = s.fuses := by simp [enterT]

/-! ### Queues and the cell pool -/

@[simp] theorem countDdr_fuses (uncorrected : Bool) (a : Nat) (s : State) : (countDdr uncorrected a s).fuses = s.fuses := by
  fun_cases countDdr uncorrected a s <;> simp

@[simp] theorem driveXoff_fuses (s : State) : (driveXoff s).fuses = s.fuses := by simp [driveXoff]
@[simp] theorem lendOnDie_fuses (s : State) : (lendOnDie s).fuses = s.fuses := by simp [lendOnDie]

@[simp] theorem revokeFrom_fuses (r : Fin 32) (s : State) : (revokeFrom r s).fuses = s.fuses := by
  unfold revokeFrom
  dsimp only
  (repeat' split) <;> simp

@[simp] theorem lendStall_fuses (s : State) : (lendStall s).fuses = s.fuses := by simp [lendStall]
@[simp] theorem lend_fuses (s : State) : (lend s).fuses = s.fuses := by simp [lend]
@[simp] theorem grantBlock_fuses (r : Fin 32) (src : CreditSrc) (s : State) : (grantBlock r src s).fuses = s.fuses := by simp [grantBlock]

@[simp] theorem grantNext_fuses (s : State) (l : List (Fin 32)) : (grantNext s l).fuses = s.fuses := by
  induction l generalizing s with
  | nil => rfl
  | cons r l ih => unfold grantNext; (repeat' split) <;> simp [ih]

@[simp] theorem returnCredits_fuses (r : Fin 32) (s : State) : (returnCredits r s).fuses = s.fuses := by simp [returnCredits]
@[simp] theorem freshCell_fuses (onDie : Bool) (s : State) : (freshCell onDie s).2.fuses = s.fuses := by simp [freshCell]
@[simp] theorem watermark_fuses (q : Fin 512) (s : State) : (watermark q s).fuses = s.fuses := by simp [watermark]
@[simp] theorem settleQueue_fuses (q : Fin 512) (s : State) : (settleQueue q s).fuses = s.fuses := by simp [settleQueue]
@[simp] theorem handBack_fuses (cs : List PCell) (s : State) : (handBack cs s).fuses = s.fuses := by simp [handBack]
@[simp] theorem owePipeGap_fuses (r : Fin 32) (s : State) : (owePipeGap r s).fuses = s.fuses := by simp [owePipeGap]

@[simp] theorem rewindOpen_fuses (r : Fin 32) (s : State) : (rewindOpen r s).fuses = s.fuses := by
  fun_cases rewindOpen r s <;> simp +zetaDelta

@[simp] theorem takeCell_fuses (r : Fin 32) (s : State) : (takeCell r s).2.fuses = s.fuses := by
  unfold takeCell
  dsimp only
  (repeat' split) <;> simp

@[simp] theorem oversize_fuses (r : Fin 32) (q : Fin 512) (s : State) : (oversize r q s).fuses = s.fuses := by simp [oversize]
@[simp] theorem openPacket_fuses (q : Fin 512) (c : PCell) (s : State) : (openPacket q c s).fuses = s.fuses := by simp [openPacket]

@[simp] theorem writeCells_fuses (r : Fin 32) (q : Fin 512) (k : Nat) (s : State) : (writeCells r q k s).fuses = s.fuses := by
  induction k generalizing s with
  | zero => rfl
  | succ k ih =>
    have taken {c t} (h : takeCell r s = (c, t)) : t.fuses = s.fuses := snd_fuses h (takeCell_fuses r s)
    unfold writeCells
    dsimp only
    (repeat' split) <;> simp_all

@[simp] theorem producerWrite_fuses (r : Fin 32) (s : State) : (producerWrite r s).fuses = s.fuses := by
  fun_cases producerWrite r s <;> simp +zetaDelta

@[simp] theorem commitOpen_fuses (r : Fin 32) (slate : List Byte) (s : State) : (commitOpen r slate s).fuses = s.fuses := by
  fun_cases commitOpen r slate s <;> simp +zetaDelta

@[simp] theorem releasePacket_fuses (q : Fin 512) (s : State) : (releasePacket q s).fuses = s.fuses := by
  fun_cases releasePacket q s <;> simp

@[simp] theorem setMark_fuses (r : Fin 32) (s : State) : (setMark r s).fuses = s.fuses := by fun_cases setMark r s <;> simp
@[simp] theorem rewindToMark_fuses (r : Fin 32) (s : State) : (rewindToMark r s).fuses = s.fuses := by fun_cases rewindToMark r s <;> simp
@[simp] theorem walk_fuses (n : Nat) (s : State) : (walk n s).fuses = s.fuses := by simp [walk]
@[simp] theorem freeBytes_fuses (k : Nat) (s : State) : (freeBytes k s).2.fuses = s.fuses := by simp [freeBytes]
@[simp] theorem snapshotCell_fuses (s : State) : (snapshotCell s).fuses = s.fuses := by simp [snapshotCell]
@[simp] theorem ensureSnap_fuses (s : State) : (ensureSnap s).fuses = s.fuses := by simp [ensureSnap]
@[simp] theorem patrol_fuses (flaw : CellFlaw) (s : State) : (patrol flaw s).fuses = s.fuses := by simp [patrol]
@[simp] theorem listPreserving_fuses (s : State) : (listPreserving s).fuses = s.fuses := by simp [listPreserving]

/-! ### Queue and pool objects -/

@[simp] theorem QReg.write_fuses (q : Fin 512) (r : QReg) (v : Val) (s : State) : (QReg.write q r v s).fuses = s.fuses := by
  unfold QReg.write
  dsimp only
  (repeat' split) <;> simp

@[simp] theorem PoolReg.write_fuses (r : PoolReg) (v : Val) (s : State) : (PoolReg.write r v s).fuses = s.fuses := by
  fun_cases PoolReg.write r v s <;> simp +zetaDelta

/-! ### Stamping -/

@[simp] theorem fallBack_fuses (i : Fin 18) (s : State) : (fallBack i s).fuses = s.fuses := by simp [fallBack]

@[simp] theorem triggerOf_fuses (i : Fin 18) (start : Option FrameStart) (s : State) : (triggerOf i start s).2.fuses = s.fuses := by
  fun_cases triggerOf i start s <;> simp

@[simp] theorem startBase_fuses (i : Fin 18) (start : Option FrameStart) (group : Option StampMark) (s : State) :
    (startBase i start group s).2.fuses = s.fuses := by
  fun_cases startBase i start group s with
  | case1 => rfl
  | case2 _ _ h | case3 _ h => exact snd_fuses h (triggerOf_fuses i start s)

@[simp] theorem startLookup_fuses (i : Fin 18) (start : Option FrameStart) (base : StampMark) (s : State) :
    (startLookup i start base s).2.fuses = s.fuses := by
  fun_cases startLookup i start base s <;> simp

@[simp] theorem startMark_fuses (i : Fin 18) (start : Option FrameStart) (group : Option StampMark) (s : State) :
    (startMark i start group s).2.fuses = s.fuses := by
  simp [startMark]

@[simp] theorem stampsOf_fuses (i : Fin 18) (m : StampMark) (stop : FrameEnd) (s : State) : (stampsOf i m stop s).2.fuses = s.fuses := by
  fun_cases stampsOf i m stop s <;> simp

/-! ### Pipelines -/

@[simp] theorem closePacket_fuses (p : Fin 16) (c : Closed) (s : State) : (closePacket p c s).fuses = s.fuses := by simp [closePacket]

@[simp] theorem logSlate_fuses (p : Fin 16) (src : Fin 18) (epoch : BitVec 16) (s : State) : (logSlate p src epoch s).fuses = s.fuses := by
  simp [logSlate]

@[simp] theorem rewindFrame_fuses (p : Fin 16) (a : PktAcct) (s : State) : (rewindFrame p a s).fuses = s.fuses := by
  fun_cases rewindFrame p a s <;> simp

@[simp] theorem packetLost_fuses (p : Fin 16) (s : State) : (packetLost p s).fuses = s.fuses := by simp [packetLost]
@[simp] theorem closeBatch_fuses (p : Fin 16) (a : PktAcct) (s : State) : (closeBatch p a s).fuses = s.fuses := by simp [closeBatch]
@[simp] theorem settleBatch_fuses (p : Fin 16) (s : State) : (settleBatch p s).fuses = s.fuses := by fun_cases settleBatch p s <;> simp

@[simp] theorem closeImage_fuses (p : Fin 16) (s : State) : (closeImage p s).fuses = s.fuses := by
  fun_cases closeImage p s <;> simp +zetaDelta

@[simp] theorem settleImage_fuses (p : Fin 16) (s : State) : (settleImage p s).fuses = s.fuses := by simp [settleImage]
@[simp] theorem settlePipe_fuses (p : Fin 16) (s : State) : (settlePipe p s).fuses = s.fuses := by simp [settlePipe]
@[simp] theorem takeEffect_fuses (p : Fin 16) (s : State) : (takeEffect p s).fuses = s.fuses := by simp [takeEffect]

@[simp] theorem beginEpoch_fuses (p : Fin 16) (src : Fin 18) (frame : BitVec 16) (s : State) : (beginEpoch p src frame s).fuses = s.fuses := by
  simp [beginEpoch]

@[simp] theorem openEpoch_fuses (p : Fin 16) (s : State) : (openEpoch p s).fuses = s.fuses := by fun_cases openEpoch p s <;> simp

@[simp] theorem pipeStart_fuses (p : Fin 16) (i : Fin 18) (frame : BitVec 16) (s : State) : (pipeStart p i frame s).1.fuses = s.fuses := by
  fun_cases pipeStart p i frame s <;> simp +zetaDelta

@[simp] theorem countCorrected_fuses (p : Fin 16) (n : Nat) (s : State) : (countCorrected p n s).fuses = s.fuses := by simp [countCorrected]

@[simp] theorem countBad_fuses (p : Fin 16) (ws : List Nat) (s : State) : (countBad p ws s).fuses = s.fuses := by
  unfold countBad
  dsimp only
  (repeat' split) <;> simp

@[simp] theorem frontStages_fuses (p : Fin 16) (g : Shape) (parts : List (List Nat)) (s : State) : (frontStages p g parts s).2.2.fuses = s.fuses := by
  simp [frontStages]

@[simp] theorem holdExposure_fuses (p : Fin 16) (g : Shape) (e : Nat) (parts : List (List Nat)) (s : State) :
    (holdExposure p g e parts s).fuses = s.fuses := by
  simp [holdExposure]

@[simp] theorem stage4_fuses (p : Fin 16) (g : Shape) (xs : List (Nat × Bool)) (bad : List Bool) (s : State) :
    (stage4 p g xs bad s).2.fuses = s.fuses := by
  unfold stage4
  dsimp only
  split <;> simp

@[simp] theorem nextLap_fuses (p : Fin 16) (g : Shape) (s : State) : (nextLap p g s).fuses = s.fuses := by simp [nextLap]
@[simp] theorem dropLap_fuses (p : Fin 16) (g : Shape) (s : State) : (dropLap p g s).fuses = s.fuses := by simp [dropLap]

@[simp] theorem fillStream_fuses (p : Fin 16) (r : Fin 5) (w : Nat) (bad : Bool) (s : State) : (fillStream p r w bad s).fuses = s.fuses := by
  simp [fillStream]

@[simp] theorem runStages_fuses (p : Fin 16) (g : Shape) (parts : List (List Nat)) (s : State) : (runStages p g parts s).2.2.2.fuses = s.fuses := by
  simp [runStages]

@[simp] theorem countSpectrum_fuses (p : Fin 16) (rows : List (List Cand)) (s : State) : (countSpectrum p rows s).fuses = s.fuses := by
  simp [countSpectrum]

@[simp] theorem reachStage8_fuses (p : Fin 16) (w : Work) (s : State) : (reachStage8 p w s).fuses = s.fuses := by
  fun_cases reachStage8 p w s <;> simp

@[simp] theorem advance_fuses (p : Fin 16) (s : State) : (advance p s).fuses = s.fuses := by fun_cases advance p s <;> simp

@[simp] theorem deliver_fuses (p : Fin 16) (i : Fin 18) (fs : List Frame) (parts : List (List Nat)) (st : Stamps) (s : State) :
    (deliver p i fs parts st s).fuses = s.fuses := by
  simp [deliver]

@[simp] theorem undoFrame_fuses (p : Fin 16) (i : Fin 18) (s : State) : (undoFrame p i s).fuses = s.fuses := by
  fun_cases undoFrame p i s with
  | case4 begun s₁ s₂ w _ _ mine s₃ _ s₄ =>
    have h₄ : s₄.fuses = s₃.fuses := by unfold s₄; (repeat' split) <;> simp
    simp [h₄, s₃, s₂, s₁]
  | _ => simp +zetaDelta

/-! ### Stage 8 and the Tally engines -/

@[simp] theorem popWork_fuses (p : Fin 16) (s : State) : (popWork p s).fuses = s.fuses := by simp [popWork]
@[simp] theorem updWork_fuses (p : Fin 16) (f : Work → Work) (s : State) : (updWork p f s).fuses = s.fuses := by simp [updWork]

@[simp] theorem keepRecord_fuses (p : Fin 16) (fofs : Nat) (place : RecPlace) (w : Work) (s : State) :
    (keepRecord p fofs place w s).fuses = s.fuses := by
  unfold keepRecord
  dsimp only
  (repeat' split) <;> simp

@[simp] theorem logFrame_fuses (p : Fin 16) (w : Work) (s : State) : (logFrame p w s).fuses = s.fuses := by simp [logFrame]
@[simp] theorem feed_fuses (p : Fin 16) (s : State) : (feed p s).fuses = s.fuses := by fun_cases feed p s <;> simp +zetaDelta
@[simp] theorem packFrame_fuses (p : Fin 16) (w : Work) (s : State) : (packFrame p w s).fuses = s.fuses := by simp [packFrame]
@[simp] theorem truncate_fuses (p : Fin 16) (s : State) : (truncate p s).fuses = s.fuses := by fun_cases truncate p s <;> simp

@[simp] theorem openBatch_fuses (p : Fin 16) (w : Work) (s : State) : (openBatch p w s).fuses = s.fuses := by
  fun_cases openBatch p w s <;> simp

theorem writeEvent_fuses {p : Fin 16} {w : Work} {c : Cand} {s t : State} (h : writeEvent p w c s = some t) : t.fuses = s.fuses := by
  unfold writeEvent at h
  dsimp only at h
  (repeat' split at h) <;> cases h <;> simp

@[simp] theorem offerRow_fuses (p : Fin 16) (cs : List Cand) (s : State) : (offerRow p cs s).fuses = s.fuses := by
  induction cs generalizing s with
  | nil => simp [offerRow]
  | cons c cs ih =>
    unfold offerRow
    (repeat' split) <;> simp [ih]
    next h => exact writeEvent_fuses h

@[simp] theorem eventRow_fuses (p : Fin 16) (s : State) : (eventRow p s).fuses = s.fuses := by fun_cases eventRow p s <;> simp +zetaDelta

@[simp] theorem batchFrame_fuses (p : Fin 16) (w : Work) (s : State) : (batchFrame p w s).fuses = s.fuses := by
  fun_cases batchFrame p w s <;> simp +zetaDelta

@[simp] theorem stageFrame_fuses (p : Fin 16) (w : Work) (s : State) : (stageFrame p w s).fuses = s.fuses := by simp [stageFrame]
@[simp] theorem frameEnd_fuses (p : Fin 16) (s : State) : (frameEnd p s).fuses = s.fuses := by fun_cases frameEnd p s <;> simp

@[simp] theorem placeRecord_fuses (p : Fin 16) (n : Nat) (s : State) : (placeRecord p n s).fuses = s.fuses := by
  unfold placeRecord
  dsimp only
  (repeat' split) <;> simp

@[simp] theorem denseApply_fuses (p : Fin 16) (s : State) : (denseApply p s).fuses = s.fuses := by
  fun_cases denseApply p s <;> simp +zetaDelta

@[simp] theorem readoutDone_fuses (p : Fin 16) (s : State) : (readoutDone p s).fuses = s.fuses := by simp [readoutDone]
@[simp] theorem batchTimeout_fuses (p : Fin 16) (s : State) : (batchTimeout p s).fuses = s.fuses := by fun_cases batchTimeout p s <;> simp

@[simp] theorem commitRecord_fuses (p : Fin 16) (s : State) : (commitRecord p s).fuses = s.fuses := by
  unfold commitRecord
  dsimp only
  (repeat' split) <;> simp

@[simp] theorem commitData_fuses (p : Fin 16) (s : State) : (commitData p s).fuses = s.fuses := by
  fun_cases commitData p s <;> simp +zetaDelta

@[simp] theorem packetCommit_fuses (r : Fin 32) (s : State) : (packetCommit r s).fuses = s.fuses := by fun_cases packetCommit r s <;> simp
@[simp] theorem writeOut_fuses (r : Fin 32) (s : State) : (writeOut r s).fuses = s.fuses := by simp [writeOut]
@[simp] theorem rewindData_fuses (p : Fin 16) (s : State) : (rewindData p s).fuses = s.fuses := by simp [rewindData]
@[simp] theorem abandonImage_fuses (p : Fin 16) (s : State) : (abandonImage p s).fuses = s.fuses := by simp [abandonImage]
@[simp] theorem abortRecords_fuses (p : Fin 16) (s : State) : (abortRecords p s).fuses = s.fuses := by simp [abortRecords]
@[simp] theorem abortPipe_fuses (p : Fin 16) (s : State) : (abortPipe p s).fuses = s.fuses := by simp [abortPipe]

/-! ### Pipeline objects -/

@[simp] theorem writeCfg_fuses (p : Fin 16) (f : PipeCfg → PipeCfg) (s : State) : (writeCfg p f s).fuses = s.fuses := by simp [writeCfg]

@[simp] theorem writeTally_fuses (p : Fin 16) (f : TallySet → TallySet) (s : State) : (writeTally p f s).fuses = s.fuses := by
  simp [writeTally]

@[simp] theorem PipeReg.write_fuses (p : Fin 16) (r : PipeReg) (v : Val) (s : State) : (PipeReg.write p r v s).fuses = s.fuses := by
  fun_cases PipeReg.write p r v s <;> simp +zetaDelta

/-! ### Heads and sources -/

@[simp] theorem sendOn_fuses (ls : List (Fin 64)) (x : BitVec 256) (s : State) : (sendOn ls x s).fuses = s.fuses := by simp [sendOn]
@[simp] theorem wakeLane_fuses (n : Fin 64) (s : State) : (wakeLane n s).fuses = s.fuses := by simp [wakeLane]
@[simp] theorem wakeDown_fuses (p : Fin 16) (s : State) : (wakeDown p s).fuses = s.fuses := by simp [wakeDown]
@[simp] theorem clearFrame_fuses (h : Fin 16) (s : State) : (clearFrame h s).fuses = s.fuses := by simp [clearFrame]
@[simp] theorem owesGap_fuses (i : Fin 18) (s : State) : (owesGap i s).fuses = s.fuses := by fun_cases owesGap i s <;> simp
@[simp] theorem takeIdle_fuses (i : Fin 18) (s : State) : (takeIdle i s).fuses = s.fuses := by fun_cases takeIdle i s <;> simp +zetaDelta
@[simp] theorem finishStop_fuses (i : Fin 18) (s : State) : (finishStop i s).fuses = s.fuses := by simp [finishStop]
@[simp] theorem clearPcam_fuses (n : Fin 2) (s : State) : (clearPcam n s).fuses = s.fuses := by simp [clearPcam]

@[simp] theorem dropFrame_fuses (i : Fin 18) (s : State) : (dropFrame i s).fuses = s.fuses := by
  unfold dropFrame
  dsimp only
  (repeat' split) <;> simp

@[simp] theorem discardFrame_fuses (i : Fin 18) (s : State) : (discardFrame i s).fuses = s.fuses := by simp [discardFrame]
@[simp] theorem overrun_fuses (i : Fin 18) (s : State) : (overrun i s).fuses = s.fuses := by simp [overrun]
@[simp] theorem linkLoses_fuses (h : Fin 16) (s : State) : (linkLoses h s).2.fuses = s.fuses := by fun_cases linkLoses h s <;> simp
@[simp] theorem recheckHead_fuses (h : Fin 16) (s : State) : (recheckHead h s).fuses = s.fuses := by simp [recheckHead]

@[simp] theorem sendCommand_fuses (h : Fin 16) (op : Nat) (addr : BitVec 24) (value : BitVec 64) (s : State) :
    (sendCommand h op addr value s).fuses = s.fuses := by
  unfold sendCommand
  dsimp only
  (repeat' split) <;> simp

@[simp] theorem sendEntries_fuses (h : Fin 16) (es : List (BitVec 24 × BitVec 64)) (s : State) : (sendEntries h es s).fuses = s.fuses := by
  simp [sendEntries]

@[simp] theorem sendPending_fuses (h : Fin 16) (frame : BitVec 16) (s : State) : (sendPending h frame s).fuses = s.fuses := by
  fun_cases sendPending h frame s <;> simp +zetaDelta

@[simp] theorem takeRuns_fuses (i : Fin 18) (s : State) : (takeRuns i s).fuses = s.fuses := by simp [takeRuns]
@[simp] theorem countIdle_fuses (i : Fin 18) (s : State) : (countIdle i s).fuses = s.fuses := by simp [countIdle]

@[simp] theorem groupStart_fuses (i : Fin 18) (frame : BitVec 16) (s : State) : (groupStart i frame s).fuses = s.fuses := by
  unfold groupStart
  dsimp only
  (repeat' split) <;> simp

@[simp] theorem frameFlags_fuses (h : Fin 16) (p : Fin 16) (opening : Bool) (s : State) : (frameFlags h p opening s).fuses = s.fuses := by
  simp [frameFlags]

@[simp] theorem openRecord_fuses (h : Fin 16) (p : Fin 16) (f : FrameStart) (live : Bool) (s : State) :
    (openRecord h p f live s).fuses = s.fuses := by
  simp [openRecord]

@[simp] theorem countSkips_fuses (h : Fin 16) (f : FrameStart) (s : State) : (countSkips h f s).fuses = s.fuses := by simp [countSkips]

@[simp] theorem stampFrame_fuses (h : Fin 16) (f : FrameStart) (first : Bool) (s : State) : (stampFrame h f first s).fuses = s.fuses := by
  simp [stampFrame]

@[simp] theorem openFrame_fuses (h : Fin 16) (p : Fin 16) (f : FrameStart) (s : State) : (openFrame h p f s).fuses = s.fuses := by
  simp [openFrame]

@[simp] theorem startBlock_fuses (h : Fin 16) (p : Fin 16) (f : FrameStart) (s : State) : (startBlock h p f s).fuses = s.fuses := by
  fun_cases startBlock h p f s <;> simp +zetaDelta

@[simp] theorem putInput_fuses (h : Fin 16) (q : Fin 16) (g : Shape) (k : Nat) (m : Nat) (n : Nat) (s : State) :
    (putInput h q g k m n s).fuses = s.fuses := by
  simp [putInput]

@[simp] theorem dataBlock_fuses (h : Fin 16) (p : Fin 16) (x : BitVec 256) (s : State) : (dataBlock h p x s).fuses = s.fuses := by
  fun_cases dataBlock h p x s <;> simp

@[simp] theorem countFrame_fuses (i : Fin 18) (s : State) : (countFrame i s).fuses = s.fuses := by simp [countFrame]

@[simp] theorem frameWhole_fuses (h : Fin 16) (s : State) : (frameWhole h s).fuses = s.fuses := by
  unfold frameWhole
  dsimp only
  (repeat' split) <;> simp

@[simp] theorem endBlock_fuses (h : Fin 16) (p : Fin 16) (e : FrameEnd) (s : State) : (endBlock h p e s).fuses = s.fuses := by
  fun_cases endBlock h p e s <;> simp +zetaDelta

@[simp] theorem startTake_fuses (i : Fin 18) (s : State) : (startTake i s).fuses = s.fuses := by
  unfold startTake
  dsimp only
  (repeat' split) <;> simp

@[simp] theorem stopTake_fuses (i : Fin 18) (s : State) : (stopTake i s).fuses = s.fuses := by fun_cases stopTake i s <;> simp

@[simp] theorem abortTake_fuses (i : Fin 18) (s : State) : (abortTake i s).fuses = s.fuses := by
  unfold abortTake
  dsimp only
  (repeat' split) <;> simp

@[simp] theorem pcamStart_fuses (n : Fin 2) (s : State) : (pcamStart n s).fuses = s.fuses := by simp [pcamStart]
@[simp] theorem lineEnd_fuses (n : Fin 2) (s : State) : (lineEnd n s).fuses = s.fuses := by simp [lineEnd]

@[simp] theorem pcamEdge_fuses (n : Fin 2) (lsync : Bool) (dval : Bool) (d : Nat) (s : State) : (pcamEdge n lsync dval d s).fuses = s.fuses := by
  fun_cases pcamEdge n lsync dval d s <;> simp +zetaDelta

@[simp] theorem pcamEnd_fuses (n : Fin 2) (s : State) : (pcamEnd n s).fuses = s.fuses := by fun_cases pcamEnd n s <;> simp +zetaDelta
@[simp] theorem pcamLost_fuses (n : Fin 2) (s : State) : (pcamLost n s).fuses = s.fuses := by simp [pcamLost]

@[simp] theorem SrcReg.write_fuses (i : Fin 18) (r : SrcReg) (v : Val) (s : State) : (SrcReg.write i r v s).fuses = s.fuses := by
  fun_cases SrcReg.write i r v s <;> simp +zetaDelta

@[simp] theorem commandReplied_fuses (h : Fin 16) (x : BitVec 256) (s : State) : (commandReplied h x s).fuses = s.fuses := by
  simp [commandReplied]

/-! ### Links and ports -/

@[simp] theorem setPState_fuses (p : Fin 16) (x : PState) (s : State) : (setPState p x s).fuses = s.fuses := by
  fun_cases setPState p x s <;> simp +zetaDelta

@[simp] theorem newAttempt_fuses (p : Fin 16) (s : State) : (newAttempt p s).fuses = s.fuses := by
  fun_cases newAttempt p s <;> simp +zetaDelta

@[simp] theorem sendPort_fuses (p : Fin 16) (x : BitVec 256) (s : State) : (sendPort p x s).fuses = s.fuses := by simp [sendPort]
@[simp] theorem settlePort_fuses (h : Fin 16) (p : Fin 16) (s : State) : (settlePort h p s).fuses = s.fuses := by simp [settlePort]
@[simp] theorem settlePause_fuses (s : State) : (settlePause s).fuses = s.fuses := by simp [settlePause]

@[simp] theorem sendTrigger_fuses (h : Fin 16) (line cue : Nat) (s : State) : (sendTrigger h line cue s).2.fuses = s.fuses := by
  unfold sendTrigger
  dsimp only
  split
  · simp
  · exact State.each_fuses _ _ _ fun _ _ => rfl

@[simp] theorem dropSlots_fuses (p : Fin 16) (s : State) : (dropSlots p s).fuses = s.fuses := State.each_fuses _ _ _ fun _ _ => rfl

@[simp] theorem portDown_fuses (p : Fin 16) (n : Fin 64) (s : State) : (portDown p n s).fuses = s.fuses := by
  unfold portDown
  dsimp only
  (repeat' split) <;> simp

@[simp] theorem startReplay_fuses (p : Fin 16) (move : Bool) (role : Nat) (newLid : Nat) (failed : Option (Fin 64)) (s : State) :
    (startReplay p move role newLid failed s).fuses = s.fuses := by
  unfold startReplay
  dsimp only
  (repeat' split) <;> simp

@[simp] theorem failover_fuses (p : Fin 16) (n : Fin 64) (s : State) : (failover p n s).fuses = s.fuses := by simp [failover]
@[simp] theorem memberLost_fuses (n : Fin 64) (s : State) : (memberLost n s).fuses = s.fuses := by fun_cases memberLost n s <;> simp
@[simp] theorem settleUsIdle_fuses (n : Fin 64) (s : State) : (settleUsIdle n s).fuses = s.fuses := by fun_cases settleUsIdle n s <;> simp

@[simp] theorem memberChanged_fuses (n : Fin 64) (s : State) : (memberChanged n s).fuses = s.fuses := by
  fun_cases memberChanged n s <;> simp

@[simp] theorem moveLane_fuses (n : Fin 64) (t : TState) (s : State) : (moveLane n t s).fuses = s.fuses := by simp [moveLane]
@[simp] theorem retrain_fuses (n : Fin 64) (s : State) : (retrain n s).fuses = s.fuses := by simp [retrain]
@[simp] theorem orderRetrain_fuses (n : Fin 64) (s : State) : (orderRetrain n s).fuses = s.fuses := by simp [orderRetrain]
@[simp] theorem standbyErrs_fuses (p : Fin 16) (n : Fin 64) (s : State) : (standbyErrs p n s).fuses = s.fuses := by simp [standbyErrs]
@[simp] theorem standbyFails_fuses (p : Fin 16) (n : Fin 64) (s : State) : (standbyFails p n s).fuses = s.fuses := by simp [standbyFails]

@[simp] theorem failThenRetrain_fuses (p : Fin 16) (n : Fin 64) (s : State) : (failThenRetrain p n s).fuses = s.fuses := by
  simp [failThenRetrain]

@[simp] theorem payOwed_fuses (p : Fin 16) (s : State) : (payOwed p s).fuses = s.fuses := by simp [payOwed]
@[simp] theorem enterIdle_fuses (n : Fin 64) (s : State) : (enterIdle n s).fuses = s.fuses := by simp [enterIdle]

@[simp] theorem idleAnnounced_fuses (n : Fin 64) (x : BitVec 256) (s : State) : (idleAnnounced n x s).fuses = s.fuses := by
  simp [idleAnnounced]

@[simp] theorem lossDeclared_fuses (n : Fin 64) (s : State) : (lossDeclared n s).fuses = s.fuses := by simp [lossDeclared]
@[simp] theorem inputFalls_fuses (n : Fin 64) (s : State) : (inputFalls n s).fuses = s.fuses := by simp [inputFalls]
@[simp] theorem inputRises_fuses (n : Fin 64) (s : State) : (inputRises n s).fuses = s.fuses := by simp [inputRises]
@[simp] theorem exitFails_fuses (n : Fin 64) (s : State) : (exitFails n s).fuses = s.fuses := by simp [exitFails]
@[simp] theorem lockLost_fuses (n : Fin 64) (s : State) : (lockLost n s).fuses = s.fuses := by fun_cases lockLost n s <;> simp +zetaDelta
@[simp] theorem tryExchange_fuses (n : Fin 64) (s : State) : (tryExchange n s).fuses = s.fuses := by simp [tryExchange]
@[simp] theorem tryActive_fuses (n : Fin 64) (s : State) : (tryActive n s).fuses = s.fuses := by simp [tryActive]

@[simp] theorem capsReceived_fuses (n : Fin 64) (x : BitVec 256) (s : State) : (capsReceived n x s).fuses = s.fuses := by
  simp [capsReceived]

@[simp] theorem ackReceived_fuses (n : Fin 64) (x : BitVec 256) (s : State) : (ackReceived n x s).fuses = s.fuses := by simp [ackReceived]

@[simp] theorem tryStandby_fuses (p : Fin 16) (trialPassed : Bool) (s : State) : (tryStandby p trialPassed s).fuses = s.fuses := by
  fun_cases tryStandby p trialPassed s <;> simp

@[simp] theorem formPort_fuses (p : Fin 16) (s : State) : (formPort p s).fuses = s.fuses := by fun_cases formPort p s <;> simp +zetaDelta
@[simp] theorem slotSeen_fuses (p : Fin 16) (n : Fin 64) (s : State) : (slotSeen p n s).fuses = s.fuses := by simp [slotSeen]

@[simp] theorem streamBreaks_fuses (p : Fin 16) (n : Fin 64) (s : State) : (streamBreaks p n s).fuses = s.fuses := by
  unfold streamBreaks
  dsimp only
  (repeat' split) <;> simp

@[simp] theorem badCodeword_fuses (n : Fin 64) (s : State) : (badCodeword n s).fuses = s.fuses := by
  fun_cases badCodeword n s <;> simp +zetaDelta

@[simp] theorem hearAlignment_fuses (n : Fin 64) (levels : List Level) (exit : Bool) (s : State) :
    (hearAlignment n levels exit s).fuses = s.fuses := by
  fun_cases hearAlignment n levels exit s <;> simp +zetaDelta

@[simp] theorem hearTraining_fuses (n : Fin 64) (levels : List Level) (spaced : Bool) (wish : Nat) (s : State) :
    (hearTraining n levels spaced wish s).fuses = s.fuses := by
  simp [hearTraining]

@[simp] theorem relay_fuses (n : Fin 64) (levels : List Level) (s : State) : (relay n levels s).fuses = s.fuses := by simp [relay]

@[simp] theorem windowEnds_fuses (n : Fin 64) (s : State) : (windowEnds n s).fuses = s.fuses := by
  fun_cases windowEnds n s <;> simp +zetaDelta

@[simp] theorem timeoutSeen_fuses (n : Fin 64) (s : State) : (timeoutSeen n s).fuses = s.fuses := by
  unfold timeoutSeen
  dsimp only
  (repeat' split) <;> simp

@[simp] theorem replayStarts_fuses (n : Fin 64) (x : BitVec 256) (s : State) : (replayStarts n x s).fuses = s.fuses := by
  fun_cases replayStarts n x s with
  | case5 p _ q r _ _ _ here z till s₁ s₂ =>
    have h₂ : s₂.fuses = s.fuses := by unfold s₂; split <;> simp [s₁]
    rw [payOwed_fuses, h₂]
  | _ => simp

@[simp] theorem laneFault_fuses (n : Fin 64) (x : BitVec 256) (s : State) : (laneFault n x s).fuses = s.fuses := by
  fun_cases laneFault n x s <;> simp

@[simp] theorem upTimeExpires_fuses (p : Fin 16) (s : State) : (upTimeExpires p s).fuses = s.fuses := by simp [upTimeExpires]
@[simp] theorem idleMaxExpires_fuses (p : Fin 16) (s : State) : (idleMaxExpires p s).fuses = s.fuses := by simp [idleMaxExpires]
@[simp] theorem downIdles_fuses (p : Fin 16) (s : State) : (downIdles p s).fuses = s.fuses := by simp [downIdles]
@[simp] theorem enablePort_fuses (p : Fin 16) (s : State) : (enablePort p s).fuses = s.fuses := by simp [enablePort]

@[simp] theorem releasePort_fuses (p : Fin 16) (s : State) : (releasePort p s).fuses = s.fuses := by
  unfold releasePort
  dsimp only
  (repeat' split) <;> simp

@[simp] theorem PortReg.write_fuses (p : Fin 16) (r : PortReg) (v : Val) (s : State) : (PortReg.write p r v s).fuses = s.fuses := by
  fun_cases PortReg.write p r v s <;> simp +zetaDelta

@[simp] theorem switchInput_fuses (n : Fin 64) (s : State) : (switchInput n s).fuses = s.fuses := by simp [switchInput]

@[simp] theorem writeLane_fuses (n : Fin 64) (r : LaneReg) (v : Val) (s : State) : (writeLane n r v s).fuses = s.fuses := by
  fun_cases writeLane n r v s <;> simp +zetaDelta

/-! ### Frames under commands -/

@[simp] theorem startSeen_fuses (p : Fin 16) (x : BitVec 256) (s : State) : (startSeen p x s).fuses = s.fuses := by
  fun_cases startSeen p x s <;> simp +zetaDelta

@[simp] theorem dataSeen_fuses (p : Fin 16) (x : BitVec 256) (s : State) : (dataSeen p x s).fuses = s.fuses := by
  fun_cases dataSeen p x s <;> simp

@[simp] theorem endSeen_fuses (p : Fin 16) (x : BitVec 256) (s : State) : (endSeen p x s).fuses = s.fuses := by
  fun_cases endSeen p x s <;> simp

@[simp] theorem messageSeen_fuses (p : Fin 16) (x : BitVec 256) (s : State) : (messageSeen p x s).fuses = s.fuses := by
  fun_cases messageSeen p x s <;> simp

@[simp] theorem replySeen_fuses (p : Fin 16) (x : BitVec 256) (s : State) : (replySeen p x s).fuses = s.fuses := by
  fun_cases replySeen p x s <;> simp

@[simp] theorem frameTimeout_fuses (i : Fin 18) (s : State) : (frameTimeout i s).fuses = s.fuses := by fun_cases frameTimeout i s <;> simp

@[simp] theorem streamBad_fuses (p : Fin 16) (r : Fin 5) (w : Nat) (s : State) : (streamBad p r w s).fuses = s.fuses := by
  fun_cases streamBad p r w s <;> simp +zetaDelta

@[simp] theorem streamReturn_fuses (p : Fin 16) (r : Fin 5) (w : Nat) (bad : Bool) (s : State) : (streamReturn p r w bad s).fuses = s.fuses := by
  simp [streamReturn]

@[simp] theorem waitOverruns_fuses (s : State) : (waitOverruns s).fuses = s.fuses := by
  refine State.each_fuses _ _ _ fun p t => ?_
  (repeat' split) <;> simp

/-! ### The event router -/

@[simp] theorem updTask_fuses (t : Task) (f : TaskReg → TaskReg) (s : State) : (updTask t f s).fuses = s.fuses := by
  fun_cases updTask t f s <;> simp

@[simp] theorem dropTask_fuses (t : Task) (s : State) : (dropTask t s).fuses = s.fuses := by simp [dropTask]

@[simp] theorem clearActivation_fuses (t : Task) (at_ : Nat) (s : State) : (clearActivation t at_ s).fuses = s.fuses := by
  simp [clearActivation]

@[simp] theorem performTask_fuses (t : Task) (act : State → Option State) (s : State) (h : ∀ u, ∀ v ∈ act u, v.fuses = u.fuses) :
    (performTask t act s).fuses = s.fuses := by
  fun_cases performTask t act s with
  | case3 _ _ s₁ _ losers s₂ v hv => simp [h s₂ v hv, s₂, s₁]
  | _ => simp +zetaDelta

@[simp] theorem addCount_fuses (k : Fin 32) (n : Nat) (t : Nat) (s : State) : (addCount k n t s).fuses = s.fuses := by simp [addCount]

@[simp] theorem routerPublish_fuses (c : Fin 128) (s : State) : (routerPublish c s).fuses = s.fuses := by
  fun_cases routerPublish c s <;> simp +zetaDelta

@[simp] theorem counterIncrement_fuses (k : Fin 32) (s : State) : (counterIncrement k s).fuses = s.fuses := by simp [counterIncrement]
@[simp] theorem counterClear_fuses (k : Fin 32) (s : State) : (counterClear k s).fuses = s.fuses := by simp [counterClear]
@[simp] theorem herdTask_fuses (k : Fin 16) (on : Bool) (s : State) : (herdTask k on s).fuses = s.fuses := by simp [herdTask]

@[simp] theorem RouterReg.write_fuses (r : RouterReg) (v : Val) (s : State) : (RouterReg.write r v s).fuses = s.fuses := by
  cases r with
  | firedMap | recursionMap => exact State.each_fuses _ _ _ fun _ _ => rfl
  | _ => simp [RouterReg.write]

/-! ### Timebase, cues and the ring -/

@[simp] theorem driveTrig_fuses (n : Fin 32) (lvds : Bool) (d : Drive) (s : State) : (driveTrig n lvds d s).fuses = s.fuses := by
  simp [driveTrig]

@[simp] theorem restTrig_fuses (n : Fin 32) (s : State) : (restTrig n s).fuses = s.fuses := by simp [restTrig]

@[simp] theorem firePin_fuses (n : Fin 32) (detail : Nat) (s : State) : (firePin n detail s).2.fuses = s.fuses := by
  fun_cases firePin n detail s <;> simp

@[simp] theorem pulseStart_fuses (n : Fin 32) (s : State) : (pulseStart n s).fuses = s.fuses := by
  fun_cases pulseStart n s <;> simp +zetaDelta

@[simp] theorem pulseEnd_fuses (n : Fin 32) (s : State) : (pulseEnd n s).fuses = s.fuses := by simp [pulseEnd]
@[simp] theorem recordCue_fuses (i : Fin 18) (r : CueRec) (s : State) : (recordCue i r s).fuses = s.fuses := by simp [recordCue]

@[simp] theorem fireCue_fuses (k : BitVec 12) (value : BitVec 48) (late : Bool) (s : State) : (fireCue k value late s).fuses = s.fuses := by
  unfold fireCue
  dsimp only
  refine (State.each_fuses _ _ _ fun n t => ?_).trans ?_
  · split
    · rfl
    · simp
  · rw [State.ite_fuses, publishOn_fuses, ite_self]
    split
    · split <;> rename_i h <;> simp [snd_fuses h (sendTrigger_fuses _ _ _ s)]
    · rfl

@[simp] theorem advanceSeq_fuses (i : Fin 16) (s : State) : (advanceSeq i s).fuses = s.fuses := by simp [advanceSeq]

@[simp] theorem walkSeq_fuses (i : Fin 16) (owed : List (BitVec 48 × BitVec 48)) (now : Option (BitVec 48 × BitVec 48)) (k : Nat) (fresh : Bool)
    (s : State) : (walkSeq i owed now k fresh s).fuses = s.fuses := by
  induction k generalizing fresh s with
  | zero => rfl
  | succ k ih => unfold walkSeq; dsimp only; (repeat' split) <;> simp [ih]

@[simp] theorem runSeqs_fuses (now : Option (BitVec 48 × BitVec 48)) (s : State) : (runSeqs now s).fuses = s.fuses := by simp [runSeqs]
@[simp] theorem loadTb_fuses (v : BitVec 48) (s : State) : (loadTb v s).fuses = s.fuses := by simp [loadTb]
@[simp] theorem changeTb_fuses (v : BitVec 48) (s : State) : (changeTb v s).fuses = s.fuses := by simp [changeTb]
@[simp] theorem intoRing_fuses (v : BitVec 48) (s : State) : (intoRing v s).fuses = s.fuses := by simp [intoRing]
@[simp] theorem sourceChange_fuses (v : BitVec 48) (s : State) : (sourceChange v s).fuses = s.fuses := by simp [sourceChange]
@[simp] theorem sourceLoad_fuses (v : BitVec 48) (s : State) : (sourceLoad v s).fuses = s.fuses := by simp [sourceLoad]
@[simp] theorem lineEdge_fuses (line : Fin 16) (s : State) : (lineEdge line s).fuses = s.fuses := by simp [lineEdge]

@[simp] theorem openQuot_fuses (a : Int) (b : Nat) (s : State) : (openQuot a b s).2.fuses = s.fuses := by
  unfold openQuot
  dsimp only
  (repeat' split) <;> simp

@[simp] theorem mainsEdge_fuses (s : State) : (mainsEdge s).fuses = s.fuses := by
  unfold mainsEdge
  dsimp only
  (repeat' split) <;> simp

@[simp] theorem mainsPhase_fuses (s : State) : (mainsPhase s).fuses = s.fuses := by fun_cases mainsPhase s <;> simp
@[simp] theorem writeTbctl_fuses (w : Word) (s : State) : (writeTbctl w s).fuses = s.fuses := by simp [writeTbctl]
@[simp] theorem startSeq_fuses (i : Fin 16) (s : State) : (startSeq i s).fuses = s.fuses := by simp [startSeq]
@[simp] theorem stopSeq_fuses (i : Fin 16) (s : State) : (stopSeq i s).fuses = s.fuses := by simp [stopSeq]
@[simp] theorem setPtp_fuses (ns : Int) (s : State) : (setPtp ns s).fuses = s.fuses := by simp [setPtp]
@[simp] theorem servo_fuses (offset : Int) (s : State) : (servo offset s).fuses = s.fuses := by simp [servo]
@[simp] theorem ppsEdge_fuses (at64 : Nat) (s : State) : (ppsEdge at64 s).fuses = s.fuses := by simp [ppsEdge]

@[simp] theorem ringWord_fuses (w : BitVec 16) (clap : Bool) (at64 : Nat) (s : State) : (ringWord w clap at64 s).fuses = s.fuses := by
  simp [ringWord]

@[simp] theorem ppsRise_fuses (s : State) : (ppsRise s).fuses = s.fuses := by simp [ppsRise]
@[simp] theorem ringApply_fuses (s : State) : (ringApply s).fuses = s.fuses := by fun_cases ringApply s <;> simp +zetaDelta
@[simp] theorem loseRing_fuses (s : State) : (loseRing s).fuses = s.fuses := by simp [loseRing]
@[simp] theorem loadFromRing_fuses (tb : BitVec 48) (s : State) : (loadFromRing tb s).fuses = s.fuses := by simp [loadFromRing]
@[simp] theorem ringFrame_fuses (s : State) : (ringFrame s).fuses = s.fuses := by simp [ringFrame]
@[simp] theorem calMeasured_fuses (s : State) : (calMeasured s).fuses = s.fuses := by simp [calMeasured]
@[simp] theorem calEnds_fuses (rt : Nat) (s : State) : (calEnds rt s).fuses = s.fuses := by simp [calEnds]
@[simp] theorem driftSeen_fuses (rt : Nat) (s : State) : (driftSeen rt s).fuses = s.fuses := by simp [driftSeen]
@[simp] theorem writeArrayctl_fuses (w : Word) (s : State) : (writeArrayctl w s).fuses = s.fuses := by simp [writeArrayctl]

@[simp] theorem TbReg.write_fuses (r : TbReg) (v : Val) (s : State) : (TbReg.write r v s).fuses = s.fuses := by
  unfold TbReg.write
  dsimp only
  cases r with
  | tbctl | arrayctl | trigcfg => simp
  | seqctl => dsimp only; split <;> simp
  | _ => rfl

/-! ### Encoders -/

@[simp] theorem cmpPublish_fuses (n : Fin 16) (done : Bool) (s : State) : (cmpPublish n done s).fuses = s.fuses := by simp [cmpPublish]
@[simp] theorem updCmp_fuses (n : Fin 16) (f : Cmp → Cmp) (s : State) : (updCmp n f s).fuses = s.fuses := by simp [updCmp]
@[simp] theorem cmpFinish_fuses (n : Fin 16) (s : State) : (cmpFinish n s).fuses = s.fuses := by simp [cmpFinish]
@[simp] theorem cmpHit_fuses (n : Fin 16) (t : Nat) (late : Bool) (s : State) : (cmpHit n t late s).fuses = s.fuses := by simp [cmpHit]
@[simp] theorem heldPublish_fuses (n : Fin 16) (s : State) : (heldPublish n s).fuses = s.fuses := by simp [heldPublish]

@[simp] theorem cmpPass_fuses (n : Fin 16) (t : Nat) (crossing : Bool) (s : State) : (cmpPass n t crossing s).fuses = s.fuses := by
  simp [cmpPass]

@[simp] theorem listPass_fuses (n : Fin 16) (d : BitVec 48) (t k : Nat) (c : BitVec 48) (s : State) : (listPass n d t k c s).fuses = s.fuses := by
  induction k generalizing c s with
  | zero => rfl
  | succ k ih => unfold listPass; dsimp only; (repeat' split) <;> simp [ih]

@[simp] theorem cmpChange_fuses (n : Fin 16) (c : BitVec 48) (d : BitVec 48) (t : Nat) (s : State) : (cmpChange n c d t s).fuses = s.fuses := by
  simp [cmpChange]

@[simp] theorem cmpTest_fuses (n : Fin 16) (s : State) : (cmpTest n s).fuses = s.fuses := by simp [cmpTest]
@[simp] theorem cmpArm_fuses (n : Fin 16) (s : State) : (cmpArm n s).fuses = s.fuses := by simp [cmpArm]
@[simp] theorem countBy_fuses (n : Fin 16) (d : Int) (t : Nat) (s : State) : (countBy n d t s).fuses = s.fuses := by simp [countBy]
@[simp] theorem loadCount_fuses (n : Fin 16) (v : BitVec 48) (s : State) : (loadCount n v s).fuses = s.fuses := by simp [loadCount]
@[simp] theorem indexEvent_fuses (n : Fin 16) (t : Nat) (s : State) : (indexEvent n t s).fuses = s.fuses := by simp [indexEvent]
@[simp] theorem settleIndex_fuses (n : Fin 16) (t : Nat) (s : State) : (settleIndex n t s).fuses = s.fuses := by simp [settleIndex]
@[simp] theorem encEdge_fuses (n : Fin 16) (a : Bool) (b : Bool) (s : State) : (encEdge n a b s).fuses = s.fuses := by simp [encEdge]
@[simp] theorem encIndex_fuses (n : Fin 16) (level : Bool) (s : State) : (encIndex n level s).fuses = s.fuses := by simp [encIndex]

@[simp] theorem countPhase_fuses (n : Fin 16) (p : Nat) (t : Nat) (s : State) : (countPhase n p t s).fuses = s.fuses := by
  fun_cases countPhase n p t s <;> simp +zetaDelta

@[simp] theorem analogSample_fuses (n : Fin 16) (sn : Int) (cs : Int) (s : State) : (analogSample n sn cs s).fuses = s.fuses := by
  simp [analogSample]

@[simp] theorem EncReg.write_fuses (n : Fin 16) (r : EncReg) (v : Val) (s : State) : (EncReg.write n r v s).fuses = s.fuses := by
  fun_cases EncReg.write n r v s <;> simp +zetaDelta

/-! ### The DMA engine -/

@[simp] theorem dmaCause_fuses (c : Fin 512) (bit : Nat) (s : State) : (dmaCause c bit s).fuses = s.fuses := by simp [dmaCause]
@[simp] theorem dmaHalt_fuses (c : Fin 512) (h : Halt) (pc : Nat) (s : State) : (dmaHalt c h pc s).fuses = s.fuses := by simp [dmaHalt]

@[simp] theorem dmaBad_fuses (c : Fin 512) (pc : Nat) (opc : Nat) (cause : BadCause) (addr : Nat) (s : State) :
    (dmaBad c pc opc cause addr s).fuses = s.fuses := by
  simp [dmaBad]

@[simp] theorem Flight.mark_fuses (f : Flight) (c : Fin 512) (cause : BadCause) (addr : Nat) (s : State) :
    (Flight.mark f c cause addr s).2.fuses = s.fuses := by
  fun_cases Flight.mark f c cause addr s <;> simp

@[simp] theorem poisonRead_fuses (q : Fin 512) (cells : List PCell) (s : State) : (poisonRead q cells s).fuses = s.fuses := by
  fun_cases poisonRead q cells s <;> simp +zetaDelta

@[simp] theorem readInside_fuses (c : Fin 512) (sp : Space) (take : Option Nat) (a : Nat) (k : Nat) (s : State) :
    (readInside c sp take a k s).2.fuses = s.fuses := by
  unfold readInside
  dsimp only
  (repeat' split) <;> simp

@[simp] theorem writeInside_fuses (sp : Space) (a : Nat) (bs : List Byte) (bad : List Nat) (s : State) :
    (writeInside sp a bs bad s).fuses = s.fuses := by
  fun_cases writeInside sp a bs bad s <;> simp

@[simp] theorem sendReads_fuses (c : Fin 512) (a k : Nat) (s : State) : (sendReads c a k s).fuses = s.fuses :=
  foldl_fuses _ _ _ fun _ _ => rfl

@[simp] theorem sendWrites_fuses (c : Fin 512) (a : Nat) (bs : List Byte) (bad : List Nat) (s : State) : (sendWrites c a bs bad s).fuses = s.fuses :=
  foldl_fuses _ _ _ fun _ _ => rfl

theorem issueOne_fuses {c : Fin 512} {s t : State} (h : issueOne c s = some t) : t.fuses = s.fuses := by
  unfold issueOne at h
  dsimp only at h
  (repeat' split at h) <;> cases h <;> simp

@[simp] theorem issueRound_fuses (cls : Fin 4) (s : State) : (issueRound cls s).2.fuses = s.fuses := by
  unfold issueRound
  refine List.foldlRecOn (motive := fun r : Bool × State => r.2.fuses = s.fuses) _ _ rfl fun r hr c _ => ?_
  dsimp only
  split
  next h => exact (issueOne_fuses h).trans hr
  next => exact hr

@[simp] theorem issueClass_fuses (cls : Fin 4) (k : Nat) (s : State) : (issueClass cls k s).fuses = s.fuses := by
  have hround := issueRound_fuses cls
  -- The round is made opaque first: unfolded by its equation, `issueClass` has Lean evaluate a round over all 512 channels.
  delta issueClass issueClass._f
  generalize issueRound = round at hround ⊢
  induction k generalizing s with
  | zero => rfl
  | succ k ih =>
    dsimp only
    split
    next h => exact (ih _).trans (snd_fuses h (hround s))
    next => rfl

@[simp] theorem issueAll_fuses (s : State) : (issueAll s).fuses = s.fuses := by simp [issueAll]

@[simp] theorem writePieces_fuses (c : Fin 512) (ps : List Piece) (f : Flight) (ord : Bool) (s : State) :
    (writePieces c ps f ord s).2.2.2.fuses = s.fuses := by
  induction ps generalizing f ord s with
  | nil => rfl
  | cons p ps ih => unfold writePieces; dsimp only; (repeat' split) <;> simp [ih]

@[simp] theorem writeFlights_fuses (c : Fin 512) (fs : List Flight) (ord : Bool) (s : State) : (writeFlights c fs ord s).2.fuses = s.fuses := by
  induction fs generalizing ord s with
  | nil => rfl
  | cons f fs ih => simp [writeFlights, ih]

@[simp] theorem writeAll_fuses (c : Fin 512) (s : State) : (writeAll c s).fuses = s.fuses := by simp [writeAll]

@[simp] theorem releaseTaken_fuses (c : Fin 512) (next : Nat) (s : State) : (releaseTaken c next s).fuses = s.fuses := by
  fun_cases releaseTaken c next s <;> simp +zetaDelta

@[simp] theorem completeStep_fuses (c : Fin 512) (f : Flight) (s : State) : (completeStep c f s).fuses = s.fuses := by simp [completeStep]

@[simp] theorem retire_fuses (c : Fin 512) (k : Nat) (s : State) : (retire c k s).fuses = s.fuses := by
  induction k generalizing s with
  | zero => rfl
  | succ k ih => unfold retire; (repeat' split) <;> simp [ih]

@[simp] theorem signalActs_fuses (c : Fin 512) (w : BitVec 64) (pc : Nat) (s : State) : (signalActs c w pc s).fuses = s.fuses := by
  unfold signalActs
  dsimp only
  (repeat' split) <;> simp

@[simp] theorem fenceActs_fuses (c : Fin 512) (s : State) : (fenceActs c s).fuses = s.fuses := by
  fun_cases fenceActs c s <;> simp +zetaDelta

@[simp] theorem fetchMore_fuses (c : Fin 512) (s : State) : (fetchMore c s).fuses = s.fuses := by simp [fetchMore]
@[simp] theorem dmaSettle_fuses (c : Fin 512) (s : State) : (dmaSettle c s).fuses = s.fuses := by simp [dmaSettle]

@[simp] theorem dmaMove_fuses (c : Fin 512) (pc : Nat) (w : BitVec 64) (s : State) : (dmaMove c pc w s).fuses = s.fuses := by
  unfold dmaMove
  dsimp only
  rw [State.updDma_fuses]
  (repeat' split) <;> simp

@[simp] theorem gatherPieces_fuses (c : Fin 512) (da ta : Fin 8) (dst tab size k i : Nat) (f : Flight) (s : State) :
    (gatherPieces c da ta dst tab size k i f s).2.2.fuses = s.fuses := by
  induction k generalizing i f s with
  | zero => rfl
  | succ k ih => unfold gatherPieces; dsimp only; split <;> simp [ih]

@[simp] theorem dmaMovex_fuses (c : Fin 512) (pc : Nat) (w : BitVec 64) (x : BitVec 64) (s : State) : (dmaMovex c pc w x s).fuses = s.fuses := by
  simp [dmaMovex]

@[simp] theorem dmaFill_fuses (c : Fin 512) (pc : Nat) (w : BitVec 64) (x : BitVec 64) (s : State) : (dmaFill c pc w x s).fuses = s.fuses := by
  unfold dmaFill
  dsimp only
  (repeat' split) <;> simp

@[simp] theorem dmaCmp_fuses (c : Fin 512) (pc : Nat) (w : BitVec 64) (x : BitVec 64) (s : State) : (dmaCmp c pc w x s).fuses = s.fuses := by
  unfold dmaCmp
  dsimp only
  (repeat' split) <;> simp

@[simp] theorem dmaBranch_fuses (c : Fin 512) (target : Nat) (s : State) : (dmaBranch c target s).fuses = s.fuses := by simp [dmaBranch]
@[simp] theorem dmaLoop_fuses (c : Fin 512) (w : BitVec 64) (s : State) : (dmaLoop c w s).fuses = s.fuses := by simp [dmaLoop]
@[simp] theorem dmaJump_fuses (c : Fin 512) (w : BitVec 64) (s : State) : (dmaJump c w s).fuses = s.fuses := by simp [dmaJump]
@[simp] theorem takePacket_fuses (c : Fin 512) (s : State) : (takePacket c s).fuses = s.fuses := by simp [takePacket]

@[simp] theorem waitEnds_fuses (c : Fin 512) (w : BitVec 64) (s : State) : (waitEnds c w s).fuses = s.fuses := by
  unfold waitEnds
  dsimp only
  (repeat' split) <;> simp

@[simp] theorem dmaWait_fuses (c : Fin 512) (w : BitVec 64) (s : State) : (dmaWait c w s).fuses = s.fuses := by
  fun_cases dmaWait c w s <;> simp +zetaDelta

@[simp] theorem dmaFencing_fuses (c : Fin 512) (f : Fence) (s : State) : (dmaFencing c f s).fuses = s.fuses := by simp [dmaFencing]

@[simp] theorem dmaSignal_fuses (c : Fin 512) (pc : Nat) (w : BitVec 64) (s : State) : (dmaSignal c pc w s).fuses = s.fuses := by
  simp [dmaSignal]

@[simp] theorem dmaFence_fuses (c : Fin 512) (pc : Nat) (w : BitVec 64) (s : State) : (dmaFence c pc w s).fuses = s.fuses := by
  simp [dmaFence]

@[simp] theorem dmaAct_fuses (c : Fin 512) (pc : Nat) (w : BitVec 64) (x : BitVec 64) (s : State) : (dmaAct c pc w x s).fuses = s.fuses := by
  fun_cases dmaAct c pc w x s <;> simp

@[simp] theorem dmaStep_fuses (c : Fin 512) (w : BitVec 64) (s : State) : (dmaStep c w s).fuses = s.fuses := by simp [dmaStep]

@[simp] theorem dmaRun_fuses (c : Fin 512) (opc : Nat) (s : State) : (dmaRun c opc s).fuses = s.fuses := by
  fun_cases dmaRun c opc s <;> simp

@[simp] theorem putFlight_fuses (c : Fin 512) (id : Nat) (g : Flight) (s : State) : (putFlight c id g s).fuses = s.fuses := by
  simp [putFlight]

@[simp] theorem pieceFails_fuses (c : Fin 512) (id : Nat) (f : Flight) (cause : BadCause) (addr : Nat) (s : State) :
    (pieceFails c id f cause addr s).fuses = s.fuses := by
  unfold pieceFails
  dsimp only
  (repeat' split) <;> simp

@[simp] theorem pieceData_fuses (c : Fin 512) (id : Nat) (f : Flight) (p : Piece) (bs : List Byte) (bad : List Nat) (s : State) :
    (pieceData c id f p bs bad s).fuses = s.fuses := by
  unfold pieceData
  dsimp only
  (repeat' split) <;> simp

@[simp] theorem linkBroken_fuses (c : Fin 512) (a : Nat) (s : State) : (linkBroken c a s).fuses = s.fuses := by
  fun_cases linkBroken c a s <;> simp

@[simp] theorem countRead_fuses (c : Fin 512) (sp : Space) (a : Nat) (uncorrected : Bool) (s : State) :
    (countRead c sp a uncorrected s).fuses = s.fuses := by
  fun_cases countRead c sp a uncorrected s <;> simp

@[simp] theorem dmaAnswer_fuses (c : Fin 512) (id : Nat) (r : Resp) (s : State) : (dmaAnswer c id r s).fuses = s.fuses := by
  unfold dmaAnswer
  dsimp only
  (repeat' split) <;> simp

@[simp] theorem dmaTimeout_fuses (c : Fin 512) (id : Nat) (s : State) : (dmaTimeout c id s).fuses = s.fuses := by
  fun_cases dmaTimeout c id s <;> simp

@[simp] theorem dmaLinkDown_fuses (c : Fin 512) (s : State) : (dmaLinkDown c s).fuses = s.fuses := by
  unfold dmaLinkDown
  dsimp only
  split
  · rfl
  · rw [dmaSettle_fuses, State.updDma_fuses]
    refine foldl_fuses _ _ _ fun t x => ?_
    split <;> simp

@[simp] theorem landWrites_fuses (c : Fin 512) (s : State) : (landWrites c s).fuses = s.fuses := by
  refine foldl_fuses _ _ _ fun t x => ?_
  (repeat' split) <;> simp

@[simp] theorem dmaAbort_fuses (c : Fin 512) (s : State) : (dmaAbort c s).fuses = s.fuses := by simp [dmaAbort]
@[simp] theorem dmaStart_fuses (c : Fin 512) (s : State) : (dmaStart c s).fuses = s.fuses := by simp [dmaStart]
@[simp] theorem dmaDisable_fuses (c : Fin 512) (s : State) : (dmaDisable c s).fuses = s.fuses := by fun_cases dmaDisable c s <;> simp
@[simp] theorem dmaResume_fuses (c : Fin 512) (s : State) : (dmaResume c s).fuses = s.fuses := by simp [dmaResume]
@[simp] theorem dmaDrained_fuses (c : Fin 512) (s : State) : (dmaDrained c s).fuses = s.fuses := by simp [dmaDrained]

/-! ### DMA objects -/

@[simp] theorem writeDctl_fuses (c : Fin 512) (w : Word) (s : State) : (writeDctl c w s).fuses = s.fuses := by simp [writeDctl]
@[simp] theorem pendReg_fuses (c : Fin 512) (key : Nat) (v : Nat) (s : State) : (pendReg c key v s).fuses = s.fuses := by simp [pendReg]

@[simp] theorem DmaReg.write_fuses (c : Fin 512) (r : DmaReg) (v : Val) (s : State) : (DmaReg.write c r v s).fuses = s.fuses := by
  fun_cases DmaReg.write c r v s <;> simp +zetaDelta

@[simp] theorem PsReg.write_fuses (r : PsReg) (v : Val) (s : State) : (PsReg.write r v s).fuses = s.fuses := by
  fun_cases PsReg.write r v s <;> simp

/-! ### Host links and the stall store -/

@[simp] theorem settleLink_fuses (l : Fin 4) (s : State) : (settleLink l s).fuses = s.fuses := by simp [settleLink]
@[simp] theorem linkDown_fuses (l : Fin 4) (s : State) : (linkDown l s).fuses = s.fuses := by simp [linkDown]
@[simp] theorem returnPair_fuses (c : Fin 512) (s : State) : (returnPair c s).fuses = s.fuses := by simp [returnPair]
@[simp] theorem dropVfs_fuses (l : Fin 4) (n : Nat) (s : State) : (dropVfs l n s).fuses = s.fuses := by simp [dropVfs]
@[simp] theorem flrChannel_fuses (c : Fin 512) (s : State) : (flrChannel c s).fuses = s.fuses := by simp [flrChannel]
@[simp] theorem flr_fuses (l : Fin 4) (f : Fin 17) (s : State) : (flr l f s).fuses = s.fuses := by simp [flr]

@[simp] theorem releasePending_fuses (l : Fin 4) (f : Fin 17) (s : State) : (releasePending l f s).fuses = s.fuses := by
  unfold releasePending
  dsimp only
  split
  · exact foldl_fuses _ _ _ fun _ _ => rfl
  · rfl

@[simp] theorem configWrite_fuses (l : Fin 4) (f : Fin 17) (x : CfgWrite) (s : State) : (configWrite l f x s).fuses = s.fuses := by
  fun_cases configWrite l f x s <;> simp +zetaDelta

@[simp] theorem stallLoss_fuses (r : Fin 32) (s : State) : (stallLoss r s).fuses = s.fuses := by fun_cases stallLoss r s <;> simp +zetaDelta
@[simp] theorem repartition_fuses (s : State) : (repartition s).fuses = s.fuses := by simp [repartition]

@[simp] theorem ddrTrain_fuses (reports : List DdrReport) (s : State) : (ddrTrain reports s).fuses = s.fuses := by
  unfold ddrTrain
  dsimp only
  split
  · rfl
  · rw [repartition_fuses, State.updHost_fuses]
    split <;> simp

@[simp] theorem spoilStall_fuses (a : Nat) (s : State) : (spoilStall a s).fuses = s.fuses := by simp [spoilStall]

@[simp] theorem ddrScrub_fuses (c : Fin 12) (flaw : CellFlaw) (s : State) : (ddrScrub c flaw s).fuses = s.fuses := by
  fun_cases ddrScrub c flaw s <;> simp +zetaDelta

@[simp] theorem outOfService_fuses (c : Fin 12) (s : State) : (outOfService c s).fuses = s.fuses := by simp [outOfService]

@[simp] theorem setMapArea_fuses (v : Word) (s : State) : (setMapArea v s).fuses = s.fuses := by
  simp [setMapArea]

@[simp] theorem HostReg.write_fuses (r : HostReg) (v : Val) (s : State) : (HostReg.write r v s).fuses = s.fuses := by
  fun_cases HostReg.write r v s <;> simp

@[simp] theorem configRequest_fuses (l : Fin 4) (f : Fin 17) (act : State → State) (s : State) (h : ∀ t, (act t).fuses = t.fuses) :
    (configRequest l f act s).fuses = s.fuses := by
  fun_cases configRequest l f act s <;> simp [h]

/-! ### Motion -/

@[simp] theorem setVel_fuses (a : Fin 8) (s : State) : (setVel a s).fuses = s.fuses := by simp [setVel]
@[simp] theorem driveGates_fuses (a : Fin 8) (s : State) : (driveGates a s).fuses = s.fuses := by simp [driveGates]

@[simp] theorem startLeg_fuses (a : Fin 8) (fwd : Bool) (len : Option Nat) (speed : Nat) (s : State) :
    (startLeg a fwd len speed s).fuses = s.fuses := by
  simp [startLeg]

@[simp] theorem settle_fuses (a : Fin 8) (s : State) : (settle a s).fuses = s.fuses := by simp [settle]
@[simp] theorem homingFault_fuses (a : Fin 8) (s : State) : (homingFault a s).fuses = s.fuses := by simp [homingFault]
@[simp] theorem homeSlow_fuses (a : Fin 8) (s : State) : (homeSlow a s).fuses = s.fuses := by simp [homeSlow]
@[simp] theorem homeBack_fuses (a : Fin 8) (s : State) : (homeBack a s).fuses = s.fuses := by simp [homeBack]
@[simp] theorem homeDone_fuses (a : Fin 8) (s : State) : (homeDone a s).fuses = s.fuses := by simp [homeDone]
@[simp] theorem legEnd_fuses (a : Fin 8) (s : State) : (legEnd a s).fuses = s.fuses := by fun_cases legEnd a s <;> simp
@[simp] theorem slowDown_fuses (a : Fin 8) (s : State) : (slowDown a s).fuses = s.fuses := by simp [slowDown]
@[simp] theorem axisStop_fuses (a : Fin 8) (s : State) : (axisStop a s).fuses = s.fuses := by simp [axisStop]
@[simp] theorem axisIstop_fuses (a : Fin 8) (s : State) : (axisIstop a s).fuses = s.fuses := by simp [axisIstop]
@[simp] theorem latchTrip_fuses (a : Fin 8) (i : Fin 2) (s : State) : (latchTrip a i s).fuses = s.fuses := by simp [latchTrip]
@[simp] theorem startTrips_fuses (a : Fin 8) (s : State) : (startTrips a s).fuses = s.fuses := by fun_cases startTrips a s <;> simp
@[simp] theorem axisStart_fuses (a : Fin 8) (s : State) : (axisStart a s).fuses = s.fuses := by fun_cases axisStart a s <;> simp +zetaDelta
@[simp] theorem placeStep_fuses (a : Fin 8) (s : State) : (placeStep a s).fuses = s.fuses := by simp [placeStep]
@[simp] theorem stepPulse_fuses (a : Fin 8) (s : State) : (stepPulse a s).fuses = s.fuses := by simp [stepPulse]

@[simp] theorem referenceSeen_fuses (a : Fin 8) (s : State) : (referenceSeen a s).fuses = s.fuses := by
  unfold referenceSeen
  dsimp only
  (repeat' split) <;> simp

@[simp] theorem limitChange_fuses (a : Fin 8) (i : Fin 2) (active : Bool) (s : State) : (limitChange a i active s).fuses = s.fuses := by
  simp [limitChange]

@[simp] theorem homeChange_fuses (a : Fin 8) (active : Bool) (s : State) : (homeChange a active s).fuses = s.fuses := by simp [homeChange]

@[simp] theorem updPhase_fuses (a : Fin 8) (p : Fin 2) (f : Phase → Phase) (s : State) : (updPhase a p f s).fuses = s.fuses := by
  simp [updPhase]

@[simp] theorem chopMaskEnd_fuses (a : Fin 8) (p : Fin 2) (sense : Nat) (s : State) : (chopMaskEnd a p sense s).fuses = s.fuses := by
  simp [chopMaskEnd]

@[simp] theorem chopCeiling_fuses (a : Fin 8) (p : Fin 2) (s : State) : (chopCeiling a p s).fuses = s.fuses := by simp [chopCeiling]
@[simp] theorem fastDecayEnd_fuses (a : Fin 8) (p : Fin 2) (s : State) : (fastDecayEnd a p s).fuses = s.fuses := by simp [fastDecayEnd]

@[simp] theorem chopDecayEnd_fuses (a : Fin 8) (p : Fin 2) (s : State) : (chopDecayEnd a p s).fuses = s.fuses := by
  fun_cases chopDecayEnd a p s <;> simp

@[simp] theorem pendSet_fuses (a : Fin 8) (f : AxSet → AxSet) (s : State) : (pendSet a f s).fuses = s.fuses := by simp [pendSet]
@[simp] theorem writeAxctl_fuses (a : Fin 8) (w : Word) (s : State) : (writeAxctl a w s).fuses = s.fuses := by simp [writeAxctl]
@[simp] theorem writeSwcfg_fuses (a : Fin 8) (w : Word) (s : State) : (writeSwcfg a w s).fuses = s.fuses := by simp [writeSwcfg]

@[simp] theorem AxReg.write_fuses (a : Fin 8) (r : AxReg) (v : Val) (s : State) : (AxReg.write a r v s).fuses = s.fuses := by
  fun_cases AxReg.write a r v s <;> simp +zetaDelta

@[simp] theorem axisTask_fuses (a : Fin 8) (t : Task) (check : Axis → Status) (act : State → State) (s : State)
    (h : ∀ u, (act u).fuses = u.fuses) : (axisTask a t check act s).fuses = s.fuses := by
  refine performTask_fuses t _ s fun u v hv => ?_
  split at hv
  · cases hv
  · cases hv; exact h u

/-! ### Resets -/

@[simp] theorem cold18_fuses (s : State) : (cold18 s).fuses = s.fuses := by simp [cold18]
@[simp] theorem cold33_fuses (s : State) : (cold33 s).fuses = s.fuses := by simp [cold33]
@[simp] theorem coldPins_fuses (s : State) : (coldPins s).fuses = s.fuses := by simp [coldPins]
@[simp] theorem sensePins_fuses (s : State) : (sensePins s).fuses = s.fuses := by simp [sensePins]
@[simp] theorem driveSync_fuses (s : State) : (driveSync s).fuses = s.fuses := by simp [driveSync]
@[simp] theorem driveTxdis_fuses (m : Fin 2) (s : State) : (driveTxdis m s).fuses = s.fuses := by simp [driveTxdis]
@[simp] theorem cueReset_fuses (lv : Nat) (s : State) : (cueReset lv s).fuses = s.fuses := by simp [cueReset]
@[simp] theorem pcieReset_fuses (l : Fin 4) (s : State) : (pcieReset l s).fuses = s.fuses := by simp [pcieReset]
@[simp] theorem mgtReset_fuses (lv : Nat) (m : Fin 2) (s : State) : (mgtReset lv m s).fuses = s.fuses := by simp [mgtReset]
@[simp] theorem controlReset_fuses (s : State) : (controlReset s).fuses = s.fuses := by simp [controlReset]
@[simp] theorem dataPathReset_fuses (lv : Nat) (s : State) : (dataPathReset lv s).fuses = s.fuses := by simp [dataPathReset]
@[simp] theorem warmReset_fuses (s : State) : (warmReset s).fuses = s.fuses := by simp [warmReset]
@[simp] theorem coldReset_fuses (s : State) : (coldReset s).fuses = s.fuses := by simp [coldReset]
@[simp] theorem forgetSensor_fuses (i : Fin 18) (s : State) : (forgetSensor i s).fuses = s.fuses := by fun_cases forgetSensor i s <;> simp

@[simp] theorem resetBlk_fuses (b : Blk) (s : State) : (resetBlk b s).fuses = s.fuses := by
  unfold resetBlk
  dsimp only
  (repeat' split) <;> simp

@[simp] theorem applyLevel_fuses (lv : Fin 4) (b : Option Blk) (s : State) : (applyLevel lv b s).fuses = s.fuses := by
  fun_cases applyLevel lv b s <;> simp

@[simp] theorem startReset_fuses (lv : Fin 4) (b : Option Blk) (s : State) : (startReset lv b s).fuses = s.fuses := by simp [startReset]

@[simp] theorem assertReset_fuses (src : RstSrc) (lv : Fin 4) (b : Option Blk) (s : State) : (assertReset src lv b s).fuses = s.fuses := by
  fun_cases assertReset src lv b s <;> simp +zetaDelta

@[simp] theorem assertPor_fuses (s : State) : (assertPor s).fuses = s.fuses := by simp [assertPor]
@[simp] theorem enterCaptured_fuses (s : State) : (enterCaptured s).fuses = s.fuses := by simp [enterCaptured]
@[simp] theorem wdogExpires_fuses (pc : BitVec 64) (s : State) : (wdogExpires pc s).fuses = s.fuses := by simp [wdogExpires]
@[simp] theorem lockstepMismatch_fuses (s : State) : (lockstepMismatch s).fuses = s.fuses := by simp [lockstepMismatch]
@[simp] theorem assertSoft_fuses (v : Word) (s : State) : (assertSoft v s).fuses = s.fuses := by simp [assertSoft]
@[simp] theorem debugReset_fuses (s : State) : (debugReset s).fuses = s.fuses := by simp [debugReset]
@[simp] theorem railFalls_fuses (rail : Rail) (s : State) : (railFalls rail s).fuses = s.fuses := by simp [railFalls]
@[simp] theorem railRises_fuses (rail : Rail) (s : State) : (railRises rail s).fuses = s.fuses := by simp [railRises]
@[simp] theorem powerUp_fuses (rail : Rail) (mv : Nat) (s : State) : (powerUp rail mv s).fuses = s.fuses := by simp [powerUp]

/-! ### Clocks -/

@[simp] theorem calibrate_fuses (first : Bool) (q : Fin 4) (s : State) : (calibrate first q s).fuses = s.fuses := by simp [calibrate]
@[simp] theorem startQuad_fuses (q : Fin 4) (s : State) : (startQuad q s).fuses = s.fuses := by simp [startQuad]
@[simp] theorem reloadTb_fuses (s : State) : (reloadTb s).fuses = s.fuses := by fun_cases reloadTb s <;> simp

@[simp] theorem restartUpTime_fuses (n : Fin 64) (s : State) : (restartUpTime n s).fuses = s.fuses := by
  fun_cases restartUpTime n s <;> simp

@[simp] theorem releaseBlk_fuses (b : Blk) (s : State) : (releaseBlk b s).fuses = s.fuses := by fun_cases releaseBlk b s <;> simp
@[simp] theorem releaseAll_fuses (bs : List Blk) (s : State) : (releaseAll bs s).fuses = s.fuses := by simp [releaseAll]
@[simp] theorem releaseQuads_fuses (qs : List (Fin 4)) (s : State) : (releaseQuads qs s).fuses = s.fuses := by simp [releaseQuads]
@[simp] theorem ddrLost_fuses (c : Fin 12) (s : State) : (ddrLost c s).fuses = s.fuses := by simp [ddrLost]
@[simp] theorem countLoss_fuses (s : State) : (countLoss s).fuses = s.fuses := by simp [countLoss]
@[simp] theorem moveCore_fuses (toRing : Bool) (s : State) : (moveCore toRing s).fuses = s.fuses := by simp [moveCore]
@[simp] theorem clockFails_fuses (d : Fin 23) (s : State) : (clockFails d s).fuses = s.fuses := by simp [clockFails]
@[simp] theorem endDomainReset_fuses (s : State) : (endDomainReset s).fuses = s.fuses := by simp [endDomainReset]
@[simp] theorem clockGood_fuses (d : Fin 23) (s : State) : (clockGood d s).fuses = s.fuses := by simp [clockGood]
@[simp] theorem lockFails_fuses (d : Fin 23) (s : State) : (lockFails d s).fuses = s.fuses := by simp [lockFails]
@[simp] theorem ringReturns_fuses (s : State) : (ringReturns s).fuses = s.fuses := by simp [ringReturns]

/-! ### Heat -/

@[simp] theorem failSensor_fuses (i : Fin 16) (s : State) : (failSensor i s).fuses = s.fuses := by simp [failSensor]
@[simp] theorem settleHot_fuses (s : State) : (settleHot s).fuses = s.fuses := by fun_cases settleHot s <;> simp +zetaDelta
@[simp] theorem assertThermal_fuses (s : State) : (assertThermal s).fuses = s.fuses := by simp [assertThermal]
@[simp] theorem tripHeat_fuses (s : State) : (tripHeat s).fuses = s.fuses := by fun_cases tripHeat s <;> simp +zetaDelta
@[simp] theorem recalibrate_fuses (q : Fin 4) (s : State) : (recalibrate q s).fuses = s.fuses := by simp [recalibrate]
@[simp] theorem takeSample_fuses (t : Vector (BitVec 24) 16) (s : State) : (takeSample t s).fuses = s.fuses := by simp [takeSample]
@[simp] theorem thermalSample_fuses (t : Vector (BitVec 24) 16) (s : State) : (thermalSample t s).fuses = s.fuses := by simp [thermalSample]
@[simp] theorem sensorRecovers_fuses (i : Fin 16) (s : State) : (sensorRecovers i s).fuses = s.fuses := by simp [sensorRecovers]
@[simp] theorem thermalEnds_fuses (s : State) : (thermalEnds s).fuses = s.fuses := by simp [thermalEnds]

/-! ### System objects -/

@[simp] theorem settlePtp_fuses (s : State) : (settlePtp s).fuses = s.fuses := by simp [settlePtp]
@[simp] theorem writeMgtctl_fuses (m : Fin 2) (w : Word) (s : State) : (writeMgtctl m w s).fuses = s.fuses := by simp [writeMgtctl]

/-! ### Accesses to the dictionary that apply no write -/

@[simp] theorem Obj.touch_fuses (o : Obj) (s : State) : (Obj.touch o s).fuses = s.fuses := by fun_cases Obj.touch o s <;> simp

@[simp] theorem writeQueue_fuses (q : Fin 512) (r : QReg) (v : Val) (s : State) : (writeQueue q r v s).fuses = s.fuses := by
  fun_cases writeQueue q r v s <;> simp +zetaDelta

@[simp] theorem Obj.refused_fuses (o : Obj) (v : Val) (s : State) : (Obj.refused o v s).fuses = s.fuses := by
  fun_cases Obj.refused o v s <;> simp

@[simp] theorem markView_fuses (who : By) (index : Nat) (sub : Nat) (st : Status) (s : State) : (markView who index sub st s).fuses = s.fuses := by
  fun_cases markView who index sub st s <;> simp

@[simp] theorem refuse_fuses (who : By) (index : Nat) (sub : Nat) (st : Status) (s : State) : (refuse who index sub st s).fuses = s.fuses := by
  simp [refuse]

@[simp] theorem enter_fuses (who : By) (cond : Bool) (index : Nat) (sub : Nat) (d : Desc) (ok : Bool) (v : Val) (st : Status) (s : State) :
    (enter who cond index sub d ok v st s).fuses = s.fuses := by
  simp [enter]

@[simp] theorem dictRead_fuses (who : By) (index : Nat) (sub : Nat) (s : State) : (dictRead who index sub s).2.fuses = s.fuses := by
  fun_cases dictRead who index sub s <;> simp +zetaDelta

@[simp] theorem waitFw_fuses (c : Request) (ldp : Bool) (s : State) : (waitFw c ldp s).fuses = s.fuses := by simp [waitFw]

@[simp] theorem barUnmapped_fuses (l : Fin 4) (f : Fin 17) (ofs : Nat) (wr : Bool) (s : State) : (barUnmapped l f ofs wr s).fuses = s.fuses := by
  simp [barUnmapped]

@[simp] theorem barHeld_fuses (l : Fin 4) (f : Fin 17) (ofs : Nat) (wr : Bool) (s : State) : (barHeld l f ofs wr s).fuses = s.fuses := by
  simp [barHeld]

/-! ### The five registers that burn -/

/-- A system register that burns a fuse map (R62, R100). -/
def SysReg.isBurn : SysReg → Bool
  | .rstmapBurn | .pinmapBurn => true
  | _ => false

/-- A security register that burns root fuses or the security version (R604, R613). -/
def SecReg.isBurn : SecReg → Bool
  | .rootBurn _ | .revoke | .svnCommit => true
  | _ => false

/-- An object whose write burns fuses. -/
def Obj.isBurn : Obj → Bool
  | .sys r => r.isBurn
  | .sec r => r.isBurn
  | _ => false

theorem SysReg.write_fuses {r : SysReg} (hr : r.isBurn = false) (v : Val) (s : State) : (SysReg.write r v s).fuses = s.fuses := by
  cases r with
  | rstmapBurn | pinmapBurn => cases hr
  | _ => simp [SysReg.write]

theorem SecReg.write_fuses {r : SecReg} (hr : r.isBurn = false) (v : Val) (s : State) : (SecReg.write r v s).fuses = s.fuses := by
  cases r with
  | rootBurn | revoke | svnCommit => cases hr
  | updData => unfold SecReg.write; dsimp only; split <;> simp
  | _ => simp [SecReg.write]

/-- No other object's write touches a fuse. -/
theorem Obj.apply_fuses {o : Obj} (ho : o.isBurn = false) (v : Val) (s : State) : (o.apply v s).fuses = s.fuses := by
  cases o with
  | sys r => exact SysReg.write_fuses ho v s
  | sec r => exact SecReg.write_fuses ho v s
  | _ => simp [Obj.apply]

/-- No persistent object burns: its write may be carried out without the checks. -/
theorem Obj.isBurn_of_rwp {o : Obj} (h : o.desc.acc = .rwp) : o.isBurn = false := by
  cases o with
  | sys r => cases r with
    | rstmapBurn | pinmapBurn => cases h
    | _ => rfl
  | sec r => cases r with
    | rootBurn | revoke | svnCommit => cases h
    | _ => rfl
  | _ => rfl

/-- Persistent objects loaded anew burn nothing, whatever the records hold (R569, R570). -/
@[simp] theorem reloadRwp_fuses (s : State) : (reloadRwp s).fuses = s.fuses := by
  refine State.each_fuses _ _ _ fun r t => ?_
  split
  · split
    next hrwp => exact Obj.apply_fuses (Obj.isBurn_of_rwp hrwp) _ t
    next => rfl
  · rfl

/-! ### Releases -/

@[simp] theorem countReset_fuses (lv : Fin 4) (s : State) : (countReset lv s).fuses = s.fuses := by simp [countReset]
@[simp] theorem reloadAll_fuses (s : State) : (reloadAll s).fuses = s.fuses := by simp [reloadAll]
@[simp] theorem endReset_fuses (s : State) : (endReset s).fuses = s.fuses := by simp [endReset]
@[simp] theorem senseFuses_fuses (s : State) : (senseFuses s).fuses = s.fuses := by simp [senseFuses]
@[simp] theorem finishCold_fuses (s : State) : (finishCold s).fuses = s.fuses := by simp [finishCold]

@[simp] theorem refStep_fuses (present : Bool) (pcieRef : Bool) (s : State) : (refStep present pcieRef s).fuses = s.fuses := by
  simp [refStep]

@[simp] theorem coldRelease_fuses (st : Straps) (refclk : Bool) (pcieRef : Bool) (s : State) : (coldRelease st refclk pcieRef s).fuses = s.fuses := by
  simp [coldRelease]

@[simp] theorem releaseHosts_fuses (s : State) : (releaseHosts s).fuses = s.fuses := by simp [releaseHosts]
@[simp] theorem romHosts_fuses (s : State) : (romHosts s).fuses = s.fuses := by simp [romHosts]
@[simp] theorem controlReleased_fuses (s : State) : (controlReleased s).fuses = s.fuses := by simp [controlReleased]

@[simp] theorem afterControl_fuses (was s : State) : (afterControl was s).fuses = s.fuses := by
  fun_cases afterControl was s <;> simp

@[simp] theorem warmRelease_fuses (s : State) : (warmRelease s).fuses = s.fuses := by simp [warmRelease]
@[simp] theorem noteReset_fuses (s : State) : (noteReset s).fuses = s.fuses := by simp [noteReset]
@[simp] theorem dataRelease_fuses (s : State) : (dataRelease s).fuses = s.fuses := by simp [dataRelease]

@[simp] theorem blockRelease_fuses (b : Blk) (s : State) : (blockRelease b s).fuses = s.fuses := by
  fun_cases blockRelease b s with
  | case1 => rfl
  | case2 _ s₁ _ s₂ s₃ s₄ | case4 _ s₁ _ s₂ s₃ s₄ =>
    have h₃ : s₃.fuses = s.fuses := by unfold s₃; split <;> simp [s₂, s₁]
    simp [s₄, h₃]
  | case3 _ _ s₁ _ s₂ s₃ s₄ =>
    have h₃ : s₃.fuses = s.fuses := by unfold s₃; split <;> simp [s₂, s₁]
    simp [s₄, h₃]

/-! ### LDP, up to its writes -/

@[simp] theorem State.updMbox_fuses (s : State) (pf : Fin 4) (f : Mailbox → Mailbox) : (State.updMbox s pf f).fuses = s.fuses := by
  simp [State.updMbox]

@[simp] theorem mailboxReply_fuses (pf : Fin 4) (m : List Byte) (s : State) : (mailboxReply pf m s).fuses = s.fuses := by
  simp [mailboxReply]

@[simp] theorem sendReply_fuses (src : LdpFrom) (m : List Byte) (s : State) : (sendReply src m s).fuses = s.fuses := by
  fun_cases sendReply src m s <;> simp

@[simp] theorem dropRequest_fuses (src : LdpFrom) (s : State) : (dropRequest src s).fuses = s.fuses := by
  fun_cases dropRequest src s <;> simp +zetaDelta

@[simp] theorem updSession_fuses (id : BitVec 16) (f : Session → Session) (s : State) : (updSession id f s).fuses = s.fuses := by
  simp [updSession]

@[simp] theorem dropSession_fuses (id : BitVec 16) (s : State) : (dropSession id s).fuses = s.fuses := by simp [dropSession]
@[simp] theorem countFail_fuses (key : Nat) (s : State) : (countFail key s).fuses = s.fuses := by simp [countFail]

@[simp] theorem refuseMsg_fuses (src : LdpFrom) (session : Nat) (target : Nat) (st : Status) (s : State) :
    (refuseMsg src session target st s).fuses = s.fuses := by
  simp [refuseMsg]

@[simp] theorem refusedMsg_fuses (src : LdpFrom) (session : Nat) (st : Status) (s : State) : (refusedMsg src session st s).2.fuses = s.fuses := by
  simp [refusedMsg]

@[simp] theorem openFirst_fuses (src : LdpFrom) (m : List Byte) (s : State) : (openFirst src m s).2.fuses = s.fuses := by
  unfold openFirst
  dsimp only
  (repeat' split) <;> simp

@[simp] theorem openSecond_fuses (src : LdpFrom) (m : List Byte) (x : Session) (s : State) : (openSecond src m x s).2.fuses = s.fuses := by
  fun_cases openSecond src m x s <;> simp +zetaDelta

@[simp] theorem readItem_fuses (who : By) (index : Nat) (sub : Nat) (s : State) : (readItem who index sub s).2.fuses = s.fuses := by
  unfold readItem
  dsimp only
  (repeat' split) <;> simp

@[simp] theorem readItems_fuses (who : By) (p : List Byte) (k i : Nat) (s : State) : (readItems who p k i s).2.fuses = s.fuses := by
  induction k generalizing i s with
  | zero => rfl
  | succ k ih => simp [readItems, ih]

@[simp] theorem ldpRead_fuses (src : LdpFrom) (who : By) (m : List Byte) (s : State) : (ldpRead src who m s).2.fuses = s.fuses := by
  fun_cases ldpRead src who m s <;> simp

@[simp] theorem ldpReadBlob_fuses (src : LdpFrom) (who : By) (m : List Byte) (s : State) : (ldpReadBlob src who m s).2.fuses = s.fuses := by
  unfold ldpReadBlob
  dsimp only
  (repeat' split) <;> simp

@[simp] theorem ldpDescribe_fuses (src : LdpFrom) (who : By) (m : List Byte) (s : State) : (ldpDescribe src who m s).2.fuses = s.fuses := by
  fun_cases ldpDescribe src who m s <;> simp

@[simp] theorem ldpJnlRead_fuses (src : LdpFrom) (m : List Byte) (s : State) : (ldpJnlRead src m s).2.fuses = s.fuses := by
  fun_cases ldpJnlRead src m s <;> simp

@[simp] theorem finish_fuses (src : LdpFrom) (m : List Byte) (id : BitVec 16) (a : Answer × State) : (finish src m id a).fuses = a.2.fuses := by
  simp [finish]

/-! ### JTAG -/

@[simp] theorem tap_fuses (act : State → State) (s : State) (h : ∀ t, (act t).fuses = t.fuses) : (tap act s).fuses = s.fuses := by
  simp [tap, h]

@[simp] theorem tapLoad_fuses (extest : Bool) (clamp : Bool) (s : State) : (tapLoad extest clamp s).fuses = s.fuses := by simp [tapLoad]
@[simp] theorem tapBypass_fuses (s : State) : (tapBypass s).fuses = s.fuses := by simp [tapBypass]
@[simp] theorem tapUnlock_fuses (bytes : List Byte) (s : State) : (tapUnlock bytes s).fuses = s.fuses := by simp [tapUnlock]

/-! ### Management ports -/

@[simp] theorem linkChange_fuses (m : Fin 2) (present : Bool) (los : Bool) (up : Bool) (s : State) :
    (linkChange m present los up s).fuses = s.fuses := by
  simp [linkChange]

@[simp] theorem lease_fuses (m : Fin 2) (addr : Word) (s : State) : (lease m addr s).fuses = s.fuses := by simp [lease]

@[simp] theorem ptpLearns_fuses (m : Fin 2) (x : PtpMsg) (s : State) : (ptpLearns m x s).fuses = s.fuses := by
  unfold ptpLearns
  dsimp only
  (repeat' split) <;> simp

@[simp] theorem moveRecord_fuses (s : State) : (moveRecord s).fuses = s.fuses := by fun_cases moveRecord s <;> simp

/-! ### Reception -/

@[simp] theorem linkBlock_fuses (n : Fin 64) (x : BitVec 256) (s : State) : (linkBlock n x s).fuses = s.fuses := by
  fun_cases linkBlock n x s <;> simp

@[simp] theorem linkBlocks_fuses (n : Fin 64) (bs : List (Bool × BitVec 256)) (s : State) : (linkBlocks n bs s).fuses = s.fuses := by
  simp [linkBlocks]

@[simp] theorem streamBlock_fuses (p : Fin 16) (b : Bool × BitVec 256) (s : State) : (streamBlock p b s).fuses = s.fuses := by
  fun_cases streamBlock p b s <;> simp

@[simp] theorem takeSlot_fuses (p : Fin 16) (c : Nat) (s : State) : (takeSlot p c s).fuses = s.fuses := by
  unfold takeSlot
  lift_lets
  extract_lets roles got s₁ s₂
  have h : s₂.fuses = s.fuses := State.each_fuses s roles _ fun _ _ => rfl
  clear_value s₂
  split <;> simp [h]

@[simp] theorem assemble_fuses (p : Fin 16) (k : Nat) (s : State) : (assemble p k s).fuses = s.fuses := by
  induction k generalizing s with
  | zero => rfl
  | succ k ih => unfold assemble; split <;> simp [ih]

@[simp] theorem joinStream_fuses (n : Fin 64) (c : Nat) (bs : Option (List (Bool × BitVec 256))) (s : State) :
    (joinStream n c bs s).fuses = s.fuses := by
  fun_cases joinStream n c bs s <;> simp +zetaDelta

@[simp] theorem leadPasses_fuses (n : Fin 64) (s : State) : (leadPasses n s).fuses = s.fuses := by fun_cases leadPasses n s <;> simp

@[simp] theorem hearCodeword_fuses (n : Fin 64) (levels : List Level) (s : State) : (hearCodeword n levels s).fuses = s.fuses := by
  fun_cases hearCodeword n levels s <;> simp +zetaDelta

/-! ### Transmission -/

@[simp] theorem emit_fuses (n : Fin 64) (ps : List Level) (f : List Level → State → State) (s : State) (h : ∀ qs t, (f qs t).fuses = t.fuses) :
    (emit n ps f s).fuses = s.fuses := by
  fun_cases emit n ps f s <;> simp +zetaDelta [h]

@[simp] theorem sendCodeword_fuses (n : Fin 64) (bs : List (Bool × BitVec 256)) (s : State) : (sendCodeword n bs s).fuses = s.fuses := by
  simp [sendCodeword]

@[simp] theorem sendAligned_fuses (n : Fin 64) (pos : Nat) (s : State) : (sendAligned n pos s).fuses = s.fuses := by simp [sendAligned]

@[simp] theorem sendPattern_fuses (n : Fin 64) (s : State) : (sendPattern n s).fuses = s.fuses := by
  unfold sendPattern
  dsimp only
  simp

@[simp] theorem sendTraining_fuses (n : Fin 64) (s : State) : (sendTraining n s).fuses = s.fuses := by
  unfold sendTraining
  dsimp only
  (repeat' split) <;> simp

@[simp] theorem repeatCaps_fuses (n : Fin 64) (s : State) : (repeatCaps n s).fuses = s.fuses := by simp [repeatCaps]

@[simp] theorem sendData_fuses (n : Fin 64) (pos : Nat) (s : State) : (sendData n pos s).fuses = s.fuses := by
  fun_cases sendData n pos s <;> simp +zetaDelta

@[simp] theorem laneSends_fuses (pos : Nat) (n : Fin 64) (s : State) : (laneSends pos n s).fuses = s.fuses := by
  fun_cases laneSends pos n s <;> simp

@[simp] theorem leadSent_fuses (p : Fin 16) (s : State) : (leadSent p s).fuses = s.fuses := by
  unfold leadSent
  lift_lets
  extract_lets ls s₁
  have h : s₁.fuses = s.fuses := State.each_fuses s ls _ fun _ _ => rfl
  clear_value s₁
  (repeat' split) <;> simp [h]

@[simp] theorem quadSends_fuses (q : Fin 4) (s : State) : (quadSends q s).fuses = s.fuses := by simp [quadSends]
@[simp] theorem sendAlignment_fuses (q : Fin 4) (s : State) : (sendAlignment q s).fuses = s.fuses := by simp [sendAlignment]

/-! ### Reads of BAR0 -/

@[simp] theorem viewServe_fuses (l : Fin 4) (f : Fin 17) (ofs : Nat) (len : Nat) (s : State) : (viewServe l f ofs len s).fuses = s.fuses := by
  unfold viewServe
  dsimp only
  (repeat' split) <;> simp

theorem bar0Region_fuses {l : Fin 4} {ofs len : Nat} {s t : State} (h : bar0Region l ofs len s = some t) : t.fuses = s.fuses := by
  revert h
  fun_cases bar0Region l ofs len s <;> intro h <;> cases h <;> simp

@[simp] theorem viewReads_fuses (l : Fin 4) (f : Fin 17) (ofs len : Nat) (s : State) : (viewReads l f ofs len s).fuses = s.fuses := by
  unfold viewReads
  split
  · rfl
  · split
    next h =>
      split at h
      · exact bar0Region_fuses h
      · cases h
    next => (repeat' split) <;> simp

@[simp] theorem mailboxAck_fuses (l : Fin 4) (s : State) : (mailboxAck l s).fuses = s.fuses := by simp [mailboxAck]

@[simp] theorem bar4Write_fuses (l : Fin 4) (addr : Nat) (bytes : List Byte) (s : State) : (bar4Write l addr bytes s).fuses = s.fuses := by
  simp [bar4Write]

/-! ### The passing of time -/

@[simp] theorem stepFalls_fuses (a : Fin 8) (s : State) : (stepFalls a s).fuses = s.fuses := by fun_cases stepFalls a s <;> simp
@[simp] theorem ppsTick_fuses (s : State) : (ppsTick s).fuses = s.fuses := by fun_cases ppsTick s <;> simp +zetaDelta
@[simp] theorem tick_fuses (s : State) : (tick s).fuses = s.fuses := by simp [tick]

end Sys2Proof.Machine
end

