-- ==== Sys2Proof/Proofs/FusesOnlyBurn.lean ====
section
/-! Fuses only burn. The frames leave five registers that touch a fuse; what a write of theirs does, once its own checks have passed, only burns.
Every path to a register ends in dictWrite, so each command, and each clock on an empty queue, only burns. -/

namespace Sys2Proof.Machine

open Sys2Proof Sys2Proof.Safety

/-! ### Burning as a preorder -/

@[simp] theorem burnsTo_refl (a : Fuses) : burnsTo a a := by simp [burnsTo]

theorem burnsTo_of_eq {a b : Fuses} (h : b = a) : burnsTo a b := h ▸ burnsTo_refl a

theorem and_eq_left_trans {n : Nat} {x y z : BitVec n} (hxy : x &&& y = x) (hyz : y &&& z = y) : x &&& z = x := by
  rw [← hxy, BitVec.and_assoc, hyz]

theorem burnsTo_trans {a b c : Fuses} (hab : burnsTo a b) (hbc : burnsTo b c) : burnsTo a c := by
  obtain ⟨pinA, pinB, rstA, rstB, svn, roots⟩ := hab
  obtain ⟨pinA', pinB', rstA', rstB', svn', roots'⟩ := hbc
  refine ⟨and_eq_left_trans pinA pinA', and_eq_left_trans pinB pinB', and_eq_left_trans rstA rstA', and_eq_left_trans rstB rstB',
    svn.trans svn', fun n => ?_⟩
  obtain ⟨progA, revA, progB, revB⟩ := roots n
  obtain ⟨progA', revA', progB', revB'⟩ := roots' n
  exact ⟨fun h => ⟨(progA' (progA h).1).1, (progA' (progA h).1).2.trans (progA h).2⟩, revA' ∘ revA, progB' ∘ progB, revB' ∘ revB⟩

/-! ### What the burning registers do (R62, R100, R604, R613) -/

theorem burnRoot_burns {n : Fin 4} {f : RootCopy → RootCopy} {s : State}
    (hA : s.fuses.rootA[n].programmed = true → (f s.fuses.rootA[n]).hash = s.fuses.rootA[n].hash)
    (hprog : ∀ c, c.programmed = true → (f c).programmed = true) (hrev : ∀ c, c.revoked = true → (f c).revoked = true) :
    burnsTo s.fuses (burnRoot n f s).fuses := by
  refine ⟨BitVec.and_self, BitVec.and_self, BitVec.and_self, BitVec.and_self, le_rfl, fun k => ?_⟩
  unfold burnRoot
  dsimp only
  by_cases hk : k = n
  · subst hk
    rw [modAt_get, modAt_get]
    exact ⟨fun h => ⟨hprog _ h, hA h⟩, hrev _, hprog _, hrev _⟩
  · rw [modAt_get_ne _ _ _ _ hk, modAt_get_ne _ _ _ _ hk]
    exact ⟨fun h => ⟨h, rfl⟩, id, id, id⟩

theorem revokeRoots_burns (l : List (Fin 4)) (w : Word) (s : State) :
    burnsTo s.fuses (s.each l fun n s => if bitAt w n.1 then burnRoot n (fun c => { c with revoked := true }) s else s).fuses := by
  refine List.foldlRecOn (motive := fun t : State => burnsTo s.fuses t.fuses) _ _ (burnsTo_refl _) fun t ht n _ => ?_
  dsimp only
  split
  · exact burnsTo_trans ht (burnRoot_burns (fun _ => rfl) (fun _ h => h) fun _ _ => rfl)
  · exact ht

theorem and_or_self_left {n : Nat} (x y : BitVec n) : x &&& (x ||| y) = x := by
  ext i hi
  simpa using Or.inl

/-- A root is burned only where it is not programmed yet (R604), and SVN_COMMIT takes no smaller number (R613). -/
theorem SecReg.write_burns {r : SecReg} {v : Val} {s : State} (h : SecReg.check s r v = .ok) : burnsTo s.fuses (SecReg.write r v s).fuses := by
  cases r with
  | rootBurn n =>
    have hfree : s.fuses.rootA[n].programmed = false := (firstRefusal_ok (by simp)).mp h (rootProgrammed s n, .access) (by simp)
    refine burnRoot_burns (fun hp => ?_) (fun _ _ => rfl) fun _ hc => hc
    rw [hfree] at hp
    cases hp
  | revoke => exact revokeRoots_burns _ _ s
  | svnCommit =>
    have hrange := (firstRefusal_ok (by simp)).mp h (decide (64 < v.toNat ∨ v.toNat < s.fuses.svn), .range) (by simp)
    have hle : s.fuses.svn ≤ v.toNat := not_lt.mp (not_or.mp (of_decide_eq_false hrange)).2
    exact ⟨BitVec.and_self, BitVec.and_self, BitVec.and_self, BitVec.and_self, hle, fun n => ⟨fun h => ⟨h, rfl⟩, id, id, id⟩⟩
  | _ => exact burnsTo_of_eq (SecReg.write_fuses rfl v s)

theorem SysReg.write_burns (r : SysReg) (v : Val) (s : State) : burnsTo s.fuses (SysReg.write r v s).fuses := by
  cases r with
  | rstmapBurn | pinmapBurn => simp [SysReg.write, burnsTo, and_or_self_left]
  | _ => exact burnsTo_of_eq (SysReg.write_fuses rfl v s)

/-- A write that its object's own checks accept only burns. -/
theorem Obj.apply_burns {o : Obj} {who : By} {v : Val} {s : State} (h : o.check who v s = .ok) : burnsTo s.fuses (o.apply v s).fuses := by
  cases o with
  | sys r => exact SysReg.write_burns r v s
  | sec r => exact SecReg.write_burns h
  | _ => exact burnsTo_of_eq (Obj.apply_fuses rfl v s)

/-! ### One write -/

/-- A write whose status is OK has passed its object's own checks. -/
theorem check_of_ownStatus {who : By} {o : Obj} {ok : Bool} {v : Val} {s : State} (h : ownStatus who o ok v s = .ok) : o.check who v s = .ok := by
  simp only [ownStatus, firstRefusal_cons] at h
  (repeat' split at h) <;> simp_all

theorem ownWrite_burns (who : By) (cond : Bool) (index sub : Nat) (o : Obj) (ok : Bool) (v : Val) (s : State) :
    burnsTo s.fuses (ownWrite who cond index sub o ok v s).2.fuses := by
  fun_cases ownWrite who cond index sub o ok v s with
  | case1 _ note refusal => exact burnsTo_of_eq (by simp [refusal, note])
  | case2 _ note _ _ hrwp t ht =>
    have hrwp := Obj.isBurn_of_rwp (eq_of_beq hrwp)
    exact burnsTo_of_eq (by simp [note, Obj.apply_fuses hrwp, snd_fuses ht (rwpToken_fuses s)])
  | case3 _ note refusal _ _ _ _ t ht => exact burnsTo_of_eq (by simp [refusal, note, snd_fuses ht (rwpToken_fuses s)])
  | case4 _ note _ _ _ hsoft =>
    have hsoft : o = .sys .softrst := by simp_all
    subst hsoft
    exact burnsTo_of_eq (by simp [note, Obj.apply_fuses (o := .sys .softrst) rfl])
  | case5 _ note _ hok =>
    have hburns := Obj.apply_burns (check_of_ownStatus (not_not.mp hok))
    simpa [note] using hburns

@[simp] theorem dictWrite_burns (who : By) (cond : Bool) (index sub : Nat) (ok : Bool) (v : Val) (s : State) :
    burnsTo s.fuses (dictWrite who cond index sub ok v s).2.fuses := by
  fun_cases dictWrite who cond index sub ok v s with
  | case1 stop | case2 stop => simp [stop]
  | case3 _ _ _ _ t ht => exact burnsTo_trans (burnsTo_of_eq (snd_fuses ht (jnlToken_fuses s))) (ownWrite_burns _ _ _ _ _ _ _ t)
  | case4 stop _ _ _ _ _ t ht => exact burnsTo_of_eq (by simp [stop, snd_fuses ht (jnlToken_fuses s)])
  | case5 => exact ownWrite_burns _ _ _ _ _ _ _ s

/-! ### Every path to a write -/

theorem viewWrite_burns {who : By} {l : Fin 4} {f : Fin 17} {ofs index sub : Nat} {ok : Bool} {v : Val} {act : State → State} {s : State}
    (h : burnsTo s.fuses (act s).fuses) : burnsTo s.fuses (viewWrite who l f ofs index sub ok v act s).fuses := by
  fun_cases viewWrite who l f ofs index sub ok v act s <;> simp [h]

@[simp] theorem regWrite_burns (who : By) (index sub : Nat) (v : Val) (s : State) : burnsTo s.fuses (regWrite who index sub v s).fuses := by
  fun_cases regWrite who index sub v s with
  | case6 act => exact viewWrite_burns (by simp [act])
  | _ => simp +zetaDelta

@[simp] theorem writeItems_burns (who : By) (cond : Bool) (l : List WriteItem) (s : State) : burnsTo s.fuses (writeItems who cond l s).2.fuses := by
  induction l generalizing s with
  | nil => simp [writeItems]
  | cons i l ih =>
    unfold writeItems
    dsimp only
    split
    · simp
    · exact burnsTo_trans (dictWrite_burns ..) (ih _)

@[simp] theorem ldpWrite_burns (src : LdpFrom) (who : By) (m : List Byte) (s : State) : burnsTo s.fuses (ldpWrite src who m s).2.fuses := by
  fun_cases ldpWrite src who m s with
  | case4 _ cond _ i r _ _ st bs t ht =>
    have h := writeItems_burns who cond (i :: r) s
    rwa [ht] at h
  | _ => simp +zetaDelta

@[simp] theorem ldpWriteBlob_burns (src : LdpFrom) (who : By) (m : List Byte) (x : Session) (s : State) :
    burnsTo s.fuses (ldpWriteBlob src who m x s).2.fuses := by
  fun_cases ldpWriteBlob src who m x s with
  | case5 _ index sub _ _ stage _ _ _ _ all _ st t ht =>
    have h := dictWrite_burns who false index sub true (.bytes all) (stage none s)
    rw [ht] at h
    simpa [stage] using h
  | _ => simp +zetaDelta

@[simp] theorem sessionOp_burns (src : LdpFrom) (m : List Byte) (x : Session) (s : State) : burnsTo s.fuses (sessionOp src m x s).2.fuses := by
  fun_cases sessionOp src m x s <;> simp

@[simp] theorem serveMsg_burns (src : LdpFrom) (m : List Byte) (s : State) : burnsTo s.fuses (serveMsg src m s).fuses := by
  fun_cases serveMsg src m s <;> simp +zetaDelta

@[simp] theorem serveLdp_burns (src : LdpFrom) (m : List Byte) (s : State) : burnsTo s.fuses (serveLdp src m s).fuses := by
  fun_cases serveLdp src m s <;> simp +zetaDelta

@[simp] theorem arrive_burns (src : LdpFrom) (m : List Byte) (s : State) : burnsTo s.fuses (arrive src m s).fuses := by
  fun_cases arrive src m s <;> simp

@[simp] theorem postMailbox_burns (pf : Fin 4) (m : List Byte) (s : State) : burnsTo s.fuses (postMailbox pf m s).fuses := by
  fun_cases postMailbox pf m s with
  | case1 => simp
  | case2 => exact arrive_burns _ m (s.updMbox pf _)

@[simp] theorem ldpRow_burns (kind : Bool) (src : LdpFrom) (m : List Byte) (s : State) : burnsTo s.fuses (ldpRow kind src m s).fuses := by
  fun_cases ldpRow kind src m s <;> simp

@[simp] theorem mailboxRing_burns (l : Fin 4) (len : Nat) (s : State) : burnsTo s.fuses (mailboxRing l len s).fuses := by
  fun_cases mailboxRing l len s <;> simp

@[simp] theorem viewArrives_burns (l : Fin 4) (f : Fin 17) (ofs : Nat) (bytes : List Byte) (s : State) :
    burnsTo s.fuses (viewArrives l f ofs bytes s).fuses := by
  fun_cases viewArrives l f ofs bytes s with
  | case3 => exact viewWrite_burns (dictWrite_burns ..)
  | _ => simp

@[simp] theorem bar0Write_burns (l : Fin 4) (ofs : Nat) (bytes : List Byte) (s : State) : burnsTo s.fuses (bar0Write l ofs bytes s).fuses := by
  fun_cases bar0Write l ofs bytes s <;> simp

theorem serve_burns (s : State) : burnsTo s.fuses (serve s).fuses := by
  fun_cases serve s with
  | case1 => simp
  | case2 src m r => exact serveLdp_burns src m { s with svc := r }
  | case3 who index sub ok v r _ st t ht | case4 who index sub ok v r _ st t ht =>
    have h := dictWrite_burns who false index sub ok v { s with svc := r }
    rw [ht] at h
    simpa using h
  | case5 => simp

theorem idle_burns (s : State) : burnsTo s.fuses (idle s).fuses := by
  fun_cases idle s
  · exact serve_burns s
  · simp

/-! ### Every step -/

theorem burnsTo_of_next {s t u : State} (h : (.next u : Host.Outcome State Fault Refusal) = .next t) (hu : burnsTo s.fuses u.fuses) :
    burnsTo s.fuses t.fuses := by
  cases h
  exact hu

theorem exec_burns {c : Instr} {s t : State} (h : exec c s = .next t) : burnsTo s.fuses t.fuses := by
  cases c with
  | softrst | rstmapBurn | pinmapBurn | cntctlClear | eyeStart | laneEnable | laneDisable | portctlWrite | portRelease | cmdRead | cmdWrite
  | cmdPendingWrite | sourceWrite | peakRateWrite | takeStart | takeStop | takeAbort | linCommit | mapSwap | mixCommit | curveCommit | curveLoad
  | tallyCommit | specClear | countLoad | encEnable | encDisable | idxArm | cmpArm | cmpDisarm | targetWrite | listWrite | tbctlWrite | seqRun
  | seqStop | cueWrite | histDivWrite | arrayCal | swPublish | herdEnWrite | xoffEnable | xoffDisable | cellSelect | qpop | dmaEnable | dmaDisable
  | dmaAbort | dmaResume | dbClear | doorbellWrite | intmaskWrite | psDataWrite | pairfnWrite | mapAreaWrite | axisStart | axisStop | axisIstop
  | tripClear | posWrite | waveTabWrite | jnlSelWrite | rootBurn | rootRevoke | rootPubkeyWrite | svnCommit | updOpen | updData | updVerify
  | updRetire | updReinstate | attReq | dbgToken | registerWrite =>
    exact burnsTo_of_next h (regWrite_burns ..)
  | ldpOpen | ldpClose | ldpKeepalive | ldpRead | ldpWrite | ldpReadBlob | ldpWriteBlob | ldpDescribe | ldpJnlRead | ldpUnknownOp | ldpMalformed =>
    exact burnsTo_of_next h (ldpRow_burns ..)
  | viewWrite => exact burnsTo_of_next h (viewArrives_burns ..)
  | bar0WindowWrite => exact burnsTo_of_next h (bar0Write_burns ..)
  | mbDoorbell => exact burnsTo_of_next h (mailboxRing_burns ..)
  | codewordReceived | alignmentCodeword | trainingFrame | jtagProcDebug =>
    simp only [exec, execCodewordReceived, execAlignmentCodeword, execTrainingFrame, execJtagProcDebug] at h
    split at h <;> cases h
    exact burnsTo_of_eq (by simp)
  | seqStartTask j =>
    refine burnsTo_of_next h (burnsTo_of_eq (performTask_fuses _ _ s fun u v hv => ?_))
    split at hv <;> cases hv
    exact startSeq_fuses j u
  | linkUp =>
    refine burnsTo_of_next h (burnsTo_of_eq ?_)
    dsimp only
    (repeat' split) <;> rfl
  | softResetDelayedAssert | replayReqResend | replayTimeout | lateCueFire | dmaIllegalOp | waitSatisfied | waitTimeout | viewReadTimeout =>
    refine burnsTo_of_next h (burnsTo_of_eq ?_)
    (repeat' split) <;> simp
  | _ => exact burnsTo_of_next h (burnsTo_of_eq (by simp))

theorem step_burns {s t : State} (h : step s = .next t) : burnsTo s.fuses t.fuses := by
  unfold step at h
  split at h
  next c rest _ => exact exec_burns (s := { s with pending := rest }) h
  next => exact burnsTo_of_next h (idle_burns s)

/-- Settles O59: a command, and a clock on an empty queue, touches a fuse only through the five burning registers, and these only burn. -/
theorem fusesOnlyBurn : Obligations.FusesOnlyBurn := fun _ _ => step_burns

end Sys2Proof.Machine
end

