-- ==== Sys2Proof/Proofs/ThermalTrip.lean ====
section
/-! The thermal sensors: what a sample and the warning leave unchanged, the trip, and the recovery from both (R78 to R83). -/

namespace Sys2Proof.Machine

open Sys2Proof

/-! ### The hottest working sensor -/

theorem working_of_failed {s t : State} (h : t.thermal.failed = s.thermal.failed) : working t = working s := by
  simp only [working, h]

/-- As long as a sensor works, one of the working ones is the hottest. -/
theorem exists_hottest {s : State} (h : working s ≠ []) : ∃ i ∈ working s, hottest s = some i := by
  obtain ⟨a, l, hw⟩ := List.exists_cons_of_ne_nil h
  unfold hottest
  rw [hw, List.foldl_cons]
  refine List.foldlRecOn (motive := fun b => ∃ i ∈ a :: l, b = some i) l _ ⟨a, List.mem_cons_self, rfl⟩ ?_
  rintro _ ⟨j, hj, rfl⟩ i hi
  dsimp only
  split
  · exact ⟨i, List.mem_cons_of_mem a hi, rfl⟩
  · exact ⟨j, hj, rfl⟩

/-- TJ_HOT moving changes the sensors' state, the router, the fault state, the host ports and the record of what is sent. -/
theorem settleHot_frame (s : State) :
    settleHot s = { s with thermal := (settleHot s).thermal, router := (settleHot s).router, faults := (settleHot s).faults
                           host := (settleHot s).host, tx := (settleHot s).tx } := by
  unfold settleHot
  split
  · rfl
  · dsimp only
    split
    · rw [deviceVector_frame, fault_frame, publish_frame]
    · rfl

@[simp] theorem settleHot_rst (s : State) : (settleHot s).rst = s.rst := by rw [settleHot_frame]
@[simp] theorem settleHot_pins (s : State) : (settleHot s).pins = s.pins := by rw [settleHot_frame]
@[simp] theorem settleHot_mram (s : State) : (settleHot s).mram = s.mram := by rw [settleHot_frame]

/-- TJ_HOT and HOT_IDX take the hottest sensor and the warning follows; the sticky warning may be set (R79 to R81). -/
theorem settleHot_thermal {s : State} {i : Fin 16} (h : hottest s = some i) :
    ∃ sticky, (settleHot s).thermal =
      { ({ s.thermal with hot := s.thermal.sens[i], hotIdx := i } : Thermal).followWarn with warnSticky := sticky } := by
  simp only [settleHot, h]
  split
  · rw [deviceVector_frame, fault_frame, publish_frame]
    exact ⟨true, rfl⟩
  · exact ⟨_, rfl⟩

/-- Whichever sensor is hottest, readings, failures, the warning's threshold and the trip count stay. -/
theorem settleHot_thermal_frame (s : State) :
    (settleHot s).thermal = { s.thermal with hot := (settleHot s).thermal.hot, hotIdx := (settleHot s).thermal.hotIdx
                                             warn := (settleHot s).thermal.warn, warnSticky := (settleHot s).thermal.warnSticky } := by
  cases h : hottest s with
  | none => simp [settleHot, h]
  | some i =>
    obtain ⟨sticky, ht⟩ := settleHot_thermal h
    rw [ht]
    rfl

@[simp] theorem settleHot_sens (s : State) : (settleHot s).thermal.sens = s.thermal.sens := by rw [settleHot_thermal_frame]
@[simp] theorem settleHot_failed (s : State) : (settleHot s).thermal.failed = s.thermal.failed := by rw [settleHot_thermal_frame]
@[simp] theorem settleHot_tripCount (s : State) : (settleHot s).thermal.tripCount = s.thermal.tripCount := by rw [settleHot_thermal_frame]
@[simp] theorem working_settleHot (s : State) : working (settleHot s) = working s := working_of_failed (settleHot_failed s)

/-! ### Calibration after a sample -/

/-- A calibration changes its quadrant, the lanes and the fault state, and draws free values. -/
theorem recalibrate_frame (q : Fin 4) (s : State) :
    recalibrate q s = { s with quads := (recalibrate q s).quads, lanes := (recalibrate q s).lanes, draw := (recalibrate q s).draw
                               faults := (recalibrate q s).faults } := by
  unfold recalibrate calibrate
  dsimp only
  split
  · rfl
  · split
    · split
      · rw [fault_frame]
        rfl
      · rfl
    · rfl

theorem recalibrate_thermal (q : Fin 4) (s : State) : (recalibrate q s).thermal = s.thermal := by rw [recalibrate_frame]
theorem recalibrate_rst (q : Fin 4) (s : State) : (recalibrate q s).rst = s.rst := by rw [recalibrate_frame]

/-- In a level-0 reset every block is in reset. -/
theorem inReset_of_level_zero {s : State} (h : s.rst.level = some 0) (b : Blk) : inReset b s = true := by
  unfold inReset
  rw [h]
  rfl

/-- In a level-0 reset no quadrant calibrates. -/
theorem recalibrate_of_level_zero {s : State} (h : s.rst.level = some 0) (q : Fin 4) : recalibrate q s = s := by
  simp [recalibrate, inReset_of_level_zero h]

theorem each_recalibrate_of_level_zero {s : State} (h : s.rst.level = some 0) (l : List (Fin 4)) : s.each l recalibrate = s :=
  State.each_ind (· = s) l _ (fun q _ _ ht => ht ▸ recalibrate_of_level_zero h q) s rfl

/-! ### The trip -/

theorem wholeLevel_of_rst {s t : State} (h : t.rst = s.rst) (lo : Nat) : wholeLevel t lo = wholeLevel s lo := by
  unfold wholeLevel mappedLevel
  rw [h]

/-- No working sensor at 160 degrees: no trip. -/
theorem tripHeat_of_cool {s : State} (h : ∀ i ∈ working s, tempOf s.thermal.sens[i] < 2560) : tripHeat s = s := by
  have hnone : ((working s).find? fun i => decide (2560 ≤ tempOf s.thermal.sens[i])) = none := by
    simpa [List.find?_eq_none] using h
  simp only [tripHeat, hnone]

/-- With no reset in force, a source at level 0 resets everything but the sensors and the outputs with no cold state (R82, R87, R101). -/
theorem assertReset_level_zero {s : State} (src : RstSrc) (h : s.rst.level = none) :
    (assertReset src 0 none s).rst.level = some 0 ∧ (assertReset src 0 none s).rst.held = [src] ∧ (assertReset src 0 none s).faults = {}
      ∧ (assertReset src 0 none s).pins.thermtripN = s.pins.thermtripN ∧ (assertReset src 0 none s).thermal.failed = s.thermal.failed
      ∧ (assertReset src 0 none s).thermal.tripCount = s.thermal.tripCount := by
  simp [assertReset, h, startReset, applyLevel, coldReset, coldPins, cold33, cold18, Thermal.followWarn]

/-- The state in which a trip by sensor i asserts THERMAL: counted, its record captured, THERMTRIP_N low (R83). -/
def tripped (i : Fin 16) (s : State) : State :=
  (captureFault 0x0404 2 .sensor i.1 0 { s with thermal := { s.thermal with tripCount := satInc s.thermal.tripCount } }).updPins
    fun p => { p with thermtripN := .low }

/-- A working sensor at 160 degrees or more trips, unless the device has tripped already (R83). -/
theorem tripHeat_of_hot {s : State} (hpin : s.pins.thermtripN = .hiZ) (hmram : s.mram.writesBarred = false)
    (hhot : ∃ i ∈ working s, 2560 ≤ tempOf s.thermal.sens[i]) : ∃ i, tripHeat s = assertThermal (tripped i s) := by
  have hsome : ((working s).find? fun i => decide (2560 ≤ tempOf s.thermal.sens[i])).isSome = true := by
    simpa [List.find?_isSome, -Fin.getElem_fin] using hhot
  obtain ⟨i, hi⟩ := Option.isSome_iff_exists.mp hsome
  refine ⟨i, ?_⟩
  simp only [tripHeat, hi, hpin, hmram, tripped]
  rfl

/-! ### A sample -/

/-- A sample in which no working sensor fails and enough of them work: TJ_HOT and the warning follow, then trip and calibration are looked at. -/
theorem thermalSample_of_sound {v : Vector (BitVec 24) 16} {s u : State} (hu : u = { s with thermal := { s.thermal with sens := v } })
    (hlevel : s.rst.level = none) (hbad : ∀ i ∈ working u, sensorBad u i = false) (hlen : 8 ≤ (working (tripHeat (settleHot u))).length) :
    thermalSample v s = (tripHeat (settleHot u)).each (List.finRange 4) recalibrate := by
  have hnone : (working u).filter (sensorBad u) = [] := by simpa [List.filter_eq_nil_iff] using hbad
  have hfail : u.each ((working u).filter (sensorBad u)) failSensor = u := by rw [hnone]; rfl
  simp [thermalSample, hlevel, takeSample, ← hu, hfail, Nat.not_lt.mpr hlen]

/-- Below the trip TJ_HOT is the hottest working sensor, and the warning follows it (R79 to R81). -/
theorem thermalSample_of_cool {v : Vector (BitVec 24) 16} {s u : State} (hu : u = { s with thermal := { s.thermal with sens := v } })
    (hlevel : s.rst.level = none) (hlen : 8 ≤ (working u).length) (hok : ∀ i ∈ working u, sensorBad u i = false ∧ tempOf v[i] < 2560) :
    ∃ i sticky, hottest u = some i ∧ (thermalSample v s).rst = s.rst
      ∧ (thermalSample v s).thermal = { ({ u.thermal with hot := v[i], hotIdx := i } : Thermal).followWarn with warnSticky := sticky } := by
  have hsens : u.thermal.sens = v := by rw [hu]
  have hcool : tripHeat (settleHot u) = settleHot u := tripHeat_of_cool (by simpa [hsens] using fun i hi => (hok i hi).2)
  obtain ⟨i, -, hi⟩ := exists_hottest (s := u) fun h => by simp [h] at hlen
  obtain ⟨sticky, hthermal⟩ := settleHot_thermal hi
  have hsample := thermalSample_of_sound hu hlevel (fun i hi => (hok i hi).1) (by simpa [hcool] using hlen)
  rw [hcool] at hsample
  refine ⟨i, sticky, hi, ?_, ?_⟩
  · rw [hsample, State.each_keeps State.rst _ _ recalibrate_rst, settleHot_rst, hu]
  · rw [hsample, State.each_keeps State.thermal _ _ recalibrate_thermal, hthermal, hsens]

/-- At the trip, with THERMAL mapped to level 0, the device falls into a level-0 reset held by THERMAL (R83, R97, R635). -/
theorem thermalSample_of_hot {v : Vector (BitVec 24) 16} {s u : State} (hu : u = { s with thermal := { s.thermal with sens := v } })
    (hlevel : s.rst.level = none) (hmap : wholeLevel s 4 = 0) (hpin : s.pins.thermtripN = .hiZ) (hheld : s.rst.held = [])
    (hmram : s.mram.writesBarred = false) (hlen : 8 ≤ (working u).length) (hbad : ∀ i ∈ working u, sensorBad u i = false)
    (hhot : ∃ i ∈ working u, 2560 ≤ tempOf v[i]) : ∃ i, thermalSample v s = assertReset .thermal 0 none (tripped i (settleHot u)) := by
  obtain ⟨i, htrip⟩ := tripHeat_of_hot (s := settleHot u) (by simp [hu, hpin]) (by simp [hu, hmram]) (by simpa [hu] using hhot)
  have hrst : (tripped i (settleHot u)).rst = s.rst := by simp [tripped, captureFault, hu]
  have hassert : assertThermal (tripped i (settleHot u)) = assertReset .thermal 0 none (tripped i (settleHot u)) := by
    simp [assertThermal, hrst, hheld, wholeLevel_of_rst hrst, hmap]
  obtain ⟨hzero, -, -, -, hfailed, -⟩ := assertReset_level_zero (s := tripped i (settleHot u)) .thermal (by rw [hrst, hlevel])
  have hworking : working (tripHeat (settleHot u)) = working u :=
    working_of_failed (by rw [htrip, hassert, hfailed]; simp [tripped, captureFault])
  refine ⟨i, ?_⟩
  rw [thermalSample_of_sound hu hlevel hbad (by rwa [hworking]), htrip, hassert, each_recalibrate_of_level_zero hzero]

/-- Settles O9: a sample follows the hottest sensor or trips, and each recovery undoes its own mark. -/
theorem thermalSensorsAndTrip : Obligations.ThermalSensorsAndTrip := by
  refine ⟨fun v s u hu hlevel hlen hok => ?_, fun v s u hu hlevel hmap hpin hheld hmram hlen hbad hhot => ?_, fun i s => ⟨?_, ?_, ?_⟩⟩
  · obtain ⟨i, sticky, hi, hrst, hthermal⟩ := thermalSample_of_cool hu hlevel hlen hok
    refine ⟨_, i, rfl, hi, ?_⟩
    rw [hthermal, hrst, thermalSample_fuses]
    subst hu
    refine ⟨rfl, rfl, rfl, rfl, fun hwarm => ?_, fun hcold => ?_, rfl, rfl⟩
    · simp [Thermal.followWarn, hwarm, -Fin.getElem_fin]
    · simp [Thermal.followWarn, hcold, -Fin.getElem_fin]
      omega
  · obtain ⟨i, hsample⟩ := thermalSample_of_hot hu hlevel hmap hpin hheld hmram hlen hbad hhot
    obtain ⟨hzero, hby, hfaults, htrip, -, hcount⟩ :=
      assertReset_level_zero (s := tripped i (settleHot u)) .thermal (by simp [tripped, captureFault, hu, hlevel])
    rw [← hsample] at hzero hby hfaults htrip hcount
    exact ⟨_, rfl, htrip, hzero, hby, by simpa [tripped, captureFault, hu] using hcount, hfaults⟩
  · intro hfailed hgood
    exact ⟨_, rfl, by simp [sensorRecovers, hfailed, hgood]⟩
  · intro hworks
    simp [exec, execSensorRecover, sensorRecovers, hworks]
  · intro hheld hlen hcool
    have hall : ((working s).all fun k => decide (tempOf s.thermal.sens[k] < 2240)) = true := by simpa using hcool
    simp only [exec, execThermalRelease, thermalEnds]
    rw [if_pos ⟨hheld, hlen, hall⟩]

end Sys2Proof.Machine
end

