-- ==== Sys2Proof/Proofs/PinFrames.lean ====
section
/-! What drives no pin, on the way from a register's write to its effect: one lemma for each operation, in the order of the model's units. An
operation that takes a function as its argument asks that this function leaves the pins alone. -/

namespace Sys2Proof.Machine

open Sys2Proof

/-! ### Choices and walks -/

/-- What an operation's state keeps, seen once its result is known by its parts. -/
theorem snd_keeps {α β : Type} (get : State → β) {r : α × State} {x : α} {s t : State} (h : r = (x, t)) (hr : get r.2 = get s) :
    get t = get s := by
  rw [← hr, h]

@[simp] theorem State.ite_pins (c : Prop) [Decidable c] (s t : State) : (if c then s else t).pins = if c then s.pins else t.pins :=
  apply_ite (·.pins) c s t

@[simp] theorem foldl_pins {α : Type} (f : State → α → State) (l : List α) (s : State) (h : ∀ t a, (f t a).pins = t.pins) :
    (l.foldl f s).pins = s.pins :=
  State.each_keeps (·.pins) l (fun a t => f t a) (fun a t => h t a) s

@[simp] theorem State.each_pins {α : Type} (s : State) (l : List α) (f : α → State → State) (h : ∀ a t, (f a t).pins = t.pins) :
    (s.each l f).pins = s.pins :=
  State.each_keeps (·.pins) l f h s

/-! ### Shared operations: vectors, publishes, the fault and violation logs, reads that draw -/

@[simp] theorem sendVector_pins (l : Fin 4) (g : Fin 17) (e : Nat) (s : State) : (sendVector l g e s).pins = s.pins := by
  simp [sendVector]

@[simp] theorem deviceVector_pins (e : Nat) (s : State) : (deviceVector e s).pins = s.pins := by simp [deviceVector]
@[simp] theorem channelVector_pins (c : Fin 512) (s : State) : (channelVector c s).pins = s.pins := by simp [channelVector]
@[simp] theorem publishAt_pins (t : Nat) (code : Nat) (s : State) : (publishAt t code s).pins = s.pins := by simp [publishAt]
@[simp] theorem publish_pins (code : Nat) (s : State) : (publish code s).pins = s.pins := by simp [publish]
@[simp] theorem publishOn_pins (c : Fin 128) (s : State) : (publishOn c s).pins = s.pins := by simp [publishOn]
@[simp] theorem postRec_pins (r : FaultRec) (s : State) : (postRec r s).pins = s.pins := by simp [postRec]

@[simp] theorem fault_pins (code : Nat) (sev : Nat) (cls : FClass) (idx : Nat) (detail : Nat) (s : State) :
    (fault code sev cls idx detail s).pins = s.pins := by
  simp [fault]

@[simp] theorem giveWay_pins (code : Nat) (rung : Fin 5) (cls : FClass) (idx : Nat) (detail : Nat) (s : State) :
    (giveWay code rung cls idx detail s).pins = s.pins := by
  simp [giveWay]

@[simp] theorem logVio_pins (kind : Nat) (target : Nat) (st : Status) (initiator : Nat) (s : State) :
    (logVio kind target st initiator s).pins = s.pins := by
  fun_cases logVio kind target st initiator s <;> simp +zetaDelta

/-! ### The journal -/

@[simp] theorem jnlAppend_pins (src : Nat) (index : Nat) (sub : Nat) (status : Nat) (value : Nat) (s : State) :
    (jnlAppend src index sub status value s).pins = s.pins := by
  simp [jnlAppend]

@[simp] theorem jnlToken_pins (s : State) : (jnlToken s).2.pins = s.pins := by
  fun_cases jnlToken s <;> exact State.updAcc_pins _ _

@[simp] theorem rwpToken_pins (s : State) : (rwpToken s).2.pins = s.pins := by fun_cases rwpToken s <;> simp
@[simp] theorem rwpRecord_pins (key : Nat) (v : Val) (s : State) : (rwpRecord key v s).pins = s.pins := by simp [rwpRecord]

/-! ### Security: images, attestation, tokens -/

@[simp] theorem updSlot_pins (n : Fin 2) (f : Slot → Slot) (s : State) : (updSlot n f s).pins = s.pins := by simp [updSlot]

@[simp] theorem tokenTaken_pins (honours : List Nat) (bs : List Byte) (s : State) : (tokenTaken honours bs s).pins = s.pins := by
  simp [tokenTaken]

@[simp] theorem writeUpdCtl_pins (w : Word) (s : State) : (writeUpdCtl w s).pins = s.pins := by simp [writeUpdCtl]

@[simp] theorem SecReg.refused_pins (r : SecReg) (v : Val) (s : State) : (SecReg.refused r v s).pins = s.pins := by
  fun_cases SecReg.refused r v s <;> simp

/-! ### Lanes -/

@[simp] theorem sendTwice_pins (n : Fin 64) (x : BitVec 256) (s : State) : (sendTwice n x s).pins = s.pins := by simp [sendTwice]
@[simp] theorem drive_pins (n : Fin 64) (ps : List Level) (s : State) : (drive n ps s).pins = s.pins := by simp [drive]
@[simp] theorem leaveIdle_pins (n : Fin 64) (s : State) : (leaveIdle n s).pins = s.pins := by simp [leaveIdle]
@[simp] theorem enterT_pins (n : Fin 64) (t : TState) (s : State) : (enterT n t s).pins = s.pins := by simp [enterT]

/-! ### Queues and the cell pool -/

@[simp] theorem lendOnDie_pins (s : State) : (lendOnDie s).pins = s.pins := by simp [lendOnDie]

@[simp] theorem revokeFrom_pins (r : Fin 32) (s : State) : (revokeFrom r s).pins = s.pins := by
  unfold revokeFrom
  dsimp only
  (repeat' split) <;> simp

@[simp] theorem lendStall_pins (s : State) : (lendStall s).pins = s.pins := by simp [lendStall]
@[simp] theorem watermark_pins (q : Fin 512) (s : State) : (watermark q s).pins = s.pins := by simp [watermark]
@[simp] theorem handBack_pins (cs : List PCell) (s : State) : (handBack cs s).pins = s.pins := by simp [handBack]
@[simp] theorem owePipeGap_pins (r : Fin 32) (s : State) : (owePipeGap r s).pins = s.pins := by simp [owePipeGap]
@[simp] theorem listPreserving_pins (s : State) : (listPreserving s).pins = s.pins := by simp [listPreserving]

/-! ### Pipelines -/

@[simp] theorem closePacket_pins (p : Fin 16) (c : Closed) (s : State) : (closePacket p c s).pins = s.pins := by simp [closePacket]

@[simp] theorem logSlate_pins (p : Fin 16) (src : Fin 18) (epoch : BitVec 16) (s : State) : (logSlate p src epoch s).pins = s.pins := by
  simp [logSlate]

@[simp] theorem packetLost_pins (p : Fin 16) (s : State) : (packetLost p s).pins = s.pins := by simp [packetLost]

@[simp] theorem closeImage_pins (p : Fin 16) (s : State) : (closeImage p s).pins = s.pins := by
  fun_cases closeImage p s <;> simp +zetaDelta

@[simp] theorem settleImage_pins (p : Fin 16) (s : State) : (settleImage p s).pins = s.pins := by simp [settleImage]
@[simp] theorem dropLap_pins (p : Fin 16) (g : Shape) (s : State) : (dropLap p g s).pins = s.pins := by simp [dropLap]

/-! ### Stage 8 and the Tally engines -/

@[simp] theorem abandonImage_pins (p : Fin 16) (s : State) : (abandonImage p s).pins = s.pins := by simp [abandonImage]

/-! ### Pipeline objects -/

@[simp] theorem writeCfg_pins (p : Fin 16) (f : PipeCfg → PipeCfg) (s : State) : (writeCfg p f s).pins = s.pins := by simp [writeCfg]

@[simp] theorem writeTally_pins (p : Fin 16) (f : TallySet → TallySet) (s : State) : (writeTally p f s).pins = s.pins := by
  simp [writeTally]

@[simp] theorem PipeReg.write_pins (p : Fin 16) (r : PipeReg) (v : Val) (s : State) : (PipeReg.write p r v s).pins = s.pins := by
  fun_cases PipeReg.write p r v s <;> simp +zetaDelta

/-! ### Heads and sources -/

@[simp] theorem sendOn_pins (ls : List (Fin 64)) (x : BitVec 256) (s : State) : (sendOn ls x s).pins = s.pins := by simp [sendOn]
@[simp] theorem wakeLane_pins (n : Fin 64) (s : State) : (wakeLane n s).pins = s.pins := by simp [wakeLane]
@[simp] theorem wakeDown_pins (p : Fin 16) (s : State) : (wakeDown p s).pins = s.pins := by simp [wakeDown]
@[simp] theorem clearFrame_pins (h : Fin 16) (s : State) : (clearFrame h s).pins = s.pins := by simp [clearFrame]
@[simp] theorem clearPcam_pins (n : Fin 2) (s : State) : (clearPcam n s).pins = s.pins := by simp [clearPcam]
@[simp] theorem recheckHead_pins (h : Fin 16) (s : State) : (recheckHead h s).pins = s.pins := by simp [recheckHead]

@[simp] theorem sendCommand_pins (h : Fin 16) (op : Nat) (addr : BitVec 24) (value : BitVec 64) (s : State) :
    (sendCommand h op addr value s).pins = s.pins := by
  unfold sendCommand
  dsimp only
  (repeat' split) <;> simp

@[simp] theorem startTake_pins (i : Fin 18) (s : State) : (startTake i s).pins = s.pins := by
  unfold startTake
  dsimp only
  (repeat' split) <;> simp

/-! ### Links and ports -/

@[simp] theorem setPState_pins (p : Fin 16) (x : PState) (s : State) : (setPState p x s).pins = s.pins := by
  fun_cases setPState p x s <;> simp +zetaDelta

@[simp] theorem newAttempt_pins (p : Fin 16) (s : State) : (newAttempt p s).pins = s.pins := by
  fun_cases newAttempt p s <;> simp +zetaDelta

@[simp] theorem sendPort_pins (p : Fin 16) (x : BitVec 256) (s : State) : (sendPort p x s).pins = s.pins := by simp [sendPort]
@[simp] theorem settlePort_pins (h : Fin 16) (p : Fin 16) (s : State) : (settlePort h p s).pins = s.pins := by simp [settlePort]
@[simp] theorem settlePause_pins (s : State) : (settlePause s).pins = s.pins := by simp [settlePause]

@[simp] theorem sendTrigger_pins (h : Fin 16) (line cue : Nat) (s : State) : (sendTrigger h line cue s).2.pins = s.pins := by
  unfold sendTrigger
  dsimp only
  split
  · simp
  · exact State.each_pins _ _ _ fun _ _ => rfl

@[simp] theorem dropSlots_pins (p : Fin 16) (s : State) : (dropSlots p s).pins = s.pins := State.each_pins _ _ _ fun _ _ => rfl

@[simp] theorem startReplay_pins (p : Fin 16) (move : Bool) (role : Nat) (newLid : Nat) (failed : Option (Fin 64)) (s : State) :
    (startReplay p move role newLid failed s).pins = s.pins := by
  unfold startReplay
  dsimp only
  (repeat' split) <;> simp

@[simp] theorem failover_pins (p : Fin 16) (n : Fin 64) (s : State) : (failover p n s).pins = s.pins := by simp [failover]
@[simp] theorem settleUsIdle_pins (n : Fin 64) (s : State) : (settleUsIdle n s).pins = s.pins := by fun_cases settleUsIdle n s <;> simp

@[simp] theorem memberChanged_pins (n : Fin 64) (s : State) : (memberChanged n s).pins = s.pins := by
  fun_cases memberChanged n s <;> simp

@[simp] theorem enablePort_pins (p : Fin 16) (s : State) : (enablePort p s).pins = s.pins := by simp [enablePort]

/-! ### The event router -/

@[simp] theorem updTask_pins (t : Task) (f : TaskReg → TaskReg) (s : State) : (updTask t f s).pins = s.pins := by
  fun_cases updTask t f s <;> simp

@[simp] theorem RouterReg.write_pins (r : RouterReg) (v : Val) (s : State) : (RouterReg.write r v s).pins = s.pins := by
  cases r with
  | firedMap | recursionMap => exact State.each_pins _ _ _ fun _ _ => rfl
  | _ => simp [RouterReg.write]

/-! ### Timebase, cues and the ring -/

@[simp] theorem firePin_pins (n : Fin 32) (detail : Nat) (s : State) : (firePin n detail s).2.pins = s.pins := by
  fun_cases firePin n detail s <;> simp

@[simp] theorem recordCue_pins (i : Fin 18) (r : CueRec) (s : State) : (recordCue i r s).pins = s.pins := by simp [recordCue]

@[simp] theorem fireCue_pins (k : BitVec 12) (value : BitVec 48) (late : Bool) (s : State) : (fireCue k value late s).pins = s.pins := by
  unfold fireCue
  dsimp only
  refine (State.each_pins _ _ _ fun n t => ?_).trans ?_
  · split
    · rfl
    · simp
  · rw [State.ite_pins, publishOn_pins, ite_self]
    split
    · split <;> rename_i h <;> simp [snd_keeps State.pins h (sendTrigger_pins _ _ _ s)]
    · rfl

@[simp] theorem advanceSeq_pins (i : Fin 16) (s : State) : (advanceSeq i s).pins = s.pins := by simp [advanceSeq]

@[simp] theorem walkSeq_pins (i : Fin 16) (owed : List (BitVec 48 × BitVec 48)) (now : Option (BitVec 48 × BitVec 48)) (k : Nat) (fresh : Bool)
    (s : State) : (walkSeq i owed now k fresh s).pins = s.pins := by
  induction k generalizing fresh s with
  | zero => rfl
  | succ k ih => unfold walkSeq; dsimp only; (repeat' split) <;> simp [ih]

@[simp] theorem runSeqs_pins (now : Option (BitVec 48 × BitVec 48)) (s : State) : (runSeqs now s).pins = s.pins := by simp [runSeqs]
@[simp] theorem loadTb_pins (v : BitVec 48) (s : State) : (loadTb v s).pins = s.pins := by simp [loadTb]
@[simp] theorem intoRing_pins (v : BitVec 48) (s : State) : (intoRing v s).pins = s.pins := by simp [intoRing]
@[simp] theorem sourceLoad_pins (v : BitVec 48) (s : State) : (sourceLoad v s).pins = s.pins := by simp [sourceLoad]
@[simp] theorem writeTbctl_pins (w : Word) (s : State) : (writeTbctl w s).pins = s.pins := by simp [writeTbctl]
@[simp] theorem startSeq_pins (i : Fin 16) (s : State) : (startSeq i s).pins = s.pins := by simp [startSeq]
@[simp] theorem stopSeq_pins (i : Fin 16) (s : State) : (stopSeq i s).pins = s.pins := by simp [stopSeq]
@[simp] theorem writeArrayctl_pins (w : Word) (s : State) : (writeArrayctl w s).pins = s.pins := by simp [writeArrayctl]

/-! ### Encoders -/

@[simp] theorem cmpPublish_pins (n : Fin 16) (done : Bool) (s : State) : (cmpPublish n done s).pins = s.pins := by simp [cmpPublish]
@[simp] theorem updCmp_pins (n : Fin 16) (f : Cmp → Cmp) (s : State) : (updCmp n f s).pins = s.pins := by simp [updCmp]
@[simp] theorem cmpFinish_pins (n : Fin 16) (s : State) : (cmpFinish n s).pins = s.pins := by simp [cmpFinish]
@[simp] theorem cmpHit_pins (n : Fin 16) (t : Nat) (late : Bool) (s : State) : (cmpHit n t late s).pins = s.pins := by simp [cmpHit]

@[simp] theorem cmpPass_pins (n : Fin 16) (t : Nat) (crossing : Bool) (s : State) : (cmpPass n t crossing s).pins = s.pins := by
  simp [cmpPass]

@[simp] theorem cmpTest_pins (n : Fin 16) (s : State) : (cmpTest n s).pins = s.pins := by simp [cmpTest]
@[simp] theorem cmpArm_pins (n : Fin 16) (s : State) : (cmpArm n s).pins = s.pins := by simp [cmpArm]
@[simp] theorem loadCount_pins (n : Fin 16) (v : BitVec 48) (s : State) : (loadCount n v s).pins = s.pins := by simp [loadCount]

@[simp] theorem EncReg.write_pins (n : Fin 16) (r : EncReg) (v : Val) (s : State) : (EncReg.write n r v s).pins = s.pins := by
  fun_cases EncReg.write n r v s <;> simp +zetaDelta

/-! ### The DMA engine -/

@[simp] theorem dmaCause_pins (c : Fin 512) (bit : Nat) (s : State) : (dmaCause c bit s).pins = s.pins := by simp [dmaCause]
@[simp] theorem dmaHalt_pins (c : Fin 512) (h : Halt) (pc : Nat) (s : State) : (dmaHalt c h pc s).pins = s.pins := by simp [dmaHalt]

@[simp] theorem dmaBad_pins (c : Fin 512) (pc : Nat) (opc : Nat) (cause : BadCause) (addr : Nat) (s : State) :
    (dmaBad c pc opc cause addr s).pins = s.pins := by
  simp [dmaBad]

@[simp] theorem Flight.mark_pins (f : Flight) (c : Fin 512) (cause : BadCause) (addr : Nat) (s : State) :
    (Flight.mark f c cause addr s).2.pins = s.pins := by
  fun_cases Flight.mark f c cause addr s <;> simp

@[simp] theorem writeInside_pins (sp : Space) (a : Nat) (bs : List Byte) (bad : List Nat) (s : State) :
    (writeInside sp a bs bad s).pins = s.pins := by
  fun_cases writeInside sp a bs bad s <;> simp

@[simp] theorem sendReads_pins (c : Fin 512) (a k : Nat) (s : State) : (sendReads c a k s).pins = s.pins :=
  foldl_pins _ _ _ fun _ _ => rfl

@[simp] theorem sendWrites_pins (c : Fin 512) (a : Nat) (bs : List Byte) (bad : List Nat) (s : State) : (sendWrites c a bs bad s).pins = s.pins :=
  foldl_pins _ _ _ fun _ _ => rfl

theorem issueOne_pins {c : Fin 512} {s t : State} (h : issueOne c s = some t) : t.pins = s.pins := by
  unfold issueOne at h
  dsimp only at h
  (repeat' split at h) <;> cases h <;> simp

@[simp] theorem issueRound_pins (cls : Fin 4) (s : State) : (issueRound cls s).2.pins = s.pins := by
  unfold issueRound
  refine List.foldlRecOn (motive := fun r : Bool × State => r.2.pins = s.pins) _ _ rfl fun r hr c _ => ?_
  dsimp only
  split
  next h => exact (issueOne_pins h).trans hr
  next => exact hr

@[simp] theorem issueClass_pins (cls : Fin 4) (k : Nat) (s : State) : (issueClass cls k s).pins = s.pins := by
  have hround := issueRound_pins cls
  -- The round is made opaque first: unfolded by its equation, `issueClass` has Lean evaluate a round over all 512 channels.
  delta issueClass issueClass._f
  generalize issueRound = round at hround ⊢
  induction k generalizing s with
  | zero => rfl
  | succ k ih =>
    dsimp only
    split
    next h => exact (ih _).trans (snd_keeps State.pins h (hround s))
    next => rfl

@[simp] theorem issueAll_pins (s : State) : (issueAll s).pins = s.pins := by simp [issueAll]

@[simp] theorem writePieces_pins (c : Fin 512) (ps : List Piece) (f : Flight) (ord : Bool) (s : State) :
    (writePieces c ps f ord s).2.2.2.pins = s.pins := by
  induction ps generalizing f ord s with
  | nil => rfl
  | cons p ps ih => unfold writePieces; dsimp only; (repeat' split) <;> simp [ih]

@[simp] theorem writeFlights_pins (c : Fin 512) (fs : List Flight) (ord : Bool) (s : State) : (writeFlights c fs ord s).2.pins = s.pins := by
  induction fs generalizing ord s with
  | nil => rfl
  | cons f fs ih => simp [writeFlights, ih]

@[simp] theorem writeAll_pins (c : Fin 512) (s : State) : (writeAll c s).pins = s.pins := by simp [writeAll]

@[simp] theorem signalActs_pins (c : Fin 512) (w : BitVec 64) (pc : Nat) (s : State) : (signalActs c w pc s).pins = s.pins := by
  unfold signalActs
  dsimp only
  (repeat' split) <;> simp

@[simp] theorem fenceActs_pins (c : Fin 512) (s : State) : (fenceActs c s).pins = s.pins := by
  fun_cases fenceActs c s <;> simp +zetaDelta

@[simp] theorem fetchMore_pins (c : Fin 512) (s : State) : (fetchMore c s).pins = s.pins := by simp [fetchMore]

@[simp] theorem putFlight_pins (c : Fin 512) (id : Nat) (g : Flight) (s : State) : (putFlight c id g s).pins = s.pins := by
  simp [putFlight]

@[simp] theorem pieceFails_pins (c : Fin 512) (id : Nat) (f : Flight) (cause : BadCause) (addr : Nat) (s : State) :
    (pieceFails c id f cause addr s).pins = s.pins := by
  unfold pieceFails
  dsimp only
  (repeat' split) <;> simp

@[simp] theorem landWrites_pins (c : Fin 512) (s : State) : (landWrites c s).pins = s.pins := by
  refine foldl_pins _ _ _ fun t x => ?_
  (repeat' split) <;> simp

@[simp] theorem dmaAbort_pins (c : Fin 512) (s : State) : (dmaAbort c s).pins = s.pins := by simp [dmaAbort]
@[simp] theorem dmaStart_pins (c : Fin 512) (s : State) : (dmaStart c s).pins = s.pins := by simp [dmaStart]
@[simp] theorem dmaDisable_pins (c : Fin 512) (s : State) : (dmaDisable c s).pins = s.pins := by fun_cases dmaDisable c s <;> simp
@[simp] theorem dmaResume_pins (c : Fin 512) (s : State) : (dmaResume c s).pins = s.pins := by simp [dmaResume]

/-! ### DMA objects -/

@[simp] theorem writeDctl_pins (c : Fin 512) (w : Word) (s : State) : (writeDctl c w s).pins = s.pins := by simp [writeDctl]
@[simp] theorem pendReg_pins (c : Fin 512) (key : Nat) (v : Nat) (s : State) : (pendReg c key v s).pins = s.pins := by simp [pendReg]

@[simp] theorem DmaReg.write_pins (c : Fin 512) (r : DmaReg) (v : Val) (s : State) : (DmaReg.write c r v s).pins = s.pins := by
  fun_cases DmaReg.write c r v s <;> simp +zetaDelta

@[simp] theorem PsReg.write_pins (r : PsReg) (v : Val) (s : State) : (PsReg.write r v s).pins = s.pins := by
  fun_cases PsReg.write r v s <;> simp

/-! ### Host links and the stall store -/

@[simp] theorem returnPair_pins (c : Fin 512) (s : State) : (returnPair c s).pins = s.pins := by simp [returnPair]
@[simp] theorem dropVfs_pins (l : Fin 4) (n : Nat) (s : State) : (dropVfs l n s).pins = s.pins := by simp [dropVfs]

/-! ### Motion -/

@[simp] theorem settle_pins (a : Fin 8) (s : State) : (settle a s).pins = s.pins := by simp [settle]
@[simp] theorem homingFault_pins (a : Fin 8) (s : State) : (homingFault a s).pins = s.pins := by simp [homingFault]
@[simp] theorem homeDone_pins (a : Fin 8) (s : State) : (homeDone a s).pins = s.pins := by simp [homeDone]
@[simp] theorem axisIstop_pins (a : Fin 8) (s : State) : (axisIstop a s).pins = s.pins := by simp [axisIstop]
@[simp] theorem latchTrip_pins (a : Fin 8) (i : Fin 2) (s : State) : (latchTrip a i s).pins = s.pins := by simp [latchTrip]
@[simp] theorem startTrips_pins (a : Fin 8) (s : State) : (startTrips a s).pins = s.pins := by fun_cases startTrips a s <;> simp
@[simp] theorem pendSet_pins (a : Fin 8) (f : AxSet → AxSet) (s : State) : (pendSet a f s).pins = s.pins := by simp [pendSet]

/-! ### Resets -/

@[simp] theorem mgtReset_pins (lv : Nat) (m : Fin 2) (s : State) : (mgtReset lv m s).pins = s.pins := by simp [mgtReset]
@[simp] theorem controlReset_pins (s : State) : (controlReset s).pins = s.pins := by simp [controlReset]
@[simp] theorem forgetSensor_pins (i : Fin 18) (s : State) : (forgetSensor i s).pins = s.pins := by fun_cases forgetSensor i s <;> simp

/-! ### System objects -/

@[simp] theorem settlePtp_pins (s : State) : (settlePtp s).pins = s.pins := by simp [settlePtp]

/-! ### Accesses to the dictionary that apply no write -/

@[simp] theorem Obj.refused_pins (o : Obj) (v : Val) (s : State) : (Obj.refused o v s).pins = s.pins := by
  fun_cases Obj.refused o v s <;> simp

@[simp] theorem markView_pins (who : By) (index : Nat) (sub : Nat) (st : Status) (s : State) : (markView who index sub st s).pins = s.pins := by
  fun_cases markView who index sub st s <;> simp

@[simp] theorem refuse_pins (who : By) (index : Nat) (sub : Nat) (st : Status) (s : State) : (refuse who index sub st s).pins = s.pins := by
  simp [refuse]

@[simp] theorem enter_pins (who : By) (cond : Bool) (index : Nat) (sub : Nat) (d : Desc) (ok : Bool) (v : Val) (st : Status) (s : State) :
    (enter who cond index sub d ok v st s).pins = s.pins := by
  simp [enter]

/-! ### Security objects -/

@[simp] theorem SecReg.write_pins (r : SecReg) (v : Val) (s : State) : (SecReg.write r v s).pins = s.pins := by
  fun_cases SecReg.write r v s <;> simp +zetaDelta [burnRoot]

end Sys2Proof.Machine
end

