-- ==== Sys2Proof/Proofs/SupplyFrames.lean ====
section
/-! What drives pins, on the way from a register's write to its effect, leaves the fuse supply as it is: its voltage comes from the board (R51, R65).
One lemma for each operation, in the order of the model's units. -/

namespace Sys2Proof.Machine

open Sys2Proof

/-! ### Choices and walks -/

@[simp] theorem Pins.ite_vppMv (c : Prop) [Decidable c] (p q : Pins) : (if c then p else q).vppMv = if c then p.vppMv else q.vppMv :=
  apply_ite Pins.vppMv c p q

@[simp] theorem foldl_vppMv {α : Type} (f : State → α → State) (l : List α) (s : State) (h : ∀ t a, (f t a).pins.vppMv = t.pins.vppMv) :
    (l.foldl f s).pins.vppMv = s.pins.vppMv :=
  State.each_keeps (·.pins.vppMv) l (fun a t => f t a) (fun a t => h t a) s

@[simp] theorem State.each_vppMv {α : Type} (s : State) (l : List α) (f : α → State → State) (h : ∀ a t, (f a t).pins.vppMv = t.pins.vppMv) :
    (s.each l f).pins.vppMv = s.pins.vppMv :=
  State.each_keeps (·.pins.vppMv) l f h s

/-! ### Queues and the cell pool -/

@[simp] theorem driveXoff_vppMv (s : State) : (driveXoff s).pins.vppMv = s.pins.vppMv := by simp [driveXoff]
@[simp] theorem lend_vppMv (s : State) : (lend s).pins.vppMv = s.pins.vppMv := by simp [lend]
@[simp] theorem returnCredits_vppMv (r : Fin 32) (s : State) : (returnCredits r s).pins.vppMv = s.pins.vppMv := by simp [returnCredits]
@[simp] theorem settleQueue_vppMv (q : Fin 512) (s : State) : (settleQueue q s).pins.vppMv = s.pins.vppMv := by simp [settleQueue]

@[simp] theorem rewindOpen_vppMv (r : Fin 32) (s : State) : (rewindOpen r s).pins.vppMv = s.pins.vppMv := by
  fun_cases rewindOpen r s <;> simp +zetaDelta

@[simp] theorem releasePacket_vppMv (q : Fin 512) (s : State) : (releasePacket q s).pins.vppMv = s.pins.vppMv := by
  fun_cases releasePacket q s <;> simp

@[simp] theorem rewindToMark_vppMv (r : Fin 32) (s : State) : (rewindToMark r s).pins.vppMv = s.pins.vppMv := by fun_cases rewindToMark r s <;> simp

/-! ### Queue and pool objects -/

@[simp] theorem QReg.write_vppMv (q : Fin 512) (r : QReg) (v : Val) (s : State) : (QReg.write q r v s).pins.vppMv = s.pins.vppMv := by
  unfold QReg.write
  dsimp only
  (repeat' split) <;> simp

@[simp] theorem PoolReg.write_vppMv (r : PoolReg) (v : Val) (s : State) : (PoolReg.write r v s).pins.vppMv = s.pins.vppMv := by
  fun_cases PoolReg.write r v s <;> simp +zetaDelta

/-! ### Pipelines -/

@[simp] theorem rewindFrame_vppMv (p : Fin 16) (a : PktAcct) (s : State) : (rewindFrame p a s).pins.vppMv = s.pins.vppMv := by
  fun_cases rewindFrame p a s <;> simp

@[simp] theorem closeBatch_vppMv (p : Fin 16) (a : PktAcct) (s : State) : (closeBatch p a s).pins.vppMv = s.pins.vppMv := by simp [closeBatch]
@[simp] theorem settleBatch_vppMv (p : Fin 16) (s : State) : (settleBatch p s).pins.vppMv = s.pins.vppMv := by fun_cases settleBatch p s <;> simp
@[simp] theorem settlePipe_vppMv (p : Fin 16) (s : State) : (settlePipe p s).pins.vppMv = s.pins.vppMv := by simp [settlePipe]

@[simp] theorem undoFrame_vppMv (p : Fin 16) (i : Fin 18) (s : State) : (undoFrame p i s).pins.vppMv = s.pins.vppMv := by
  fun_cases undoFrame p i s with
  | case4 begun s₁ s₂ w _ _ mine s₃ _ s₄ =>
    have h₄ : s₄.pins.vppMv = s₃.pins.vppMv := by unfold s₄; (repeat' split) <;> simp
    simp [h₄, s₃, s₂, s₁]
  | _ => simp +zetaDelta

/-! ### Stage 8 and the Tally engines -/

@[simp] theorem rewindData_vppMv (p : Fin 16) (s : State) : (rewindData p s).pins.vppMv = s.pins.vppMv := by simp [rewindData]
@[simp] theorem abortRecords_vppMv (p : Fin 16) (s : State) : (abortRecords p s).pins.vppMv = s.pins.vppMv := by simp [abortRecords]
@[simp] theorem abortPipe_vppMv (p : Fin 16) (s : State) : (abortPipe p s).pins.vppMv = s.pins.vppMv := by simp [abortPipe]

/-! ### Heads and sources -/

@[simp] theorem owesGap_vppMv (i : Fin 18) (s : State) : (owesGap i s).pins.vppMv = s.pins.vppMv := by fun_cases owesGap i s <;> simp
@[simp] theorem takeIdle_vppMv (i : Fin 18) (s : State) : (takeIdle i s).pins.vppMv = s.pins.vppMv := by fun_cases takeIdle i s <;> simp +zetaDelta
@[simp] theorem finishStop_vppMv (i : Fin 18) (s : State) : (finishStop i s).pins.vppMv = s.pins.vppMv := by simp [finishStop]

@[simp] theorem dropFrame_vppMv (i : Fin 18) (s : State) : (dropFrame i s).pins.vppMv = s.pins.vppMv := by
  unfold dropFrame
  dsimp only
  (repeat' split) <;> simp

@[simp] theorem discardFrame_vppMv (i : Fin 18) (s : State) : (discardFrame i s).pins.vppMv = s.pins.vppMv := by simp [discardFrame]
@[simp] theorem linkLoses_vppMv (h : Fin 16) (s : State) : (linkLoses h s).2.pins.vppMv = s.pins.vppMv := by fun_cases linkLoses h s <;> simp
@[simp] theorem stopTake_vppMv (i : Fin 18) (s : State) : (stopTake i s).pins.vppMv = s.pins.vppMv := by fun_cases stopTake i s <;> simp

@[simp] theorem abortTake_vppMv (i : Fin 18) (s : State) : (abortTake i s).pins.vppMv = s.pins.vppMv := by
  unfold abortTake
  dsimp only
  (repeat' split) <;> simp

@[simp] theorem SrcReg.write_vppMv (i : Fin 18) (r : SrcReg) (v : Val) (s : State) : (SrcReg.write i r v s).pins.vppMv = s.pins.vppMv := by
  fun_cases SrcReg.write i r v s <;> simp +zetaDelta

/-! ### Links and ports -/

@[simp] theorem portDown_vppMv (p : Fin 16) (n : Fin 64) (s : State) : (portDown p n s).pins.vppMv = s.pins.vppMv := by
  unfold portDown
  dsimp only
  (repeat' split) <;> simp

@[simp] theorem memberLost_vppMv (n : Fin 64) (s : State) : (memberLost n s).pins.vppMv = s.pins.vppMv := by fun_cases memberLost n s <;> simp
@[simp] theorem moveLane_vppMv (n : Fin 64) (t : TState) (s : State) : (moveLane n t s).pins.vppMv = s.pins.vppMv := by simp [moveLane]
@[simp] theorem lossDeclared_vppMv (n : Fin 64) (s : State) : (lossDeclared n s).pins.vppMv = s.pins.vppMv := by simp [lossDeclared]

@[simp] theorem releasePort_vppMv (p : Fin 16) (s : State) : (releasePort p s).pins.vppMv = s.pins.vppMv := by
  unfold releasePort
  dsimp only
  (repeat' split) <;> simp

@[simp] theorem PortReg.write_vppMv (p : Fin 16) (r : PortReg) (v : Val) (s : State) : (PortReg.write p r v s).pins.vppMv = s.pins.vppMv := by
  fun_cases PortReg.write p r v s <;> simp +zetaDelta

@[simp] theorem switchInput_vppMv (n : Fin 64) (s : State) : (switchInput n s).pins.vppMv = s.pins.vppMv := by simp [switchInput]

@[simp] theorem writeLane_vppMv (n : Fin 64) (r : LaneReg) (v : Val) (s : State) : (writeLane n r v s).pins.vppMv = s.pins.vppMv := by
  fun_cases writeLane n r v s <;> simp +zetaDelta

/-! ### Timebase, cues and the ring -/

@[simp] theorem driveTrig_vppMv (n : Fin 32) (lvds : Bool) (d : Drive) (s : State) : (driveTrig n lvds d s).pins.vppMv = s.pins.vppMv := by
  simp [driveTrig]

@[simp] theorem restTrig_vppMv (n : Fin 32) (s : State) : (restTrig n s).pins.vppMv = s.pins.vppMv := by simp [restTrig]

@[simp] theorem TbReg.write_vppMv (r : TbReg) (v : Val) (s : State) : (TbReg.write r v s).pins.vppMv = s.pins.vppMv := by
  unfold TbReg.write
  dsimp only
  cases r with
  | tbctl | arrayctl | trigcfg => simp
  | seqctl => dsimp only; split <;> simp
  | _ => rfl

/-! ### The DMA engine -/

@[simp] theorem releaseTaken_vppMv (c : Fin 512) (next : Nat) (s : State) : (releaseTaken c next s).pins.vppMv = s.pins.vppMv := by
  fun_cases releaseTaken c next s <;> simp +zetaDelta

@[simp] theorem completeStep_vppMv (c : Fin 512) (f : Flight) (s : State) : (completeStep c f s).pins.vppMv = s.pins.vppMv := by simp [completeStep]

@[simp] theorem retire_vppMv (c : Fin 512) (k : Nat) (s : State) : (retire c k s).pins.vppMv = s.pins.vppMv := by
  induction k generalizing s with
  | zero => rfl
  | succ k ih => unfold retire; (repeat' split) <;> simp [ih]

@[simp] theorem dmaSettle_vppMv (c : Fin 512) (s : State) : (dmaSettle c s).pins.vppMv = s.pins.vppMv := by simp [dmaSettle]

@[simp] theorem dmaLinkDown_vppMv (c : Fin 512) (s : State) : (dmaLinkDown c s).pins.vppMv = s.pins.vppMv := by
  unfold dmaLinkDown
  dsimp only
  split
  · rfl
  · rw [dmaSettle_vppMv, State.updDma_pins]
    refine foldl_vppMv _ _ _ fun t x => ?_
    split <;> simp

/-! ### Host links and the stall store -/

@[simp] theorem linkDown_vppMv (l : Fin 4) (s : State) : (linkDown l s).pins.vppMv = s.pins.vppMv := by simp [linkDown]
@[simp] theorem repartition_vppMv (s : State) : (repartition s).pins.vppMv = s.pins.vppMv := by simp [repartition]

@[simp] theorem setMapArea_vppMv (v : Word) (s : State) : (setMapArea v s).pins.vppMv = s.pins.vppMv := by
  simp [setMapArea]

@[simp] theorem HostReg.write_vppMv (r : HostReg) (v : Val) (s : State) : (HostReg.write r v s).pins.vppMv = s.pins.vppMv := by
  fun_cases HostReg.write r v s <;> simp

/-! ### Motion -/

@[simp] theorem driveGates_vppMv (a : Fin 8) (s : State) : (driveGates a s).pins.vppMv = s.pins.vppMv := by simp [driveGates]

@[simp] theorem startLeg_vppMv (a : Fin 8) (fwd : Bool) (len : Option Nat) (speed : Nat) (s : State) :
    (startLeg a fwd len speed s).pins.vppMv = s.pins.vppMv := by
  simp [startLeg]

@[simp] theorem homeSlow_vppMv (a : Fin 8) (s : State) : (homeSlow a s).pins.vppMv = s.pins.vppMv := by simp [homeSlow]
@[simp] theorem homeBack_vppMv (a : Fin 8) (s : State) : (homeBack a s).pins.vppMv = s.pins.vppMv := by simp [homeBack]
@[simp] theorem legEnd_vppMv (a : Fin 8) (s : State) : (legEnd a s).pins.vppMv = s.pins.vppMv := by fun_cases legEnd a s <;> simp
@[simp] theorem slowDown_vppMv (a : Fin 8) (s : State) : (slowDown a s).pins.vppMv = s.pins.vppMv := by simp [slowDown]
@[simp] theorem axisStop_vppMv (a : Fin 8) (s : State) : (axisStop a s).pins.vppMv = s.pins.vppMv := by simp [axisStop]
@[simp] theorem axisStart_vppMv (a : Fin 8) (s : State) : (axisStart a s).pins.vppMv = s.pins.vppMv := by fun_cases axisStart a s <;> simp +zetaDelta

@[simp] theorem referenceSeen_vppMv (a : Fin 8) (s : State) : (referenceSeen a s).pins.vppMv = s.pins.vppMv := by
  unfold referenceSeen
  dsimp only
  (repeat' split) <;> simp

@[simp] theorem limitChange_vppMv (a : Fin 8) (i : Fin 2) (active : Bool) (s : State) : (limitChange a i active s).pins.vppMv = s.pins.vppMv := by
  simp [limitChange]

@[simp] theorem homeChange_vppMv (a : Fin 8) (active : Bool) (s : State) : (homeChange a active s).pins.vppMv = s.pins.vppMv := by simp [homeChange]
@[simp] theorem writeAxctl_vppMv (a : Fin 8) (w : Word) (s : State) : (writeAxctl a w s).pins.vppMv = s.pins.vppMv := by simp [writeAxctl]
@[simp] theorem writeSwcfg_vppMv (a : Fin 8) (w : Word) (s : State) : (writeSwcfg a w s).pins.vppMv = s.pins.vppMv := by simp [writeSwcfg]

@[simp] theorem AxReg.write_vppMv (a : Fin 8) (r : AxReg) (v : Val) (s : State) : (AxReg.write a r v s).pins.vppMv = s.pins.vppMv := by
  fun_cases AxReg.write a r v s <;> simp +zetaDelta

/-! ### Resets -/

@[simp] theorem cold18_vppMv (s : State) : (cold18 s).pins.vppMv = s.pins.vppMv := by simp [cold18]
@[simp] theorem cold33_vppMv (s : State) : (cold33 s).pins.vppMv = s.pins.vppMv := by simp [cold33]
@[simp] theorem coldPins_vppMv (s : State) : (coldPins s).pins.vppMv = s.pins.vppMv := by simp [coldPins]
@[simp] theorem driveSync_vppMv (s : State) : (driveSync s).pins.vppMv = s.pins.vppMv := by simp [driveSync]
@[simp] theorem driveTxdis_vppMv (m : Fin 2) (s : State) : (driveTxdis m s).pins.vppMv = s.pins.vppMv := by simp [driveTxdis]
@[simp] theorem cueReset_vppMv (lv : Nat) (s : State) : (cueReset lv s).pins.vppMv = s.pins.vppMv := by simp [cueReset]
@[simp] theorem pcieReset_vppMv (l : Fin 4) (s : State) : (pcieReset l s).pins.vppMv = s.pins.vppMv := by simp [pcieReset]
@[simp] theorem dataPathReset_vppMv (lv : Nat) (s : State) : (dataPathReset lv s).pins.vppMv = s.pins.vppMv := by simp [dataPathReset]
@[simp] theorem warmReset_vppMv (s : State) : (warmReset s).pins.vppMv = s.pins.vppMv := by simp [warmReset]
@[simp] theorem coldReset_vppMv (s : State) : (coldReset s).pins.vppMv = s.pins.vppMv := by simp [coldReset]

@[simp] theorem resetBlk_vppMv (b : Blk) (s : State) : (resetBlk b s).pins.vppMv = s.pins.vppMv := by
  unfold resetBlk
  dsimp only
  (repeat' split) <;> simp

@[simp] theorem applyLevel_vppMv (lv : Fin 4) (b : Option Blk) (s : State) : (applyLevel lv b s).pins.vppMv = s.pins.vppMv := by
  fun_cases applyLevel lv b s <;> simp

@[simp] theorem startReset_vppMv (lv : Fin 4) (b : Option Blk) (s : State) : (startReset lv b s).pins.vppMv = s.pins.vppMv := by simp [startReset]

@[simp] theorem assertReset_vppMv (src : RstSrc) (lv : Fin 4) (b : Option Blk) (s : State) : (assertReset src lv b s).pins.vppMv = s.pins.vppMv := by
  fun_cases assertReset src lv b s <;> simp +zetaDelta

@[simp] theorem assertSoft_vppMv (v : Word) (s : State) : (assertSoft v s).pins.vppMv = s.pins.vppMv := by simp [assertSoft]

/-! ### System objects -/

@[simp] theorem writeMgtctl_vppMv (m : Fin 2) (w : Word) (s : State) : (writeMgtctl m w s).pins.vppMv = s.pins.vppMv := by simp [writeMgtctl]

/-! ### Queue objects, with the packet they take away -/

@[simp] theorem writeQueue_vppMv (q : Fin 512) (r : QReg) (v : Val) (s : State) : (writeQueue q r v s).pins.vppMv = s.pins.vppMv := by
  fun_cases writeQueue q r v s <;> simp +zetaDelta

/-! ### An accepted write -/

@[simp] theorem SysReg.write_vppMv (r : SysReg) (v : Val) (s : State) : (SysReg.write r v s).pins.vppMv = s.pins.vppMv := by
  fun_cases SysReg.write r v s <;> simp +zetaDelta

/-- No register sets the fuse supply: it comes from the board (R51, R65). -/
@[simp] theorem Obj.apply_vppMv (o : Obj) (v : Val) (s : State) : (o.apply v s).pins.vppMv = s.pins.vppMv := by
  fun_cases Obj.apply o v s <;> simp

end Sys2Proof.Machine
end

