-- ==== Sys2Proof/Proofs/FusesNeedSupply.lean ====
section
/-! No fuse changes while the fuse supply is off its burning level (R62, R65, R100, R604, R613). The five registers that touch a fuse refuse their
write then, no other register touches one, and a message that writes several objects leaves the supply as it found it between them. -/

namespace Sys2Proof.Machine

open Sys2Proof Sys2Proof.Safety

theorem vppBurning_of_vppMv {s t : State} (h : t.pins.vppMv = s.pins.vppMv) : vppBurning t = vppBurning s := by
  simp only [vppBurning, h]

/-! ### One write -/

/-- Off the burning level a register that burns refuses every write. -/
theorem Obj.check_of_not_burning {o : Obj} {s : State} (hoff : vppBurning s = false) (ho : o.isBurn = true) (who : By) (v : Val) :
    o.check who v s ≠ .ok := by
  cases o with
  | sys r => cases r with
    | rstmapBurn | pinmapBurn =>
      simp only [Obj.check, SysReg.check, hoff, firstRefusal_cons]
      split <;> simp
    | _ => cases ho
  | sec r => cases r with
    | rootBurn | revoke | svnCommit => simp [Obj.check, SecReg.check, hoff]
    | _ => cases ho
  | _ => cases ho

/-- So an accepted write touches no fuse. -/
theorem Obj.apply_fuses_of_check {o : Obj} {who : By} {v : Val} {s : State} (hoff : vppBurning s = false) (h : o.check who v s = .ok) :
    (o.apply v s).fuses = s.fuses := by
  cases ho : o.isBurn with
  | true => exact absurd h (Obj.check_of_not_burning hoff ho who v)
  | false => exact Obj.apply_fuses ho v s

section
variable {s : State} (hoff : vppBurning s = false)
include hoff

theorem ownWrite_fuses (who : By) (cond : Bool) (index sub : Nat) (o : Obj) (ok : Bool) (v : Val) :
    (ownWrite who cond index sub o ok v s).2.fuses = s.fuses := by
  fun_cases ownWrite who cond index sub o ok v s with
  | case1 _ note refusal => simp [refusal, note]
  | case2 _ note _ _ hrwp t ht =>
    have hrwp := Obj.isBurn_of_rwp (eq_of_beq hrwp)
    simp [note, Obj.apply_fuses hrwp, snd_fuses ht (rwpToken_fuses s)]
  | case3 _ note refusal _ _ _ _ t ht => simp [refusal, note, snd_fuses ht (rwpToken_fuses s)]
  | case4 _ note _ _ _ hsoft =>
    have hsoft : o = .sys .softrst := by simp_all
    subst hsoft
    simp [note, Obj.apply_fuses (o := .sys .softrst) rfl]
  | case5 _ note _ hok => simp [note, Obj.apply_fuses_of_check hoff (check_of_ownStatus (not_not.mp hok))]

theorem dictWrite_fuses (who : By) (cond : Bool) (index sub : Nat) (ok : Bool) (v : Val) :
    (dictWrite who cond index sub ok v s).2.fuses = s.fuses := by
  fun_cases dictWrite who cond index sub ok v s with
  | case1 stop | case2 stop => simp [stop]
  | case3 _ _ _ _ t ht =>
    have hburn := vppBurning_of_vppMv (congrArg Pins.vppMv (snd_keeps State.pins ht (jnlToken_pins s)))
    rw [ownWrite_fuses (hburn.trans hoff), snd_fuses ht (jnlToken_fuses s)]
  | case4 stop _ _ _ _ _ t ht => simp [stop, snd_fuses ht (jnlToken_fuses s)]
  | case5 => exact ownWrite_fuses hoff ..

end

/-! ### A write leaves the supply as it is -/

@[simp] theorem ownWrite_vppMv (who : By) (cond : Bool) (index sub : Nat) (o : Obj) (ok : Bool) (v : Val) (s : State) :
    (ownWrite who cond index sub o ok v s).2.pins.vppMv = s.pins.vppMv := by
  fun_cases ownWrite who cond index sub o ok v s with
  | case1 _ note refusal => simp [refusal, note]
  | case2 _ note _ _ _ t ht => simp [note, snd_keeps State.pins ht (rwpToken_pins s)]
  | case3 _ note refusal _ _ _ _ t ht => simp [refusal, note, snd_keeps State.pins ht (rwpToken_pins s)]
  | case4 _ note => simp [note]
  | case5 _ note => simp [note]

@[simp] theorem dictWrite_vppMv (who : By) (cond : Bool) (index sub : Nat) (ok : Bool) (v : Val) (s : State) :
    (dictWrite who cond index sub ok v s).2.pins.vppMv = s.pins.vppMv := by
  fun_cases dictWrite who cond index sub ok v s with
  | case1 stop | case2 stop => simp [stop]
  | case3 _ _ _ _ t ht => rw [ownWrite_vppMv, snd_keeps State.pins ht (jnlToken_pins s)]
  | case4 stop _ _ _ _ _ t ht => simp [stop, snd_keeps State.pins ht (jnlToken_pins s)]
  | case5 => exact ownWrite_vppMv ..

/-! ### Every path to a write -/

theorem viewWrite_fuses {who : By} {l : Fin 4} {f : Fin 17} {ofs index sub : Nat} {ok : Bool} {v : Val} {act : State → State} {s : State}
    (h : (act s).fuses = s.fuses) : (viewWrite who l f ofs index sub ok v act s).fuses = s.fuses := by
  fun_cases viewWrite who l f ofs index sub ok v act s <;> simp [h]

/-- A message's writes, one after the other: each meets the supply that the first one met. -/
theorem writeItems_fuses (who : By) (cond : Bool) (l : List WriteItem) {s : State} (hoff : vppBurning s = false) :
    (writeItems who cond l s).2.fuses = s.fuses := by
  induction l generalizing s with
  | nil => rfl
  | cons i l ih =>
    have hfirst := dictWrite_fuses hoff who cond i.index i.sub (itemValue i).1 (itemValue i).2
    have hnext := (vppBurning_of_vppMv (dictWrite_vppMv who cond i.index i.sub (itemValue i).1 (itemValue i).2 s)).trans hoff
    unfold writeItems
    dsimp only
    split
    · exact hfirst
    · exact (ih hnext).trans hfirst

section
variable {s : State} (hoff : vppBurning s = false)
include hoff

theorem regWrite_fuses (who : By) (index sub : Nat) (v : Val) : (regWrite who index sub v s).fuses = s.fuses := by
  have hwrite := dictWrite_fuses hoff who false index sub true v
  fun_cases regWrite who index sub v s with
  | case6 act => exact viewWrite_fuses (by simp [act, hwrite])
  | _ => simp +zetaDelta [hwrite]

theorem ldpWrite_fuses (src : LdpFrom) (who : By) (m : List Byte) : (ldpWrite src who m s).2.fuses = s.fuses := by
  fun_cases ldpWrite src who m s with
  | case4 _ cond _ i r _ _ st bs t ht => exact snd_fuses ht (writeItems_fuses who cond (i :: r) hoff)
  | _ => simp +zetaDelta

theorem ldpWriteBlob_fuses (src : LdpFrom) (who : By) (m : List Byte) (x : Session) : (ldpWriteBlob src who m x s).2.fuses = s.fuses := by
  fun_cases ldpWriteBlob src who m x s with
  | case5 _ index sub _ _ stage _ _ _ _ all _ st t ht =>
    have hstage : vppBurning (stage none s) = false := hoff
    simpa [stage] using snd_fuses ht (dictWrite_fuses hstage who false index sub true (.bytes all))
  | _ => simp +zetaDelta

theorem sessionOp_fuses (src : LdpFrom) (m : List Byte) (x : Session) : (sessionOp src m x s).2.fuses = s.fuses := by
  fun_cases sessionOp src m x s <;> simp [ldpWrite_fuses hoff, ldpWriteBlob_fuses hoff]

theorem serveMsg_fuses (src : LdpFrom) (m : List Byte) : (serveMsg src m s).fuses = s.fuses := by
  fun_cases serveMsg src m s <;> simp +zetaDelta [sessionOp_fuses hoff]

theorem serveLdp_fuses (src : LdpFrom) (m : List Byte) : (serveLdp src m s).fuses = s.fuses := by
  fun_cases serveLdp src m s <;> simp +zetaDelta [serveMsg_fuses hoff]

theorem arrive_fuses (src : LdpFrom) (m : List Byte) : (arrive src m s).fuses = s.fuses := by
  fun_cases arrive src m s <;> simp [serveLdp_fuses hoff]

theorem postMailbox_fuses (pf : Fin 4) (m : List Byte) : (postMailbox pf m s).fuses = s.fuses := by
  fun_cases postMailbox pf m s with
  | case1 => simp
  | case2 => exact arrive_fuses (s := s.updMbox pf _) hoff _ m

theorem ldpRow_fuses (kind : Bool) (src : LdpFrom) (m : List Byte) : (ldpRow kind src m s).fuses = s.fuses := by
  fun_cases ldpRow kind src m s <;> simp [arrive_fuses hoff, postMailbox_fuses hoff]

theorem mailboxRing_fuses (l : Fin 4) (len : Nat) : (mailboxRing l len s).fuses = s.fuses := by
  fun_cases mailboxRing l len s <;> simp [postMailbox_fuses hoff]

theorem viewArrives_fuses (l : Fin 4) (f : Fin 17) (ofs : Nat) (bytes : List Byte) : (viewArrives l f ofs bytes s).fuses = s.fuses := by
  fun_cases viewArrives l f ofs bytes s with
  | case3 => exact viewWrite_fuses (dictWrite_fuses hoff ..)
  | _ => simp

theorem bar0Write_fuses (l : Fin 4) (ofs : Nat) (bytes : List Byte) : (bar0Write l ofs bytes s).fuses = s.fuses := by
  fun_cases bar0Write l ofs bytes s <;> simp [mailboxRing_fuses hoff, viewArrives_fuses hoff]

theorem serve_fuses : (serve s).fuses = s.fuses := by
  fun_cases serve s with
  | case1 => rfl
  | case2 src m r => exact serveLdp_fuses (s := { s with svc := r }) hoff src m
  | case3 who index sub ok v r _ st t ht | case4 who index sub ok v r _ st t ht =>
    have h := snd_fuses ht (dictWrite_fuses (s := { s with svc := r }) hoff who false index sub ok v)
    simpa using h
  | case5 => simp

theorem idle_fuses : (idle s).fuses = s.fuses := by
  fun_cases idle s
  · exact serve_fuses hoff
  · simp

end

/-! ### Every step -/

theorem fuses_of_next {s t u : State} (h : (.next u : Host.Outcome State Fault Refusal) = .next t) (hu : u.fuses = s.fuses) :
    t.fuses = s.fuses := by
  cases h
  exact hu

/-- The same paths carry a write as in `exec_burns`; every other command leaves the fuses whatever the supply. -/
theorem exec_fuses {c : Instr} {s t : State} (hoff : vppBurning s = false) (h : exec c s = .next t) : t.fuses = s.fuses := by
  cases c with
  | softrst | rstmapBurn | pinmapBurn | cntctlClear | eyeStart | laneEnable | laneDisable | portctlWrite | portRelease | cmdRead | cmdWrite
  | cmdPendingWrite | sourceWrite | peakRateWrite | takeStart | takeStop | takeAbort | linCommit | mapSwap | mixCommit | curveCommit | curveLoad
  | tallyCommit | specClear | countLoad | encEnable | encDisable | idxArm | cmpArm | cmpDisarm | targetWrite | listWrite | tbctlWrite | seqRun
  | seqStop | cueWrite | histDivWrite | arrayCal | swPublish | herdEnWrite | xoffEnable | xoffDisable | cellSelect | qpop | dmaEnable | dmaDisable
  | dmaAbort | dmaResume | dbClear | doorbellWrite | intmaskWrite | psDataWrite | pairfnWrite | mapAreaWrite | axisStart | axisStop | axisIstop
  | tripClear | posWrite | waveTabWrite | jnlSelWrite | rootBurn | rootRevoke | rootPubkeyWrite | svnCommit | updOpen | updData | updVerify
  | updRetire | updReinstate | attReq | dbgToken | registerWrite =>
    exact fuses_of_next h (regWrite_fuses hoff ..)
  | ldpOpen | ldpClose | ldpKeepalive | ldpRead | ldpWrite | ldpReadBlob | ldpWriteBlob | ldpDescribe | ldpJnlRead | ldpUnknownOp | ldpMalformed =>
    exact fuses_of_next h (ldpRow_fuses hoff ..)
  | viewWrite => exact fuses_of_next h (viewArrives_fuses hoff ..)
  | bar0WindowWrite => exact fuses_of_next h (bar0Write_fuses hoff ..)
  | mbDoorbell => exact fuses_of_next h (mailboxRing_fuses hoff ..)
  | codewordReceived | alignmentCodeword | trainingFrame | jtagProcDebug =>
    simp only [exec, execCodewordReceived, execAlignmentCodeword, execTrainingFrame, execJtagProcDebug] at h
    split at h <;> cases h
    simp
  | seqStartTask j =>
    refine fuses_of_next h (performTask_fuses _ _ s fun u v hv => ?_)
    split at hv <;> cases hv
    exact startSeq_fuses j u
  | linkUp =>
    refine fuses_of_next h ?_
    dsimp only
    (repeat' split) <;> rfl
  | softResetDelayedAssert | replayReqResend | replayTimeout | lateCueFire | dmaIllegalOp | waitSatisfied | waitTimeout | viewReadTimeout =>
    refine fuses_of_next h ?_
    (repeat' split) <;> simp
  | _ => exact fuses_of_next h (by simp)

theorem step_fuses {s t : State} (hoff : vppBurning s = false) (h : step s = .next t) : t.fuses = s.fuses := by
  unfold step at h
  split at h
  next c rest _ => exact exec_fuses (s := { s with pending := rest }) hoff h
  next => exact fuses_of_next h (idle_fuses hoff)

/-- Settles O60: the five burning registers refuse a write off the burning level, and nothing else touches a fuse. -/
theorem fusesNeedTheirSupply : Obligations.FusesNeedTheirSupply := fun _ _ => step_fuses

end Sys2Proof.Machine
end

