-- ==== Sys2Proof/Proofs/ControlFrames.lean ====
section
/-! The operations of the data path and the timing units, and the release of their blocks, leave the reset record, the clocks and the boot state as
they are (R84, R107): one lemma for each, in the order of the model's units. -/

namespace Sys2Proof.Machine

open Sys2Proof

/-- The reset record, the clocks and the boot state of t are those of s. -/
@[simp] abbrev SameControl (t s : State) : Prop := t.rst = s.rst ∧ t.clk = s.clk ∧ t.boot = s.boot

theorem SameControl.trans {s t u : State} (h : SameControl u t) (k : SameControl t s) : SameControl u s := by
  obtain ⟨hrst, hclk, hboot⟩ := h
  obtain ⟨krst, kclk, kboot⟩ := k
  exact ⟨hrst.trans krst, hclk.trans kclk, hboot.trans kboot⟩

/-! ### Choices and walks -/

@[simp] theorem State.ite_rst (c : Prop) [Decidable c] (s t : State) : (if c then s else t).rst = if c then s.rst else t.rst := apply_ite (·.rst) c s t
@[simp] theorem State.ite_clk (c : Prop) [Decidable c] (s t : State) : (if c then s else t).clk = if c then s.clk else t.clk := apply_ite (·.clk) c s t
@[simp] theorem State.ite_boot (c : Prop) [Decidable c] (s t : State) : (if c then s else t).boot = if c then s.boot else t.boot :=
  apply_ite (·.boot) c s t

@[simp] theorem State.each_control {α : Type} (s : State) (l : List α) (f : α → State → State) (h : ∀ a t, SameControl (f a t) t) :
    SameControl (s.each l f) s :=
  ⟨State.each_keeps (·.rst) l f (fun a t => (h a t).1) s, State.each_keeps (·.clk) l f (fun a t => (h a t).2.1) s,
    State.each_keeps (·.boot) l f (fun a t => (h a t).2.2) s⟩

/-- What an operation's state keeps, seen once its result is known by its parts. -/
theorem snd_control {α : Type} {r : α × State} {x : α} {s t : State} (h : r = (x, t)) (hr : SameControl r.2 s) : SameControl t s := by
  rwa [h] at hr

/-! ### Shared operations: vectors, publishes, the fault log -/

@[simp] theorem sendVector_control (l : Fin 4) (g : Fin 17) (e : Nat) (s : State) : SameControl (sendVector l g e s) s := by
  simp [sendVector]

@[simp] theorem deviceVector_control (e : Nat) (s : State) : SameControl (deviceVector e s) s := by simp [deviceVector]
@[simp] theorem publishAt_control (t : Nat) (code : Nat) (s : State) : SameControl (publishAt t code s) s := by simp [publishAt]
@[simp] theorem publish_control (code : Nat) (s : State) : SameControl (publish code s) s := by simp [publish]
@[simp] theorem publishOn_control (c : Fin 128) (s : State) : SameControl (publishOn c s) s := by simp [publishOn]
@[simp] theorem postRec_control (r : FaultRec) (s : State) : SameControl (postRec r s) s := by simp [postRec]

@[simp] theorem fault_control (code : Nat) (sev : Nat) (cls : FClass) (idx : Nat) (detail : Nat) (s : State) :
    SameControl (fault code sev cls idx detail s) s := by
  simp [fault]

@[simp] theorem giveWay_control (code : Nat) (rung : Fin 5) (cls : FClass) (idx : Nat) (detail : Nat) (s : State) :
    SameControl (giveWay code rung cls idx detail s) s := by
  simp [giveWay]

@[simp] theorem logFault_control (r : FaultRec) (s : State) : SameControl (logFault r s) s := by fun_cases logFault r s <;> simp

/-! ### Lanes -/

@[simp] theorem sendTwice_control (n : Fin 64) (x : BitVec 256) (s : State) : SameControl (sendTwice n x s) s := by simp [sendTwice]
@[simp] theorem drive_control (n : Fin 64) (ps : List Level) (s : State) : SameControl (drive n ps s) s := by simp [drive]
@[simp] theorem leaveIdle_control (n : Fin 64) (s : State) : SameControl (leaveIdle n s) s := by simp [leaveIdle]
@[simp] theorem enterT_control (n : Fin 64) (t : TState) (s : State) : SameControl (enterT n t s) s := by simp [enterT]

/-! ### Queues and the cell pool -/

@[simp] theorem driveXoff_control (s : State) : SameControl (driveXoff s) s := by simp [driveXoff]
@[simp] theorem lendOnDie_control (s : State) : SameControl (lendOnDie s) s := by simp [lendOnDie]

@[simp] theorem revokeFrom_control (r : Fin 32) (s : State) : SameControl (revokeFrom r s) s := by
  unfold revokeFrom
  dsimp only
  (repeat' split) <;> simp

@[simp] theorem lendStall_control (s : State) : SameControl (lendStall s) s := by simp [lendStall]
@[simp] theorem lend_control (s : State) : SameControl (lend s) s := by simp [lend]
@[simp] theorem returnCredits_control (r : Fin 32) (s : State) : SameControl (returnCredits r s) s := by simp [returnCredits]
@[simp] theorem watermark_control (q : Fin 512) (s : State) : SameControl (watermark q s) s := by simp [watermark]
@[simp] theorem settleQueue_control (q : Fin 512) (s : State) : SameControl (settleQueue q s) s := by simp [settleQueue]
@[simp] theorem handBack_control (cs : List PCell) (s : State) : SameControl (handBack cs s) s := by simp [handBack]
@[simp] theorem owePipeGap_control (r : Fin 32) (s : State) : SameControl (owePipeGap r s) s := by simp [owePipeGap]

@[simp] theorem rewindOpen_control (r : Fin 32) (s : State) : SameControl (rewindOpen r s) s := by
  fun_cases rewindOpen r s <;> simp +zetaDelta

@[simp] theorem rewindToMark_control (r : Fin 32) (s : State) : SameControl (rewindToMark r s) s := by fun_cases rewindToMark r s <;> simp

/-! ### Pipelines -/

@[simp] theorem closePacket_control (p : Fin 16) (c : Closed) (s : State) : SameControl (closePacket p c s) s := by simp [closePacket]

@[simp] theorem logSlate_control (p : Fin 16) (src : Fin 18) (epoch : BitVec 16) (s : State) : SameControl (logSlate p src epoch s) s := by
  simp [logSlate]

@[simp] theorem rewindFrame_control (p : Fin 16) (a : PktAcct) (s : State) : SameControl (rewindFrame p a s) s := by
  fun_cases rewindFrame p a s <;> simp

@[simp] theorem closeBatch_control (p : Fin 16) (a : PktAcct) (s : State) : SameControl (closeBatch p a s) s := by simp [closeBatch]
@[simp] theorem settleBatch_control (p : Fin 16) (s : State) : SameControl (settleBatch p s) s := by fun_cases settleBatch p s <;> simp

@[simp] theorem closeImage_control (p : Fin 16) (s : State) : SameControl (closeImage p s) s := by
  fun_cases closeImage p s <;> simp +zetaDelta

@[simp] theorem settleImage_control (p : Fin 16) (s : State) : SameControl (settleImage p s) s := by simp [settleImage]
@[simp] theorem settlePipe_control (p : Fin 16) (s : State) : SameControl (settlePipe p s) s := by simp [settlePipe]
@[simp] theorem dropLap_control (p : Fin 16) (g : Shape) (s : State) : SameControl (dropLap p g s) s := by simp [dropLap]

@[simp] theorem undoFrame_control (p : Fin 16) (i : Fin 18) (s : State) : SameControl (undoFrame p i s) s := by
  fun_cases undoFrame p i s with
  | case4 begun s₁ s₂ w _ _ mine s₃ _ s₄ =>
    have h₄ : SameControl s₄ s₃ := by unfold s₄; (repeat' split) <;> simp
    simp [h₄, s₃, s₂, s₁]
  | _ => simp +zetaDelta

/-! ### Heads and sources -/

@[simp] theorem sendOn_control (ls : List (Fin 64)) (x : BitVec 256) (s : State) : SameControl (sendOn ls x s) s := by simp [sendOn]
@[simp] theorem wakeLane_control (n : Fin 64) (s : State) : SameControl (wakeLane n s) s := by simp [wakeLane]
@[simp] theorem wakeDown_control (p : Fin 16) (s : State) : SameControl (wakeDown p s) s := by simp [wakeDown]
@[simp] theorem clearFrame_control (h : Fin 16) (s : State) : SameControl (clearFrame h s) s := by simp [clearFrame]
@[simp] theorem owesGap_control (i : Fin 18) (s : State) : SameControl (owesGap i s) s := by fun_cases owesGap i s <;> simp
@[simp] theorem takeIdle_control (i : Fin 18) (s : State) : SameControl (takeIdle i s) s := by fun_cases takeIdle i s <;> simp +zetaDelta
@[simp] theorem finishStop_control (i : Fin 18) (s : State) : SameControl (finishStop i s) s := by simp [finishStop]
@[simp] theorem clearPcam_control (n : Fin 2) (s : State) : SameControl (clearPcam n s) s := by simp [clearPcam]

@[simp] theorem dropFrame_control (i : Fin 18) (s : State) : SameControl (dropFrame i s) s := by
  unfold dropFrame
  dsimp only
  (repeat' split) <;> simp

@[simp] theorem discardFrame_control (i : Fin 18) (s : State) : SameControl (discardFrame i s) s := by simp [discardFrame]
@[simp] theorem linkLoses_control (h : Fin 16) (s : State) : SameControl (linkLoses h s).2 s := by fun_cases linkLoses h s <;> simp
@[simp] theorem recheckHead_control (h : Fin 16) (s : State) : SameControl (recheckHead h s) s := by simp [recheckHead]

/-! ### Links and ports -/

@[simp] theorem setPState_control (p : Fin 16) (x : PState) (s : State) : SameControl (setPState p x s) s := by
  fun_cases setPState p x s <;> simp +zetaDelta

@[simp] theorem newAttempt_control (p : Fin 16) (s : State) : SameControl (newAttempt p s) s := by
  fun_cases newAttempt p s <;> simp +zetaDelta

@[simp] theorem sendPort_control (p : Fin 16) (x : BitVec 256) (s : State) : SameControl (sendPort p x s) s := by simp [sendPort]
@[simp] theorem settlePort_control (h : Fin 16) (p : Fin 16) (s : State) : SameControl (settlePort h p s) s := by simp [settlePort]
@[simp] theorem settlePause_control (s : State) : SameControl (settlePause s) s := by simp [settlePause]

@[simp] theorem sendTrigger_control (h : Fin 16) (line cue : Nat) (s : State) : SameControl (sendTrigger h line cue s).2 s := by
  unfold sendTrigger
  dsimp only
  split
  · simp
  · exact State.each_control _ _ _ fun _ _ => by simp

@[simp] theorem dropSlots_control (p : Fin 16) (s : State) : SameControl (dropSlots p s) s := State.each_control _ _ _ fun _ _ => by simp

@[simp] theorem portDown_control (p : Fin 16) (n : Fin 64) (s : State) : SameControl (portDown p n s) s := by
  unfold portDown
  dsimp only
  (repeat' split) <;> simp

@[simp] theorem startReplay_control (p : Fin 16) (move : Bool) (role : Nat) (newLid : Nat) (failed : Option (Fin 64)) (s : State) :
    SameControl (startReplay p move role newLid failed s) s := by
  unfold startReplay
  dsimp only
  (repeat' split) <;> simp

@[simp] theorem failover_control (p : Fin 16) (n : Fin 64) (s : State) : SameControl (failover p n s) s := by simp [failover]
@[simp] theorem memberLost_control (n : Fin 64) (s : State) : SameControl (memberLost n s) s := by fun_cases memberLost n s <;> simp
@[simp] theorem settleUsIdle_control (n : Fin 64) (s : State) : SameControl (settleUsIdle n s) s := by fun_cases settleUsIdle n s <;> simp

@[simp] theorem memberChanged_control (n : Fin 64) (s : State) : SameControl (memberChanged n s) s := by
  fun_cases memberChanged n s <;> simp

@[simp] theorem moveLane_control (n : Fin 64) (t : TState) (s : State) : SameControl (moveLane n t s) s := by simp [moveLane]
@[simp] theorem enablePort_control (p : Fin 16) (s : State) : SameControl (enablePort p s) s := by simp [enablePort]

/-! ### Timebase, cues and the ring -/

@[simp] theorem firePin_control (n : Fin 32) (detail : Nat) (s : State) : SameControl (firePin n detail s).2 s := by
  fun_cases firePin n detail s <;> simp

@[simp] theorem recordCue_control (i : Fin 18) (r : CueRec) (s : State) : SameControl (recordCue i r s) s := by simp [recordCue]

@[simp] theorem fireCue_control (k : BitVec 12) (value : BitVec 48) (late : Bool) (s : State) : SameControl (fireCue k value late s) s := by
  unfold fireCue
  dsimp only
  refine (State.each_control _ _ _ fun n t => ?_).trans ?_
  · split <;> simp
  · have sent {h line cue x t} (e : sendTrigger h line cue s = (x, t)) : SameControl t s := snd_control e (sendTrigger_control h line cue s)
    (repeat' split) <;> simp <;> exact sent ‹_›

@[simp] theorem advanceSeq_control (i : Fin 16) (s : State) : SameControl (advanceSeq i s) s := by simp [advanceSeq]

@[simp] theorem walkSeq_control (i : Fin 16) (owed : List (BitVec 48 × BitVec 48)) (now : Option (BitVec 48 × BitVec 48)) (k : Nat) (fresh : Bool)
    (s : State) : SameControl (walkSeq i owed now k fresh s) s := by
  induction k generalizing fresh s with
  | zero => simp [walkSeq]
  | succ k ih => unfold walkSeq; dsimp only; (repeat' split) <;> simp [ih]

@[simp] theorem runSeqs_control (now : Option (BitVec 48 × BitVec 48)) (s : State) : SameControl (runSeqs now s) s := by simp [runSeqs]
@[simp] theorem loadTb_control (v : BitVec 48) (s : State) : SameControl (loadTb v s) s := by simp [loadTb]
@[simp] theorem intoRing_control (v : BitVec 48) (s : State) : SameControl (intoRing v s) s := by simp [intoRing]
@[simp] theorem sourceLoad_control (v : BitVec 48) (s : State) : SameControl (sourceLoad v s) s := by simp [sourceLoad]

/-! ### Resets -/

@[simp] theorem coldPins_control (s : State) : SameControl (coldPins s) s := ⟨rfl, rfl, rfl⟩
@[simp] theorem driveSync_control (s : State) : SameControl (driveSync s) s := by simp [driveSync]
@[simp] theorem driveTxdis_control (m : Fin 2) (s : State) : SameControl (driveTxdis m s) s := by simp [driveTxdis]
@[simp] theorem enterCaptured_control (s : State) : SameControl (enterCaptured s) s := by simp [enterCaptured]

/-! ### Clocks -/

@[simp] theorem calibrate_control (first : Bool) (q : Fin 4) (s : State) : SameControl (calibrate first q s) s := by simp [calibrate]
@[simp] theorem startQuad_control (q : Fin 4) (s : State) : SameControl (startQuad q s) s := by simp [startQuad]
@[simp] theorem reloadTb_control (s : State) : SameControl (reloadTb s) s := by fun_cases reloadTb s <;> simp

@[simp] theorem restartUpTime_control (n : Fin 64) (s : State) : SameControl (restartUpTime n s) s := by
  fun_cases restartUpTime n s <;> simp

@[simp] theorem releaseBlk_control (b : Blk) (s : State) : SameControl (releaseBlk b s) s := by fun_cases releaseBlk b s <;> simp
@[simp] theorem releaseAll_control (bs : List Blk) (s : State) : SameControl (releaseAll bs s) s := by simp [releaseAll]
@[simp] theorem releaseQuads_control (qs : List (Fin 4)) (s : State) : SameControl (releaseQuads qs s) s := by simp [releaseQuads]

end Sys2Proof.Machine
end

