-- ==== Sys2Proof/Proofs/PowerOnReset.lean ====
section
/-! The step, the state after power-on, and a level-0 reset as it is asserted: by POR, by a watched rail, and with the
pins in the states of their banks' phases (R51, R69, R84, R87, R101). -/

namespace Sys2Proof.Machine

open Sys2Proof

/-! ### The step -/

/-- Settles O1: with a command waiting, a step is that command on the queue's rest (log entry 1). -/
theorem stepRunsTheFrontCommand : Obligations.StepRunsTheFrontCommand := by
  intro c rest s hs
  simp only [step, hs]

/-! ### The device after power-on -/

theorem State.reset_queue (q : Fin 512) : State.reset.qm.queues[q] =
    { ctl := qctlDefault q.1, reserve := reserveDefault q.1, maxpkt := maxpktDefault q.1, maxpktNow := maxpktDefault q.1 } :=
  Vector.getElem_ofFn ..

theorem State.reset_axis (a : Fin 8) : State.reset.axes[a] = {} := Vector.getElem_replicate ..
theorem State.reset_dma (c : Fin 512) : State.reset.dma[c] = { ctl := BitVec.ofNat 32 c.1 } := Vector.getElem_ofFn ..

/-- Settles O3: State.reset is the device held in its power-on reset (log entries 2 to 4). -/
theorem resetLeavesTheColdDevice : Obligations.ResetLeavesTheColdDevice := by
  refine ⟨rfl, rfl, rfl, rfl, rfl, rfl, rfl, rfl, rfl, rfl, rfl, rfl, rfl, rfl, rfl, rfl, fun q => ?_, fun c => ?_, fun a => ?_⟩
  · rw [State.reset_queue]
    exact ⟨rfl, rfl⟩
  · rw [State.reset_dma]
  · rw [State.reset_axis]

/-! ### The cold states of the pins -/

/-- Pins that take their cold states keep the rails and the map in force. -/
@[simp] theorem coldPins_rails (s : State) :
    (coldPins s).pins.railsGood = s.pins.railsGood ∧ (coldPins s).pins.pinmap = s.pins.pinmap := ⟨rfl, rfl⟩

/-! ### A level-0 reset -/

/-- A level-0 source is recorded in a level-0 reset, and starts one over any other. -/
theorem assertReset_zero_cases (src : RstSrc) (s : State) :
    (s.rst.level = some 0 ∧ ∃ r : Resets, r.level = some 0 ∧ assertReset src 0 none s = { s with rst := r })
    ∨ (s.rst.level ≠ some 0 ∧ ∃ r : Resets, r.level = some 0 ∧ assertReset src 0 none s = coldReset { s with rst := r }) := by
  unfold assertReset
  dsimp only
  split
  next h => exact .inr ⟨by simp [h], _, rfl, rfl⟩
  next cur h =>
    by_cases hcur : 0 < cur
    · rw [if_pos hcur]
      exact .inr ⟨by simpa [h] using hcur.ne', _, rfl, rfl⟩
    · rw [if_neg hcur]
      obtain rfl : cur = 0 := by simpa using hcur
      refine .inl ⟨h, _, ?_, rfl⟩
      exact h

/-- A level-0 reset loses everything volatile, and keeps the MRAM, the fuses and the rails (R69, R87, R101). -/
theorem coldReset_clears (s : State) :
    (coldReset s).faults = {} ∧ (coldReset s).vio = {} ∧ (coldReset s).pstore = {} ∧ (coldReset s).mapStore = {}
      ∧ (coldReset s).ports = Vector.replicate 16 {} ∧ (coldReset s).heads = Vector.replicate 16 {} ∧ (coldReset s).boot = {}
      ∧ (coldReset s).tb = {} ∧ (coldReset s).qm = {} := ⟨rfl, rfl, rfl, rfl, rfl, rfl, rfl, rfl, rfl⟩

theorem coldReset_keeps (s : State) :
    (coldReset s).mram = s.mram ∧ (coldReset s).pins.railsGood = s.pins.railsGood ∧ (coldReset s).rst.level = s.rst.level := ⟨rfl, rfl, rfl⟩

/-- A level-0 source keeps the MRAM and the rails, and leaves a level-0 reset in force. -/
theorem assertReset_zero_keeps (src : RstSrc) (s : State) :
    (assertReset src 0 none s).mram = s.mram ∧ (assertReset src 0 none s).pins.railsGood = s.pins.railsGood
      ∧ (assertReset src 0 none s).rst.level = some 0 := by
  rcases assertReset_zero_cases src s with ⟨-, r, hr, h⟩ | ⟨-, r, hr, h⟩
  · rw [h]
    exact ⟨rfl, rfl, hr⟩
  · rw [h]
    obtain ⟨hmram, hrails, hlevel⟩ := coldReset_keeps { s with rst := r }
    exact ⟨hmram, hrails, hlevel.trans hr⟩

/-! ### POR -/

/-- POR leaves a level-0 reset with itself as its only cause (R101). -/
theorem assertPor_rst (s : State) :
    (assertPor s).rst.level = some 0 ∧ (assertPor s).rst.causeLevel = 0 ∧ (assertPor s).rst.causeSrc = 1 ∧ (assertPor s).rst.causeDom = 0
      ∧ (assertPor s).rst.causeBlock = 0 := by
  obtain ⟨-, -, hlevel⟩ := assertReset_zero_keeps .por { s with mram := { s.mram with writesBarred := true } }
  exact ⟨hlevel, rfl, rfl, rfl, rfl⟩

/-- It bars new MRAM writes, and keeps the rails (R69). -/
theorem assertPor_keeps (s : State) :
    (assertPor s).mram = { s.mram with writesBarred := true } ∧ (assertPor s).pins.railsGood = s.pins.railsGood := by
  obtain ⟨hmram, hrails, -⟩ := assertReset_zero_keeps .por { s with mram := { s.mram with writesBarred := true } }
  exact ⟨hmram, hrails⟩

/-- Outside a level-0 reset it loses everything volatile (R84, R87). -/
theorem assertPor_clears {s : State} (hlevel : s.rst.level ≠ some 0) :
    (assertPor s).faults = {} ∧ (assertPor s).vio = {} ∧ (assertPor s).pstore = {} ∧ (assertPor s).mapStore = {}
      ∧ (assertPor s).ports = Vector.replicate 16 {} ∧ (assertPor s).heads = Vector.replicate 16 {} ∧ (assertPor s).boot = {}
      ∧ (assertPor s).tb = {} ∧ (assertPor s).qm = {} := by
  rcases assertReset_zero_cases .por { s with mram := { s.mram with writesBarred := true } } with ⟨hzero, -⟩ | ⟨-, r, -, h⟩
  · exact absurd hzero hlevel
  · unfold assertPor
    rw [h]
    dsimp only
    exact coldReset_clears _

/-! ### Rails -/

/-- The 1.8 V outputs by their bank's phase (R51, R53). -/
theorem coldPins_bank18 (s : State) :
    (coldPins s).pins.phase18 = bankPhase s .vddIo18
      ∧ (coldPins s).pins.trig = Vector.replicate 32 (inPhase (bankPhase s .vddIo18) .weakLow (coldDrive (fld s.pins.pinmap 30 29)))
      ∧ (coldPins s).pins.pps = inPhase (bankPhase s .vddIo18) .weakLow (coldDrive (fld s.pins.pinmap 15 14))
      ∧ (coldPins s).pins.rstoutN = inPhase (bankPhase s .vddIo18) .low .low := ⟨rfl, rfl, rfl, rfl⟩

/-- A bank with its own supply stays pre-fuse while the core's rail is not good. -/
theorem bankPhase_preFuse {s : State} {rail : Rail} (hgood : rail ∈ s.pins.railsGood) (hcore : .vddCore ∉ s.pins.railsGood) :
    bankPhase s rail = .preFuse := by
  simp [bankPhase, hgood, fuseRails, hcore]

theorem bankPhase_unpowered {s : State} {rail : Rail} (hbad : rail ∉ s.pins.railsGood) : bankPhase s rail = .unpowered := by
  simp [bankPhase, hbad]

/-- The state with a rail recorded as good. -/
def railGood (rail : Rail) (s : State) : State :=
  s.updPins fun p => { p with railsGood := if p.railsGood.contains rail then p.railsGood else p.railsGood ++ [rail] }

/-- The state with a rail no longer recorded as good. -/
def railBad (rail : Rail) (s : State) : State := s.updPins fun p => { p with railsGood := p.railsGood.erase rail }

/-- POR if the rail is watched (R69). -/
def watchedPor (rail : Rail) (s : State) : State := if rail.watched then assertPor s else s

theorem mem_railsGood_railGood (rail : Rail) (s : State) : rail ∈ (railGood rail s).pins.railsGood := by
  by_cases h : rail ∈ s.pins.railsGood <;> simp [railGood, h]

theorem mem_railsGood_railGood_of_ne {rail r : Rail} {s : State} (hr : r ≠ rail) : r ∈ (railGood rail s).pins.railsGood ↔ r ∈ s.pins.railsGood := by
  by_cases h : rail ∈ s.pins.railsGood <;> simp [railGood, h, hr]

theorem not_mem_railsGood_railBad {rail : Rail} {s : State} (hall : s.pins.railsGood = Rail.all) :
    rail ∉ (railBad rail s).pins.railsGood := by
  simp only [railBad, State.updPins_pins, hall]
  exact List.Nodup.not_mem_erase (by decide)

/-- The POR of a watched rail resets at level 0 and bars new MRAM writes; what MRAM holds stays, and another rail does nothing here (R69). -/
theorem watchedPor_keeps (rail : Rail) (s : State) :
    (watchedPor rail s).pins.railsGood = s.pins.railsGood ∧ (watchedPor rail s).mram.records = s.mram.records
      ∧ (watchedPor rail s).mram.journal = s.mram.journal
      ∧ (rail.watched = true → (watchedPor rail s).rst.level = some 0 ∧ (watchedPor rail s).mram.writesBarred = true)
      ∧ (rail.watched = false → watchedPor rail s = s) := by
  unfold watchedPor
  split
  next hw =>
    obtain ⟨hmram, hrails⟩ := assertPor_keeps s
    obtain ⟨hlevel, -⟩ := assertPor_rst s
    rw [hmram]
    exact ⟨hrails, rfl, rfl, fun _ => ⟨hlevel, rfl⟩, fun h => by simp [hw] at h⟩
  next hw => exact ⟨rfl, rfl, rfl, fun h => absurd h hw, fun _ => rfl⟩

/-- How the pins follow a rail that has risen (R51, R84). -/
def pinsRise (rail : Rail) (s : State) : State :=
  if fuseRails.contains rail then coldPins (if fuseRails.all s.pins.railsGood.contains then sensePins s else s)
  else if rail = .vddIo33 then cold33 s
  else s

/-- How they follow one that has fallen (R51, R69). -/
def pinsFall (rail : Rail) (s : State) : State := if rail.watched then coldPins s else if rail = .vddIo33 then cold33 s else s

theorem railRises_eq (rail : Rail) (s : State) : railRises rail s = pinsRise rail (watchedPor rail (railGood rail s)) := rfl
theorem railFalls_eq (rail : Rail) (s : State) : railFalls rail s = pinsFall rail (watchedPor rail (railBad rail s)) := rfl

theorem pinsRise_frame (rail : Rail) (s : State) :
    pinsRise rail s = { s with pins := (pinsRise rail s).pins } ∧ (pinsRise rail s).pins.railsGood = s.pins.railsGood := by
  unfold pinsRise
  (repeat' split) <;> exact ⟨rfl, rfl⟩

theorem pinsFall_frame (rail : Rail) (s : State) :
    pinsFall rail s = { s with pins := (pinsFall rail s).pins } ∧ (pinsFall rail s).pins.railsGood = s.pins.railsGood := by
  unfold pinsFall
  (repeat' split) <;> exact ⟨rfl, rfl⟩

/-- A rail that reaches its least voltage is recorded as good; only the POR of a watched one acts on the reset and the MRAM (R69, R84). -/
theorem railRises_keeps (rail : Rail) (s : State) :
    rail ∈ (railRises rail s).pins.railsGood ∧ (railRises rail s).mram.records = s.mram.records ∧ (railRises rail s).mram.journal = s.mram.journal
      ∧ (rail.watched = true → (railRises rail s).rst.level = some 0) := by
  obtain ⟨hrails, hrecords, hjournal, hwatched, -⟩ := watchedPor_keeps rail (railGood rail s)
  obtain ⟨hframe, hsame⟩ := pinsRise_frame rail (watchedPor rail (railGood rail s))
  refine ⟨?_, ?_, ?_, fun hw => ?_⟩
  · rw [railRises_eq, hsame, hrails]
    exact mem_railsGood_railGood rail s
  · rw [railRises_eq, hframe]
    exact hrecords
  · rw [railRises_eq, hframe]
    exact hjournal
  · rw [railRises_eq, hframe]
    exact (hwatched hw).1

/-- One that leaves its limits is recorded so; a watched one asserts POR, another leaves the reset as it is (R69). -/
theorem railFalls_keeps {rail : Rail} {s : State} (hall : s.pins.railsGood = Rail.all) :
    rail ∉ (railFalls rail s).pins.railsGood ∧ (railFalls rail s).mram.records = s.mram.records ∧ (railFalls rail s).mram.journal = s.mram.journal
      ∧ (rail.watched = true → (railFalls rail s).rst.level = some 0 ∧ (railFalls rail s).mram.writesBarred = true)
      ∧ (rail.watched = false → (railFalls rail s).rst = s.rst) := by
  have hgone := not_mem_railsGood_railBad (rail := rail) hall
  obtain ⟨hrails, hrecords, hjournal, hwatched, hother⟩ := watchedPor_keeps rail (railBad rail s)
  obtain ⟨hframe, hsame⟩ := pinsFall_frame rail (watchedPor rail (railBad rail s))
  refine ⟨?_, ?_, ?_, fun hw => ?_, fun hw => ?_⟩
  · rw [railFalls_eq, hsame, hrails]
    exact hgone
  · rw [railFalls_eq, hframe]
    exact hrecords
  · rw [railFalls_eq, hframe]
    exact hjournal
  · rw [railFalls_eq, hframe]
    exact hwatched hw
  · rw [railFalls_eq, hframe, hother hw]
    rfl

/-- While the core's rail is not good, VDD_IO18 rising leaves its banks in their pre-fuse states (R51). -/
theorem railRises_io18 {s : State} (hcore : .vddCore ∉ s.pins.railsGood) :
    railRises .vddIo18 s = coldPins (watchedPor .vddIo18 (railGood .vddIo18 s))
      ∧ bankPhase (watchedPor .vddIo18 (railGood .vddIo18 s)) .vddIo18 = .preFuse := by
  obtain ⟨hrails, -⟩ := watchedPor_keeps .vddIo18 (railGood .vddIo18 s)
  have hnot : .vddCore ∉ (watchedPor .vddIo18 (railGood .vddIo18 s)).pins.railsGood := by
    rwa [hrails, mem_railsGood_railGood_of_ne (by decide)]
  refine ⟨?_, bankPhase_preFuse (by rw [hrails]; exact mem_railsGood_railGood _ s) hnot⟩
  simp [railRises_eq, pinsRise, fuseRails, hnot]

/-- VDD_IO18 falling leaves its banks unpowered (R51). -/
theorem railFalls_io18 {s : State} (hall : s.pins.railsGood = Rail.all) :
    railFalls .vddIo18 s = coldPins (watchedPor .vddIo18 (railBad .vddIo18 s))
      ∧ bankPhase (watchedPor .vddIo18 (railBad .vddIo18 s)) .vddIo18 = .unpowered := by
  obtain ⟨hrails, -⟩ := watchedPor_keeps .vddIo18 (railBad .vddIo18 s)
  exact ⟨rfl, bankPhase_unpowered (by rw [hrails]; exact not_mem_railsGood_railBad hall)⟩

/-- The state with the fuse supply's voltage noted (R65). -/
def supplied (rail : Rail) (mv : Nat) (s : State) : State := s.updPins fun p => { p with vppMv := if rail = .vppFuse then mv else p.vppMv }

theorem powerUp_of_least {rail : Rail} {mv : Nat} (s : State) (h : rail.least ≤ 10 * mv) : powerUp rail mv s = railRises rail (supplied rail mv s) := by
  simp [powerUp, supplied, h]

theorem powerUp_of_low {rail : Rail} {mv : Nat} (s : State) (h : 10 * mv < rail.least) : powerUp rail mv s = railFalls rail (supplied rail mv s) := by
  simp [powerUp, supplied, Nat.not_le.mpr h]

/-- Settles O4: POR and the rails, by what a level-0 source does in and outside a level-0 reset (log entry 87). -/
theorem powerOnAndRails : Obligations.PowerOnAndRails := by
  refine ⟨fun s => ?_, fun rail mv s hv => ?_, fun rail mv s hv hall => ?_⟩
  · obtain ⟨hlevel, hcause, hsrc, hdom, hblock⟩ := assertPor_rst s
    exact ⟨_, rfl, hlevel, hcause, hsrc, hdom, hblock, (assertPor_keeps s).1, assertPor_fuses s, assertPor_clears⟩
  · obtain ⟨hgood, hrecords, hjournal, hwatched⟩ := railRises_keeps rail (supplied rail mv s)
    refine ⟨_, rfl, ?_⟩
    rw [powerUp_of_least s hv]
    refine ⟨hgood, by simp [supplied], hrecords, hjournal, hwatched, ?_, ?_⟩
    · rintro rfl hcore
      obtain ⟨hcold, hphase⟩ := railRises_io18 (s := supplied .vddIo18 mv s) hcore
      obtain ⟨hph, htrig, hpps, hrstout⟩ := coldPins_bank18 (watchedPor .vddIo18 (railGood .vddIo18 (supplied .vddIo18 mv s)))
      rw [hcold, hph, htrig, hpps, hrstout, hphase]
      exact ⟨rfl, rfl, rfl, rfl⟩
    · rintro rfl
      rfl
  · obtain ⟨hbad, hrecords, hjournal, hwatched, hother⟩ := railFalls_keeps (rail := rail) (s := supplied rail mv s) hall
    refine ⟨_, rfl, ?_⟩
    rw [powerUp_of_low s hv]
    refine ⟨hbad, by simp [supplied], hrecords, hjournal, hwatched, hother, ?_⟩
    rintro rfl
    obtain ⟨hcold, hphase⟩ := railFalls_io18 (s := supplied .vddIo18 mv s) hall
    obtain ⟨hph, htrig, -, hrstout⟩ := coldPins_bank18 (watchedPor .vddIo18 (railBad .vddIo18 (supplied .vddIo18 mv s)))
    rw [hcold, hph, htrig, hrstout, hphase]
    exact ⟨rfl, rfl, rfl⟩

end Sys2Proof.Machine
end

