-- ==== Sys2Proof/Proofs/RomFrames.lean ====
section
/-! The ROM, the journal and the store of persistent objects, as far as a release of a reset runs them: what each leaves of the reset record, the
clocks and the boot state (R91, R104, R117, R118, R122, R123). -/

namespace Sys2Proof.Machine

open Sys2Proof

/-- The reset record and the clocks of t are those of s. -/
@[simp] abbrev SameClocking (t s : State) : Prop := t.rst = s.rst ∧ t.clk = s.clk

/-! ### The journal and the persistent records -/

@[simp] theorem jnlAppend_control (src : Nat) (index : Nat) (sub : Nat) (status : Nat) (value : Nat) (s : State) :
    SameControl (jnlAppend src index sub status value s) s := by
  simp [jnlAppend]

@[simp] theorem jnlReset_control (s : State) : SameControl (jnlReset s) s := by simp [jnlReset]
@[simp] theorem rwpRecord_control (key : Nat) (v : Val) (s : State) : SameControl (rwpRecord key v s) s := by simp [rwpRecord]
@[simp] theorem noteReset_control (s : State) : SameControl (noteReset s) s := by simp [noteReset]

/-- Of the reset record, a persistent object's write changes a reset count at most. -/
theorem Obj.apply_rst_of_rwp {o : Obj} (h : o.desc.acc = .rwp) (v : Val) (s : State) : ∃ c, (o.apply v s).rst = { s.rst with count := c } := by
  cases o with
  | lane n r => cases r with
    | ferLimit => exact ⟨s.rst.count, by simp [Obj.apply, writeLane]⟩
    | _ => cases h
  | port p r => cases r with
    | upTime | eidleMax => exact ⟨s.rst.count, by simp [Obj.apply, PortReg.write]⟩
    | _ => cases h
  | tb r => cases r with
    | arrayDelay => exact ⟨s.rst.count, (driveSync_control _).1⟩
    | _ => cases h
  | host r => cases r with
    | hostcfg | scrubHours | rateMax => exact ⟨s.rst.count, rfl⟩
    | _ => cases h
  | sys r => cases r with
    | rstcnt => exact ⟨_, rfl⟩
    | clklossCnt | tjWarn | ldpPort | idleTmo | viewPriv | ipv4 | netmask | gateway | ptpctl | wdogTmo => exact ⟨s.rst.count, rfl⟩
    | mgtctl m => exact ⟨s.rst.count, by simp [Obj.apply, SysReg.write, writeMgtctl, settlePtp]⟩
    | _ => cases h
  | sec r => cases r with
    | rootPubkey => exact ⟨s.rst.count, rfl⟩
    | _ => cases h
  | src _ r | pipe _ r | queue _ r | pool r | dma _ r | ps r | enc _ r | router r | axis _ r => cases r <;> cases h

/-- So does their reload. -/
theorem reloadRwp_rst (s : State) : ∃ c, (reloadRwp s).rst = { s.rst with count := c } := by
  refine State.each_ind (fun t => ∃ c, t.rst = { s.rst with count := c }) _ _ (fun r t _ ht => ?_) s ⟨_, rfl⟩
  obtain ⟨c, hc⟩ := ht
  dsimp only
  split
  next o _ =>
    split
    next hrwp =>
      obtain ⟨c', hc'⟩ := Obj.apply_rst_of_rwp hrwp r.2 t
      exact ⟨c', by rw [hc', hc]⟩
    next => exact ⟨c, hc⟩
  next => exact ⟨c, hc⟩

theorem reloadRwp_of_no_records {s : State} (h : s.mram.records = []) : reloadRwp s = s := by simp [reloadRwp, h]

/-! ### Boot -/

@[simp] theorem linkLocal_control (m : Fin 2) (s : State) : SameControl (linkLocal m s) s := by simp [linkLocal]
@[simp] theorem takeAddress_control (m : Fin 2) (s : State) : SameControl (takeAddress m s) s := by simp [takeAddress]

@[simp] theorem bootMessage_control (op : Nat) (payload : List Byte) (s : State) : SameControl (bootMessage op payload s).2 s := by
  simp [bootMessage]

@[simp] theorem bootRequest_control (m : Fin 2) (s : State) : SameControl (bootRequest m s) s := by simp [bootRequest]

/-- A round of boot requests counts one attempt and waits for an offer (R122, R124). -/
theorem bootRound_boot (ms : List (Fin 2)) (s : State) :
    (bootRound ms s).boot = if ms.isEmpty then s.boot
      else { s.boot with attempts := satInc s.boot.attempts, net := { s.boot.net with requested := true } } := by
  simp [bootRound]

@[simp] theorem bootRound_clocking (ms : List (Fin 2)) (s : State) : SameClocking (bootRound ms s) s := by simp [bootRound]
@[simp] theorem startVerify_clocking (slot : Option (Fin 2)) (s : State) : SameClocking (startVerify slot s) s := by simp [startVerify]
@[simp] theorem attempt_clocking (s : State) : SameClocking (attempt s) s := by simp [attempt]
@[simp] theorem openWindow_clocking (s : State) : SameClocking (openWindow s) s := by simp [openWindow]
@[simp] theorem startBoot_clocking (s : State) : SameClocking (startBoot s) s := by fun_cases startBoot s <;> simp +zetaDelta
@[simp] theorem firmwareStarts_clocking (s : State) : SameClocking (firmwareStarts s) s := by simp [firmwareStarts]
@[simp] theorem reverify_clocking (s : State) : SameClocking (reverify s) s := by simp [reverify]

end Sys2Proof.Machine
end

