-- ==== Sys2Proof/Proofs/ColdRelease.lean ====
section
/-! The release of a level-0 reset: straps and TST, the fuses sensed, the wait for REFCLK, and the reset's end (R47, R50, R61, R99, R108, R116). -/

namespace Sys2Proof.Machine

open Sys2Proof

/-! ### Steps of the release -/

/-- Sensing the fuses enters both maps as their copies agree, and leaves the boot state and the rest of the reset record (R59, R61, R99). -/
theorem senseFuses_keeps (s : State) :
    (senseFuses s).rst = { s.rst with rstmap := agreed rstFields s.fuses.rstA s.fuses.rstB } ∧ (senseFuses s).boot = s.boot
      ∧ (senseFuses s).pins.pinmap = agreed pinFields s.fuses.pinA s.fuses.pinB := by
  simp [senseFuses, sensePins]

/-- The reset record once a level-0 release is done: nothing holds the device, and RSTOUT_N is due (R50, R69). -/
theorem finishCold_rst (s : State) :
    (finishCold s).rst.level = none ∧ (finishCold s).rst.held = [] ∧ (finishCold s).rst.isolated = []
      ∧ (finishCold s).rst.rstoutPending = true ∧ (finishCold s).rst.waitRefclk = false := by
  simp [finishCold, countReset, endReset]

/-- With no record of a persistent object to load, the PCIe reference stays as it was found (R115). -/
theorem finishCold_pcieRefsrc {s : State} (h : s.mram.records = []) : (finishCold s).clk.pcieRefsrc = s.clk.pcieRefsrc := by
  simp [finishCold, countReset, endReset, reloadAll, reloadRwp_of_no_records, h]

/-- The state once straps, TST and bank supplies are sampled: nothing holds the reset any longer (R47, R49, R114). -/
def sampled (st : Straps) (s : State) : State :=
  let s := s.updPins fun p => { p with
    boot := st.boot, clkm := st.clkm, trstN := st.trstN, extest := p.extest && st.trstN, clamp := p.clamp && st.trstN
    pc33 := #v[decide (2500 ≤ st.pc0Mv), decide (2500 ≤ st.pc1Mv)] }
  { s with rst := { s.rst with held := [], waitRefclk := false } }

/-- The state once the fuses are sensed and the boot source is taken from its straps. -/
def sensed (st : Straps) (s : State) : State := (senseFuses (sampled st s)).updBoot fun b => { b with source := st.boot }

/-- A release that nothing bars samples the straps; a TST ball that reads high ends it there (R48, R84). -/
theorem coldRelease_of_ready {s : State} (st : Straps) (ref pcie : Bool) (hlevel : s.rst.level = some 0) (hheld : stillHeld s = false)
    (hrails : railsUp s = true) : coldRelease st ref pcie s = if st.tst ≠ 0 then sampled st s else refStep ref pcie (sensed st s) := by
  simp only [coldRelease, hlevel, hheld, hrails, ne_eq, not_true_eq_false, Bool.false_eq_true, Bool.true_eq_false, or_self, if_false]
  simp only [sensed, sampled, State.updBoot]

theorem coldRelease_of_barred {s : State} (st : Straps) (ref pcie : Bool)
    (h : s.rst.level ≠ some 0 ∨ stillHeld s = true ∨ railsUp s = false) : coldRelease st ref pcie s = s := by
  rw [coldRelease, if_pos h]

/-- The sensed fuse maps, with the reset still in force (R59, R61, R99). -/
theorem sensed_keeps (st : Straps) (s : State) :
    (sensed st s).rst = { s.rst with rstmap := agreed rstFields s.fuses.rstA s.fuses.rstB, held := [], waitRefclk := false }
      ∧ (sensed st s).boot.source = st.boot ∧ (sensed st s).pins.pinmap = agreed pinFields s.fuses.pinA s.fuses.pinB
      ∧ (sensed st s).fuses = s.fuses := by
  obtain ⟨hrst, -, hmap⟩ := senseFuses_keeps (sampled st s)
  refine ⟨?_, rfl, ?_, ?_⟩
  · rw [sensed, State.updBoot_rst, hrst]
    rfl
  · rw [sensed, State.updBoot_pins, hmap]
    rfl
  · rw [sensed, State.updBoot_fuses, senseFuses_fuses]
    rfl

/-- Without REFCLK the release waits (R116). -/
theorem refStep_absent (pcie : Bool) (s : State) : refStep false pcie s = { s with rst := { s.rst with waitRefclk := true } } := rfl

/-- With it the reset ends (R69, R116). -/
theorem refStep_present (pcie : Bool) (s : State) :
    (refStep true pcie s).rst.level = none ∧ (refStep true pcie s).rst.held = [] ∧ (refStep true pcie s).rst.isolated = []
      ∧ (refStep true pcie s).rst.rstoutPending = true ∧ (refStep true pcie s).rst.waitRefclk = false :=
  finishCold_rst _

/-- CLKM says which PCIe reference counts, or leaves it to what the monitor sees (R108, R115). -/
theorem refStep_pcieRefsrc {s : State} (pcie : Bool) (h : s.mram.records = []) :
    (refStep true pcie s).clk.pcieRefsrc = if s.pins.clkm = 0 then false else if s.pins.clkm = 1 then true else pcie :=
  finishCold_pcieRefsrc h

/-- Settles O6: the steps of the release in their order, each by what it leaves of the reset record (log entry 101). -/
theorem levelZeroReleaseSteps : Obligations.LevelZeroReleaseSteps := by
  refine ⟨fun st ref pcie s hlevel hheld hrails => ?_, fun s hwait => ?_, fun st ref pcie s h => ?_⟩
  · have hrelease := coldRelease_of_ready st ref pcie hlevel hheld hrails
    obtain ⟨hrst, hsource, hmap, hfuses⟩ := sensed_keeps st s
    refine ⟨fun htst => ⟨_, rfl, ?_⟩, ?_, ?_⟩
    · rw [hrelease, if_pos htst]
      exact ⟨hlevel, rfl, rfl, rfl, rfl, rfl⟩
    · rintro htst rfl
      refine ⟨_, rfl, ?_⟩
      rw [hrelease, if_neg (not_not.mpr htst), refStep_absent]
      dsimp only
      rw [hrst]
      exact ⟨hlevel, rfl, hsource, rfl, hmap, hfuses⟩
    · rintro htst rfl
      refine ⟨_, rfl, ?_⟩
      rw [hrelease, if_neg (not_not.mpr htst)]
      obtain ⟨hend, hby, -, hrstout, hno⟩ := refStep_present pcie (sensed st s)
      exact ⟨hend, hby, hrstout, hno⟩
  · have hretry (seen : Option Bool) : exec (.refclkLockRetry seen) s = .next (refStep seen.isSome (seen.getD false) s) := by
      simp only [exec, execRefclkLockRetry, hwait, if_true]
    refine ⟨?_, fun pcie => ⟨_, hretry (some pcie), ?_⟩⟩
    · rw [hretry, Option.isSome_none, refStep_absent, ← hwait]
    · obtain ⟨hend, -, hfree, hrstout, hno⟩ := refStep_present pcie s
      exact ⟨hend, hrstout, hno, hfree, refStep_pcieRefsrc pcie⟩
  · rw [exec, execLevel0Release, coldRelease_of_barred st ref pcie h]

end Sys2Proof.Machine
end

