-- ==== Sys2Proof/Proofs/ClockDomains.lean ====
section
/-! The clock domains: one becomes good, fails to lock, or is lost, and the sync clock's return (R107 to R116). -/

namespace Sys2Proof.Machine

open Sys2Proof

/-! ### What a domain holds -/

/-- A DDR5 channel's domain holds no block of its own: the stall store waits for none (R109). -/
theorem domainBlks_ddr {d : Fin 23} (hlo : 8 ≤ d.1) (hhi : d.1 < 20) : domainBlks d = [] := by
  obtain ⟨n, hn⟩ := d
  simp only at hlo hhi
  interval_cases n <;> rfl

/-! ### The end of a domain reset -/

theorem endDomainReset_keeps (s : State) : (endDomainReset s).clk = s.clk ∧ (endDomainReset s).boot = s.boot := by simp [endDomainReset]

theorem endDomainReset_of_over {s : State} (h : s.rst.level = some 3 ∧ s.rst.block = none ∧ s.rst.isolated = [] ∧ s.rst.held = []) :
    (endDomainReset s).rst.level = none ∧ (endDomainReset s).rst.isolated = [] := by
  rw [endDomainReset, if_pos h]
  simp [h]

/-- A domain reset names no block: its end takes none out of reset. -/
theorem inReset_endDomainReset (b : Blk) (s : State) : inReset b (endDomainReset s) = inReset b s := by
  by_cases h : s.rst.level = some 3 ∧ s.rst.block = none ∧ s.rst.isolated = [] ∧ s.rst.held = []
  · obtain ⟨hlevel, hisolated⟩ := endDomainReset_of_over h
    obtain ⟨hclk, hboot⟩ := endDomainReset_keeps s
    obtain ⟨hlevel₀, hblock₀, hisolated₀, -⟩ := h
    simp only [inReset, hlevel, hisolated, hclk, hboot, hlevel₀, hblock₀, hisolated₀]
    rfl
  · rw [endDomainReset, if_neg h]

/-- With the control complex in reset as before, the ROM is left alone. -/
theorem afterControl_of_same {was s : State} (h : inReset .control s = inReset .control was) : afterControl was s = s := by
  simp [afterControl, h]

/-! ### A DDR5 domain becomes good -/

/-- The clocks with domain d good (R107). -/
def Clocks.gain (d : Fin 23) (k : Clocks) : Clocks := { k with good := k.good.set d.1 true d.2, absent := k.absent.set d.1 false d.2 }

/-- A DDR5 domain that becomes good releases nothing (R107, R109). -/
theorem clockGood_ddr {d : Fin 23} {s : State} (hlo : 8 ≤ d.1) (hhi : d.1 < 20) (hlevel : s.rst.level ≠ some 0) (hbad : s.clk.good[d] = false) :
    clockGood d s = endDomainReset { s with rst := lossEnds d s.rst, clk := s.clk.gain d } := by
  have hring : d ≠ 22 := by rintro rfl; simp at hhi
  have hcore : d ≠ 2 := by rintro rfl; simp at hlo
  have hquad : ¬ (3 ≤ d.1 ∧ d.1 ≤ 6) := by omega
  have hend : ¬ ((lossEnds d s.rst).level = some 0 ∨ s.clk.good[d] = true) := by rw [hbad]; simpa [lossEnds] using hlevel
  simp only [clockGood, hring, hcore, hquad, hend, false_and, if_false, domainBlks_ddr hlo hhi, releaseAll, State.each_nil]
  rfl

/-- The control complex waits for the control domain alone. -/
theorem inReset_control_gain {d : Fin 23} {s : State} (hlo : 8 ≤ d.1) :
    inReset .control { s with rst := lossEnds d s.rst, clk := s.clk.gain d } = inReset .control s := by
  have hne : d.1 ≠ 1 := by omega
  simp [inReset, lossEnds, Clocks.gain, Blk.domain, hne]

/-! ### Failures -/

/-- A domain that does not lock is reported absent; its record waits for firmware, which enters it if it runs (R116). -/
theorem lockFails_keeps {d : Fin 23} {s : State} (hlo : 2 ≤ d.1) (h22 : d.1 ≠ 22) (hlevel : s.rst.level ≠ some 0) (hbad : s.clk.good[d] = false) :
    (lockFails d s).clk = { s.clk with absent := s.clk.absent.set d.1 true d.2 } ∧ (lockFails d s).rst = s.rst := by
  have hring : d ≠ 22 := fun h => h22 (congrArg Fin.val h)
  have hnot : ¬ (s.rst.level = some 0 ∨ s.clk.good[d] = true ∨ d.1 < 2 ∨ (d = 22 ∧ s.pins.clkm ≠ 3)) := by
    rw [hbad]
    simp [hlevel, hring, Nat.not_lt.mpr hlo]
  rw [lockFails, if_neg hnot]
  simp [hring, captureFault]

/-- The state in which REFCLK's loss asserts CLOCK_LOSS: the loss counted, its record posted (R111, R113). -/
def refLost (s : State) : State := fault 0x0401 2 .clock 0 0 (countLoss s)

theorem refLost_rst (s : State) : (refLost s).rst = s.rst := by simp [refLost, countLoss]

/-- The loss of REFCLK resets at level 0, names its domain and takes every clock (R111, R112). -/
theorem clockFails_ref {s t : State} (hgood : s.clk.good[(0 : Fin 23)] = true) (ht : t = assertReset .clockLoss 0 none (refLost s)) :
    clockFails 0 s = { t with rst := { t.rst with causeDom := 0, lossDoms := t.rst.lossDoms ++ [0] }
                              clk := { t.clk with good := Vector.replicate 23 false } } := by
  subst ht
  simp [clockFails, hgood, lossLevel, domainBlks, refLost]

/-- A domain that is not good cannot fail. -/
theorem clockFails_of_bad {d : Fin 23} {s : State} (h : s.clk.good[d] = false) : clockFails d s = s := by
  rw [clockFails, h]
  rfl

/-! ### The sync clock's return -/

/-- SYNC_CLK_IN good again takes the CORE PLL back, once CORE is good (R112). -/
theorem ringReturns_of_lost {s : State} (hclkm : s.pins.clkm = 3) (hlevel : s.rst.level ≠ some 0) (hlost : s.clk.ringLost = true)
    (hcore : s.clk.good[(2 : Fin 23)] = true) :
    ringReturns s = { s with clk := { s.clk with
      good := s.clk.good.set 22 true, ringLost := false, ringSrc := true, ringswitch := satInc s.clk.ringswitch } } := by
  have hcore' : (s.clk.good.set 22 true)[(2 : Fin 23)] = true := by simpa using hcore
  simp [ringReturns, hclkm, hlevel, hlost, moveCore, hcore']

/-- Settles O8: what a domain's clock does to the clocks, and at the loss of REFCLK to the reset (log entries 89, 139). -/
theorem clockDomains : Obligations.ClockDomains := by
  refine fun d s => ⟨fun hlo hhi hlevel hbad => ?_, fun hlo hring hlevel hbad => ?_, fun hgood hlevel => ?_, fun hbad => ?_,
    fun hclkm hlevel hlost hcore => ?_, fun hlost => ?_⟩
  · have hgood := clockGood_ddr hlo hhi hlevel hbad
    have hsame : inReset .control (clockGood d s) = inReset .control s := by
      rw [hgood, inReset_endDomainReset, inReset_control_gain hlo]
    refine ⟨_, rfl, ?_⟩
    rw [afterControl_of_same hsame, hgood]
    exact (endDomainReset_keeps _).1
  · obtain ⟨hclk, hrst⟩ := lockFails_keeps hlo hring hlevel hbad
    exact ⟨_, rfl, hclk, hrst⟩
  · obtain ⟨hzero, hheld, -⟩ := assertReset_level_zero (s := refLost s) .clockLoss (by rw [refLost_rst, hlevel])
    refine ⟨_, rfl, ?_⟩
    rw [clockFails_fuses, clockFails_ref hgood rfl]
    exact ⟨hzero, rfl, hheld, rfl⟩
  · rw [exec, execClockFailure, clockFails_of_bad hbad]
  · rw [exec, execRingClockReturn, ringReturns_of_lost hclkm hlevel hlost hcore]
  · simp [exec, execRingClockReturn, ringReturns, hlost]

end Sys2Proof.Machine
end

