-- ==== Sys2Proof/Proofs/ResetReleases.lean ====
section
/-! The releases of levels 1 to 3: the reset's end is counted, its blocks are released, and the control complex starts again if it was held (R104,
R107, R118 to R120). -/

namespace Sys2Proof.Machine

open Sys2Proof

/-! ### The end of a reset -/

/-- A reset of a level is counted once, and nothing else of the reset record changes (R104). -/
theorem countReset_keeps (lv : Fin 4) (s : State) :
    (countReset lv s).rst = { s.rst with count := s.rst.count.set lv.1 (satInc s.rst.count[lv]) lv.2 } ∧ (countReset lv s).clk = s.clk
      ∧ (countReset lv s).boot = s.boot := by
  simp [countReset]

/-! ### The control complex starts again -/

theorem firmwareStarts_boot (s : State) :
    (firmwareStarts s).boot = { s.boot with phase := 3, verifying := false, window := false, hostReady := true, halted := false } := by
  simp [firmwareStarts]

theorem openWindow_hostDue (s : State) : (openWindow s).boot.hostDue = s.boot.hostDue := by
  unfold openWindow
  split <;> rfl

theorem startBoot_hostDue (s : State) : (startBoot s).boot.hostDue = s.boot.hostDue := by
  fun_cases startBoot s <;> simp +zetaDelta [startVerify, attempt, openWindow_hostDue, bootRound_boot, apply_ite Boot.hostDue]

theorem reverify_hostDue (s : State) : (reverify s).boot.hostDue = s.boot.hostDue := by
  fun_cases reverify s <;> simp [firmwareStarts_boot, startBoot_hostDue]

/-- Outside a level-1 release the host ports have been released already (R118). -/
theorem releaseHosts_of_not_due {s : State} (h : s.boot.hostDue = false) : releaseHosts s = s := by simp [releaseHosts, h]

theorem romHosts_of_not_due {s : State} (h : s.boot.hostDue = false) : romHosts s = s := by simp [romHosts, releaseHosts_of_not_due h]

/-- Releasing the host ports reloads the persistent objects: of the reset record, the counts at most (R104, R118). -/
theorem releaseHosts_rst (s : State) : ∃ c, (releaseHosts s).rst = { s.rst with count := c } := by
  unfold releaseHosts
  split
  · obtain ⟨c, hc⟩ := reloadRwp_rst (s.updBoot fun b => { b with hostDue := false })
    exact ⟨c, by simp [reloadAll, hc]⟩
  · exact ⟨s.rst.count, rfl⟩

theorem romHosts_rst (s : State) : ∃ c, (romHosts s).rst = { s.rst with count := c } := by
  unfold romHosts
  split
  · exact releaseHosts_rst s
  · exact ⟨s.rst.count, rfl⟩

/-- The control complex starting again leaves the reset record but for its counts (R118, R120). -/
theorem controlReleased_rst (s : State) : ∃ c, (controlReleased s).rst = { s.rst with count := c } := by
  unfold controlReleased
  split
  · rw [(reverify_clocking _).1]
    exact releaseHosts_rst s
  · obtain ⟨c, hc⟩ := romHosts_rst (reverify s)
    exact ⟨c, by rw [hc, (reverify_clocking s).1]⟩

theorem afterControl_rst (was s : State) : ∃ c, (afterControl was s).rst = { s.rst with count := c } := by
  unfold afterControl
  split
  · exact controlReleased_rst s
  · exact ⟨s.rst.count, rfl⟩

/-- With the host ports released already, nothing of the reset record or the clocks changes. -/
theorem afterControl_of_not_due (was : State) {s : State} (h : s.boot.hostDue = false) : SameClocking (afterControl was s) s := by
  simp [afterControl, controlReleased, releaseHosts_of_not_due h, romHosts_of_not_due (reverify_hostDue s ▸ h)]

/-! ### Level 1 -/

/-- A level-1 reset at its end: counted, RSTOUT_N due, and the host ports left to step 6 (R50, R118). -/
def warmEnded (s : State) : State :=
  let t := countReset 1 (endReset s)
  { t with rst := { t.rst with rstoutPending := true }, boot := { t.boot with hostDue := true } }

/-- A level-1 release ends the reset, and RSTOUT_N is due (R50, R118). -/
theorem warmRelease_rst {s : State} (hlevel : s.rst.level = some 1) (hheld : stillHeld s = false) :
    ∃ c, (warmRelease s).rst = { s.rst with level := none, block := none, isolated := [], held := [], rstoutPending := true, count := c } := by
  have hgo : ¬ (s.rst.level ≠ some 1 ∨ stillHeld s = true) := by simp [hlevel, hheld]
  have hrelease : warmRelease s = afterControl s
      (releaseAll [.mgt 0, .mgt 1] (releaseQuads (List.finRange 4) (releaseAll (dataBlks ++ timingBlks) (warmEnded s)))) := by
    rw [warmRelease, if_neg hgo]
    rfl
  obtain ⟨c, hc⟩ := afterControl_rst s
    (releaseAll [.mgt 0, .mgt 1] (releaseQuads (List.finRange 4) (releaseAll (dataBlks ++ timingBlks) (warmEnded s))))
  refine ⟨c, ?_⟩
  rw [hrelease, hc]
  simp [warmEnded, countReset_keeps, endReset]

/-! ### Level 2 -/

/-- A level-2 release ends the reset, which counts once; the clocks stay (R104, R119). -/
theorem dataRelease_keeps {s : State} (hlevel : s.rst.level = some 2) (hheld : stillHeld s = false) (hcontrol : inReset .control s = false) :
    SameClocking (dataRelease s) (countReset 2 (endReset s)) := by
  have hgo : ¬ (s.rst.level ≠ some 2 ∨ stillHeld s = true) := by simp [hlevel, hheld]
  rw [dataRelease, if_neg hgo]
  simp [hcontrol]

/-! ### Level 3 -/

/-- The state in which block b's level-3 reset ends: it was the last one held (R107). -/
def blockEnded (s : State) : State := countReset 3 (endReset { s with rst := { s.rst with block := none, isolated := [] } })

/-- Before a lane leaves its own reset, its quadrant calibrates (R129). -/
def laneCalibrates (b : Blk) (s : State) : State :=
  match b with
  | .lane n => if inReset b s then s else calibrate true (Fin.ofNat 4 (n.1 / 16)) s
  | _ => s

theorem laneCalibrates_control (b : Blk) (s : State) : SameControl (laneCalibrates b s) s := by
  unfold laneCalibrates
  split
  · split <;> simp
  · simp

/-- The release of the only block held in reset: the reset counts once, and the block takes up its configuration (R104, R107, R120). -/
theorem blockRelease_of_sole {b : Blk} {s : State} (hlevel : s.rst.level = some 3) (hblock : s.rst.block = some b) (hisolated : s.rst.isolated = [])
    (hheld : stillHeld s = false) :
    ∃ u, SameControl u (blockEnded s) ∧ blockRelease b s = if b = .control then afterControl s u else noteReset u := by
  have hgo : ¬ (s.rst.level ≠ some 3 ∨ ¬ (s.rst.block = some b ∨ s.rst.isolated.contains b = true)) := by simp [hlevel, hblock]
  have hloss : s.rst.held.contains .clockLoss = false := (Bool.or_eq_false_iff.mp hheld).2
  refine ⟨settlePause (releaseAll [b] (laneCalibrates b (blockEnded s))), by simp [laneCalibrates_control b (blockEnded s)], ?_⟩
  rw [blockRelease, if_neg hgo]
  simp only [hblock, hisolated, hloss, if_true, List.erase_nil, Option.isNone_none, List.isEmpty_nil, Bool.not_false, Bool.and_self, Bool.true_and]
  by_cases hb : b = .control
  · subst hb
    rfl
  · rw [if_pos (bne_iff_ne.mpr hb), if_neg hb]
    rfl

theorem blockEnded_keeps (s : State) :
    (blockEnded s).rst.level = none ∧ (blockEnded s).rst.block = none ∧ (blockEnded s).rst.held = []
      ∧ (blockEnded s).rst.count[(3 : Fin 4)] = satInc s.rst.count[(3 : Fin 4)] ∧ (blockEnded s).clk = s.clk
      ∧ (blockEnded s).boot = s.boot := by
  simp [blockEnded, countReset_keeps, endReset]

/-- Another block than the control complex: firmware ran on, and notes the reset (R119, R120). -/
theorem blockRelease_keeps {b : Blk} {s : State} (hlevel : s.rst.level = some 3) (hblock : s.rst.block = some b) (hisolated : s.rst.isolated = [])
    (hheld : stillHeld s = false) (hb : b ≠ .control ∨ s.boot.hostDue = false) : SameClocking (blockRelease b s) (blockEnded s) := by
  obtain ⟨u, ⟨hrst, hclk, hboot⟩, hrelease⟩ := blockRelease_of_sole hlevel hblock hisolated hheld
  obtain ⟨-, -, -, -, -, hboot₀⟩ := blockEnded_keeps s
  rw [hrelease]
  split
  next hcontrol =>
    have hdue : u.boot.hostDue = false := by rw [hboot, hboot₀]; exact hb.resolve_left (not_not.mpr hcontrol)
    obtain ⟨hrst', hclk'⟩ := afterControl_of_not_due s hdue
    exact ⟨hrst'.trans hrst, hclk'.trans hclk⟩
  next =>
    obtain ⟨hrst', hclk', -⟩ := noteReset_control u
    exact ⟨hrst'.trans hrst, hclk'.trans hclk⟩

/-- Settles O7: each release by what it leaves of the reset record and the clocks (log entry 82). -/
theorem releasesEndTheirReset : Obligations.ReleasesEndTheirReset := by
  refine fun s => ⟨fun hheld => ⟨fun hlevel => ?_, fun hlevel hcontrol => ?_, fun b hlevel hblock hisolated hb => ?_,
    fun hlevel hblock hisolated hdue => ?_⟩, fun hheld => ⟨?_, ?_⟩⟩
  · obtain ⟨c, hrst⟩ := warmRelease_rst hlevel hheld
    refine ⟨_, rfl, ?_⟩
    rw [warmRelease_fuses, hrst]
    exact ⟨rfl, rfl, rfl, rfl, rfl⟩
  · obtain ⟨hrst, hclk⟩ := dataRelease_keeps hlevel hheld hcontrol
    refine ⟨_, rfl, ?_⟩
    rw [dataRelease_fuses, hrst, hclk]
    simp [countReset_keeps, endReset]
  · obtain ⟨hrst, hclk⟩ := blockRelease_keeps hlevel hblock hisolated hheld (.inl hb)
    obtain ⟨hend, hnone, hby, hcount, hclk₀, -⟩ := blockEnded_keeps s
    refine ⟨_, rfl, ?_⟩
    rw [blockRelease_fuses, hrst, hclk]
    exact ⟨hend, hnone, hby, hcount, hclk₀, rfl⟩
  · obtain ⟨hrst, hclk⟩ := blockRelease_keeps hlevel hblock hisolated hheld (.inr hdue)
    obtain ⟨hend, hnone, -, hcount, hclk₀, -⟩ := blockEnded_keeps s
    refine ⟨_, rfl, ?_⟩
    rw [blockRelease_fuses, hrst, hclk]
    exact ⟨hend, hnone, hcount, hclk₀, rfl⟩
  · rw [exec, execResetReleaseL1, warmRelease, if_pos (.inr hheld)]
  · rw [exec, execResetReleaseL2, dataRelease, if_pos (.inr hheld)]

end Sys2Proof.Machine
end

