-- ==== Sys2Proof/Proofs/BootVerification.lean ====
section
/-! The boot ROM: the boot window's doorbell, the end of a verification, the next slot, and the loads over SPI and over the network (R121 to R126,
R592, R606, R607). -/

namespace Sys2Proof.Machine

open Sys2Proof

/-! ### Verification -/

theorem bootDoorbell_of_open {s : State} (hrom : romRuns s = true) (hwindow : s.boot.window = true) :
    bootDoorbell s = startVerify none (attempt (s.updBoot fun b => { b with window := false })) := by
  simp [bootDoorbell, hrom, hwindow]

theorem bootDoorbell_of_closed {s : State} (hwindow : s.boot.window = false) : bootDoorbell s = s := by
  simp [bootDoorbell, hwindow]

/-- A verification that ends runs the image, or moves the boot on (R607). -/
theorem verifyEnds_of_verifying {s : State} (hrom : romRuns s = true) (hverifying : s.boot.verifying = true) :
    verifyEnds s = if verifyCode s = 0 then runImage s else imageFails (verifyCode s) s := by
  simp [verifyEnds, hrom, hverifying]

theorem verifyEnds_of_idle {s : State} (hverifying : s.boot.verifying = false) : verifyEnds s = s := by
  simp [verifyEnds, hverifying]

/-- A failed slot A is followed by slot B: one more attempt (R122, R124). -/
theorem imageFails_of_slotA {code : Nat} {s : State} (hphase : s.boot.phase ≠ 4) (hsource : s.boot.source = 0) (hslot : s.boot.trySlot = 0) :
    imageFails code s = startVerify (some 1) (attempt (s.updBoot fun b => { b with verifying := false, fail := BitVec.ofNat 8 code })) := by
  simp [imageFails, hphase, hsource, hslot]

/-! ### Firmware's start -/

theorem logFault_wdog (r : FaultRec) (s : State) : (logFault r s).wdog = s.wdog := by rw [logFault_frame]

theorem jnlReset_wdog (s : State) : (jnlReset s).wdog = s.wdog := by
  unfold jnlReset jnlAppend
  dsimp only
  split
  · rfl
  · rw [deviceVector_frame]

theorem takeAddress_wdog (m : Fin 2) (s : State) : (takeAddress m s).wdog = s.wdog := by
  unfold takeAddress linkLocal
  dsimp only
  (repeat' split) <;> rfl

/-- Firmware's start restarts the watchdog (R634). -/
theorem firmwareStarts_wdog (s : State) : (firmwareStarts s).wdog = { s.wdog with running := some s.wdog.tmo } := by
  rw [firmwareStarts]
  dsimp only
  rw [State.each_keeps State.wdog _ _ takeAddress_wdog, jnlReset_wdog, State.each_keeps State.wdog _ _ logFault_wdog]
  rfl

/-- The image runs with its measurement kept (R123, R606). -/
theorem runImage_keeps (s : State) :
    (runImage s).boot.phase = 3 ∧ (runImage s).boot.meas = measurement (bootImage s) ∧ (runImage s).boot.retained = true
      ∧ (runImage s).boot.window = false ∧ (runImage s).wdog.running = some s.wdog.tmo := by
  simp [runImage, firmwareStarts_boot, firmwareStarts_wdog]

/-- Outside a level-1 release an image that passes runs (R118, R607). -/
theorem exec_bootVerifyDone_of_pass {s : State} (hdue : s.boot.hostDue = false) (hrom : romRuns s = true) (hverifying : s.boot.verifying = true)
    (hcode : verifyCode s = 0) : exec .bootVerifyDone s = .next (runImage s) := by
  simp [exec, execBootVerifyDone, hrom, hverifying, hcode, releaseHosts_of_not_due hdue, verifyEnds_of_verifying]

/-- Anything else moves the boot on, if a verification runs at all. -/
theorem exec_bootVerifyDone_of_not_pass {s : State} (h : s.boot.verifying = false ∨ verifyCode s ≠ 0) :
    exec .bootVerifyDone s = .next (romHosts (verifyEnds s)) := by
  rcases h with h | h <;> simp [exec, execBootVerifyDone, h]

/-- Settles O10: the doorbell, and the end of a verification by what it finds (log entry 79). -/
theorem bootVerification : Obligations.BootVerification := by
  refine fun s hdue hrom => ⟨fun hwindow => ?_, fun hwindow => ?_, fun hverifying hram hpass => ?_,
    fun hverifying hslots hslot hphase hsource hfail => ?_, fun hidle => ?_⟩
  · rw [exec, execBootDoorbell, bootDoorbell_of_open hrom hwindow]
    rfl
  · rw [exec, execBootDoorbell, bootDoorbell_of_closed hwindow]
  · have hcode : verifyCode s = 0 := by rw [verifyCode, if_pos hram, hpass]
    obtain ⟨hphase, hmeas, hretained, hclosed, hwdog⟩ := runImage_keeps s
    refine ⟨_, exec_bootVerifyDone_of_pass hdue hrom hverifying hcode, hphase, ?_, hretained, hclosed, hwdog, runImage_fuses s⟩
    rw [hmeas, bootImage, if_pos hram]
  · have hcode : verifyCode s = slotFail s 0 := by rw [verifyCode, hslots, hslot]; rfl
    have hnext : verifyEnds s =
        startVerify (some 1) (attempt (s.updBoot fun b => { b with verifying := false, fail := BitVec.ofNat 8 (slotFail s 0) })) := by
      rw [verifyEnds_of_verifying hrom hverifying, hcode, if_neg hfail, imageFails_of_slotA hphase hsource hslot]
    have hstill : (verifyEnds s).boot.hostDue = false := by rw [hnext]; exact hdue
    refine ⟨_, exec_bootVerifyDone_of_not_pass (.inr (hcode ▸ hfail)), ?_⟩
    rw [romHosts_of_not_due hstill, hnext]
    exact ⟨rfl, rfl, if_neg hphase, rfl, rfl, rfl⟩
  · rw [exec_bootVerifyDone_of_not_pass (.inl hidle), verifyEnds_of_idle hidle, romHosts_of_not_due hdue]

end Sys2Proof.Machine
end

