-- ==== Sys2Proof/Proofs/BootSources.lean ====
section
/-! The ROM's loads over SPI and over the network: what a read, an offer, data, and the lack of an answer do to the boot state (R122, R124, R592). -/

namespace Sys2Proof.Machine

open Sys2Proof

/-! ### SPI -/

/-- Boot RAM holds what an SPI read brought (R122). -/
def spiRead (bytes : List Byte) (s : State) : State := s.updBoot fun b => { b with ram := memWrite b.ram 0 (bytes.take 4194304) }

/-- A whole header that passes checks 2 to 4 is followed by the image. -/
theorem spiLoaded_of_header {bytes : List Byte} {s : State} (hrom : romRuns s = true) (hwait : s.boot.spiWait = .header) (hlen : 4096 ≤ bytes.length)
    (hpass : ¬ (2 ≤ verifyFail (spiRead bytes s) (spiRead bytes s).boot.ram ∧ verifyFail (spiRead bytes s) (spiRead bytes s).boot.ram ≤ 4)) :
    spiLoaded bytes s = (spiRead bytes s).updBoot fun b => { b with spiWait := .image } := by
  simp only [spiLoaded, hrom, hwait, Bool.not_true, Bool.false_eq_true, if_false]
  rw [if_neg (Nat.not_lt.mpr hlen)]
  exact if_neg hpass

/-- A whole image is verified. -/
theorem spiLoaded_of_image {bytes : List Byte} {s : State} (hrom : romRuns s = true) (hwait : s.boot.spiWait = .image)
    (hlen : 4096 + bodyLen s.boot.ram ≤ bytes.length) :
    spiLoaded bytes s = startVerify none ((spiRead bytes s).updBoot fun b => { b with spiWait := .none }) := by
  simp only [spiLoaded, hrom, hwait, Bool.not_true, Bool.false_eq_true, if_false]
  exact if_neg (Nat.not_lt.mpr hlen)

/-- A short read of the header is an attempt that failed; the first two are followed by another (R122, R124). -/
theorem spiLoaded_of_short {bytes : List Byte} {s : State} (hrom : romRuns s = true) (hwait : s.boot.spiWait = .header) (hlen : bytes.length < 4096)
    (htries : s.boot.spiTries < 2) :
    spiLoaded bytes s = attempt (s.updBoot fun b => { b with fail := 0x10, phase := 1, spiWait := .header, spiTries := b.spiTries + 1 }) := by
  simp only [spiLoaded, hrom, hwait, Bool.not_true, Bool.false_eq_true, if_false]
  rw [if_pos hlen]
  exact if_pos htries

/-- No read under way: nothing to complete. -/
theorem spiLoaded_of_none {bytes : List Byte} {s : State} (hwait : s.boot.spiWait = .none) : spiLoaded bytes s = s := by
  simp [spiLoaded, hwait]

/-- Outside a level-1 release the load is all that SPI_IMAGE_LOADED does. -/
theorem exec_spiImageLoaded {bytes : List Byte} {s t : State} (hload : spiLoaded bytes s = t) (hdue : t.boot.hostDue = false) :
    exec (.spiImageLoaded bytes) s = .next t := by
  rw [exec, execSpiImageLoaded, hload, romHosts_of_not_due hdue]

/-! ### Requests of the network boot -/

@[simp] theorem bootRead_control (ofs len : Nat) (s : State) : SameControl (bootRead ofs len s) s := by
  unfold bootRead
  split <;> simp

/-- Asking for more of the image touches only what is outstanding (R592). -/
theorem bootReads_boot (k : Nat) (s : State) :
    ∃ outstanding next, (bootReads k s).boot = { s.boot with net := { s.boot.net with outstanding := outstanding, nextOfs := next } } := by
  induction k generalizing s with
  | zero => exact ⟨_, _, rfl⟩
  | succ k ih =>
    unfold bootReads
    split
    · exact ⟨_, _, rfl⟩
    · dsimp only
      split
      · exact ⟨_, _, rfl⟩
      · obtain ⟨outstanding, next, h⟩ := ih (bootRead s.boot.net.nextOfs _ (s.updBoot _))
        exact ⟨outstanding, next, by rw [h]; simp⟩

/-- An offer that answers a request is taken: the load starts at nothing received (R592). -/
theorem bootOffer_boot {m : Fin 2} {server len : Nat} {s : State} (hnet : netBooting s = true) (hidle : s.boot.verifying = false)
    (hserver : s.boot.net.server = none) (hrequested : s.boot.net.requested = true) (hmgt : inReset (.mgt m) s = false)
    (hlen : 1 ≤ len ∧ len ≤ 4194304) :
    (bootOffer m server len s).boot.net.server = some (server, m, len) ∧ (bootOffer m server len s).boot.net.got = 0
      ∧ (bootOffer m server len s).boot.ram = s.boot.ram := by
  have hoffer : ∃ t : State, bootOffer m server len s = bootReads 64 t ∧ t.boot = { s.boot with net := { s.boot.net with
      server := some (server, m, len), outstanding := [], nextOfs := 0, got := 0, requested := false } } := by
    refine ⟨_, by simp [bootOffer, hnet, hidle, hserver, hrequested, hmgt, hlen]; rfl, rfl⟩
  obtain ⟨t, hreads, ht⟩ := hoffer
  obtain ⟨outstanding, next, hboot⟩ := bootReads_boot 64 t
  rw [hreads, hboot, ht]
  exact ⟨rfl, rfl, rfl⟩

/-- The load's last data fill boot RAM, whose verification starts (R122, R592). -/
theorem bootData_of_last {m : Fin 2} {server ofs total : Nat} {bytes : List Byte} {r : Nat × Nat × Nat} {s : State} (hnet : netBooting s = true)
    (hidle : s.boot.verifying = false) (hserver : s.boot.net.server = some (server, m, total))
    (hfind : s.boot.net.outstanding.find? (fun r => r.1 == ofs && r.2.1 == bytes.length) = some r)
    (hlast : s.boot.net.got + bytes.length = total) :
    bootData m server ofs bytes s = startVerify none (s.updBoot fun b =>
      { b with ram := memWrite b.ram ofs bytes, window := false, net := { b.net with outstanding := [], got := total } }) := by
  subst hlast
  simp [bootData, hserver, hnet, hidle, hfind]
  rfl

/-- The eighth read without an answer gives the server up (R592). -/
theorem bootReadRetry_of_eighth {ofs : Nat} {r : Nat × Nat × Nat} {s : State} (hnet : netBooting s = true)
    (hfind : s.boot.net.outstanding.find? (fun r => r.1 == ofs) = some r) (htimes : 8 ≤ r.2.2) : bootReadRetry ofs s = noAnswer s := by
  simp [bootReadRetry, hnet, hfind, htimes]

/-- The state with read r sent once more. -/
def sentAgain (r : Nat × Nat × Nat) (s : State) : State :=
  s.updBoot fun b => { b with net := { b.net with outstanding := b.net.outstanding.map fun x => if x = r then (x.1, x.2.1, x.2.2 + 1) else x } }

/-- Before that the read is sent again (R592). -/
theorem bootReadRetry_of_early {ofs : Nat} {r : Nat × Nat × Nat} {s : State} (hnet : netBooting s = true)
    (hfind : s.boot.net.outstanding.find? (fun r => r.1 == ofs) = some r) (htimes : r.2.2 < 8) :
    bootReadRetry ofs s = bootRead r.1 r.2.1 (sentAgain r s) := by
  simp [bootReadRetry, sentAgain, hnet, hfind, Nat.not_le.mpr htimes]

/-- A read is one datagram to the server's boot port. -/
theorem bootRead_tx {ofs len addr total : Nat} {m : Fin 2} {s : State} (hserver : s.boot.net.server = some (addr, m, total)) :
    ∃ bs, (bootRead ofs len s).tx = s.tx ++ [.datagram m none (addr * 65536 + 5240) bs] := by
  simp only [bootRead, hserver]
  exact ⟨_, rfl⟩

/-- A request without an answer doubles the interval, and another round is sent (R122). -/
theorem netRetry_boot {s : State} (hnet : netBooting s = true) (hidle : s.boot.verifying = false) (hserver : s.boot.net.server = none) :
    (netRetry s).boot.net.interval = min 64 (2 * s.boot.net.interval) ∧ (netRetry s).boot.fail = 0x10#8 ∧ (netRetry s).boot.ram = s.boot.ram := by
  have hretry : ∃ t : State, netRetry s = bootRound (portsUp t) t
      ∧ t.boot = { s.boot with net := { interval := min 64 (2 * s.boot.net.interval) }, fail := 0x10 } := by
    refine ⟨_, by simp [netRetry, hnet, hidle, hserver]; rfl, rfl⟩
  obtain ⟨t, hround, ht⟩ := hretry
  rw [hround, bootRound_boot, ht]
  split <;> exact ⟨rfl, rfl, rfl⟩

/-- Settles O11: each row of the two loads by what it does to the boot state (log entry 79). -/
theorem bootSources : Obligations.BootSources := by
  refine ⟨fun bytes s hdue hrom => ⟨fun hwait hlen hpass => ?_, fun hwait hlen => ?_, fun hwait hlen htries => ?_, fun hwait => ?_⟩,
    fun m server len ofs bytes s hnet hidle => ⟨fun hserver hrequested hmgt hlo hhi => ?_, fun total r hserver hfind hlast => ⟨_, rfl, ?_⟩,
      fun r hfind htimes => ⟨_, rfl, ?_⟩, fun r addr total hserver hfind htimes => ?_, fun hserver => ?_⟩⟩
  · exact exec_spiImageLoaded (spiLoaded_of_header hrom hwait hlen hpass) hdue
  · exact ⟨_, exec_spiImageLoaded (spiLoaded_of_image hrom hwait hlen) hdue, rfl, rfl, rfl, rfl⟩
  · exact ⟨_, exec_spiImageLoaded (spiLoaded_of_short hrom hwait hlen htries) hdue, rfl, rfl, rfl, rfl⟩
  · exact exec_spiImageLoaded (spiLoaded_of_none hwait) hdue
  · obtain ⟨htaken, hgot, hram⟩ := bootOffer_boot (server := server) hnet hidle hserver hrequested hmgt ⟨hlo, hhi⟩
    exact ⟨_, rfl, htaken, hgot, hram, bootOffer_fuses m server len s⟩
  · rw [bootData_of_last hnet hidle hserver hfind hlast]
    exact ⟨rfl, rfl, rfl, rfl, rfl⟩
  · rw [bootReadRetry_of_eighth hnet hfind htimes]
    exact ⟨rfl, rfl, rfl, rfl⟩
  · obtain ⟨bs, htx⟩ := bootRead_tx (ofs := r.1) (len := r.2.1) (s := sentAgain r s) hserver
    refine ⟨_, bs, rfl, ?_⟩
    rw [bootReadRetry_of_early hnet hfind htimes, (bootRead_control ..).2.2]
    exact ⟨htx, rfl⟩
  · exact ⟨_, rfl, netRetry_boot hnet hidle hserver⟩

end Sys2Proof.Machine
end

