-- ==== Sys2Proof/Proofs/LaneReceivers.lean ====
section
/-! A lane without its transmitter: what sending on a link, pause, publishing and a port's upstream idle leave of every lane (R141 to R143, R189), and what
a change of training state does to a lane of no port (R182). -/

namespace Sys2Proof.Machine

open Sys2Proof

/-- The lane with all that sending on it can change set aside: its transmitter's idle, the exit it is in, its precoder and its queue. -/
def Lane.receiver (l : Lane) : Lane := { l with txIdle := false, exitLeft := 0, txPrev := 0, txq := [] }

/-- What sending leaves of every lane. -/
def State.receivers (s : State) (k : Fin 64) : Lane := s.lanes[k].receiver

theorem State.receivers_congr {s t : State} (h : t.lanes = s.lanes) : t.receivers = s.receivers := by
  funext k
  rw [State.receivers, h, State.receivers]

@[simp] theorem State.ite_receivers (c : Prop) [Decidable c] (s t : State) :
    (if c then s else t).receivers = if c then s.receivers else t.receivers :=
  apply_ite State.receivers c s t

@[simp] theorem State.updPort_receivers (s : State) (p : Fin 16) (f : Port → Port) : (s.updPort p f).receivers = s.receivers := rfl

/-- The changed lane's receiver is the changed lane's. -/
@[simp] theorem State.updLane_receivers_same (s : State) (n : Fin 64) (f : Lane → Lane) : (s.updLane n f).receivers n = (f s.lanes[n]).receiver := by
  rw [State.receivers, State.updLane_lanes, modAt_get]

/-- A lane replaced by itself. -/
theorem State.updLane_id (s : State) (n : Fin 64) : (s.updLane n fun l => l) = s := by
  have h : modAt s.lanes n (fun l => l) = s.lanes := Vector.set_getElem_self n.isLt
  rw [State.updLane, h]

/-- A change of one lane's transmitter changes no receiver. -/
theorem State.updLane_receivers (s : State) (n : Fin 64) (f : Lane → Lane) (h : (f s.lanes[n]).receiver = s.lanes[n].receiver) :
    (s.updLane n f).receivers = s.receivers := by
  funext k
  by_cases hk : k = n
  · rw [hk, State.updLane_receivers_same, h, State.receivers]
  · rw [State.receivers, State.updLane_lanes, modAt_get_ne _ _ _ _ hk, State.receivers]

@[simp] theorem State.each_receivers {α : Type} (s : State) (l : List α) (f : α → State → State) (h : ∀ a t, (f a t).receivers = t.receivers) :
    (s.each l f).receivers = s.receivers :=
  State.each_keeps State.receivers l f h s

/-! ### Sending -/

@[simp] theorem publish_receivers (code : Nat) (s : State) : (publish code s).receivers = s.receivers :=
  State.receivers_congr (by rw [publish_frame])

@[simp] theorem drive_receivers (n : Fin 64) (ps : List Level) (s : State) : (drive n ps s).receivers = s.receivers :=
  State.receivers_congr (by unfold drive; split <;> rfl)

@[simp] theorem sendTwice_receivers (n : Fin 64) (x : BitVec 256) (s : State) : (sendTwice n x s).receivers = s.receivers :=
  s.updLane_receivers n _ rfl

@[simp] theorem leaveIdle_receivers (n : Fin 64) (s : State) : (leaveIdle n s).receivers = s.receivers := by
  unfold leaveIdle
  split
  · rw [drive_receivers]
    exact s.updLane_receivers n _ rfl
  · rfl

@[simp] theorem wakeLane_receivers (n : Fin 64) (s : State) : (wakeLane n s).receivers = s.receivers := by
  unfold wakeLane
  split
  · rw [leaveIdle_receivers]
    exact s.updLane_receivers n _ rfl
  · rfl

@[simp] theorem wakeDown_receivers (p : Fin 16) (s : State) : (wakeDown p s).receivers = s.receivers := by simp [wakeDown]
@[simp] theorem sendOn_receivers (ls : List (Fin 64)) (x : BitVec 256) (s : State) : (sendOn ls x s).receivers = s.receivers := by simp [sendOn]
@[simp] theorem sendPort_receivers (p : Fin 16) (x : BitVec 256) (s : State) : (sendPort p x s).receivers = s.receivers := by simp [sendPort]
@[simp] theorem settlePort_receivers (h p : Fin 16) (s : State) : (settlePort h p s).receivers = s.receivers := by simp [settlePort]

/-- Pause is sent, and nothing that is heard changes. -/
@[simp] theorem settlePause_receivers (s : State) : (settlePause s).receivers = s.receivers := by simp [settlePause]

/-! ### Upstream idle -/

/-- A port's upstream idle is the port's own: the lanes and the heads stay. -/
theorem settleUsIdle_keeps (n : Fin 64) (s : State) : (settleUsIdle n s).lanes = s.lanes ∧ (settleUsIdle n s).heads = s.heads := by
  unfold settleUsIdle
  split <;> exact ⟨rfl, rfl⟩

@[simp] theorem settleUsIdle_lanes (n : Fin 64) (s : State) : (settleUsIdle n s).lanes = s.lanes := (settleUsIdle_keeps n s).1
@[simp] theorem settleUsIdle_heads (n : Fin 64) (s : State) : (settleUsIdle n s).heads = s.heads := (settleUsIdle_keeps n s).2

/-! ### Lanes of no port -/

/-- Which port holds a lane is the ports' alone. -/
theorem portOfLane_congr {s t : State} (h : t.ports = s.ports) (n : Fin 64) : portOfLane t n = portOfLane s n := by
  simp only [portOfLane, h]

theorem settleUsIdle_of_free {n : Fin 64} {s : State} (h : portOfLane s n = none) : settleUsIdle n s = s := by simp [settleUsIdle, h]
theorem memberChanged_of_free {n : Fin 64} {s : State} (h : portOfLane s n = none) : memberChanged n s = s := by
  simp [memberChanged, portOfMember, h]
theorem memberLost_of_free {n : Fin 64} {s : State} (h : portOfLane s n = none) : memberLost n s = s := by simp [memberLost, h]

@[simp] theorem leaveIdle_ports (n : Fin 64) (s : State) : (leaveIdle n s).ports = s.ports := by
  unfold leaveIdle drive
  (repeat' split) <;> rfl

@[simp] theorem enterT_ports (n : Fin 64) (t : TState) (s : State) : (enterT n t s).ports = s.ports := by
  unfold enterT
  dsimp only
  rw [publish_frame]
  (repeat' split) <;> simp

/-- Entering a training state is the lane's own step; the burst and the publish are no matter of its receiver (R143, R182, R418). -/
theorem enterT_receivers (n : Fin 64) (t : TState) (s : State) : (enterT n t s).receivers n = (s.lanes[n].enter t).receiver := by
  have h : (enterT n t s).receivers = (s.updLane n fun l => l.enter t).receivers := by simp [enterT]
  rw [h, State.updLane_receivers_same]

/-- So is a move of a lane of no port to Detect. -/
theorem moveLane_detect_of_free {n : Fin 64} {s : State} (h : portOfLane s n = none) : moveLane n .detect s = enterT n .detect s := by
  have hfree : portOfLane (enterT n .detect s) n = none := (portOfLane_congr (enterT_ports n .detect s) n).trans h
  have hsame : ((enterT n .detect s).updLane n fun l => if TState.detect = .exchange then { l with offer := verMaxOf s n } else l)
      = enterT n .detect s := State.updLane_id _ n
  unfold moveLane
  simp only [hsame, settleUsIdle_of_free hfree, memberChanged_of_free hfree, memberLost_of_free hfree, ite_self]

end Sys2Proof.Machine
end

