-- ==== Sys2Proof/Proofs/SignalLevels.lean ====
section
/-! The input's level: signal detect, announced idle, loss of signal and an exit that does not lock (R141, R142, R144, R188, R189). -/

namespace Sys2Proof.Machine

open Sys2Proof

/-! ### The receiver's part -/

/-- An aborted eye point is all that the end of symbols does to the eye. -/
theorem Lane.abortEye_frame (l : Lane) : l.abortEye = { l with eye := l.abortEye.eye } := by
  unfold Lane.abortEye
  split <;> rfl

/-- Loss of signal, the eye aside (R141). -/
theorem Lane.lose_frame (l : Lane) :
    l.lose = { l with los := true, sigdet := false, cdrLock := false, symLock := false, chk := {}, eye := l.lose.eye } :=
  Lane.abortEye_frame _

/-- A lane that has lost its signal, as it waits in Detect (R141). -/
def Lane.lost (l : Lane) : Lane := ({ l with rxIdle := false }.lose).enter .detect

theorem Lane.lost_keeps (l : Lane) :
    l.lost.tstate = .detect ∧ l.lost.los = true ∧ l.lost.sigdet = false ∧ l.lost.symLock = false ∧ l.lost.idleAnnounced = false
      ∧ l.lost.cnt = l.cnt := by
  rw [Lane.lost, Lane.lose_frame]
  exact ⟨rfl, rfl, rfl, rfl, rfl, rfl⟩

/-- Loss of signal declared on a lane of no port is the loss of that lane. -/
theorem lossDeclared_receivers {n : Fin 64} {s : State} (h : portOfLane s n = none) : (lossDeclared n s).receivers n = s.lanes[n].lost.receiver := by
  have hfree : portOfLane (s.updLane n fun l => { l with rxIdle := false }.lose) n = none := h
  rw [lossDeclared, State.receivers_congr (settleUsIdle_lanes n _), moveLane_detect_of_free hfree, enterT_receivers, State.updLane_lanes, modAt_get, Lane.lost]

/-! ### The input -/

theorem inputFalls_of_announced {n : Fin 64} {s : State} (hlisten : listening s n = true) (h : s.lanes[n].idleAnnounced = true) :
    inputFalls n s = enterIdle n s := by
  simp [-Fin.getElem_fin, inputFalls, hlisten, h]

theorem inputFalls_of_unannounced {n : Fin 64} {s : State} (hlisten : listening s n = true) (h : s.lanes[n].idleAnnounced = false) :
    inputFalls n s = lossDeclared n s := by
  simp [-Fin.getElem_fin, inputFalls, hlisten, h]

/-- Outside electrical idle the input's rise is the lane's locks alone. -/
theorem inputRises_of_awake {n : Fin 64} {s : State} (hlisten : listening s n = true) (h : s.lanes[n].rxIdle = false) :
    inputRises n s = s.updLane n fun l => { l with sigdet := true, los := false, cdrLock := true, symLock := true } := by
  simp [-Fin.getElem_fin, inputRises, hlisten, h]

/-- Lane l after the exit from electrical idle, its exit check begun (R144, R145). -/
def Lane.woken (l : Lane) : Lane :=
  { l with sigdet := true, los := false, cdrLock := true, symLock := true, rxIdle := false, idleAnnounced := false, exitCheck := true, winCorr := 0
           winUncorr := 0, ferNow := l.ferLimit, cwLock := .search, missed := 0, uncorrRun := 0, rxPrev := 0 }

theorem inputRises_of_idle {n : Fin 64} {s : State} (hlisten : listening s n = true) (h : s.lanes[n].rxIdle = true) :
    (inputRises n s).lanes[n] = s.lanes[n].woken ∧ (inputRises n s).heads = s.heads := by
  simp [-Fin.getElem_fin, inputRises, hlisten, h, Lane.woken]

/-- An announced idle ends the symbols, the training state being kept (R141, R142). -/
theorem enterIdle_lane (n : Fin 64) (s : State) :
    (enterIdle n s).lanes[n].rxIdle = true ∧ (enterIdle n s).lanes[n].symLock = false ∧ (enterIdle n s).lanes[n].tstate = s.lanes[n].tstate
      ∧ (enterIdle n s).lanes[n].los = s.lanes[n].los := by
  rw [enterIdle, settleUsIdle_lanes, State.updLane_lanes, modAt_get, Lane.abortEye_frame]
  exact ⟨rfl, rfl, rfl, rfl⟩

/-- The lane counted as one whose exit did not lock (R144). -/
def Lane.exitFailed (l : Lane) : Lane := { l.count (fun c => { c with exitFail := satInc c.exitFail }) with idleAnnounced := false }

theorem Lane.exitFailed_counts {l : Lane} (h : l.hold = false) : l.exitFailed.cnt.exitFail = satInc l.cnt.exitFail := by
  simp [Lane.exitFailed, Lane.count, h]

theorem exitFails_of_idle {n : Fin 64} {s : State} (hlisten : listening s n = true) (h : s.lanes[n].rxIdle = true) :
    exitFails n s = lossDeclared n (s.updLane n Lane.exitFailed) := by
  simp only [exitFails, hlisten, h]
  rfl

theorem idleAnnounced_of_active {n : Fin 64} {s : State} (x : BitVec 256) (hruns : runs s n = true) (h : s.lanes[n].tstate = .active) :
    idleAnnounced n x s = s.updLane n fun l => { l with idleAnnounced := true, idleLead := some (fld x 15 8) } := by
  simp [-Fin.getElem_fin, idleAnnounced, hruns, h]

theorem idleAnnounced_of_not_active {n : Fin 64} {s : State} (x : BitVec 256) (h : s.lanes[n].tstate ≠ .active) : idleAnnounced n x s = s := by
  simp [-Fin.getElem_fin, idleAnnounced, h]

/-! ### The obligation -/

/-- Settles O31: each event of the input by what it does to the lane; pause, sent last, changes no receiver (log entry 17). -/
theorem signalsRiseAndFall : Obligations.SignalsRiseAndFall := by
  intro n x s hlisten
  have hruns : runs s n = true := (Bool.and_eq_true_iff.mp hlisten).1
  refine ⟨fun hawake => congrArg _ (inputRises_of_awake hlisten hawake), fun hidle => ⟨_, rfl, ?_⟩, fun hannounced => ⟨_, rfl, ?_⟩,
    fun hunannounced hfree => ⟨_, rfl, ?_⟩, fun hidle hfree => ⟨_, rfl, ?_⟩, fun hactive => congrArg _ (idleAnnounced_of_active x hruns hactive),
    fun hactive => congrArg _ (idleAnnounced_of_not_active x hactive)⟩
  · obtain ⟨hlane, hheads⟩ := inputRises_of_idle hlisten hidle
    rw [hlane]
    exact ⟨rfl, rfl, rfl, rfl, rfl, hheads⟩
  · have hkept := congrFun (settlePause_receivers (inputFalls n s)) n
    rw [inputFalls_of_announced hlisten hannounced] at hkept ⊢
    obtain ⟨hrx, hsym, htstate, hlos⟩ := enterIdle_lane n s
    exact ⟨(congrArg Lane.rxIdle hkept).trans hrx, (congrArg Lane.symLock hkept).trans hsym, (congrArg Lane.tstate hkept).trans htstate,
      (congrArg Lane.los hkept).trans hlos⟩
  · have hkept := congrFun (settlePause_receivers (inputFalls n s)) n
    rw [inputFalls_of_unannounced hlisten hunannounced] at hkept ⊢
    rw [lossDeclared_receivers hfree] at hkept
    obtain ⟨htstate, hlos, hsig, hsym, -, -⟩ := s.lanes[n].lost_keeps
    exact ⟨(congrArg Lane.los hkept).trans hlos, (congrArg Lane.sigdet hkept).trans hsig, (congrArg Lane.symLock hkept).trans hsym,
      (congrArg Lane.tstate hkept).trans htstate⟩
  · have hkept := congrFun (settlePause_receivers (exitFails n s)) n
    rw [exitFails_of_idle hlisten hidle] at hkept ⊢
    rw [lossDeclared_receivers (s := s.updLane n Lane.exitFailed) hfree, State.updLane_lanes, modAt_get] at hkept
    obtain ⟨htstate, -, -, -, hannounced, hcnt⟩ := s.lanes[n].exitFailed.lost_keeps
    have hcount := congrArg LaneCnt.exitFail ((congrArg Lane.cnt hkept).trans hcnt)
    exact ⟨(congrArg Lane.tstate hkept).trans htstate, fun hhold => hcount.trans (Lane.exitFailed_counts hhold),
      (congrArg Lane.idleAnnounced hkept).trans hannounced⟩

end Sys2Proof.Machine
end

