-- ==== Sys2Proof/Proofs/LineCoding.lean ====
section
/-! What is on the wire reads back (R130, R131, R171 to R173): bits as numbers, Manchester coding, the Gray map with the precoder, and the first copy
of an alignment codeword's field block. -/

namespace Sys2Proof.Machine

open Sys2Proof

/-! ### Bits of numbers -/

theorem ofBitsLow_map_testBit (x i : Nat) : ∀ k, ofBitsLow ((List.range' i k).map x.testBit) = x / 2 ^ i % 2 ^ k
  | 0 => by simp [ofBitsLow, Nat.mod_one]
  | k + 1 => by
    rw [List.range'_succ, List.map_cons, ofBitsLow, ofBitsLow_map_testBit x (i + 1) k, Nat.pow_succ' (n := k), Nat.mod_mul, Nat.div_div_eq_div_mul,
      ← Nat.pow_succ, Nat.testBit_eq_decide_div_mod_eq]
    rcases Nat.mod_two_eq_zero_or_one (x / 2 ^ i) with h | h <;> simp [h]

/-- The low bits of a number read back as the number within them. -/
theorem ofBitsLow_bitsLow (k x : Nat) : ofBitsLow (bitsLow k x) = x % 2 ^ k := by
  rw [bitsLow, List.range_eq_range', ofBitsLow_map_testBit, Nat.pow_zero, Nat.div_one]

theorem ofNat_ofBitsLow_bitsLow {k : Nat} (x : BitVec k) : BitVec.ofNat k (ofBitsLow (bitsLow k x.toNat)) = x := by
  rw [ofBitsLow_bitsLow, Nat.mod_eq_of_lt x.isLt, BitVec.ofNat_toNat, BitVec.setWidth_eq]

/-! ### Manchester coding -/

/-- Manchester coding reads back (R172). -/
@[simp] theorem unManchester_manchester : ∀ bs : List Bool, unManchester (manchester bs) = some bs
  | [] => rfl
  | true :: bs => by
    show (unManchester (manchester bs)).map (true :: ·) = _
    rw [unManchester_manchester bs, Option.map_some]
  | false :: bs => by
    show (unManchester (manchester bs)).map (false :: ·) = _
    rw [unManchester_manchester bs, Option.map_some]

theorem manchester_append (as bs : List Bool) : manchester (as ++ bs) = manchester as ++ manchester bs := List.flatMap_append

@[simp] theorem manchester_length : ∀ bs : List Bool, (manchester bs).length = 2 * bs.length
  | [] => rfl
  | b :: bs => by
    have hpair : (if b then ([3, 0] : List Level) else [0, 3]).length = 2 := by cases b <;> rfl
    show ((if b then ([3, 0] : List Level) else [0, 3]) ++ manchester bs).length = _
    rw [List.length_append, hpair, manchester_length bs, List.length_cons, Nat.mul_succ, Nat.add_comm]

/-! ### The Gray map and the precoder -/

theorem ungray_gray (m l : Bool) : ungray (gray m l) = (m, l) := by cases m <;> cases l <;> rfl

/-- An even number of bits reads back from its levels (R130, R131). -/
theorem bitsOf_levelsOf (prev : Level) : ∀ bs : List Bool, bs.length % 2 = 0 → bitsOf prev (levelsOf prev bs) = bs
  | [], _ => rfl
  | [_], h => by cases h
  | m :: l :: bs, h => by
    have hrest : bs.length % 2 = 0 := by
      rw [List.length_cons, List.length_cons] at h
      omega
    rw [levelsOf, bitsOf, sub_add_cancel, ungray_gray, bitsOf_levelsOf (gray m l - prev) bs hrest]

/-! ### Alignment codewords -/

@[simp] theorem bitsLow_length (k x : Nat) : (bitsLow k x).length = k := by simp [bitsLow]

theorem comma_length : comma.length = 32 := rfl

/-- The first copy that an alignment codeword shows is the field block it was made of (R171). -/
theorem copiesIn_alignmentLevels (f : BitVec 80) : ∃ r, copiesIn (alignmentLevels f.toNat) = f :: r := by
  have hfirst : ((alignmentLevels f.toNat).drop (32 + 160 * 0)).take 160 = manchester (bitsLow 80 f.toNat) := by
    rw [alignmentLevels, List.drop_left' comma_length, List.replicate_succ, List.flatten_cons, List.append_assoc, manchester_append,
      List.take_left' (by simp)]
  rw [copiesIn, List.range_succ_eq_map, List.filterMap_cons, hfirst, unManchester_manchester, Option.map_some, ofNat_ofBitsLow_bitsLow]
  exact ⟨_, rfl⟩

/-- A valid field block is taken from its alignment codeword's first copy (R173). -/
theorem validCopy_alignmentLevels {f : BitVec 80} (h : crc16 64 (fld f 63 0) = fld f 79 64) : validCopy (copiesIn (alignmentLevels f.toNat)) = some f := by
  obtain ⟨r, hr⟩ := copiesIn_alignmentLevels f
  rw [hr, validCopy, List.find?_cons_of_pos (by simpa using h)]

end Sys2Proof.Machine
end

