-- ==== Sys2Proof/Proofs/CodewordTally.lean ====
section
/-! The codeword counters of the lanes and the quadrants' group counters through all that a received codeword can bring about (R152, R174): one lemma
for each operation, in the order of the model's units. Only a codeword's own decoding counts, and only a quadrant's own sending changes a quadrant. -/

namespace Sys2Proof.Machine

open Sys2Proof

/-- CW_TOTAL, CW_CORR, CW_UNCORR and CORR_SYM of a lane (R152). -/
abbrev Lane.codewords (l : Lane) : BitVec 48 × BitVec 48 × BitVec 48 × BitVec 48 := (l.cnt.cwTotal, l.cnt.cwCorr, l.cnt.cwUncorr, l.cnt.corrSym)

/-- The codeword counters of every lane, and the quadrants. -/
def State.tally (s : State) : (Fin 64 → BitVec 48 × BitVec 48 × BitVec 48 × BitVec 48) × Vector Quad 4 := (fun k => s.lanes[k].codewords, s.quads)

theorem State.tally_congr {s t : State} (hl : t.lanes = s.lanes) (hq : t.quads = s.quads) : t.tally = s.tally := by
  rw [State.tally, hl, hq, State.tally]

/-! ### Choices, walks and updates -/

@[simp] theorem State.ite_tally (c : Prop) [Decidable c] (s t : State) : (if c then s else t).tally = if c then s.tally else t.tally :=
  apply_ite State.tally c s t

@[simp] theorem State.each_tally {α : Type} (s : State) (l : List α) (f : α → State → State) (h : ∀ a t, (f a t).tally = t.tally) :
    (s.each l f).tally = s.tally :=
  State.each_keeps State.tally l f h s

@[simp] theorem foldl_tally {α : Type} (f : State → α → State) (l : List α) (s : State) (h : ∀ t a, (f t a).tally = t.tally) :
    (l.foldl f s).tally = s.tally :=
  State.each_keeps State.tally l (fun a t => f t a) (fun a t => h t a) s

/-- A lane's change that leaves its codeword counters alone. -/
@[simp] theorem State.updLane_tally (s : State) (n : Fin 64) (f : Lane → Lane) (h : (f s.lanes[n]).codewords = s.lanes[n].codewords) :
    (s.updLane n f).tally = s.tally := by
  refine Prod.ext (funext fun k => ?_) rfl
  show (modAt s.lanes n f)[k].codewords = s.lanes[k].codewords
  by_cases hk : k = n
  · rw [hk, modAt_get, h]
  · rw [modAt_get_ne _ _ _ _ hk]

@[simp] theorem Lane.ite_codewords (c : Prop) [Decidable c] (l m : Lane) : (if c then l else m).codewords = if c then l.codewords else m.codewords :=
  apply_ite Lane.codewords c l m

@[simp] theorem Lane.enqueue_cnt (l : Lane) (k : Nat) (x : BitVec 256) : (l.enqueue k x).cnt = l.cnt := rfl

@[simp] theorem Lane.dataCodeword_cnt (l : Lane) (bs : List (Bool × BitVec 256)) : (l.dataCodeword bs).2.cnt = l.cnt := rfl

@[simp] theorem Lane.abortEye_codewords (l : Lane) : l.abortEye.codewords = l.codewords := by
  unfold Lane.abortEye
  split <;> rfl

@[simp] theorem Lane.adapt_codewords (l : Lane) (f : Nat → Nat) : (l.adapt f).codewords = l.codewords := by
  unfold Lane.adapt
  split <;> rfl

theorem Lane.count_codewords {l : Lane} {f : LaneCnt → LaneCnt} (h : ({ l with cnt := f l.cnt } : Lane).codewords = l.codewords) :
    (l.count f).codewords = l.codewords := by
  unfold Lane.count
  split
  · rfl
  · exact h

/-- A training state that is entered counts no codeword. -/
@[simp] theorem Lane.enter_codewords (l : Lane) (t : TState) : (l.enter t).codewords = l.codewords := by
  cases t with
  | disabled => exact Lane.abortEye_codewords _
  | pattern => exact (Lane.abortEye_codewords _).trans (Lane.count_codewords rfl)
  | _ => rfl

@[simp] theorem State.updPort_tally (s : State) (p : Fin 16) (f : Port → Port) : (s.updPort p f).tally = s.tally := rfl
@[simp] theorem State.updSrc_tally (s : State) (i : Fin 18) (f : Source → Source) : (s.updSrc i f).tally = s.tally := rfl
@[simp] theorem State.updHead_tally (s : State) (h : Fin 16) (f : Head → Head) : (s.updHead h f).tally = s.tally := rfl
@[simp] theorem State.updPcam_tally (s : State) (n : Fin 2) (f : Pcam → Pcam) : (s.updPcam n f).tally = s.tally := rfl
@[simp] theorem State.updPipe_tally (s : State) (p : Fin 16) (f : Pipe → Pipe) : (s.updPipe p f).tally = s.tally := rfl
@[simp] theorem State.updTally_tally (s : State) (p : Fin 16) (f : Tally → Tally) : (s.updTally p f).tally = s.tally := rfl
@[simp] theorem State.updStamp_tally (s : State) (i : Fin 18) (f : Stamp → Stamp) : (s.updStamp i f).tally = s.tally := rfl
@[simp] theorem State.updRouter_tally (s : State) (f : Router → Router) : (s.updRouter f).tally = s.tally := rfl
@[simp] theorem State.updQm_tally (s : State) (f : QueueMgr → QueueMgr) : (s.updQm f).tally = s.tally := rfl
@[simp] theorem State.updQueue_tally (s : State) (q : Fin 512) (f : Queue → Queue) : (s.updQueue q f).tally = s.tally := rfl
@[simp] theorem State.updProducer_tally (s : State) (r : Fin 32) (f : Producer → Producer) : (s.updProducer r f).tally = s.tally := rfl
@[simp] theorem State.updXoff_tally (s : State) (n : Fin 16) (f : Xoff → Xoff) : (s.updXoff n f).tally = s.tally := rfl
@[simp] theorem State.updPins_tally (s : State) (f : Pins → Pins) : (s.updPins f).tally = s.tally := rfl
@[simp] theorem State.updFn_tally (s : State) (l : Fin 4) (g : Fin 17) (f : Fn → Fn) : (s.updFn l g f).tally = s.tally := rfl
@[simp] theorem State.send_tally (s : State) (x : Tx) : (s.send x).tally = s.tally := rfl
@[simp] theorem State.mapStore_tally (s : State) (m : Mem) : ({ s with mapStore := m } : State).tally = s.tally := rfl
@[simp] theorem State.drawNat_tally (s : State) : s.drawNat.2.tally = s.tally := rfl

/-! ### Shared operations: vectors, publishes, the fault log -/

@[simp] theorem sendVector_tally (l : Fin 4) (g : Fin 17) (e : Nat) (s : State) : (sendVector l g e s).tally = s.tally := by
  simp [sendVector]

@[simp] theorem deviceVector_tally (e : Nat) (s : State) : (deviceVector e s).tally = s.tally := by simp [deviceVector]
@[simp] theorem publishAt_tally (t : Nat) (code : Nat) (s : State) : (publishAt t code s).tally = s.tally := by simp [publishAt]
@[simp] theorem publish_tally (code : Nat) (s : State) : (publish code s).tally = s.tally := by simp [publish]
@[simp] theorem postRec_tally (r : FaultRec) (s : State) : (postRec r s).tally = s.tally := by rw [postRec_frame]; rfl
@[simp] theorem fault_tally (code : Nat) (sev : Nat) (cls : FClass) (idx : Nat) (detail : Nat) (s : State) :
    (fault code sev cls idx detail s).tally = s.tally := by
  simp [fault]

@[simp] theorem giveWay_tally (code : Nat) (rung : Fin 5) (cls : FClass) (idx : Nat) (detail : Nat) (s : State) :
    (giveWay code rung cls idx detail s).tally = s.tally := by
  rw [giveWay_frame]; rfl

/-! ### Lanes -/

@[simp] theorem sendBlock_tally (n : Fin 64) (x : BitVec 256) (s : State) : (sendBlock n x s).tally = s.tally := by simp [sendBlock]
@[simp] theorem sendTwice_tally (n : Fin 64) (x : BitVec 256) (s : State) : (sendTwice n x s).tally = s.tally := by simp [sendTwice]
@[simp] theorem drive_tally (n : Fin 64) (ps : List Level) (s : State) : (drive n ps s).tally = s.tally := by simp [drive]
@[simp] theorem sendNow_tally (n : Fin 64) (xs : List (BitVec 256)) (s : State) : (sendNow n xs s).tally = s.tally := by simp [sendNow]
@[simp] theorem leaveIdle_tally (n : Fin 64) (s : State) : (leaveIdle n s).tally = s.tally := by simp [leaveIdle]
@[simp] theorem adaptLane_tally (n : Fin 64) (s : State) : (adaptLane n s).tally = s.tally :=
  s.updLane_tally n _ (Lane.adapt_codewords _ _)

@[simp] theorem enterT_tally (n : Fin 64) (t : TState) (s : State) : (enterT n t s).tally = s.tally := by simp [enterT]
/-! ### Queues and the cell pool -/

@[simp] theorem driveXoff_tally (s : State) : (driveXoff s).tally = s.tally := by simp [driveXoff]
@[simp] theorem lendOnDie_tally (s : State) : (lendOnDie s).tally = s.tally := by simp [lendOnDie]
@[simp] theorem revokeFrom_tally (r : Fin 32) (s : State) : (revokeFrom r s).tally = s.tally := by
  unfold revokeFrom
  dsimp only
  (repeat' split) <;> simp

@[simp] theorem lendStall_tally (s : State) : (lendStall s).tally = s.tally := by simp [lendStall]
@[simp] theorem lend_tally (s : State) : (lend s).tally = s.tally := by simp [lend]
@[simp] theorem returnCredits_tally (r : Fin 32) (s : State) : (returnCredits r s).tally = s.tally := by simp [returnCredits]
@[simp] theorem watermark_tally (q : Fin 512) (s : State) : (watermark q s).tally = s.tally := by simp [watermark]
@[simp] theorem settleQueue_tally (q : Fin 512) (s : State) : (settleQueue q s).tally = s.tally := by simp [settleQueue]
@[simp] theorem handBack_tally (cs : List PCell) (s : State) : (handBack cs s).tally = s.tally := by simp [handBack]
@[simp] theorem owePipeGap_tally (r : Fin 32) (s : State) : (owePipeGap r s).tally = s.tally := by simp [owePipeGap]
@[simp] theorem rewindOpen_tally (r : Fin 32) (s : State) : (rewindOpen r s).tally = s.tally := by
  fun_cases rewindOpen r s <;> simp +zetaDelta

@[simp] theorem rewindToMark_tally (r : Fin 32) (s : State) : (rewindToMark r s).tally = s.tally := by fun_cases rewindToMark r s <;> simp
/-! ### Stamping -/

@[simp] theorem fallBack_tally (i : Fin 18) (s : State) : (fallBack i s).tally = s.tally := by simp [fallBack]
@[simp] theorem triggerOf_tally (i : Fin 18) (start : Option FrameStart) (s : State) : (triggerOf i start s).2.tally = s.tally := by
  fun_cases triggerOf i start s <;> simp

@[simp] theorem startBase_tally (i : Fin 18) (start : Option FrameStart) (group : Option StampMark) (s : State) :
    (startBase i start group s).2.tally = s.tally := by
  fun_cases startBase i start group s with
  | case1 => rfl
  | case2 _ _ h | case3 _ h => exact snd_keeps State.tally h (triggerOf_tally i start s)

@[simp] theorem startLookup_tally (i : Fin 18) (start : Option FrameStart) (base : StampMark) (s : State) :
    (startLookup i start base s).2.tally = s.tally := by
  fun_cases startLookup i start base s <;> simp

@[simp] theorem startMark_tally (i : Fin 18) (start : Option FrameStart) (group : Option StampMark) (s : State) :
    (startMark i start group s).2.tally = s.tally := by
  simp [startMark]

@[simp] theorem stampsOf_tally (i : Fin 18) (m : StampMark) (stop : FrameEnd) (s : State) : (stampsOf i m stop s).2.tally = s.tally := by
  fun_cases stampsOf i m stop s <;> simp

/-! ### Pipelines -/

@[simp] theorem closePacket_tally (p : Fin 16) (c : Closed) (s : State) : (closePacket p c s).tally = s.tally := by simp [closePacket]
@[simp] theorem logSlate_tally (p : Fin 16) (src : Fin 18) (epoch : BitVec 16) (s : State) : (logSlate p src epoch s).tally = s.tally := by
  simp [logSlate]

@[simp] theorem rewindFrame_tally (p : Fin 16) (a : PktAcct) (s : State) : (rewindFrame p a s).tally = s.tally := by
  fun_cases rewindFrame p a s <;> simp

@[simp] theorem closeBatch_tally (p : Fin 16) (a : PktAcct) (s : State) : (closeBatch p a s).tally = s.tally := by simp [closeBatch]
@[simp] theorem settleBatch_tally (p : Fin 16) (s : State) : (settleBatch p s).tally = s.tally := by fun_cases settleBatch p s <;> simp
@[simp] theorem closeImage_tally (p : Fin 16) (s : State) : (closeImage p s).tally = s.tally := by
  fun_cases closeImage p s <;> simp +zetaDelta

@[simp] theorem settleImage_tally (p : Fin 16) (s : State) : (settleImage p s).tally = s.tally := by simp [settleImage]
@[simp] theorem settlePipe_tally (p : Fin 16) (s : State) : (settlePipe p s).tally = s.tally := by simp [settlePipe]
@[simp] theorem takeEffect_tally (p : Fin 16) (s : State) : (takeEffect p s).tally = s.tally := by simp [takeEffect]
@[simp] theorem beginEpoch_tally (p : Fin 16) (src : Fin 18) (frame : BitVec 16) (s : State) : (beginEpoch p src frame s).tally = s.tally := by
  simp [beginEpoch]

@[simp] theorem openEpoch_tally (p : Fin 16) (s : State) : (openEpoch p s).tally = s.tally := by fun_cases openEpoch p s <;> simp
@[simp] theorem pipeStart_tally (p : Fin 16) (i : Fin 18) (frame : BitVec 16) (s : State) : (pipeStart p i frame s).1.tally = s.tally := by
  fun_cases pipeStart p i frame s <;> simp +zetaDelta

@[simp] theorem countCorrected_tally (p : Fin 16) (n : Nat) (s : State) : (countCorrected p n s).tally = s.tally := by simp [countCorrected]
@[simp] theorem countBad_tally (p : Fin 16) (ws : List Nat) (s : State) : (countBad p ws s).tally = s.tally := by
  unfold countBad
  dsimp only
  (repeat' split) <;> simp

@[simp] theorem frontStages_tally (p : Fin 16) (g : Shape) (parts : List (List Nat)) (s : State) :
    (frontStages p g parts s).2.2.tally = s.tally := by
  simp [frontStages]


@[simp] theorem holdExposure_tally (p : Fin 16) (g : Shape) (e : Nat) (parts : List (List Nat)) (s : State) :
    (holdExposure p g e parts s).tally = s.tally := by
  unfold holdExposure
  dsimp only
  split <;> exact frontStages_tally p g parts s


@[simp] theorem stage4_tally (p : Fin 16) (g : Shape) (xs : List (Nat × Bool)) (bad : List Bool) (s : State) :
    (stage4 p g xs bad s).2.tally = s.tally := by
  unfold stage4
  dsimp only
  split <;> simp

@[simp] theorem nextLap_tally (p : Fin 16) (g : Shape) (s : State) : (nextLap p g s).tally = s.tally := by simp [nextLap]
@[simp] theorem dropLap_tally (p : Fin 16) (g : Shape) (s : State) : (dropLap p g s).tally = s.tally := by simp [dropLap]
@[simp] theorem runStages_tally (p : Fin 16) (g : Shape) (parts : List (List Nat)) (s : State) : (runStages p g parts s).2.2.2.tally = s.tally := by
  simp [runStages]

@[simp] theorem countSpectrum_tally (p : Fin 16) (rows : List (List Cand)) (s : State) : (countSpectrum p rows s).tally = s.tally := by
  simp [countSpectrum]

@[simp] theorem reachStage8_tally (p : Fin 16) (w : Work) (s : State) : (reachStage8 p w s).tally = s.tally := by
  fun_cases reachStage8 p w s <;> simp

@[simp] theorem deliver_tally (p : Fin 16) (i : Fin 18) (fs : List Frame) (parts : List (List Nat)) (st : Stamps) (s : State) :
    (deliver p i fs parts st s).tally = s.tally := by
  simp [deliver]

@[simp] theorem undoFrame_tally (p : Fin 16) (i : Fin 18) (s : State) : (undoFrame p i s).tally = s.tally := by
  fun_cases undoFrame p i s with
  | case4 begun s₁ s₂ w _ _ mine s₃ _ s₄ =>
    have h₄ : s₄.tally = s₃.tally := by unfold s₄; (repeat' split) <;> simp
    simp [h₄, s₃, s₂, s₁]
  | _ => simp +zetaDelta

/-! ### Heads and sources -/

@[simp] theorem sendOn_tally (ls : List (Fin 64)) (x : BitVec 256) (s : State) : (sendOn ls x s).tally = s.tally := by simp [sendOn]
@[simp] theorem wakeLane_tally (n : Fin 64) (s : State) : (wakeLane n s).tally = s.tally := by simp [wakeLane]
@[simp] theorem wakeDown_tally (p : Fin 16) (s : State) : (wakeDown p s).tally = s.tally := by simp [wakeDown]
@[simp] theorem clearFrame_tally (h : Fin 16) (s : State) : (clearFrame h s).tally = s.tally := by simp [clearFrame]
@[simp] theorem owesGap_tally (i : Fin 18) (s : State) : (owesGap i s).tally = s.tally := by fun_cases owesGap i s <;> simp
@[simp] theorem takeIdle_tally (i : Fin 18) (s : State) : (takeIdle i s).tally = s.tally := by fun_cases takeIdle i s <;> simp +zetaDelta
@[simp] theorem finishStop_tally (i : Fin 18) (s : State) : (finishStop i s).tally = s.tally := by simp [finishStop]
@[simp] theorem clearPcam_tally (n : Fin 2) (s : State) : (clearPcam n s).tally = s.tally := by simp [clearPcam]
@[simp] theorem dropFrame_tally (i : Fin 18) (s : State) : (dropFrame i s).tally = s.tally := by
  unfold dropFrame
  dsimp only
  (repeat' split) <;> simp

@[simp] theorem discardFrame_tally (i : Fin 18) (s : State) : (discardFrame i s).tally = s.tally := by simp [discardFrame]
@[simp] theorem overrun_tally (i : Fin 18) (s : State) : (overrun i s).tally = s.tally := by simp [overrun]
@[simp] theorem linkLoses_tally (h : Fin 16) (s : State) : (linkLoses h s).2.tally = s.tally := by fun_cases linkLoses h s <;> simp
@[simp] theorem recheckHead_tally (h : Fin 16) (s : State) : (recheckHead h s).tally = s.tally := by simp [recheckHead]
@[simp] theorem sendCommand_tally (h : Fin 16) (op : Nat) (addr : BitVec 24) (value : BitVec 64) (s : State) :
    (sendCommand h op addr value s).tally = s.tally := by
  unfold sendCommand
  dsimp only
  (repeat' split) <;> simp

@[simp] theorem sendEntries_tally (h : Fin 16) (es : List (BitVec 24 × BitVec 64)) (s : State) : (sendEntries h es s).tally = s.tally := by
  simp [sendEntries]

@[simp] theorem sendPending_tally (h : Fin 16) (frame : BitVec 16) (s : State) : (sendPending h frame s).tally = s.tally := by
  fun_cases sendPending h frame s <;> simp +zetaDelta

@[simp] theorem takeRuns_tally (i : Fin 18) (s : State) : (takeRuns i s).tally = s.tally := by simp [takeRuns]
@[simp] theorem countIdle_tally (i : Fin 18) (s : State) : (countIdle i s).tally = s.tally := by simp [countIdle]
@[simp] theorem groupStart_tally (i : Fin 18) (frame : BitVec 16) (s : State) : (groupStart i frame s).tally = s.tally := by
  unfold groupStart
  dsimp only
  (repeat' split) <;> simp

@[simp] theorem frameFlags_tally (h : Fin 16) (p : Fin 16) (opening : Bool) (s : State) : (frameFlags h p opening s).tally = s.tally := by
  simp [frameFlags]

@[simp] theorem openRecord_tally (h : Fin 16) (p : Fin 16) (f : FrameStart) (live : Bool) (s : State) :
    (openRecord h p f live s).tally = s.tally := by
  simp [openRecord]

@[simp] theorem countSkips_tally (h : Fin 16) (f : FrameStart) (s : State) : (countSkips h f s).tally = s.tally := by simp [countSkips]
@[simp] theorem stampFrame_tally (h : Fin 16) (f : FrameStart) (first : Bool) (s : State) : (stampFrame h f first s).tally = s.tally := by
  simp [stampFrame]

@[simp] theorem openFrame_tally (h : Fin 16) (p : Fin 16) (f : FrameStart) (s : State) : (openFrame h p f s).tally = s.tally := by
  simp [openFrame]

@[simp] theorem startBlock_tally (h : Fin 16) (p : Fin 16) (f : FrameStart) (s : State) : (startBlock h p f s).tally = s.tally := by
  fun_cases startBlock h p f s <;> simp +zetaDelta

@[simp] theorem putInput_tally (h : Fin 16) (q : Fin 16) (g : Shape) (k : Nat) (m : Nat) (n : Nat) (s : State) :
    (putInput h q g k m n s).tally = s.tally := by
  simp [putInput]

@[simp] theorem dataBlock_tally (h : Fin 16) (p : Fin 16) (x : BitVec 256) (s : State) : (dataBlock h p x s).tally = s.tally := by
  fun_cases dataBlock h p x s <;> simp

@[simp] theorem countFrame_tally (i : Fin 18) (s : State) : (countFrame i s).tally = s.tally := by simp [countFrame]
@[simp] theorem frameWhole_tally (h : Fin 16) (s : State) : (frameWhole h s).tally = s.tally := by
  unfold frameWhole
  dsimp only
  (repeat' split) <;> simp

@[simp] theorem endBlock_tally (h : Fin 16) (p : Fin 16) (e : FrameEnd) (s : State) : (endBlock h p e s).tally = s.tally := by
  fun_cases endBlock h p e s <;> simp +zetaDelta

@[simp] theorem commandReplied_tally (h : Fin 16) (x : BitVec 256) (s : State) : (commandReplied h x s).tally = s.tally := by
  simp [commandReplied]

/-! ### Links and ports -/

@[simp] theorem setPState_tally (p : Fin 16) (x : PState) (s : State) : (setPState p x s).tally = s.tally := by
  fun_cases setPState p x s <;> simp +zetaDelta

@[simp] theorem newAttempt_tally (p : Fin 16) (s : State) : (newAttempt p s).tally = s.tally := by
  fun_cases newAttempt p s <;> simp +zetaDelta

@[simp] theorem sendPort_tally (p : Fin 16) (x : BitVec 256) (s : State) : (sendPort p x s).tally = s.tally := by simp [sendPort]
@[simp] theorem settlePort_tally (h : Fin 16) (p : Fin 16) (s : State) : (settlePort h p s).tally = s.tally := by simp [settlePort]
@[simp] theorem settlePause_tally (s : State) : (settlePause s).tally = s.tally := by simp [settlePause]
@[simp] theorem dropSlots_tally (p : Fin 16) (s : State) : (dropSlots p s).tally = s.tally := by simp [dropSlots]
@[simp] theorem portDown_tally (p : Fin 16) (n : Fin 64) (s : State) : (portDown p n s).tally = s.tally := by
  unfold portDown
  dsimp only
  (repeat' split) <;> simp

@[simp] theorem startReplay_tally (p : Fin 16) (move : Bool) (role : Nat) (newLid : Nat) (failed : Option (Fin 64)) (s : State) :
    (startReplay p move role newLid failed s).tally = s.tally := by
  unfold startReplay
  dsimp only
  (repeat' split) <;> simp

@[simp] theorem failover_tally (p : Fin 16) (n : Fin 64) (s : State) : (failover p n s).tally = s.tally := by simp [failover]
@[simp] theorem memberLost_tally (n : Fin 64) (s : State) : (memberLost n s).tally = s.tally := by fun_cases memberLost n s <;> simp
@[simp] theorem settleUsIdle_tally (n : Fin 64) (s : State) : (settleUsIdle n s).tally = s.tally := by fun_cases settleUsIdle n s <;> simp
@[simp] theorem memberChanged_tally (n : Fin 64) (s : State) : (memberChanged n s).tally = s.tally := by
  fun_cases memberChanged n s <;> simp

@[simp] theorem moveLane_tally (n : Fin 64) (t : TState) (s : State) : (moveLane n t s).tally = s.tally := by simp [moveLane]
@[simp] theorem retrain_tally (n : Fin 64) (s : State) : (retrain n s).tally = s.tally := by simp [retrain]
@[simp] theorem orderRetrain_tally (n : Fin 64) (s : State) : (orderRetrain n s).tally = s.tally := by simp [orderRetrain]
@[simp] theorem standbyErrs_tally (p : Fin 16) (n : Fin 64) (s : State) : (standbyErrs p n s).tally = s.tally := by simp [standbyErrs]
@[simp] theorem standbyFails_tally (p : Fin 16) (n : Fin 64) (s : State) : (standbyFails p n s).tally = s.tally := by simp [standbyFails]
@[simp] theorem failThenRetrain_tally (p : Fin 16) (n : Fin 64) (s : State) : (failThenRetrain p n s).tally = s.tally := by
  simp [failThenRetrain]

@[simp] theorem payOwed_tally (p : Fin 16) (s : State) : (payOwed p s).tally = s.tally := by simp [payOwed]
@[simp] theorem enterIdle_tally (n : Fin 64) (s : State) : (enterIdle n s).tally = s.tally := by simp [enterIdle]
@[simp] theorem idleAnnounced_tally (n : Fin 64) (x : BitVec 256) (s : State) : (idleAnnounced n x s).tally = s.tally := by
  simp [idleAnnounced]

@[simp] theorem lockLost_tally (n : Fin 64) (s : State) : (lockLost n s).tally = s.tally := by fun_cases lockLost n s <;> simp +zetaDelta
@[simp] theorem tryExchange_tally (n : Fin 64) (s : State) : (tryExchange n s).tally = s.tally := by simp [tryExchange]
@[simp] theorem tryActive_tally (n : Fin 64) (s : State) : (tryActive n s).tally = s.tally := by simp [tryActive]
@[simp] theorem capsReceived_tally (n : Fin 64) (x : BitVec 256) (s : State) : (capsReceived n x s).tally = s.tally := by
  simp [capsReceived]

@[simp] theorem ackReceived_tally (n : Fin 64) (x : BitVec 256) (s : State) : (ackReceived n x s).tally = s.tally := by simp [ackReceived]
@[simp] theorem tryStandby_tally (p : Fin 16) (trialPassed : Bool) (s : State) : (tryStandby p trialPassed s).tally = s.tally := by
  fun_cases tryStandby p trialPassed s <;> simp

@[simp] theorem formPort_tally (p : Fin 16) (s : State) : (formPort p s).tally = s.tally := by fun_cases formPort p s <;> simp +zetaDelta
@[simp] theorem slotSeen_tally (p : Fin 16) (n : Fin 64) (s : State) : (slotSeen p n s).tally = s.tally := by simp [slotSeen]
@[simp] theorem streamBreaks_tally (p : Fin 16) (n : Fin 64) (s : State) : (streamBreaks p n s).tally = s.tally := by
  unfold streamBreaks
  dsimp only
  (repeat' split) <;> simp

@[simp] theorem badCodeword_tally (n : Fin 64) (s : State) : (badCodeword n s).tally = s.tally := by
  fun_cases badCodeword n s <;> simp +zetaDelta

@[simp] theorem relay_tally (n : Fin 64) (levels : List Level) (s : State) : (relay n levels s).tally = s.tally := by simp [relay]
@[simp] theorem replayStarts_tally (n : Fin 64) (x : BitVec 256) (s : State) : (replayStarts n x s).tally = s.tally := by
  fun_cases replayStarts n x s with
  | case5 p _ q r _ _ _ here z till s₁ s₂ =>
    have h₂ : s₂.tally = s.tally := by unfold s₂; split <;> simp [s₁]
    rw [payOwed_tally, h₂]
  | _ => simp

@[simp] theorem laneFault_tally (n : Fin 64) (x : BitVec 256) (s : State) : (laneFault n x s).tally = s.tally := by
  fun_cases laneFault n x s <;> simp

/-! ### Frames under commands -/

@[simp] theorem startSeen_tally (p : Fin 16) (x : BitVec 256) (s : State) : (startSeen p x s).tally = s.tally := by
  fun_cases startSeen p x s <;> simp +zetaDelta

@[simp] theorem dataSeen_tally (p : Fin 16) (x : BitVec 256) (s : State) : (dataSeen p x s).tally = s.tally := by
  fun_cases dataSeen p x s <;> simp

@[simp] theorem endSeen_tally (p : Fin 16) (x : BitVec 256) (s : State) : (endSeen p x s).tally = s.tally := by
  fun_cases endSeen p x s <;> simp

@[simp] theorem messageSeen_tally (p : Fin 16) (x : BitVec 256) (s : State) : (messageSeen p x s).tally = s.tally := by
  fun_cases messageSeen p x s <;> simp

@[simp] theorem replySeen_tally (p : Fin 16) (x : BitVec 256) (s : State) : (replySeen p x s).tally = s.tally := by
  fun_cases replySeen p x s <;> simp

/-! ### Reception -/

@[simp] theorem linkBlock_tally (n : Fin 64) (x : BitVec 256) (s : State) : (linkBlock n x s).tally = s.tally := by
  fun_cases linkBlock n x s <;> simp

@[simp] theorem linkBlocks_tally (n : Fin 64) (bs : List (Bool × BitVec 256)) (s : State) : (linkBlocks n bs s).tally = s.tally := by
  simp [linkBlocks]

@[simp] theorem streamBlock_tally (p : Fin 16) (b : Bool × BitVec 256) (s : State) : (streamBlock p b s).tally = s.tally := by
  fun_cases streamBlock p b s <;> simp

@[simp] theorem takeSlot_tally (p : Fin 16) (c : Nat) (s : State) : (takeSlot p c s).tally = s.tally := by
  unfold takeSlot
  lift_lets
  extract_lets roles got s₁ s₂
  have h : s₂.tally = s.tally := State.each_tally s roles _ fun _ _ => State.updLane_tally _ _ _ rfl
  clear_value s₂
  split <;> simp [h]

@[simp] theorem assemble_tally (p : Fin 16) (k : Nat) (s : State) : (assemble p k s).tally = s.tally := by
  induction k generalizing s with
  | zero => rfl
  | succ k ih => unfold assemble; split <;> simp [ih]

@[simp] theorem joinStream_tally (n : Fin 64) (c : Nat) (bs : Option (List (Bool × BitVec 256))) (s : State) :
    (joinStream n c bs s).tally = s.tally := by
  fun_cases joinStream n c bs s <;> simp +zetaDelta

@[simp] theorem leadPasses_tally (n : Fin 64) (s : State) : (leadPasses n s).tally = s.tally := by fun_cases leadPasses n s <;> simp


end Sys2Proof.Machine
end

