-- ==== Sys2Proof/Proofs/LinkFrames.lean ====
section
/-! What sending on a link, a port's change of state and a lane's move leave as it is (R177, R182, R191, R195, R213, R214): each operation's frame said
once, and what sending and pausing leave of a port. -/

namespace Sys2Proof.Machine

open Sys2Proof

/-! ### Sending -/

/-- The state with all that sending on links can change set aside: the lanes, the ports and the record of what is sent. -/
def State.unsent (s : State) : State := { s with lanes := Vector.replicate 64 {}, ports := Vector.replicate 16 {}, tx := [] }

@[simp] theorem State.updLane_unsent (s : State) (n : Fin 64) (f : Lane → Lane) : (s.updLane n f).unsent = s.unsent := rfl
@[simp] theorem State.updPort_unsent (s : State) (p : Fin 16) (f : Port → Port) : (s.updPort p f).unsent = s.unsent := rfl

@[simp] theorem State.each_unsent {α : Type} (s : State) (l : List α) (f : α → State → State) (h : ∀ a t, (f a t).unsent = t.unsent) :
    (s.each l f).unsent = s.unsent :=
  State.each_keeps State.unsent l f h s

@[simp] theorem drive_unsent (n : Fin 64) (ps : List Level) (s : State) : (drive n ps s).unsent = s.unsent := by unfold drive; split <;> rfl

@[simp] theorem leaveIdle_unsent (n : Fin 64) (s : State) : (leaveIdle n s).unsent = s.unsent := by unfold leaveIdle; split <;> simp

@[simp] theorem wakeLane_unsent (n : Fin 64) (s : State) : (wakeLane n s).unsent = s.unsent := by unfold wakeLane; split <;> simp

@[simp] theorem wakeDown_unsent (p : Fin 16) (s : State) : (wakeDown p s).unsent = s.unsent := by unfold wakeDown; split <;> simp

@[simp] theorem sendOn_unsent (ls : List (Fin 64)) (x : BitVec 256) (s : State) : (sendOn ls x s).unsent = s.unsent :=
  s.each_unsent ls _ fun _ _ => rfl

@[simp] theorem sendPort_unsent (p : Fin 16) (x : BitVec 256) (s : State) : (sendPort p x s).unsent = s.unsent := by simp [sendPort]

@[simp] theorem settlePort_unsent (h p : Fin 16) (s : State) : (settlePort h p s).unsent = s.unsent := by
  unfold settlePort
  dsimp only
  split <;> simp

@[simp] theorem settlePause_unsent (s : State) : (settlePause s).unsent = s.unsent := by
  refine State.each_unsent _ _ _ fun h t => ?_
  split <;> simp

theorem heads_of_unsent {s t : State} (h : t.unsent = s.unsent) : t.heads = s.heads := (congrArg State.heads h :)
theorem qm_of_unsent {s t : State} (h : t.unsent = s.unsent) : t.qm = s.qm := (congrArg State.qm h :)

/-! ### What sending leaves of a port -/

/-- The port with all that sending and pausing on it can change set aside: its downstream idle, and the pause state with its counters. -/
def Port.bond (q : Port) : Port := { q with dsEidle := false, paused := false, pseq := 0, pauses := 0 }

/-- What sending leaves of every port. -/
def State.bonds (s : State) (p : Fin 16) : Port := s.ports[p].bond

theorem State.bonds_congr {s t : State} (h : t.ports = s.ports) : t.bonds = s.bonds := by
  funext p
  rw [State.bonds, h, State.bonds]

/-- A change of one port that sending may make changes no bond. -/
theorem State.updPort_bonds (s : State) (p : Fin 16) (f : Port → Port) (h : (f s.ports[p]).bond = s.ports[p].bond) : (s.updPort p f).bonds = s.bonds := by
  funext k
  by_cases hk : k = p
  · rw [hk, State.bonds, State.updPort_ports, modAt_get, h, State.bonds]
  · rw [State.bonds, State.updPort_ports, modAt_get_ne _ _ _ _ hk, State.bonds]

theorem wakeLane_ports (n : Fin 64) (s : State) : (wakeLane n s).ports = s.ports := by
  unfold wakeLane
  split
  · exact leaveIdle_ports n _
  · rfl

theorem wakeDown_bonds (p : Fin 16) (s : State) : (wakeDown p s).bonds = s.bonds := by
  unfold wakeDown
  split
  · rw [State.updPort_bonds _ _ _ rfl]
    exact State.bonds_congr (State.each_keeps (·.ports) _ _ wakeLane_ports s)
  · rfl

theorem sendOn_ports (ls : List (Fin 64)) (x : BitVec 256) (s : State) : (sendOn ls x s).ports = s.ports :=
  State.each_keeps (·.ports) ls (sendTwice · x) (fun _ _ => rfl) s

theorem sendPort_bonds (p : Fin 16) (x : BitVec 256) (s : State) : (sendPort p x s).bonds = s.bonds := by
  rw [sendPort, State.bonds_congr (sendOn_ports _ _ _), wakeDown_bonds]

theorem settlePort_bonds (h p : Fin 16) (s : State) : (settlePort h p s).bonds = s.bonds := by
  unfold settlePort
  dsimp only
  split
  · rfl
  · rw [sendPort_bonds, State.updPort_bonds _ _ _ rfl]

theorem settlePause_bonds (s : State) : (settlePause s).bonds = s.bonds := by
  refine State.each_keeps State.bonds _ _ (fun h t => ?_) s
  split
  · exact State.each_keeps State.bonds _ _ (settlePort_bonds h) t
  · rfl

/-- A pause sent, last of all, leaves the bond of a port that an operation has brought about. -/
theorem settlePause_bond (p : Fin 16) (s : State) : (settlePause s).ports[p].bond = s.ports[p].bond := congrFun (settlePause_bonds s) p

/-! ### The state of a port -/

/-- The state with all that a change of a lane's or a port's state can change set aside: lanes, ports and heads, and what shows it outside. -/
def State.unlinked (s : State) : State := { s.unsent with heads := Vector.replicate 16 {}, host := {}, router := {} }

theorem State.unlinked_of_unsent {s t : State} (h : t.unsent = s.unsent) : t.unlinked = s.unlinked := by rw [State.unlinked, h, State.unlinked]

theorem qm_of_unlinked {s t : State} (h : t.unlinked = s.unlinked) : t.qm = s.qm := (congrArg State.qm h :)
theorem srcs_of_unlinked {s t : State} (h : t.unlinked = s.unlinked) : t.srcs = s.srcs := (congrArg State.srcs h :)

@[simp] theorem State.updLane_unlinked (s : State) (n : Fin 64) (f : Lane → Lane) : (s.updLane n f).unlinked = s.unlinked := rfl
@[simp] theorem State.updPort_unlinked (s : State) (p : Fin 16) (f : Port → Port) : (s.updPort p f).unlinked = s.unlinked := rfl
@[simp] theorem State.updHead_unlinked (s : State) (h : Fin 16) (f : Head → Head) : (s.updHead h f).unlinked = s.unlinked := rfl
@[simp] theorem deviceVector_unlinked (e : Nat) (s : State) : (deviceVector e s).unlinked = s.unlinked := by rw [deviceVector_frame]; rfl
@[simp] theorem publish_unlinked (code : Nat) (s : State) : (publish code s).unlinked = s.unlinked := by rw [publish_frame]; rfl
@[simp] theorem deviceVector_lanes (e : Nat) (s : State) : (deviceVector e s).lanes = s.lanes := by rw [deviceVector_frame]
@[simp] theorem deviceVector_ports (e : Nat) (s : State) : (deviceVector e s).ports = s.ports := by rw [deviceVector_frame]
@[simp] theorem publish_lanes (code : Nat) (s : State) : (publish code s).lanes = s.lanes := by rw [publish_frame]
@[simp] theorem publish_ports (code : Nat) (s : State) : (publish code s).ports = s.ports := by rw [publish_frame]

/-- A head is checked again without a change of any lane or port (R214). -/
theorem recheckHead_keeps (h : Fin 16) (s : State) :
    (recheckHead h s).unlinked = s.unlinked ∧ (recheckHead h s).lanes = s.lanes ∧ (recheckHead h s).ports = s.ports := by
  unfold recheckHead
  dsimp only
  split <;> split <;> simp

theorem setPState_of_same {p : Fin 16} {x : PState} {s : State} (h : s.ports[p].state = x) : setPState p x s = s := if_pos h

/-- A new state of a port, shown outside, changes the port alone (R213, R214, R519). -/
theorem setPState_of_new {p : Fin 16} {x : PState} {s : State} (h : s.ports[p].state ≠ x) :
    (setPState p x s).unlinked = s.unlinked ∧ (setPState p x s).lanes = s.lanes ∧ (setPState p x s).ports = modAt s.ports p fun q =>
      { q with state := x, upTimer := if x = .up then false else if s.ports[p].state = .up then true else q.upTimer } := by
  simp only [setPState, if_neg h]
  split <;> simp [recheckHead_keeps]

@[simp] theorem setPState_unlinked (p : Fin 16) (x : PState) (s : State) : (setPState p x s).unlinked = s.unlinked := by
  by_cases h : s.ports[p].state = x
  · rw [setPState_of_same h]
  · exact (setPState_of_new h).1

@[simp] theorem setPState_lanes (p : Fin 16) (x : PState) (s : State) : (setPState p x s).lanes = s.lanes := by
  by_cases h : s.ports[p].state = x
  · rw [setPState_of_same h]
  · exact (setPState_of_new h).2.1

/-- Nothing else of a port changes with its state but the run of UP_TIME (R184). -/
theorem setPState_port (p : Fin 16) (x : PState) (s : State) : ∃ b, (setPState p x s).ports[p] = { s.ports[p] with state := x, upTimer := b } := by
  by_cases h : s.ports[p].state = x
  · rw [setPState_of_same h]
    subst h
    exact ⟨_, rfl⟩
  · rw [(setPState_of_new h).2.2, modAt_get]
    exact ⟨_, rfl⟩

/-- A formation attempt changes no lane (R177). -/
theorem newAttempt_keeps (p : Fin 16) (s : State) : (newAttempt p s).unlinked = s.unlinked ∧ (newAttempt p s).lanes = s.lanes := by
  unfold newAttempt
  dsimp only
  (repeat' split) <;> simp

theorem newAttempt_of_running {p : Fin 16} {s : State} (h : s.ports[p].running = true) : newAttempt p s = s := if_pos h

@[simp] theorem memberChanged_unlinked (n : Fin 64) (s : State) : (memberChanged n s).unlinked = s.unlinked := by
  unfold memberChanged
  split <;> simp [newAttempt_keeps]

@[simp] theorem memberChanged_lanes (n : Fin 64) (s : State) : (memberChanged n s).lanes = s.lanes := by
  unfold memberChanged
  split <;> simp [newAttempt_keeps]

@[simp] theorem settleUsIdle_unlinked (n : Fin 64) (s : State) : (settleUsIdle n s).unlinked = s.unlinked := by
  unfold settleUsIdle
  split <;> rfl

/-! ### A lane's move -/

theorem Lane.tstate_of_receiver {l k : Lane} (h : l.receiver = k.receiver) : l.tstate = k.tstate := (congrArg Lane.tstate h :)
theorem Lane.timeouts_of_receiver {l k : Lane} (h : l.receiver = k.receiver) : l.timeouts = k.timeouts := (congrArg Lane.timeouts h :)
theorem Lane.lastTmo_of_receiver {l k : Lane} (h : l.receiver = k.receiver) : l.lastTmo = k.lastTmo := (congrArg Lane.lastTmo h :)
theorem Lane.backoff_of_receiver {l k : Lane} (h : l.receiver = k.receiver) : l.backoff = k.backoff := (congrArg Lane.backoff h :)
theorem Lane.ctl_of_receiver {l k : Lane} (h : l.receiver = k.receiver) : l.ctl = k.ctl := (congrArg Lane.ctl h :)
theorem Lane.symLock_of_receiver {l k : Lane} (h : l.receiver = k.receiver) : l.symLock = k.symLock := (congrArg Lane.symLock h :)
theorem Lane.cnt_of_receiver {l k : Lane} (h : l.receiver = k.receiver) : l.cnt = k.cnt := (congrArg Lane.cnt h :)

@[simp] theorem Lane.enter_tstate (l : Lane) (t : TState) : (l.enter t).tstate = t := by
  cases t with
  | disabled => exact congrArg Lane.tstate (Lane.abortEye_frame _)
  | pattern =>
    refine (congrArg Lane.tstate (Lane.abortEye_frame _)).trans ?_
    unfold Lane.count
    exact (apply_ite Lane.tstate _ _ _).trans (ite_self _)
  | _ => rfl

@[simp] theorem enterT_unlinked (n : Fin 64) (t : TState) (s : State) : (enterT n t s).unlinked = s.unlinked := by
  have hburst : (if t = .detect then leaveIdle n (s.updLane n fun l => l.enter t) else s.updLane n fun l => l.enter t).unlinked = s.unlinked := by
    split
    · exact State.unlinked_of_unsent (leaveIdle_unsent n _)
    · rfl
  unfold enterT
  dsimp only
  split <;> simp only [publish_unlinked, hburst]

/-- A lane's entry, with the burst that Detect may send; the publish is no matter of the lanes (R143, R182). -/
theorem enterT_lanes (n : Fin 64) (t : TState) (s : State) :
    (enterT n t s).lanes = (if t = .detect then leaveIdle n (s.updLane n fun l => l.enter t) else s.updLane n fun l => l.enter t).lanes := by
  unfold enterT
  dsimp only
  split <;> simp only [publish_lanes]

/-- Entering a state other than Detect sends nothing: the lane's own step is all (R182). -/
theorem enterT_lanes_of_ne (n : Fin 64) {t : TState} (s : State) (h : t ≠ .detect) : (enterT n t s).lanes = modAt s.lanes n fun l => l.enter t := by
  rw [enterT_lanes, if_neg h, State.updLane_lanes]

theorem drive_lanes (n : Fin 64) (ps : List Level) (s : State) : (drive n ps s).lanes = s.lanes := by unfold drive; split <;> rfl

/-- The burst leaves on one lane. -/
theorem leaveIdle_lanes_ne {n k : Fin 64} (s : State) (h : k ≠ n) : (leaveIdle n s).lanes[k] = s.lanes[k] := by
  unfold leaveIdle
  split
  · simp only [drive_lanes, State.updLane_lanes, modAt_get_ne _ _ _ _ h]
  · rfl

/-- No other lane enters a state with lane n (R182). -/
theorem enterT_lanes_ne {n k : Fin 64} (t : TState) (s : State) (h : k ≠ n) : (enterT n t s).lanes[k] = s.lanes[k] := by
  by_cases hd : t = .detect
  · rw [enterT_lanes, if_pos hd, leaveIdle_lanes_ne _ h, State.updLane_lanes, modAt_get_ne _ _ _ _ h]
  · rw [enterT_lanes_of_ne n s hd, modAt_get_ne _ _ _ _ h]

/-- A lane that is not Active moves by itself: its port may begin to form, but no member is lost (R177, R182). -/
theorem moveLane_of_not_active {n : Fin 64} (t : TState) {s : State} (h : s.lanes[n].tstate ≠ .active) :
    (moveLane n t s).unlinked = s.unlinked
      ∧ (moveLane n t s).lanes = modAt (enterT n t s).lanes n fun l => if t = .exchange then { l with offer := verMaxOf s n } else l := by
  simp only [moveLane, if_neg h]
  split <;> simp

theorem moveLane_lanes_ne {n k : Fin 64} (t : TState) {s : State} (h : s.lanes[n].tstate ≠ .active) (hk : k ≠ n) :
    (moveLane n t s).lanes[k] = s.lanes[k] := by
  rw [(moveLane_of_not_active t h).2, modAt_get_ne _ _ _ _ hk, enterT_lanes_ne t s hk]

/-- To Pattern, to Lock and to Active the lane's own step is all that moves it. -/
theorem moveLane_lane {n : Fin 64} {t : TState} {s : State} (h : s.lanes[n].tstate ≠ .active) (hd : t ≠ .detect) (hx : t ≠ .exchange) :
    (moveLane n t s).lanes[n] = s.lanes[n].enter t := by
  rw [(moveLane_of_not_active t h).2, modAt_get, if_neg hx, enterT_lanes_of_ne n s hd, modAt_get]

/-- To Detect its receiver's part is the lane's own step; the burst of a transmitter that was idle changes no more. -/
theorem moveLane_detect_receiver {n : Fin 64} {s : State} (h : s.lanes[n].tstate ≠ .active) :
    (moveLane n .detect s).lanes[n].receiver = (s.lanes[n].enter .detect).receiver := by
  rw [(moveLane_of_not_active .detect h).2, modAt_get, if_neg TState.noConfusion]
  exact enterT_receivers n .detect s

end Sys2Proof.Machine
end

