-- ==== Sys2Proof/Proofs/AcceptedWrites.lean ====
section
/-! An accepted write of a register row is carried out (R106, R564, R565, R594, R637): its object's effect, its entry in the journal, and the answer OK. -/

namespace Sys2Proof.Machine

open Sys2Proof Sys2Proof.Safety

/-- A journal's token is the access path's own affair. -/
theorem jnlToken_access (s : State) : (jnlToken s).2 = s.updAcc fun _ => (jnlToken s).2.acc := by
  unfold jnlToken
  dsimp only
  split <;> rfl

/-- Whether a write is journaled is no matter of the access paths (R594). -/
theorem journaled_updAcc (o : Obj) (v : Val) (f : Access → Access) (s : State) : journaled o v (s.updAcc f) = journaled o v s := by
  have hsticky : onlySticky o v (s.updAcc f) = onlySticky o v s := by
    cases o with
    | src i r => cases r <;> rfl
    | enc n r => cases r <;> rfl
    | _ => rfl
  rw [journaled, hsticky, journaled]

theorem journaled_spent (o : Obj) (v : Val) (s : State) : journaled o v (spent o v s) = journaled o v s := by
  unfold spent
  split
  · rw [jnlToken_access, journaled_updAcc]
  · rfl

theorem fits_of_ownStatus {who : By} {o : Obj} {ok : Bool} {v : Val} {s : State} (h : ownStatus who o ok v s = .ok) : o.fits v = true := by
  simp only [ownStatus, firstRefusal_cons] at h
  (repeat' split at h) <;> simp_all

/-- A write that passes its object's own checks, of an object that is neither persistent nor SOFTRST, is applied and journaled (R594). -/
theorem ownWrite_of_ok {who : By} {index sub : Nat} {o : Obj} {v : Val} {s : State} (hown : ownStatus who o true v s = .ok)
    (hrwp : o.desc.acc ≠ .rwp) (hsoft : ¬ (o = .sys .softrst ∧ softWaits v.word = false)) :
    ownWrite who false index sub o true v s = (.ok, noted who index sub o v (journaled o v s) (o.apply v s)) := by
  have hsoft : (o == .sys .softrst && ! softWaits v.word) = false := by simpa using hsoft
  simp [ownWrite, hown, hrwp, hsoft, fits_of_ownStatus hown, noted]

theorem dictWrite_of_accepted {who : By} {index sub : Nat} {o : Obj} {v : Val} {s : State} (h : Accepted who index sub o v s)
    (hrwp : o.desc.acc ≠ .rwp) (hsoft : ¬ (o = .sys .softrst ∧ softWaits v.word = false)) :
    dictWrite who false index sub true v s = (.ok, noted who index sub o v (journaled o v s) (o.apply v (spent o v s))) := by
  obtain ⟨hobj, -, hpriv, htokens, hown, -⟩ := h
  have hwrite := ownWrite_of_ok (index := index) (sub := sub) hown hrwp hsoft
  rw [journaled_spent] at hwrite
  by_cases hj : journaled o v s = true
  · have htoken : (jnlToken s).1 = true := by simp [jnlToken, htokens hj]
    have hspent : spent o v s = (jnlToken s).2 := if_pos hj
    rw [← hwrite, hspent]
    simp [dictWrite, hobj, hpriv, hj, htoken]
  · have hspent : spent o v s = s := if_neg hj
    rw [← hwrite, hspent]
    simp [dictWrite, hobj, hpriv, hj]

/-- An accepted write that is served at once leaves what `written` says. -/
theorem regWrite_of_accepted {who : By} {index sub : Nat} {o : Obj} {v : Val} {s : State} (h : Accepted who index sub o v s)
    (hrwp : o.desc.acc ≠ .rwp) (hsoft : ¬ (o = .sys .softrst ∧ softWaits v.word = false)) :
    regWrite who index sub v s = written who index sub o v s := by
  have hwrite := dictWrite_of_accepted h hrwp hsoft
  obtain ⟨-, hserved, -⟩ := h
  have hact : ((dictWrite who false index sub true v s).2.answer (dictWrite who false index sub true v s).1) = written who index sub o v s := by
    rw [hwrite, written]
  unfold servedNow at hserved
  unfold regWrite
  cases hpath : who.path with
  | jtag => simp [hpath] at hserved
  | firmware | ldp | mailbox =>
    simp only [hpath] at hserved
    simp only [hserved, hact, if_true]
  | view l f =>
    simp only [hpath, Bool.and_eq_true, Bool.or_eq_true, Bool.not_eq_true', decide_eq_true_eq] at hserved
    obtain ⟨⟨⟨⟨hserves, hofs⟩, hphase⟩, hheld⟩, hfree⟩ := hserved
    obtain ⟨ofs, hofs⟩ := Option.isSome_iff_exists.mp hofs
    simp [hserves, hofs, hphase, hheld, hfree, hact, viewWrite]

end Sys2Proof.Machine
end

