-- ==== Sys2Proof/Proofs/LaneTraining.lean ====
section
/-! The training states of a lane and its training frames (R163, R172, R179 to R183), and the two writes of LANECTL that enable and disable it. -/

namespace Sys2Proof.Machine

open Sys2Proof Sys2Proof.Safety

/-! ### Training frames -/

/-- An answer to a tap request is all that it changes, with the taps (R136, R181). -/
theorem ffeRequest_frame (field : BitVec 64) (l : Lane) (free : Nat) :
    ffeRequest field l free = { l with ansSeq := (ffeRequest field l free).ansSeq, ans := (ffeRequest field l free).ans
                                       taps := (ffeRequest field l free).taps, presetDue := (ffeRequest field l free).presetDue } := by
  fun_cases ffeRequest field l free <;> rfl

/-- A valid control field counts the partner's RX_READY; the run of frames is no matter of it (R181, R182). -/
theorem Lane.controlRead_keeps (l : Lane) (field : BitVec 64) (wish free : Nat) :
    (l.controlRead field wish free).tstate = l.tstate ∧ (l.controlRead field wish free).goodFrames = l.goodFrames
      ∧ (l.controlRead field wish free).partnerReady = if bitAt field 6 then l.partnerReady + 1 else 0 := by
  have hanswered (k : Lane) : let m := if bitAt field 18 != k.ansSeq then ffeRequest field k free else k
      m.tstate = k.tstate ∧ m.goodFrames = k.goodFrames ∧ m.partnerReady = k.partnerReady := by
    dsimp only
    split
    · rw [ffeRequest_frame]
      exact ⟨rfl, rfl, rfl⟩
    · exact ⟨rfl, rfl, rfl⟩
  unfold Lane.controlRead
  lift_lets
  intro k m
  split <;> exact hanswered k

/-- The control field of levels that begin with the comma, where its coding lets it be read and its CRC is valid (R172, R180, R181). -/
def validControl (ps : List Level) : Option (BitVec 64) :=
  if ps.take 32 = comma then
    ((unManchester ((ps.drop 32).take 128)).map fun bs => BitVec.ofNat 64 (ofBitsLow bs)).filter fun x => crc16 48 (fld x 47 0) == fld x 63 48
  else none

theorem validControl_of_no_comma {ps : List Level} (h : ps.take 32 ≠ comma) : validControl ps = none := if_neg h

theorem validControl_of_field {ps : List Level} {f : BitVec 64} (hcomma : ps.take 32 = comma)
    (hfield : (ps.drop 32).take 128 = manchester (bitsLow 64 f.toNat)) (hcrc : crc16 48 (fld f 47 0) = fld f 63 48) : validControl ps = some f := by
  simp [validControl, hcomma, hfield, ofNat_ofBitsLow_bitsLow, hcrc]

/-- COUNTDOWN begins once both receivers are ready (R181, R182). -/
def Lane.countsDown (l : Lane) : Lane := if l.rxReady && decide (3 ≤ l.partnerReady) && l.countdown.isNone then { l with countdown := some 6 } else l

theorem Lane.countsDown_keeps (l : Lane) : l.countsDown.tstate = l.tstate ∧ l.countsDown.goodFrames = l.goodFrames
    ∧ l.countsDown.partnerReady = l.partnerReady ∧ l.countsDown.trainChk = l.trainChk := by
  unfold Lane.countsDown
  split <;> exact ⟨rfl, rfl, rfl, rfl⟩

/-- Lane l with a frame's pattern checked, after so many good frames in a row (R179, R181). -/
def Lane.patternHeard (l : Lane) (ps : List Level) (run : Nat) : Lane :=
  { l with rxPrev := lastLevel 0 (ps.drop 160), goodFrames := run
           trainChk := if ps.take 32 = comma then (checkBits 2 (bitsOf 0 (ps.drop 160)) (l.trainChk, {})).1 else l.trainChk }

/-- A frame with a valid control field carries the run of good frames on and is read (R181). -/
theorem Lane.trainingFrame_of_some {l : Lane} {levels : List Level} {f : BitVec 64} (spaced : Bool) (wish free : Nat)
    (h : validControl (l.sliced levels) = some f) : l.trainingFrame levels spaced wish free =
      ((l.patternHeard (l.sliced levels) (if spaced then l.goodFrames + 1 else 1)).controlRead f wish free).countsDown := by
  unfold validControl at h
  split at h
  next hcomma =>
    obtain ⟨bs, hbs⟩ : ∃ bs, unManchester (((l.sliced levels).drop 32).take 128) = some bs := by
      cases hb : unManchester (((l.sliced levels).drop 32).take 128) with
      | none => simp [hb] at h
      | some bs => exact ⟨bs, rfl⟩
    simp only [hbs, Option.map_some, Option.filter_eq_some_iff, Option.some.injEq] at h
    obtain ⟨rfl, hcrc⟩ := h
    simp [Lane.trainingFrame, Lane.patternHeard, Lane.countsDown, hbs, hcomma, eq_of_beq hcrc]
  next => cases h

theorem Lane.trainingFrame_of_none {l : Lane} {levels : List Level} (spaced : Bool) (wish free : Nat)
    (h : validControl (l.sliced levels) = none) : l.trainingFrame levels spaced wish free =
      { l.patternHeard (l.sliced levels) 0 with partnerReady := 0 }.countsDown := by
  unfold validControl at h
  by_cases hcomma : (l.sliced levels).take 32 = comma
  · cases hb : unManchester (((l.sliced levels).drop 32).take 128) with
    | none => simp [Lane.trainingFrame, Lane.patternHeard, Lane.countsDown, hb, hcomma]
    | some bs =>
      have hcrc : ¬ crc16 48 (fld (BitVec.ofNat 64 (ofBitsLow bs)) 47 0) = fld (BitVec.ofNat 64 (ofBitsLow bs)) 63 48 := by
        simpa [hcomma, hb] using h
      simp [Lane.trainingFrame, Lane.patternHeard, Lane.countsDown, hb, hcomma, hcrc]
  · cases hb : unManchester (((l.sliced levels).drop 32).take 128) <;>
      simp [Lane.trainingFrame, Lane.patternHeard, Lane.countsDown, hb, hcomma]

/-- Adaptation moves the equaliser alone (R140). -/
theorem Lane.adapt_frame (l : Lane) (f : Nat → Nat) :
    l.adapt f = { l with adapted := (l.adapt f).adapted, vga := (l.adapt f).vga, ctle := (l.adapt f).ctle, dfe := (l.adapt f).dfe } := by
  unfold Lane.adapt
  split <;> rfl

/-- What a training frame makes of lane n: its receiver's step, and the adaptation of its equaliser. -/
def Lane.trained (l : Lane) (levels : List Level) (spaced : Bool) (wish draw : Nat) : Lane :=
  (l.trainingFrame levels spaced wish (Config.freeNat draw)).adapt fun i => Config.freeNat (draw + 1 + i)

theorem hearTraining_of_pattern {n : Fin 64} {s : State} (levels : List Level) (spaced : Bool) (wish : Nat) (hruns : runs s n = true)
    (hsym : s.lanes[n].symLock = true) (hstate : s.lanes[n].tstate = .pattern) (hframed : s.lanes[n].unframed = false) :
    hearTraining n levels spaced wish s =
      { s with lanes := modAt s.lanes n fun l => l.trained levels spaced wish s.draw, draw := s.draw + 15 } := by
  have hlane : modAt (modAt s.lanes n fun l => l.trainingFrame levels spaced wish (Config.freeNat s.draw)) n
        (fun l => l.adapt fun i => Config.freeNat (s.draw + 1 + i)) = modAt s.lanes n fun l => l.trained levels spaced wish s.draw := by
    simp [modAt, Lane.trained]
  simp only [hearTraining, hruns, hsym, hstate, hframed, Bool.and_self, beq_self_eq_true, Bool.not_false, if_true, State.drawNat, adaptLane, State.updLane, hlane]

/-- The relay is no matter of the device's own state (R132, R150). -/
theorem relay_frame (n : Fin 64) (levels : List Level) (s : State) : relay n levels s = { s with tx := (relay n levels s).tx } := by
  unfold relay
  split <;> rfl

/-- A frame that does not read ends the run of good frames (R181). -/
theorem Lane.trained_of_none {l : Lane} {levels : List Level} (spaced : Bool) (wish draw : Nat) (h : validControl (l.sliced levels) = none) :
    (l.trained levels spaced wish draw).tstate = l.tstate ∧ (l.trained levels spaced wish draw).goodFrames = 0
      ∧ (l.trained levels spaced wish draw).partnerReady = 0
      ∧ ((l.sliced levels).take 32 ≠ comma → (l.trained levels spaced wish draw).trainChk = l.trainChk) := by
  rw [Lane.trained, Lane.adapt_frame, Lane.trainingFrame_of_none spaced wish _ h]
  obtain ⟨hstate, hrun, hready, hchk⟩ := { l.patternHeard (l.sliced levels) 0 with partnerReady := 0 }.countsDown_keeps
  exact ⟨hstate, hrun, hready, fun hno => hchk.trans (if_neg hno)⟩

/-- A frame that reads carries the run on and counts the partner's readiness (R181, R182). -/
theorem Lane.trained_of_some {l : Lane} {levels : List Level} {f : BitVec 64} (spaced : Bool) (wish draw : Nat)
    (h : validControl (l.sliced levels) = some f) :
    (l.trained levels spaced wish draw).tstate = l.tstate
      ∧ (l.trained levels spaced wish draw).goodFrames = (if spaced then l.goodFrames + 1 else 1)
      ∧ (l.trained levels spaced wish draw).partnerReady = if bitAt f 6 then l.partnerReady + 1 else 0 := by
  rw [Lane.trained, Lane.adapt_frame, Lane.trainingFrame_of_some spaced wish _ h]
  have hdown := (((l.patternHeard (l.sliced levels) (if spaced then l.goodFrames + 1 else 1)).controlRead f wish (Config.freeNat draw))).countsDown_keeps
  have hread := (l.patternHeard (l.sliced levels) (if spaced then l.goodFrames + 1 else 1)).controlRead_keeps f wish (Config.freeNat draw)
  exact ⟨hdown.1.trans hread.1, hdown.2.1.trans hread.2.1, hdown.2.2.1.trans hread.2.2⟩

theorem Lane.trained_tstate (l : Lane) (levels : List Level) (spaced : Bool) (wish draw : Nat) :
    (l.trained levels spaced wish draw).tstate = l.tstate := by
  cases h : validControl (l.sliced levels) with
  | none => exact (Lane.trained_of_none spaced wish draw h).1
  | some f => exact (Lane.trained_of_some spaced wish draw h).1

/-! ### Moves of a lane of no port -/

/-- A lane of no port moves by its own step alone, short of Exchange, where it makes its offer (R182). -/
theorem moveLane_of_free {n : Fin 64} {t : TState} {s : State} (hx : t ≠ .exchange) (h : portOfLane s n = none) : moveLane n t s = enterT n t s := by
  have hfree : portOfLane (enterT n t s) n = none := (portOfLane_congr (enterT_ports n t s) n).trans h
  have hsame : ((enterT n t s).updLane n fun l => if t = .exchange then { l with offer := verMaxOf s n } else l) = enterT n t s := by
    simp only [if_neg hx]
    exact State.updLane_id _ n
  unfold moveLane
  simp only [hsame, settleUsIdle_of_free hfree, memberChanged_of_free hfree, memberLost_of_free hfree, ite_self]

theorem Lane.enter_pattern_counts {l : Lane} (h : l.hold = false) : (l.enter .pattern).cnt.attempts = satInc l.cnt.attempts := by
  have hcount : (l.enter .pattern).cnt = { l.cnt with attempts := satInc l.cnt.attempts } :=
    (congrArg Lane.cnt (Lane.abortEye_frame _)).trans (by simp [Lane.count, Lane.leave, h])
  rw [hcount]

/-- Detect keeps what its time-out has noted and what LANECTL holds (R157, R183). -/
theorem Lane.enter_detect_keeps (l : Lane) : (l.enter .detect).lastTmo = l.lastTmo ∧ (l.enter .detect).timeouts = l.timeouts
    ∧ (l.enter .detect).backoff = l.backoff ∧ (l.enter .detect).ctl = l.ctl := ⟨rfl, rfl, rfl, rfl⟩

/-- Disabled ends the symbols, and keeps what LANECTL holds (R157, R163). -/
theorem Lane.enter_disabled_keeps (l : Lane) : (l.enter .disabled).symLock = false ∧ (l.enter .disabled).ctl = l.ctl :=
  ⟨(congrArg Lane.symLock (Lane.abortEye_frame _)).trans rfl, (congrArg Lane.ctl (Lane.abortEye_frame _)).trans rfl⟩

/-! ### Training states -/

/-- A time-out is noted on the lane before it returns to Detect (R183). -/
def Lane.timedOut (l : Lane) : Lane := { l with lastTmo := l.tstate, timeouts := l.timeouts + 1, backoff := true }

theorem timeoutSeen_lanes {n : Fin 64} {s : State} (h : s.lanes[n].tstate = .pattern ∨ s.lanes[n].tstate = .lock ∨ s.lanes[n].tstate = .exchange)
    (hreset : inReset (.lane n) s = false) :
    ∃ u : State, timeoutSeen n s = moveLane n .detect u ∧ u.lanes = modAt s.lanes n Lane.timedOut := by
  unfold timeoutSeen
  dsimp only
  rw [if_neg]
  · refine ⟨_, rfl, ?_⟩
    split
    · split
      · rw [fault_frame]
        rfl
      · rfl
    · rfl
  · obtain h | h | h := h <;> simp [-Fin.getElem_fin, h, hreset]

/-! ### LANECTL -/

/-- The journal's token is paid out of the access paths alone. -/
theorem spent_access (o : Obj) (v : Val) (s : State) : spent o v s = s.updAcc fun _ => (spent o v s).acc := by
  unfold spent
  split
  · exact jnlToken_access s
  · rfl

/-- The entry and the answer of a write are no matter of lanes and queues (R594). -/
theorem noted_keeps (who : By) (index sub : Nat) (o : Obj) (v : Val) (j : Bool) (s : State) :
    (noted who index sub o v j s).lanes = s.lanes ∧ (noted who index sub o v j s).qm = s.qm := by
  unfold noted enter jnlAppend
  dsimp only
  split
  · split
    · exact ⟨rfl, rfl⟩
    · rw [deviceVector_frame]
      exact ⟨rfl, rfl⟩
  · exact ⟨rfl, rfl⟩

/-- An accepted write of a lane object leaves what its effect leaves of the lanes and the queues. -/
theorem written_lane (who : By) (index sub : Nat) (n : Fin 64) (r : LaneReg) (v : Val) (s : State) :
    (written who index sub (.lane n r) v s).receivers = (writeLane n r v (spent (.lane n r) v s)).receivers
      ∧ (written who index sub (.lane n r) v s).qm = (writeLane n r v (spent (.lane n r) v s)).qm := by
  obtain ⟨hlanes, hqm⟩ := noted_keeps who index sub (.lane n r) v (journaled (.lane n r) v s) (settlePause (writeLane n r v (spent (.lane n r) v s)))
  exact ⟨(State.receivers_congr hlanes).trans (settlePause_receivers _), hqm.trans (qm_of_unsent (settlePause_unsent _))⟩

/-- The lane's part of a write of LANECTL that enables it: the new control, and training from its beginning with its preset (R157, R163, R183). -/
def Lane.enabled (l : Lane) (v : Val) : Lane := (Lane.loadPreset { LaneReg.write l .lanectl v with timeouts := 0, backoff := false }).enter .detect

theorem Lane.enabled_keeps (l : Lane) (v : Val) :
    (l.enabled v).tstate = .detect ∧ (l.enabled v).timeouts = 0 ∧ (l.enabled v).ctl = v.word &&& lanectlMask := by
  unfold Lane.enabled Lane.loadPreset
  split <;> exact ⟨rfl, rfl, rfl⟩

/-- A loss declared on a lane of no port that waits in Detect keeps it there, with its time-outs and its control (R141, R150). -/
theorem switchInput_of_free {n : Fin 64} {s : State} (hfree : portOfLane s n = none) (hstate : s.lanes[n].tstate = .detect) :
    (switchInput n s).lanes[n].tstate = .detect ∧ (switchInput n s).lanes[n].timeouts = s.lanes[n].timeouts
      ∧ (switchInput n s).lanes[n].ctl = s.lanes[n].ctl ∧ (switchInput n s).qm = s.qm := by
  have hlost : (lossDeclared n s).lanes[n].receiver = s.lanes[n].lost.receiver := lossDeclared_receivers hfree
  have hkeeps : s.lanes[n].lost.timeouts = s.lanes[n].timeouts ∧ s.lanes[n].lost.ctl = s.lanes[n].ctl := by
    rw [Lane.lost, Lane.lose_frame]
    exact ⟨rfl, rfl⟩
  have hqm : (lossDeclared n s).qm = s.qm := by
    have hmove := moveLane_of_free (t := .detect) (s := s.updLane n fun l => { l with rxIdle := false }.lose) TState.noConfusion hfree
    rw [lossDeclared, hmove]
    exact qm_of_unlinked ((settleUsIdle_unlinked n _).trans (enterT_unlinked n .detect _))
  have hloss : (lossDeclared n s).lanes[n].tstate = .detect ∧ (lossDeclared n s).lanes[n].timeouts = s.lanes[n].timeouts
      ∧ (lossDeclared n s).lanes[n].ctl = s.lanes[n].ctl :=
    ⟨(Lane.tstate_of_receiver hlost).trans s.lanes[n].lost_keeps.1, (Lane.timeouts_of_receiver hlost).trans hkeeps.1,
      (Lane.ctl_of_receiver hlost).trans hkeeps.2⟩
  unfold switchInput
  dsimp only
  generalize lossDeclared n s = u at hloss hqm ⊢
  split
  · exact ⟨hstate, rfl, rfl, rfl⟩
  · split
    · simp only [State.updLane_lanes, modAt_get]
      exact ⟨hloss.1, hloss.2.1, hloss.2.2, hqm⟩
    · exact ⟨hloss.1, hloss.2.1, hloss.2.2, hqm⟩

theorem writeLane_enables {n : Fin 64} {v : Val} {s : State} (hfree : portOfLane s n = none) (hoff : bitAt s.lanes[n].ctl 31 = false)
    (hon : bitAt v.word 31 = true) :
    (writeLane n .lanectl v s).lanes[n].tstate = .detect ∧ (writeLane n .lanectl v s).lanes[n].timeouts = 0
      ∧ (writeLane n .lanectl v s).lanes[n].ctl = v.word &&& lanectlMask ∧ (writeLane n .lanectl v s).qm = s.qm := by
  let u := (s.updLane n fun l => LaneReg.write l .lanectl v).updLane n fun l => Lane.loadPreset { l with timeouts := 0, backoff := false }
  have hwrite : writeLane n .lanectl v s = if fld v.word 30 29 = 1 then switchInput n (enterT n .detect u) else enterT n .detect u := by
    have hmove : moveLane n .detect u = enterT n .detect u := moveLane_of_free TState.noConfusion hfree
    simp [-Fin.getElem_fin, writeLane, hoff, hon, ← hmove, u]
  have hentered : (enterT n .detect u).lanes[n].receiver = (s.lanes[n].enabled v).receiver := by
    refine (enterT_receivers n .detect u).trans ?_
    simp [-Fin.getElem_fin, u, Lane.enabled]
  obtain ⟨hstate, htimeouts, hctl⟩ := s.lanes[n].enabled_keeps v
  have hqm : (enterT n .detect u).qm = s.qm := qm_of_unlinked (enterT_unlinked n .detect u)
  have hfreed : portOfLane (enterT n .detect u) n = none := (portOfLane_congr (enterT_ports n .detect u) n).trans hfree
  have hdetect := (Lane.tstate_of_receiver hentered).trans hstate
  have hzero := (Lane.timeouts_of_receiver hentered).trans htimeouts
  have hctl := (Lane.ctl_of_receiver hentered).trans hctl
  rw [hwrite]
  split
  · obtain ⟨hs, ht, hc, hq⟩ := switchInput_of_free hfreed hdetect
    exact ⟨hs, ht.trans hzero, hc.trans hctl, hq.trans hqm⟩
  · exact ⟨hdetect, hzero, hctl, hqm⟩

theorem writeLane_disables {n : Fin 64} {v : Val} {s : State} (hfree : portOfLane s n = none) (hon : bitAt s.lanes[n].ctl 31 = true)
    (hoff : bitAt v.word 31 = false) :
    (writeLane n .lanectl v s).lanes[n] = (LaneReg.write s.lanes[n] .lanectl v).enter .disabled ∧ (writeLane n .lanectl v s).qm = s.qm := by
  let u := s.updLane n fun l => LaneReg.write l .lanectl v
  have hwrite : writeLane n .lanectl v s = enterT n .disabled u := by
    have hmove : moveLane n .disabled u = enterT n .disabled u := moveLane_of_free TState.noConfusion hfree
    simp [-Fin.getElem_fin, writeLane, hoff, hon, ← hmove, u]
  rw [hwrite, enterT_lanes_of_ne n u TState.noConfusion, modAt_get]
  exact ⟨congrArg (Lane.enter · .disabled) (modAt_get s.lanes n _), qm_of_unlinked (enterT_unlinked n .disabled u)⟩

theorem bitAt_31_lanectlMask (w : Word) : bitAt (w &&& lanectlMask) 31 = bitAt w 31 := by
  have hmask : lanectlMask.getLsbD 31 = true := by decide
  simp [bitAt, hmask]

theorem word_num (w : Word) : (Val.num w.toNat).word = w := by simp [Val.word, Val.toNat]

/-! ### The obligation -/

/-- Signal detect held in Detect, and the countdown's end in Pattern, move the lane on (R179, R181, R182). -/
theorem advances_keep {n : Fin 64} {t : TState} {s : State} (hactive : s.lanes[n].tstate ≠ .active) (hd : t ≠ .detect) (hx : t ≠ .exchange) :
    (moveLane n t s).lanes[n] = s.lanes[n].enter t ∧ (moveLane n t s).lanes[n].tstate = t
      ∧ (∀ k, k ≠ n → (moveLane n t s).lanes[k] = s.lanes[k]) ∧ (moveLane n t s).srcs = s.srcs ∧ (moveLane n t s).qm = s.qm := by
  have hlane := moveLane_lane hactive hd hx
  have hkept := (moveLane_of_not_active t hactive).1
  exact ⟨hlane, hlane ▸ Lane.enter_tstate _ t, fun k hk => moveLane_lanes_ne t hactive hk, srcs_of_unlinked hkept, qm_of_unlinked hkept⟩

theorem timeoutSeen_keeps {n : Fin 64} {s : State} (h : s.lanes[n].tstate = .pattern ∨ s.lanes[n].tstate = .lock ∨ s.lanes[n].tstate = .exchange)
    (hreset : inReset (.lane n) s = false) :
    (timeoutSeen n s).lanes[n].tstate = .detect ∧ (timeoutSeen n s).lanes[n].lastTmo = s.lanes[n].tstate
      ∧ (timeoutSeen n s).lanes[n].timeouts = s.lanes[n].timeouts + 1 ∧ (timeoutSeen n s).lanes[n].backoff = true
      ∧ ∀ k, k ≠ n → (timeoutSeen n s).lanes[k] = s.lanes[k] := by
  obtain ⟨u, hu, hlanes⟩ := timeoutSeen_lanes h hreset
  have hnoted : u.lanes[n] = s.lanes[n].timedOut := by simp only [hlanes, modAt_get]
  have hactive : u.lanes[n].tstate ≠ .active := by
    rw [hnoted, Lane.timedOut]
    obtain h | h | h := h <;> simp [-Fin.getElem_fin, h]
  have hdetect := moveLane_detect_receiver hactive
  obtain ⟨hlast, htimeouts, hback, -⟩ := u.lanes[n].enter_detect_keeps
  rw [hnoted] at hdetect hlast htimeouts hback
  rw [hu]
  refine ⟨(Lane.tstate_of_receiver hdetect).trans (Lane.enter_tstate _ _), (Lane.lastTmo_of_receiver hdetect).trans hlast,
    (Lane.timeouts_of_receiver hdetect).trans htimeouts, (Lane.backoff_of_receiver hdetect).trans hback, fun k hk => ?_⟩
  simp only [moveLane_lanes_ne .detect hactive hk, hlanes, modAt_get_ne _ _ _ _ hk]

/-- A retrain of an Active lane of no port counts an attempt, and pauses change no receiver (R206). -/
theorem retrained_keeps {n : Fin 64} {s : State} (hfree : portOfLane s n = none) :
    (settlePause (moveLane n .pattern s)).lanes[n].tstate = .pattern
      ∧ (s.lanes[n].hold = false → (settlePause (moveLane n .pattern s)).lanes[n].cnt.attempts = satInc s.lanes[n].cnt.attempts) := by
  have hkept : (settlePause (moveLane n .pattern s)).lanes[n].receiver = (s.lanes[n].enter .pattern).receiver := by
    refine (congrFun (settlePause_receivers _) n).trans ?_
    rw [moveLane_of_free TState.noConfusion hfree]
    exact enterT_receivers n .pattern s
  exact ⟨(Lane.tstate_of_receiver hkept).trans (Lane.enter_tstate _ _),
    fun hhold => (congrArg LaneCnt.attempts (Lane.cnt_of_receiver hkept)).trans (Lane.enter_pattern_counts hhold)⟩

/-- A training frame, relayed and heard, is the lane's own step. -/
theorem frameHeard {n : Fin 64} {levels : List Level} {s : State} (spaced : Bool) (wish : Nat) (hlisten : listening s n = true)
    (hsym : s.lanes[n].symLock = true) (hstate : s.lanes[n].tstate = .pattern) (hframed : s.lanes[n].unframed = false) :
    hearTraining n levels spaced wish (relay n levels s) =
      { s with lanes := modAt s.lanes n fun l => l.trained levels spaced wish s.draw, draw := s.draw + 15, tx := (relay n levels s).tx } := by
  have hruns : runs s n = true := (Bool.and_eq_true_iff.mp hlisten).1
  rw [relay_frame]
  exact hearTraining_of_pattern levels spaced wish hruns hsym hstate hframed

/-- An accepted write of LANECTL leaves what its effect leaves of lane n and of the queues, in a state that has paid the journal's token. -/
theorem lanectlWritten {w : By} {index sub : Nat} {n : Fin 64} {v : Val} {s : State} (hacc : Accepted w index sub (.lane n .lanectl) v s) :
    ∃ u : State, u.lanes = s.lanes ∧ u.ports = s.ports ∧ u.qm = s.qm
      ∧ (regWrite w index sub v s).lanes[n].receiver = (writeLane n .lanectl v u).lanes[n].receiver
      ∧ (regWrite w index sub v s).qm = (writeLane n .lanectl v u).qm := by
  obtain ⟨hlanes, hqm⟩ := written_lane w index sub n .lanectl v s
  have hspent := spent_access (.lane n .lanectl) v s
  rw [regWrite_of_accepted hacc (by intro h; cases h) (by intro h; cases h.1)]
  exact ⟨_, (congrArg State.lanes hspent).trans rfl, (congrArg State.ports hspent).trans rfl, (congrArg State.qm hspent).trans rfl,
    congrFun hlanes n, hqm⟩

theorem laneEnabled {w : By} {n : Fin 64} {v : Word} {s : State} (hoff : bitAt s.lanes[n].ctl 31 = false) (hfree : portOfLane s n = none)
    (hacc : Accepted w (0x3000 + n.1) 1 (.lane n .lanectl) (.num (v ||| 0x80000000#32).toNat) s) :
    ∃ t, exec (.laneEnable w n v) s = .next t ∧ t.lanes[n].tstate = .detect ∧ t.lanes[n].timeouts = 0 ∧ bitAt t.lanes[n].ctl 31 = true
      ∧ t.qm = s.qm := by
  obtain ⟨u, hlanes, hports, hqm, hlane, hqueues⟩ := lanectlWritten hacc
  have hon : bitAt (v ||| 0x80000000#32) 31 = true := by simp [bitAt]
  have hwas : bitAt u.lanes[n].ctl 31 = false := by simp only [hlanes, hoff]
  obtain ⟨hstate, htimeouts, hctl, hkept⟩ := writeLane_enables (v := .num (v ||| 0x80000000#32).toNat) ((portOfLane_congr hports n).trans hfree) hwas
    (by rw [word_num, hon])
  refine ⟨_, rfl, (Lane.tstate_of_receiver hlane).trans hstate, (Lane.timeouts_of_receiver hlane).trans htimeouts, ?_,
    hqueues.trans (hkept.trans hqm)⟩
  refine (congrArg (bitAt · 31) ((Lane.ctl_of_receiver hlane).trans hctl)).trans ?_
  rw [bitAt_31_lanectlMask, word_num, hon]

theorem laneDisabled {w : By} {n : Fin 64} {v : Word} {s : State} (hon : bitAt s.lanes[n].ctl 31 = true) (hfree : portOfLane s n = none)
    (hacc : Accepted w (0x3000 + n.1) 1 (.lane n .lanectl) (.num (v &&& 0x7FFFFFFF#32).toNat) s) :
    ∃ t, exec (.laneDisable w n v) s = .next t ∧ t.lanes[n].tstate = .disabled ∧ t.lanes[n].symLock = false ∧ bitAt t.lanes[n].ctl 31 = false
      ∧ t.qm = s.qm := by
  obtain ⟨u, hlanes, hports, hqm, hlane, hqueues⟩ := lanectlWritten hacc
  have hoff : bitAt (v &&& 0x7FFFFFFF#32) 31 = false := by simp [bitAt]
  have hwas : bitAt u.lanes[n].ctl 31 = true := by simp only [hlanes, hon]
  obtain ⟨hstate, hkept⟩ := writeLane_disables (v := .num (v &&& 0x7FFFFFFF#32).toNat) ((portOfLane_congr hports n).trans hfree) hwas
    (by rw [word_num, hoff])
  rw [hstate] at hlane
  obtain ⟨hsym, hctl⟩ := (LaneReg.write u.lanes[n] .lanectl (.num (v &&& 0x7FFFFFFF#32).toNat)).enter_disabled_keeps
  refine ⟨_, rfl, (Lane.tstate_of_receiver hlane).trans (Lane.enter_tstate _ _), (Lane.symLock_of_receiver hlane).trans hsym, ?_,
    hqueues.trans (hkept.trans hqm)⟩
  refine (congrArg (bitAt · 31) ((Lane.ctl_of_receiver hlane).trans hctl)).trans ?_
  dsimp only [LaneReg.write]
  rw [bitAt_31_lanectlMask, word_num, hoff]

/-- Settles O30: each training state's end by the lane's own step, a frame by what it reads, and LANECTL by the lane's entry; levels of another
number than a frame's are no frame (log entry 15). -/
theorem laneTraining : Obligations.LaneTraining := by
  refine ⟨fun n s => ⟨fun hlisten hstate hsig hback => ?_, fun hstate hdown => ?_, fun hstate hreset => ⟨_, rfl, timeoutSeen_keeps hstate hreset⟩, rfl,
    fun hactive hfree => ?_⟩, fun n levels ps spaced wish s hps => ⟨fun hlen => ?_, fun hlen hlisten hsym hstate hframed => ?_⟩,
    fun w n v s => ⟨laneEnabled, laneDisabled⟩⟩
  · have hruns : runs s n = true := (Bool.and_eq_true_iff.mp hlisten).1
    have hexec : exec (.signalDetectHeld n) s = .next (moveLane n .pattern s) := by
      simp [-Fin.getElem_fin, exec, execSignalDetectHeld, hruns, hstate, hsig, hback]
    exact ⟨_, hexec, advances_keep (by simp [-Fin.getElem_fin, hstate]) TState.noConfusion TState.noConfusion⟩
  · have hexec : exec (.countdownEnd n) s = .next (moveLane n .lock s) := by
      simp [-Fin.getElem_fin, exec, execCountdownEnd, hstate, hdown]
    exact ⟨_, hexec, advances_keep (by simp [-Fin.getElem_fin, hstate]) TState.noConfusion TState.noConfusion⟩
  · have hexec : exec (.retrain n) s = .next (settlePause (moveLane n .pattern s)) := by
      simp [-Fin.getElem_fin, exec, execRetrain, hactive]
    exact ⟨_, hexec, retrained_keeps hfree⟩
  · simp [exec, execTrainingFrame, wholeCodeword, hlen]
  · have hexec : exec (.trainingFrame n levels spaced wish) s = .next (hearTraining n levels spaced wish (relay n levels s)) := by
      simp [exec, execTrainingFrame, wholeCodeword, hlen, hlisten]
    rw [frameHeard spaced wish hlisten hsym hstate hframed] at hexec
    refine ⟨_, hexec, ?_, fun k hk => modAt_get_ne _ _ _ _ hk, rfl, ?_, ?_⟩
    · rw [modAt_get, Lane.trained_tstate, hstate]
    · rw [hps, modAt_get]
      intro hno
      obtain ⟨-, hrun, hready, hchk⟩ := Lane.trained_of_none spaced wish s.draw (validControl_of_no_comma hno)
      exact ⟨hrun, hready, hchk hno⟩
    · rw [hps, modAt_get]
      intro f hcomma hfield hcrc
      exact (Lane.trained_of_some spaced wish s.draw (validControl_of_field hcomma hfield hcrc)).2

end Sys2Proof.Machine
end

