-- ==== Sys2Proof/Proofs/CapsExchange.lean ====
section
/-! The exchange of capabilities on a lane (R182, R185, R186). -/

namespace Sys2Proof.Machine

open Sys2Proof

/-- Active keeps what the exchange has agreed (R182, R185). -/
theorem Lane.enter_active_keeps (l : Lane) : (l.enter .active).caps = l.caps ∧ (l.enter .active).ver = l.ver
    ∧ (l.enter .active).ownAcked = l.ownAcked ∧ (l.enter .active).partnerAcked = l.partnerAcked := ⟨rfl, rfl, rfl, rfl⟩

/-- A lane in Exchange enters Active once both sides are acknowledged (R182). -/
theorem tryActive_lane {n : Fin 64} {s : State} (h : s.lanes[n].tstate = .exchange) :
    (tryActive n s).lanes[n] = if s.lanes[n].ownAcked && s.lanes[n].partnerAcked then s.lanes[n].enter .active else s.lanes[n] := by
  have hactive : s.lanes[n].tstate ≠ .active := by simp [-Fin.getElem_fin, h]
  unfold tryActive
  by_cases hboth : s.lanes[n].ownAcked ∧ s.lanes[n].partnerAcked
  · simp only [h, hboth, and_self, Bool.and_self, if_true]
    exact moveLane_lane hactive TState.noConfusion TState.noConfusion
  · rw [if_neg fun hall => hboth hall.2, if_neg (by simpa using hboth)]

theorem tryActive_keeps {n : Fin 64} {s : State} (h : s.lanes[n].tstate = .exchange) :
    (tryActive n s).lanes[n].caps = s.lanes[n].caps ∧ (tryActive n s).lanes[n].ver = s.lanes[n].ver
      ∧ (tryActive n s).lanes[n].ownAcked = s.lanes[n].ownAcked ∧ (tryActive n s).lanes[n].partnerAcked = s.lanes[n].partnerAcked := by
  rw [tryActive_lane h]
  split
  · exact Lane.enter_active_keeps _
  · exact ⟨rfl, rfl, rfl, rfl⟩

/-- The log of a reduced offer is no matter of the lanes (R186). -/
theorem faults_lanes (cuts : Nat) (n : Fin 64) (s : State) :
    ((List.range cuts).foldl (fun s _ => fault 0x0502 0 .lane n.1 0 s) s).lanes = s.lanes :=
  State.each_keeps (·.lanes) (List.range cuts) (fun _ t => fault 0x0502 0 .lane n.1 0 t) (fun _ t => by rw [fault_frame]) s

/-- The version that the lane offers in common with its partner (R185, R186). -/
def Lane.agreed (l : Lane) (x : BitVec 256) : Fin 4 := Fin.ofNat 4 (min l.offer (offered (capsOf x)).1)

/-- CAPS in Exchange are kept with the version in common; where there is one, they are acknowledged and the lane may go on (R185, R186). -/
theorem capsReceived_of_exchange {n : Fin 64} (x : BitVec 256) {s : State} (h : s.lanes[n].tstate = .exchange) :
    ∃ u : State, u.lanes[n].tstate = .exchange ∧ u.lanes[n].caps = some (capsOf x) ∧ u.lanes[n].ver = s.lanes[n].agreed x
      ∧ capsReceived n x s = if (offered (capsOf x)).1 = 0 then u
          else tryActive n ((sendBlock n (payload 0x11 [(8, u.lanes[n].ver.1), (10, (capsOf x).partnerId)]) u).updLane n fun l =>
            { l with partnerAcked := l.partnerAcked || l.tstate == .exchange }) := by
  unfold capsReceived Lane.agreed
  rw [if_neg (by simp [-Fin.getElem_fin, h])]
  dsimp only
  generalize offered (capsOf x) = o
  obtain ⟨v, cuts⟩ := o
  refine ⟨_, ?_, ?_, ?_, rfl⟩
  all_goals
    simp only [apply_ite State.lanes, faults_lanes, memberChanged_lanes, State.updLane_lanes, ite_self]
    split <;> simp only [modAt_get, h]

/-- The acknowledgement of the device's own offer takes the lane on (R182, R185). -/
theorem ackReceived_of_own {n : Fin 64} {x : BitVec 256} {s : State} (hstate : s.lanes[n].tstate = .exchange) (hver : s.lanes[n].ver ≠ 0)
    (hfield : fld x 9 8 = s.lanes[n].ver.1) (hserial : fld x 41 10 = Config.serial.toNat % 2 ^ 32) :
    ackReceived n x s = tryActive n (s.updLane n fun l => { l with ownAcked := true }) := if_pos ⟨hstate, hver, hfield, hserial⟩

/-- Settles O34: what is kept before the lane may go on, and the one step to Active that keeps it. -/
theorem capabilitiesAreExchanged : Obligations.CapabilitiesAreExchanged := by
  intro n x s hstate
  refine ⟨⟨_, rfl, ?_⟩, fun hver hfield hserial => ⟨_, rfl, ?_⟩⟩
  · obtain ⟨u, hexchange, hcaps, hagreed, hreceived⟩ := capsReceived_of_exchange x hstate
    rw [hreceived]
    by_cases hv : (offered (capsOf x)).1 = 0
    · rw [if_pos hv]
      exact ⟨hcaps, hagreed, fun h => absurd hv h⟩
    · rw [if_neg hv]
      generalize hw : ((sendBlock n _ u).updLane n _) = w
      have hlane : w.lanes[n].tstate = .exchange ∧ w.lanes[n].caps = some (capsOf x) ∧ w.lanes[n].ver = s.lanes[n].agreed x
          ∧ w.lanes[n].partnerAcked = true := by
        simp [-Fin.getElem_fin, ← hw, sendBlock, Lane.enqueue, hexchange, hcaps, hagreed]
      obtain ⟨hstate, hcaps, hagreed, hacked⟩ := hlane
      obtain ⟨hkcaps, hkver, -, hkacked⟩ := tryActive_keeps hstate
      exact ⟨hkcaps.trans hcaps, hkver.trans hagreed, fun _ => hkacked.trans hacked⟩
  · rw [ackReceived_of_own hstate hver hfield hserial]
    generalize hw : s.updLane n _ = w
    have hlane : w.lanes[n] = { s.lanes[n] with ownAcked := true } := by rw [← hw, State.updLane_lanes, modAt_get]
    have hown : w.lanes[n].ownAcked = true := by rw [hlane]
    have hpartner : w.lanes[n].partnerAcked = s.lanes[n].partnerAcked := by rw [hlane]
    have hexchange : w.lanes[n].tstate = .exchange := by rw [hlane, hstate]
    refine ⟨(tryActive_keeps hexchange).2.2.1.trans hown, fun hacked => ?_, fun hacked => ?_⟩
    · simp only [tryActive_lane hexchange, hown, hpartner, hacked, Bool.and_self, if_true, Lane.enter_tstate]
    · simp [-Fin.getElem_fin, tryActive_lane hexchange, hpartner, hacked, hexchange]

end Sys2Proof.Machine
end

