-- ==== Sys2Proof/Proofs/PortReplays.lean ====
section
/-! Replays of a port, its timers and its idle, and the fault of its standby (R184, R188, R190, R191, R197 to R202). -/

namespace Sys2Proof.Machine

open Sys2Proof

theorem Port.state_of_bond {q r : Port} (h : q.bond = r.bond) : q.state = r.state := (congrArg Port.state h :)
theorem Port.replay_of_bond {q r : Port} (h : q.bond = r.bond) : q.replay = r.replay := (congrArg Port.replay h :)
theorem Port.sbReady_of_bond {q r : Port} (h : q.bond = r.bond) : q.sbReady = r.sbReady := (congrArg Port.sbReady h :)
theorem Port.roles_of_bond {q r : Port} (h : q.bond = r.bond) : q.roles = r.roles := (congrArg Port.roles h :)
theorem Port.replays_of_bond {q r : Port} (h : q.bond = r.bond) : q.replays = r.replays := (congrArg Port.replays h :)

/-! ### Replays -/

theorem execReplayReqResend_of_replay {p : Fin 16} {r : Replay} {s : State} (h : s.ports[p].replay = some r) :
    execReplayReqResend p s = .next (if r.repeats < 3 then
      sendPort p (replayReq r) (s.updPort p fun q => { q with replay := some { r with repeats := r.repeats + 1 } }) else s) := by
  simp only [execReplayReqResend, h]

/-- A request sent again is counted in its replay; its sending is no matter of the port's state (R201). -/
theorem resent_keeps (p : Fin 16) (r : Replay) (s : State) :
    let t := sendPort p (replayReq r) (s.updPort p fun q => { q with replay := some { r with repeats := r.repeats + 1 } })
    t.ports[p].replay = some { r with repeats := r.repeats + 1 } ∧ t.ports[p].state = s.ports[p].state ∧ t.heads = s.heads ∧ t.qm = s.qm := by
  intro t
  let u := s.updPort p fun q => { q with replay := some { r with repeats := r.repeats + 1 } }
  have hport : u.ports[p] = { s.ports[p] with replay := some { r with repeats := r.repeats + 1 } } := modAt_get s.ports p _
  have hbond : t.ports[p].bond = u.ports[p].bond := congrFun (sendPort_bonds p (replayReq r) u) p
  have hsent : t.unsent = u.unsent := sendPort_unsent p (replayReq r) u
  rw [hport] at hbond
  exact ⟨Port.replay_of_bond hbond, (Port.state_of_bond hbond).trans rfl, heads_of_unsent hsent, qm_of_unsent hsent⟩

/-- A port as it goes down (R202, R203). -/
def Port.fallen (q : Port) : Port :=
  { q with sbReady := false, replay := none, broken := true, paused := false, attemptFailed := false, sbTrial := false, owed := [] }

/-- A port that goes down takes an open frame with it, or does not; the port itself falls either way (R202, R203). -/
theorem portDown_cases (p : Fin 16) (n : Fin 64) (s : State) : ∃ (lost : Bool) (rung : Fin 5) (u : State),
    portDown p n s = if lost then
        giveWay 0x0102 rung .port p.1 n.1 ((publish (0x00D0 + p.1) (setPState p .down (u.updPort p Port.fallen))).updPort p fun q =>
          { q with discards := satInc q.discards, giveways := satInc q.giveways })
      else fault 0x0102 0 .port p.1 n.1 (publish (0x00D0 + p.1) (setPState p .down (u.updPort p Port.fallen))) := ⟨_, _, _, rfl⟩

/-- The port that goes down has no replay and no ready standby (R202, R203). -/
theorem portDown_port (p : Fin 16) (n : Fin 64) (s : State) :
    (portDown p n s).ports[p].state = .down ∧ (portDown p n s).ports[p].replay = none ∧ (portDown p n s).ports[p].sbReady = false := by
  obtain ⟨lost, rung, u, hdown⟩ := portDown_cases p n s
  obtain ⟨b, hstate⟩ := setPState_port p .down (u.updPort p Port.fallen)
  rw [State.updPort_ports, modAt_get] at hstate
  rw [hdown]
  split
  · rw [giveWay_frame]
    simp [-Fin.getElem_fin, hstate, Port.fallen]
  · rw [fault_frame]
    simp [-Fin.getElem_fin, hstate, Port.fallen]

/-- The start of a replay awaited on a running port, its lane Active (R199, R201). -/
structure Awaited (n : Fin 64) (p : Fin 16) (r : Replay) (x : BitVec 256) (s : State) : Prop where
  replay : s.ports[p].replay = some r
  port : portOfLane s n = some p
  running : s.ports[p].running = true
  rseq : fld x 15 8 = r.rseq.toNat
  active : s.lanes[n].tstate = .active

theorem replayStarts_of_refused {n : Fin 64} {p : Fin 16} {r : Replay} {x : BitVec 256} {s : State} (h : Awaited n p r x s) (hbit : bitAt x 65 = true) :
    replayStarts n x s = portDown p (r.failed.getD n) s := by
  simp [-Fin.getElem_fin, replayStarts, h.replay, h.port, h.running, h.rseq, h.active, hbit]

/-- The awaited start ends the replay, and the port is up again (R199). -/
theorem replayStarts_port {n : Fin 64} {p : Fin 16} {r : Replay} {x : BitVec 256} {s : State} (h : Awaited n p r x s) (hbit : bitAt x 65 = false)
    (hmove : r.move = false) (howed : s.ports[p].owed = []) :
    (replayStarts n x s).ports[p].state = .up ∧ (replayStarts n x s).ports[p].replay = none
      ∧ (replayStarts n x s).ports[p].replays = satInc s.ports[p].replays ∧ (replayStarts n x s).ports[p].roles = s.ports[p].roles := by
  have hdropped : (dropSlots p s).ports = s.ports := 
    State.each_keeps (·.ports) (ctlLanes s.ports[p].ctl) (fun n t => t.updLane n fun l => { l with slots := [] }) (fun _ _ => rfl) s
  have hstart : ∃ u : State, replayStarts n x s = payOwed p (setPState p .up u) ∧ u.ports[p].owed = [] ∧ u.ports[p].replay = none
      ∧ u.ports[p].replays = satInc s.ports[p].replays ∧ u.ports[p].roles = s.ports[p].roles := by
    simp only [replayStarts, h.replay, h.port, h.running, h.rseq, h.active, hbit, hmove, ne_eq, not_true, decide_false, Bool.not_true, Bool.or_self,
      Bool.false_eq_true, if_false]
    refine ⟨_, rfl, ?_⟩
    simp only [State.updPort_ports, modAt_get, hdropped, howed, and_self]
  obtain ⟨u, hu, huowed, hreplay, hreplays, hroles⟩ := hstart
  obtain ⟨b, hup⟩ := setPState_port p .up u
  have hpaid : payOwed p (setPState p .up u) = (setPState p .up u).updPort p fun q => { q with owed := [] } := by
    simp only [payOwed, hup, huowed, State.each_nil]
  rw [hu, hpaid, State.updPort_ports, modAt_get, hup]
  exact ⟨rfl, hreplay, hreplays, hroles⟩

/-! ### Timers -/

theorem upTimeExpires_keeps {p : Fin 16} {s : State} (hon : bitAt s.ports[p].ctl 31 = true) (hmust : bitAt s.ports[p].ctl 30 = true)
    (htimer : s.ports[p].upTimer = true) (hup : s.ports[p].state ≠ .up) :
    (upTimeExpires p s).ports = modAt s.ports p (fun q => { q with notUp := true, upTimer := false }) ∧ (upTimeExpires p s).lanes = s.lanes
      ∧ (upTimeExpires p s).heads = s.heads := by
  simp only [upTimeExpires, hon, hmust, htimer, bne_iff_ne.mpr hup, Bool.and_self, Bool.not_true, Bool.false_eq_true, if_false]
  rw [publish_frame]
  split
  · rw [fault_frame]
    exact ⟨rfl, rfl, rfl⟩
  · exact ⟨rfl, rfl, rfl⟩

theorem idleMaxExpires_keeps {p : Fin 16} {s : State} (hidle : s.ports[p].usEidle = true) (hmax : s.ports[p].eidleMax ≠ 0)
    (htold : s.ports[p].idleTold = false) :
    (idleMaxExpires p s).ports = modAt s.ports p (fun q => { q with longEidle := true, idleTold := true }) ∧ (idleMaxExpires p s).lanes = s.lanes
      ∧ (idleMaxExpires p s).heads = s.heads := by
  simp only [idleMaxExpires, hidle, htold, beq_eq_false_iff_ne.mpr hmax, Bool.not_true, Bool.or_self, Bool.false_eq_true, if_false]
  rw [publish_frame]
  split
  · rw [fault_frame]
    exact ⟨rfl, rfl, rfl⟩
  · exact ⟨rfl, rfl, rfl⟩

theorem idleMaxExpires_of_told {p : Fin 16} {s : State} (h : s.ports[p].idleTold = true) : idleMaxExpires p s = s := by
  simp [-Fin.getElem_fin, idleMaxExpires, h]

/-! ### Walks over lanes -/

/-- A walk reaches what the step of one of its places brings about, where no later step undoes it. -/
theorem State.each_reaches {α : Type} {I Q : State → Prop} {a : α} {l : List α} {f : α → State → State} (ha : a ∈ l)
    (keep : ∀ b s, I s → I (f b s)) (hit : ∀ s, I s → Q (f a s)) (hold : ∀ b s, I s → Q s → Q (f b s)) (s : State) (h : I s) : Q (s.each l f) := by
  induction l generalizing s with
  | nil => cases ha
  | cons b r ih =>
    obtain rfl | hr := List.mem_cons.mp ha
    · have hboth := State.each_ind (fun t => I t ∧ Q t) r f (fun c t _ ht => ⟨keep c t ht.1, hold c t ht.1 ht.2⟩) (f a s) ⟨keep a s h, hit s h⟩
      exact hboth.2
    · exact ih hr (f b s) (keep b s h)

/-! ### Idle -/

/-- A block is in one of the codewords it is put into. -/
theorem mem_putAt {α : Type} (i : Nat) (x : α) (qs : List (List α)) : ∃ q ∈ putAt i x qs, x ∈ q := by
  fun_induction putAt i x qs with
  | case1 => exact ⟨_, List.mem_singleton_self _, List.mem_singleton_self _⟩
  | case2 x c q => exact ⟨_, List.mem_cons_self, List.mem_append_right c (List.mem_singleton_self _)⟩
  | case3 k x ih | case4 k x c q ih =>
    obtain ⟨q, hq, hx⟩ := ih
    exact ⟨q, List.mem_cons_of_mem _ hq, hx⟩

/-- A block that waits still waits behind another. -/
theorem mem_putAt_of_mem {α : Type} (i : Nat) (x : α) {y : α} {qs : List (List α)} (h : ∃ q ∈ qs, y ∈ q) : ∃ q ∈ putAt i x qs, y ∈ q := by
  fun_induction putAt i x qs with
  | case1 => simp at h
  | case2 x c q =>
    simp only [List.mem_cons, exists_eq_or_imp] at h ⊢
    exact h.imp_left (List.mem_append_left _)
  | case3 k x ih => simp at h
  | case4 k x c q ih =>
    simp only [List.mem_cons, exists_eq_or_imp] at h ⊢
    exact h.imp_right ih

/-- A block waits to be sent on lane n. -/
def Waits (n : Fin 64) (x : BitVec 256) (s : State) : Prop := ∃ q ∈ s.lanes[n].txq, x ∈ q

theorem sendBlock_waits (n : Fin 64) (x : BitVec 256) (s : State) : Waits n x (sendBlock n x s) := by
  rw [Waits, sendBlock, State.updLane_lanes, modAt_get]
  exact mem_putAt _ x _

theorem sendBlock_waits_of_waits {n : Fin 64} {y : BitVec 256} {s : State} (m : Fin 64) (x : BitVec 256) (h : Waits n y s) :
    Waits n y (sendBlock m x s) := by
  rw [Waits, sendBlock, State.updLane_lanes]
  by_cases hm : n = m
  · subst hm
    rw [modAt_get]
    exact mem_putAt_of_mem _ x h
  · rw [modAt_get_ne _ _ _ _ hm]
    exact h

/-- A block given to each of some lanes waits on every one of them. -/
theorem each_sendBlock_waits {n : Fin 64} {ns : List (Fin 64)} (hn : n ∈ ns) (x : BitVec 256) (s : State) : Waits n x (s.each ns fun m t => sendBlock m x t) :=
  State.each_reaches (I := fun _ => True) hn (fun _ _ _ => trivial) (fun t _ => sendBlock_waits n x t)
    (fun m _ _ h => sendBlock_waits_of_waits m x h) s trivial

theorem downIdles_of_running {p : Fin 16} {s : State} (hon : bitAt s.ports[p].ctl 31 = true) (hds : bitAt s.ports[p].ctl 28 = true)
    (hrun : s.ports[p].running = true) (hidle : s.ports[p].dsEidle = false) (hlead : s.ports[p].dsLead = none) :
    downIdles p s = (s.each (activeLanes s p) fun n t => sendBlock n (payload 0x12 [(8, 16)]) t).updPort p fun q => { q with dsLead := some 17 } := by
  simp [-Fin.getElem_fin, downIdles, hon, hds, hrun, hidle, hlead]

/-! ### The standby -/

/-- A port's upstream idle is all that settles with a lane's. -/
theorem settleUsIdle_port (n : Fin 64) (s : State) (p : Fin 16) :
    ∃ i k, (settleUsIdle n s).ports[p] = { s.ports[p] with usEidle := i, idleTold := k } := by
  cases ho : portOfLane s n with
  | none =>
    rw [settleUsIdle_of_free ho]
    exact ⟨_, _, rfl⟩
  | some o =>
    by_cases hp : p = o
    · subst hp
      exact ⟨_, _, by simp only [settleUsIdle, ho, State.updPort_ports, modAt_get]; rfl⟩
    · exact ⟨_, _, by simp only [settleUsIdle, ho, State.updPort_ports, modAt_get_ne _ _ _ _ hp]; rfl⟩

/-- Which port holds a lane is in the ports' control alone (R176). -/
theorem portOfLane_of_ctl {s t : State} (h : ∀ p : Fin 16, t.ports[p].ctl = s.ports[p].ctl) (n : Fin 64) : portOfLane t n = portOfLane s n := by
  simp only [portOfLane, h]

/-- Lane b is the standby of port p, which is running without a replay (R187, R198). -/
structure Stands (b : Fin 64) (p : Fin 16) (q : Port) : Prop where
  running : q.running = true
  standby : q.standbyLane = some b
  noRole : q.roles.contains b = false
  still : q.moving = false

/-- A standby that leaves its state takes no more of its port with it than its readiness (R198). -/
theorem moveLane_of_standby {b : Fin 64} {p : Fin 16} (t : TState) {s : State} (hport : portOfLane s b = some p) (h : Stands b p s.ports[p])
    (hready : s.ports[p].sbReady = false) :
    (moveLane b t s).ports[p].sbReady = false ∧ (moveLane b t s).ports[p].state = s.ports[p].state
      ∧ (moveLane b t s).ports[p].roles = s.ports[p].roles := by
  unfold moveLane
  dsimp only
  generalize hu : settleUsIdle b _ = u
  have hsettled (k : Fin 16) : ∃ i j, u.ports[k] = { s.ports[k] with usEidle := i, idleTold := j } := by
    obtain ⟨i, j, hk⟩ := settleUsIdle_port b ((enterT b t s).updLane b fun l => if t = .exchange then { l with offer := verMaxOf s b } else l) k
    rw [hu, State.updLane_ports, enterT_ports] at hk
    exact ⟨i, j, hk⟩
  have hsame : portOfLane u b = some p := by
    refine (portOfLane_of_ctl (fun k => ?_) b).trans hport
    obtain ⟨i, j, hk⟩ := hsettled k
    rw [hk]
  obtain ⟨i, j, hup⟩ := hsettled p
  have hrunning : u.ports[p].running = true := by
    rw [hup]
    exact h.running
  have hchanged : memberChanged b u = u := by
    unfold memberChanged portOfMember
    rw [hsame]
    split
    next o ho =>
      obtain ⟨hpo, -⟩ := Option.filter_eq_some_iff.mp ho
      cases hpo
      exact newAttempt_of_running hrunning
    next => rfl
  have hlost : memberLost b u = u.updPort p fun q => { q with sbReady := false } := by
    have hstands : u.ports[p].standbyLane = some b ∧ u.ports[p].roles.contains b = false ∧ u.ports[p].moving = false := by
      rw [hup]
      exact ⟨h.standby, h.noRole, h.still⟩
    obtain ⟨hstandby, hno, hstill⟩ := hstands
    have hno : b ∉ u.ports[p].roles := by simpa using hno
    simp [-Fin.getElem_fin, memberLost, hsame, hrunning, hstandby, hno, hstill]
  have hkept : u.ports[p].sbReady = false ∧ u.ports[p].state = s.ports[p].state ∧ u.ports[p].roles = s.ports[p].roles := by
    rw [hup]
    exact ⟨hready, rfl, rfl⟩
  have hfallen : (modAt u.ports p fun q => { q with sbReady := false })[p].sbReady = false
      ∧ (modAt u.ports p fun q => { q with sbReady := false })[p].state = s.ports[p].state
      ∧ (modAt u.ports p fun q => { q with sbReady := false })[p].roles = s.ports[p].roles := by
    rw [modAt_get]
    exact ⟨rfl, hkept.2⟩
  rw [hchanged, hlost]
  split
  · exact hkept
  · split
    · exact hfallen
    · exact hkept

theorem sendNow_ports (n : Fin 64) (xs : List (BitVec 256)) (s : State) : (sendNow n xs s).ports = s.ports := by
  unfold sendNow drive
  dsimp only
  split <;> rfl

/-- The standby named in LANE_FAULT loses its readiness, and no more changes of its port (R198, R206). -/
theorem standbyErrs_port {b : Fin 64} {p : Fin 16} {s : State} (hport : portOfLane s b = some p) (h : Stands b p s.ports[p]) :
    (standbyErrs p b s).ports[p].sbReady = false ∧ (standbyErrs p b s).ports[p].state = s.ports[p].state
      ∧ (standbyErrs p b s).ports[p].roles = s.ports[p].roles := by
  let u := s.updPort p fun q => { q with sbReady := false }
  have hu : u.ports[p] = { s.ports[p] with sbReady := false } := modAt_get s.ports p _
  have herrs : standbyErrs p b s = orderRetrain b u := by simp [-Fin.getElem_fin, standbyErrs, h.still, u]
  have hsame : (orderRetrain b u).ports[p].sbReady = false ∧ (orderRetrain b u).ports[p].state = u.ports[p].state
      ∧ (orderRetrain b u).ports[p].roles = u.ports[p].roles := by
    unfold orderRetrain retrain
    dsimp only
    split
    · split
      · generalize hv : sendNow b _ (sendNow b _ (leaveIdle b u)) = v
        have hports : v.ports = u.ports := by rw [← hv, sendNow_ports, sendNow_ports, leaveIdle_ports]
        have hvp : v.ports[p] = { s.ports[p] with sbReady := false } := by simp only [hports, hu]
        have hsame : portOfLane v b = some p := by
          refine (portOfLane_of_ctl (fun k => ?_) b).trans hport
          simp only [hports, u, State.updPort_ports]
          by_cases hk : k = p
          · rw [hk, modAt_get]
          · rw [modAt_get_ne _ _ _ _ hk]
        have hmoved := moveLane_of_standby .pattern hsame (hvp ▸ ⟨h.running, h.standby, h.noRole, h.still⟩) (by rw [hvp])
        rw [hvp] at hmoved
        rw [hu]
        exact hmoved
      · exact ⟨by rw [hu], rfl, rfl⟩
    · exact ⟨by rw [hu], rfl, rfl⟩
  rw [herrs]
  rw [hu] at hsame
  exact hsame

theorem laneFault_of_standby {n b : Fin 64} {p : Fin 16} {x : BitVec 256} {s : State} (hport : portOfLane s n = some p)
    (hrun : s.ports[p].running = true) (hver : s.ports[p].ver = 3) (hactive : s.lanes[n].tstate = .active) (hbit : bitAt x 11 = true)
    (hstandby : s.ports[p].standbyLane = some b) (hstill : s.ports[p].moving = false) : laneFault n x s = standbyErrs p b s := by
  simp [-Fin.getElem_fin, laneFault, hport, hrun, hver, hactive, hbit, hstandby, standbyFails, hstill]

end Sys2Proof.Machine
end

