-- ==== Sys2Proof/Proofs/AlignmentSending.lean ====
section
/-! The regular alignment codeword of a quadrant (R171, R174), and the settlement of the ports' timers and replays. -/

namespace Sys2Proof.Machine

open Sys2Proof

theorem quads_of_tally {s t : State} (h : t.tally = s.tally) : t.quads = s.quads := (congrArg Prod.snd h :)

/-! ### The group counters -/

/-- What a looped lane hears of its own alignment codeword changes no quadrant (R150, R175). -/
theorem hearAlignment_quads (n : Fin 64) (levels : List Level) (exit : Bool) (s : State) : (hearAlignment n levels exit s).quads = s.quads := by
  unfold hearAlignment
  dsimp only
  split
  · rfl
  · generalize ((s.lanes[n]).alignment levels exit s.coreTime) = o
    obtain ⟨l, e⟩ := o
    dsimp only
    have hadapted : (adaptLane n (s.updLane n fun _ => l)).quads = s.quads := rfl
    split
    · exact (quads_of_tally (lockLost_tally n _)).trans hadapted
    · have htried := (quads_of_tally (tryExchange_tally n (adaptLane n (s.updLane n fun _ => l)))).trans hadapted
      split
      · exact htried
      · split
        · exact (quads_of_tally (slotSeen_tally _ n _)).trans htried
        · exact htried

theorem emit_quads {n : Fin 64} {ps : List Level} {f : List Level → State → State} (hf : ∀ x t, (f x t).quads = t.quads) (s : State) :
    (emit n ps f s).quads = s.quads := by
  have hdriven : (drive n ps s).quads = s.quads := by
    unfold drive
    split <;> rfl
  unfold emit
  dsimp only
  split
  · exact (hf _ _).trans hdriven
  · exact hdriven

theorem sendAligned_quads (n : Fin 64) (pos : Nat) (s : State) : (sendAligned n pos s).quads = s.quads :=
  emit_quads (fun x t => hearAlignment_quads n x _ t) _

/-- The step of `sendAlignment` on one lane. -/
def alignLane (n : Fin 64) (s : State) : State :=
  let l := s.lanes[n]
  if runs s n && ! l.txIdle && fld l.ctl 30 29 != 2 && ! decide (1 ≤ fld l.ctl 26 24 ∧ fld l.ctl 26 24 ≤ 3)
      && (l.tstate == .lock || l.tstate == .exchange || l.tstate == .active) then
    sendAligned n 0 (s.updLane n fun l => { l with exitLeft := l.exitLeft - 1 })
  else s

/-- The step of `sendAlignment` on one port: a PAUSE ON is repeated (R195). -/
def repeatPause (p : Fin 16) (s : State) : State :=
  let k := s.ports[p]
  if k.paused then s.each (sendingLanes s p) fun n s => sendBlock n (pauseBlock true k.pseq) s else s

/-- Quadrant q at the start of a group (R171, R174). -/
def nextGroup (q : Fin 4) (s : State) : State :=
  { s with quads := modAt s.quads q fun k => { k with aseq := k.aseq + 1, alignSym := nextAlignSym k s.coreTime } }

theorem sendAlignment_eq (q : Fin 4) (s : State) : sendAlignment q s =
    ((nextGroup q s).each (lanesOf q) alignLane).each (portsOf ((nextGroup q s).each (lanesOf q) alignLane) q) repeatPause := rfl

theorem alignLane_quads (n : Fin 64) (s : State) : (alignLane n s).quads = s.quads := by
  unfold alignLane
  dsimp only
  split
  · exact sendAligned_quads n 0 _
  · rfl

theorem repeatPause_keeps (p : Fin 16) (s : State) : (repeatPause p s).quads = s.quads ∧ (repeatPause p s).tx = s.tx := by
  unfold repeatPause
  dsimp only
  split
  · let block := fun n t => sendBlock n (pauseBlock true s.ports[p].pseq) t
    exact ⟨State.each_keeps (·.quads) _ block (fun _ _ => rfl) s, State.each_keeps (·.tx) _ block (fun _ _ => rfl) s⟩
  · exact ⟨rfl, rfl⟩

theorem sendAlignment_quads (q : Fin 4) (s : State) : (sendAlignment q s).quads = (nextGroup q s).quads := by
  rw [sendAlignment_eq]
  exact (State.each_keeps (·.quads) _ _ (fun p t => (repeatPause_keeps p t).1) _).trans (State.each_keeps (·.quads) _ _ alignLane_quads _)

/-! ### The codeword on a lane -/

/-- A lane with the traces of its own alignment codewords set aside. -/
def Lane.steady (l : Lane) : Lane := { l with exitLeft := 0, txPrev := 0, scr := 0 }

/-- What an alignment codeword on one lane leaves of the device. -/
def State.steady (s : State) : (Fin 64 → Lane) × State := (fun k => s.lanes[k].steady, { s with lanes := Vector.replicate 64 {}, tx := [] })

/-- What an alignment codeword tells is steady through the others' (R172, R174). -/
theorem fieldBlock_of_steady {s t : State} (h : t.steady = s.steady) (n : Fin 64) (pos : Nat) : fieldBlock t n pos = fieldBlock s n pos := by
  have hlane : t.lanes[n].steady = s.lanes[n].steady := congrFun (congrArg Prod.fst h) n
  have hports : t.ports = s.ports := (congrArg (·.2.ports) h :)
  have hquads : t.quads = s.quads := (congrArg (·.2.quads) h :)
  have hlocked : t.lanes[n].locked = s.lanes[n].locked := (congrArg Lane.locked hlane :)
  have hver : t.lanes[n].ver = s.lanes[n].ver := (congrArg Lane.ver hlane :)
  have hshown : shownRole t n = shownRole s n := by simp only [shownRole, portOfLane_congr hports, hports]
  unfold fieldBlock
  dsimp only
  rw [hshown, hquads, hlocked, hver]

theorem runs_of_steady {s t : State} (h : t.steady = s.steady) (n : Fin 64) : runs t n = runs s n := by
  have hlane : t.lanes[n].steady = s.lanes[n].steady := congrFun (congrArg Prod.fst h) n
  have hreset : inReset (.lane n) t = inReset (.lane n) s := (congrArg (inReset (.lane n) ·.2) h :)
  have hstate : t.lanes[n].tstate = s.lanes[n].tstate := (congrArg Lane.tstate hlane :)
  simp only [runs, hreset, hstate]

/-- A change of one lane that its alignment codewords may make changes nothing steady. -/
theorem State.updLane_steady (s : State) (n : Fin 64) (f : Lane → Lane) (h : (f s.lanes[n]).steady = s.lanes[n].steady) :
    (s.updLane n f).steady = s.steady := by
  refine Prod.ext (funext fun k => ?_) rfl
  show (modAt s.lanes n f)[k].steady = s.lanes[k].steady
  by_cases hk : k = n
  · rw [hk, modAt_get, h]
  · rw [modAt_get_ne _ _ _ _ hk]

/-- Lane l after its regular alignment codeword, its scrambler set (R169, R171, R189). -/
def Lane.aligned (seed : BitVec 58) (l : Lane) : Lane := { l with exitLeft := l.exitLeft - 1, txPrev := 0, scr := seed }

theorem State.updLane_updLane (s : State) (n : Fin 64) (f g : Lane → Lane) : (s.updLane n f).updLane n g = s.updLane n fun l => g (f l) := by
  simp [State.updLane, modAt]

/-- A lane that is not looped sends on KTX, and hears nothing of it (R150). -/
theorem emit_of_unlooped {n : Fin 64} {s : State} (ps : List Level) (f : List Level → State → State) (h : fld s.lanes[n].ctl 30 29 = 0) :
    emit n ps f s = s.send (.symbols n (invertLevels s.lanes[n].txInv ps)) := by
  have hdrive : drive n ps s = s.send (.symbols n (invertLevels s.lanes[n].txInv ps)) := if_pos h
  unfold emit
  rw [hdrive, if_neg]
  show ¬ fld s.lanes[n].ctl 30 29 = 1
  omega

theorem sendAligned_of_unlooped {n : Fin 64} {s : State} (h : fld s.lanes[n].ctl 30 29 = 0) :
    ∃ seed, sendAligned n 0 (s.updLane n fun l => { l with exitLeft := l.exitLeft - 1 }) =
      (s.updLane n (Lane.aligned seed)).send (.symbols n (invertLevels s.lanes[n].txInv (alignmentLevels (fieldBlock s n 0)))) := by
  have hfield := fieldBlock_of_steady (s.updLane_steady n (fun l => { l with exitLeft := l.exitLeft - 1 }) rfl) n 0
  have hlane (seed : BitVec 58) : (s.updLane n (Lane.aligned seed)).lanes[n] = s.lanes[n].aligned seed := modAt_get s.lanes n _
  have hsent (ps : List Level) (f : List Level → State → State) (seed : BitVec 58) : emit n ps f (s.updLane n (Lane.aligned seed)) =
      (s.updLane n (Lane.aligned seed)).send (.symbols n (invertLevels s.lanes[n].txInv ps)) := by
    rw [emit_of_unlooped ps f (by rw [hlane]; exact h), hlane]
    rfl
  refine ⟨scrambleSeed n.1 0 s.quads[(Fin.ofNat 4 (n.1 / 16))].aseq.toNat, ?_⟩
  unfold sendAligned
  dsimp only
  rw [hfield, State.updLane_updLane]
  generalize alignmentLevels (fieldBlock s n 0) = ps
  exact hsent ps _ _

/-! ### The walk over a quadrant's lanes -/

/-- Lane n takes part in regular alignment codewords (R143, R163, R171). -/
structure Aligns (n : Fin 64) (s : State) : Prop where
  runs : runs s n = true
  awake : s.lanes[n].txIdle = false
  active : s.lanes[n].tstate = .active
  framed : fld s.lanes[n].ctl 26 24 = 0

/-- No lane is looped (R150). -/
def Unlooped (s : State) : Prop := ∀ k : Fin 64, fld s.lanes[k].ctl 30 29 = 0

theorem lane_of_steady {s t : State} (h : t.steady = s.steady) (n : Fin 64) : t.lanes[n].steady = s.lanes[n].steady := congrFun (congrArg Prod.fst h) n

theorem unlooped_of_steady {s t : State} (h : t.steady = s.steady) (hs : Unlooped s) : Unlooped t := fun k =>
  (congrArg (fld ·.ctl 30 29) (lane_of_steady h k) :).trans (hs k)

theorem aligns_of_steady {n : Fin 64} {s t : State} (h : t.steady = s.steady) (hs : Aligns n s) : Aligns n t where
  runs := (runs_of_steady h n).trans hs.runs
  awake := (congrArg Lane.txIdle (lane_of_steady h n) :).trans hs.awake
  active := (congrArg Lane.tstate (lane_of_steady h n) :).trans hs.active
  framed := (congrArg (fld ·.ctl 26 24) (lane_of_steady h n) :).trans hs.framed

/-- A lane's part in the walk is its codeword, or nothing. -/
theorem alignLane_cases (m : Fin 64) {s : State} (h : Unlooped s) : alignLane m s = s ∨ ∃ seed, alignLane m s =
    (s.updLane m (Lane.aligned seed)).send (.symbols m (invertLevels s.lanes[m].txInv (alignmentLevels (fieldBlock s m 0)))) := by
  unfold alignLane
  dsimp only
  split
  · exact .inr (sendAligned_of_unlooped (h m))
  · exact .inl rfl

theorem alignLane_of_aligns {n : Fin 64} {s : State} (h : Unlooped s) (hn : Aligns n s) : ∃ seed, alignLane n s =
    (s.updLane n (Lane.aligned seed)).send (.symbols n (invertLevels s.lanes[n].txInv (alignmentLevels (fieldBlock s n 0)))) := by
  unfold alignLane
  rw [if_pos (by simp [-Fin.getElem_fin, hn.runs, hn.awake, hn.active, hn.framed, h n])]
  exact sendAligned_of_unlooped (h n)

theorem alignLane_steady (m : Fin 64) {s : State} (h : Unlooped s) : (alignLane m s).steady = s.steady := by
  obtain hsame | ⟨seed, hsent⟩ := alignLane_cases m h
  · rw [hsame]
  · rw [hsent]
    exact s.updLane_steady m _ rfl

/-- A codeword that has left stays sent, and p(n-1) of its lane 0, through the other lanes' codewords. -/
def Left (n : Fin 64) (x : Tx) (s : State) : Prop := x ∈ s.tx ∧ s.lanes[n].txPrev = 0

theorem alignLane_left {n : Fin 64} {x : Tx} (m : Fin 64) {s : State} (h : Unlooped s) (hx : Left n x s) : Left n x (alignLane m s) := by
  obtain hsame | ⟨seed, hsent⟩ := alignLane_cases m h
  · rwa [hsame]
  · rw [hsent]
    refine ⟨List.mem_append_left _ hx.1, ?_⟩
    show (modAt s.lanes m (Lane.aligned seed))[n].txPrev = 0
    by_cases hm : n = m
    · rw [hm, modAt_get]
      rfl
    · rw [modAt_get_ne _ _ _ _ hm]
      exact hx.2

theorem repeatPause_left {n : Fin 64} {x : Tx} (p : Fin 16) {s : State} (hx : Left n x s) : Left n x (repeatPause p s) := by
  refine ⟨(repeatPause_keeps p s).2 ▸ hx.1, ?_⟩
  have hblock (m : Fin 64) (y : BitVec 256) (t : State) : (sendBlock m y t).lanes[n].txPrev = t.lanes[n].txPrev := by
    rw [sendBlock, State.updLane_lanes]
    by_cases hm : n = m
    · rw [hm, modAt_get]
      rfl
    · rw [modAt_get_ne _ _ _ _ hm]
  unfold repeatPause
  dsimp only
  split
  · exact (State.each_keeps (fun t => t.lanes[n].txPrev) _ (fun m t => sendBlock m (pauseBlock true s.ports[p].pseq) t) (fun m t => hblock m _ t) s).trans hx.2
  · exact hx.2

theorem mem_lanesOf {q : Fin 4} {n : Fin 64} (h : n.1 / 16 = q.1) : n ∈ lanesOf q := by
  refine List.mem_map.mpr ⟨n.1 % 16, List.mem_range.mpr (Nat.mod_lt _ (by omega)), ?_⟩
  have := n.2
  refine Fin.ext ?_
  simp
  omega

/-- The codeword of a lane that takes part leaves with what the device was at the start of the group. -/
theorem sendAlignment_left {q : Fin 4} {n : Fin 64} {s : State} (h : Unlooped (nextGroup q s)) (hn : Aligns n (nextGroup q s)) (hq : n.1 / 16 = q.1) :
    Left n (.symbols n (invertLevels s.lanes[n].txInv (alignmentLevels (fieldBlock (nextGroup q s) n 0)))) (sendAlignment q s) := by
  rw [sendAlignment_eq]
  refine State.each_ind _ _ _ (fun p t _ ht => repeatPause_left p ht) _ ?_
  refine State.each_reaches (I := fun t => t.steady = (nextGroup q s).steady) (mem_lanesOf hq) (fun m t ht => ?_) (fun t ht => ?_)
    (fun m t ht hx => alignLane_left m (unlooped_of_steady ht h) hx) _ rfl
  · exact (alignLane_steady m (unlooped_of_steady ht h)).trans ht
  · obtain ⟨seed, hsent⟩ := alignLane_of_aligns (unlooped_of_steady ht h) (aligns_of_steady ht hn)
    have hinv : t.lanes[n].txInv = s.lanes[n].txInv := (congrArg Lane.txInv (lane_of_steady ht n) :)
    rw [hsent, fieldBlock_of_steady ht, hinv]
    refine ⟨List.mem_append_right _ (List.mem_singleton_self _), ?_⟩
    show (modAt t.lanes n (Lane.aligned seed))[n].txPrev = 0
    rw [modAt_get]
    rfl

/-! ### The obligation -/

/-- A replay of port p: its request sent again, its time-out, and its start (R197, R199, R201). -/
theorem replayOfPort {p : Fin 16} {n : Fin 64} {r : Replay} {x : BitVec 256} {s : State} (h : s.ports[p].replay = some r) :
    (∃ t, exec (.replayTimeout p) s = .next t ∧ t.ports[p].state = .down ∧ t.ports[p].replay = none ∧ t.ports[p].sbReady = false)
    ∧ (Awaited n p r x s → bitAt x 65 = false → r.move = false → s.ports[p].owed = [] →
        ∃ t, exec (.replayStart n x) s = .next t ∧ t.ports[p].state = .up ∧ t.ports[p].replay = none ∧ t.ports[p].replays = satInc s.ports[p].replays
          ∧ t.ports[p].roles = s.ports[p].roles)
    ∧ (Awaited n p r x s → bitAt x 65 = true → ∃ t, exec (.replayStart n x) s = .next t ∧ t.ports[p].state = .down ∧ t.ports[p].replay = none) := by
  refine ⟨?_, fun hwait hbit hmove howed => ⟨_, rfl, ?_⟩, fun hwait hbit => ⟨_, rfl, ?_⟩⟩
  · have hexec : exec (.replayTimeout p) s = .next (settlePause (portDown p (r.failed.getD (s.ports[p].roles.headD 0)) s)) := by
      simp only [exec, execReplayTimeout, h]
    have hbond := settlePause_bond p (portDown p (r.failed.getD (s.ports[p].roles.headD 0)) s)
    obtain ⟨hdown, hreplay, hready⟩ := portDown_port p (r.failed.getD (s.ports[p].roles.headD 0)) s
    exact ⟨_, hexec, (Port.state_of_bond hbond).trans hdown, (Port.replay_of_bond hbond).trans hreplay, (Port.sbReady_of_bond hbond).trans hready⟩
  · have hbond := settlePause_bond p (replayStarts n x s)
    obtain ⟨hup, hreplay, hreplays, hroles⟩ := replayStarts_port hwait hbit hmove howed
    exact ⟨(Port.state_of_bond hbond).trans hup, (Port.replay_of_bond hbond).trans hreplay, (Port.replays_of_bond hbond).trans hreplays,
      (Port.roles_of_bond hbond).trans hroles⟩
  · have hbond := settlePause_bond p (replayStarts n x s)
    rw [replayStarts_of_refused hwait hbit] at hbond ⊢
    obtain ⟨hdown, hreplay, -⟩ := portDown_port p (r.failed.getD n) s
    exact ⟨(Port.state_of_bond hbond).trans hdown, (Port.replay_of_bond hbond).trans hreplay⟩

/-- Settles O35: replays and timers by their port's own step, EIDLE_ENTER and the alignment codeword by the walk that reaches each lane, the standby's
fault by what its lane's retrain leaves of the port (the symbol of the next group: log entry 23). -/
theorem portTimersAndReplays : Obligations.PortTimersAndReplays := by
  refine ⟨fun p n r x s h => ?_, fun p s => ⟨fun hon hmust htimer hup => ⟨_, rfl, ?_⟩, fun hidle hmax htold => ⟨_, rfl, ?_⟩,
    fun htold => congrArg _ (idleMaxExpires_of_told htold), fun hon hds hrun hidle hlead => ⟨_, rfl, ?_⟩,
    fun n x b hport hrun hver hactive hbit hstandby hbport hno hreplay => ⟨_, rfl, ?_⟩⟩, fun q s u hgood hu => ?_⟩
  · obtain ⟨htimeout, hstart, hrefused⟩ := replayOfPort (n := n) (x := x) h
    have hresend := execReplayReqResend_of_replay h
    refine ⟨fun hfew => ⟨_, hresend.trans (congrArg _ (if_pos hfew)), resent_keeps p r s⟩, fun hmany => hresend.trans (congrArg _ (if_neg hmany)), htimeout,
      fun hport hrun hrseq hactive => hstart ⟨h, hport, hrun, hrseq, hactive⟩, fun hport hrun hrseq hactive => hrefused ⟨h, hport, hrun, hrseq, hactive⟩⟩
  · obtain ⟨hports, hlanes, hheads⟩ := upTimeExpires_keeps hon hmust htimer hup
    rw [hports, modAt_get]
    exact ⟨rfl, rfl, rfl, hlanes, hheads⟩
  · obtain ⟨hports, hlanes, hheads⟩ := idleMaxExpires_keeps hidle hmax htold
    rw [hports, modAt_get]
    exact ⟨rfl, rfl, rfl, hlanes, hheads⟩
  · rw [downIdles_of_running hon hds hrun hidle hlead]
    have hports : (s.each (activeLanes s p) fun n t => sendBlock n (payload 0x12 [(8, 16)]) t).ports = s.ports :=
      State.each_keeps (·.ports) _ (fun n t => sendBlock n (payload 0x12 [(8, 16)]) t) (fun _ _ => rfl) s
    have hheads := heads_of_unsent (s.each_unsent (activeLanes s p) (fun n t => sendBlock n (payload 0x12 [(8, 16)]) t) fun _ _ => rfl)
    rw [State.updPort_ports, modAt_get, hports]
    exact ⟨rfl, hidle, fun n hn => each_sendBlock_waits hn _ s, rfl, hheads⟩
  · have hstill : s.ports[p].moving = false := by simp [-Fin.getElem_fin, Port.moving, hreplay]
    have hbond := settlePause_bond p (laneFault n x s)
    rw [laneFault_of_standby hport hrun hver hactive hbit hstandby hstill] at hbond ⊢
    obtain ⟨hready, hstate, hroles⟩ := standbyErrs_port hbport ⟨hrun, hstandby, hno, hstill⟩
    exact ⟨(Port.sbReady_of_bond hbond).trans hready, (Port.state_of_bond hbond).trans hstate, (Port.roles_of_bond hbond).trans hroles⟩
  · have hexec : exec (.regularAlignmentSend q) s = .next (sendAlignment q s) := by simp only [exec, execRegularAlignmentSend, hgood, if_true]
    have hgroup : u = nextGroup q s := hu
    rw [hgroup]
    exact ⟨_, hexec, sendAlignment_quads q s, fun hloops n hq hruns hawake hactive hframed =>
      sendAlignment_left (s := s) hloops ⟨hruns, hawake, hactive, hframed⟩ hq⟩

end Sys2Proof.Machine
end

