-- ==== Sys2Proof/Proofs/CodewordReception.lean ====
section
/-! What a lane makes of the levels of a data codeword, and what its port's stream makes of IDLE blocks (R146, R148, R152, R165 to R170, R174, R178). -/

namespace Sys2Proof.Machine

open Sys2Proof

/-! ### Counters -/

theorem codewords_of_tally {s t : State} (h : t.tally = s.tally) (n : Fin 64) : t.lanes[n].codewords = s.lanes[n].codewords :=
  congrFun (congrArg Prod.fst h) n

/-- The codeword counters of a lane's counters. -/
def LaneCnt.codewords (c : LaneCnt) : BitVec 48 × BitVec 48 × BitVec 48 × BitVec 48 := (c.cwTotal, c.cwCorr, c.cwUncorr, c.corrSym)

theorem checkBit_codewords (pat : Nat) (q : Checker × LaneCnt) (b : Bool) : (checkBit pat q b).2.codewords = q.2.codewords := by
  unfold checkBit
  dsimp only
  (repeat' split) <;> rfl

/-- A pattern that is checked counts no codeword (R148, R152). -/
theorem checkBits_codewords (pat : Nat) (bs : List Bool) (q : Checker × LaneCnt) : (checkBits pat bs q).2.codewords = q.2.codewords := by
  unfold checkBits
  induction bs generalizing q with
  | nil => rfl
  | cons b r ih => exact (ih _).trans (checkBit_codewords pat q b)

theorem Lane.check_codewords (l : Lane) (bs : List Bool) : (l.check bs).codewords = l.codewords := by
  show (if l.hold then l.cnt else (checkBits (fld l.ctl 23 21) bs (l.chk, l.cnt)).2).codewords = l.cnt.codewords
  split
  · rfl
  · exact checkBits_codewords _ bs _

/-! ### Decoding -/

/-- An uncorrectable codeword is counted as one (R152, R168). -/
theorem Lane.decode_of_none {l : Lane} {bits : List Bool} (hhold : l.hold = false) (h : rsDecode (symbolsOf bits) = none) :
    (l.decode bits).1.codewords = (satInc l.cnt.cwTotal, l.cnt.cwCorr, satInc l.cnt.cwUncorr, l.cnt.corrSym) := by
  simp [-List.reduceReplicate, Lane.decode, h, Lane.count, hhold]

/-- A corrected codeword and its errors, counted (R152, R174). -/
def Lane.corrected (l : Lane) (errs : List (Nat × Nat)) : Lane :=
  let k := { l with rxIndex := l.rxIndex + 1 }.count fun c => { c with cwTotal := satInc c.cwTotal }
  if errs.isEmpty then k else k.count fun c =>
    { c with cwCorr := satInc c.cwCorr, corrSym := satAdd c.corrSym errs.length, corrBits := satAdd c.corrBits (errs.map fun e => weight10 e.2).sum }

/-- Its blocks, taken apart with the scrambler at st (R146, R165 to R169). -/
def Lane.unpacked (l : Lane) (flips : Nat) (bs : List (Bool × BitVec 256)) (st : BitVec 58) : Lane :=
  let k := { l with uncorrRun := 0, winCorr := l.winCorr + flips, descr := st, idleCount := if bs.all isIdle then l.idleCount + 1 else 0 }
  let k := k.count fun c => { c with unkBlk := satAdd c.unkBlk (bs.filter (isUnknown k.ver.1)).length }
  if fld k.ctl 23 21 = 4 then k.check ((bs.filter fun b => ! b.1).flatMap fun b => bitsLow 256 b.2.toNat) else k

theorem Lane.count_frame (l : Lane) (f : LaneCnt → LaneCnt) : l.count f = { l with cnt := (l.count f).cnt } := by
  unfold Lane.count
  split <;> rfl

theorem Lane.corrected_frame (l : Lane) (errs : List (Nat × Nat)) :
    l.corrected errs = { l with rxIndex := l.rxIndex + 1, cnt := (l.corrected errs).cnt } := by
  unfold Lane.corrected
  dsimp only
  split
  · exact Lane.count_frame _ _
  · rw [Lane.count_frame, Lane.count_frame { l with rxIndex := l.rxIndex + 1 }]

theorem Lane.corrected_codewords {l : Lane} (h : l.hold = false) (errs : List (Nat × Nat)) : (l.corrected errs).codewords =
    (satInc l.cnt.cwTotal, if errs = [] then l.cnt.cwCorr else satInc l.cnt.cwCorr, l.cnt.cwUncorr,
      if errs = [] then l.cnt.corrSym else satAdd l.cnt.corrSym errs.length) := by
  unfold Lane.corrected
  cases errs <;> simp [Lane.count, h]

/-- Nothing that is taken from its blocks moves the lane's place in the group, its stream's slots or a codeword counter. -/
theorem Lane.unpacked_keeps (l : Lane) (flips : Nat) (bs : List (Bool × BitVec 256)) (st : BitVec 58) :
    (l.unpacked flips bs st).codewords = l.codewords ∧ (l.unpacked flips bs st).rxAseq = l.rxAseq ∧ (l.unpacked flips bs st).rxIndex = l.rxIndex
      ∧ (l.unpacked flips bs st).slots = l.slots ∧ (l.unpacked flips bs st).idleCount = if bs.all isIdle then l.idleCount + 1 else 0 := by
  unfold Lane.unpacked
  dsimp only
  generalize hk : Lane.count _ _ = k
  have hkeeps : k.codewords = l.codewords ∧ k.rxAseq = l.rxAseq ∧ k.rxIndex = l.rxIndex ∧ k.slots = l.slots
      ∧ k.idleCount = if bs.all isIdle then l.idleCount + 1 else 0 := by
    refine ⟨?_, ?_⟩
    · rw [← hk, Lane.count_codewords rfl]
    · rw [← hk, Lane.count_frame]
      exact ⟨rfl, rfl, rfl, rfl⟩
  split
  · exact ⟨(Lane.check_codewords k _).trans hkeeps.1, hkeeps.2⟩
  · exact hkeeps

/-- The blocks of a corrected codeword (R165, R168, R169). -/
def Lane.blocks (l : Lane) (fixed : List Nat) : List (Bool × BitVec 256) := blocksOf (scramble l.descr (messageBits fixed)).1

/-- A codeword whose symbols are corrected is counted with its errors, and its blocks are taken apart; the lane keeps its place in the group and what
its port's stream has still to take (R152, R168, R174). -/
theorem Lane.decode_of_some {l : Lane} {bits : List Bool} {fixed : List Nat} {errs : List (Nat × Nat)} (hhold : l.hold = false)
    (h : rsDecode (symbolsOf bits) = some (fixed, errs)) : ∃ m : Lane, l.decode bits = (m, .blocks (l.blocks fixed))
      ∧ m.codewords = (satInc l.cnt.cwTotal, if errs = [] then l.cnt.cwCorr else satInc l.cnt.cwCorr, l.cnt.cwUncorr,
        if errs = [] then l.cnt.corrSym else satAdd l.cnt.corrSym errs.length)
      ∧ m.rxAseq = l.rxAseq ∧ m.rxIndex = l.rxIndex + 1 ∧ m.slots = l.slots
      ∧ m.idleCount = if (l.blocks fixed).all isIdle then l.idleCount + 1 else 0 := by
  have hkept : (l.corrected errs).descr = l.descr ∧ (l.corrected errs).rxAseq = l.rxAseq ∧ (l.corrected errs).rxIndex = l.rxIndex + 1
      ∧ (l.corrected errs).slots = l.slots ∧ (l.corrected errs).idleCount = l.idleCount := by
    rw [Lane.corrected_frame]
    exact ⟨rfl, rfl, rfl, rfl, rfl⟩
  obtain ⟨hdescr, hkaseq, hkindex, hkslots, hkidle⟩ := hkept
  have hdecode : l.decode bits = ((l.corrected errs).unpacked (errs.map fun e => weight10 e.2).sum (l.blocks fixed) (scramble l.descr (messageBits fixed)).2,
      .blocks (l.blocks fixed)) := by
    rw [Lane.blocks, ← hdescr, Lane.decode, h]
    rfl
  obtain ⟨hcount, haseq, hindex, hslots, hidle⟩ :=
    (l.corrected errs).unpacked_keeps (errs.map fun e => weight10 e.2).sum (l.blocks fixed) (scramble l.descr (messageBits fixed)).2
  rw [hkidle] at hidle
  exact ⟨_, hdecode, hcount.trans (Lane.corrected_codewords hhold errs), haseq.trans hkaseq, hindex.trans hkindex, hslots.trans hkslots, hidle⟩

/-! ### What the lane makes of the levels -/

theorem Lane.codeword_of_locked {l : Lane} (levels : List Level) (hframed : l.unframed = false) (hlocked : l.locked = true) :
    l.codeword levels = { l with rxPrev := lastLevel l.rxPrev (l.sliced levels) }.decode (bitsOf l.rxPrev (l.sliced levels)) := by
  have hsame : { l with rxPrev := lastLevel l.rxPrev (l.sliced levels) }.unframed = false
      ∧ { l with rxPrev := lastLevel l.rxPrev (l.sliced levels) }.locked = true := ⟨hframed, hlocked⟩
  unfold Lane.codeword
  simp only [hsame, Bool.not_true, Bool.false_eq_true, if_false]

/-- Levels of an unframed pattern go to the checker (R148). -/
theorem Lane.codeword_of_unframed {l : Lane} (levels : List Level) (h : l.unframed = true) :
    l.codeword levels = ({ l.check (bitsOf l.rxPrev (l.sliced levels)) with rxPrev := lastLevel l.rxPrev (l.sliced levels) }, .nothing) := by
  have hsame : { l with rxPrev := lastLevel l.rxPrev (l.sliced levels) }.unframed = true := h
  unfold Lane.codeword
  simp only [hsame, if_true]
  rfl

/-- Nothing that follows a codeword's own decoding counts a codeword (R152). -/
theorem hearCodeword_tally {n : Fin 64} (levels : List Level) {s : State} (hruns : runs s n = true) (hsym : s.lanes[n].symLock = true) :
    (hearCodeword n levels s).tally = (s.updLane n fun _ => (s.lanes[n].codeword levels).1).tally := by
  unfold hearCodeword
  simp only [hruns, hsym, Bool.not_true, Bool.or_self, Bool.false_eq_true, if_false]
  generalize s.lanes[n].codeword levels = o
  obtain ⟨l, h⟩ := o
  cases h with
  | nothing => simp only [adaptLane_tally]
  | bad => simp only [State.ite_tally, lockLost_tally, joinStream_tally, badCodeword_tally, adaptLane_tally, ite_self]
  | blocks bs => simp only [State.ite_tally, leadPasses_tally, joinStream_tally, linkBlocks_tally, adaptLane_tally, ite_self]

/-! ### IDLE blocks -/

theorem linkBlock_of_idle (n : Fin 64) {x : BitVec 256} (s : State) (h : fld x 7 0 = 0) : linkBlock n x s = s := by
  simp [linkBlock, h]

/-- IDLE blocks tell a link nothing (R166). -/
theorem linkBlocks_of_idle (n : Fin 64) {bs : List (Bool × BitVec 256)} (s : State) (h : bs.all isIdle = true) : linkBlocks n bs s = s := by
  refine State.each_ind (fun t => t = s) bs _ (fun b t hb ht => ?_) s rfl
  have hidle := List.all_eq_true.mp h b hb
  simp only [isIdle, Bool.and_eq_true, beq_iff_eq] at hidle
  subst ht
  split
  · exact linkBlock_of_idle n t hidle.2
  · rfl

theorem streamBlock_of_idle (p : Fin 16) {b : Bool × BitVec 256} (s : State) (h : isIdle b = true) : streamBlock p b s = s := by
  simp only [isIdle, Bool.and_eq_true, beq_iff_eq] at h
  simp [streamBlock, h]

/-- A stream of one lane takes the lane's own blocks (R178). -/
theorem mem_of_mem_interleave {bs : List (Bool × BitVec 256)} {b : Bool × BitVec 256} (h : b ∈ interleave [bs]) : b ∈ bs := by
  simp only [interleave, List.mem_flatMap, List.filterMap_cons, List.filterMap_nil] at h
  obtain ⟨k, -, hk⟩ := h
  split at hk
  · cases hk
  · next a ha =>
    rw [List.mem_singleton.mp hk]
    exact List.mem_of_getElem? ha

/-- IDLE blocks of a one-lane stream are taken and no more (R166, R178). -/
theorem streamBlocks_of_idle (p : Fin 16) {bs : List (Bool × BitVec 256)} (s : State) (h : bs.all isIdle = true) :
    s.each (interleave [bs]) (streamBlock p) = s :=
  State.each_ind (fun t => t = s) _ _ (fun b t hb ht =>
    (streamBlock_of_idle p t (List.all_eq_true.mp h b (mem_of_mem_interleave hb))).trans ht) s rfl

/-- A slot of IDLE blocks leaves a one-lane stream as it was, but one slot on. -/
theorem takeSlot_of_idle {p : Fin 16} {n : Fin 64} {c : Nat} {bs : List (Bool × BitVec 256)} {s : State} (hroles : s.ports[p].roles = [n])
    (hslots : s.lanes[n].slots = [(c, some bs)]) (h : bs.all isIdle = true) :
    takeSlot p c s = (s.updLane n fun l => { l with slots := l.slots.dropWhile fun e => e.1 == c }).updPort p fun q =>
      { q with nextSlot := (c + 1) % 2 ^ 42, replayedTo := q.replayedTo.filter fun t => cseqUpTo c t } := by
  unfold takeSlot
  simp only [hroles, hslots, List.map_cons, List.map_nil, if_true, List.find?_cons, List.find?_nil, State.each_cons, State.each_nil, Option.bind_some,
    Option.getD_some]
  exact streamBlocks_of_idle p _ h

/-- A codeword of IDLE blocks is taken at once by the one-lane stream it joins (R166, R178). -/
theorem joinStream_of_idle {p : Fin 16} {n : Fin 64} {c : Nat} {bs : List (Bool × BitVec 256)} {s : State} (hport : portOfLane s n = some p)
    (hrun : s.ports[p].running = true) (hreplay : s.ports[p].replay = none) (hroles : s.ports[p].roles = [n]) (hslots : s.lanes[n].slots = [])
    (hc : cseqUpTo s.ports[p].nextSlot c = true) (h : bs.all isIdle = true) :
    (joinStream n c (some bs) s).ports[p].nextSlot = (c + 1) % 2 ^ 42 ∧ (joinStream n c (some bs) s).lanes[n] = s.lanes[n]
      ∧ (joinStream n c (some bs) s).heads = s.heads := by
  let u := s.updLane n fun l => { l with slots := l.slots ++ [(c, some bs)] }
  have hu : u.lanes[n] = { s.lanes[n] with slots := [(c, some bs)] } := by
    simp only [u, State.updLane_lanes, modAt_get, hslots, List.nil_append]
  have huslots : u.lanes[n].slots = [(c, some bs)] := by rw [hu]
  have hjoin : joinStream n c (some bs) s = assemble p 1 u := by
    simp [-Fin.getElem_fin, joinStream, hport, hrun, hreplay, hroles, hc, u, hslots]
  have hnext : nextComplete u p = some c := by
    have hroles : u.ports[p].roles = [n] := hroles
    simp [-Fin.getElem_fin, nextComplete, hroles, oldestSlot, huslots]
  have htake : assemble p 1 u = takeSlot p c u := by
    simp only [assemble, hnext]
  have hempty : ({ u.lanes[n] with slots := u.lanes[n].slots.dropWhile fun e => e.1 == c } : Lane) = s.lanes[n] := by
    have heta : ({ s.lanes[n] with slots := [] } : Lane) = s.lanes[n] := by rw [← hslots]
    rw [hu]
    simpa [-Fin.getElem_fin] using heta
  rw [hjoin, htake, takeSlot_of_idle (s := u) hroles huslots h]
  refine ⟨?_, ?_, rfl⟩
  · rw [State.updPort_ports, modAt_get]
  · show (modAt u.lanes n _)[n] = s.lanes[n]
    rw [modAt_get, hempty]

/-! ### The codeword heard -/

/-- The lane that has just received symbols adapts on them (R140). -/
theorem adaptLane_lane (n : Fin 64) (s : State) : (adaptLane n s).lanes[n] = s.lanes[n].adapt fun i => Config.freeNat (s.draw + i) :=
  modAt_get s.lanes n _

theorem hearCodeword_of_unframed {n : Fin 64} (levels : List Level) {s : State} (hruns : runs s n = true) (hsym : s.lanes[n].symLock = true)
    (h : s.lanes[n].unframed = true) : hearCodeword n levels s = adaptLane n (s.updLane n fun l =>
      { l.check (bitsOf s.lanes[n].rxPrev (s.lanes[n].sliced levels)) with rxPrev := lastLevel s.lanes[n].rxPrev (s.lanes[n].sliced levels) }) := by
  have hlane (f : Lane → Lane) : (s.updLane n fun _ => f s.lanes[n]) = s.updLane n f := by simp [State.updLane, modAt]
  rw [← hlane]
  simp [-Fin.getElem_fin, hearCodeword, hruns, hsym, Lane.codeword_of_unframed levels h]

/-- Blocks heard outside an announced idle reach the links and the stream (R178). -/
theorem hearCodeword_of_blocks {n : Fin 64} {levels : List Level} {m : Lane} {bs : List (Bool × BitVec 256)} {s : State} (hruns : runs s n = true)
    (hsym : s.lanes[n].symLock = true) (hlead : s.lanes[n].idleLead = none) (h : s.lanes[n].codeword levels = (m, .blocks bs)) :
    hearCodeword n levels s = joinStream n m.cseq (some bs) (linkBlocks n bs (adaptLane n (s.updLane n fun _ => m))) := by
  simp [-Fin.getElem_fin, hearCodeword, hruns, hsym, hlead, h]

/-- CSEQ of a data codeword is that of the place it was received in (R174). -/
theorem Lane.cseq_of_next {l : Lane} {a i : Nat} (haseq : l.rxAseq = a) (hindex : l.rxIndex = i + 1) : l.cseq = (a * 1024 + i) % 2 ^ 42 := by
  rw [Lane.cseq, haseq, hindex]
  omega

theorem cseqUpTo_mod (a b : Nat) : cseqUpTo a (b % 2 ^ 42) = cseqUpTo a b := by
  have h : (b % 2 ^ 42 + 2 ^ 42 - a % 2 ^ 42) % 2 ^ 42 = (b + 2 ^ 42 - a % 2 ^ 42) % 2 ^ 42 := by omega
  rw [cseqUpTo, h, cseqUpTo]

/-- A codeword of IDLE blocks moves a one-lane port's stream on by a slot (R166, R174, R178). -/
theorem hearCodeword_of_idle {p : Fin 16} {n : Fin 64} {levels : List Level} {fixed : List Nat} {errs : List (Nat × Nat)} {s : State}
    (hruns : runs s n = true) (hsym : s.lanes[n].symLock = true) (hframed : s.lanes[n].unframed = false) (hlocked : s.lanes[n].locked = true)
    (hhold : s.lanes[n].hold = false) (hlead : s.lanes[n].idleLead = none)
    (h : rsDecode (symbolsOf (bitsOf s.lanes[n].rxPrev (s.lanes[n].sliced levels))) = some (fixed, errs))
    (hidle : (s.lanes[n].blocks fixed).all isIdle = true) (hport : portOfLane s n = some p) (hrun : s.ports[p].running = true)
    (hreplay : s.ports[p].replay = none) (hroles : s.ports[p].roles = [n]) (hslots : s.lanes[n].slots = [])
    (hc : cseqUpTo s.ports[p].nextSlot (s.lanes[n].rxAseq * 1024 + s.lanes[n].rxIndex) = true) :
    (hearCodeword n levels s).ports[p].nextSlot = (s.lanes[n].rxAseq * 1024 + s.lanes[n].rxIndex + 1) % 2 ^ 42
      ∧ (hearCodeword n levels s).lanes[n].slots = [] ∧ (hearCodeword n levels s).lanes[n].idleCount = s.lanes[n].idleCount + 1
      ∧ (hearCodeword n levels s).heads = s.heads := by
  obtain ⟨m, hdecode, -, haseq, hindex, hmslots, hcount⟩ :=
    Lane.decode_of_some (l := { s.lanes[n] with rxPrev := lastLevel s.lanes[n].rxPrev (s.lanes[n].sliced levels) }) hhold h
  have hcodeword : s.lanes[n].codeword levels = (m, .blocks (s.lanes[n].blocks fixed)) := (Lane.codeword_of_locked levels hframed hlocked).trans hdecode
  have hcseq : m.cseq = (s.lanes[n].rxAseq * 1024 + s.lanes[n].rxIndex) % 2 ^ 42 := Lane.cseq_of_next haseq hindex
  let u := adaptLane n (s.updLane n fun _ => m)
  have hlane : u.lanes[n] = m.adapt fun i => Config.freeNat (s.draw + i) := by
    rw [adaptLane_lane, State.updLane_lanes, modAt_get]
    rfl
  have huslots : u.lanes[n].slots = [] := by
    rw [hlane, Lane.adapt_frame]
    exact hmslots.trans hslots
  have hucount : u.lanes[n].idleCount = s.lanes[n].idleCount + 1 := by
    rw [hlane, Lane.adapt_frame]
    exact hcount.trans (if_pos hidle)
  have hhear : hearCodeword n levels s = joinStream n m.cseq (some (s.lanes[n].blocks fixed)) u := by
    rw [hearCodeword_of_blocks hruns hsym hlead hcodeword, linkBlocks_of_idle n _ hidle]
  have hwanted : cseqUpTo u.ports[p].nextSlot m.cseq = true := by
    rw [hcseq, cseqUpTo_mod]
    exact hc
  obtain ⟨hnext, hkept, hheads⟩ := joinStream_of_idle (s := u) hport hrun hreplay hroles huslots hwanted hidle
  rw [hhear, hkept, hnext]
  refine ⟨?_, huslots, hucount, hheads⟩
  rw [hcseq]
  omega

end Sys2Proof.Machine
end

