-- ==== Sys2Proof/Proofs/AlignmentReception.lean ====
section
/-! What a lane with codeword lock makes of an alignment codeword, and what it keeps of it through all that follows; the settlement of the reception of
codewords (R145, R152, R171 to R178, R182). -/

namespace Sys2Proof.Machine

open Sys2Proof

/-- What a lane has taken from its alignment codewords: group number, lane identity, codewords missed, its lock, and the window's count (R173, R175). -/
def Lane.heard (l : Lane) : Nat × Nat × Nat × CwLock × Nat := (l.rxAseq, l.rxLid, l.missed, l.cwLock, l.winUncorr)

theorem Lane.heard_congr {l k : Lane} (haseq : l.rxAseq = k.rxAseq) (hlid : l.rxLid = k.rxLid) (hmissed : l.missed = k.missed)
    (hlock : l.cwLock = k.cwLock) (hwin : l.winUncorr = k.winUncorr) : l.heard = k.heard := by
  rw [Lane.heard, haseq, hlid, hmissed, hlock, hwin, Lane.heard]

/-! ### The lane's own step -/

/-- A lane counted as having had one more codeword (R152). -/
def Lane.counted (l : Lane) : Lane := { l with rxPrev := 0, cnt := { l.cnt with cwTotal := satInc l.cnt.cwTotal } }

/-- A lane with codeword lock counts every alignment codeword, and needs no comma to find it (R152, R175). -/
theorem Lane.alignment_of_copy {l : Lane} {levels : List Level} {c : BitVec 80} (exit : Bool) (now : Nat) (hlock : l.cwLock = .locked)
    (hframed : l.unframed = false) (hhold : l.hold = false) (h : validCopy (copiesIn (l.sliced levels)) = some c) :
    l.alignment levels exit now = l.counted.readAlignment c now := by
  have hlocked : l.locked = true := by simp [Lane.locked, hlock]
  simp [Lane.alignment, hlocked, hframed, hlock, Lane.count, hhold, h, Lane.counted]

theorem Lane.alignment_of_missed {l : Lane} {levels : List Level} (exit : Bool) (now : Nat) (hlock : l.cwLock = .locked)
    (hframed : l.unframed = false) (hhold : l.hold = false) (h : validCopy (copiesIn (l.sliced levels)) = none) :
    l.alignment levels exit now = { l.counted with cnt := { l.counted.cnt with cwUncorr := satInc l.cnt.cwUncorr } }.blindAlignment exit := by
  have hlocked : l.locked = true := by simp [Lane.locked, hlock]
  simp [Lane.alignment, hlocked, hframed, hlock, Lane.count, hhold, h, Lane.counted]

/-- A valid field block at a regular position gives group number and lane identity, and the lock stays (R173, R175). -/
theorem Lane.readAlignment_of_regular {l : Lane} {c : BitVec 80} (now : Nat) (hlock : l.cwLock = .locked) (hpos : fld c 41 32 = 0) :
    (l.readAlignment c now).2 = .none ∧ (l.readAlignment c now).1.rxPos = 0
      ∧ (l.readAlignment c now).1.heard = (fld c 31 0, fld c 47 42, 0, .locked, l.winUncorr) ∧ (l.readAlignment c now).1.codewords = l.codewords := by
  simp [Lane.readAlignment, Lane.heard, hlock, hpos, nextLock]

/-- A regular position without a valid copy is missed: the group number goes on, and the lock holds below four in a row (R174, R175). -/
theorem Lane.blindAlignment_of_regular {l : Lane} (hlock : l.cwLock = .locked) (hmissed : l.missed < 3) :
    (l.blindAlignment false).2 = .none ∧ (l.blindAlignment false).1.rxPos = 0
      ∧ (l.blindAlignment false).1.heard = ((l.rxAseq + 1) % 2 ^ 32, l.rxLid, l.missed + 1, .locked, l.winUncorr)
      ∧ (l.blindAlignment false).1.codewords = l.codewords := by
  have hlocked : l.locked = true := by simp [Lane.locked, hlock]
  have hfew : ¬ 4 ≤ l.missed + 1 := by omega
  simp [Lane.blindAlignment, Lane.heard, hlock, hlocked, hfew, nextLock]

/-! ### What follows an alignment codeword -/

/-- What every lane has taken from its alignment codewords. -/
def State.heard (s : State) (k : Fin 64) : Nat × Nat × Nat × CwLock × Nat := s.lanes[k].heard

theorem State.heard_congr {s t : State} (h : t.lanes = s.lanes) : t.heard = s.heard := by
  funext k
  rw [State.heard, h, State.heard]

theorem State.updLane_heard (s : State) (n : Fin 64) (f : Lane → Lane) (h : (f s.lanes[n]).heard = s.lanes[n].heard) : (s.updLane n f).heard = s.heard := by
  funext k
  by_cases hk : k = n
  · rw [hk, State.heard, State.updLane_lanes, modAt_get, h, State.heard]
  · rw [State.heard, State.updLane_lanes, modAt_get_ne _ _ _ _ hk, State.heard]

theorem dropSlots_heard (p : Fin 16) (s : State) : (dropSlots p s).heard = s.heard :=
  State.each_keeps State.heard (ctlLanes s.ports[p].ctl) (fun n t => t.updLane n fun l => { l with slots := [] }) (fun n t => t.updLane_heard n _ rfl) s

theorem tryStandby_lanes (p : Fin 16) (passed : Bool) (s : State) : (tryStandby p passed s).lanes = s.lanes := by
  unfold tryStandby
  dsimp only
  (repeat' split) <;> rfl

/-- A port that forms drops the codewords under way, and nothing else of a lane (R177, R204). -/
theorem formPort_heard (p : Fin 16) (s : State) : (formPort p s).heard = s.heard := by
  unfold formPort
  dsimp only
  split
  · rfl
  · rw [State.heard_congr (tryStandby_lanes _ _ _), State.heard_congr (publish_lanes _ _), State.heard_congr (setPState_lanes _ _ _), dropSlots_heard]
    rfl

theorem slotSeen_heard (p : Fin 16) (n : Fin 64) (s : State) : (slotSeen p n s).heard = s.heard := by
  unfold slotSeen
  dsimp only
  split
  · exact State.heard_congr (tryStandby_lanes _ _ _)
  · split
    · rfl
    · split
      · rfl
      · split
        · exact formPort_heard p s
        · split
          · rfl
          · exact State.heard_congr (publish_lanes _ _)

theorem Lane.enter_exchange_heard (l : Lane) : (l.enter .exchange).heard = l.heard := Lane.heard_congr rfl rfl rfl rfl rfl

theorem Lane.offer_heard (l : Lane) (v : Nat) : ({ l with offer := v } : Lane).heard = l.heard := Lane.heard_congr rfl rfl rfl rfl rfl

/-- A lane that goes on to Exchange keeps what its alignment codewords gave (R182). -/
theorem tryExchange_heard (n : Fin 64) (s : State) : (tryExchange n s).heard n = s.heard n := by
  unfold tryExchange
  dsimp only
  split
  next h =>
    have hactive : s.lanes[n].tstate ≠ .active := by
      rw [h.1]
      exact TState.noConfusion
    rw [State.heard, (moveLane_of_not_active .exchange hactive).2, modAt_get, if_pos rfl, Lane.offer_heard, enterT_lanes_of_ne n s TState.noConfusion,
      modAt_get, Lane.enter_exchange_heard, State.heard]
  next => rfl

/-- An alignment codeword that leaves the lock standing at a regular position is all that the lane takes from it, whatever follows (R175, R177, R182). -/
theorem hearAlignment_heard {n : Fin 64} {levels : List Level} {exit : Bool} {s : State} {l : Lane} (hruns : runs s n = true)
    (hsym : s.lanes[n].symLock = true) (hstate : s.lanes[n].tstate = .lock ∨ s.lanes[n].tstate = .exchange ∨ s.lanes[n].tstate = .active)
    (h : s.lanes[n].alignment levels exit s.coreTime = (l, .none)) (hpos : l.rxPos = 0) :
    (hearAlignment n levels exit s).lanes[n].heard = l.heard ∧ (hearAlignment n levels exit s).lanes[n].codewords = l.codewords := by
  have hadapted : (adaptLane n (s.updLane n fun _ => l)).lanes[n] = l.adapt fun i => Config.freeNat (s.draw + i) := by
    rw [adaptLane_lane, State.updLane_lanes, modAt_get]
    rfl
  have hheard : (tryExchange n (adaptLane n (s.updLane n fun _ => l))).lanes[n].heard = l.heard := by
    refine (tryExchange_heard n _).trans ?_
    rw [State.heard, hadapted, Lane.adapt_frame]
    exact Lane.heard_congr rfl rfl rfl rfl rfl
  have hcount : (tryExchange n (adaptLane n (s.updLane n fun _ => l))).lanes[n].codewords = l.codewords := by
    refine (codewords_of_tally (tryExchange_tally n _) n).trans ?_
    rw [hadapted, Lane.adapt_codewords]
  have htstate : (s.lanes[n].tstate == .lock || s.lanes[n].tstate == .exchange || s.lanes[n].tstate == .active) = true := by
    obtain h | h | h := hstate <;> simp [-Fin.getElem_fin, h]
  generalize hu : tryExchange n (adaptLane n (s.updLane n fun _ => l)) = u at hheard hcount
  have hhear : hearAlignment n levels exit s = u ∨ ∃ p, hearAlignment n levels exit s = slotSeen p n u := by
    cases hport : portOfLane u n with
    | some p => exact .inr ⟨p, by simp [-Fin.getElem_fin, hearAlignment, hruns, hsym, htstate, h, hpos, hu, hport]⟩
    | none => exact .inl (by simp [-Fin.getElem_fin, hearAlignment, hruns, hsym, htstate, h, hpos, hu, hport])
  obtain hhear | ⟨p, hhear⟩ := hhear
  · rw [hhear]
    exact ⟨hheard, hcount⟩
  · have hkept : (slotSeen p n u).lanes[n].heard = u.lanes[n].heard := congrFun (slotSeen_heard p n u) n
    rw [hhear]
    exact ⟨hkept.trans hheard, (codewords_of_tally (slotSeen_tally p n u) n).trans hcount⟩

/-! ### The obligation -/

/-- What sending and pausing leave of a lane holds its counters (R152). -/
theorem settlePause_receiver (n : Fin 64) (s : State) : (settlePause s).lanes[n].receiver = s.lanes[n].receiver := congrFun (settlePause_receivers s) n

theorem Lane.codewords_of_receiver {l k : Lane} (h : l.receiver = k.receiver) : l.codewords = k.codewords := (congrArg Lane.codewords h :)
theorem Lane.heard_of_receiver {l k : Lane} (h : l.receiver = k.receiver) : l.heard = k.heard := (congrArg Lane.heard h :)
theorem Lane.slots_of_receiver {l k : Lane} (h : l.receiver = k.receiver) : l.slots = k.slots := (congrArg Lane.slots h :)
theorem Lane.idleCount_of_receiver {l k : Lane} (h : l.receiver = k.receiver) : l.idleCount = k.idleCount := (congrArg Lane.idleCount h :)
theorem Lane.chk_of_receiver {l k : Lane} (h : l.receiver = k.receiver) : l.chk = k.chk := (congrArg Lane.chk h :)
theorem Port.nextSlot_of_bond {q r : Port} (h : q.bond = r.bond) : q.nextSlot = r.nextSlot := (congrArg Port.nextSlot h :)

/-- The levels of a lane that listens are heard as they were relayed; the relay itself is outside the device. -/
theorem exec_codewordReceived {n : Fin 64} {levels : List Level} {s : State} (hlen : levels.length = 1360) (hlisten : listening s n = true) :
    ∃ x, exec (.codewordReceived n levels) s = .next (settlePause (hearCodeword n levels { s with tx := x })) := by
  refine ⟨(relay n levels s).tx, ?_⟩
  rw [← relay_frame]
  simp [exec, execCodewordReceived, wholeCodeword, hlen, hlisten]

theorem exec_alignmentCodeword {n : Fin 64} {levels : List Level} {s : State} (exit : Bool) (hlen : levels.length = 1360)
    (hlisten : listening s n = true) :
    ∃ x, exec (.alignmentCodeword n levels exit) s = .next (settlePause (hearAlignment n levels exit { s with tx := x })) := by
  refine ⟨(relay n levels s).tx, ?_⟩
  rw [← relay_frame]
  simp [exec, execAlignmentCodeword, wholeCodeword, hlen, hlisten]

/-- A lane that hears a data codeword: it listens, has symbol lock and codeword lock, and counts (R152, R168, R175). -/
structure Hears (n : Fin 64) (s : State) : Prop where
  listens : listening s n = true
  symbols : s.lanes[n].symLock = true
  framed : s.lanes[n].unframed = false
  counts : s.lanes[n].hold = false

theorem Hears.runs {n : Fin 64} {s : State} (h : Hears n s) : runs s n = true := (Bool.and_eq_true_iff.mp h.listens).1

/-- A codeword's counters are those of its own decoding, whatever follows (R152). -/
theorem received_codewords {n : Fin 64} {levels : List Level} {s : State} (hlen : levels.length = 1360) (h : Hears n s)
    (hlocked : s.lanes[n].locked = true) : ∃ t, exec (.codewordReceived n levels) s = .next t
      ∧ t.lanes[n].codewords = ({ s.lanes[n] with rxPrev := lastLevel s.lanes[n].rxPrev (s.lanes[n].sliced levels) }.decode
          (bitsOf s.lanes[n].rxPrev (s.lanes[n].sliced levels))).1.codewords := by
  obtain ⟨x, hexec⟩ := exec_codewordReceived hlen h.listens
  refine ⟨_, hexec, ?_⟩
  have hkept := Lane.codewords_of_receiver (settlePause_receiver n (hearCodeword n levels { s with tx := x }))
  have htally := codewords_of_tally (hearCodeword_tally (s := { s with tx := x }) levels h.runs h.symbols) n
  have hlane : (State.updLane { s with tx := x } n fun _ => (s.lanes[n].codeword levels).1).lanes[n] = (s.lanes[n].codeword levels).1 :=
    modAt_get s.lanes n _
  rw [hkept, htally, ← Lane.codeword_of_locked levels h.framed hlocked]
  exact congrArg Lane.codewords hlane

theorem received_of_some {n : Fin 64} {levels : List Level} {fixed : List Nat} {errs : List (Nat × Nat)} {s : State} (hlen : levels.length = 1360)
    (h : Hears n s) (hlocked : s.lanes[n].locked = true)
    (hdecode : rsDecode (symbolsOf (bitsOf s.lanes[n].rxPrev (s.lanes[n].sliced levels))) = some (fixed, errs)) :
    ∃ t, exec (.codewordReceived n levels) s = .next t ∧ t.lanes[n].cnt.cwTotal = satInc s.lanes[n].cnt.cwTotal
      ∧ t.lanes[n].cnt.cwUncorr = s.lanes[n].cnt.cwUncorr
      ∧ t.lanes[n].cnt.cwCorr = (if errs = [] then s.lanes[n].cnt.cwCorr else satInc s.lanes[n].cnt.cwCorr)
      ∧ (errs ≠ [] → t.lanes[n].cnt.corrSym = satAdd s.lanes[n].cnt.corrSym errs.length) := by
  obtain ⟨t, hexec, hcount⟩ := received_codewords hlen h hlocked
  obtain ⟨m, hm, hcounted, -⟩ :=
    Lane.decode_of_some (l := { s.lanes[n] with rxPrev := lastLevel s.lanes[n].rxPrev (s.lanes[n].sliced levels) }) h.counts hdecode
  rw [hm] at hcount
  obtain ⟨htotal, hcorr, huncorr, hsym⟩ := by simpa only [Lane.codewords, Prod.mk.injEq] using hcount.trans hcounted
  exact ⟨t, hexec, htotal, huncorr, hcorr, fun herrs => hsym.trans (if_neg herrs)⟩

theorem received_of_none {n : Fin 64} {levels : List Level} {s : State} (hlen : levels.length = 1360) (h : Hears n s) (hlocked : s.lanes[n].locked = true)
    (hdecode : rsDecode (symbolsOf (bitsOf s.lanes[n].rxPrev (s.lanes[n].sliced levels))) = none) :
    ∃ t, exec (.codewordReceived n levels) s = .next t ∧ t.lanes[n].cnt.cwTotal = satInc s.lanes[n].cnt.cwTotal
      ∧ t.lanes[n].cnt.cwUncorr = satInc s.lanes[n].cnt.cwUncorr ∧ t.lanes[n].cnt.cwCorr = s.lanes[n].cnt.cwCorr := by
  obtain ⟨t, hexec, hcount⟩ := received_codewords hlen h hlocked
  have hcounted :=
    Lane.decode_of_none (l := { s.lanes[n] with rxPrev := lastLevel s.lanes[n].rxPrev (s.lanes[n].sliced levels) }) h.counts hdecode
  obtain ⟨htotal, hcorr, huncorr, -⟩ := by simpa only [Lane.codewords, Prod.mk.injEq] using hcount.trans hcounted
  exact ⟨t, hexec, htotal, huncorr, hcorr⟩

/-- A data codeword of IDLE blocks, received on the one lane of a running port. -/
theorem received_of_idle {p : Fin 16} {n : Fin 64} {levels : List Level} {fixed : List Nat} {errs : List (Nat × Nat)} {s : State}
    (hlen : levels.length = 1360) (h : Hears n s) (hlocked : s.lanes[n].locked = true)
    (hdecode : rsDecode (symbolsOf (bitsOf s.lanes[n].rxPrev (s.lanes[n].sliced levels))) = some (fixed, errs))
    (hidle : (s.lanes[n].blocks fixed).all isIdle = true) (hlead : s.lanes[n].idleLead = none) (hport : portOfLane s n = some p)
    (hrun : s.ports[p].running = true) (hreplay : s.ports[p].replay = none) (hroles : s.ports[p].roles = [n]) (hslots : s.lanes[n].slots = [])
    (hc : cseqUpTo s.ports[p].nextSlot (s.lanes[n].rxAseq * 1024 + s.lanes[n].rxIndex) = true) :
    ∃ t, exec (.codewordReceived n levels) s = .next t ∧ t.ports[p].nextSlot = (s.lanes[n].rxAseq * 1024 + s.lanes[n].rxIndex + 1) % 2 ^ 42
      ∧ t.lanes[n].slots = [] ∧ t.lanes[n].idleCount = s.lanes[n].idleCount + 1 ∧ t.heads = s.heads := by
  obtain ⟨x, hexec⟩ := exec_codewordReceived hlen h.listens
  obtain ⟨hnext, hempty, hcount, hheads⟩ := hearCodeword_of_idle (s := { s with tx := x }) h.runs h.symbols h.framed hlocked h.counts hlead hdecode hidle
    hport hrun hreplay hroles hslots hc
  have hlane := settlePause_receiver n (hearCodeword n levels { s with tx := x })
  exact ⟨_, hexec, (Port.nextSlot_of_bond (settlePause_bond p _)).trans hnext, (Lane.slots_of_receiver hlane).trans hempty,
    (Lane.idleCount_of_receiver hlane).trans hcount, (heads_of_unsent (settlePause_unsent _)).trans hheads⟩

/-- Symbols of an unframed pattern go to the lane's checker (R148). -/
theorem received_of_unframed {n : Fin 64} {levels : List Level} {s : State} (hlen : levels.length = 1360) (hlisten : listening s n = true)
    (hsym : s.lanes[n].symLock = true) (h : s.lanes[n].unframed = true) :
    ∃ t, exec (.codewordReceived n levels) s = .next t
      ∧ t.lanes[n].chk = (s.lanes[n].check (bitsOf s.lanes[n].rxPrev (s.lanes[n].sliced levels))).chk
      ∧ t.lanes[n].cnt = (s.lanes[n].check (bitsOf s.lanes[n].rxPrev (s.lanes[n].sliced levels))).cnt ∧ t.lanes[n].tstate = s.lanes[n].tstate := by
  obtain ⟨x, hexec⟩ := exec_codewordReceived hlen hlisten
  have hruns : runs s n = true := (Bool.and_eq_true_iff.mp hlisten).1
  have hlane := settlePause_receiver n (hearCodeword n levels { s with tx := x })
  rw [hearCodeword_of_unframed levels (s := { s with tx := x }) hruns hsym h] at hexec hlane
  generalize bitsOf s.lanes[n].rxPrev (s.lanes[n].sliced levels) = bits at hexec hlane ⊢
  generalize hu : adaptLane n _ = u at hexec hlane
  have hkept : u.lanes[n].chk = (s.lanes[n].check bits).chk ∧ u.lanes[n].cnt = (s.lanes[n].check bits).cnt ∧ u.lanes[n].tstate = s.lanes[n].tstate := by
    rw [← hu, adaptLane_lane, State.updLane_lanes, modAt_get, Lane.adapt_frame]
    exact ⟨rfl, rfl, rfl⟩
  exact ⟨_, hexec, (Lane.chk_of_receiver hlane).trans hkept.1, (Lane.cnt_of_receiver hlane).trans hkept.2.1,
    (Lane.tstate_of_receiver hlane).trans hkept.2.2⟩

/-- An alignment codeword that leaves the lock standing is heard as the lane's own step (R175). -/
theorem aligned_keeps {n : Fin 64} {levels : List Level} {exit : Bool} {s : State} {l : Lane} (hlen : levels.length = 1360) (h : Hears n s)
    (hstate : s.lanes[n].tstate = .lock ∨ s.lanes[n].tstate = .exchange ∨ s.lanes[n].tstate = .active)
    (halign : s.lanes[n].alignment levels exit s.coreTime = (l, .none)) (hpos : l.rxPos = 0) :
    ∃ t, exec (.alignmentCodeword n levels exit) s = .next t ∧ t.lanes[n].heard = l.heard ∧ t.lanes[n].codewords = l.codewords := by
  obtain ⟨x, hexec⟩ := exec_alignmentCodeword exit hlen h.listens
  have hlane := settlePause_receiver n (hearAlignment n levels exit { s with tx := x })
  obtain ⟨hheard, hcount⟩ := hearAlignment_heard (s := { s with tx := x }) h.runs h.symbols hstate halign hpos
  exact ⟨_, hexec, (Lane.heard_of_receiver hlane).trans hheard, (Lane.codewords_of_receiver hlane).trans hcount⟩

theorem aligned_of_copy {n : Fin 64} {levels : List Level} {s : State} {f : BitVec 80} (exit : Bool) (hlen : levels.length = 1360) (h : Hears n s)
    (hstate : s.lanes[n].tstate = .lock ∨ s.lanes[n].tstate = .exchange ∨ s.lanes[n].tstate = .active) (hlock : s.lanes[n].cwLock = .locked)
    (hcopy : validCopy (copiesIn (s.lanes[n].sliced levels)) = some f) (hregular : fld f 41 32 = 0) :
    ∃ t, exec (.alignmentCodeword n levels exit) s = .next t ∧ t.lanes[n].rxAseq = fld f 31 0 ∧ t.lanes[n].rxLid = fld f 47 42
      ∧ t.lanes[n].missed = 0 ∧ t.lanes[n].cwLock = .locked ∧ t.lanes[n].cnt.cwTotal = satInc s.lanes[n].cnt.cwTotal
      ∧ t.lanes[n].cnt.cwUncorr = s.lanes[n].cnt.cwUncorr := by
  have halign := Lane.alignment_of_copy exit s.coreTime hlock h.framed h.counts hcopy
  obtain ⟨hevent, hpos, hheard, hcount⟩ := s.lanes[n].counted.readAlignment_of_regular s.coreTime hlock hregular
  obtain ⟨t, hexec, hkheard, hkcount⟩ := aligned_keeps hlen h hstate (halign.trans (Prod.ext rfl hevent)) hpos
  obtain ⟨haseq, hlid, hmissed, hlocked, -⟩ := by simpa only [Lane.heard, Prod.mk.injEq] using hkheard.trans hheard
  obtain ⟨htotal, -, huncorr, -⟩ := by simpa only [Lane.codewords, Prod.mk.injEq] using hkcount.trans hcount
  exact ⟨t, hexec, haseq, hlid, hmissed, hlocked, htotal, huncorr⟩

theorem aligned_of_missed {n : Fin 64} {levels : List Level} {s : State} (hlen : levels.length = 1360) (h : Hears n s)
    (hstate : s.lanes[n].tstate = .lock ∨ s.lanes[n].tstate = .exchange ∨ s.lanes[n].tstate = .active) (hlock : s.lanes[n].cwLock = .locked)
    (hcopy : validCopy (copiesIn (s.lanes[n].sliced levels)) = none) (hfew : s.lanes[n].missed < 3) :
    ∃ t, exec (.alignmentCodeword n levels false) s = .next t ∧ t.lanes[n].rxAseq = (s.lanes[n].rxAseq + 1) % 2 ^ 32
      ∧ t.lanes[n].missed = s.lanes[n].missed + 1 ∧ t.lanes[n].cwLock = .locked ∧ t.lanes[n].winUncorr = s.lanes[n].winUncorr
      ∧ t.lanes[n].cnt.cwUncorr = satInc s.lanes[n].cnt.cwUncorr := by
  have halign := Lane.alignment_of_missed false s.coreTime hlock h.framed h.counts hcopy
  generalize hm : ({ s.lanes[n].counted with cnt := _ } : Lane) = m at halign
  have hlane : m.cwLock = .locked ∧ m.missed = s.lanes[n].missed ∧ m.rxAseq = s.lanes[n].rxAseq ∧ m.winUncorr = s.lanes[n].winUncorr
      ∧ m.cnt.cwUncorr = satInc s.lanes[n].cnt.cwUncorr := by
    rw [← hm]
    exact ⟨hlock, rfl, rfl, rfl, rfl⟩
  obtain ⟨hmlock, hmmissed, hmaseq, hmwin, hmuncorr⟩ := hlane
  obtain ⟨hevent, hpos, hheard, hcount⟩ := Lane.blindAlignment_of_regular hmlock (hmmissed ▸ hfew)
  obtain ⟨t, hexec, hkheard, hkcount⟩ := aligned_keeps hlen h hstate (halign.trans (Prod.ext rfl hevent)) hpos
  obtain ⟨haseq, -, hmissed, hlocked, hwin⟩ := by simpa only [Lane.heard, Prod.mk.injEq] using hkheard.trans hheard
  obtain ⟨-, -, huncorr, -⟩ := by simpa only [Lane.codewords, Prod.mk.injEq] using hkcount.trans hcount
  exact ⟨t, hexec, hmaseq ▸ haseq, hmmissed ▸ hmissed, hlocked, hwin.trans hmwin, huncorr.trans hmuncorr⟩

/-- Settles O33: the line's codings are undone, the lane's own step counts, and nothing that follows it counts again. Bits stand in the order of log
entry 12, levels of another number than a codeword's are refused as log entry 15 says, and a missed alignment codeword stays out of the window by log
entry 131. -/
theorem codewordsAndAlignment : Obligations.CodewordsAndAlignment := by
  refine ⟨fun prev bs => ⟨unManchester_manchester bs, bitsOf_levelsOf prev bs⟩, fun n levels bits s hbits => ⟨fun hlen => ?_, fun hlen hlisten => ?_,
    fun hlen hlisten hsym hun => hbits ▸ received_of_unframed hlen hlisten hsym hun, fun hlen hlisten hsym hframed hlocked hhold => ?_⟩,
    fun n levels exit s => ⟨fun hlen => ?_, fun hlen hlisten hsym hframed hstate hlock hhold => ?_⟩⟩
  · simp [exec, execCodewordReceived, wholeCodeword, hlen]
  · simp [exec, execCodewordReceived, wholeCodeword, hlen, hlisten]
  · have hhears : Hears n s := ⟨hlisten, hsym, hframed, hhold⟩
    subst hbits
    exact ⟨fun fixed errs hdecode => received_of_some hlen hhears hlocked hdecode,
      fun fixed errs p hdecode hidle hlead hport hrun hreplay hroles hslots hc =>
        received_of_idle hlen hhears hlocked hdecode hidle hlead hport hrun hreplay hroles hslots hc,
      fun hdecode => received_of_none hlen hhears hlocked hdecode⟩
  · simp [exec, execAlignmentCodeword, wholeCodeword, hlen]
  · have hhears : Hears n s := ⟨hlisten, hsym, hframed, hhold⟩
    refine ⟨fun f hcrc hregular hlevels => aligned_of_copy exit hlen hhears hstate hlock (hlevels ▸ validCopy_alignmentLevels hcrc) hregular,
      fun hcopy hexit hfew => ?_⟩
    subst hexit
    exact aligned_of_missed hlen hhears hstate hlock hcopy hfew

end Sys2Proof.Machine
end

