-- ==== Sys2Proof/Proofs/IntakeFrames.lean ====
section
/-! What the pipelines and the cell pool leave of the sources, the heads and the parallel ports (R219 to R231): one lemma for each operation, in the order
of the model's units. What only settles a pipeline leaves also what its checks at a start of frame read, and the frames on their way to stage 8. -/

namespace Sys2Proof.Machine

open Sys2Proof

/-- Where frames come in: the sources, the heads and the parallel ports. -/
def State.intake (s : State) : Vector Source 18 × Vector Head 16 × Vector Pcam 2 := (s.srcs, s.heads, s.pcams)

/-- A pipeline's source, what its start of frame makes its checks with, and its frames on their way to stage 8 (R224, R246, R258, R260). -/
abbrev Pipe.stages (k : Pipe) : Word × PipeCfg × PipeCfg × Option (Vector (BitVec 64) 5) × Vector (BitVec 64) 5 × List Work :=
  (k.source, k.cfg, k.act, k.swap, k.descActive, k.works)

/-- What settling a pipeline or the cell pool leaves alone. -/
def State.upstream (s : State) :
    (Vector Source 18 × Vector Head 16 × Vector Pcam 2)
      × (Fin 16 → Word × PipeCfg × PipeCfg × Option (Vector (BitVec 64) 5) × Vector (BitVec 64) 5 × List Work) :=
  (s.intake, fun p => s.pipes[p].stages)

theorem intake_of_upstream {s t : State} (h : t.upstream = s.upstream) : t.intake = s.intake := congrArg Prod.fst h
theorem stages_of_upstream {s t : State} (h : t.upstream = s.upstream) (p : Fin 16) : t.pipes[p].stages = s.pipes[p].stages :=
  congrFun (congrArg Prod.snd h) p
theorem works_of_stages {k l : Pipe} (h : k.stages = l.stages) : k.works = l.works := congrArg (·.2.2.2.2.2) h
theorem srcs_of_intake {s t : State} (h : t.intake = s.intake) : t.srcs = s.srcs := congrArg Prod.fst h
theorem heads_of_intake {s t : State} (h : t.intake = s.intake) : t.heads = s.heads := congrArg (·.2.1) h
theorem pcams_of_intake {s t : State} (h : t.intake = s.intake) : t.pcams = s.pcams := congrArg (·.2.2) h

/-! ### Choices, walks and updates -/

/-- A change of one element that leaves a part of it alone leaves that part of every element alone. -/
theorem modAt_keeps {α β : Type} {n : Nat} (get : α → β) (v : Vector α n) (i : Fin n) (f : α → α) (h : get (f v[i]) = get v[i]) :
    (fun k : Fin n => get (modAt v i f)[k]) = fun k : Fin n => get v[k] := by
  funext k
  by_cases hk : k = i
  · rw [hk, modAt_get, h]
  · rw [modAt_get_ne _ _ _ _ hk]

@[simp] theorem State.ite_intake (c : Prop) [Decidable c] (s t : State) : (if c then s else t).intake = if c then s.intake else t.intake :=
  apply_ite State.intake c s t

@[simp] theorem State.ite_upstream (c : Prop) [Decidable c] (s t : State) : (if c then s else t).upstream = if c then s.upstream else t.upstream :=
  apply_ite State.upstream c s t

@[simp] theorem State.each_upstream {α : Type} (s : State) (l : List α) (f : α → State → State) (h : ∀ a t, (f a t).upstream = t.upstream) :
    (s.each l f).upstream = s.upstream :=
  State.each_keeps State.upstream l f h s

@[simp] theorem State.updPipe_intake (s : State) (p : Fin 16) (f : Pipe → Pipe) : (s.updPipe p f).intake = s.intake := rfl
@[simp] theorem State.updTally_intake (s : State) (p : Fin 16) (f : Tally → Tally) : (s.updTally p f).intake = s.intake := rfl
@[simp] theorem State.updProducer_intake (s : State) (r : Fin 32) (f : Producer → Producer) : (s.updProducer r f).intake = s.intake := rfl
@[simp] theorem State.mapStore_intake (s : State) (m : Mem) : ({ s with mapStore := m } : State).intake = s.intake := rfl
@[simp] theorem State.drawNat_intake (s : State) : s.drawNat.2.intake = s.intake := rfl

/-- A pipeline's change that leaves its stages alone. -/
@[simp] theorem State.updPipe_upstream (s : State) (p : Fin 16) (f : Pipe → Pipe) (h : (f s.pipes[p]).stages = s.pipes[p].stages) :
    (s.updPipe p f).upstream = s.upstream :=
  Prod.ext rfl (modAt_keeps Pipe.stages s.pipes p f h)

@[simp] theorem State.updTally_upstream (s : State) (p : Fin 16) (f : Tally → Tally) : (s.updTally p f).upstream = s.upstream := rfl
@[simp] theorem State.updStamp_upstream (s : State) (i : Fin 18) (f : Stamp → Stamp) : (s.updStamp i f).upstream = s.upstream := rfl
@[simp] theorem State.updQm_upstream (s : State) (f : QueueMgr → QueueMgr) : (s.updQm f).upstream = s.upstream := rfl
@[simp] theorem State.updQueue_upstream (s : State) (q : Fin 512) (f : Queue → Queue) : (s.updQueue q f).upstream = s.upstream := rfl
@[simp] theorem State.updProducer_upstream (s : State) (r : Fin 32) (f : Producer → Producer) : (s.updProducer r f).upstream = s.upstream := rfl
@[simp] theorem State.updXoff_upstream (s : State) (n : Fin 16) (f : Xoff → Xoff) : (s.updXoff n f).upstream = s.upstream := rfl
@[simp] theorem State.updPins_upstream (s : State) (f : Pins → Pins) : (s.updPins f).upstream = s.upstream := rfl

/-! ### Shared operations -/

@[simp] theorem publish_upstream (code : Nat) (s : State) : (publish code s).upstream = s.upstream := by rw [publish_frame]; rfl
@[simp] theorem publish_intake (code : Nat) (s : State) : (publish code s).intake = s.intake := by rw [publish_frame]; rfl
@[simp] theorem fault_intake (code sev : Nat) (cls : FClass) (idx detail : Nat) (s : State) : (fault code sev cls idx detail s).intake = s.intake := by
  rw [fault_frame]; rfl
@[simp] theorem giveWay_upstream (code : Nat) (rung : Fin 5) (cls : FClass) (idx detail : Nat) (s : State) :
    (giveWay code rung cls idx detail s).upstream = s.upstream := by
  rw [giveWay_frame]; rfl

/-! ### Queues and the cell pool -/

@[simp] theorem driveXoff_upstream (s : State) : (driveXoff s).upstream = s.upstream := by simp [driveXoff]
@[simp] theorem lendOnDie_upstream (s : State) : (lendOnDie s).upstream = s.upstream := by simp [lendOnDie]
@[simp] theorem revokeFrom_upstream (r : Fin 32) (s : State) : (revokeFrom r s).upstream = s.upstream := by
  unfold revokeFrom
  dsimp only
  (repeat' split) <;> simp

@[simp] theorem lendStall_upstream (s : State) : (lendStall s).upstream = s.upstream := by simp [lendStall]
@[simp] theorem lend_upstream (s : State) : (lend s).upstream = s.upstream := by simp [lend]
@[simp] theorem returnCredits_upstream (r : Fin 32) (s : State) : (returnCredits r s).upstream = s.upstream := by simp [returnCredits]
@[simp] theorem watermark_upstream (q : Fin 512) (s : State) : (watermark q s).upstream = s.upstream := by simp [watermark]
@[simp] theorem settleQueue_upstream (q : Fin 512) (s : State) : (settleQueue q s).upstream = s.upstream := by simp [settleQueue]
@[simp] theorem handBack_upstream (cs : List PCell) (s : State) : (handBack cs s).upstream = s.upstream := by simp [handBack]
@[simp] theorem owePipeGap_upstream (r : Fin 32) (s : State) : (owePipeGap r s).upstream = s.upstream := by simp [owePipeGap]
@[simp] theorem rewindOpen_upstream (r : Fin 32) (s : State) : (rewindOpen r s).upstream = s.upstream := by
  fun_cases rewindOpen r s <;> simp +zetaDelta

@[simp] theorem rewindToMark_upstream (r : Fin 32) (s : State) : (rewindToMark r s).upstream = s.upstream := by
  fun_cases rewindToMark r s <;> simp

/-! ### Stamping -/

@[simp] theorem triggerOf_upstream (i : Fin 18) (start : Option FrameStart) (s : State) : (triggerOf i start s).2.upstream = s.upstream := by
  fun_cases triggerOf i start s <;> simp [fallBack]

@[simp] theorem startBase_upstream (i : Fin 18) (start : Option FrameStart) (group : Option StampMark) (s : State) :
    (startBase i start group s).2.upstream = s.upstream := by
  fun_cases startBase i start group s with
  | case1 => rfl
  | case2 _ _ h | case3 _ h => exact snd_keeps State.upstream h (triggerOf_upstream i start s)

@[simp] theorem startMark_upstream (i : Fin 18) (start : Option FrameStart) (group : Option StampMark) (s : State) :
    (startMark i start group s).2.upstream = s.upstream := by
  unfold startMark
  fun_cases startLookup i start _ _ <;> simp [*, fallBack]

/-! ### Pipelines: packets, batches and images -/

@[simp] theorem closePacket_upstream (p : Fin 16) (c : Closed) (s : State) : (closePacket p c s).upstream = s.upstream := by simp [closePacket]
@[simp] theorem logSlate_upstream (p : Fin 16) (src : Fin 18) (epoch : BitVec 16) (s : State) : (logSlate p src epoch s).upstream = s.upstream := by
  simp [logSlate]

@[simp] theorem rewindFrame_upstream (p : Fin 16) (a : PktAcct) (s : State) : (rewindFrame p a s).upstream = s.upstream := by
  fun_cases rewindFrame p a s <;> simp

@[simp] theorem closeBatch_upstream (p : Fin 16) (a : PktAcct) (s : State) : (closeBatch p a s).upstream = s.upstream := by
  have hdropped : ∀ t : State, (t.updPipe p fun k => { k with pkt := none }).upstream = t.upstream := fun t => t.updPipe_upstream p _ rfl
  simp [closeBatch, hdropped]

@[simp] theorem settleBatch_upstream (p : Fin 16) (s : State) : (settleBatch p s).upstream = s.upstream := by fun_cases settleBatch p s <;> simp
@[simp] theorem closeImage_upstream (p : Fin 16) (s : State) : (closeImage p s).upstream = s.upstream := by
  fun_cases closeImage p s <;> simp +zetaDelta

@[simp] theorem settlePipe_upstream (p : Fin 16) (s : State) : (settlePipe p s).upstream = s.upstream := by simp [settlePipe, settleImage]
@[simp] theorem beginEpoch_upstream (p : Fin 16) (src : Fin 18) (frame : BitVec 16) (s : State) : (beginEpoch p src frame s).upstream = s.upstream := by
  simp [beginEpoch]

/-! ### Pipelines: a frame from its start to stage 8 -/

@[simp] theorem takeEffect_intake (p : Fin 16) (s : State) : (takeEffect p s).intake = s.intake := by simp [takeEffect]
@[simp] theorem openEpoch_intake (p : Fin 16) (s : State) : (openEpoch p s).intake = s.intake := by fun_cases openEpoch p s <;> simp
@[simp] theorem pipeStart_intake (p : Fin 16) (i : Fin 18) (frame : BitVec 16) (s : State) : (pipeStart p i frame s).1.intake = s.intake := by
  have hsettled : (settlePipe p (beginEpoch p i frame (takeEffect p s))).intake = s.intake := by
    rw [intake_of_upstream ((settlePipe_upstream p _).trans (beginEpoch_upstream p i frame _)), takeEffect_intake]
  fun_cases pipeStart p i frame s <;> simp +zetaDelta [hsettled]

@[simp] theorem countCorrected_intake (p : Fin 16) (n : Nat) (s : State) : (countCorrected p n s).intake = s.intake := by simp [countCorrected]
@[simp] theorem countBad_intake (p : Fin 16) (ws : List Nat) (s : State) : (countBad p ws s).intake = s.intake := by
  unfold countBad
  dsimp only
  (repeat' split) <;> simp

@[simp] theorem frontStages_intake (p : Fin 16) (g : Shape) (parts : List (List Nat)) (s : State) : (frontStages p g parts s).2.2.intake = s.intake := by
  simp [frontStages]

@[simp] theorem stage4_intake (p : Fin 16) (g : Shape) (xs : List (Nat × Bool)) (bad : List Bool) (s : State) :
    (stage4 p g xs bad s).2.intake = s.intake := by
  unfold stage4
  dsimp only
  split <;> simp

@[simp] theorem runStages_intake (p : Fin 16) (g : Shape) (parts : List (List Nat)) (s : State) : (runStages p g parts s).2.2.2.intake = s.intake := by
  simp [runStages]

@[simp] theorem countSpectrum_intake (p : Fin 16) (rows : List (List Cand)) (s : State) : (countSpectrum p rows s).intake = s.intake := by
  simp [countSpectrum]

@[simp] theorem reachStage8_intake (p : Fin 16) (w : Work) (s : State) : (reachStage8 p w s).intake = s.intake := by
  fun_cases reachStage8 p w s <;> simp

@[simp] theorem deliver_intake (p : Fin 16) (i : Fin 18) (fs : List Frame) (parts : List (List Nat)) (st : Stamps) (s : State) :
    (deliver p i fs parts st s).intake = s.intake := by
  simp [deliver, nextLap]

@[simp] theorem undoFrame_intake (p : Fin 16) (i : Fin 18) (s : State) : (undoFrame p i s).intake = s.intake := by
  fun_cases undoFrame p i s with
  | case4 begun s₁ s₂ w _ _ mine s₃ _ s₄ =>
    have h₄ : s₄.upstream = s₃.upstream := by
      unfold s₄
      (repeat' split) <;> simp
    simp [intake_of_upstream h₄, s₃, s₂, s₁, dropLap]
  | _ => simp +zetaDelta [dropLap]

end Sys2Proof.Machine
end

