-- ==== Sys2Proof/Proofs/FrameStarts.lean ====
section
/-! A frame that starts (R225 to R227, R260): what decides whether it is taken, how one is counted that no take wants, and how one whose checks hold makes
its take Running. -/

namespace Sys2Proof.Machine

open Sys2Proof

/-! ### What a start of frame reads -/

/-- What decides a start of frame: the sources' geometry, the heads' formats, PCTL of the parallel ports, and the pipelines' stages (R230, R232, R260). -/
def State.checks (s : State) :
    (Fin 18 → Word) × (Fin 16 → Word) × (Fin 2 → Word)
      × (Fin 16 → Word × PipeCfg × PipeCfg × Option (Vector (BitVec 64) 5) × Vector (BitVec 64) 5 × List Work) :=
  (fun i => s.srcs[i].geomNow, fun h => s.heads[h].formatNow, fun n => s.pcams[n].ctl, fun p => s.pipes[p].stages)

@[simp] theorem State.updSrc_checks (s : State) (i : Fin 18) (f : Source → Source) (h : (f s.srcs[i]).geomNow = s.srcs[i].geomNow) :
    (s.updSrc i f).checks = s.checks :=
  Prod.ext (modAt_keeps Source.geomNow s.srcs i f h) rfl

@[simp] theorem State.updHead_checks (s : State) (h : Fin 16) (f : Head → Head) (hf : (f s.heads[h]).formatNow = s.heads[h].formatNow) :
    (s.updHead h f).checks = s.checks :=
  Prod.ext rfl (Prod.ext (modAt_keeps Head.formatNow s.heads h f hf) rfl)

@[simp] theorem State.updPcam_checks (s : State) (n : Fin 2) (f : Pcam → Pcam) (h : (f s.pcams[n]).ctl = s.pcams[n].ctl) :
    (s.updPcam n f).checks = s.checks :=
  Prod.ext rfl (Prod.ext rfl (Prod.ext (modAt_keeps Pcam.ctl s.pcams n f h) rfl))

theorem checks_of_upstream {s t : State} (h : t.upstream = s.upstream) : t.checks = s.checks := by
  have hin := intake_of_upstream h
  simp only [State.checks, srcs_of_intake hin, heads_of_intake hin, pcams_of_intake hin, stages_of_upstream h]

@[simp] theorem publish_checks (code : Nat) (s : State) : (publish code s).checks = s.checks := checks_of_upstream (publish_upstream code s)

theorem stages_of_checks {s t : State} (h : t.checks = s.checks) (p : Fin 16) : t.pipes[p].stages = s.pipes[p].stages :=
  congrFun (congrArg (·.2.2.2) h) p

theorem boundSource_congr {s t : State} (h : t.checks = s.checks) (p : Fin 16) : boundSource t p = boundSource s p := by
  have hsource : t.pipes[p].source = s.pipes[p].source := congrArg Prod.fst (stages_of_checks h p)
  simp only [boundSource, hsource]

theorem boundPipe_congr {s t : State} (h : t.checks = s.checks) (i : Fin 18) : boundPipe t i = boundPipe s i := by
  simp only [boundPipe, boundSource_congr h]

theorem shapeOf_congr {s t : State} (h : t.checks = s.checks) (i : Fin 18) : shapeOf t i = shapeOf s i := by
  have hgeom : t.srcs[i].geomNow = s.srcs[i].geomNow := congrFun (congrArg Prod.fst h) i
  have hformat : ∀ k : Fin 16, t.heads[k].formatNow = s.heads[k].formatNow := congrFun (congrArg (·.2.1) h)
  have hctl : ∀ n : Fin 2, t.pcams[n].ctl = s.pcams[n].ctl := congrFun (congrArg (·.2.2.1) h)
  simp only [shapeOf, hgeom, hformat, hctl]

/-- The four checks read the registers in force, the active descriptors and the shape of the frames (R260). -/
theorem startFails_congr {s t : State} {p : Fin 16} {i : Fin 18} (hact : t.pipes[p].act = s.pipes[p].act)
    (hdesc : t.pipes[p].descActive = s.pipes[p].descActive) (hshape : shapeOf t i = shapeOf s i) : startFails t p i = startFails s p i := by
  simp only [startFails, hact, hdesc, hshape]

/-- A start of frame puts the registers as written in force, and the descriptors of a swap (R246, R258). -/
theorem takeEffect_pipe (p : Fin 16) (s : State) :
    (takeEffect p s).pipes[p].act = s.pipes[p].cfg ∧ (takeEffect p s).pipes[p].descActive = s.pipes[p].swap.getD s.pipes[p].descActive := by
  unfold takeEffect
  dsimp only
  split <;> simp [-Fin.getElem_fin]

theorem shapeOf_of_intake {s t : State} (h : t.intake = s.intake) (i : Fin 18) : shapeOf t i = shapeOf s i := by
  simp only [shapeOf, srcs_of_intake h, heads_of_intake h, pcams_of_intake h]

/-- What the checks will find is settled before the start (R260). -/
theorem startFails_takeEffect_congr {s t : State} (h : t.checks = s.checks) (p : Fin 16) (i : Fin 18) :
    startFails (takeEffect p t) p i = startFails (takeEffect p s) p i := by
  obtain ⟨hact, hdesc⟩ := takeEffect_pipe p s
  obtain ⟨kact, kdesc⟩ := takeEffect_pipe p t
  obtain ⟨-, hcfg, -, hswap, hactive, -⟩ := by simpa only [Pipe.stages, Prod.mk.injEq] using stages_of_checks h p
  have hshape : shapeOf (takeEffect p t) i = shapeOf (takeEffect p s) i := by
    rw [shapeOf_of_intake (takeEffect_intake p t), shapeOf_of_intake (takeEffect_intake p s), shapeOf_congr h]
  exact startFails_congr (by rw [kact, hact, hcfg]) (by rw [kdesc, hdesc, hswap, hactive]) hshape

/-- A frame is discarded at its start exactly when a check fails on what has taken effect (R260). -/
theorem pipeStart_discards (p : Fin 16) (i : Fin 18) (frame : BitVec 16) (s : State) :
    (pipeStart p i frame s).2 = ! (startFails (takeEffect p s) p i).isEmpty := by
  have hsettled := (settlePipe_upstream p (beginEpoch p i frame (takeEffect p s))).trans (beginEpoch_upstream p i frame _)
  obtain ⟨-, -, hact, -, hdesc, -⟩ := by simpa only [Pipe.stages, Prod.mk.injEq] using stages_of_upstream hsettled p
  have hfails : startFails (settlePipe p (beginEpoch p i frame (takeEffect p s))) p i = startFails (takeEffect p s) p i :=
    startFails_congr hact hdesc (shapeOf_of_intake (intake_of_upstream hsettled) i)
  unfold pipeStart
  dsimp only
  rw [hfails]
  cases startFails (takeEffect p s) p i <;> rfl

/-! ### Takes -/

/-- The source once the first frame of its take has started: an Armed take is Running and has its number (R227). -/
def Source.begun (k : Source) : Source := if k.take = .armed then { k with take := .running, takeNo := satInc k.takeNo } else k

theorem take_of_wanted {s : State} {i : Fin 18} (h : wanted s i = true) : s.srcs[i].take = .armed ∨ s.srcs[i].take = .running := by
  obtain ⟨-, htake⟩ := Bool.and_eq_true_iff.mp h
  simpa only [Bool.or_eq_true, beq_iff_eq] using htake

theorem Source.begun_running {k : Source} (h : k.take = .armed ∨ k.take = .running) : k.begun.take = .running := by
  unfold Source.begun
  split
  next => rfl
  next hnot => exact h.resolve_left hnot

/-- Nothing else of a source changes at the start of a take. -/
theorem Source.begun_keeps (k : Source) :
    k.begun.takeNo = (if k.take = .armed then satInc k.takeNo else k.takeNo) ∧ k.begun.discards = k.discards ∧ k.begun.overruns = k.overruns
      ∧ k.begun.geomNow = k.geomNow := by
  unfold Source.begun
  split <;> exact ⟨rfl, rfl, rfl, rfl⟩

theorem takeRuns_upstream (i : Fin 18) (s : State) : (takeRuns i s).upstream = (s.updSrc i Source.begun).upstream := by
  unfold takeRuns
  split
  next h =>
    have hbegun : s.srcs[i].begun = { s.srcs[i] with take := .running, takeNo := satInc s.srcs[i].takeNo } := if_pos h
    rw [publish_upstream, State.updSrc, State.updSrc, modAt, modAt, hbegun]
  next h =>
    have hbegun : s.srcs[i].begun = s.srcs[i] := if_neg h
    have hsame : modAt s.srcs i Source.begun = s.srcs := by rw [modAt, hbegun]; exact Vector.set_getElem_self i.isLt
    rw [State.updSrc, hsame]

/-- A frame or group whose checks hold makes its take Running, and is no matter of the heads or of the parallel ports (R227, R260). -/
theorem groupStart_of_fit {i : Fin 18} {q : Fin 16} {s : State} (frame : BitVec 16) (hbound : boundPipe s i = some q)
    (hfit : startFails (takeEffect q s) q i = []) : (groupStart i frame s).intake = (s.updSrc i Source.begun).intake := by
  have hruns := takeRuns_upstream i s
  generalize hu : (if s.srcs[i].take = .armed then (takeRuns i s).updPipe q fun k => { k with statCount := 0 } else takeRuns i s) = u
  have hup : u.upstream = (s.updSrc i Source.begun).upstream := by
    rw [← hu, ← hruns]
    split
    · exact State.updPipe_upstream _ _ _ rfl
    · rfl
  obtain ⟨-, -, -, hgeom⟩ := s.srcs[i].begun_keeps
  have hchecks : u.checks = s.checks := (checks_of_upstream hup).trans (s.updSrc_checks i Source.begun hgeom)
  have hgood : (pipeStart q i frame u).2 = false := by
    rw [pipeStart_discards, startFails_takeEffect_congr hchecks, hfit]
    rfl
  have hstart : groupStart i frame s = (pipeStart q i frame u).1 := by
    simp only [groupStart, hbound, hu, hgood, Bool.false_eq_true, if_false]
  rw [hstart, pipeStart_intake, intake_of_upstream hup]

/-! ### Frames that no take wants -/

/-- A source's frame that no take wants, counted as unbound or as idle (R225). -/
def Source.passed (bound : Bool) (k : Source) : Source :=
  if bound then { k with idleFrames := satInc k.idleFrames } else { k with unbound := satInc k.unbound }

theorem Source.passed_counts (k : Source) (bound : Option (Fin 16)) :
    (bound = none → (k.passed bound.isSome).unbound = satInc k.unbound ∧ (k.passed bound.isSome).idleFrames = k.idleFrames)
      ∧ (bound ≠ none → (k.passed bound.isSome).idleFrames = satInc k.idleFrames ∧ (k.passed bound.isSome).unbound = k.unbound) := by
  cases bound with
  | none => exact ⟨fun _ => ⟨rfl, rfl⟩, fun h => absurd rfl h⟩
  | some q => exact ⟨fun h => absurd h (Option.some_ne_none q), fun _ => ⟨rfl, rfl⟩⟩

theorem countIdle_intake (i : Fin 18) (s : State) : (countIdle i s).intake = (s.updSrc i (Source.passed (boundPipe s i).isSome)).intake := by
  unfold countIdle
  cases boundPipe s i with
  | none => exact publish_intake _ _
  | some q => rfl

end Sys2Proof.Machine
end

