-- ==== Sys2Proof/Proofs/FrameEnds.lean ====
section
/-! A frame that is discarded, overruns or is delivered (R219, R220, R228, R230): what becomes of its source, and of a parallel port's frame; and the work
that a delivered one is for stage 8. -/

namespace Sys2Proof.Machine

open Sys2Proof

/-! ### Parallel ports as sources -/

@[simp] theorem finOf_pcamSrc (n : Fin 2) : finOf 16 (pcamSrc n).1 = none := by decide +revert
@[simp] theorem pcamOf_pcamSrc (n : Fin 2) : Fin.ofNat 2 ((pcamSrc n).1 - 16) = n := by decide +revert

/-! ### Takes that stop -/

/-- The source with its take's state set aside. -/
def Source.untaken (k : Source) : Source := { k with take := .idle }

theorem Source.frames_of_untaken {k l : Source} (h : k.untaken = l.untaken) : k.frames = l.frames := (congrArg Source.frames h :)
theorem Source.overruns_of_untaken {k l : Source} (h : k.untaken = l.untaken) : k.overruns = l.overruns := (congrArg Source.overruns h :)
theorem Source.discards_of_untaken {k l : Source} (h : k.untaken = l.untaken) : k.discards = l.discards := (congrArg Source.discards h :)

/-- A take that enters Idle changes of the intake its own state alone (R227). -/
theorem takeIdle_upstream (i : Fin 18) (s : State) : (takeIdle i s).upstream = (s.updSrc i Source.untaken).upstream := by
  have hpublished : (publish (0x01C0 + i.1) (s.updSrc i Source.untaken)).upstream = (s.updSrc i Source.untaken).upstream := publish_upstream _ _
  unfold takeIdle
  dsimp only
  split
  · rw [settlePipe_upstream, returnCredits_upstream, returnCredits_upstream, State.updPipe_upstream _ _ _ rfl]
    exact hpublished
  · exact hpublished

theorem finishStop_upstream (i : Fin 18) (s : State) :
    (finishStop i s).upstream = s.upstream ∨ (finishStop i s).upstream = (s.updSrc i Source.untaken).upstream := by
  unfold finishStop
  split
  · exact .inr (takeIdle_upstream i s)
  · exact .inl rfl

/-- A take that is not Stopping stays as it is (R227). -/
theorem finishStop_of_not_stopping {i : Fin 18} {s : State} (h : s.srcs[i].take ≠ .stopping) : finishStop i s = s := if_neg fun hstop => h hstop.1

/-- A take's end is its source's own: of the source the take's state alone changes, and parallel ports and stages stay (R227). -/
theorem finishStop_src (i : Fin 18) (s : State) : (finishStop i s).srcs[i].untaken = s.srcs[i].untaken := by
  rcases finishStop_upstream i s with h | h
  · rw [srcs_of_intake (intake_of_upstream h)]
  · rw [srcs_of_intake (intake_of_upstream h), State.updSrc_srcs, modAt_get]
    rfl

theorem finishStop_pcams (i : Fin 18) (s : State) : (finishStop i s).pcams = s.pcams := by
  rcases finishStop_upstream i s with h | h <;> rw [pcams_of_intake (intake_of_upstream h)]
  rfl

theorem finishStop_stages (i : Fin 18) (p : Fin 16) (s : State) : (finishStop i s).pipes[p].stages = s.pipes[p].stages := by
  rcases finishStop_upstream i s with h | h <;> rw [stages_of_upstream h]
  rfl

/-! ### Frames that are discarded -/

@[simp] theorem owesGap_upstream (i : Fin 18) (s : State) : (owesGap i s).upstream = s.upstream := by
  unfold owesGap
  split
  · rw [settlePipe_upstream, State.updPipe_upstream _ _ _ rfl]
  · rfl

@[simp] theorem clearFrame_srcs (h : Fin 16) (s : State) : (clearFrame h s).srcs = s.srcs := rfl

/-- A frame dropped is no matter of its source's counts. -/
@[simp] theorem dropFrame_srcs (i : Fin 18) (s : State) : (dropFrame i s).srcs = s.srcs := by
  have hundone : ∀ p : Fin 16, (undoFrame p i s).srcs = s.srcs := fun p => srcs_of_intake (undoFrame_intake p i s)
  unfold dropFrame
  dsimp only
  (repeat' split) <;> simp [clearPcam, hundone]

/-- A parallel port's frame dropped: it stays open, and is ignored (R225). -/
theorem dropFrame_pcams (n : Fin 2) (s : State) : (dropFrame (pcamSrc n) s).pcams = (clearPcam n s).pcams := by
  have hundone : ∀ p : Fin 16, (undoFrame p (pcamSrc n) s).pcams = s.pcams := fun p => pcams_of_intake (undoFrame_intake p (pcamSrc n) s)
  simp only [dropFrame, finOf_pcamSrc, pcamOf_pcamSrc]
  (repeat' split) <;> simp only [clearPcam, State.updPcam_pcams, hundone]

/-- A discard counts on its source (R220). -/
theorem discardFrame_src (i : Fin 18) (s : State) :
    (discardFrame i s).srcs[i].untaken = ({ s.srcs[i] with discards := satInc s.srcs[i].discards } : Source).untaken := by
  unfold discardFrame
  dsimp only
  rw [finishStop_src, srcs_of_intake (intake_of_upstream (owesGap_upstream i _)), srcs_of_intake (publish_intake _ _), State.updSrc_srcs,
    modAt_get, dropFrame_srcs]

/-- So does an overrun, which leaves a parallel port's frame open, to be ignored (R230). -/
theorem overrun_src (i : Fin 18) (s : State) :
    (overrun i s).srcs[i].untaken = ({ s.srcs[i] with overruns := satInc s.srcs[i].overruns } : Source).untaken := by
  unfold overrun
  dsimp only
  rw [finishStop_src, srcs_of_intake (intake_of_upstream (owesGap_upstream i _)), srcs_of_intake (intake_of_upstream (giveWay_upstream ..)),
    State.updSrc_srcs, modAt_get, dropFrame_srcs]

theorem overrun_pcams (n : Fin 2) (s : State) : (overrun (pcamSrc n) s).pcams = (clearPcam n s).pcams := by
  unfold overrun
  dsimp only
  rw [finishStop_pcams, pcams_of_intake (intake_of_upstream (owesGap_upstream _ _)),
    pcams_of_intake (intake_of_upstream (giveWay_upstream ..)), State.updSrc_pcams, dropFrame_pcams]

/-! ### Frames that are delivered -/

/-- What reaches stage 8 is the last of the frames there (R313). -/
theorem reachStage8_last (p : Fin 16) (w : Work) (s : State) :
    ∃ v, (reachStage8 p w s).pipes[p].works.getLast? = some v ∧ v.whole = w.whole ∧ v.src = w.src := by
  have hspectrum : ∀ (rows : List (List Cand)) (t : State), (countSpectrum p rows t).pipes = t.pipes := fun rows t => by
    unfold countSpectrum
    split <;> rfl
  fun_cases reachStage8 p w s <;> rw [hspectrum, State.updPipe_pipes, modAt_get, List.getLast?_concat] <;> exact ⟨_, rfl, rfl, rfl⟩

/-- A frame handed to its pipeline is whole, and the last in stage 8 (R219). -/
theorem deliver_last (p : Fin 16) (i : Fin 18) (fs : List Frame) (parts : List (List Nat)) (st : Stamps) (s : State) :
    ∃ w, (deliver p i fs parts st s).pipes[p].works.getLast? = some w ∧ w.whole = true ∧ w.src = i := by
  unfold deliver nextLap
  dsimp only
  rw [State.updPipe_pipes, modAt_get, State.updPipe_pipes, modAt_get]
  obtain ⟨w, hlast, hwhole, hsrc⟩ := reachStage8_last p _ _
  exact ⟨w, hlast, hwhole, hsrc⟩

/-- A take that may be told to stop changes nothing else of its source. -/
theorem untaken_of_stopping (i : Fin 18) (s : State) {c : Prop} {_ : Decidable c} :
    (if c then s.updSrc i fun k => { k with take := .stopping } else s).srcs[i].untaken = s.srcs[i].untaken := by
  by_cases h : c
  · rw [if_pos h, State.updSrc_srcs, modAt_get]
    rfl
  · rw [if_neg h]

/-- A frame delivered counts on its source, whether or not the take's limit ends the take (R228). -/
theorem countFrame_src (i : Fin 18) (s : State) :
    (countFrame i s).srcs[i].untaken
      = ({ s.srcs[i] with frames := satInc s.srcs[i].frames, takeFrames := s.srcs[i].takeFrames + 1 } : Source).untaken := by
  unfold countFrame
  dsimp only
  rw [finishStop_src, untaken_of_stopping, srcs_of_intake (publish_intake _ _), State.updSrc_srcs, modAt_get]

theorem countFrame_pcams (i : Fin 18) (s : State) : (countFrame i s).pcams = s.pcams := by
  unfold countFrame
  dsimp only
  rw [finishStop_pcams]
  split <;> exact (pcams_of_intake (publish_intake _ _) :)

theorem countFrame_stages (i : Fin 18) (p : Fin 16) (s : State) : (countFrame i s).pipes[p].stages = s.pipes[p].stages := by
  unfold countFrame
  dsimp only
  rw [finishStop_stages]
  split <;> exact (stages_of_upstream (publish_upstream _ _) p :)

end Sys2Proof.Machine
end

