-- ==== Sys2Proof/Proofs/HeadFrames.lean ====
section
/-! The frames of a head (R215 to R220, R225): a start-of-frame block opens one, data blocks fill it or are counted as a run outside of it, and head
messages. -/

namespace Sys2Proof.Machine

open Sys2Proof

theorem srcs_of_unsent {s t : State} (h : t.unsent = s.unsent) : t.srcs = s.srcs := (congrArg State.srcs h :)

/-! ### Blocks that reach a head -/

/-- A port that runs with no replay brings its blocks to its Ready head (R199, R214). -/
theorem streamHead_of_ready {p h : Fin 16} {s : State} (hrun : s.ports[p].running = true) (hreplay : s.ports[p].replay = none)
    (hwhole : s.ports[p].broken = false) (hport : inReset (.port p) s = false) (hhead : headOf s p = some h) (hready : s.heads[h].state = .ready)
    (hreset : inReset (.head h) s = false) : streamHead s p = some h := by
  simp [-Fin.getElem_fin, streamHead, hrun, hreplay, hwhole, hport, hhead, hready, hreset, Option.filter]

/-- The port that has seen a start-of-frame block: a discard of its stream has ended (R202, R203). -/
def State.resumed (s : State) (p : Fin 16) : State := s.updPort p fun q => { q with broken := false }

/-- Without a head, the block counts on its port, and that is all (R215). -/
theorem startSeen_of_no_head {p : Fin 16} {s : State} (x : BitVec 256) (hrun : s.ports[p].running = true) (hreplay : s.ports[p].replay = none)
    (hreset : inReset (.port p) s = false) (hhead : headOf s p = none) :
    (startSeen p x s).ports[p] = { s.ports[p] with broken := false, discards := satInc s.ports[p].discards }
      ∧ (startSeen p x s).heads = s.heads ∧ (startSeen p x s).srcs = s.srcs := by
  have hresumed : headOf (s.resumed p) p = none := hhead
  simp only [State.resumed] at hresumed
  simp [-Fin.getElem_fin, startSeen, hrun, hreplay, hreset, hresumed]

theorem startSeen_of_ready {p h : Fin 16} {s : State} (x : BitVec 256) (hrun : s.ports[p].running = true) (hreplay : s.ports[p].replay = none)
    (hport : inReset (.port p) s = false) (hhead : headOf s p = some h) (hready : s.heads[h].state = .ready) (hreset : inReset (.head h) s = false) :
    startSeen p x s = startBlock h p (startOf x) (s.resumed p) := by
  have hq : (s.resumed p).ports[p] = { s.ports[p] with broken := false } := modAt_get _ _ _
  have hstream : streamHead (s.resumed p) p = some h :=
    streamHead_of_ready (by rw [hq]; exact hrun) (by rw [hq]; exact hreplay) (by rw [hq]) hport hhead hready hreset
  have hresumed : headOf (s.resumed p) p = some h := hhead
  simp only [State.resumed] at hresumed hstream ⊢
  simp [-Fin.getElem_fin, startSeen, hrun, hreplay, hport, hresumed, hstream]

/-! ### A frame opens -/

/-- With no frame open, the block opens one, unless it is the discarded frame's on another port (R219, R220). -/
theorem startBlock_of_closed {h p : Fin 16} {f : FrameStart} {s : State} (hclosed : s.heads[h].openAt = none)
    (hnew : ∀ g, s.heads[h].gone = some g → g.1 ≠ f.frame) : startBlock h p f s = openFrame h p f s := by
  unfold startBlock
  simp only [hclosed, Option.isNone_none, if_true]
  split
  next n on hgone =>
    have hne : n ≠ f.frame := hnew (n, on) hgone
    simp [hne]
  next => rfl

theorem sendPending_of_empty {h : Fin 16} {s : State} (frame : BitVec 16) (hempty : s.srcs[(headSrc h)].pendingSet = []) : sendPending h frame s = s := by
  simp [-Fin.getElem_fin, sendPending, hempty]

theorem frameFlags_checks (h p : Fin 16) (opening : Bool) (s : State) : (frameFlags h p opening s).checks = s.checks := s.updHead_checks h _ rfl

/-- The record of a frame that opens: its port's part is open, and the group and the last frame stay (R219, R220). -/
theorem openRecord_head {p : Fin 16} {k : Fin 4} {s : State} (h : Fin 16) (f : FrameStart) (live : Bool) (hk : Fin.ofNat 4 s.ports[p].headPort = k) :
    (openRecord h p f live s).heads[h].openAt = some s.coreTime ∧ (openRecord h p f live s).heads[h].ignoring = ! live
      ∧ (openRecord h p f live s).heads[h].skipping = false ∧ (openRecord h p f live s).heads[h].expNext = s.heads[h].expNext
      ∧ (openRecord h p f live s).heads[h].rx[k].opened = some f := by
  simp [-Fin.getElem_fin, -Fin.ofNat_eq_cast, openRecord, frameFlags, hk]

@[simp] theorem openRecord_srcs (h p : Fin 16) (f : FrameStart) (live : Bool) (s : State) : (openRecord h p f live s).srcs = s.srcs := rfl

@[simp] theorem openRecord_checks (h p : Fin 16) (f : FrameStart) (live : Bool) (s : State) : (openRecord h p f live s).checks = s.checks := by
  rw [openRecord, frameFlags_checks, State.updHead_checks _ _ _ rfl]

/-- The open frame is the head's last, and of its source the skips alone are counted (R221). -/
theorem countSkips_keeps (h : Fin 16) (f : FrameStart) (s : State) :
    (∃ b, (countSkips h f s).heads[h] = { s.heads[h] with lastFrame := some f.frame, skipFlag := b })
      ∧ (∃ n, (countSkips h f s).srcs[(headSrc h)] = { s.srcs[(headSrc h)] with skips := n }) ∧ (countSkips h f s).checks = s.checks := by
  refine ⟨?_, ?_, ?_⟩ <;> unfold countSkips <;> dsimp only
  · rw [State.updSrc_heads, State.updHead_heads, modAt_get]
    exact ⟨_, rfl⟩
  · rw [State.updSrc_srcs, modAt_get, State.updHead_srcs]
    exact ⟨_, rfl⟩
  · rw [State.updSrc_checks _ _ _ rfl, State.updHead_checks _ _ _ rfl]

/-- The first exposure of a group whose checks hold: its stamps' start is noted, and its take begins (R225, R227, R388). -/
theorem stampFrame_of_fit {h q : Fin 16} {s : State} (f : FrameStart) (hbound : boundPipe s (headSrc h) = some q)
    (hfit : startFails (takeEffect q s) q (headSrc h) = []) :
    (∃ m, (stampFrame h f true s).heads[h] = { s.heads[h] with mark := m })
      ∧ (stampFrame h f true s).srcs[(headSrc h)] = s.srcs[(headSrc h)].begun := by
  have hmark := startMark_upstream (headSrc h) (some f) none s
  generalize hv : ((startMark (headSrc h) (some f) none s).2.updHead h fun x => { x with mark := some (startMark (headSrc h) (some f) none s).1 }) = v
  have hchecks : v.checks = s.checks := by rw [← hv, State.updHead_checks _ _ _ rfl, checks_of_upstream hmark]
  have hheads : v.heads[h] = { s.heads[h] with mark := some (startMark (headSrc h) (some f) none s).1 } := by
    rw [← hv, State.updHead_heads, modAt_get, heads_of_intake (intake_of_upstream hmark)]
  have hsrcs : v.srcs = s.srcs := by rw [← hv, State.updHead_srcs, srcs_of_intake (intake_of_upstream hmark)]
  have hstart := groupStart_of_fit f.frame ((boundPipe_congr hchecks _).trans hbound) ((startFails_takeEffect_congr hchecks q _).trans hfit)
  have hframe : stampFrame h f true s = groupStart (headSrc h) f.frame v := by simp only [stampFrame, if_true, hv]
  rw [hframe, heads_of_intake hstart, srcs_of_intake hstart, State.updSrc_heads, State.updSrc_srcs, modAt_get, hsrcs]
  exact ⟨⟨_, hheads⟩, rfl⟩

/-- A frame that no take wants is recorded, to be ignored, and counted (R225). -/
theorem openFrame_of_unwanted {h : Fin 16} {s : State} (p : Fin 16) (f : FrameStart) (hgroup : s.heads[h].group = [])
    (hempty : s.srcs[(headSrc h)].pendingSet = []) (hwanted : wanted s (headSrc h) = false) :
    openFrame h p f s = countIdle (headSrc h) (openRecord h p f false (publish (0x0120 + (headSrc h).1) s)) := by
  simp only [openFrame, hgroup, List.isEmpty_nil, if_true, hwanted, sendPending_of_empty f.frame hempty, Bool.not_false]

/-- A wanted frame with the exposure index that is due is recorded, its skips are counted, and it starts its group (R220, R221, R225). -/
theorem openFrame_of_wanted {h : Fin 16} {s : State} (p : Fin 16) (f : FrameStart) (hgroup : s.heads[h].group = [])
    (hempty : s.srcs[(headSrc h)].pendingSet = []) (hwanted : wanted s (headSrc h) = true) (hdue : f.expIndex.1 = s.heads[h].expNext) :
    openFrame h p f s = stampFrame h f true (countSkips h f (openRecord h p f true (publish (0x0120 + (headSrc h).1) s))) := by
  obtain ⟨-, -, -, hexp, -⟩ := openRecord_head (p := p) (s := publish (0x0120 + (headSrc h).1) s) h f true rfl
  obtain ⟨⟨b, hhead⟩, -⟩ := countSkips_keeps h f (openRecord h p f true (publish (0x0120 + (headSrc h).1) s))
  have hpublished : (publish (0x0120 + (headSrc h).1) s).heads = s.heads := by rw [publish_frame]
  have hnext : (countSkips h f (openRecord h p f true (publish (0x0120 + (headSrc h).1) s))).heads[h].expNext = s.heads[h].expNext := by
    rw [hhead]
    exact hexp.trans (by rw [hpublished])
  simp only [openFrame, hgroup, List.isEmpty_nil, if_true, hwanted, sendPending_of_empty f.frame hempty, Bool.not_true, Bool.false_eq_true, if_false,
    hnext, hdue, ne_eq, not_true_eq_false]

section
variable {p h : Fin 16} {f : FrameStart} {s : State} (hclosed : s.heads[h].openAt = none) (hgroup : s.heads[h].group = [])
  (hnew : ∀ g, s.heads[h].gone = some g → g.1 ≠ f.frame) (hempty : s.srcs[(headSrc h)].pendingSet = [])
include hclosed hgroup hnew hempty

/-- A frame that no take wants is open to be ignored, and is counted by whether its source is bound (R225). -/
theorem startBlock_of_unwanted (hwanted : wanted s (headSrc h) = false) :
    (startBlock h p f s).heads[h].openAt = some s.coreTime ∧ (startBlock h p f s).heads[h].ignoring = true
      ∧ (startBlock h p f s).heads[h].skipping = false
      ∧ (startBlock h p f s).srcs[(headSrc h)] = s.srcs[(headSrc h)].passed (boundPipe s (headSrc h)).isSome := by
  rw [startBlock_of_closed hclosed hnew, openFrame_of_unwanted p f hgroup hempty hwanted]
  have hpublished := publish_frame (0x0120 + (headSrc h).1) s
  generalize publish (0x0120 + (headSrc h).1) s = u at hpublished ⊢
  have hcount := countIdle_intake (headSrc h) (openRecord h p f false u)
  obtain ⟨hopen, hignore, hskip, -, -⟩ := openRecord_head (p := p) (s := u) h f false rfl
  have hbound : boundPipe (openRecord h p f false u) (headSrc h) = boundPipe s (headSrc h) := by
    rw [boundPipe_congr (openRecord_checks h p f false u), hpublished]
    rfl
  have htime : u.coreTime = s.coreTime := by rw [hpublished]
  have hsrcs : u.srcs = s.srcs := by rw [hpublished]
  rw [heads_of_intake hcount, srcs_of_intake hcount, State.updSrc_heads, State.updSrc_srcs, modAt_get, hbound, openRecord_srcs, hsrcs, hopen, htime]
  exact ⟨rfl, hignore, hskip, rfl⟩

/-- A wanted frame whose checks hold is open on its port, and its take begins (R220, R225, R227). -/
theorem startBlock_of_wanted {q : Fin 16} {k : Fin 4} (hk : Fin.ofNat 4 s.ports[p].headPort = k) (hbound : boundPipe s (headSrc h) = some q)
    (hwanted : wanted s (headSrc h) = true) (hdue : f.expIndex.1 = s.heads[h].expNext) (hfit : startFails (takeEffect q s) q (headSrc h) = []) :
    (startBlock h p f s).heads[h].openAt = some s.coreTime ∧ (startBlock h p f s).heads[h].ignoring = false
      ∧ (startBlock h p f s).heads[h].lastFrame = some f.frame
      ∧ (startBlock h p f s).heads[h].rx[k].opened = some f
      ∧ ∃ n, (startBlock h p f s).srcs[(headSrc h)] = ({ s.srcs[(headSrc h)] with skips := n } : Source).begun := by
  rw [startBlock_of_closed hclosed hnew, openFrame_of_wanted p f hgroup hempty hwanted hdue]
  have hpublished := publish_frame (0x0120 + (headSrc h).1) s
  have hpchecks := publish_checks (0x0120 + (headSrc h).1) s
  generalize publish (0x0120 + (headSrc h).1) s = u at hpublished hpchecks ⊢
  have hku : Fin.ofNat 4 u.ports[p].headPort = k := by rw [hpublished]; exact hk
  have htime : u.coreTime = s.coreTime := by rw [hpublished]
  have hsrcs : u.srcs = s.srcs := by rw [hpublished]
  obtain ⟨hopen, hignore, -, -, hrx⟩ := openRecord_head h f true hku
  obtain ⟨⟨b, hhead⟩, ⟨n, hsrc⟩, hskips⟩ := countSkips_keeps h f (openRecord h p f true u)
  have hchecks := (hskips.trans (openRecord_checks h p f true u)).trans hpchecks
  obtain ⟨⟨m, hstamped⟩, hbegun⟩ :=
    stampFrame_of_fit f ((boundPipe_congr hchecks _).trans hbound) ((startFails_takeEffect_congr hchecks q _).trans hfit)
  rw [hstamped, hbegun, hhead, hsrc, openRecord_srcs, hsrcs, ← htime]
  exact ⟨hopen, hignore, rfl, hrx, n, rfl⟩

end

/-! ### Data blocks -/

theorem dataSeen_of_head {p h : Fin 16} {s : State} (x : BitVec 256) (hhead : streamHead s p = some h) : dataSeen p x s = dataBlock h p x s := by
  simp only [dataSeen, hhead]

/-- What of the samples of a data block joins a port's part of the frame: those that its payload completes, up to its share (R216, R220). -/
def PortRx.taken (r : PortRx) (b share : Nat) (x : BitVec 256) : List Nat × Nat × Nat :=
  takeSmps b (min 256 (share - r.samples.length)) (r.bits + 256) (r.acc + x.toNat * 2 ^ r.bits)

/-- A data block of an open frame adds its samples, the head input's and the frame's flags aside, where there is room for them (R23, R216, R220). -/
theorem dataBlock_of_open {h p q : Fin 16} {k : Fin 4} {s : State} {r : PortRx} (x : BitVec 256) (hk : Fin.ofNat 4 s.ports[p].headPort = k)
    (hr : s.heads[h].rx[k] = r) (hskip : s.heads[h].skipping = false) (hopen : r.opened.isSome = true) (hend : r.ended = none)
    (hlive : s.heads[h].ignoring = false) (hbound : boundPipe s (headSrc h) = some q)
    (hroom : (takesSamples s q = true ∧ inputFull s h = false) ∨ pausable s h = true)
    (hshare : r.samples.length < shareOf (shapeOf s (headSrc h)) (headPorts s h).length k.1) :
    (dataBlock h p x s).heads[h].rx[k].samples = r.samples ++ (r.taken (shapeOf s (headSrc h)).pixelBits
        (shareOf (shapeOf s (headSrc h)) (headPorts s h).length k.1) x).1
      ∧ (dataBlock h p x s).srcs = s.srcs := by
  have hgoes : ((! takesSamples s q || inputFull s h) && ! pausable s h) = false := by
    rcases hroom with ⟨htakes, hfull⟩ | hpause
    · simp [htakes, hfull]
    · simp [hpause]
  have hinside : (r.opened.isNone || r.ended.isSome) = false := by
    rw [hend, Option.isSome_none, Bool.or_false, ← Option.not_isSome, hopen]
    rfl
  simp only [dataBlock, hk, hskip, hr, hinside, hlive, hbound, hgoes, if_neg (Nat.not_le.mpr hshare), Bool.false_eq_true, if_false, PortRx.taken]
  simp [-Fin.getElem_fin, putInput, frameFlags, hr]

/-- A block outside a frame begins a run, which is counted (R220). -/
theorem dataBlock_of_stray {h p : Fin 16} {k : Fin 4} {s : State} (x : BitVec 256) (hk : Fin.ofNat 4 s.ports[p].headPort = k)
    (hskip : s.heads[h].skipping = false) (hclosed : s.heads[h].rx[k].opened = none) (hfirst : s.heads[h].rx[k].strayRun = false) :
    (dataBlock h p x s).srcs[(headSrc h)].discards = satInc s.srcs[(headSrc h)].discards ∧ (dataBlock h p x s).heads[h].rx[k].strayRun = true := by
  simp only [dataBlock, hk, hskip, hclosed, hfirst, Option.isNone_none, Bool.true_or, Bool.false_eq_true, if_true, if_false]
  simp [-Fin.getElem_fin]

/-! ### The obligation -/

/-- Pause, sent last of all, leaves the heads and the sources. -/
theorem settlePause_keeps (s : State) : (settlePause s).heads = s.heads ∧ (settlePause s).srcs = s.srcs :=
  ⟨heads_of_unsent (settlePause_unsent s), srcs_of_unsent (settlePause_unsent s)⟩

theorem startOfFrame_of_no_head {p : Fin 16} {s : State} (x : BitVec 256) (hrun : s.ports[p].running = true) (hreplay : s.ports[p].replay = none)
    (hreset : inReset (.port p) s = false) (hhead : headOf s p = none) :
    ∃ t, exec (.startOfFrame p x) s = .next t ∧ t.ports[p].discards = satInc s.ports[p].discards ∧ t.ports[p].broken = false
      ∧ t.srcs = s.srcs ∧ t.heads = s.heads := by
  obtain ⟨hport, hheads, hsrcs⟩ := startSeen_of_no_head x hrun hreplay hreset hhead
  obtain ⟨kheads, ksrcs⟩ := settlePause_keeps (startSeen p x s)
  have hbond := settlePause_bond p (startSeen p x s)
  rw [hport] at hbond
  exact ⟨_, rfl, (congrArg Port.discards hbond :), (congrArg Port.broken hbond :), ksrcs.trans hsrcs, kheads.trans hheads⟩

/-- A start-of-frame block at a Ready head is its head's and its source's (R220). -/
theorem startOfFrame_of_ready {p h : Fin 16} {s : State} (x : BitVec 256) (hrun : s.ports[p].running = true) (hreplay : s.ports[p].replay = none)
    (hport : inReset (.port p) s = false) (hhead : headOf s p = some h) (hready : s.heads[h].state = .ready) (hreset : inReset (.head h) s = false) :
    ∃ t, exec (.startOfFrame p x) s = .next t ∧ t.heads = (startBlock h p (startOf x) (s.resumed p)).heads
      ∧ t.srcs = (startBlock h p (startOf x) (s.resumed p)).srcs := by
  have hseen := startSeen_of_ready x hrun hreplay hport hhead hready hreset
  obtain ⟨hheads, hsrcs⟩ := settlePause_keeps (startSeen p x s)
  exact ⟨_, rfl, hheads.trans (congrArg State.heads hseen), hsrcs.trans (congrArg State.srcs hseen)⟩

/-- A data block on a port of a Ready head (R216). -/
theorem dataBlock_of_head {p h : Fin 16} {s : State} (x : BitVec 256) (hhead : streamHead s p = some h) :
    ∃ t, exec (.dataBlock p x) s = .next t ∧ t.heads = (dataBlock h p x s).heads ∧ t.srcs = (dataBlock h p x s).srcs := by
  have hseen := dataSeen_of_head x hhead
  obtain ⟨hheads, hsrcs⟩ := settlePause_keeps (dataSeen p x s)
  exact ⟨_, rfl, hheads.trans (congrArg State.heads hseen), hsrcs.trans (congrArg State.srcs hseen)⟩

/-- A head message is kept whole, and published (R218). -/
theorem headMessage_of_head {p h : Fin 16} {s : State} (x : BitVec 256) (hhead : streamHead s p = some h) :
    ∃ t, exec (.headMessage p x) s = .next t ∧ t.srcs = modAt s.srcs (headSrc h) (fun k => { k with headMsg := leBytes 32 x.toNat })
      ∧ t = { s with srcs := t.srcs, router := t.router } := by
  have hseen : messageSeen p x s = publish (0x0200 + h.1) (s.updSrc (headSrc h) fun k => { k with headMsg := leBytes 32 x.toNat }) := by
    simp only [messageSeen, hhead]
  refine ⟨messageSeen p x s, rfl, ?_⟩
  rw [hseen, publish_frame]
  exact ⟨rfl, rfl⟩

/-- Settles O20: a start-of-frame block by what it does to its head and source, a data block by what it adds, a head message as it is kept. -/
theorem framesOpenAndFill : Obligations.FramesOpenAndFill := by
  refine ⟨fun p x s hrun hreplay hport => ⟨startOfFrame_of_no_head x hrun hreplay hport, ?_⟩, fun p h x s hhead hskip => ⟨?_, ?_⟩,
    fun p h x s hhead => ?_⟩
  · intro h hhead hready hreset hclosed hgroup hnew hempty
    obtain ⟨t, hexec, hheads, hsrcs⟩ := startOfFrame_of_ready x hrun hreplay hport hhead hready hreset
    have hk : Fin.ofNat 4 (s.resumed p).ports[p].headPort = Fin.ofNat 4 s.ports[p].headPort := by rw [State.resumed, State.updPort_ports, modAt_get]
    refine ⟨fun hwanted => ⟨t, hexec, ?_⟩, fun q hbound hwanted hdue hfit => ⟨t, hexec, ?_⟩⟩
    · obtain ⟨hopen, hignore, hskip, hsrc⟩ := startBlock_of_unwanted (p := p) (s := s.resumed p) hclosed hgroup hnew hempty hwanted
      rw [hheads, hsrcs, hopen, hignore, hskip, hsrc]
      exact ⟨rfl, rfl, rfl, s.srcs[(headSrc h)].passed_counts (boundPipe s (headSrc h))⟩
    · obtain ⟨hopen, hignore, hlast, hrx, n, hsrc⟩ :=
        startBlock_of_wanted (s := s.resumed p) hclosed hgroup hnew hempty hk hbound hwanted hdue
          ((startFails_takeEffect_congr (s := s) (t := s.resumed p) rfl q (headSrc h)).trans hfit)
      obtain ⟨hno, hdiscards, -⟩ := Source.begun_keeps { s.srcs[(headSrc h)] with skips := n }
      rw [hheads, hsrcs, hopen, hignore, hlast, hrx, hsrc]
      exact ⟨rfl, rfl, rfl, rfl, Source.begun_running (take_of_wanted hwanted), hno, hdiscards⟩
  · intro q r hr hopen hend hlive hbound hroom hshare
    obtain ⟨t, hexec, hheads, hsrcs⟩ := dataBlock_of_head x hhead
    obtain ⟨hsamples, hkept⟩ := dataBlock_of_open x rfl hr.symm hskip hopen hend hlive hbound hroom hshare
    exact ⟨t, hexec, by rw [hheads, hsamples]; rfl, hsrcs.trans hkept⟩
  · intro hclosed hfirst
    obtain ⟨t, hexec, hheads, hsrcs⟩ := dataBlock_of_head x hhead
    obtain ⟨hcount, hrun⟩ := dataBlock_of_stray x rfl hskip hclosed hfirst
    exact ⟨t, hexec, by rw [hsrcs, hcount], by rw [hheads, hrun]⟩
  · obtain ⟨t, hexec, hsrcs, hframe⟩ := headMessage_of_head x hhead
    exact ⟨t, hexec, by rw [hsrcs, modAt_get], fun i hi => by rw [hsrcs, modAt_get_ne _ _ _ _ hi], hframe⟩

end Sys2Proof.Machine
end

