-- ==== Sys2Proof/Proofs/ParallelFrames.lean ====
section
/-! The frames of a parallel camera port (R225, R229 to R231): FSYNC opens one and ends it, samples join its line or overrun, and PCLK is lost. -/

namespace Sys2Proof.Machine

open Sys2Proof

/-! ### Whether the pipeline takes samples -/

/-- A parallel port with all that no pipeline sees of the frame that is coming set aside. -/
def Pcam.received (k : Pcam) : Pcam := { k with pclkLost := false, openAt := 0, mark := none, inLine := false }

/-- Whether a pipeline takes samples is a matter of what it sees of the parallel ports (R23, R265). -/
theorem takesSamples_pcams {s : State} {v : Vector Pcam 2} (h : ∀ n : Fin 2, v[n].received = s.pcams[n].received) (q : Fin 16) :
    takesSamples { s with pcams := v } q = takesSamples s q := by
  have hctl : ∀ n : Fin 2, v[n].ctl = s.pcams[n].ctl := fun n => (congrArg Pcam.ctl (h n) :)
  have hopened : ∀ n : Fin 2, v[n].opened = s.pcams[n].opened := fun n => (congrArg Pcam.opened (h n) :)
  have hignoring : ∀ n : Fin 2, v[n].ignoring = s.pcams[n].ignoring := fun n => (congrArg Pcam.ignoring (h n) :)
  have hline : ∀ n : Fin 2, v[n].line = s.pcams[n].line := fun n => (congrArg Pcam.line (h n) :)
  have hlines : ∀ n : Fin 2, v[n].lines = s.pcams[n].lines := fun n => (congrArg Pcam.lines (h n) :)
  have hshape : ∀ i, shapeOf { s with pcams := v } i = shapeOf s i := fun i => by simp only [shapeOf, hctl]
  have hparts : ∀ i, partsOf { s with pcams := v } i = partsOf s i := fun i => by simp only [partsOf, hlines, hline]; rfl
  have hlast : ∀ i, lastExposure { s with pcams := v } i = lastExposure s i := fun i => by simp only [lastExposure, hopened, hignoring, hshape]
  have hstarved : streamStarved { s with pcams := v } q = streamStarved s q := by
    unfold streamStarved
    simp only [hparts, hlast, hshape]
    rfl
  unfold takesSamples
  rw [hstarved]
  rfl

theorem takesSamples_publish (code : Nat) (s : State) (q : Fin 16) : takesSamples (publish code s) q = takesSamples s q := by
  rw [publish_frame]
  rfl

/-- A change of a parallel port of which its pipeline sees nothing. -/
theorem takesSamples_updPcam {s : State} {n : Fin 2} {f : Pcam → Pcam} (h : (f s.pcams[n]).received = s.pcams[n].received) (q : Fin 16) :
    takesSamples (s.updPcam n f) q = takesSamples s q :=
  takesSamples_pcams (congrFun (modAt_keeps Pcam.received s.pcams n f h)) q

theorem State.updPcam_updPcam (s : State) (n : Fin 2) (f g : Pcam → Pcam) : (s.updPcam n f).updPcam n g = s.updPcam n fun k => g (f k) := by
  simp [State.updPcam, modAt]

/-! ### FSYNC becomes active -/

/-- A parallel port whose frame opens at a core time, to be delivered or ignored (R225, R229). -/
def Pcam.opening (now : Nat) (live : Bool) (k : Pcam) : Pcam :=
  { k with opened := true, openAt := now, ignoring := ! live, line := [], lines := [], inLine := false, mark := none }

/-- The frame open on a parallel port, and published. -/
def State.pcamOpened (s : State) (n : Fin 2) (live : Bool) : State :=
  publish (0x0120 + (pcamSrc n).1) (s.updPcam n (Pcam.opening s.coreTime live))

theorem State.pcamOpened_intake (s : State) (n : Fin 2) (live : Bool) :
    (s.pcamOpened n live).intake = (s.updPcam n (Pcam.opening s.coreTime live)).intake :=
  publish_intake _ _

theorem State.pcamOpened_checks (s : State) (n : Fin 2) (live : Bool) : (s.pcamOpened n live).checks = s.checks :=
  (publish_checks _ _).trans (s.updPcam_checks n _ rfl)

theorem State.pcamOpened_pcam (s : State) (n : Fin 2) (live : Bool) : (s.pcamOpened n live).pcams[n] = s.pcams[n].opening s.coreTime live := by
  rw [pcams_of_intake (s.pcamOpened_intake n live), State.updPcam_pcams, modAt_get]

theorem State.pcamOpened_srcs (s : State) (n : Fin 2) (live : Bool) : (s.pcamOpened n live).srcs = s.srcs :=
  (srcs_of_intake (s.pcamOpened_intake n live) :)

/-- What a pipeline sees of a frame that opens to be delivered (R23, R229). -/
theorem takesSamples_pcamOpened (s : State) (n : Fin 2) (q : Fin 16) :
    takesSamples (s.pcamOpened n true) q
      = takesSamples (s.updPcam n fun k => { k with opened := true, ignoring := false, line := [], lines := [] }) q := by
  have hseen : s.updPcam n (Pcam.opening s.coreTime true)
      = (s.updPcam n fun k => { k with opened := true, ignoring := false, line := [], lines := [] }).updPcam n
        fun k => { k with openAt := s.coreTime, inLine := false, mark := none } := by
    rw [State.updPcam_updPcam]
    rfl
  rw [State.pcamOpened, takesSamples_publish, hseen, takesSamples_updPcam rfl]

section
variable {n : Fin 2} {s : State} (hon : bitAt s.pcams[n].ctl 31 = true) (hclosed : s.pcams[n].opened = false)
include hon hclosed

theorem pcamStart_of_unwanted (hwanted : wanted s (pcamSrc n) = false) : pcamStart n s = countIdle (pcamSrc n) (s.pcamOpened n false) := by
  simp only [pcamStart, hon, hclosed, hwanted, Bool.not_true, Bool.or_self, Bool.false_eq_true, if_false, Bool.not_false, if_true]
  rfl

/-- A frame that begins while the pipeline takes no samples overruns (R230). -/
theorem pcamStart_of_stalled {q : Fin 16} (hwanted : wanted s (pcamSrc n) = true) (hbound : boundPipe (s.pcamOpened n true) (pcamSrc n) = some q)
    (htakes : takesSamples (s.pcamOpened n true) q = false) :
    pcamStart n s = overrun (pcamSrc n) ((s.pcamOpened n true).updPcam n fun k => { k with ignoring := true }) := by
  have hstalled : ((boundPipe (s.pcamOpened n true) (pcamSrc n)).map (takesSamples (s.pcamOpened n true)) == some false) = true := by
    rw [hbound, Option.map_some, htakes]
    rfl
  simp only [pcamStart, hon, hclosed, hwanted, Bool.not_true, Bool.or_self, Bool.false_eq_true, if_false]
  exact if_pos hstalled

/-- A wanted frame, its stamps' start noted, starts like a group of one (R227, R388). -/
theorem pcamStart_of_wanted {q : Fin 16} (hwanted : wanted s (pcamSrc n) = true) (hbound : boundPipe (s.pcamOpened n true) (pcamSrc n) = some q)
    (htakes : takesSamples (s.pcamOpened n true) q = true) :
    pcamStart n s = groupStart (pcamSrc n) 0 ((startMark (pcamSrc n) none none (s.pcamOpened n true)).2.updPcam n fun k =>
      { k with mark := some (startMark (pcamSrc n) none none (s.pcamOpened n true)).1 }) := by
  have hgoes : ((boundPipe (s.pcamOpened n true) (pcamSrc n)).map (takesSamples (s.pcamOpened n true)) == some false) = false := by
    rw [hbound, Option.map_some, htakes]
    rfl
  simp only [pcamStart, hon, hclosed, hwanted, Bool.not_true, Bool.or_self, Bool.false_eq_true, if_false]
  exact if_neg (Bool.eq_false_iff.mp hgoes)

/-- A frame that no take wants is open, to be ignored, and counted (R225). -/
theorem pcamStart_unwanted_keeps (hwanted : wanted s (pcamSrc n) = false) :
    (pcamStart n s).pcams[n] = s.pcams[n].opening s.coreTime false
      ∧ (pcamStart n s).srcs[(pcamSrc n)] = s.srcs[(pcamSrc n)].passed (boundPipe s (pcamSrc n)).isSome := by
  have hcount := countIdle_intake (pcamSrc n) (s.pcamOpened n false)
  rw [pcamStart_of_unwanted hon hclosed hwanted, pcams_of_intake hcount, srcs_of_intake hcount, State.updSrc_pcams, State.updSrc_srcs, modAt_get,
    s.pcamOpened_pcam, s.pcamOpened_srcs, boundPipe_congr (s.pcamOpened_checks n false)]
  exact ⟨rfl, rfl⟩

section
variable {q : Fin 16} (hwanted : wanted s (pcamSrc n) = true) (hbound : boundPipe s (pcamSrc n) = some q)
include hwanted hbound

theorem pcamStart_stalled_keeps (htakes : takesSamples (s.pcamOpened n true) q = false) :
    (pcamStart n s).pcams[n].opened = true ∧ (pcamStart n s).pcams[n].ignoring = true
      ∧ (pcamStart n s).srcs[(pcamSrc n)].overruns = satInc s.srcs[(pcamSrc n)].overruns := by
  have hbound' := (boundPipe_congr (s.pcamOpened_checks n true) (pcamSrc n)).trans hbound
  have hsrc := overrun_src (pcamSrc n) ((s.pcamOpened n true).updPcam n fun k => { k with ignoring := true })
  rw [State.updPcam_srcs, s.pcamOpened_srcs] at hsrc
  rw [pcamStart_of_stalled hon hclosed hwanted hbound' htakes, overrun_pcams, clearPcam, State.updPcam_pcams, modAt_get, State.updPcam_pcams, modAt_get,
    s.pcamOpened_pcam]
  exact ⟨rfl, rfl, Source.overruns_of_untaken hsrc⟩

theorem pcamStart_wanted_keeps (htakes : takesSamples (s.pcamOpened n true) q = true) (hfit : startFails (takeEffect q s) q (pcamSrc n) = []) :
    (∃ m, (pcamStart n s).pcams[n] = { s.pcams[n].opening s.coreTime true with mark := m })
      ∧ (pcamStart n s).srcs[(pcamSrc n)] = s.srcs[(pcamSrc n)].begun := by
  have hbound' := (boundPipe_congr (s.pcamOpened_checks n true) (pcamSrc n)).trans hbound
  rw [pcamStart_of_wanted hon hclosed hwanted hbound' htakes]
  have hmark := startMark_upstream (pcamSrc n) none none (s.pcamOpened n true)
  generalize startMark (pcamSrc n) none none (s.pcamOpened n true) = m at hmark ⊢
  have hin := intake_of_upstream hmark
  have hchecks : (m.2.updPcam n fun k => { k with mark := some m.1 }).checks = s.checks := by
    rw [State.updPcam_checks _ _ _ rfl, checks_of_upstream hmark, s.pcamOpened_checks]
  have hstart := groupStart_of_fit 0 ((boundPipe_congr hchecks _).trans hbound) ((startFails_takeEffect_congr hchecks q _).trans hfit)
  rw [pcams_of_intake hstart, srcs_of_intake hstart, State.updSrc_pcams, State.updPcam_pcams, modAt_get, pcams_of_intake hin, s.pcamOpened_pcam,
    State.updSrc_srcs, modAt_get, State.updPcam_srcs, srcs_of_intake hin, s.pcamOpened_srcs]
  exact ⟨⟨_, rfl⟩, rfl⟩

end

end

/-! ### Samples -/

theorem pcamEdge_of_closed {n : Fin 2} {s : State} (lsync dval : Bool) (d : Nat) (hclosed : s.pcams[n].opened = false) :
    pcamEdge n lsync dval d s = s := by
  simp [-Fin.getElem_fin, pcamEdge, hclosed]

/-- A sample of an open line joins it, or overruns while the pipeline takes none (R230). -/
theorem pcamEdge_of_live {n : Fin 2} {q : Fin 16} {s : State} {lsync dval : Bool} (d : Nat) (hopen : s.pcams[n].opened = true)
    (hlive : s.pcams[n].ignoring = false) (hline : lsync ≠ bitAt s.pcams[n].ctl 28)
    (hvalid : bitAt s.pcams[n].ctl 26 = false ∨ dval ≠ bitAt s.pcams[n].ctl 27) (hbound : boundPipe s (pcamSrc n) = some q) :
    pcamEdge n lsync dval d s = if takesSamples s q = true
      then s.updPcam n fun k => { k with inLine := true, line := k.line ++ pcamSmps s.pcams[n].ctl d }
      else overrun (pcamSrc n) (s.updPcam n fun k => { k with inLine := true }) := by
  have hin : (lsync != bitAt s.pcams[n].ctl 28) = true := bne_iff_ne.mpr hline
  have hon : (! bitAt s.pcams[n].ctl 26 || (dval != bitAt s.pcams[n].ctl 27)) = true := by
    rcases hvalid with hoff | hdval
    · rw [hoff]; rfl
    · rw [bne_iff_ne.mpr hdval, Bool.or_true]
  have hbound' : boundPipe (s.updPcam n fun k => { k with inLine := true }) (pcamSrc n) = some q := hbound
  have htakes : takesSamples (s.updPcam n fun k => { k with inLine := true }) q = takesSamples s q := takesSamples_updPcam rfl q
  simp only [pcamEdge, hopen, hlive, hin, hon, hbound', htakes, Bool.not_true, Bool.false_eq_true, if_false, Bool.and_self, Bool.or_self,
    State.updPcam_updPcam]
  cases takesSamples s q <;> rfl

/-! ### FSYNC becomes inactive, and PCLK is lost -/

/-- A parallel port with no frame open, which is what FSYNC's end makes of it (R229). -/
def Pcam.closed (k : Pcam) : Pcam := { k with opened := false, ignoring := false, line := [], lines := [], mark := none }

/-- The port's part in the end of a line (R229). -/
def Pcam.lineDone (k : Pcam) : Pcam := { k with inLine := false, line := [] }

theorem lineEnd_of_ignored {n : Fin 2} {s : State} (hignored : s.pcams[n].ignoring = true) : lineEnd n s = s.updPcam n Pcam.lineDone := by
  simp only [lineEnd, hignored, if_true]
  rfl

/-- A frame that is ignored ends without a trace (R225). -/
theorem pcamEnd_of_ignored {n : Fin 2} {s : State} (hopen : s.pcams[n].opened = true) (hignored : s.pcams[n].ignoring = true)
    (hidle : s.srcs[(pcamSrc n)].take = .idle) :
    pcamEnd n s = (if s.pcams[n].inLine = true then s.updPcam n Pcam.lineDone else s).updPcam n Pcam.closed := by
  have hdone : (s.updPcam n Pcam.lineDone).pcams[n].ignoring = true := by rw [State.updPcam_pcams, modAt_get]; exact hignored
  cases hline : s.pcams[n].inLine with
  | false =>
    simp only [pcamEnd, hopen, hline, hignored, Bool.not_true, Bool.false_eq_true, if_false, if_true]
    exact finishStop_of_not_stopping (by rw [State.updPcam_srcs, hidle]; exact TakeState.noConfusion)
  | true =>
    simp only [pcamEnd, hopen, hline, lineEnd_of_ignored hignored, hdone, Bool.not_true, Bool.false_eq_true, if_false, if_true]
    exact finishStop_of_not_stopping (by rw [State.updPcam_srcs, State.updPcam_srcs, hidle]; exact TakeState.noConfusion)

section
variable {n : Fin 2} {s : State} (hopen : s.pcams[n].opened = true) (hlive : s.pcams[n].ignoring = false)
include hopen hlive

/-- A frame of all its lines is handed to its pipeline, and counted (R219, R228, R231). -/
theorem pcamEnd_of_whole {q : Fin 16} {m : StampMark} (hbetween : s.pcams[n].inLine = false) (hbound : boundPipe s (pcamSrc n) = some q)
    (hmark : s.pcams[n].mark = some m) (hwhole : s.pcams[n].lines.length = (shapeOf s (pcamSrc n)).height) :
    ∃ fs parts st, pcamEnd n s = countFrame (pcamSrc n) (deliver q (pcamSrc n) fs parts st (s.updPcam n Pcam.closed)) := by
  simp only [pcamEnd, hopen, hlive, hbetween, hbound, hmark, hwhole, Bool.not_true, Bool.false_eq_true, if_false, ne_eq, not_true_eq_false]
  exact ⟨_, _, _, rfl⟩

/-- Any other is discarded (R231). -/
theorem pcamEnd_of_short (hbetween : s.pcams[n].inLine = false) (hshort : s.pcams[n].lines.length ≠ (shapeOf s (pcamSrc n)).height) :
    pcamEnd n s = (discardFrame (pcamSrc n) s).updPcam n fun k => { k with opened := false, ignoring := false } := by
  simp only [pcamEnd, hopen, hlive, hbetween, Bool.not_true, Bool.false_eq_true, if_false]
  exact if_pos hshort

theorem pcamEnd_whole_keeps {q : Fin 16} {m : StampMark} (hbetween : s.pcams[n].inLine = false) (hbound : boundPipe s (pcamSrc n) = some q)
    (hmark : s.pcams[n].mark = some m) (hwhole : s.pcams[n].lines.length = (shapeOf s (pcamSrc n)).height) :
    (pcamEnd n s).pcams[n].opened = false ∧ (pcamEnd n s).srcs[(pcamSrc n)].frames = satInc s.srcs[(pcamSrc n)].frames
      ∧ (pcamEnd n s).srcs[(pcamSrc n)].discards = s.srcs[(pcamSrc n)].discards
      ∧ ∃ w, (pcamEnd n s).pipes[q].works.getLast? = some w ∧ w.whole = true ∧ w.src = pcamSrc n := by
  obtain ⟨fs, parts, st, hend⟩ := pcamEnd_of_whole hopen hlive hbetween hbound hmark hwhole
  have hin := deliver_intake q (pcamSrc n) fs parts st (s.updPcam n Pcam.closed)
  obtain ⟨w, hlast, hw⟩ := deliver_last q (pcamSrc n) fs parts st (s.updPcam n Pcam.closed)
  rw [hend]
  generalize deliver q (pcamSrc n) fs parts st (s.updPcam n Pcam.closed) = u at hin hlast ⊢
  have hsrc := countFrame_src (pcamSrc n) u
  have hworks : (countFrame (pcamSrc n) u).pipes[q].works = u.pipes[q].works := works_of_stages (countFrame_stages (pcamSrc n) q u)
  rw [srcs_of_intake hin, State.updPcam_srcs] at hsrc
  rw [countFrame_pcams, pcams_of_intake hin, State.updPcam_pcams, modAt_get, hworks]
  exact ⟨rfl, Source.frames_of_untaken hsrc, (Source.discards_of_untaken hsrc :), w, hlast, hw⟩

theorem pcamEnd_short_keeps (hbetween : s.pcams[n].inLine = false) (hshort : s.pcams[n].lines.length ≠ (shapeOf s (pcamSrc n)).height) :
    (pcamEnd n s).pcams[n].opened = false ∧ (pcamEnd n s).srcs[(pcamSrc n)].frames = s.srcs[(pcamSrc n)].frames
      ∧ (pcamEnd n s).srcs[(pcamSrc n)].discards = satInc s.srcs[(pcamSrc n)].discards := by
  have hsrc := discardFrame_src (pcamSrc n) s
  rw [pcamEnd_of_short hopen hlive hbetween hshort, State.updPcam_pcams, modAt_get]
  exact ⟨rfl, (Source.frames_of_untaken hsrc :), Source.discards_of_untaken hsrc⟩

/-- The loss of PCLK discards the frame, and may end its take (R231). -/
theorem pcamLost_keeps :
    (pcamLost n s).pcams[n].pclkLost = true ∧ (pcamLost n s).pcams[n].opened = false
      ∧ (pcamLost n s).srcs[(pcamSrc n)].discards = satInc s.srcs[(pcamSrc n)].discards := by
  have hlost : pcamLost n s = finishStop (pcamSrc n) ((discardFrame (pcamSrc n) s).updPcam n fun k =>
      { k with pclkLost := true, opened := false, ignoring := false, inLine := false }) := by
    simp only [pcamLost, hopen, hlive, Bool.not_true, Bool.false_eq_true, if_false]
  have hsrc := finishStop_src (pcamSrc n) ((discardFrame (pcamSrc n) s).updPcam n fun k =>
    { k with pclkLost := true, opened := false, ignoring := false, inLine := false })
  rw [State.updPcam_srcs, discardFrame_src] at hsrc
  rw [hlost, finishStop_pcams, State.updPcam_pcams, modAt_get]
  exact ⟨rfl, rfl, Source.discards_of_untaken hsrc⟩

end

theorem pcamLost_of_ignored {n : Fin 2} {s : State} (hopen : s.pcams[n].opened = true) (hignored : s.pcams[n].ignoring = true)
    (hidle : s.srcs[(pcamSrc n)].take = .idle) :
    pcamLost n s = s.updPcam n fun k => { k with pclkLost := true, opened := false, ignoring := false, inLine := false } := by
  simp only [pcamLost, hopen, hignored, Bool.not_true, Bool.false_eq_true, if_false, if_true]
  exact finishStop_of_not_stopping (by rw [State.updPcam_srcs, hidle]; exact TakeState.noConfusion)

/-! ### The obligation -/

/-- Out of reset the commands of a parallel port are the port's own steps. -/
theorem exec_pcam {n : Fin 2} {s : State} (h : inReset (.pcam n) s = false) :
    exec (.pcamFrameStart n) s = .next (pcamStart n s) ∧ (∀ ls dv d, exec (.pcamSample n ls dv d) s = .next (pcamEdge n ls dv d s))
      ∧ exec (.pcamFrameEnd n) s = .next (pcamEnd n s) ∧ exec (.pclkLost n) s = .next (pcamLost n s) := by
  simp only [exec, execPcamFrameStart, execPcamSample, execPcamFrameEnd, execPclkLost, h, Bool.false_eq_true, if_false, implies_true, and_self]

/-- Settles O22: each edge of FSYNC and each sample by what it does to the port, its source and, for a whole frame, stage 8. -/
theorem parallelPortFrames : Obligations.ParallelPortFrames := by
  intro n s hreset
  obtain ⟨hstart, hsample, hend, hlost⟩ := exec_pcam hreset
  refine ⟨fun hon hclosed hwanted => ⟨_, hstart, ?_⟩, fun q u hon hclosed hwanted hbound hu => ?_, fun hclosed ls dv d => ?_,
    fun ls dv d q hopen hlive hline hvalid hbound => ?_, fun hopen hignored hidle => ⟨_, hend, ?_⟩,
    fun q m hopen hlive hbetween hbound hmark => ⟨fun hwhole => ?_, fun hshort => ⟨_, hend, pcamEnd_short_keeps hopen hlive hbetween hshort⟩⟩,
    fun hopen hignored hidle => ⟨_, hlost, ?_⟩, fun hopen hlive => ⟨_, hlost, pcamLost_keeps hopen hlive⟩, fun hclosed => ?_⟩
  · obtain ⟨hpcam, hsrc⟩ := pcamStart_unwanted_keeps hon hclosed hwanted
    obtain ⟨hunbound, hidle⟩ := s.srcs[(pcamSrc n)].passed_counts (boundPipe s (pcamSrc n))
    rw [hpcam, hsrc]
    exact ⟨rfl, rfl, rfl, fun h => (hunbound h).1, fun h => (hidle h).1⟩
  · have htakes := takesSamples_pcamOpened s n q
    rw [← hu] at htakes
    refine ⟨fun htake hfit => ⟨_, hstart, ?_⟩, fun hstall => ⟨_, hstart, pcamStart_stalled_keeps hon hclosed hwanted hbound (htakes.trans hstall)⟩⟩
    obtain ⟨⟨m, hpcam⟩, hsrc⟩ := pcamStart_wanted_keeps hon hclosed hwanted hbound (htakes.trans htake) hfit
    obtain ⟨-, -, hoverruns, -⟩ := s.srcs[(pcamSrc n)].begun_keeps
    rw [hpcam, hsrc]
    exact ⟨rfl, rfl, rfl, Source.begun_running (take_of_wanted hwanted), hoverruns⟩
  · rw [hsample, pcamEdge_of_closed ls dv d hclosed]
  · have hedge := pcamEdge_of_live d hopen hlive hline hvalid hbound
    refine ⟨fun htake => ⟨_, hsample ls dv d, ?_⟩, fun hstall => ⟨_, hsample ls dv d, ?_⟩⟩
    · rw [hedge, if_pos htake, State.updPcam_pcams, modAt_get]
      exact ⟨rfl, rfl, rfl⟩
    · have hsrc := overrun_src (pcamSrc n) (s.updPcam n fun k => { k with inLine := true })
      rw [hedge, if_neg (Bool.eq_false_iff.mp hstall), overrun_pcams, clearPcam, State.updPcam_pcams, modAt_get]
      exact ⟨rfl, Source.overruns_of_untaken hsrc⟩
  · rw [pcamEnd_of_ignored hopen hignored hidle, State.updPcam_pcams, modAt_get]
    split <;> exact ⟨rfl, rfl, rfl, rfl⟩
  · obtain ⟨hclosed, hframes, hdiscards, w, hwork⟩ := pcamEnd_whole_keeps hopen hlive hbetween hbound hmark hwhole
    exact ⟨_, w, hend, hclosed, hframes, hdiscards, hwork⟩
  · rw [pcamLost_of_ignored hopen hignored hidle, State.updPcam_pcams, modAt_get]
    exact ⟨rfl, rfl, rfl⟩
  · simp [-Fin.getElem_fin, hlost, hend, pcamLost, pcamEnd, hclosed]

end Sys2Proof.Machine
end


section
/-! Streamed words of stage 4 and the reorder readback (R242, R261, R265): what a word makes of its region's entries and of its pipeline, and what it
leaves of the rest. A bad word marks the pipeline late, and one that finds no room leaves the entries (log entry 38). -/

namespace Sys2Proof.Machine

open Sys2Proof

/-! ### A change of one pipeline -/

/-- A pipeline's change is what it makes of that pipeline. -/
theorem State.updPipe_congr {s : State} {p : Fin 16} {f g : Pipe → Pipe} (h : f s.pipes[p] = g s.pipes[p]) : s.updPipe p f = s.updPipe p g :=
  congrArg (fun k => { s with pipes := s.pipes.set p.1 k p.2 }) h

theorem State.updPipe_updPipe (s : State) (p : Fin 16) (f g : Pipe → Pipe) : (s.updPipe p f).updPipe p g = s.updPipe p fun k => g (f k) := by
  have hpipes : modAt (modAt s.pipes p f) p g = modAt s.pipes p fun k => g (f k) := by
    rw [modAt, modAt_get, modAt, modAt, Vector.set_set]
  exact congrArg (fun v => { s with pipes := v }) hpipes

theorem pipes_of_unsent {s t : State} (h : t.unsent = s.unsent) : t.pipes = s.pipes := (congrArg State.pipes h :)

/-- A change of one pipeline and of the fault state: the pipeline is what the change makes of it, and all that a streamed word or the readback could
reach besides stays as it was. -/
theorem updPipe_of_unsent {s t : State} {p : Fin 16} {f : Pipe → Pipe} {g : Faults}
    (h : t.unsent = ({ s.updPipe p f with faults := g } : State).unsent) :
    t.pipes[p] = f s.pipes[p] ∧ (∀ k, k ≠ p → t.pipes[k] = s.pipes[k]) ∧ t.qm = s.qm ∧ t.srcs = s.srcs
      ∧ t.mapStore = s.mapStore ∧ t.host = s.host := by
  have hpipes : t.pipes = modAt s.pipes p f := pipes_of_unsent h
  rw [hpipes]
  exact ⟨modAt_get _ _ _, fun k hk => modAt_get_ne _ _ _ _ hk, (congrArg State.qm h :), (congrArg State.srcs h :), (congrArg State.mapStore h :),
    (congrArg State.host h :)⟩

/-! ### Errors of the DDR5 channels -/

/-- A counted error changes the counters of the DDR5 channels and nothing else (R525). -/
theorem countDdr_frame (uncorrected : Bool) (a : Nat) (s : State) :
    countDdr uncorrected a s = { s with host := { s.host with ddr := (countDdr uncorrected a s).host.ddr } } := by
  unfold countDdr
  split <;> rfl

theorem countDdr_pipes (uncorrected : Bool) (a : Nat) (s : State) : (countDdr uncorrected a s).pipes = s.pipes := by rw [countDdr_frame]
theorem countDdr_qm (uncorrected : Bool) (a : Nat) (s : State) : (countDdr uncorrected a s).qm = s.qm := by rw [countDdr_frame]

/-- Whether a pipeline takes a streamed word, and its room for one, do not depend on these counters. -/
theorem countDdr_keeps_stream (uncorrected : Bool) (a : Nat) (p : Fin 16) (r : Fin 5) (s : State) :
    inReset (.pipe p) (countDdr uncorrected a s) = inReset (.pipe p) s ∧ streams (countDdr uncorrected a s) p r = streams s p r
      ∧ prefetched (countDdr uncorrected a s) p = prefetched s p := by
  rw [countDdr_frame]
  exact ⟨rfl, rfl, rfl⟩

/-! ### The prefetch buffer -/

/-- One more entry of region r in the prefetch buffer; the bad words of the frames to come are then `bad` (R261, R265). -/
def Pipe.filled (r : Fin 5) (bad : List (Fin 5 × Nat × Nat)) (k : Pipe) : Pipe :=
  { k with prefetch := k.prefetch.set r.1 (k.prefetch[r] + 1) r.2, badWords := bad }

theorem fillStream_of_room {p : Fin 16} {s : State} (hroom : prefetched s p + 8 ≤ 524288) (r : Fin 5) (w : Nat) (bad : Bool) :
    ∃ ws, fillStream p r w bad s = s.updPipe p (Pipe.filled r ws) :=
  ⟨_, (if_neg (Nat.not_lt.mpr hroom)).trans (State.updPipe_congr rfl)⟩

theorem fillStream_of_full {p : Fin 16} {s : State} (hfull : 524288 < prefetched s p + 8) (r : Fin 5) (w : Nat) (bad : Bool) :
    fillStream p r w bad s = s :=
  if_pos hfull

/-! ### Bad and late words -/

/-- Late: one more uncorrectable word, with its fault posted in this frame (R261). -/
def Pipe.late (k : Pipe) : Pipe := { k with streamLate := true, eccUncorr := satInc k.eccUncorr, eccLogged := true }

/-- A bad word makes its pipeline late; beside it only the fault state may change, by the frame's first bad word (R261). -/
theorem streamBad_late (p : Fin 16) (r : Fin 5) (w : Nat) (s : State) :
    ∃ g, streamBad p r w s = { s.updPipe p Pipe.late with faults := g } := by
  unfold streamBad
  dsimp only
  split
  next hlogged =>
    rw [State.updPipe_pipes, modAt_get] at hlogged
    refine ⟨s.faults, State.updPipe_congr ?_⟩
    rw [Pipe.late, ← hlogged]
  next =>
    rw [fault_frame, State.updPipe_updPipe]
    exact ⟨_, rfl⟩

/-! ### A word's return -/

section

variable {p : Fin 16} {r : Fin 5} {s : State}

theorem streamReturn_of_unstreamed (hunstreamed : streams s p r = false) (w : Nat) (bad : Bool) : streamReturn p r w bad s = s := by
  simp only [streamReturn, hunstreamed, Bool.not_false, Bool.or_true, if_true]

variable (hreset : inReset (.pipe p) s = false) (hstreams : streams s p r = true)

include hreset hstreams

/-- A pipeline out of reset that streams the region takes the word, and is late with a bad one. -/
theorem streamReturn_of_streamed (w : Nat) (bad : Bool) :
    streamReturn p r w bad s = settlePause (if bad then streamBad p r w (fillStream p r w bad s) else fillStream p r w bad s) := by
  simp only [streamReturn, hreset, hstreams, Bool.not_true, Bool.or_self, Bool.false_eq_true, if_false]

theorem streamReturn_good (hroom : prefetched s p + 8 ≤ 524288) (w : Nat) :
    ∃ ws, (streamReturn p r w false s).unsent = (s.updPipe p (Pipe.filled r ws)).unsent := by
  obtain ⟨ws, hfill⟩ := fillStream_of_room hroom r w false
  refine ⟨ws, ?_⟩
  rw [streamReturn_of_streamed hreset hstreams, settlePause_unsent, if_neg Bool.false_ne_true, hfill]

theorem streamReturn_bad (hroom : prefetched s p + 8 ≤ 524288) (w : Nat) :
    ∃ ws g, (streamReturn p r w true s).unsent = ({ s.updPipe p fun k => (k.filled r ws).late with faults := g } : State).unsent := by
  obtain ⟨ws, hfill⟩ := fillStream_of_room hroom r w true
  obtain ⟨g, hbad⟩ := streamBad_late p r w (s.updPipe p (Pipe.filled r ws))
  refine ⟨ws, g, ?_⟩
  rw [streamReturn_of_streamed hreset hstreams, settlePause_unsent, if_pos rfl, hfill, hbad, State.updPipe_updPipe]

theorem streamReturn_full (hfull : 524288 < prefetched s p + 8) (w : Nat) : (streamReturn p r w false s).unsent = s.unsent := by
  rw [streamReturn_of_streamed hreset hstreams, settlePause_unsent, if_neg Bool.false_ne_true, fillStream_of_full hfull]

end

/-! ### The commands -/

theorem exec_streamFill_good (p : Fin 16) (r : Fin 5) (w : Nat) (s : State) :
    exec (.streamFill p r w false) s = .next (streamReturn p r w false s) := rfl

theorem exec_streamWordTimeout (p : Fin 16) (r : Fin 5) (w : Nat) (s : State) :
    exec (.streamWordTimeout p r w) s = .next (streamReturn p r w true s) := rfl

/-- The bottom half has been read back: stage 8 waits for it no longer (R242). -/
def Pipe.readBack (k : Pipe) : Pipe := { k with readback := false }

theorem exec_reorderReadback (p : Fin 16) (s : State) : exec (.reorderReadback p) s = .next (settlePause (s.updPipe p Pipe.readBack)) := rfl

/-- A word that comes uncorrectable is counted by its DDR5 channel first (R525). -/
theorem exec_streamFill_bad {p : Fin 16} {r : Fin 5} {s : State} (hreset : inReset (.pipe p) s = false) (hstreams : streams s p r = true) (w : Nat) :
    ∃ a, exec (.streamFill p r w true) s = .next (streamReturn p r w true (countDdr true a s)) := by
  simp only [exec, execStreamFill, hreset, hstreams, Bool.not_false, Bool.and_self, if_true]
  exact ⟨_, rfl⟩

theorem exec_streamFill_of_unstreamed {p : Fin 16} {r : Fin 5} {s : State} (hunstreamed : streams s p r = false) (w : Nat) (bad : Bool) :
    exec (.streamFill p r w bad) s = .next s := by
  simp only [exec, execStreamFill, hunstreamed, Bool.and_false, Bool.false_and, Bool.false_eq_true, if_false, streamReturn_of_unstreamed]

/-! ### The obligation -/

/-- Settles O23: each word by what its return makes of its pipeline (log entry 38), the readback by the mark it clears; pause, sent last, changes none. -/
theorem streamedWordsFillThePrefetch : Obligations.StreamedWordsFillThePrefetch := by
  intro p r w s
  refine ⟨fun hreset hstreams => ⟨fun hroom => ⟨?_, ?_, ?_⟩, fun hfull => ?_⟩, fun h b => exec_streamFill_of_unstreamed h w b, ?_⟩
  · obtain ⟨ws, hkept⟩ := streamReturn_good hreset hstreams hroom w
    obtain ⟨hpipe, hothers, hqm, hsrcs, hstore, -⟩ := updPipe_of_unsent (g := s.faults) hkept
    exact ⟨_, exec_streamFill_good p r w s, congrArg Pipe.prefetch hpipe, (congrArg Pipe.eccUncorr hpipe :), hothers, hqm, hsrcs, hstore⟩
  · obtain ⟨a, hexec⟩ := exec_streamFill_bad hreset hstreams w
    obtain ⟨hreset', hstreams', hroom'⟩ := countDdr_keeps_stream true a p r s
    obtain ⟨ws, g, hkept⟩ := streamReturn_bad (hreset'.trans hreset) (hstreams'.trans hstreams) (hroom' ▸ hroom) w
    obtain ⟨hpipe, -, hqm, -⟩ := updPipe_of_unsent hkept
    rw [countDdr_pipes] at hpipe
    exact ⟨_, hexec, congrArg Pipe.prefetch hpipe, congrArg Pipe.eccUncorr hpipe, congrArg Pipe.streamLate hpipe, congrArg Pipe.eccLogged hpipe,
      hqm.trans (countDdr_qm true a s)⟩
  · obtain ⟨ws, g, hkept⟩ := streamReturn_bad hreset hstreams hroom w
    obtain ⟨hpipe, -, hqm, -, -, hhost⟩ := updPipe_of_unsent hkept
    exact ⟨_, exec_streamWordTimeout p r w s, congrArg Pipe.prefetch hpipe, congrArg Pipe.eccUncorr hpipe, congrArg Pipe.streamLate hpipe, hqm, hhost⟩
  · have hkept := streamReturn_full hreset hstreams hfull w
    exact ⟨_, exec_streamFill_good p r w s, pipes_of_unsent hkept, qm_of_unsent hkept⟩
  · have hkept := settlePause_unsent (s.updPipe p Pipe.readBack)
    obtain ⟨hpipe, hothers, hqm, hsrcs, hstore, -⟩ := updPipe_of_unsent (g := s.faults) hkept
    exact ⟨_, exec_reorderReadback p s, congrArg Pipe.readback hpipe, hothers, hqm, hsrcs, hstore⟩

end Sys2Proof.Machine
end

section
/-! The Tally engine's rows, batches and count images (R311 to R329): what one offered event makes of its frame and its backlog, what a time-out makes
of the batch, what a frame applied makes of a fresh image, and what the settling after each leaves of the images. -/

namespace Sys2Proof.Machine

open Sys2Proof

/-! ### What sending leaves -/

theorem tallies_of_unsent {s t : State} (h : t.unsent = s.unsent) : t.tallies = s.tallies := (congrArg State.tallies h :)
theorem mapStore_of_unsent {s t : State} (h : t.unsent = s.unsent) : t.mapStore = s.mapStore := (congrArg State.mapStore h :)

/-! ### What the cell pool leaves -/

/-- The state with all that a rewind in the cell pool can change set aside: the pool, its pins, the router that its watermarks publish to, and the
pipelines, which owe GAP. -/
def State.unpooled (s : State) : State := { s with qm := {}, pins := {}, router := {}, pipes := Vector.replicate 16 {} }

@[simp] theorem State.ite_unpooled (c : Prop) [Decidable c] (s t : State) : (if c then s else t).unpooled = if c then s.unpooled else t.unpooled :=
  apply_ite State.unpooled c s t

@[simp] theorem State.updQm_unpooled (s : State) (f : QueueMgr → QueueMgr) : (s.updQm f).unpooled = s.unpooled := rfl
@[simp] theorem State.updQueue_unpooled (s : State) (q : Fin 512) (f : Queue → Queue) : (s.updQueue q f).unpooled = s.unpooled := rfl
@[simp] theorem State.updProducer_unpooled (s : State) (r : Fin 32) (f : Producer → Producer) : (s.updProducer r f).unpooled = s.unpooled := rfl
@[simp] theorem State.updXoff_unpooled (s : State) (n : Fin 16) (f : Xoff → Xoff) : (s.updXoff n f).unpooled = s.unpooled := rfl
@[simp] theorem State.updPins_unpooled (s : State) (f : Pins → Pins) : (s.updPins f).unpooled = s.unpooled := rfl
@[simp] theorem State.updPipe_unpooled (s : State) (p : Fin 16) (f : Pipe → Pipe) : (s.updPipe p f).unpooled = s.unpooled := rfl
@[simp] theorem publish_unpooled (code : Nat) (s : State) : (publish code s).unpooled = s.unpooled := by rw [publish_frame]; rfl
@[simp] theorem State.each_unpooled {α : Type} (s : State) (l : List α) (f : α → State → State) (h : ∀ a t, (f a t).unpooled = t.unpooled) :
    (s.each l f).unpooled = s.unpooled :=
  State.each_keeps State.unpooled l f h s

@[simp] theorem driveXoff_unpooled (s : State) : (driveXoff s).unpooled = s.unpooled := by simp [driveXoff]
@[simp] theorem lendOnDie_unpooled (s : State) : (lendOnDie s).unpooled = s.unpooled := by simp [lendOnDie]
@[simp] theorem revokeFrom_unpooled (r : Fin 32) (s : State) : (revokeFrom r s).unpooled = s.unpooled := by
  unfold revokeFrom
  dsimp only
  (repeat' split) <;> simp

@[simp] theorem lendStall_unpooled (s : State) : (lendStall s).unpooled = s.unpooled := by simp [lendStall]
@[simp] theorem watermark_unpooled (q : Fin 512) (s : State) : (watermark q s).unpooled = s.unpooled := by simp [watermark]
@[simp] theorem settleQueue_unpooled (q : Fin 512) (s : State) : (settleQueue q s).unpooled = s.unpooled := by simp [settleQueue, lend]

/-- A rewind of an open packet stays within the pool (R442). -/
@[simp] theorem rewindOpen_unpooled (r : Fin 32) (s : State) : (rewindOpen r s).unpooled = s.unpooled := by
  fun_cases rewindOpen r s <;> simp +zetaDelta [handBack, owePipeGap]

/-! ### What settling a pipeline leaves of the count images -/

/-- The count images: the map store that holds their cells, and their accounts. -/
def State.images (s : State) : Mem × (Fin 16 → ImageAcct) := (s.mapStore, fun p => s.tallies[p].image)

theorem images_of_unpooled {s t : State} (h : t.unpooled = s.unpooled) : t.images = s.images := (congrArg State.images h :)
theorem mapStore_of_images {s t : State} (h : t.images = s.images) : t.mapStore = s.mapStore := congrArg Prod.fst h
theorem image_of_images {s t : State} (h : t.images = s.images) (p : Fin 16) : t.tallies[p].image = s.tallies[p].image :=
  congrFun (congrArg Prod.snd h) p

/-- A change of one engine that leaves its image alone. -/
theorem State.updTally_images (s : State) (p : Fin 16) (f : Tally → Tally) (h : (f s.tallies[p]).image = s.tallies[p].image) :
    (s.updTally p f).images = s.images :=
  Prod.ext rfl (modAt_keeps Tally.image s.tallies p f h)

/-- A batch that commits, or is rewound for want of a frame, changes no image (R318). -/
theorem closeBatch_images (p : Fin 16) (a : PktAcct) (s : State) : (closeBatch p a s).images = s.images := by
  have hpool : (closeBatch p a s).unpooled = (s.updTally p fun t => { t with timedOut := false }).unpooled := by simp [closeBatch, closePacket]
  exact (images_of_unpooled hpool).trans (s.updTally_images p _ rfl)

theorem settleBatch_images (p : Fin 16) (s : State) : (settleBatch p s).images = s.images := by
  fun_cases settleBatch p s
  case case1 => exact closeBatch_images p _ s
  all_goals rfl

/-- An image that closes leaves the map store and the frame that waits as they are (R329). -/
theorem closeImage_keeps (p : Fin 16) (s : State) :
    (closeImage p s).mapStore = s.mapStore ∧ (closeImage p s).tallies[p].image.waiting = s.tallies[p].image.waiting := by
  fun_cases closeImage p s with
  | case1 _ _ _ _ _ _ _ _ _ _ s₁ s₂ =>
    have hpacket : s₂.unpooled = s.unpooled := by simp [s₂, s₁, closePacket, logSlate]
    exact ⟨(congrArg State.mapStore hpacket :), by rw [State.updTally_tallies, modAt_get]⟩
  | case2 => exact ⟨rfl, rfl⟩

theorem settleImage_keeps (p : Fin 16) (s : State) :
    (settleImage p s).mapStore = s.mapStore ∧ (settleImage p s).tallies[p].image.waiting = s.tallies[p].image.waiting := by
  obtain hclosed | hopen : settleImage p s = closeImage p s ∨ settleImage p s = s := ite_eq_or_eq _ _ _
  · rw [hclosed]
    exact closeImage_keeps p s
  · rw [hopen]
    exact ⟨rfl, rfl⟩

/-- An image to which no frame has been applied does not close. -/
theorem settleImage_of_fresh {p : Fin 16} {s : State} (hfresh : s.tallies[p].image.applied = 0) : settleImage p s = s := by
  simp [-Fin.getElem_fin, settleImage, hfresh]

theorem settlePipe_keeps (p : Fin 16) (s : State) :
    (settlePipe p s).mapStore = s.mapStore ∧ (settlePipe p s).tallies[p].image.waiting = s.tallies[p].image.waiting := by
  have hbatch := settleBatch_images p s
  obtain ⟨hstore, hwaiting⟩ := settleImage_keeps p (settleBatch p s)
  exact ⟨hstore.trans (mapStore_of_images hbatch), hwaiting.trans (congrArg ImageAcct.waiting (image_of_images hbatch p))⟩

/-- A fresh image is as settling finds it. -/
theorem settlePipe_of_fresh {p : Fin 16} {s : State} (hfresh : s.tallies[p].image.applied = 0) : (settlePipe p s).images = s.images := by
  have hbatch := settleBatch_images p s
  rw [settlePipe, settleImage_of_fresh ((congrArg ImageAcct.applied (image_of_images hbatch p)).trans hfresh), hbatch]

/-! ### What reaches stage 8 -/

theorem countSpectrum_qm (p : Fin 16) (rows : List (List Cand)) (s : State) : (countSpectrum p rows s).qm = s.qm := by
  unfold countSpectrum
  split <;> rfl

theorem reachStage8_qm (p : Fin 16) (w : Work) (s : State) : (reachStage8 p w s).qm = s.qm := by
  fun_cases reachStage8 p w s <;> exact countSpectrum_qm p _ _

/-- What has come of the frame being received reaches stage 8 without a change of the pool. -/
theorem advance_qm (p : Fin 16) (s : State) : (advance p s).qm = s.qm := by
  unfold advance
  split
  · exact reachStage8_qm p _ s
  · rfl

/-! ### One event of a row -/

/-- One more event of the frame is kept and written into the batch (R320, R321). -/
def Work.wrote (w : Work) : Work := { w with kept := w.kept + 1, written := w.written + 1 }

/-- The first row of those that wait has been offered (R316). -/
def Work.offered (w : Work) : Work := { w with rows := w.rows.tail }

/-- An event of the frame at offset fofs of its batch becomes a record of the backlog (R312, R317, R322). -/
def recordEvent (p : Fin 16) (fofs : Nat) (c : Cand) (s : State) : State :=
  (updWork p Work.wrote s).updProducer (dataProducer p) fun r => { r with buf := r.buf ++ eventRecord fofs c }

theorem updWork_works {p : Fin 16} {w : Work} {ws : List Work} {s : State} (h : s.pipes[p].works = w :: ws) (f : Work → Work) :
    (updWork p f s).pipes[p].works = f w :: ws := by
  simp only [updWork, State.updPipe_pipes, modAt_get, h]

theorem updWork_qm (p : Fin 16) (f : Work → Work) (s : State) : (updWork p f s).qm = s.qm := rfl
theorem updWork_tallies (p : Fin 16) (f : Work → Work) (s : State) : (updWork p f s).tallies = s.tallies := rfl

theorem recordEvent_works {p : Fin 16} {w : Work} {ws : List Work} {s : State} (h : s.pipes[p].works = w :: ws) (fofs : Nat) (c : Cand) :
    (recordEvent p fofs c s).pipes[p].works = w.wrote :: ws := by
  rw [recordEvent, State.updProducer_pipes, updWork_works h]

/-- Its engine's counters and the queues do not move; the record lies behind the backlog. -/
theorem recordEvent_keeps (p : Fin 16) (fofs : Nat) (c : Cand) (s : State) :
    (recordEvent p fofs c s).tallies = s.tallies ∧ (recordEvent p fofs c s).qm.queues = s.qm.queues
      ∧ (recordEvent p fofs c s).qm.producers[(dataProducer p)].buf = s.qm.producers[(dataProducer p)].buf ++ eventRecord fofs c := by
  rw [recordEvent, State.updProducer_tallies, State.updProducer_qm, modAt_get, updWork_tallies, updWork_qm]
  exact ⟨rfl, rfl, rfl⟩

section

variable {p : Fin 16} {w : Work} {ws : List Work} {c : Cand} {a : PktAcct} {s : State}

/-- With OVF 0 and room in the backlog the event is written (R322, R323). -/
theorem writeEvent_of_room (hlist : w.tset.dense = false) (hstalls : bitAt w.tset.ctl 27 = false) (hbatch : s.pipes[p].pkt = some a)
    (hroom : backlog s p < 8192) : writeEvent p w c s = some (recordEvent p a.frames c s) := by
  simp only [writeEvent, hlist, hstalls, hbatch, hroom, Bool.false_eq_true, if_false, if_true]
  rfl

/-- The last candidate of a row, kept within its budget and written, ends the row (R311, R321). -/
theorem offerRow_of_written {t : State} (hworks : s.pipes[p].works = w :: ws) (hkeeping : s.qm.producers[(dataProducer p)].discarding = false)
    (hkept : w.tset.keeps c = true) (hbudget : w.kept < w.tset.budget.toNat) (hwritten : writeEvent p w c s = some t) :
    offerRow p [c] s = updWork p Work.offered t := by
  simp only [offerRow, hworks, hkeeping, hkept, Nat.not_le.mpr hbudget, hwritten, Bool.not_true, Bool.false_eq_true, if_false]
  rfl

/-- The front row is offered to the open batch once stage 8 may take it (R316, R317). -/
theorem eventRow_of_batch {row : List Cand} {rest : List (List Cand)} (hworks : (advance p s).pipes[p].works = w :: ws) (hrows : w.rows = row :: rest)
    (htally : isTally w.pack = true) (hlist : w.tset.dense = false) (hfree : (advance p s).qm.producers[(dataProducer p)].closing = none)
    (hhere : heldBack (advance p s) p = false) (hbatch : (advance p s).pipes[p].pkt = some a) :
    eventRow p s = offerRow p row (advance p s) := by
  simp [-Fin.getElem_fin, eventRow, hworks, hrows, htally, hlist, dataFree, hfree, hhere, openBatch, hbatch]

end

/-! ### A batch's time-out -/

/-- TMO_US has passed (R318). -/
def Tally.expired (t : Tally) : Tally := { t with timedOut := true }

/-- While a closed packet waits to commit, no batch closes (R439). -/
theorem settleBatch_of_busy {p : Fin 16} {s : State} (hbusy : s.qm.producers[(dataProducer p)].closing ≠ none) : settleBatch p s = s := by
  have hheld : dataFree s p = false := Option.isNone_eq_false_iff.mpr (Option.isSome_iff_ne_none.mpr hbusy)
  unfold settleBatch
  split
  · simp [hheld]
  · rfl

section

variable {p : Fin 16} {a : PktAcct} {s : State}

/-- A batch that has timed out closes when no frame of it is in progress (R318). -/
theorem settleBatch_of_timedOut (hbatch : s.pipes[p].pkt = some a) (htimedOut : s.tallies[p].timedOut = true)
    (hfree : s.qm.producers[(dataProducer p)].closing = none) (hidle : s.pipes[p].works = []) (hquiet : receiving s a.src = false) :
    settleBatch p s = closeBatch p a s := by
  simp [-Fin.getElem_fin, settleBatch, hbatch, dataFree, hfree, hidle, htimedOut, hquiet]

/-- A batch of one frame or more closes with a slate, its account and its time-out over (R319). -/
theorem closeBatch_of_frames (hframes : a.frames ≠ 0) :
    (closeBatch p a s).tallies[p].timedOut = false ∧ (closeBatch p a s).pipes[p].pkt = none
      ∧ (closeBatch p a s).qm.producers[(dataProducer p)].closing.isSome = true := by
  simp [-Fin.getElem_fin, closeBatch, hframes, closePacket]

variable (hbatch : s.pipes[p].pkt = some a) (hlimit : fld s.tallies[p].active.batch 31 12 ≠ 0)

include hbatch hlimit

/-- With TMO_US not 0 the open batch has timed out, and commits now if it can (R318). -/
theorem batchTimeout_of_open : batchTimeout p s = settleBatch p (s.updTally p Tally.expired) := by
  simp only [batchTimeout, hbatch, if_neg hlimit]
  rfl

theorem batchTimeout_of_busy (hbusy : s.qm.producers[(dataProducer p)].closing ≠ none) : batchTimeout p s = s.updTally p Tally.expired :=
  (batchTimeout_of_open hbatch hlimit).trans (settleBatch_of_busy hbusy)

theorem batchTimeout_of_idle (hfree : s.qm.producers[(dataProducer p)].closing = none) (hidle : s.pipes[p].works = [])
    (hquiet : receiving s a.src = false) : batchTimeout p s = closeBatch p a (s.updTally p Tally.expired) :=
  (batchTimeout_of_open hbatch hlimit).trans
    (settleBatch_of_timedOut (s := s.updTally p Tally.expired) hbatch (congrArg Tally.timedOut (modAt_get _ _ _)) hfree hidle hquiet)

end

/-! ### Count images -/

/-- The staged events of a frame added to the cells of an image, with the increments lost at the limit (R326, R328). -/
def addCells (base bytes : Nat) (cells : List Nat) (m : Mem) : Mem × Nat :=
  cells.foldl (fun acc cell => ((addCell base bytes acc.1 cell).1, if (addCell base bytes acc.1 cell).2 then acc.2 + 1 else acc.2)) (m, 0)

/-- The map store once the events of frame w are in the current image of account m. -/
def Work.countedIn (w : Work) (m : ImageAcct) (store : Mem) : Mem :=
  (addCells (imageBase w.tset w.width w.height m.imgB) (w.tset.cellBits / 8) w.staged store).1

/-- The map store once the image that was read out beside account m is cleared (R329). -/
def ImageAcct.cleared (m : ImageAcct) (store : Mem) : Mem :=
  store.write (imageBase m.tset m.width m.height (! m.imgB)) (List.replicate (m.tset.imageBytes m.width m.height) 0)

/-- The readout of the other image is over (R329). -/
def Tally.readOut (t : Tally) : Tally := { t with image := { t.image with reading := false } }

theorem placeRecord_mapStore (p : Fin 16) (n : Nat) (s : State) : (placeRecord p n s).mapStore = s.mapStore := by
  fun_cases placeRecord p n s with
  | case1 _ _ _ hdrawn =>
    rw [State.updPipe_mapStore]
    exact snd_keeps State.mapStore hdrawn (by split <;> rfl)
  | case2 => rfl

section

variable {p : Fin 16} {s : State}

/-- With no frame waiting, a fresh image stays as it is. -/
theorem denseApply_of_none (hnone : s.tallies[p].image.waiting = none) (hfresh : s.tallies[p].image.applied = 0) : denseApply p s = s := by
  simp only [denseApply, settleImage_of_fresh hfresh, hnone]

/-- The frame that waits is applied to a fresh image: its events are in the cells, and it waits no longer (R328). -/
theorem denseApply_of_fresh {w : Work} (hwaiting : s.tallies[p].image.waiting = some w) (hfresh : s.tallies[p].image.applied = 0) :
    (denseApply p s).mapStore = w.countedIn s.tallies[p].image s.mapStore ∧ (denseApply p s).tallies[p].image.waiting = none := by
  simp only [denseApply, settleImage_of_fresh hfresh, hwaiting, hfresh, decide_true, Bool.not_true, Bool.false_and, Bool.false_eq_true, if_false,
    settlePipe_keeps, State.updTally_mapStore, State.updTally_tallies, placeRecord_mapStore, modAt_get, and_true]
  rfl

/-- The read-out image is cleared once all its bytes have left (R329). -/
theorem readoutDone_of_read (hreading : s.tallies[p].image.reading = true) (hleft : s.qm.producers[(dataProducer p)].buf = []) :
    readoutDone p s = settlePipe p (({ s with mapStore := s.tallies[p].image.cleared s.mapStore } : State).updTally p Tally.readOut) := by
  simp only [readoutDone, hreading, hleft, List.isEmpty_nil, Bool.not_true, Bool.or_self, Bool.false_eq_true, if_false]
  rfl

/-- Beside a fresh image nothing more becomes of the images then. -/
theorem readoutDone_of_fresh (hreading : s.tallies[p].image.reading = true) (hleft : s.qm.producers[(dataProducer p)].buf = [])
    (hfresh : s.tallies[p].image.applied = 0) :
    (readoutDone p s).mapStore = s.tallies[p].image.cleared s.mapStore ∧ (readoutDone p s).tallies[p].image.reading = false := by
  have hover : (modAt s.tallies p Tally.readOut)[p].image = s.tallies[p].readOut.image := congrArg Tally.image (modAt_get _ _ _)
  have hkept : (readoutDone p s).images
      = (({ s with mapStore := s.tallies[p].image.cleared s.mapStore } : State).updTally p Tally.readOut).images := by
    rw [readoutDone_of_read hreading hleft]
    exact settlePipe_of_fresh ((congrArg ImageAcct.applied hover).trans hfresh)
  exact ⟨mapStore_of_images hkept, congrArg ImageAcct.reading ((image_of_images hkept p).trans hover)⟩

end

/-! ### The commands -/

/-- Out of reset the engine carries out its commands; what they make of pause is sent last. -/
theorem exec_tally {p : Fin 16} {s : State} (h : inReset (.pipe p) s = false) :
    exec (.eventRowOffer p) s = .next (settlePause (eventRow p s)) ∧ exec (.batchTimeout p) s = .next (settlePause (batchTimeout p s))
      ∧ exec (.denseApply p) s = .next (settlePause (denseApply p s)) ∧ exec (.imageReadoutDone p) s = .next (settlePause (readoutDone p s)) := by
  simp only [exec, execEventRowOffer, execBatchTimeout, execDenseApply, execImageReadoutDone, h, Bool.false_eq_true, if_false, and_self]

/-! ### The obligation -/

/-- Settles O25: an offered event by what it makes of its frame and the backlog, a time-out by whether its batch can close, and a count image by the
frame applied to it and by its readout, each with what settling the pipeline leaves of it; pause, sent last, changes none. -/
theorem tallyEventsBatchesAndImages : Obligations.TallyEventsBatchesAndImages := by
  refine ⟨?_, ?_, ?_⟩
  · rintro p w ws c rest a s _ hreset rfl hworks hrows htally hlist hstalls hfree hkeeping hhere hbatch hkept hbudget hroom
    have hdone : eventRow p s = updWork p Work.offered (recordEvent p a.frames c (advance p s)) :=
      (eventRow_of_batch hworks hrows htally hlist hfree hhere hbatch).trans
        (offerRow_of_written hworks hkeeping hkept hbudget (writeEvent_of_room hlist hstalls hbatch hroom))
    have hsent := settlePause_unsent (eventRow p s)
    obtain ⟨htallies, hqueues, hbuf⟩ := recordEvent_keeps p a.frames c (advance p s)
    refine ⟨_, w.wrote.offered, (exec_tally hreset).1, ?_, congrArg List.tail hrows, rfl, rfl, ?_⟩
    · rw [pipes_of_unsent hsent, hdone, updWork_works (recordEvent_works hworks _ _)]
    · rw [qm_of_unsent hsent, tallies_of_unsent hsent, hdone, updWork_qm, updWork_tallies]
      exact ⟨hbuf, htallies, hqueues.trans (congrArg QueueMgr.queues (advance_qm p s))⟩
  · intro p a s hreset hbatch hlimit
    have hexec := (exec_tally hreset).2.1
    have hsent := settlePause_unsent (batchTimeout p s)
    refine ⟨fun hbusy => ⟨_, hexec, ?_⟩, fun hfree hidle hquiet hframes => ⟨_, hexec, ?_⟩⟩
    · rw [tallies_of_unsent hsent, pipes_of_unsent hsent, qm_of_unsent hsent, batchTimeout_of_busy hbatch hlimit hbusy]
      exact ⟨congrArg Tally.timedOut (modAt_get _ _ _), hbatch, rfl⟩
    · rw [tallies_of_unsent hsent, pipes_of_unsent hsent, qm_of_unsent hsent, batchTimeout_of_idle hbatch hlimit hfree hidle hquiet]
      exact closeBatch_of_frames hframes
  · intro p s hreset
    obtain ⟨-, -, happly, hread⟩ := exec_tally hreset
    have hsent := settlePause_unsent (denseApply p s)
    have hsent' := settlePause_unsent (readoutDone p s)
    refine ⟨?_, fun hnone hfresh => ⟨_, happly, ?_⟩, ?_⟩
    · rintro w _ rfl hwaiting hfresh
      refine ⟨_, happly, ?_⟩
      rw [mapStore_of_unsent hsent, tallies_of_unsent hsent]
      exact denseApply_of_fresh hwaiting hfresh
    · rw [mapStore_of_unsent hsent, tallies_of_unsent hsent, denseApply_of_none hnone hfresh]
      exact ⟨rfl, rfl⟩
    · rintro _ rfl hreading hleft hfresh
      obtain ⟨hcleared, hover⟩ := readoutDone_of_fresh hreading hleft hfresh
      refine ⟨_, hread, ?_⟩
      rw [tallies_of_unsent hsent', mapStore_of_unsent hsent']
      exact ⟨hover, hcleared⟩

end Sys2Proof.Machine
end

section
/-! What events and the cue unit leave of the encoder channels, what the compare unit leaves of a channel's counter, and what an accepted write of a
channel's object leaves of the channels (R358 to R370, R594). -/

namespace Sys2Proof.Machine

open Sys2Proof Sys2Proof.Safety

/-! ### A channel changed -/

theorem State.updEnc_enc (s : State) (n : Fin 16) (f : Enc → Enc) : (s.updEnc n f).encs[n] = f s.encs[n] := modAt_get _ _ _

theorem State.updEnc_enc_ne (s : State) (n : Fin 16) (f : Enc → Enc) {k : Fin 16} (h : k ≠ n) : (s.updEnc n f).encs[k] = s.encs[k] :=
  modAt_get_ne _ _ _ _ h

theorem State.updEnc_updEnc (s : State) (n : Fin 16) (f g : Enc → Enc) : (s.updEnc n f).updEnc n g = s.updEnc n fun e => g (f e) := by
  simp [State.updEnc, modAt]

/-- Changes of a channel that agree on the channel as it is. -/
theorem State.updEnc_of_eq {s : State} {n : Fin 16} {f g : Enc → Enc} (h : f s.encs[n] = g s.encs[n]) : s.updEnc n f = s.updEnc n g := by
  rw [State.updEnc, modAt, h, State.updEnc, modAt]

theorem State.updEnc_of_keeps {s : State} {n : Fin 16} {f : Enc → Enc} (h : f s.encs[n] = s.encs[n]) : s.updEnc n f = s := by
  rw [State.updEnc, modAt, h]
  simp

/-! ### Events -/

@[simp] theorem publish_encs (code : Nat) (s : State) : (publish code s).encs = s.encs := by rw [publish_frame]
@[simp] theorem publish_tb (code : Nat) (s : State) : (publish code s).tb = s.tb := by rw [publish_frame]
@[simp] theorem publishOn_encs (c : Fin 128) (s : State) : (publishOn c s).encs = s.encs := by rw [publishOn_frame]

@[simp] theorem giveWay_encs (code : Nat) (rung : Fin 5) (cls : FClass) (idx detail : Nat) (s : State) :
    (giveWay code rung cls idx detail s).encs = s.encs := by rw [giveWay_frame]

/-! ### The cue unit -/

@[simp] theorem State.ite_encs (c : Prop) [Decidable c] (s t : State) : (if c then s else t).encs = if c then s.encs else t.encs :=
  apply_ite State.encs c s t

@[simp] theorem State.each_encs {α : Type} (s : State) (l : List α) (f : α → State → State) (h : ∀ a t, (f a t).encs = t.encs) :
    (s.each l f).encs = s.encs :=
  State.each_keeps State.encs l f h s

@[simp] theorem sendTrigger_encs (h : Fin 16) (line cue : Nat) (s : State) : (sendTrigger h line cue s).2.encs = s.encs := by
  unfold sendTrigger
  dsimp only
  split
  · simp
  · exact State.each_encs _ _ _ fun _ _ => rfl

@[simp] theorem firePin_encs (n : Fin 32) (detail : Nat) (s : State) : (firePin n detail s).2.encs = s.encs := by
  fun_cases firePin n detail s <;> simp

@[simp] theorem recordCue_encs (i : Fin 18) (r : CueRec) (s : State) : (recordCue i r s).encs = s.encs := rfl

@[simp] theorem fireCue_encs (k : BitVec 12) (value : BitVec 48) (late : Bool) (s : State) : (fireCue k value late s).encs = s.encs := by
  unfold fireCue
  dsimp only
  refine (State.each_encs _ _ _ fun n t => ?_).trans ?_
  · split <;> simp
  · rw [State.ite_encs, publishOn_encs, ite_self]
    split
    · split <;> rename_i h <;> simp [snd_keeps State.encs h (sendTrigger_encs _ _ _ s)]
    · rfl

@[simp] theorem advanceSeq_encs (i : Fin 16) (s : State) : (advanceSeq i s).encs = s.encs := by simp [advanceSeq]

@[simp] theorem walkSeq_encs (i : Fin 16) (owed : List (BitVec 48 × BitVec 48)) (now : Option (BitVec 48 × BitVec 48)) (k : Nat) (fresh : Bool)
    (s : State) : (walkSeq i owed now k fresh s).encs = s.encs := by
  induction k generalizing fresh s with
  | zero => rfl
  | succ k ih => unfold walkSeq; dsimp only; (repeat' split) <;> simp [ih]

@[simp] theorem runSeqs_encs (now : Option (BitVec 48 × BitVec 48)) (s : State) : (runSeqs now s).encs = s.encs := by simp [runSeqs]
@[simp] theorem loadTb_encs (v : BitVec 48) (s : State) : (loadTb v s).encs = s.encs := by simp [loadTb]
@[simp] theorem changeTb_encs (v : BitVec 48) (s : State) : (changeTb v s).encs = s.encs := by simp [changeTb]
@[simp] theorem intoRing_encs (v : BitVec 48) (s : State) : (intoRing v s).encs = s.encs := rfl

/-- The timebase follows a channel; no channel follows the timebase (R370). -/
@[simp] theorem sourceChange_encs (v : BitVec 48) (s : State) : (sourceChange v s).encs = s.encs := by simp [sourceChange]

/-! ### The compare unit -/

/-- Every channel with its compare unit set aside. -/
def State.counters (s : State) (k : Fin 16) : Enc := { s.encs[k] with cmp := {} }

theorem State.counters_congr {s t : State} (h : t.encs = s.encs) : t.counters = s.counters := by
  funext k
  rw [State.counters, h, State.counters]

@[simp] theorem State.ite_counters (c : Prop) [Decidable c] (s t : State) : (if c then s else t).counters = if c then s.counters else t.counters :=
  apply_ite State.counters c s t

@[simp] theorem updCmp_counters (n : Fin 16) (f : Cmp → Cmp) (s : State) : (updCmp n f s).counters = s.counters :=
  modAt_keeps (fun e : Enc => { e with cmp := {} }) s.encs n _ rfl

@[simp] theorem cmpPublish_encs (n : Fin 16) (done : Bool) (s : State) : (cmpPublish n done s).encs = s.encs := publish_encs _ s

@[simp] theorem cmpPublish_counters (n : Fin 16) (done : Bool) (s : State) : (cmpPublish n done s).counters = s.counters :=
  State.counters_congr (cmpPublish_encs n done s)

@[simp] theorem cmpFinish_counters (n : Fin 16) (s : State) : (cmpFinish n s).counters = s.counters := by simp [cmpFinish]

@[simp] theorem cmpHit_counters (n : Fin 16) (t : Nat) (late : Bool) (s : State) : (cmpHit n t late s).counters = s.counters := by
  simp [cmpHit]

@[simp] theorem cmpPass_counters (n : Fin 16) (t : Nat) (crossing : Bool) (s : State) : (cmpPass n t crossing s).counters = s.counters := by
  simp [cmpPass]

@[simp] theorem listPass_counters (n : Fin 16) (d : BitVec 48) (t k : Nat) (c : BitVec 48) (s : State) :
    (listPass n d t k c s).counters = s.counters := by
  induction k generalizing c s with
  | zero => rfl
  | succ k ih => unfold listPass; dsimp only; (repeat' split) <;> simp [ih]

/-- A count change that the compare unit sees leaves every counter as it is (R358, R362, R364). -/
@[simp] theorem cmpChange_counters (n : Fin 16) (c d : BitVec 48) (t : Nat) (s : State) : (cmpChange n c d t s).counters = s.counters := by
  simp [cmpChange]

/-- A unit that is not armed sees no change (R358). -/
theorem cmpChange_of_disarmed {n : Fin 16} {s : State} (h : s.encs[n].cmp.arm = false) (c d : BitVec 48) (t : Nat) : cmpChange n c d t s = s := by
  simp [-Fin.getElem_fin, cmpChange, h]

theorem cmpTest_of_disarmed {n : Fin 16} {s : State} (h : s.encs[n].cmp.arm = false) : cmpTest n s = s := by
  simp [-Fin.getElem_fin, cmpTest, h]

/-! ### Accepted writes -/

/-- The journal's entry is no matter of the channels or the timebase (R594). -/
theorem noted_keeps_encs (who : By) (index sub : Nat) (o : Obj) (v : Val) (j : Bool) (s : State) :
    (noted who index sub o v j s).encs = s.encs ∧ (noted who index sub o v j s).tb = s.tb := by
  unfold noted enter jnlAppend
  dsimp only
  split
  · split
    · exact ⟨rfl, rfl⟩
    · rw [deviceVector_frame]
      exact ⟨rfl, rfl⟩
  · exact ⟨rfl, rfl⟩

/-- An accepted write whose effect changes its channel alone leaves that of the channels, and the timebase as it is. -/
theorem encWritten {w : By} {index sub : Nat} {n : Fin 16} {r : EncReg} {v : Val} {f : Enc → Enc} {s : State}
    (hacc : Accepted w index sub (.enc n r) v s)
    (hwrite : ∀ u : State, u.encs = s.encs → u.tb = s.tb → u.coreTime = s.coreTime → EncReg.write n r v u = u.updEnc n f) :
    (regWrite w index sub v s).encs = (s.updEnc n f).encs ∧ (regWrite w index sub v s).tb = s.tb := by
  have hrwp : (Obj.enc n r).desc.acc ≠ .rwp := by intro h; cases r <;> cases h
  have hspent := spent_access (.enc n r) v s
  obtain ⟨hencs, htb⟩ := noted_keeps_encs w index sub (.enc n r) v (journaled (.enc n r) v s) (EncReg.write n r v (spent (.enc n r) v s))
  have heffect : EncReg.write n r v (spent (.enc n r) v s) = (spent (.enc n r) v s).updEnc n f :=
    hwrite _ (by rw [hspent]; rfl) (by rw [hspent]; rfl) (by rw [hspent]; rfl)
  rw [regWrite_of_accepted hacc hrwp (by intro h; cases h.1)]
  exact ⟨hencs.trans ((congrArg State.encs heffect).trans (by rw [hspent]; rfl)),
    htb.trans ((congrArg State.tb heffect).trans (by rw [hspent]; rfl))⟩

end Sys2Proof.Machine
end

section
/-! An encoder channel's counter and its gated index: what a load, an index event and a counted change leave (R342 to R349, R355, R356). -/

namespace Sys2Proof.Machine

open Sys2Proof

/-! ### Loads -/

/-- A channel whose count has been loaded with v (R345). -/
def Enc.loaded (v : BitVec 48) (e : Enc) : Enc := { e with count := v, posValid := true }

/-- A load with the compare unit not armed, of a channel that the timebase does not follow (R345, R362, R380). -/
theorem loadCount_of_disarmed {n : Fin 16} {s : State} (harm : s.encs[n].cmp.arm = false) (hsrc : ¬ (tbSrc s = 1 ∧ tbChan s = n)) (v : BitVec 48) :
    loadCount n v s = s.updEnc n (Enc.loaded v) := by
  have hload : (s.updEnc n (Enc.loaded v)).encs[n].cmp.arm = false := by
    rw [State.updEnc_enc]
    exact harm
  have htest : cmpTest n (s.updEnc n (Enc.loaded v)) = s.updEnc n (Enc.loaded v) := cmpTest_of_disarmed hload
  exact (congrArg (fun u => if tbSrc u = 1 ∧ tbChan u = n then sourceLoad v u else u) htest).trans (if_neg hsrc)

/-! ### The gated index -/

/-- While I is inactive the gated index is (R347). -/
theorem Enc.gate_of_inactive {e : Enc} (h : e.i = bitAt e.ctl 26) : e.gate = false := by simp [Enc.gate, h]

/-- Without a gate the gated index is I (R347). -/
theorem Enc.gate_of_ungated {e : Enc} (hactive : e.i = ! bitAt e.ctl 26) (hgate : fld e.ctl 22 20 = 0) : e.gate = true := by
  simp [Enc.gate, hactive, hgate]

/-- No event comes of an inactive index (R347, R348). -/
theorem settleIndex_of_inactive {n : Fin 16} {s : State} (h : s.encs[n].i = bitAt s.encs[n].ctl 26) (t : Nat) :
    settleIndex n t s = s.updEnc n fun e => { e with g := false } := by
  simp [-Fin.getElem_fin, settleIndex, Enc.gate_of_inactive h]

/-- A rise of the gated index of an enabled channel is an event (R347, R348). -/
theorem settleIndex_of_rise {n : Fin 16} {s : State} (hrise : s.encs[n].gate = true) (hlow : s.encs[n].g = false) (hen : s.encs[n].en = true)
    (t : Nat) : settleIndex n t s = indexEvent n t (s.updEnc n fun e => { e with g := true }) := by
  simp [-Fin.getElem_fin, settleIndex, hrise, hlow, hen]

/-! ### Index events -/

/-- What an index event notes on its channel (R348, R349). -/
def Enc.indexed (t : Nat) (e : Enc) : Enc :=
  { e with idxCount := e.count, idxTime := BitVec.ofNat 64 t, indexCnt := satInc e.indexCnt, indexSeen := true }

/-- An armed index is disarmed and loads the count (R348). -/
def Enc.indexLoaded (e : Enc) : Enc := { e.loaded e.idxLoad with idxArm := false }

/-- An index event noted and published (R348, R349). -/
def State.indexed (s : State) (n : Fin 16) (t : Nat) : State := publish (0x0260 + n.1) (s.updEnc n (Enc.indexed t))

theorem State.indexed_enc (s : State) (n : Fin 16) (t : Nat) : (s.indexed n t).encs[n] = s.encs[n].indexed t := by
  simp only [State.indexed, publish_encs, State.updEnc_encs, modAt_get]

theorem State.indexed_tb (s : State) (n : Fin 16) (t : Nat) : (s.indexed n t).tb = s.tb := publish_tb _ _

/-- An index that is not armed loads nothing (R348). -/
theorem indexEvent_of_unarmed {n : Fin 16} {s : State} (h : s.encs[n].idxArm = false) (t : Nat) : indexEvent n t s = s.indexed n t :=
  if_neg (Bool.eq_false_iff.mp ((congrArg Enc.idxArm (s.indexed_enc n t)).trans h))

theorem indexEvent_of_armed {n : Fin 16} {s : State} (h : s.encs[n].idxArm = true) (harm : s.encs[n].cmp.arm = false)
    (hsrc : ¬ (tbSrc s = 1 ∧ tbChan s = n)) (t : Nat) : indexEvent n t s = (s.indexed n t).updEnc n Enc.indexLoaded := by
  have hnoted := s.indexed_enc n t
  have hload : indexEvent n t s = loadCount n (s.indexed n t).encs[n].idxLoad ((s.indexed n t).updEnc n fun e => { e with idxArm := false }) :=
    if_pos ((congrArg Enc.idxArm hnoted).trans h)
  rw [hload, loadCount_of_disarmed, State.updEnc_updEnc]
  · exact State.updEnc_of_eq rfl
  · rw [State.updEnc_enc, hnoted]
    exact harm
  · simpa only [tbSrc, tbChan, State.updEnc_tb, State.indexed_tb] using hsrc

/-! ### Counted changes -/

/-- SPEED_CLIP as the speed now leaves it (R355). -/
def Enc.clipped (now : Nat) (e : Enc) : Enc := { e with speedClip := e.speedClip || (e.speedOf now).2 }

/-- A channel with a change of d counted at time t: its count, the time, the run of updates and their speed (R342, R349, R355, R356). -/
def Enc.counted (d : Int) (t now : Nat) (e : Enc) : Enc :=
  if d = 0 then e
  else
    let rev := decide (d < 0)
    let new := e.count + BitVec.ofInt 48 d
    let fresh := e.standstill || e.runLen == 0 || rev != e.dirRev
    { e with count := new, edgeTime := BitVec.ofNat 64 t, dirRev := rev, standstill := false
             run := if fresh then [(new, t)] else ((new, t) :: e.run).take 129, runLen := if fresh then 1 else e.runLen + 1 : Enc }.clipped now

theorem Enc.counted_zero (t now : Nat) (e : Enc) : e.counted 0 t now = e := if_pos rfl

theorem Enc.counted_count (d : Int) (t now : Nat) (e : Enc) : (e.counted d t now).count = e.count + BitVec.ofInt 48 d := by
  unfold Enc.counted
  split
  next h => simp [h]
  next => rfl

/-- A counted change leaves the levels, the settings, the index, the samples and the compare unit of its channel as they are. -/
theorem Enc.counted_frame (d : Int) (t now : Nat) (e : Enc) :
    e.counted d t now = { e with count := (e.counted d t now).count, edgeTime := (e.counted d t now).edgeTime, dirRev := (e.counted d t now).dirRev
                                 standstill := (e.counted d t now).standstill, speedClip := (e.counted d t now).speedClip
                                 run := (e.counted d t now).run, runLen := (e.counted d t now).runLen } := by
  unfold Enc.counted
  split <;> rfl

/-- The count of channel n has gone from c to c': the compare unit sees it, then the timebase if it follows the channel (R358, R370). -/
def State.shown (s : State) (n : Fin 16) (c c' : BitVec 48) (t : Nat) : State :=
  let u := cmpChange n c c' t s
  if tbSrc u = 1 ∧ tbChan u = n then sourceChange c' u else u

theorem State.shown_counters (s : State) (n : Fin 16) (c c' : BitVec 48) (t : Nat) : (s.shown n c c' t).counters = s.counters := by
  rw [State.shown, State.ite_counters, State.counters_congr (sourceChange_encs _ _), ite_self, cmpChange_counters]

theorem State.shown_of_disarmed {s : State} {n : Fin 16} (harm : s.encs[n].cmp.arm = false) (hsrc : ¬ (tbSrc s = 1 ∧ tbChan s = n))
    (c c' : BitVec 48) (t : Nat) : s.shown n c c' t = s := by
  rw [State.shown, cmpChange_of_disarmed harm]
  exact if_neg hsrc

theorem countBy_zero (n : Fin 16) (t : Nat) (s : State) : countBy n 0 t s = s := if_pos rfl

/-- A change that counts: the channel's own part of it, and what sees its count (R342). -/
theorem countBy_of_ne {d : Int} (hd : d ≠ 0) (n : Fin 16) (t : Nat) (s : State) :
    countBy n d t s = (s.updEnc n (Enc.counted d t s.coreTime)).shown n s.encs[n].count (s.encs[n].count + BitVec.ofInt 48 d) t :=
  (if_neg hd).trans (congrArg (State.shown · n _ _ t) ((State.updEnc_updEnc _ _ _ _).trans (State.updEnc_of_eq (if_neg hd).symm)))

/-- With the unit not armed, on a channel that the timebase does not follow, the channel is all that changes. -/
theorem countBy_of_disarmed {n : Fin 16} {s : State} (harm : s.encs[n].cmp.arm = false) (hsrc : ¬ (tbSrc s = 1 ∧ tbChan s = n)) (d : Int)
    (t : Nat) : countBy n d t s = s.updEnc n (Enc.counted d t s.coreTime) := by
  by_cases hd : d = 0
  · rw [hd, countBy_zero]
    exact (State.updEnc_of_keeps (Enc.counted_zero t _ _)).symm
  · have hdisarmed : (s.updEnc n (Enc.counted d t s.coreTime)).encs[n].cmp.arm = false := by
      rw [State.updEnc_enc, Enc.counted_frame]
      exact harm
    rw [countBy_of_ne hd]
    exact State.shown_of_disarmed hdisarmed hsrc _ _ _

/-- Whatever the compare unit and the timebase make of it, a counted change leaves every counter as its channel's part of it does. -/
theorem countBy_counters (n : Fin 16) (d : Int) (t : Nat) (s : State) :
    (countBy n d t s).counters = (s.updEnc n (Enc.counted d t s.coreTime)).counters := by
  by_cases hd : d = 0
  · rw [hd, countBy_zero]
    exact congrArg State.counters (State.updEnc_of_keeps (Enc.counted_zero t _ _)).symm
  · rw [countBy_of_ne hd, State.shown_counters]

end Sys2Proof.Machine
end

section
/-! Accepted changes of an encoder's lines (R342, R343, R346): what counts, what is illegal, and that quadrature counting is reversible. -/

namespace Sys2Proof.Machine

open Sys2Proof

/-! ### The rules of the counting modes -/

/-- The change back undoes the change, in each counting mode (R342, R343). -/
theorem quadDelta_back {mode : Nat} {a b c d : Bool} (hmode : mode ≤ 2) (hone : ¬ (a ≠ c ∧ b ≠ d)) :
    quadDelta mode c d a b = - quadDelta mode a b c d := by
  obtain rfl | rfl | rfl : mode = 0 ∨ mode = 1 ∨ mode = 2 := by omega
  all_goals revert a b c d; decide

/-- A full cycle of the four states counts four (R342). -/
theorem quadDelta_cycle :
    quadDelta 0 false false true false + quadDelta 0 true false true true + quadDelta 0 true true false true
      + quadDelta 0 false true false false = 4 := by
  decide

/-! ### Accepted changes -/

/-- The accepted levels of A and B (R340). -/
def Enc.lines (a b : Bool) (e : Enc) : Enc := { e with a := a, b := b }

/-- What a change to the levels a and b counts, with the channel's direction (R342, R343, R346). -/
def Enc.delta (e : Enc) (a b : Bool) : Int := if bitAt e.ctl 27 then - quadDelta e.mode e.a e.b a b else quadDelta e.mode e.a e.b a b

/-- A change of both lines: ILLEGAL, counted, and the position is lost (R343). -/
def Enc.illegalLines (a b : Bool) (e : Enc) : Enc := { e.lines a b with illegal := true, illegalCnt := satInc e.illegalCnt, posValid := false }

section

variable {n : Fin 16} {a b : Bool} {s : State} (hreset : inReset (.enc n) s = false) (hen : s.encs[n].en = true) (hmode : s.encs[n].mode ≤ 2)
include hreset hen hmode

theorem encEdge_of_counted (hone : ¬ (a ≠ s.encs[n].a ∧ b ≠ s.encs[n].b)) :
    encEdge n a b s = settleIndex n (s.encs[n].stampNow s.coreTime)
      (countBy n (s.encs[n].delta a b) (s.encs[n].stampNow s.coreTime) (s.updEnc n (Enc.lines a b))) := by
  have hmode5 : (s.encs[n].mode == 5) = false := beq_false_of_ne (by omega)
  unfold encEdge
  simp only [hreset, hen, hmode5, hmode, hone, Bool.false_eq_true, Bool.not_true, Bool.or_self, and_false, if_false]
  rfl

theorem encEdge_of_illegal (ha : a ≠ s.encs[n].a) (hb : b ≠ s.encs[n].b) :
    encEdge n a b s = settleIndex n (s.encs[n].stampNow s.coreTime) (publish (0x0270 + n.1) (s.updEnc n (Enc.illegalLines a b))) := by
  have hmode5 : (s.encs[n].mode == 5) = false := beq_false_of_ne (by omega)
  have hfields : (s.updEnc n (Enc.lines a b)).updEnc n (fun e => { e with illegal := true, illegalCnt := satInc e.illegalCnt, posValid := false })
      = s.updEnc n (Enc.illegalLines a b) := State.updEnc_updEnc _ _ _ _
  rw [← hfields]
  unfold encEdge
  simp only [hreset, hen, hmode5, hmode, ha, hb, ne_eq, not_false_eq_true, and_self, Bool.false_eq_true, Bool.not_true, Bool.or_self,
    if_false, if_true]
  rfl

end

/-! ### The obligation -/

/-- Settles O40: a change of one line by its channel's counted part, a change of both by the marks it leaves; no index event follows while I is
inactive. Reversal is the modes' rule. -/
theorem encoderEdges : Obligations.EncoderEdges := by
  refine ⟨fun n a b s hreset hen hmode harm hinactive hsrc => ⟨fun hone => ⟨_, rfl, ?_⟩, fun ha hb => ⟨_, rfl, ?_⟩⟩,
    fun mode a b c d hmode hone => ⟨quadDelta_back hmode hone, quadDelta_cycle⟩⟩
  · have hlines : (s.updEnc n (Enc.lines a b)).encs[n] = s.encs[n].lines a b := s.updEnc_enc n _
    generalize hd : s.encs[n].delta a b = d
    generalize ht : s.encs[n].stampNow s.coreTime = t
    have hcount := countBy_of_disarmed (s := s.updEnc n (Enc.lines a b)) (by rw [hlines]; exact harm) hsrc d t
    rw [encEdge_of_counted hreset hen hmode hone, hd, ht, hcount, State.updEnc_updEnc, settleIndex_of_inactive, State.updEnc_updEnc]
    · rw [State.updEnc_enc]
      refine ⟨?_, ?_, ?_, ?_, fun k hk => s.updEnc_enc_ne n _ hk, rfl⟩
      · rw [← hd]
        exact Enc.counted_count ..
      all_goals rw [Enc.counted_frame]; rfl
    · rw [State.updEnc_enc, Enc.counted_frame]
      exact hinactive
  · have hmarked : (publish (0x0270 + n.1) (s.updEnc n (Enc.illegalLines a b))).encs[n] = s.encs[n].illegalLines a b := by
      rw [publish_encs, State.updEnc_enc]
    rw [encEdge_of_illegal hreset hen hmode ha hb, settleIndex_of_inactive, State.updEnc_enc, hmarked]
    · exact ⟨rfl, rfl, rfl, rfl⟩
    · rw [hmarked]
      exact hinactive

end Sys2Proof.Machine
end

section
/-! An encoder channel's events and registers: its index, standstill and held hits, loads, EN and the disarming of its compare unit (R345 to R348,
R357, R361, R363). -/

namespace Sys2Proof.Machine

open Sys2Proof Sys2Proof.Safety

/-! ### Index, standstill, held hits -/

section

variable {n : Fin 16} {s : State} (hreset : inReset (.enc n) s = false)
include hreset

theorem exec_encStandstill : exec (.encStandstill n) s = .next (s.updEnc n fun e => { e with standstill := true }) := by
  simp only [exec, execEncStandstill, hreset, Bool.false_eq_true, if_false]

/-- A channel whose index has risen to its active level (R340, R347). -/
def Enc.risen (e : Enc) : Enc := { e with i := ! bitAt e.ctl 26, g := true }

/-- The index becomes active on an enabled channel without a gate: an index event (R347, R348). -/
theorem encIndex_of_rise (hen : s.encs[n].en = true) (hlow : s.encs[n].g = false) (hgate : fld s.encs[n].ctl 22 20 = 0) :
    encIndex n (! bitAt s.encs[n].ctl 26) s = indexEvent n (s.encs[n].stampNow s.coreTime) (s.updEnc n Enc.risen) := by
  have hlevel := s.updEnc_enc n fun e => { e with i := ! bitAt s.encs[n].ctl 26 }
  have hrise : (s.updEnc n fun e => { e with i := ! bitAt s.encs[n].ctl 26 }).encs[n].gate = true := by
    rw [hlevel]
    exact Enc.gate_of_ungated rfl hgate
  have hindex : encIndex n (! bitAt s.encs[n].ctl 26) s
      = settleIndex n (s.encs[n].stampNow s.coreTime) (s.updEnc n fun e => { e with i := ! bitAt s.encs[n].ctl 26 }) :=
    if_neg (Bool.eq_false_iff.mp hreset)
  rw [hindex, settleIndex_of_rise hrise (by rw [hlevel]; exact hlow) (by rw [hlevel]; exact hen), State.updEnc_updEnc]
  exact congrArg _ (State.updEnc_of_eq rfl)

end

/-- An enabled channel in another mode than 5, or one that is not enabled, takes no samples (R346, R350). -/
theorem analogSample_of_unsampled {n : Fin 16} {s : State} (h : s.encs[n].en = false ∨ s.encs[n].mode ≠ 5) (sn cs : Int) :
    analogSample n sn cs s = s :=
  if_pos (by obtain h | h := h <;> simp [-Fin.getElem_fin, h])

theorem exec_heldHitPublish_of_held {n : Fin 16} {s : State} (h : s.encs[n].cmp.held = true) :
    exec (.heldHitPublish n) s = .next (cmpPublish n false
      (updCmp n (fun c => { c with held := false, late := c.late || ! bitAt c.ctl 27, lastHit := some s.coreTime }) s)) :=
  congrArg Host.Outcome.next (if_pos h)

theorem exec_heldHitPublish_of_none {n : Fin 16} {s : State} (h : s.encs[n].cmp.held = false) : exec (.heldHitPublish n) s = .next s :=
  congrArg Host.Outcome.next (if_neg (Bool.eq_false_iff.mp h))

/-! ### Registers -/

theorem bitAt_31_encctl (w : Word) : bitAt (w &&& (maskOf 31 20 ||| maskOf 17 12 ||| maskOf 9 0)) 31 = bitAt w 31 := by
  have hmask : (maskOf 31 20 ||| maskOf 17 12 ||| maskOf 9 0).getLsbD 31 = true := by decide
  rw [bitAt, BitVec.getLsbD_and, hmask, Bool.and_true, bitAt]

theorem bitAt_31_cleared (v : Word) : bitAt (Val.num (v &&& 0x7FFFFFFF#32).toNat).word 31 = false := by
  rw [word_num]
  simp [bitAt]

theorem bitAt_31_set (v : Word) : bitAt (Val.num (v ||| 0x80000000#32).toNat).word 31 = true := by
  rw [word_num]
  simp [bitAt]

/-- A channel whose ENCCTL has been written (R365, R366). -/
def Enc.configured (w : Word) (e : Enc) : Enc :=
  { e with ctl := w &&& (maskOf 31 20 ||| maskOf 17 12 ||| maskOf 9 0), idxArm := e.idxArm || bitAt w 19 }

/-- A channel that is disabled has no position (R346). -/
def Enc.stopped (e : Enc) : Enc := { e with posValid := false }

theorem write_encctl_off {v : Val} (h : bitAt v.word 31 = false) (n : Fin 16) (s : State) :
    EncReg.write n .encctl v s = s.updEnc n fun e => ((e.configured v.word).stopped).clipped s.coreTime := by
  have hsteps : EncReg.write n .encctl v s = ((s.updEnc n (Enc.configured v.word)).updEnc n Enc.stopped).updEnc n (Enc.clipped s.coreTime) := by
    simp only [EncReg.write, h, Bool.false_eq_true, if_false]
    rfl
  rw [hsteps, State.updEnc_updEnc, State.updEnc_updEnc]

theorem write_encctl_on {v : Val} (h : bitAt v.word 31 = true) (n : Fin 16) (s : State) :
    EncReg.write n .encctl v s = s.updEnc n fun e => ((e.configured v.word).start).clipped s.coreTime := by
  have hsteps : EncReg.write n .encctl v s = ((s.updEnc n (Enc.configured v.word)).updEnc n Enc.start).updEnc n (Enc.clipped s.coreTime) := by
    simp only [EncReg.write, h, if_true]
    rfl
  rw [hsteps, State.updEnc_updEnc, State.updEnc_updEnc]

/-- The compare unit whose CMPCTL has been written without ARM: disarmed, it keeps the rest (R363, R368). -/
def Cmp.disarmed (w : Word) (c : Cmp) : Cmp :=
  { c with ctl := w &&& maskOf 30 26, late := keepSticky c.late (bitAt w 25), missed := keepSticky c.missed (bitAt w 24), arm := false }

theorem write_cmpctl_off {v : Val} (h : bitAt v.word 31 = false) (n : Fin 16) (s : State) :
    EncReg.write n .cmpctl v s = s.updEnc n fun e => { e with cmp := e.cmp.disarmed v.word } := by
  simp only [EncReg.write, h, Bool.false_eq_true, if_false]
  exact State.updEnc_updEnc _ _ _ _

theorem write_count (n : Fin 16) (c : BitVec 48) (s : State) : EncReg.write n .count (.num c.toNat) s = loadCount n c s :=
  congrArg (loadCount n · s) (BitVec.ofNat_toNat 48 c ▸ BitVec.setWidth_eq c)

/-! ### The register rows -/

/-- COUNT_LOAD loads the count, and nothing else with the compare unit not armed (R345). -/
theorem countLoaded {w : By} {n : Fin 16} {c : BitVec 48} {s : State} (harm : s.encs[n].cmp.arm = false) (hsrc : ¬ (tbSrc s = 1 ∧ tbChan s = n))
    (hacc : Accepted w (0x7000 + n.1) 3 (.enc n .count) (.num c.toNat) s) :
    ∃ t, exec (.countLoad w n c) s = .next t ∧ t.encs[n].count = c ∧ t.encs[n].posValid = true ∧ (∀ k, k ≠ n → t.encs[k] = s.encs[k])
      ∧ t.tb = s.tb := by
  obtain ⟨hencs, htb⟩ := encWritten (f := Enc.loaded c) hacc fun u hencs htb _ => by
    rw [write_count]
    exact loadCount_of_disarmed (by rw [hencs]; exact harm) (by simpa only [tbSrc, tbChan, htb] using hsrc) c
  refine ⟨_, rfl, ?_, ?_, fun k hk => ?_, htb⟩
  · rw [hencs, State.updEnc_enc]; rfl
  · rw [hencs, State.updEnc_enc]; rfl
  · rw [hencs, State.updEnc_enc_ne _ _ _ hk]

/-- EN written 0 (R346). -/
theorem encDisabled {w : By} {n : Fin 16} {v : Word} {s : State}
    (hacc : Accepted w (0x7000 + n.1) 1 (.enc n .encctl) (.num (v &&& 0x7FFFFFFF#32).toNat) s) :
    ∃ t, exec (.encDisable w n v) s = .next t ∧ t.encs[n].en = false ∧ t.encs[n].posValid = false ∧ t.encs[n].count = s.encs[n].count := by
  have hoff := bitAt_31_cleared v
  obtain ⟨hencs, -⟩ := encWritten hacc fun u _ _ htime => htime ▸ write_encctl_off hoff n u
  refine ⟨regWrite w (0x7000 + n.1) 1 (.num (v &&& 0x7FFFFFFF#32).toNat) s, rfl, ?_⟩
  rw [hencs, State.updEnc_enc]
  exact ⟨(bitAt_31_encctl _).trans hoff, rfl, rfl⟩

/-- EN written 1 starts the run and the phase anew (R346, R352, R356). -/
theorem encEnabled {w : By} {n : Fin 16} {v : Word} {s : State}
    (hacc : Accepted w (0x7000 + n.1) 1 (.enc n .encctl) (.num (v ||| 0x80000000#32).toNat) s) :
    ∃ t, exec (.encEnable w n v) s = .next t ∧ t.encs[n].en = true ∧ t.encs[n].runLen = 0 ∧ t.encs[n].phase = none
      ∧ t.encs[n].count = s.encs[n].count := by
  have hon := bitAt_31_set v
  obtain ⟨hencs, -⟩ := encWritten hacc fun u _ _ htime => htime ▸ write_encctl_on hon n u
  refine ⟨regWrite w (0x7000 + n.1) 1 (.num (v ||| 0x80000000#32).toNat) s, rfl, ?_⟩
  rw [hencs, State.updEnc_enc]
  exact ⟨(bitAt_31_encctl _).trans hon, rfl, rfl, rfl⟩

/-- ARM written 0 (R363). -/
theorem cmpDisarmed {w : By} {n : Fin 16} {v : Word} {s : State}
    (hacc : Accepted w (0x7000 + n.1) 0x20 (.enc n .cmpctl) (.num (v &&& 0x7FFFFFFF#32).toNat) s) :
    ∃ t, exec (.cmpDisarm w n v) s = .next t ∧ t.encs[n].cmp.arm = false ∧ t.encs[n].cmp.target = s.encs[n].cmp.target
      ∧ t.encs[n].cmp.hits = s.encs[n].cmp.hits := by
  have hoff := bitAt_31_cleared v
  obtain ⟨hencs, -⟩ := encWritten hacc fun u _ _ _ => write_cmpctl_off hoff n u
  refine ⟨regWrite w (0x7000 + n.1) 0x20 (.num (v &&& 0x7FFFFFFF#32).toNat) s, rfl, ?_⟩
  rw [hencs, State.updEnc_enc]
  exact ⟨rfl, rfl, rfl⟩

/-! ### The obligation -/

/-- Settles O41: the index by what its event notes and loads, standstill and a held hit by the field each sets, and each register row by its object's
effect on the channel; a sample that the channel does not take changes nothing. -/
theorem encoderEventsAndRegisters : Obligations.EncoderEventsAndRegisters := by
  refine ⟨fun n s hreset => ⟨exec_encStandstill hreset, fun hen hlow hgate hunarmed => ⟨_, rfl, ?_⟩,
    fun hen hlow hgate harmed hdisarmed hsrc => ⟨_, rfl, ?_⟩, fun hheld => ⟨_, exec_heldHitPublish_of_held hheld, ?_⟩,
    exec_heldHitPublish_of_none, fun sn cs h => congrArg Host.Outcome.next (analogSample_of_unsampled h sn cs)⟩,
    fun w n v c s => ⟨countLoaded, encDisabled, encEnabled, cmpDisarmed⟩⟩
  · have hrisen := s.updEnc_enc n Enc.risen
    rw [encIndex_of_rise hreset hen hlow hgate, indexEvent_of_unarmed (by rw [hrisen]; exact hunarmed), State.indexed_enc, hrisen]
    exact ⟨rfl, rfl, rfl, rfl⟩
  · have hrisen := s.updEnc_enc n Enc.risen
    have hloads := indexEvent_of_armed (s := s.updEnc n Enc.risen) (by rw [hrisen]; exact harmed) (by rw [hrisen]; exact hdisarmed) hsrc
    rw [encIndex_of_rise hreset hen hlow hgate, hloads, State.updEnc_enc, State.indexed_enc, hrisen]
    exact ⟨rfl, rfl, rfl, rfl⟩
  · rw [cmpPublish_encs, updCmp, State.updEnc_enc]
    exact ⟨rfl, rfl, rfl, rfl⟩

end Sys2Proof.Machine
end

section
/-! Samples of sine and cosine (R350 to R353): one within the amplitude window gives a phase and counts its step, one out of it counts towards the
amplitude fault. -/

namespace Sys2Proof.Machine

open Sys2Proof

/-! ### The phase counted -/

/-- A channel's phase, what the sample and the window leave of it, and what its index is made of (R347, R351, R353). -/
def Enc.sampled (e : Enc) : Option Nat × BitVec 24 × Nat × Bool × Word := (e.phase, e.amp, e.outRun, e.i, e.ctl)

/-- A channel that has taken the phase p (R352). -/
def Enc.atPhase (p : Nat) (e : Enc) : Enc := { e with phase := some p }

/-- A channel that has taken a step too wide: its position is lost (R352). -/
def Enc.overrun (e : Enc) : Enc := { e with overspeed := true, posValid := false }

/-- What a phase counts after the phase before it, with the channel's direction (R346, R352). -/
def Enc.phaseDelta (e : Enc) (p was : Nat) : Int := if bitAt e.ctl 27 then - phaseStep p was else phaseStep p was

/-- Counting changes the count, and nothing of the sample, the window and the index. -/
theorem countBy_sampled (n : Fin 16) (d : Int) (t : Nat) (s : State) :
    (countBy n d t s).encs[n].sampled = s.encs[n].sampled ∧ (countBy n d t s).encs[n].count = s.encs[n].count + BitVec.ofInt 48 d := by
  have hcounter := congrFun (countBy_counters n d t s) n
  simp only [State.counters, State.updEnc_encs, modAt_get] at hcounter
  constructor
  · refine (congrArg Enc.sampled hcounter :).trans ?_
    rw [Enc.counted_frame]
    rfl
  · exact (congrArg Enc.count hcounter :).trans (Enc.counted_count ..)

/-- The first phase counts nothing (R352). -/
theorem countPhase_of_first {n : Fin 16} {s : State} (h : s.encs[n].phase = none) (p t : Nat) : countPhase n p t s = s.updEnc n (Enc.atPhase p) := by
  simp only [countPhase, h]
  rfl

/-- A later one counts its step; OVERSPEED and the lost position are all that a step too wide adds (R352). -/
theorem countPhase_cases {n : Fin 16} {s : State} {was : Nat} (h : s.encs[n].phase = some was) (p t : Nat) :
    ∃ u, u = countBy n (s.encs[n].phaseDelta p was) t (s.updEnc n (Enc.atPhase p))
      ∧ (countPhase n p t s = u ∨ countPhase n p t s = publish (0x0280 + n.1) (u.updEnc n Enc.overrun)) := by
  refine ⟨_, rfl, ?_⟩
  simp only [countPhase, h]
  split
  · exact .inr rfl
  · exact .inl rfl

theorem countPhase_of_later {n : Fin 16} {s : State} {was : Nat} (h : s.encs[n].phase = some was) (p t : Nat) :
    (countPhase n p t s).encs[n].sampled = (s.encs[n].atPhase p).sampled
      ∧ (countPhase n p t s).encs[n].count = s.encs[n].count + BitVec.ofInt 48 (s.encs[n].phaseDelta p was) := by
  have hcounted := countBy_sampled n (s.encs[n].phaseDelta p was) t (s.updEnc n (Enc.atPhase p))
  rw [State.updEnc_enc] at hcounted
  obtain ⟨u, hu, hphase | hphase⟩ := countPhase_cases h p t
  · rw [hphase, hu]
    exact hcounted
  · have hwide : (publish (0x0280 + n.1) (u.updEnc n Enc.overrun)).encs[n] = u.encs[n].overrun := by rw [publish_encs, State.updEnc_enc]
    rw [hphase, hwide, hu]
    exact hcounted

theorem countPhase_sampled (n : Fin 16) (p t : Nat) (s : State) : (countPhase n p t s).encs[n].sampled = (s.encs[n].atPhase p).sampled := by
  cases h : s.encs[n].phase with
  | none => rw [countPhase_of_first h, State.updEnc_enc]
  | some was => exact (countPhase_of_later h p t).1

theorem Enc.of_sampled {e f : Enc} (h : e.sampled = f.sampled) :
    e.phase = f.phase ∧ e.amp = f.amp ∧ e.outRun = f.outRun ∧ e.i = f.i ∧ e.ctl = f.ctl :=
  ⟨congrArg (·.1) h, congrArg (·.2.1) h, congrArg (·.2.2.1) h, congrArg (·.2.2.2.1) h, congrArg (·.2.2.2.2) h⟩

/-! ### A sample -/

/-- A channel with the amplitude of a sample whose square is r2 (R351). -/
def Enc.measured (r2 : Nat) (e : Enc) : Enc := { e with amp := BitVec.ofNat 24 r2.sqrt }

/-- A channel that has seen a sample within the window (R353). -/
def Enc.inWindow (e : Enc) : Enc := { e with outRun := 0 }

/-- A channel that has seen a sample out of the window (R353). -/
def Enc.outside (e : Enc) : Enc := { e with inRun := [], outRun := e.outRun + 1 }

/-- The amplitude fault: counted, and the position is lost (R353). -/
def Enc.amplitudeLost (e : Enc) : Enc := { e with ampFault := true, ampOut := true, posValid := false, ampFaults := satInc e.ampFaults }

/-- A sample within the window taken, the rounding of its phase drawn (R351, R353). -/
def State.sampleTaken (s : State) (n : Fin 16) (r2 : Nat) : State := (s.updEnc n (Enc.measured r2)).drawNat.2.updEnc n Enc.inWindow

theorem State.sampleTaken_enc (s : State) (n : Fin 16) (r2 : Nat) : (s.sampleTaken n r2).encs[n] = (s.encs[n].measured r2).inWindow := by
  simp only [State.sampleTaken, State.updEnc_encs, State.drawNat_encs, modAt_get]

section

variable {n : Fin 16} {sn cs s1 c1 : Int} {s : State} (hreset : inReset (.enc n) s = false) (hen : s.encs[n].en = true) (hmode : s.encs[n].mode = 5)
  (hs : s1 = clampI (-8192) 8191 sn - toSigned 24 s.encs[n].sinOfs.toNat)
  (hc : c1 = ((clampI (-8192) 8191 cs - toSigned 24 s.encs[n].cosOfs.toNat) * s.encs[n].cosGain.toNat + 2 ^ 13) / 2 ^ 14)
  (hin : s.encs[n].ampOut = false)
include hreset hen hmode hs hc hin

/-- A sample within the window, the channel not out of it, counts the phase that one of three free choices gives (R351, R352). -/
theorem analogSample_of_within (hlo : s.encs[n].amin.toNat ^ 2 ≤ (s1 * s1 + c1 * c1).toNat)
    (hhi : (s1 * s1 + c1 * c1).toNat ≤ s.encs[n].amax.toNat ^ 2) :
    ∃ k, k < 3 ∧ analogSample n sn cs s = settleIndex n (sampleStamp s.coreTime)
      (countPhase n ((phaseOf s1 c1 + 4095 + k) % 4096) (sampleStamp s.coreTime) (s.sampleTaken n (s1 * s1 + c1 * c1).toNat)) := by
  refine ⟨s.drawNat.1 % 3, Nat.mod_lt _ (by decide), ?_⟩
  simp only [analogSample, hreset, hen, hmode, ← hs, ← hc, hin, hlo, hhi, Bool.not_true, Bool.or_self, ne_eq, not_true_eq_false, decide_false,
    Bool.false_eq_true, if_false, and_self, if_true]
  rfl

/-- A sample out of the window, the last one that it takes for that, is the amplitude fault (R353). -/
theorem analogSample_of_outside (hout : s.encs[n].amax.toNat ^ 2 < (s1 * s1 + c1 * c1).toNat)
    (hlast : s.encs[n].awinN.toNat ≤ s.encs[n].outRun + 1) :
    analogSample n sn cs s = publish (0x0290 + n.1)
      (((s.updEnc n (Enc.measured (s1 * s1 + c1 * c1).toNat)).updEnc n Enc.outside).updEnc n Enc.amplitudeLost) := by
  have hnot : ¬ (s1 * s1 + c1 * c1).toNat ≤ s.encs[n].amax.toNat ^ 2 := Nat.not_le.mpr hout
  simp only [analogSample, hreset, hen, hmode, ← hs, ← hc, hin, hnot, hlast, Bool.not_true, Bool.not_false, Bool.or_self, Bool.and_self, ne_eq,
    not_true_eq_false, decide_false, decide_true, Bool.false_eq_true, if_false, and_false, if_true]
  rfl

end

/-! ### The obligation -/

/-- Settles O42: a sample within the window by the phase it gives and the step that counts, the phase one of the three next to the exact one (log
entry 11), and the sample that completes the run out of the window by the fault's marks; samples are clamped to the converter's range (log entry 49). -/
theorem analogSamplesGiveThePhase : Obligations.AnalogSamplesGiveThePhase := by
  refine fun n sn cs s1 c1 s hreset hen hmode hs hc => ⟨fun hlo hhi hin hinactive => ?_, fun hout hin hlast => ⟨_, rfl, ?_⟩⟩
  · obtain ⟨k, hk, hsample⟩ := analogSample_of_within hreset hen hmode hs hc hin hlo hhi
    have htaken := s.sampleTaken_enc n (s1 * s1 + c1 * c1).toNat
    generalize s.sampleTaken n (s1 * s1 + c1 * c1).toNat = u at hsample htaken
    generalize hp : (phaseOf s1 c1 + 4095 + k) % 4096 = p at hsample
    obtain ⟨hphase, hamp, hrun, hi, hctl⟩ := Enc.of_sampled (countPhase_sampled n p (sampleStamp s.coreTime) u)
    rw [settleIndex_of_inactive (by rw [hi, hctl, htaken]; exact hinactive)] at hsample
    refine ⟨_, k, p, congrArg Host.Outcome.next hsample, hk, hp.symm, ?_⟩
    rw [State.updEnc_enc]
    refine ⟨hphase, fun hfirst => ?_, fun was hlater => ?_, hamp.trans (by rw [htaken]; rfl), hrun.trans (by rw [htaken]; rfl)⟩
    · have hkept := countPhase_of_first (s := u) (by rw [htaken]; exact hfirst) p (sampleStamp s.coreTime)
      rw [hkept, State.updEnc_enc, htaken]
      rfl
    · obtain ⟨-, hcount⟩ := countPhase_of_later (s := u) (by rw [htaken]; exact hlater) p (sampleStamp s.coreTime)
      rw [htaken] at hcount
      exact hcount
  · rw [analogSample_of_outside hreset hen hmode hs hc hin hout hlast, publish_encs, State.updEnc_enc, State.updEnc_enc, State.updEnc_enc]
    exact ⟨rfl, rfl, rfl, rfl, rfl⟩

end Sys2Proof.Machine
end

section
/-! The timebase as its sources move it (R370 to R374): with no sequencer running a change or a load of the timebase is its new value and nothing
else, and each source's event is such a change, or a mark of the mains measurement. -/

namespace Sys2Proof.Machine

open Sys2Proof

/-! ### The cue unit with no sequencer running -/

theorem seq_of_idle {s : State} (h : anyRunning s = false) (i : Fin 16) : s.tb.seqs[i].state ≠ .running := by
  simpa [-Fin.getElem_fin] using List.any_eq_false.mp h i (List.mem_finRange i)

/-- Nobody looks at a change of the timebase while no sequencer runs (R378, R380). -/
theorem runSeqs_of_idle {s : State} (h : anyRunning s = false) (now : Option (BitVec 48 × BitVec 48)) : runSeqs now s = s := by
  refine State.each_ind (· = s) _ _ (fun i t _ ht => ?_) s rfl
  subst ht
  exact if_neg (seq_of_idle h i)

/-- The timebase at a new value. -/
def Timebase.moved (v : BitVec 48) (t : Timebase) : Timebase := { t with tb := v }

theorem loadTb_of_idle {s : State} (h : anyRunning s = false) (v : BitVec 48) : loadTb v s = s.updTb (Timebase.moved v) :=
  runSeqs_of_idle (s := s.updTb (Timebase.moved v)) h none

theorem changeTb_of_idle {s : State} (h : anyRunning s = false) (v : BitVec 48) : changeTb v s = s.updTb (Timebase.moved v) := by
  unfold changeTb
  dsimp only
  split
  next hstill => rw [hstill]; rfl
  next =>
    split
    next => exact loadTb_of_idle h v
    next => exact runSeqs_of_idle (s := s.updTb (Timebase.moved v)) h _

theorem sourceTb_of_no_master {s : State} (h : ringMaster s = false) : sourceTb s = s.tb.tb := if_neg (Bool.eq_false_iff.mp h)

/-- Out of the Array's master, and with no sequencer running, the timebase takes its source's value (R370). -/
theorem sourceChange_of_idle {s : State} (hreset : inReset .cue s = false) (hmaster : ringMaster s = false) (hidle : anyRunning s = false)
    (v : BitVec 48) : sourceChange v s = s.updTb (Timebase.moved v) := by
  rw [sourceChange, hreset, hmaster]
  exact changeTb_of_idle hidle v

/-! ### Mains -/

/-- The measurement of the mains at its first edge (R373). -/
def Timebase.firstEdge (now : Nat) (t : Timebase) : Timebase := { t with periods := [], edgeAt := some now, mainsPeriod := 0 }

section

variable {s : State} (hreset : inReset .cue s = false) (hsrc : tbSrc s = 3)
include hreset hsrc

theorem mainsEdge_of_first (hedge : s.tb.edgeAt = none) (hperiods : s.tb.periods = []) :
    mainsEdge s = sourceChange (nextCycle (sourceTb s)) (s.updTb (Timebase.firstEdge s.coreTime)) := by
  unfold mainsEdge
  simp only [hreset, hsrc, hedge, hperiods]
  rfl

theorem mainsEdge_of_early {at0 : Nat} (hedge : s.tb.edgeAt = some at0) (hperiod : s.tb.mainsPeriod ≠ 0)
    (hearly : 4 * (s.coreTime - at0) < 3 * s.tb.mainsPeriod.toNat) :
    mainsEdge s = s.updTb fun t => { t with mainsReject := satInc t.mainsReject } := by
  have hnonzero : s.tb.mainsPeriod.toNat ≠ 0 := fun h => hperiod (BitVec.eq_of_toNat_eq h)
  simp [mainsEdge, hreset, hsrc, hedge, hearly, hnonzero]

end

/-- Between the edges the phase within the cycle is what the time since the last edge makes it, once it has grown (R373). -/
theorem mainsPhase_of_grown {s : State} {at0 : Nat} (hsrc : tbSrc s = 3) (hedge : s.tb.edgeAt = some at0) (hperiod : s.tb.mainsPeriod ≠ 0)
    (hgrown : (sourceTb s).toNat % 4096 < min 4095 (4096 * (s.coreTime - at0) / s.tb.mainsPeriod.toNat)) :
    mainsPhase s = sourceChange
      (BitVec.ofNat 48 ((sourceTb s).toNat / 4096 * 4096 + min 4095 (4096 * (s.coreTime - at0) / s.tb.mainsPeriod.toNat))) s := by
  have hnonzero : s.tb.mainsPeriod.toNat ≠ 0 := fun h => hperiod (BitVec.eq_of_toNat_eq h)
  simp only [mainsPhase, hedge, hsrc, hnonzero, hgrown, ne_eq, not_true_eq_false, or_self, if_false, if_true]

/-! ### The obligation -/

/-- Settles O36: each source's event as a change of a timebase that no sequencer watches, or as a mark of the mains measurement (R370, R373). -/
theorem timebaseFollowsItsSource : Obligations.TimebaseFollowsItsSource := by
  intro s hreset hmaster hidle
  have hchange := sourceChange_of_idle hreset hmaster hidle
  have htb := sourceTb_of_no_master hmaster
  refine ⟨fun l hsrc hline => ?_, fun l _ hother => ?_, fun hsrc => ?_, fun hsrc hedge hperiods => ⟨_, rfl, ?_⟩,
    fun at0 hsrc hedge hperiod hearly => ?_, fun at0 hsrc hedge hperiod hgrown => ?_, fun hsrc => ?_⟩
  · have hedge : lineEdge l s = sourceChange (sourceTb s + 1) s := if_pos ⟨hsrc, hline⟩
    exact congrArg Host.Outcome.next (by rw [hedge, htb, hchange]; rfl)
  · exact congrArg Host.Outcome.next (if_neg fun h => hother h.2)
  · exact congrArg Host.Outcome.next ((if_pos hsrc).trans (hchange _))
  · rw [mainsEdge_of_first hreset hsrc hedge hperiods, htb,
      sourceChange_of_idle (s := s.updTb (Timebase.firstEdge s.coreTime)) hreset hmaster hidle]
    exact ⟨rfl, rfl, rfl, rfl⟩
  · exact congrArg Host.Outcome.next (mainsEdge_of_early hreset hsrc hedge hperiod hearly)
  · have hphase := mainsPhase_of_grown hsrc hedge hperiod (by rw [htb]; exact hgrown)
    exact congrArg Host.Outcome.next (hphase.trans (by rw [htb, hchange]; rfl))
  · exact congrArg Host.Outcome.next (if_pos hsrc)

end Sys2Proof.Machine
end

section
/-! Cues and sequencers (R375, R377 to R382): the direction-free form of reaching a value, what a walk of a sequencer does at one cue, and an accepted
write of SEQCTL. -/

namespace Sys2Proof.Machine

open Sys2Proof Sys2Proof.Safety

/-! ### Reaching a value -/

/-- How far d lies ahead of c in a direction, modulo 2^48 (R344). -/
def ahead (rev : Bool) (c d : BitVec 48) : BitVec 48 := if rev then c - d else d - c

theorem ahead_self (rev : Bool) (c : BitVec 48) : ahead rev c c = 0 := by cases rev <;> exact BitVec.sub_self c

theorem ahead_not (rev : Bool) (c d : BitVec 48) : ahead (! rev) c d = - ahead rev c d := by
  cases rev
  · exact (neg_sub _ _).symm
  · exact (neg_sub _ _).symm

theorem ahead_between (rev : Bool) (c d t : BitVec 48) : ahead rev t d = ahead rev c d - ahead rev c t := by
  cases rev <;> simp only [ahead, Bool.false_eq_true, if_false, if_true] <;> ring

theorem reaches_iff {rev : Bool} {c d t : BitVec 48} :
    reaches rev c d t = true ↔ (0 < (ahead rev c d).toNat ∧ (ahead rev c d).toNat < 2 ^ 47)
      ∧ 1 ≤ (ahead rev c t).toNat ∧ (ahead rev c t).toNat ≤ (ahead rev c d).toNat := by
  cases rev <;> simp [reaches, ahead, and_assoc]

theorem beyond_iff {rev : Bool} {c t : BitVec 48} : beyond rev c t = true ↔ (ahead rev t c).toNat < 2 ^ 47 := by
  cases rev <;> simp [beyond, ahead]

/-- Standing still reaches nothing, and nothing reaches the value it starts from (R378). -/
theorem ne_of_reaches {rev : Bool} {c d t : BitVec 48} (h : reaches rev c d t = true) : c ≠ d ∧ t ≠ c := by
  obtain ⟨⟨hmoves, -⟩, haway, -⟩ := reaches_iff.mp h
  refine ⟨fun hstill => ?_, fun hthere => ?_⟩
  · rw [hstill, ahead_self] at hmoves
    exact absurd hmoves (by decide)
  · rw [hthere, ahead_self] at haway
    exact absurd haway (by decide)

/-- What is reached in a direction lies behind the place arrived at (R378, R380). -/
theorem beyond_of_reaches {rev : Bool} {c d t : BitVec 48} (h : reaches rev c d t = true) : beyond rev d t = true := by
  obtain ⟨⟨-, hhalf⟩, -, hwithin⟩ := reaches_iff.mp h
  rw [beyond_iff, ahead_between rev c d t, BitVec.toNat_sub_of_le hwithin]
  omega

/-- A change has one direction at most (R344). -/
theorem not_reaches_back {rev : Bool} {c d t : BitVec 48} (h : reaches rev c d t = true) : reaches (! rev) c d t = false := by
  obtain ⟨⟨hmoves, hhalf⟩, -⟩ := reaches_iff.mp h
  refine Bool.eq_false_iff.mpr fun hback => ?_
  obtain ⟨⟨-, hother⟩, -⟩ := reaches_iff.mp hback
  rw [ahead_not] at hother
  bv_omega

/-- A change by half the range reaches nothing (R344, log entry 42). -/
theorem ne_half_of_reaches {rev : Bool} {c d t : BitVec 48} (h : reaches rev c d t = true) : (d - c).toNat ≠ 2 ^ 47 := by
  obtain ⟨⟨-, hhalf⟩, -⟩ := reaches_iff.mp h
  cases rev
  · exact Nat.ne_of_lt hhalf
  · have hback : d - c = - ahead true c d := ahead_not true c d
    rw [hback]
    bv_omega

/-! ### Sequencers changed -/

theorem State.updSeq_seq (s : State) (i : Fin 16) (f : Seq → Seq) : (s.updSeq i f).tb.seqs[i] = f s.tb.seqs[i] := modAt_get _ _ _

theorem State.updSeq_seq_ne (s : State) (i : Fin 16) (f : Seq → Seq) {k : Fin 16} (h : k ≠ i) : (s.updSeq i f).tb.seqs[k] = s.tb.seqs[k] :=
  modAt_get_ne _ _ _ _ h

theorem State.updSeq_updSeq (s : State) (i : Fin 16) (f g : Seq → Seq) : (s.updSeq i f).updSeq i g = s.updSeq i fun q => g (f q) := by
  simp [State.updSeq, modAt]

/-- What becomes of a cue follows from the timebase unit alone (R375, R378). -/
theorem cueAct_congr {s t : State} (h : t.tb = s.tb) : cueAct t = cueAct s := by
  unfold cueAct effective cueAt tbSrc
  rw [h]

/-- The sequencers have no part in it. -/
theorem cueAct_updSeq (s : State) (i : Fin 16) (f : Seq → Seq) : cueAct (s.updSeq i f) = cueAct s := rfl

@[simp] theorem giveWay_tb (code : Nat) (rung : Fin 5) (cls : FClass) (idx detail : Nat) (s : State) : (giveWay code rung cls idx detail s).tb = s.tb := by
  rw [giveWay_frame]

/-! ### One step of a walk -/

/-- A sequencer that fires a cue late (R379). -/
def Seq.firedLate (q : Seq) : Seq := { q with late := true, fired := satInc q.fired }

/-- The state in which a sequencer's late cue fires: marked, counted, and its give-way reported (R379). -/
def State.firesLate (s : State) (i : Fin 16) : State := giveWay 0x0108 rung3 .cue 0 s.tb.seqs[i].cursor.toNat (s.updSeq i Seq.firedLate)

theorem State.firesLate_tb (s : State) (i : Fin 16) : (s.firesLate i).tb = (s.updSeq i Seq.firedLate).tb := giveWay_tb ..

theorem State.firesLate_seq (s : State) (i : Fin 16) : (s.firesLate i).tb.seqs[i] = s.tb.seqs[i].firedLate := by
  rw [State.firesLate_tb, State.updSeq_seq]

theorem walkSeq_of_stopped {i : Fin 16} {s : State} (h : s.tb.seqs[i].state ≠ .running) (owed : List (BitVec 48 × BitVec 48))
    (now : Option (BitVec 48 × BitVec 48)) (n : Nat) (fresh : Bool) : walkSeq i owed now (n + 1) fresh s = s := if_pos h

section

variable {i : Fin 16} {s : State} {owed : List (BitVec 48 × BitVec 48)} {now : Option (BitVec 48 × BitVec 48)} {fresh : Bool}
  (hrun : s.tb.seqs[i].state = .running)
include hrun

theorem walkSeq_of_wait (hact : cueAct s s.tb.seqs[i] owed now fresh = .wait) (n : Nat) :
    walkSeq i owed now (n + 1) fresh s = s.updSeq i fun q => { q with carry := none } := by
  simp only [walkSeq, hrun, hact, ne_eq, not_true_eq_false, if_false]

theorem walkSeq_of_late (hact : cueAct s s.tb.seqs[i] owed now fresh = .late) (n : Nat) :
    walkSeq i owed now (n + 1) fresh s
      = walkSeq i owed now n true (advanceSeq i (fireCue s.tb.seqs[i].cursor (effective s s.tb.seqs[i]) true (s.firesLate i))) := by
  simp only [walkSeq, hrun, hact, ne_eq, not_true_eq_false, if_false]
  rfl

end

/-- A cue without a link trigger, a publish or a pin does nothing as it fires (R375). -/
theorem fireCue_of_empty {k : BitVec 12} {s : State} (h : (cueAt s k).hi = 0) (value : BitVec 48) (late : Bool) : fireCue k value late s = s := by
  have hclear (j : Nat) : bitAt (0 : BitVec 64) j = false := BitVec.getLsbD_zero
  simp only [fireCue, h, hclear, Bool.false_eq_true, Bool.not_false, if_false, if_true]
  exact State.each_ind (· = s) _ _ (fun _ _ _ ht => ht) s rfl

/-- The last cue of the last pass ends the run (R381). -/
theorem advanceSeq_of_last {i : Fin 16} {s : State} (hlast : fld s.tb.seqs[i].range 27 16 ≤ s.tb.seqs[i].cursor.toNat)
    (hloops : s.tb.seqs[i].loopsNow = 1) (hpass : s.tb.seqs[i].pass = 1) :
    advanceSeq i s = publish (0x02A0 + i.1) (s.updSeq i fun q => { q with state := .done, carry := none }) := by
  have hmore : ¬ (s.tb.seqs[i].loopsNow = 0 ∨ s.tb.seqs[i].pass < s.tb.seqs[i].loopsNow.toNat) := by rw [hloops, hpass]; decide
  rw [advanceSeq, if_neg (Nat.not_lt.mpr hlast), if_neg hmore]

/-- A sequencer that has fired the last cue of its list late: Done (R379, R381). -/
def Seq.endedLate (q : Seq) : Seq := { q.firedLate with state := .done, carry := none }

theorem walkSeq_of_last_late {i : Fin 16} {s : State} {owed : List (BitVec 48 × BitVec 48)} {now : Option (BitVec 48 × BitVec 48)} {fresh : Bool}
    (hrun : s.tb.seqs[i].state = .running) (hact : cueAct s s.tb.seqs[i] owed now fresh = .late) (hempty : (cueAt s s.tb.seqs[i].cursor).hi = 0)
    (hlast : fld s.tb.seqs[i].range 27 16 ≤ s.tb.seqs[i].cursor.toNat) (hloops : s.tb.seqs[i].loopsNow = 1) (hpass : s.tb.seqs[i].pass = 1)
    (n : Nat) :
    (walkSeq i owed now (n + 2) fresh s).tb.seqs[i] = s.tb.seqs[i].endedLate ∧ (walkSeq i owed now (n + 2) fresh s).tb.tb = s.tb.tb
      ∧ (walkSeq i owed now (n + 2) fresh s).faults.giveway[rung3] = satInc s.faults.giveway[rung3] := by
  have hseq := s.firesLate_seq i
  have hcue : (cueAt (s.firesLate i) s.tb.seqs[i].cursor).hi = 0 := by rw [cueAt, State.firesLate_tb]; exact hempty
  rw [walkSeq_of_late hrun hact, fireCue_of_empty hcue, advanceSeq_of_last (by rw [hseq]; exact hlast) (by rw [hseq]; exact hloops)
    (by rw [hseq]; exact hpass)]
  have hdone := ((s.firesLate i).updSeq_seq i fun q => { q with state := .done, carry := none }).trans (by rw [hseq])
  rw [walkSeq_of_stopped (by rw [publish_tb, hdone]; exact SeqState.noConfusion), publish_tb, hdone, publish_frame]
  refine ⟨rfl, (congrArg Timebase.tb (s.firesLate_tb i) :), ?_⟩
  exact (congrArg (·[rung3]) (giveWay_counts ..)).trans (modAt_get ..)

/-! ### SEQCTL -/

@[simp] theorem driveSync_tb (s : State) : (driveSync s).tb = s.tb := by fun_cases driveSync s <;> rfl

/-- An accepted write of an object of the timebase unit leaves of it what its effect leaves (R594). -/
theorem tbWritten {w : By} {index sub : Nat} {r : TbReg} {v : Val} {s : State} (hacc : Accepted w index sub (.tb r) v s)
    (hrwp : (Obj.tb r).desc.acc ≠ .rwp) : (regWrite w index sub v s).tb = (TbReg.write r v (spent (.tb r) v s)).tb := by
  obtain ⟨-, htb⟩ := noted_keeps_encs w index sub (.tb r) v (journaled (.tb r) v s) (driveSync (TbReg.write r v (spent (.tb r) v s)))
  rw [regWrite_of_accepted hacc hrwp (by intro h; cases h.1)]
  exact htb.trans (driveSync_tb _)

/-- An accepted write whose effect changes its sequencer alone leaves that of the timebase unit. -/
theorem seqWritten {w : By} {index sub : Nat} {i : Fin 16} {v : Val} {f : Seq → Seq} {s : State} (hacc : Accepted w index sub (.tb (.seqctl i)) v s)
    (hwrite : ∀ u : State, u.tb = s.tb → TbReg.write (.seqctl i) v u = u.updSeq i f) : (regWrite w index sub v s).tb = (s.updSeq i f).tb := by
  have hspent : (spent (.tb (.seqctl i)) v s).tb = s.tb := by rw [spent_access]; rfl
  rw [tbWritten hacc (by intro h; cases h), hwrite _ hspent, State.updSeq_tb, hspent, State.updSeq_tb]

/-- A sequencer whose SEQCTL has been written (R382). -/
def Seq.configured (w : Word) (q : Seq) : Seq := { q with ctl := w &&& maskOf 30 29 }

/-- A sequencer at START of pass 1, its loop as it is written now (R377, R382). -/
def Seq.started (q : Seq) : Seq :=
  { q with state := .running, cursor := BitVec.ofNat 12 (fld q.range 11 0), pass := 1, loopAddNow := q.loopAdd, loopsNow := q.loops, carry := none }

/-- A sequencer stopped: a run ends, and nothing else does (R382). -/
def Seq.stopped (q : Seq) : Seq := if q.state = .running then { q with state := .idle, carry := none } else q

theorem Seq.stopped_keeps (q : Seq) :
    q.stopped.state ≠ .running ∧ q.stopped.cursor = q.cursor ∧ (q.state = .running → q.stopped.state = .idle) := by
  unfold Seq.stopped
  split
  next => exact ⟨SeqState.noConfusion, rfl, fun _ => rfl⟩
  next hstopped => exact ⟨hstopped, rfl, fun hrun => absurd hrun hstopped⟩

theorem write_seqctl_run {v : Val} (h : bitAt v.word 31 = true) (i : Fin 16) (s : State) :
    TbReg.write (.seqctl i) v s = walkSeq i [] none 4 true (s.updSeq i fun q => (q.configured v.word).started) := by
  rw [← State.updSeq_updSeq s i (Seq.configured v.word) Seq.started]
  exact if_pos h

theorem write_seqctl_stop {v : Val} (h : bitAt v.word 31 = false) (i : Fin 16) (s : State) :
    TbReg.write (.seqctl i) v s = s.updSeq i fun q => (q.configured v.word).stopped := by
  rw [← State.updSeq_updSeq s i (Seq.configured v.word) Seq.stopped]
  exact if_neg (Bool.eq_false_iff.mp h)

/-- RUN starts a sequencer whose first cue is still to come, and nothing fires (R378, R382). -/
theorem write_seqctl_wait {v : Val} (h : bitAt v.word 31 = true) {i : Fin 16} {s : State}
    (hact : cueAct s (s.tb.seqs[i].configured v.word).started [] none true = .wait) :
    TbReg.write (.seqctl i) v s = s.updSeq i fun q => (q.configured v.word).started := by
  have hseq := s.updSeq_seq i fun q => (q.configured v.word).started
  rw [write_seqctl_run h, walkSeq_of_wait (by rw [hseq]; rfl) (by rw [hseq, cueAct_updSeq]; exact hact), State.updSeq_updSeq]
  rfl

/-- RUN written 1 starts its sequencer and no other, and leaves the timebase as it is (R382). -/
theorem seqRuns {w : By} {i : Fin 16} {v : Word} {s : State} {q : Seq}
    (hq : (s.tb.seqs[i].configured (Val.num (v ||| 0x80000000#32).toNat).word).started = q) (hact : cueAct s q [] none true = .wait)
    (hacc : Accepted w (0x7130 + i.1) 1 (.tb (.seqctl i)) (.num (v ||| 0x80000000#32).toNat) s) :
    ∃ t, exec (.seqRun w i v) s = .next t ∧ t.tb.seqs[i] = q ∧ (∀ k, k ≠ i → t.tb.seqs[k] = s.tb.seqs[k]) ∧ t.tb.tb = s.tb.tb := by
  have hwritten := seqWritten hacc fun u hu => write_seqctl_wait (bitAt_31_set v) (by rw [cueAct_congr hu, hu, hq]; exact hact)
  refine ⟨regWrite w (0x7130 + i.1) 1 (.num (v ||| 0x80000000#32).toNat) s, rfl, ?_⟩
  rw [hwritten]
  exact ⟨(s.updSeq_seq i _).trans hq, fun k hk => s.updSeq_seq_ne i _ hk, rfl⟩

/-- RUN written 0 stops its sequencer where it stands (R382). -/
theorem seqStops {w : By} {i : Fin 16} {v : Word} {s : State}
    (hacc : Accepted w (0x7130 + i.1) 1 (.tb (.seqctl i)) (.num (v &&& 0x7FFFFFFF#32).toNat) s) :
    ∃ t, exec (.seqStop w i v) s = .next t ∧ t.tb.seqs[i].state ≠ .running ∧ t.tb.seqs[i].cursor = s.tb.seqs[i].cursor
      ∧ (s.tb.seqs[i].state = .running → t.tb.seqs[i].state = .idle) ∧ t.tb.tb = s.tb.tb := by
  have hwritten := seqWritten hacc fun u _ => write_seqctl_stop (bitAt_31_cleared v) i u
  obtain ⟨hstate, hcursor, hends⟩ := (s.tb.seqs[i].configured (Val.num (v &&& 0x7FFFFFFF#32).toNat).word).stopped_keeps
  refine ⟨regWrite w (0x7130 + i.1) 1 (.num (v &&& 0x7FFFFFFF#32).toNat) s, rfl, ?_⟩
  rw [hwritten, State.updSeq_seq]
  exact ⟨hstate, hcursor, hends, rfl⟩

/-! ### The obligation -/

/-- Settles O37: reaching by the distances in one direction, SEQCTL by what it makes of its sequencer, and the late cue by the step of the walk that
fires it and ends the run (R379, R381, R382). -/
theorem cuesAndSequencers : Obligations.CuesAndSequencers := by
  refine ⟨fun rev c d t h => ⟨(ne_of_reaches h).1, ne_half_of_reaches h, (ne_of_reaches h).2, not_reaches_back h, fun hrev => ?_, fun hrev => ?_⟩,
    fun w i v s => ⟨fun q hq hwait hacc => seqRuns ?_ hwait hacc, seqStops,
      fun owed q hq hcarry hreset hrun hlate hempty hlast hloops hpass => ?_⟩⟩
  · subst hrev
    exact beyond_of_reaches h
  · subst hrev
    exact beyond_of_reaches h
  · rw [hq, word_num]
    rfl
  · subst hq
    have hwalk : exec (.lateCueFire i) s = .next (walkSeq i owed none 4 true s) := by
      simp only [exec, execLateCueFire, hcarry, hreset, Bool.false_eq_true, if_false]
    obtain ⟨hseq, htb, hgave⟩ := walkSeq_of_last_late hrun hlate hempty hlast hloops hpass 2
    refine ⟨_, hwalk, ?_⟩
    rw [hseq]
    exact ⟨rfl, rfl, rfl, rfl, hgave, htb⟩

end Sys2Proof.Machine
end

section
/-! Trigger outputs, the history and the PTP second (R386, R387, R397, R400, R418, R639): what the start and the end of a pulse make of their output
and its pin, and what an edge of PPS_IN makes of the servo and of the ring. -/

namespace Sys2Proof.Machine

open Sys2Proof

/-! ### Trigger outputs -/

theorem State.updTrig_trig (s : State) (n : Fin 32) (f : Trig → Trig) : (s.updTrig n f).tb.trigs[n] = f s.tb.trigs[n] := modAt_get _ _ _

theorem State.updTrig_trig_ne (s : State) (n : Fin 32) (f : Trig → Trig) {k : Fin 32} (h : k ≠ n) :
    (s.updTrig n f).tb.trigs[k] = s.tb.trigs[k] := modAt_get_ne _ _ _ _ h

@[simp] theorem driveTrig_tb (n : Fin 32) (lvds : Bool) (d : Drive) (s : State) : (driveTrig n lvds d s).tb = s.tb := rfl

theorem driveTrig_pin (n : Fin 32) (lvds : Bool) (d : Drive) (s : State) : (driveTrig n lvds d s).pins.trig[n] = d :=
  modAt_get s.pins.trig n fun _ => d

theorem driveTrig_pin_ne (n : Fin 32) (lvds : Bool) (d : Drive) (s : State) {k : Fin 32} (h : k ≠ n) :
    (driveTrig n lvds d s).pins.trig[k] = s.pins.trig[k] :=
  modAt_get_ne s.pins.trig n k (fun _ => d) h

/-- A pulse that starts: it leaves the delay line, and ends when its width has passed (R386, R387). -/
def Trig.pulsing (rest : List Nat) (till : Nat) (k : Trig) : Trig := { k with line := rest, endAt := some till, pulses := satInc k.pulses }

theorem pulseStart_of_free {n : Fin 32} {s : State} {d : Nat} {rest : List Nat} (hline : s.tb.trigs[n].line = d :: rest)
    (hfree : s.tb.trigs[n].endAt = none) :
    pulseStart n s = publish (0x02C0 + n.1) ((driveTrig n (bitAt s.tb.trigs[n].cfgNow 30) (trigLevel s.tb.trigs[n].cfgNow true)
      (s.updTrig n (Trig.pulsing rest (d + pulseWidth s.tb.trigs[n].cfgNow)))).send (.trigPulse n)) := by
  simp only [pulseStart, hline, hfree]
  rfl

theorem pulseStart_of_pulsing {n : Fin 32} {s : State} {d : Nat} {rest : List Nat} (hline : s.tb.trigs[n].line = d :: rest)
    (hbusy : s.tb.trigs[n].endAt.isSome = true) :
    pulseStart n s = s.updTrig n fun k =>
      { k with line := rest, endAt := some (d + pulseWidth s.tb.trigs[n].cfgNow), merged := satInc k.merged } := by
  simp only [pulseStart, hline, hbusy, if_true]

/-- An output whose pulse has ended. -/
def Trig.ended (k : Trig) : Trig := { k with endAt := none }

/-- An output that takes its configuration (R386). -/
def Trig.settled (k : Trig) : Trig := { k with cfgNow := k.cfg }

theorem restTrig_of_unconfigured {n : Fin 32} {s : State} (h : s.tb.trigs[n].configured = false) : restTrig n s = s := by
  simp only [restTrig, h, Bool.not_false, Bool.true_or, if_true]

theorem restTrig_of_configured {n : Fin 32} {s : State} (h : s.tb.trigs[n].configured = true) (hfree : s.tb.trigs[n].endAt = none) :
    restTrig n s = driveTrig n (bitAt s.tb.trigs[n].cfg 30) (trigLevel s.tb.trigs[n].cfg false) (s.updTrig n Trig.settled) := by
  simp only [restTrig, h, hfree]
  rfl

/-- The state as a pulse's end leaves it, before the output takes a new configuration (R386). -/
def State.pulseEnded (s : State) (n : Fin 32) : State :=
  driveTrig n (bitAt s.tb.trigs[n].cfgNow 30) (trigLevel s.tb.trigs[n].cfgNow false) (s.updTrig n Trig.ended)

theorem State.pulseEnded_trig (s : State) (n : Fin 32) : (s.pulseEnded n).tb.trigs[n] = s.tb.trigs[n].ended := s.updTrig_trig n Trig.ended

theorem pulseEnd_of_pulsing {n : Fin 32} {s : State} (hbusy : s.tb.trigs[n].endAt.isSome = true) : pulseEnd n s = restTrig n (s.pulseEnded n) :=
  if_neg (by simp [-Fin.getElem_fin, Option.isSome_iff_ne_none.mp hbusy])

theorem pulseEnd_of_free {n : Fin 32} {s : State} (hfree : s.tb.trigs[n].endAt = none) : pulseEnd n s = s := if_pos (by rw [hfree]; rfl)

theorem pulseStart_keeps {n : Fin 32} {s : State} {d : Nat} {rest : List Nat} (hline : s.tb.trigs[n].line = d :: rest)
    (hfree : s.tb.trigs[n].endAt = none) :
    (pulseStart n s).tb.trigs[n] = s.tb.trigs[n].pulsing rest (d + pulseWidth s.tb.trigs[n].cfgNow)
      ∧ (pulseStart n s).pins.trig[n] = trigLevel s.tb.trigs[n].cfgNow true ∧ (pulseStart n s).tx = s.tx ++ [.trigPulse n]
      ∧ ∀ k, k ≠ n → (pulseStart n s).tb.trigs[k] = s.tb.trigs[k] ∧ (pulseStart n s).pins.trig[k] = s.pins.trig[k] := by
  rw [pulseStart_of_free hline hfree, publish_frame]
  exact ⟨s.updTrig_trig n _, driveTrig_pin n _ _ _, rfl, fun k hk => ⟨s.updTrig_trig_ne n _ hk, driveTrig_pin_ne n _ _ _ hk⟩⟩

/-- What a pulse's end leaves: no pulse in progress, the pending ones, and the pin of an output that follows its configuration at rest. -/
theorem pulseEnd_keeps {n : Fin 32} {s : State} (hbusy : s.tb.trigs[n].endAt.isSome = true) :
    (pulseEnd n s).tb.trigs[n].endAt = none ∧ (pulseEnd n s).tb.trigs[n].line = s.tb.trigs[n].line
      ∧ (s.tb.trigs[n].configured = true → (pulseEnd n s).pins.trig[n] = trigLevel s.tb.trigs[n].cfg false
        ∧ (pulseEnd n s).tb.trigs[n].cfgNow = s.tb.trigs[n].cfg)
      ∧ ∀ k, k ≠ n → (pulseEnd n s).pins.trig[k] = s.pins.trig[k] := by
  have hended := s.pulseEnded_trig n
  have hothers : ∀ k, k ≠ n → (s.pulseEnded n).pins.trig[k] = s.pins.trig[k] := fun k hk => driveTrig_pin_ne n _ _ _ hk
  rw [pulseEnd_of_pulsing hbusy]
  cases hconf : s.tb.trigs[n].configured with
  | false =>
    rw [restTrig_of_unconfigured (by rw [hended]; exact hconf), hended]
    exact ⟨rfl, rfl, fun h => absurd h Bool.false_ne_true, hothers⟩
  | true =>
    have htrig := ((s.pulseEnded n).updTrig_trig n Trig.settled).trans (congrArg Trig.settled hended)
    rw [restTrig_of_configured (by rw [hended]; exact hconf) (by rw [hended]; rfl), driveTrig_tb, htrig, driveTrig_pin, hended]
    exact ⟨rfl, rfl, fun _ => ⟨rfl, rfl⟩, fun k hk => (driveTrig_pin_ne n _ _ _ hk).trans (hothers k hk)⟩

/-! ### The history -/

/-- The sample that the history takes now (R639). -/
def State.sample (s : State) : Hist := { core := s.coreTime, tb := s.tb.tb, ptpS := s.ptp.sec, ptpNs := s.ptp.ns }

theorem exec_histSample {s : State} (h : inReset .cue s = false) :
    exec .histSample s = .next (s.updTb fun t => { t with hist := (s.sample :: t.hist).take 65536 }) :=
  congrArg Host.Outcome.next (if_neg (Bool.eq_false_iff.mp h))

/-! ### PPS_IN -/

@[simp] theorem State.ite_tb (c : Prop) [Decidable c] (s t : State) : (if c then s else t).tb = if c then s.tb else t.tb :=
  apply_ite State.tb c s t

/-- One measurement of the servo moves no pin and not the timebase unit (R374). -/
theorem servo_keeps (offset : Int) (s : State) : (servo offset s).tb = s.tb ∧ (servo offset s).pins = s.pins := by simp [servo, setPtp]

/-- An offset within 1 ms is measured as it is, and steps no second (R374, R600). -/
theorem servo_of_near {offset : Int} {s : State} (h : offset.natAbs ≤ 1000000) :
    (servo offset s).ptp.offset = BitVec.ofInt 32 offset ∧ (servo offset s).ptp.sec = s.ptp.sec := by
  have hfar : decide (1000000 < offset.natAbs) = false := decide_eq_false (by omega)
  have hclamp : clampI (-2 ^ 31) (2 ^ 31 - 1) offset = offset := by unfold clampI; omega
  unfold servo
  simp only [hfar, hclamp, Bool.false_and, Bool.false_eq_true, if_false]
  exact ⟨rfl, rfl⟩

theorem ppsEdge_of_early {s : State} (hclkm : s.pins.clkm = 2) (hns : s.ptp.ns < 500000000) (at64 : Nat) : ppsEdge at64 s = servo s.ptp.ns s := by
  have hearly : ¬ (500000000 : Int) ≤ s.ptp.ns := by omega
  simp only [ppsEdge, hclkm, hearly, if_true, if_false]

/-! ### The obligation -/

/-- Settles O38: a pulse by what its start and its end make of its output and pin (log entry 39), the history by its newest sample (R639), the PTP
second by its publish (R418), and PPS_IN by its meaning under each clock mode (R108, log entry 44). -/
theorem triggersHistoryAndSeconds : Obligations.TriggersHistoryAndSeconds := by
  refine ⟨fun n s => ⟨fun d rest hreset hline hfree => ⟨pulseStart n s, ?_, ?_⟩, fun d rest hreset hline hbusy => ?_,
    fun hbusy => ⟨_, rfl, pulseEnd_keeps hbusy⟩, fun hfree => congrArg Host.Outcome.next (pulseEnd_of_free hfree)⟩,
    fun s => ⟨fun hreset => ⟨_, s.sample, exec_histSample hreset, rfl, rfl, rfl, rfl, List.length_take_le .., rfl⟩, rfl,
      fun k hclkm hcal => ?_, fun k hclkm hns => ⟨_, rfl, ?_⟩, fun hclkm k => ?_⟩⟩
  · exact congrArg Host.Outcome.next (if_neg (Bool.eq_false_iff.mp hreset))
  · obtain ⟨htrig, hpin, htx, hothers⟩ := pulseStart_keeps hline hfree
    rw [htrig]
    exact ⟨rfl, rfl, rfl, hpin, htx, hothers⟩
  · exact congrArg Host.Outcome.next ((if_neg (Bool.eq_false_iff.mp hreset)).trans (pulseStart_of_pulsing hline hbusy))
  · have hstamp : ppsEdge k s = s.updRing fun r => { r with ppsAt := some k } := by simp [ppsEdge, hclkm, hcal]
    exact congrArg Host.Outcome.next hstamp
  · obtain ⟨htb, hpins⟩ := servo_keeps s.ptp.ns s
    rw [ppsEdge_of_early hclkm hns]
    refine ⟨htb, hpins, fun hnear => ?_⟩
    obtain ⟨hoffset, hsec⟩ := servo_of_near (offset := s.ptp.ns) (s := s) (by simpa using hnear)
    exact ⟨hoffset.trans (BitVec.ofInt_natCast ..), hsec⟩
  · have hignored : ppsEdge k s = s := by simp [ppsEdge, hclkm]
    exact congrArg Host.Outcome.next hignored

end Sys2Proof.Machine
end

section
/-! The event router's tasks (R406, R408, R409, R411, R413, R419): how a task's activation is taken, and that each task's row takes its own. -/

namespace Sys2Proof.Machine

open Sys2Proof Sys2Proof.Safety

/-! ### Tasks that prevail -/

theorem not_mem_beatenBy_of_mem {t other : Task} (h : t ∈ beatenBy other) : other ∉ beatenBy t := by
  cases other <;> simp only [beatenBy, List.mem_cons, List.not_mem_nil, or_false] at h
  case axisStart => rcases h with rfl | rfl <;> simp [beatenBy]
  all_goals subst h; simp [beatenBy]

theorem ne_of_mem_beatenBy {t other : Task} (h : t ∈ beatenBy other) : other ≠ t := by
  rintro rfl
  exact not_mem_beatenBy_of_mem h h

/-! ### A task's registers -/

/-- A task's registers are the router's own affair. -/
theorem updTask_frame (t : Task) (f : TaskReg → TaskReg) (s : State) :
    updTask t f s = { s with router := { s.router with tasks := (updTask t f s).router.tasks } } := by
  fun_cases updTask t f s <;> simp [State.updRouter, *]

theorem dropTask_axes (t : Task) (s : State) : (dropTask t s).axes = s.axes := by rw [dropTask, updTask_frame]

/-! ### Activations -/

/-- The device with these activations of tasks waiting. -/
def State.withActivated (s : State) (l : List (Task × Nat)) : State := { s with router := { s.router with activated := l } }

@[simp] theorem State.withActivated_activated (s : State) (l : List (Task × Nat)) : (s.withActivated l).router.activated = l := rfl

theorem activationOf_of_head {t : Task} {k : Nat} {l : List (Task × Nat)} {s : State} (h : s.router.activated = (t, k) :: l) :
    activationOf s t = some k := by simp [activationOf, h]

theorem clearActivation_of_head {t : Task} {k : Nat} {l : List (Task × Nat)} {s : State} (h : s.router.activated = (t, k) :: l) :
    clearActivation t k s = s.withActivated l := by simp [clearActivation, State.updRouter, State.withActivated, h]

theorem performTask_of_idle {t : Task} {act : State → Option State} {s : State} (h : s.router.activated = []) : performTask t act s = s := by
  simp [performTask, activationOf, h]

/-- A task whose activation meets one that prevails is refused (R409). -/
theorem performTask_of_beaten {t other : Task} {k : Nat} {act : State → Option State} {s : State} (hbeaten : other ∈ beatenBy t)
    (h : s.router.activated = [(t, k), (other, k)]) : performTask t act s = dropTask t (s.withActivated [(other, k)]) := by
  have hgives : (beatenBy t).any (fun b => (s.withActivated [(other, k)]).router.activated.contains (b, k)) = true :=
    List.any_eq_true.mpr ⟨other, hbeaten, by simp⟩
  simp only [performTask, activationOf_of_head h, clearActivation_of_head h, hgives, if_true]

/-- Task t's turn comes in s and no task prevails: its action meets u, and a refusal is counted (R408, R409). -/
def Admits (t : Task) (s u : State) : Prop := ∀ act : State → Option State, performTask t act s = (act u).getD (dropTask t u)

theorem admits_of_alone {t : Task} {k : Nat} {s : State} (h : s.router.activated = [(t, k)]) : Admits t s (s.withActivated []) := by
  intro act
  simp only [performTask, activationOf_of_head h, clearActivation_of_head h]
  cases hact : act (s.withActivated []) <;> simp [hact]

/-- The task that prevails acts after the other's refusal (R409). -/
theorem admits_of_prevailing {t other : Task} {k : Nat} {s : State} (hbeats : t ∈ beatenBy other)
    (h : s.router.activated = [(other, k), (t, k)]) : Admits t s (dropTask other (s.withActivated [])) := by
  have hne : other ≠ t := ne_of_mem_beatenBy hbeats
  have hdue : activationOf s t = some k := by simp [activationOf, h, hne]
  have hcleared : clearActivation t k s = s.withActivated [(other, k)] := by
    simp [clearActivation, State.updRouter, State.withActivated, h, hne]
  have hprevails : (beatenBy t).any (fun b => (s.withActivated [(other, k)]).router.activated.contains (b, k)) = false := by
    have hfree : other ∉ beatenBy t := not_mem_beatenBy_of_mem hbeats
    simpa using fun b hb (hother : b = other) => hfree (hother ▸ hb)
  have hlosers : (s.withActivated [(other, k)]).router.activated.filter (fun e => e.2 == k && (beatenBy e.1).contains t) = [(other, k)] := by
    simp [hbeats]
  have hloser : clearActivation other k (s.withActivated [(other, k)]) = s.withActivated [] := clearActivation_of_head rfl
  intro act
  simp only [performTask, hdue, hcleared, hprevails, hlosers, List.foldl_cons, List.foldl_nil, hloser, Bool.false_eq_true, if_false]
  cases act (dropTask other (s.withActivated [])) <;> rfl

/-! ### The rows of the tasks -/

/-- The increment task's row with no clear task of its unit waiting (R413). -/
theorem counterIncrement_of_unclear {k : Fin 32} {s : State} (h : ∀ t, (Task.cntClear k, t) ∉ s.router.activated) :
    counterIncrement k s
      = performTask (.cntInc k) (fun s => if bitAt s.router.units[k].cfg 31 then some (addCount k 1 s.coreTime s) else none) s := by
  cases hdue : activationOf s (.cntInc k) with
  | none => simp only [counterIncrement, hdue, Bool.false_eq_true, if_false]
  | some t =>
    have hclear : s.router.activated.contains (.cntClear k, t) = false := by simpa using h t
    simp only [counterIncrement, hdue, hclear, Bool.false_eq_true, if_false]

/-- A start that meets no active limit trips none (R544, R554). -/
theorem execAxisStartTask_of_untripped {a : Fin 8} {s : State} (h : s.router.activated = [] ∨ moveRefused s.axes[a] ≠ .state) :
    execAxisStartTask a s = .next (performTask (.axisStart a)
      (fun s => if inReset (.axis a) s ∨ moveRefused s.axes[a] ≠ .ok then none else some (axisStart a s)) s) := by
  have hquiet : ((activationOf s (.axisStart a)).isSome && ! inReset (.axis a) s && moveRefused s.axes[a] == .state) = false := by
    rcases h with h | h <;> simp [-Fin.getElem_fin, activationOf, h]
  simp only [execAxisStartTask, hquiet]
  simp [-Fin.getElem_fin, axisTask]

/-- The row of a task performs it, where the row is neither that of STOP, which settles the pool as well, nor a start at an active limit, nor an
increment with a clear waiting. -/
theorem exec_taskRow {c : Instr} {t : Task} {act : State → Option State} {s : State} (hrow : taskRow c = some (t, act))
    (hclear : ∀ k d, t = .cntInc k → (Task.cntClear k, d) ∉ s.router.activated) (hstop : ∀ i, c ≠ .takeStopTask i)
    (hstart : ∀ a, c = .axisStartTask a → s.router.activated = [] ∨ moveRefused s.axes[a] ≠ .state) :
    exec c s = .next (performTask t act s) := by
  revert hrow
  fun_cases taskRow c <;> intro hrow <;> cases hrow
  case case1 k => exact congrArg Host.Outcome.next (counterIncrement_of_unclear fun d => hclear k d rfl)
  case case12 i => exact absurd rfl (hstop i)
  case case13 a => exact execAxisStartTask_of_untripped (hstart a rfl)
  case case14 a => simp [exec, execAxisStopTask, axisTask]
  case case15 a => simp [exec, execAxisIstopTask, axisTask]
  case case16 c => simp [exec, execDmaWake]
  all_goals rfl

/-- The row of a task whose turn has come does what the task's action does. -/
theorem exec_taskRow_of_acting {c : Instr} {t : Task} {act : State → Option State} {s u v : State} (hrow : taskRow c = some (t, act))
    (hclear : ∀ k d, t = .cntInc k → (Task.cntClear k, d) ∉ s.router.activated) (hturn : Admits t s u) (haxes : u.axes = s.axes)
    (hact : act u = some v) : exec c s = .next v := by
  by_cases hstop : ∃ i, c = .takeStopTask i
  · obtain ⟨i, rfl⟩ := hstop
    cases hrow
    have hrun : exec (.takeStopTask i) s = .next (settlePause (performTask (.takeStop i)
      (fun s => if inReset (srcBlk i) s then none else some (stopTake i s)) s)) := rfl
    rw [hrun, hturn]
    obtain ⟨hfree, hsettled⟩ := Option.ite_none_left_eq_some.mp hact
    rw [if_neg hfree, ← Option.some.inj hsettled, Option.getD_some]
  · have hstart : ∀ a, c = .axisStartTask a → s.router.activated = [] ∨ moveRefused s.axes[a] ≠ .state := by
      rintro a rfl
      cases hrow
      obtain ⟨hmoves, -⟩ := Option.ite_none_left_eq_some.mp hact
      rw [haxes] at hmoves
      exact .inr fun hstate => hmoves (.inr (hstate ▸ Status.noConfusion))
    rw [exec_taskRow hrow hclear (fun i hi => hstop ⟨i, hi⟩) hstart, hturn, hact, Option.getD_some]

/-! ### The obligation -/

/-- Settles O43: a row performs its task (R419), and the task's turn is decided by the activations alone (R408, R409). -/
theorem tasksActOnTheirActivation : Obligations.TasksActOnTheirActivation := by
  intro c t act k s u hrow
  refine ⟨fun halone hu => ?_, fun hidle hstop => ?_, fun other hbeaten hboth hstart => ?_, fun other v hbeats hboth hact => ?_⟩
  · subst hu
    have hturn : Admits t s (s.withActivated []) := admits_of_alone halone
    have hclear : ∀ k d, t = .cntInc k → (Task.cntClear k, d) ∉ s.router.activated := by rintro k d rfl; simp [halone]
    refine ⟨fun v hact => exec_taskRow_of_acting hrow hclear hturn rfl hact, fun hrefuses hstop hstart => ?_⟩
    rw [exec_taskRow hrow hclear hstop fun a ha => absurd ha (hstart a), hturn act]
    exact congrArg (fun o : Option State => Host.Outcome.next (o.getD _)) hrefuses
  · rw [exec_taskRow hrow (by simp [hidle]) hstop fun _ _ => .inl hidle, performTask_of_idle hidle]
  · have hclear : ∀ k d, t = .cntInc k → (Task.cntClear k, d) ∉ s.router.activated := by rintro k d rfl; cases hbeaten
    have hstop : ∀ i, c ≠ .takeStopTask i := by rintro i rfl; cases hrow; cases hbeaten
    rw [exec_taskRow hrow hclear hstop fun a ha => absurd ha (hstart a), performTask_of_beaten hbeaten hboth]
    rfl
  · have hclear : ∀ k d, t = .cntInc k → (Task.cntClear k, d) ∉ s.router.activated := by
      rintro k d rfl
      cases other <;> simp [beatenBy] at hbeats
    exact exec_taskRow_of_acting hrow hclear (admits_of_prevailing hbeats hboth) (dropTask_axes other _) hact

end Sys2Proof.Machine
end

section
/-! The event router's channels (R404 to R407, R638): the herd, the holdoff and the subscribers that a channel's publishes meet. -/

namespace Sys2Proof.Machine

open Sys2Proof Sys2Proof.Safety

/-! ### A channel's publishes taken -/

/-- A channel once the n publishes of core clock t, its oldest, are taken (R404). -/
def Chan.taken (t n : Nat) (rest : List (Nat × Nat)) (k : Chan) : Chan :=
  { k with pend := rest, published := satAdd k.published n, fired := true, lastTime := BitVec.ofNat 64 t }

/-- A channel once an event of core clock t is delivered (R404). -/
def Chan.deliver (t : Nat) (k : Chan) : Chan := { k with delivered := satInc k.delivered, lastDelivered := some t }

/-- A channel once an event of it is dropped within its holdoff (R404, R405). -/
def Chan.holdOff (k : Chan) : Chan := { k with recursion := true, holdDrops := satInc k.holdDrops }

theorem State.updChan_updChan (s : State) (c : Fin 128) (f g : Chan → Chan) : (s.updChan c f).updChan c g = s.updChan c fun _ => g (f s.router.chans[c]) := by
  simp [State.updChan, modAt, Vector.set_set]

theorem State.each_of_unchanged {α : Type} {l : List α} {f : α → State → State} {s : State} (h : ∀ a, f a s = s) : s.each l f = s :=
  State.each_ind (· = s) l f (fun a _ _ ht => ht ▸ h a) s rfl

/-- The channel's holdoff still runs in core clock t (R404). -/
def Chan.heldOff (t : Nat) (k : Chan) : Bool :=
  match k.lastDelivered with
  | some last => decide (t < last + fld k.cfg 15 0)
  | none => false

/-- The tasks that take a delivered event of channel c: its subscribers but for the increment tasks of RAW units (R404, R407, R414). -/
def activations (s : State) (c : Fin 128) : List Task := (subscribers s c).filter fun x => ! isRaw s x

/-- The COINC of some tasks counted (R404). -/
def countCoinc (ts : List Task) (s : State) : State := ts.foldl (fun s a => updTask a (fun x => { x with coinc := satInc x.coinc }) s) s

/-- The coincidences counted are the task registers' own affair. -/
theorem countCoinc_frame (ts : List Task) (s : State) :
    countCoinc ts s = { s with router := { s.router with tasks := (countCoinc ts s).router.tasks } } := by
  induction ts generalizing s with
  | nil => rfl
  | cons a ts ih =>
    have hstep : countCoinc (a :: ts) s = countCoinc ts (updTask a (fun x => { x with coinc := satInc x.coinc }) s) := rfl
    rw [hstep, ih, updTask_frame]

section
variable {c : Fin 128} {t n : Nat} {rest : List (Nat × Nat)} {s : State}

theorem exec_routerPublish (hreset : inReset .router s = false) : exec (.routerPublish c) s = .next (routerPublish c s) :=
  congrArg Host.Outcome.next (if_neg (Bool.eq_false_iff.mp hreset))

theorem routerPublish_of_quiet (h : s.router.chans[c].pend = []) : routerPublish c s = s := by
  simp only [routerPublish, h]

/-- A herd disabled masks its channels' events (R406). -/
theorem routerPublish_of_masked (h : s.router.chans[c].pend = (t, n) :: rest) (hherd : herdOn s c = false) :
    routerPublish c s = s.updChan c fun k => { k.taken t n rest with masked := true } := by
  have hherd' (f : Chan → Chan) : herdOn (s.updChan c f) c = false := hherd
  simp only [routerPublish, h, hherd', Bool.not_false, if_true, State.updChan_updChan]
  rfl

/-- The publishes of an unmasked channel that no RAW unit counts: its event is dropped within the holdoff, or delivered to the subscribers (R404). -/
theorem routerPublish_of_unmasked (h : s.router.chans[c].pend = (t, n) :: rest) (hherd : herdOn s c = true) (hraw : ∀ m, rawUnit s c m = false) :
    routerPublish c s = if s.router.chans[c].heldOff t then s.updChan c fun k => (k.taken t n rest).holdOff
      else let u := (s.updChan c fun k => (k.taken t n rest).deliver t).updRouter fun r =>
          { r with activated := r.activated ++ (activations s c).map fun x => (x, t) }
        if 2 ≤ n then countCoinc (activations s c) u else u := by
  have hherd' (f : Chan → Chan) : herdOn (s.updChan c f) c = true := hherd
  have hraw' (f : Chan → Chan) (m : Fin 32) : rawUnit (s.updChan c f) c m = false := hraw m
  simp only [routerPublish, h, hherd', hraw', State.each_of_unchanged, implies_true, State.updChan_updChan, Bool.not_true, Bool.false_eq_true, if_false]
  rfl

end

/-! ### The obligation -/

/-- Settles O44: the publishes taken meet the herd, the holdoff and the subscribers in that order (R404 to R407, R638; log entry 138). -/
theorem publishesActivateSubscribers : Obligations.PublishesActivateSubscribers := by
  intro c k u t n rest s hreset hk hu
  subst hk hu
  simp only [exec_routerPublish hreset]
  refine ⟨fun hquiet => ?_, fun hpend hherd => ?_, fun last hpend hherd hraw hlast hsoon => ?_, fun hpend hherd hraw hfree => ?_⟩
  · rw [routerPublish_of_quiet hquiet]
  · rw [routerPublish_of_masked hpend hherd]
    rfl
  · have hheld : s.router.chans[c].heldOff t = true := by simpa [-Fin.getElem_fin, Chan.heldOff, hlast] using hsoon
    rw [routerPublish_of_unmasked hpend hherd hraw, if_pos hheld]
    rfl
  · have hheld : s.router.chans[c].heldOff t = false := by
      unfold Chan.heldOff
      split
      next last hlast => exact decide_eq_false (Nat.not_lt.mpr (hfree last hlast))
      next => rfl
    rw [routerPublish_of_unmasked hpend hherd hraw, if_neg (Bool.eq_false_iff.mp hheld)]
    by_cases hmany : 2 ≤ n
    · simp only [if_pos hmany]
      refine ⟨_, rfl, ?_⟩
      rw [countCoinc_frame]
      exact ⟨rfl, rfl, fun hone => absurd hone (Nat.ne_of_gt hmany), rfl, rfl⟩
    · simp only [if_neg hmany]
      exact ⟨_, rfl, rfl, rfl, fun _ => rfl, rfl, rfl⟩

end Sys2Proof.Machine
end

section
/-! Publishers of a channel (R401, R403, R416): a disabled channel takes no publish, and SW_PUBLISH publishes or refuses. -/

namespace Sys2Proof.Machine

open Sys2Proof Sys2Proof.Safety

/-! ### A disabled channel -/

theorem Chan.raise_of_disabled {k : Chan} (t : Nat) (h : bitAt k.cfg 31 = false) : k.raise t = k := if_neg (Bool.eq_false_iff.mp h)

/-- A channel after a source code is raised: one that selects it takes the publish (R401, R403). -/
theorem publish_chan (code : Nat) (c : Fin 128) (s : State) :
    (publish code s).router.chans[c] = s.router.chans[c] ∨ (publish code s).router.chans[c] = s.router.chans[c].raise s.coreTime := by
  rcases publishAt_cases s.coreTime code s with ⟨h, -⟩ | ⟨-, h⟩
  · exact .inl (by rw [publish, h])
  · have hchan : (publish code s).router.chans[c]
        = if fld s.router.chans[c].cfg 28 16 = code then s.router.chans[c].raise s.coreTime else s.router.chans[c] := by
      rw [publish, h]
      exact Vector.getElem_ofFn ..
    rw [hchan]
    split
    · exact .inr rfl
    · exact .inl rfl

theorem publishOn_router_of_disabled {c : Fin 128} {s : State} (h : bitAt s.router.chans[c].cfg 31 = false) : (publishOn c s).router = s.router := by
  rcases publishOn_cases c s with ⟨hsame, -⟩ | ⟨-, hraise⟩
  · rw [hsame]
  · have hchans : modAt s.router.chans c (Chan.raise s.coreTime) = s.router.chans := by
      rw [modAt, Chan.raise_of_disabled _ h]
      exact Vector.set_getElem_self ..
    rw [hraise, State.updChan_router, hchans]

/-! ### SW_PUBLISH -/

/-- An accepted write of SW_PUBLISH publishes on the channel, journals nothing and is answered OK (R416, R420). -/
theorem exec_swPublish_of_accepted {w : By} {v : Word} {s : State} (h : Accepted w 0x7416 9 (.router .swPublish) (.num v.toNat) s) :
    exec (.swPublish w v) s = .next ((publishOn (Fin.ofNat 128 v.toNat) s).answer .ok) :=
  congrArg Host.Outcome.next (regWrite_of_accepted h (by intro h; cases h) (by intro h; cases h.1))

/-- Settles O45: an enabled channel alone takes a publish (R403), whoever the publisher. -/
theorem disabledChannelsIgnorePublishers : Obligations.DisabledChannelsIgnorePublishers := by
  refine fun c s hoff => ⟨fun code => ?_, fun w v hv haccepted => ⟨_, exec_swPublish_of_accepted haccepted, ?_⟩⟩
  · rcases publish_chan code c s with h | h
    · exact h
    · exact h.trans (Chan.raise_of_disabled _ hoff)
  · have hchan : Fin.ofNat 128 v.toNat = c := by rw [hv]; exact Fin.ofNat_val_eq_self c
    rw [hchan]
    exact publishOn_router_of_disabled hoff

/-- A number above 255 is no U8: firmware's write of it to SW_PUBLISH is refused with TYPE, before the range of R416 is asked (R637). -/
theorem exec_swPublish_of_wide {w : By} {v : Word} {s : State} (hpath : w.path = .firmware) (hruns : firmwareRuns s = true)
    (hreset : inReset .router s = false) (hpriv : privRefused w (.router .swPublish) (.num v.toNat) s = false) (hwide : 256 ≤ v.toNat) :
    ∃ t, exec (.swPublish w v) s = .next t ∧ t.reply.status = .type := by
  have hfits : Obj.fits (.router .swPublish) (.num v.toNat) = false := decide_eq_false (Nat.not_lt.mpr hwide)
  have hheld : Obj.held (.router .swPublish) s = false := hreset
  have hstatus : ownStatus w (.router .swPublish) true (.num v.toNat) s = .type := by
    have hbars : pathBars w (.router .swPublish) (.num v.toNat) s = false := by simp only [pathBars, hpath]
    have hwo : (Obj.router .swPublish).desc.acc = .wo := rfl
    simp [ownStatus, hheld, hbars, hfits, hwo]
  have hwrite : (dictWrite w false 0x7416 9 true (.num v.toNat) s).1 = .type := by
    have hobj : objAt 0x7416 9 = some (.router .swPublish) := rfl
    have hjournal : journaled (.router .swPublish) (.num v.toNat) s = false := rfl
    simp [dictWrite, hobj, hpriv, hjournal, ownWrite, hstatus]
  refine ⟨_, rfl, ?_⟩
  simp only [regWrite, hpath, hruns, if_true]
  exact hwrite

/-- Firmware in operation: no reset holds, every clock is good, and it runs. -/
def operating : State :=
  { State.reset with
    rst := { State.reset.rst with level := none, held := [] }
    clk := { State.reset.clk with good := Vector.replicate 23 true }
    boot := { State.reset.boot with phase := 3 } }

/-- Refutes O46: 256 is above 127, and the write of it by firmware in operation is refused with TYPE, not RANGE, since SW_PUBLISH is a U8 (R637). -/
theorem not_softwarePublishes : ¬ Obligations.SoftwarePublishes := by
  intro h
  obtain ⟨-, hrange⟩ := h ⟨.firmware, 3⟩ 256#32 operating
  have hruns : firmwareRuns operating = true := rfl
  have hreset : inReset .router operating = false := rfl
  have hpriv : privRefused ⟨.firmware, 3⟩ (.router .swPublish) (.num (256#32).toNat) operating = false := rfl
  obtain ⟨t, hexec, hstatus, -⟩ := hrange (by decide) rfl hruns hreset hpriv
  obtain ⟨u, hwrite, htype⟩ := exec_swPublish_of_wide (w := ⟨.firmware, 3⟩) rfl hruns hreset hpriv (by decide)
  cases hexec.symm.trans hwrite
  exact Status.noConfusion (hstatus.symm.trans htype)

end Sys2Proof.Machine
end

section
/-! Register rows (R566, R571, R572, R594): each row is one register write, which is carried out when it is accepted, and waits or is discarded while
firmware cannot take it. -/

namespace Sys2Proof.Machine

open Sys2Proof Sys2Proof.Safety

/-! ### A row is its register write -/

theorem setFld_op_read (v : Word) : setFld v 30 29 0 = v &&& 0x9FFFFFFF#32 := BitVec.or_zero

theorem setFld_op_write (v : Word) : setFld v 30 29 1 = (v &&& 0x9FFFFFFF#32) ||| 0x20000000#32 := rfl

theorem setFld_op_pending (v : Word) : setFld v 30 29 2 = (v &&& 0x9FFFFFFF#32) ||| 0x40000000#32 := rfl

/-- Each register row writes the register that the table names for it. -/
theorem exec_registerRow {c : Instr} {who : By} {index sub : Nat} {v : Val} (s : State) (h : registerRow c = some (who, index, sub, v)) :
    exec c s = .next (regWrite who index sub v s) := by
  cases c with
  | cmdRead w i v => cases h; rw [← setFld_op_read]; rfl
  | cmdWrite w i v => cases h; rw [← setFld_op_write]; rfl
  | cmdPendingWrite w i v => cases h; rw [← setFld_op_pending]; rfl
  | _ => cases h <;> rfl

/-! ### Accepted writes -/

section
variable {who : By} {index sub : Nat} {o : Obj} {v : Val} {s : State}

/-- A write that is served at once is carried out and answered with its status (R571, R572). -/
theorem regWrite_of_served (h : servedNow who index sub s = true) :
    regWrite who index sub v s = (dictWrite who false index sub true v s).2.answer (dictWrite who false index sub true v s).1 := by
  unfold servedNow at h
  unfold regWrite
  cases hpath : who.path with
  | jtag => simp [hpath] at h
  | firmware | ldp | mailbox =>
    simp only [hpath] at h
    simp only [h, if_true]
  | view l f =>
    simp only [hpath, Bool.and_eq_true, Bool.or_eq_true, Bool.not_eq_true', decide_eq_true_eq] at h
    obtain ⟨⟨⟨⟨hserves, hofs⟩, hphase⟩, hheld⟩, hfree⟩ := h
    obtain ⟨ofs, hofs⟩ := Option.isSome_iff_exists.mp hofs
    simp [hserves, hofs, hphase, hheld, hfree, viewWrite]

/-- A write that meets its privilege and the journal's rate goes on to its object's own checks (R565, R595). -/
theorem dictWrite_of_admitted (hobj : objAt index sub = some o) (hpriv : privRefused who o v s = false)
    (htokens : journaled o v s = true → 12500 ≤ jnlTokens s) : dictWrite who false index sub true v s = ownWrite who false index sub o true v (spent o v s) := by
  by_cases hj : journaled o v s = true
  · have htoken : (jnlToken s).1 = true := by simp [jnlToken, htokens hj]
    have hspent : spent o v s = (jnlToken s).2 := if_pos hj
    rw [hspent]
    simp [dictWrite, hobj, hpriv, hj, htoken]
  · have hspent : spent o v s = s := if_neg hj
    rw [hspent]
    simp [dictWrite, hobj, hpriv, hj]

/-- A persistent object's write is recorded in MRAM beside its effect (R569). -/
theorem ownWrite_of_persistent (hown : ownStatus who o true v s = .ok) (hrwp : o.desc.acc = .rwp) (hrate : (rwpToken s).1 = true) :
    ownWrite who false index sub o true v s
      = (.ok, noted who index sub o v (journaled o v s) (rwpRecord (objTarget index sub) v (o.apply v (rwpToken s).2))) := by
  simp [ownWrite, hown, hrwp, hrate, fits_of_ownStatus hown, noted]

/-- A SOFT reset that asserts at once is journaled before its effect (R103). -/
theorem ownWrite_of_softrst (hown : ownStatus who o true v s = .ok) (ho : o = .sys .softrst) (hnow : softWaits v.word = false) :
    ownWrite who false index sub o true v s = (.ok, o.apply v (noted who index sub o v (journaled o v s) s)) := by
  have hfits := fits_of_ownStatus hown
  subst ho
  have hrwp : (Obj.sys .softrst).desc.acc ≠ .rwp := by decide
  simp [ownWrite, hown, hrwp, hnow, hfits, noted]

end

/-- Settles O15: a row is its register write, which is served at once and passes every check. -/
theorem registerRowsWriteTheirObject : Obligations.RegisterRowsWriteTheirObject := by
  intro c who index sub v o s hrow haccepted
  have hexec := exec_registerRow s hrow
  obtain ⟨hobj, hserved, hpriv, htokens, hown, hrate⟩ := id haccepted
  have hwrite := dictWrite_of_admitted hobj hpriv htokens
  refine ⟨fun hrwp hsoft => ?_, fun hrwp => ?_, fun ho hnow => ?_⟩
  · rw [hexec, regWrite_of_accepted haccepted hrwp hsoft]
  · rw [hexec, regWrite_of_served hserved, hwrite, ownWrite_of_persistent hown hrwp (hrate hrwp), journaled_spent]
  · rw [hexec, regWrite_of_served hserved, hwrite, ownWrite_of_softrst hown ho hnow, journaled_spent]

/-! ### Writes that firmware cannot take at once -/

section
variable {who : By} {index sub : Nat} {v : Val} {s : State}

theorem regWrite_of_remote (hpath : (∃ p n, who.path = .ldp p n) ∨ ∃ p n, who.path = .mailbox p n) (hfree : fwFree s = false) :
    regWrite who index sub v s = waitFw (.write who index sub true v) true s := by
  rcases hpath with ⟨p, n, hpath⟩ | ⟨p, n, hpath⟩ <;> simp [regWrite, hpath, hfree]

theorem regWrite_of_unserved {l : Fin 4} {g : Fin 17} (hpath : who.path = .view l g) (hserves : barServes s l g = false) :
    regWrite who index sub v s = s := by
  simp [regWrite, hpath, hserves]

/-- A view write that needs firmware waits while firmware runs, and is discarded while it does not (R572). -/
theorem regWrite_of_view {l : Fin 4} {g : Fin 17} {ofs : Nat} {o : Obj} (hpath : who.path = .view l g) (hserves : barServes s l g = true)
    (hphase : s.boot.phase = 3) (hofs : viewOffset s l g index sub = some ofs) (hobj : objAt index sub = some o) (hheld : o.held s = false)
    (hdirect : direct who index sub = false) (hfree : fwFree s = false) :
    regWrite who index sub v s = if firmwareRuns s then waitFw (.write who index sub true v) false s else s := by
  simp [regWrite, viewWrite, hpath, hserves, hphase, hofs, hobj, hheld, hdirect, hfree]

theorem waitFw_of_room {c : Request} {ldp : Bool} (h : s.svc.length < svcMax) : waitFw c ldp s = { s with svc := s.svc ++ [c] } := if_pos h

theorem waitFw_of_full {c : Request} (h : svcMax ≤ s.svc.length) : waitFw c true s = s.updAcc fun a => { a with drops := satInc a.drops } :=
  if_neg (Nat.not_lt.mpr h)

end

/-- Settles O16: the path of a row decides whether it waits, is counted lost, or is discarded (log entry 99). -/
theorem registerRowsWaitForFirmware : Obligations.RegisterRowsWaitForFirmware := by
  intro c who index sub v s hrow hfree hdirect
  rw [exec_registerRow s hrow]
  refine ⟨fun hpath hroom => ?_, fun hpath hfull => ?_, fun l g ofs o hpath hserves hphase hofs hobj hheld => ?_, fun l g hpath hserves => ?_⟩
  · rw [regWrite_of_remote hpath hfree, waitFw_of_room hroom]
  · rw [regWrite_of_remote (.inl hpath) hfree, waitFw_of_full hfull]
  · rw [regWrite_of_view hpath hserves hphase hofs hobj hheld hdirect hfree]
    refine ⟨fun hruns hroom => ?_, fun hstopped => ?_⟩
    · rw [if_pos hruns, waitFw_of_room hroom]
    · rw [if_neg (Bool.eq_false_iff.mp hstopped)]
  · rw [regWrite_of_unserved hpath hserves]

end Sys2Proof.Machine
end

section
/-! Refused writes of the dictionary (R562, R565, R595, R631, R632): the first check that fails gives the status, and nothing but the logs of the access
moves; and the one entry a journaled write leaves (R594, R596). -/

namespace Sys2Proof.Machine

open Sys2Proof Sys2Proof.Safety

/-! ### What a refusal and an entry leave unchanged -/

/-- A refusal is entered in the violation log with its interrupt, and changes nothing else (R631). -/
theorem refuse_frame (who : By) (index sub : Nat) (st : Status) (s : State) :
    refuse who index sub st s = { s with vio := (refuse who index sub st s).vio, host := (refuse who index sub st s).host
                                         tx := (refuse who index sub st s).tx } :=
  logVio_frame 0 (objTarget index sub) st who.path.initiator s

/-- An entry joins the journal with its interrupt, and nothing else changes; the records of persistent objects stay (R593, R596). -/
theorem enter_frame (who : By) (cond : Bool) (index sub : Nat) (d : Desc) (ok : Bool) (v : Val) (st : Status) (s : State) :
    enter who cond index sub d ok v st s = { s with
      mram := { s.mram with head := (enter who cond index sub d ok v st s).mram.head, journal := (enter who cond index sub d ok v st s).mram.journal }
      host := (enter who cond index sub d ok v st s).host, tx := (enter who cond index sub d ok v st s).tx } := by
  unfold enter jnlAppend
  dsimp only
  split
  · rfl
  · rw [deviceVector_frame]

/-- A token of the journal's rate is taken from the access path's own state (R595). -/
theorem spent_frame (o : Obj) (v : Val) (s : State) : spent o v s = { s with acc := (spent o v s).acc } := spent_access o v s

section
variable {who : By} {index sub : Nat} {o : Obj} {v : Val} {s : State}

theorem markView_of_firmware (hpath : who.path = .firmware) (st : Status) : markView who index sub st s = s := by simp [markView, hpath]

/-! ### The refusal a write of firmware meets first -/

/-- A write of firmware in operation is carried out and answered with its status (R571). -/
theorem exec_registerWrite_of_firmware {index : BitVec 16} {sub : BitVec 8} (hpath : who.path = .firmware) (hruns : firmwareRuns s = true) :
    exec (.registerWrite who index sub v) s
      = .next ((dictWrite who false index.toNat sub.toNat true v s).2.answer (dictWrite who false index.toNat sub.toNat true v s).1) := by
  rw [exec_registerRow s rfl, regWrite_of_served (by simpa only [servedNow, hpath] using hruns)]

theorem dictWrite_of_absent (hpath : who.path = .firmware) (hobj : objAt index sub = none) :
    dictWrite who false index sub true v s = (.noObject, refuse who index sub .noObject s) := by
  simp only [dictWrite, hobj, markView_of_firmware hpath]

theorem dictWrite_of_unprivileged (hpath : who.path = .firmware) (hobj : objAt index sub = some o) (hpriv : privRefused who o v s = true) :
    dictWrite who false index sub true v s = (.privilege, refuse who index sub .privilege s) := by
  simp only [dictWrite, hobj, hpriv, if_true, markView_of_firmware hpath]

/-- With less than a token left, a journaled write is refused and counted (R595). -/
theorem jnlToken_of_empty (h : jnlTokens s < 12500) :
    jnlToken s = (false, s.updAcc fun a => { a with jnlTokens := jnlTokens s, jnlTime := s.coreTime, rateDrops := satInc a.rateDrops }) :=
  if_neg (Nat.not_le.mpr h)

theorem dictWrite_of_unrated (hpath : who.path = .firmware) (hobj : objAt index sub = some o) (hpriv : privRefused who o v s = false)
    (hj : journaled o v s = true) (htokens : jnlTokens s < 12500) :
    dictWrite who false index sub true v s = (.busy, refuse who index sub .busy (s.updAcc fun a =>
      { a with jnlTokens := jnlTokens s, jnlTime := s.coreTime, rateDrops := satInc a.rateDrops })) := by
  simp [dictWrite, hobj, hpriv, hj, jnlToken_of_empty htokens, markView_of_firmware hpath]

/-- A block in reset refuses every write of its objects, and the refusal is journaled where a write of the object is (R106, R594). -/
theorem ownWrite_of_held (hpath : who.path = .firmware) (hheld : o.held s = true) :
    ∃ j : Bool, ownWrite who false index sub o true v s
      = (.state, refuse who index sub .state (if j then enter who false index sub o.desc (o.fits v) v .state s else s)) :=
  ⟨journaled o v s, by simp [ownWrite, ownStatus, hheld, markView_of_firmware hpath]⟩

end

/-- The refusals in their order (R106, R562, R565, R595): each leaves the status, and no block changes. -/
theorem registerWrite_refused {who : By} {index : BitVec 16} {sub : BitVec 8} {x : Val} {s : State} (hpath : who.path = .firmware)
    (hruns : firmwareRuns s = true) :
    (objAt index.toNat sub.toNat = none → ∃ t, exec (.registerWrite who index sub x) s = .next t ∧ t.reply.status = .noObject
      ∧ t.mram = s.mram ∧ t.fuses = s.fuses ∧ t.qm = s.qm ∧ t.heads = s.heads ∧ t.encs = s.encs ∧ t.acc = s.acc)
    ∧ (∀ o, objAt index.toNat sub.toNat = some o → privRefused who o x s = true →
        ∃ t, exec (.registerWrite who index sub x) s = .next t ∧ t.reply.status = .privilege ∧ t.mram = s.mram ∧ t.fuses = s.fuses
          ∧ t.qm = s.qm ∧ t.heads = s.heads ∧ t.encs = s.encs ∧ t.sec = s.sec)
    ∧ (∀ o, objAt index.toNat sub.toNat = some o → privRefused who o x s = false → journaled o x s = true → jnlTokens s < 12500 →
        ∃ t, exec (.registerWrite who index sub x) s = .next t ∧ t.reply.status = .busy ∧ t.acc.rateDrops = satInc s.acc.rateDrops
          ∧ t.mram = s.mram ∧ t.fuses = s.fuses ∧ t.qm = s.qm ∧ t.heads = s.heads ∧ t.encs = s.encs ∧ t.sec = s.sec)
    ∧ (∀ o, objAt index.toNat sub.toNat = some o → privRefused who o x s = false → (journaled o x s = true → 12500 ≤ jnlTokens s) →
        o.held (spent o x s) = true →
        ∃ t, exec (.registerWrite who index sub x) s = .next t ∧ t.reply.status = .state ∧ t.mram.records = s.mram.records ∧ t.fuses = s.fuses
          ∧ t.qm = s.qm ∧ t.heads = s.heads ∧ t.encs = s.encs ∧ t.sec = s.sec) := by
  rw [exec_registerWrite_of_firmware hpath hruns]
  refine ⟨fun hobj => ?_, fun o hobj hpriv => ?_, fun o hobj hpriv hj htokens => ?_, fun o hobj hpriv htokens hheld => ?_⟩
  · rw [dictWrite_of_absent hpath hobj, refuse_frame]
    exact ⟨_, rfl, rfl, rfl, rfl, rfl, rfl, rfl, rfl⟩
  · rw [dictWrite_of_unprivileged hpath hobj hpriv, refuse_frame]
    exact ⟨_, rfl, rfl, rfl, rfl, rfl, rfl, rfl, rfl⟩
  · rw [dictWrite_of_unrated hpath hobj hpriv hj htokens, refuse_frame]
    exact ⟨_, rfl, rfl, rfl, rfl, rfl, rfl, rfl, rfl, rfl⟩
  · obtain ⟨j, hwrite⟩ := ownWrite_of_held (index := index.toNat) (sub := sub.toNat) (v := x) hpath hheld
    rw [dictWrite_of_admitted hobj hpriv htokens, hwrite, refuse_frame]
    cases j with
    | false => rw [spent_frame]; exact ⟨_, rfl, rfl, rfl, rfl, rfl, rfl, rfl, rfl⟩
    | true =>
      rw [if_pos rfl, enter_frame, spent_frame]
      exact ⟨_, rfl, rfl, rfl, rfl, rfl, rfl, rfl, rfl⟩

/-- The first refusal of an empty violation log is its only entry (R631, R632). -/
theorem refuse_of_empty {who : By} {index sub : Nat} {st : Status} {s : State} (h : s.vio.log = []) :
    (refuse who index sub st s).vio.head = s.vio.head + 1 ∧ ∃ e, (refuse who index sub st s).vio.log = [e]
      ∧ e.target = BitVec.ofNat 48 (objTarget index sub) ∧ e.status = BitVec.ofNat 8 st.code ∧ e.initiator = BitVec.ofNat 16 who.path.initiator
      ∧ e.count = 1 := by
  unfold refuse logVio
  simp only [h]
  rw [deviceVector_frame]
  exact ⟨rfl, _, rfl, rfl, rfl, rfl, rfl⟩

/-! ### The compare unit and MRAM -/

@[simp] theorem updCmp_mram (n : Fin 16) (f : Cmp → Cmp) (s : State) : (updCmp n f s).mram = s.mram := rfl
@[simp] theorem publish_mram (code : Nat) (s : State) : (publish code s).mram = s.mram := by rw [publish_frame]
@[simp] theorem cmpPublish_mram (n : Fin 16) (done : Bool) (s : State) : (cmpPublish n done s).mram = s.mram := publish_mram _ s
@[simp] theorem cmpFinish_mram (n : Fin 16) (s : State) : (cmpFinish n s).mram = s.mram := by simp [cmpFinish]

@[simp] theorem State.ite_mram (c : Prop) [Decidable c] (s t : State) : (if c then s else t).mram = if c then s.mram else t.mram :=
  apply_ite State.mram c s t

@[simp] theorem cmpHit_mram (n : Fin 16) (t : Nat) (late : Bool) (s : State) : (cmpHit n t late s).mram = s.mram := by simp [cmpHit]

@[simp] theorem cmpPass_mram (n : Fin 16) (t : Nat) (crossing : Bool) (s : State) : (cmpPass n t crossing s).mram = s.mram := by simp [cmpPass]

@[simp] theorem cmpTest_mram (n : Fin 16) (s : State) : (cmpTest n s).mram = s.mram := by simp [cmpTest]

/-- A target written may fire a compare unit that is armed; MRAM stays as it is (R362). -/
theorem write_target_mram (n : Fin 16) (v : Val) (s : State) : (EncReg.write n .target v s).mram = s.mram := by simp [EncReg.write]

/-! ### The entry of a journaled write -/

/-- The journal's newest entry is that of the write, numbered on from the head (R593, R596). -/
theorem enter_newest (who : By) (index sub : Nat) (d : Desc) (v : Val) (s : State) :
    (enter who false index sub d true v .ok s).mram.head = s.mram.head + 1
    ∧ ∃ e, (enter who false index sub d true v .ok s).mram.journal.head? = some e ∧ e.seq = (s.mram.head + 1).toNat ∧ e.index = BitVec.ofNat 16 index
      ∧ e.sub = BitVec.ofNat 8 sub ∧ e.status = BitVec.ofNat 8 (if (entryValue d true v).2 then 0x80 else 0)
      ∧ e.value = BitVec.ofNat 64 (entryValue d true v).1 ∧ e.src = BitVec.ofNat 16 who.path.jnlSrc := by
  have hslots (e : JnlEntry) (l : List JnlEntry) : ((e :: l).take jnlSlots).head? = some e := by simp [jnlSlots]
  unfold enter jnlAppend
  dsimp only
  split
  · exact ⟨rfl, _, hslots _ _, rfl, rfl, rfl, by simp [Status.code], rfl, rfl⟩
  · rw [deviceVector_frame]
    exact ⟨rfl, _, hslots _ _, rfl, rfl, rfl, by simp [Status.code], rfl, rfl⟩

/-- TARGET_WRITE leaves one entry, and MRAM's records as they are (R362, R594). -/
theorem targetWritten {w : By} {n : Fin 16} {v : BitVec 48} {s : State} (hpath : w.path = .firmware)
    (hacc : Accepted w (0x7000 + n.1) 0x21 (.enc n .target) (.num v.toNat) s) :
    ∃ t e, exec (.targetWrite w n v) s = .next t ∧ t.mram.journal.head? = some e ∧ t.mram.head = s.mram.head + 1 ∧ e.seq = (s.mram.head + 1).toNat
      ∧ e.index = BitVec.ofNat 16 (0x7000 + n.1) ∧ e.sub = 0x21#8 ∧ e.status = 0 ∧ e.value = BitVec.ofNat 64 v.toNat ∧ e.src = 0xC000#16
      ∧ t.mram.records = s.mram.records := by
  let o : Obj := .enc n .target
  have hj : journaled o (.num v.toNat) s = true := rfl
  have hmram : (o.apply (.num v.toNat) (spent o (.num v.toNat) s)).mram = s.mram := (write_target_mram n _ _).trans (by rw [spent_frame])
  have hvalue : entryValue o.desc true (.num v.toNat) = (v.toNat, false) := by
    simp only [entryValue, if_true, jnlValue]
    exact Prod.ext (Nat.mod_eq_of_lt v.isLt) rfl
  obtain ⟨hhead, e, he, hseq, hindex, hsub, hstatus, hval, hsrc⟩ :=
    enter_newest w (0x7000 + n.1) 0x21 o.desc (.num v.toNat) (o.apply (.num v.toNat) (spent o (.num v.toNat) s))
  rw [hmram] at hhead hseq
  rw [hvalue] at hstatus hval
  refine ⟨_, e, (exec_registerRow s rfl).trans (congrArg Host.Outcome.next (regWrite_of_accepted hacc (by intro h; cases h) (by intro h; cases h.1))), ?_⟩
  rw [written, hj, noted, if_pos rfl]
  refine ⟨he, hhead, hseq, hindex, hsub, hstatus, hval, by rw [hsrc, hpath]; rfl, ?_⟩
  rw [enter_frame, ← hmram]
  rfl

/-- Settles O17: the order of the refusals, what they leave, and the entry of an accepted write. -/
theorem refusedWrites : Obligations.RefusedWrites := by
  refine ⟨fun who index sub x s => registerWrite_refused, fun who index sub x s hpath hruns hobj hlog => ?_, fun w n v s => targetWritten⟩
  rw [exec_registerWrite_of_firmware hpath hruns, dictWrite_of_absent hpath hobj]
  obtain ⟨hhead, e, hone, htarget, hstatus, hinitiator, hcount⟩ :=
    refuse_of_empty (who := who) (index := index.toNat) (sub := sub.toNat) (st := .noObject) hlog
  exact ⟨_, e, rfl, hone, htarget, hstatus, by rw [hinitiator, hpath]; rfl, hcount, hhead⟩

end Sys2Proof.Machine
end

section
/-! The cell pool (R426 to R453): what lending, credits and watermarks leave of the packets, and what a producer's write, a rewind, a commit and the
pool's own events do. -/

namespace Sys2Proof.Machine

open Sys2Proof Sys2Proof.Safety

/-! ### What settling the pool leaves -/

/-- A queue with what its watermark and a revocation can change set aside. -/
def Queue.chains (k : Queue) : Queue := { k with wmState := false, wmUp := false, wmDown := false, wmUps := 0, revoked := false }

/-- A producer with its credits set aside. -/
def Producer.work (p : Producer) : Producer := { p with credits := [] }

/-- What settling the pool leaves: the queues' packets and registers, the producers' work, and the cells with the return walker. -/
def State.pool (s : State) : (Fin 512 → Queue) × (Fin 32 → Producer) × List Nat :=
  (fun q => s.qm.queues[q].chains, fun r => s.qm.producers[r].work, s.qm.returning)

theorem chains_of_pool {s t : State} (h : t.pool = s.pool) (q : Fin 512) : t.qm.queues[q].chains = s.qm.queues[q].chains := congrFun (congrArg (·.1) h) q
theorem work_of_pool {s t : State} (h : t.pool = s.pool) (r : Fin 32) : t.qm.producers[r].work = s.qm.producers[r].work := congrFun (congrArg (·.2.1) h) r
theorem returning_of_pool {s t : State} (h : t.pool = s.pool) : t.qm.returning = s.qm.returning := congrArg (·.2.2) h
theorem Queue.packets_of_chains {k l : Queue} (h : k.chains = l.chains) : k.packets = l.packets := (congrArg Queue.packets h :)
theorem Queue.openPkt_of_chains {k l : Queue} (h : k.chains = l.chains) : k.openPkt = l.openPkt := (congrArg Queue.openPkt h :)
theorem Queue.rewinds_of_chains {k l : Queue} (h : k.chains = l.chains) : k.rewinds = l.rewinds := (congrArg Queue.rewinds h :)
theorem Queue.commits_of_chains {k l : Queue} (h : k.chains = l.chains) : k.commits = l.commits := (congrArg Queue.commits h :)
theorem Queue.ctl_of_chains {k l : Queue} (h : k.chains = l.chains) : k.ctl = l.ctl := (congrArg Queue.ctl h :)
theorem Producer.buf_of_work {p r : Producer} (h : p.work = r.work) : p.buf = r.buf := (congrArg Producer.buf h :)
theorem Producer.closing_of_work {p r : Producer} (h : p.work = r.work) : p.closing = r.closing := (congrArg Producer.closing h :)
theorem Producer.discarding_of_work {p r : Producer} (h : p.work = r.work) : p.discarding = r.discarding := (congrArg Producer.discarding h :)

@[simp] theorem State.ite_pool (c : Prop) [Decidable c] (s t : State) : (if c then s else t).pool = if c then s.pool else t.pool :=
  apply_ite State.pool c s t

@[simp] theorem publish_pool (code : Nat) (s : State) : (publish code s).pool = s.pool := by rw [publish_frame]; rfl

/-- A change of one queue that a watermark or a revocation may make. -/
theorem State.updQueue_pool (s : State) (q : Fin 512) (f : Queue → Queue) (h : (f s.qm.queues[q]).chains = s.qm.queues[q].chains) :
    (s.updQueue q f).pool = s.pool :=
  Prod.ext (modAt_keeps Queue.chains s.qm.queues q f h) rfl

/-- A change of one producer's credits. -/
theorem State.updProducer_pool (s : State) (r : Fin 32) (f : Producer → Producer) (h : (f s.qm.producers[r]).work = s.qm.producers[r].work) :
    (s.updProducer r f).pool = s.pool :=
  Prod.ext rfl (Prod.ext (modAt_keeps Producer.work s.qm.producers r f h) rfl)

@[simp] theorem driveXoff_qm (s : State) : (driveXoff s).qm = s.qm := by unfold driveXoff; split <;> rfl

theorem State.pool_congr {s t : State} (h : t.qm = s.qm) : t.pool = s.pool := by rw [State.pool, h, State.pool]

@[simp] theorem driveXoff_pool (s : State) : (driveXoff s).pool = s.pool := State.pool_congr (driveXoff_qm s)

@[simp] theorem lendOnDie_pool (s : State) : (lendOnDie s).pool = s.pool := by
  unfold lendOnDie
  dsimp only
  (repeat' split) <;> rfl

@[simp] theorem revokeFrom_pool (r : Fin 32) (s : State) : (revokeFrom r s).pool = s.pool := by
  unfold revokeFrom
  dsimp only
  split
  · rfl
  · refine (State.updProducer_pool _ r _ rfl).trans ?_
    cases queueOf s r with
    | none => rfl
    | some q => exact State.updQueue_pool s q _ rfl

@[simp] theorem lendStall_pool (s : State) : (lendStall s).pool = s.pool := by
  unfold lendStall
  dsimp only
  split
  · exact State.each_keeps State.pool _ _ revokeFrom_pool _
  · split <;> rfl

@[simp] theorem lend_pool (s : State) : (lend s).pool = s.pool := by simp [lend]

@[simp] theorem watermark_pool (q : Fin 512) (s : State) : (watermark q s).pool = s.pool := by
  have hquiet (f : Queue → Queue) (h : (f s.qm.queues[q]).chains = s.qm.queues[q].chains) (code : Nat) : (publish code (s.updQueue q f)).pool = s.pool :=
    (publish_pool code _).trans (s.updQueue_pool q f h)
  unfold watermark
  dsimp only
  split
  · split
    · exact s.updQueue_pool q _ rfl
    · rfl
  · split
    · split
      · exact hquiet _ rfl _
      · exact hquiet _ rfl _
    · split
      · exact hquiet _ rfl _
      · rfl

/-- What follows a change of a queue moves no packet, no byte and no cell (R432, R445 to R447). -/
@[simp] theorem settleQueue_pool (q : Fin 512) (s : State) : (settleQueue q s).pool = s.pool := by simp [settleQueue]

/-- A request for pause is no matter of the pool (R195). -/
theorem settlePause_qm (s : State) : (settlePause s).qm = s.qm := qm_of_unsent (settlePause_unsent s)

@[simp] theorem settlePause_pool (s : State) : (settlePause s).pool = s.pool := State.pool_congr (settlePause_qm s)

theorem packetLost_qm (p : Fin 16) (s : State) : (packetLost p s).qm = s.qm := rfl

@[simp] theorem packetLost_pool (p : Fin 16) (s : State) : (packetLost p s).pool = s.pool := rfl

/-! ### One queue, one producer -/

theorem State.updQueue_queue (s : State) (q : Fin 512) (f : Queue → Queue) : (s.updQueue q f).qm.queues[q] = f s.qm.queues[q] := modAt_get ..

theorem State.updQueue_queue_ne (s : State) {q k : Fin 512} (f : Queue → Queue) (h : k ≠ q) : (s.updQueue q f).qm.queues[k] = s.qm.queues[k] :=
  modAt_get_ne _ _ _ _ h

theorem State.updProducer_producer (s : State) (r : Fin 32) (f : Producer → Producer) : (s.updProducer r f).qm.producers[r] = f s.qm.producers[r] :=
  modAt_get ..

theorem State.updProducer_congr {s : State} {r : Fin 32} {f g : Producer → Producer} (h : f s.qm.producers[r] = g s.qm.producers[r]) :
    s.updProducer r f = s.updProducer r g := by
  rw [State.updProducer, modAt, h, State.updProducer, modAt]

theorem State.updQueue_congr {s : State} {q : Fin 512} {f g : Queue → Queue} (h : f s.qm.queues[q] = g s.qm.queues[q]) :
    s.updQueue q f = s.updQueue q g := by
  rw [State.updQueue, modAt, h, State.updQueue, modAt]

theorem State.updProducer_closing (s : State) (d r : Fin 32) {f : Producer → Producer} (h : ∀ x, (f x).closing = x.closing) :
    (s.updProducer d f).qm.producers[r].closing = s.qm.producers[r].closing :=
  congrFun (modAt_keeps Producer.closing s.qm.producers d f (h _)) r

/-- Which queue a producer writes to is the queues' registers' own affair (R428). -/
theorem queueOf_congr {s t : State} (h : t.qm.queues = s.qm.queues) (r : Fin 32) : queueOf t r = queueOf s r := by
  unfold queueOf
  rw [h]

/-! ### A producer's write -/

section
variable {r : Fin 32} {q : Fin 512} {o : OpenPkt} {s : State}

/-- The state once producer r's bytes bs stand at the end of queue q's open packet (R426). -/
def State.wrote (s : State) (r : Fin 32) (q : Fin 512) (o : OpenPkt) (bs : List Byte) : State :=
  (s.updQueue q fun k => { k with openPkt := some (fillLast o bs) }).updProducer r fun p => { p with buf := [] }

/-- A cell's room takes all the bytes that are ready, and the write ends there (R426). -/
theorem writeCells_of_room {k : Nat} (hopen : s.qm.queues[q].openPkt = some o) (hbuf : s.qm.producers[r].buf ≠ [])
    (hroom : s.qm.producers[r].buf.length ≤ roomLeft o) (hmax : o.bytes + s.qm.producers[r].buf.length ≤ s.qm.queues[q].maxpktNow.toNat) :
    writeCells r q (k + 2) s = s.wrote r q o s.qm.producers[r].buf := by
  have hpos : 0 < s.qm.producers[r].buf.length := List.length_pos_iff.mpr hbuf
  have hempty : s.qm.producers[r].buf.isEmpty = false := List.isEmpty_eq_false_iff.mpr hbuf
  have hall : min (roomLeft o) (min s.qm.producers[r].buf.length (s.qm.queues[q].maxpktNow.toNat - o.bytes)) = s.qm.producers[r].buf.length := by omega
  unfold writeCells
  simp only [hempty, hopen, hall, Bool.false_eq_true, if_false, if_neg (show ¬ s.qm.queues[q].maxpktNow.toNat ≤ o.bytes by omega),
    if_neg (show roomLeft o ≠ 0 by omega), List.take_length]
  have hdone (u : State) (h : u.qm.producers[r].buf = []) : writeCells r q (k + 1) u = u := by simp [-Fin.getElem_fin, writeCells, h]
  refine (congrArg (writeCells r q (k + 1)) (State.updProducer_congr (g := fun p => { p with buf := [] }) ?_)).trans (hdone _ ?_)
  · exact congrArg (fun b => { s.qm.producers[r] with buf := b }) (List.drop_length ..)
  · rw [State.updProducer_producer]

/-- The state with all that the packer can change in handing over bytes set aside: the pipelines, the Tally engines and the producers. -/
def State.unfed (s : State) : State :=
  { s with pipes := Vector.replicate 16 {}, tallies := Vector.replicate 16 {}, qm := { s.qm with producers := Vector.replicate 32 {} } }

theorem countSpectrum_unfed (p : Fin 16) (rows : List (List Cand)) (s : State) : (countSpectrum p rows s).unfed = s.unfed := by
  unfold countSpectrum
  split <;> rfl

theorem reachStage8_unfed (p : Fin 16) (w : Work) (s : State) : (reachStage8 p w s).unfed = s.unfed := by
  fun_cases reachStage8 p w s <;> exact countSpectrum_unfed p _ _

theorem advance_unfed (p : Fin 16) (s : State) : (advance p s).unfed = s.unfed := by
  unfold advance
  split
  · exact reachStage8_unfed p _ s
  · rfl

/-- What the packer hands over is the pipeline's and the producers' own affair (R439). -/
theorem feed_unfed (p : Fin 16) (s : State) : (feed p s).unfed = s.unfed := by
  unfold feed
  dsimp only
  split
  · split <;> exact advance_unfed p s
  · exact advance_unfed p s

theorem inReset_of_unfed {b : Blk} {s t : State} (h : t.unfed = s.unfed) : inReset b t = inReset b s := (congrArg (inReset b) h :)
theorem queues_of_unfed {s t : State} (h : t.unfed = s.unfed) : t.qm.queues = s.qm.queues := (congrArg (·.qm.queues) h :)
theorem srcs_of_unfed {s t : State} (h : t.unfed = s.unfed) : t.srcs = s.srcs := (congrArg State.srcs h :)

/-- The packer closes no packet by handing over bytes (R439, R440). -/
theorem feed_closing (p : Fin 16) (s : State) (r : Fin 32) : (feed p s).qm.producers[r].closing = s.qm.producers[r].closing := by
  have hadvance : (advance p s).qm.producers[r].closing = s.qm.producers[r].closing := congrArg (fun m : QueueMgr => m.producers[r].closing) (advance_qm p s)
  unfold feed
  dsimp only
  split
  next w ws _ =>
    split
    · exact hadvance
    · refine Eq.trans ?_ hadvance
      exact State.updProducer_closing _ _ _ fun _ => rfl
  next => exact hadvance

/-- The write of a producer whose bytes the last cell's room takes (R426). -/
theorem writeOut_of_room {u : State} (hu : u = if r.1 < 16 then feed (Fin.ofNat 16 r.1) s else s) (hreset : inReset .queues u = false)
    (hqueue : queueOf u r = some q) (hopen : u.qm.queues[q].openPkt = some o) (hbuf : u.qm.producers[r].buf ≠ [])
    (hroom : u.qm.producers[r].buf.length ≤ roomLeft o) (hmax : o.bytes + u.qm.producers[r].buf.length ≤ u.qm.queues[q].maxpktNow.toNat)
    (hkept : u.qm.producers[r].discarding = false) :
    writeOut r s = settleQueue q (u.wrote r q o u.qm.producers[r].buf) := by
  have hwrite : producerWrite r u = settleQueue q (u.wrote r q o u.qm.producers[r].buf) := by
    rw [producerWrite, if_neg (Bool.eq_false_iff.mp hreset)]
    simp only [hqueue, writeCells_of_room hopen hbuf hroom hmax]
  have hwork : (producerWrite r u).qm.producers[r].work = { u.qm.producers[r].work with buf := [] } := by
    rw [hwrite, work_of_pool (settleQueue_pool q _) r, State.wrote, State.updProducer_producer]
    rfl
  have hclosing : (producerWrite r u).qm.producers[r].closing = u.qm.producers[r].closing := Producer.closing_of_work (r := { u.qm.producers[r] with buf := [] }) hwork
  have hdiscarding : (producerWrite r u).qm.producers[r].discarding = false := (Producer.discarding_of_work (r := { u.qm.producers[r] with buf := [] }) hwork).trans hkept
  unfold writeOut
  dsimp only
  rw [← hu]
  simp only [hclosing, hdiscarding, Bool.and_false, Bool.false_or, Bool.and_eq_true, Option.isNone_iff_eq_none, Option.isSome_iff_ne_none]
  simp only [hwrite]
  cases u.qm.producers[r].closing <;> simp

end


end Sys2Proof.Machine
end

section
namespace Sys2Proof.Machine

open Sys2Proof Sys2Proof.Safety

/-! ### Rewinds and marks -/

section
variable {r : Fin 32} {q : Fin 512} {o : OpenPkt} {s : State}

/-- The state once the open packet o of queue q is rewound whole: its cells go to the return walker, and what was not yet written is dropped (R442). -/
def State.rewound (s : State) (r : Fin 32) (q : Fin 512) (o : OpenPkt) : State :=
  owePipeGap r (handBack o.cells ((s.updProducer r fun p => { p with buf := [], closing := none }).updQueue q fun k =>
    { k with openPkt := none, rewinds := satInc k.rewinds }))

theorem State.rewound_queue : (s.rewound r q o).qm.queues[q] = { s.qm.queues[q] with openPkt := none, rewinds := satInc s.qm.queues[q].rewinds } :=
  modAt_get s.qm.queues q _

theorem State.rewound_producer : (s.rewound r q o).qm.producers[r] = { s.qm.producers[r] with buf := [], closing := none } :=
  modAt_get s.qm.producers r _

theorem rewindOpen_of_open (hqueue : queueOf s r = some q) (hopen : s.qm.queues[q].openPkt = some o) :
    rewindOpen r s = settleQueue q (s.rewound r q o) := by
  have hsame (f : Producer → Producer) : queueOf (s.updProducer r f) r = some q := (queueOf_congr (s := s) (t := s.updProducer r f) rfl r).trans hqueue
  have hpkt (f : Producer → Producer) : (s.updProducer r f).qm.queues[q].openPkt = some o := hopen
  simp only [rewindOpen, hsame, hpkt, State.rewound]

theorem dataProducer_of_data (h : r.1 < 16) : dataProducer (Fin.ofNat 16 r.1) = r := by
  refine Fin.ext ?_
  change r.1 % 16 % 32 = r.1
  omega

/-- PACKET_REWIND rewinds the producer's packet; the account of a data packet goes with it (R332, R442). -/
theorem exec_packetRewind_pool (hreset : inReset .queues s = false) :
    ∃ t, exec (.packetRewind r) s = .next t ∧ t.pool = (rewindOpen r s).pool := by
  refine ⟨_, congrArg Host.Outcome.next (if_neg (Bool.eq_false_iff.mp hreset)), ?_⟩
  rw [settlePause_pool]
  split
  next hdata =>
    rw [rewindData, packetLost_pool, dataProducer_of_data hdata]
  next => rfl

theorem packetRewound (hreset : inReset .queues s = false) (hqueue : queueOf s r = some q) (hopen : s.qm.queues[q].openPkt = some o) :
    ∃ t, exec (.packetRewind r) s = .next t ∧ t.qm.queues[q].openPkt = none ∧ t.qm.queues[q].packets = s.qm.queues[q].packets
      ∧ t.qm.queues[q].rewinds = satInc s.qm.queues[q].rewinds ∧ t.qm.returning = s.qm.returning ++ o.cells.map (·.index) ∧ t.qm.producers[r].buf = []
      ∧ t.qm.producers[r].closing = none := by
  obtain ⟨t, hexec, hpool⟩ := exec_packetRewind_pool (r := r) hreset
  rw [rewindOpen_of_open hqueue hopen, settleQueue_pool] at hpool
  have hq := (chains_of_pool hpool q).trans (congrArg Queue.chains State.rewound_queue)
  have hr := (work_of_pool hpool r).trans (congrArg Producer.work State.rewound_producer)
  exact ⟨t, hexec, Queue.openPkt_of_chains hq, (Queue.packets_of_chains hq :), Queue.rewinds_of_chains hq, returning_of_pool hpool, Producer.buf_of_work hr,
    Producer.closing_of_work hr⟩

theorem exec_setMark_of_open (hreset : inReset .queues s = false) (hqueue : queueOf s r = some q) (hopen : s.qm.queues[q].openPkt = some o) :
    exec (.setMark r) s = .next (s.updQueue q fun k => { k with openPkt := some { o with mark := some (o.bytes + s.qm.producers[r].buf.length) } }) := by
  refine congrArg Host.Outcome.next ((if_neg (Bool.eq_false_iff.mp hreset)).trans ?_)
  simp only [setMark, hqueue]
  exact State.updQueue_congr (by rw [hopen]; rfl)

/-- The state once the open packet o of queue q is rewound to byte m: the cells up to it are kept, and those after go to the return walker (R441). -/
def State.rewoundTo (s : State) (r : Fin 32) (q : Fin 512) (o : OpenPkt) (m : Nat) : State :=
  handBack (cutCells m o.cells).2 ((s.updQueue q fun k => { k with openPkt := some { o with cells := (cutCells m o.cells).1, bytes := m } }).updProducer r
    fun p => { p with buf := [] })

theorem State.rewoundTo_queue {m : Nat} :
    (s.rewoundTo r q o m).qm.queues[q] = { s.qm.queues[q] with openPkt := some { o with cells := (cutCells m o.cells).1, bytes := m } } :=
  modAt_get s.qm.queues q _

theorem State.rewoundTo_producer {m : Nat} : (s.rewoundTo r q o m).qm.producers[r] = { s.qm.producers[r] with buf := [] } :=
  modAt_get s.qm.producers r _

theorem rewindToMark_of_behind {m : Nat} (hqueue : queueOf s r = some q) (hopen : s.qm.queues[q].openPkt = some o) (hmark : o.mark = some m)
    (hbehind : m < o.bytes) : rewindToMark r s = settleQueue q (s.rewoundTo r q o m) := by
  simp only [rewindToMark, hqueue, hopen, hmark, if_neg (Nat.not_le.mpr hbehind), State.rewoundTo]

theorem rewoundToMark {m : Nat} (hreset : inReset .queues s = false) (hqueue : queueOf s r = some q) (hopen : s.qm.queues[q].openPkt = some o)
    (hmark : o.mark = some m) (hbehind : m < o.bytes) :
    ∃ t, exec (.rewindToMark r) s = .next t ∧ t.qm.queues[q].openPkt = some { o with cells := (cutCells m o.cells).1, bytes := m }
      ∧ t.qm.returning = s.qm.returning ++ (cutCells m o.cells).2.map (·.index) ∧ t.qm.producers[r].buf = []
      ∧ t.qm.queues[q].packets = s.qm.queues[q].packets := by
  have hpool : (settlePause (rewindToMark r s)).pool = (s.rewoundTo r q o m).pool := by
    rw [settlePause_pool, rewindToMark_of_behind hqueue hopen hmark hbehind, settleQueue_pool]
  have hq := (chains_of_pool hpool q).trans (congrArg Queue.chains State.rewoundTo_queue)
  have hr := (work_of_pool hpool r).trans (congrArg Producer.work State.rewoundTo_producer)
  exact ⟨_, congrArg Host.Outcome.next (if_neg (Bool.eq_false_iff.mp hreset)), Queue.openPkt_of_chains hq, returning_of_pool hpool,
    Producer.buf_of_work hr, (Queue.packets_of_chains hq :)⟩

theorem State.wrote_queue {bs : List Byte} : (s.wrote r q o bs).qm.queues[q] = { s.qm.queues[q] with openPkt := some (fillLast o bs) } :=
  modAt_get s.qm.queues q _

theorem State.wrote_queue_ne {bs : List Byte} {k : Fin 512} (h : k ≠ q) : (s.wrote r q o bs).qm.queues[k] = s.qm.queues[k] :=
  modAt_get_ne s.qm.queues q k _ h

theorem State.wrote_producer {bs : List Byte} : (s.wrote r q o bs).qm.producers[r] = { s.qm.producers[r] with buf := [] } :=
  modAt_get s.qm.producers r _

theorem srcs_of_unpooled {s t : State} (h : t.unpooled = s.unpooled) : t.srcs = s.srcs := (congrArg State.srcs h :)
theorem mram_of_unpooled {s t : State} (h : t.unpooled = s.unpooled) : t.mram = s.mram := (congrArg State.mram h :)

/-- PRODUCER_WRITE of a producer whose bytes the last cell's room takes. -/
theorem producerWritten {u : State} (hreset : inReset .queues s = false) (hu : u = if r.1 < 16 then feed (Fin.ofNat 16 r.1) s else s)
    (hqueue : queueOf s r = some q) (hopen : s.qm.queues[q].openPkt = some o) (hbuf : u.qm.producers[r].buf ≠ [])
    (hroom : u.qm.producers[r].buf.length ≤ roomLeft o) (hmax : o.bytes + u.qm.producers[r].buf.length ≤ s.qm.queues[q].maxpktNow.toNat)
    (hkept : u.qm.producers[r].discarding = false) :
    ∃ t, exec (.producerWrite r) s = .next t ∧ t.qm.queues[q].openPkt = some (fillLast o u.qm.producers[r].buf) ∧ t.qm.producers[r].buf = []
      ∧ t.qm.queues[q].packets = s.qm.queues[q].packets ∧ t.qm.producers[r].closing = s.qm.producers[r].closing ∧ t.srcs = s.srcs
      ∧ (∀ k, k ≠ q → t.qm.queues[k].packets = s.qm.queues[k].packets ∧ t.qm.queues[k].openPkt = s.qm.queues[k].openPkt) := by
  have hunfed : u.unfed = s.unfed := by
    rw [hu]
    split
    · exact feed_unfed _ s
    · rfl
  have hclosing : u.qm.producers[r].closing = s.qm.producers[r].closing := by
    rw [hu]
    split
    · exact feed_closing _ s r
    · rfl
  have hqueues := queues_of_unfed hunfed
  have hwrite := writeOut_of_room hu ((inReset_of_unfed hunfed).trans hreset) ((queueOf_congr hqueues r).trans hqueue) (hqueues ▸ hopen) hbuf hroom
    (hqueues ▸ hmax) hkept
  have hpool : (settlePause (writeOut r s)).pool = (u.wrote r q o u.qm.producers[r].buf).pool := by rw [settlePause_pool, hwrite, settleQueue_pool]
  have hq := (chains_of_pool hpool q).trans (congrArg Queue.chains State.wrote_queue)
  have hr := (work_of_pool hpool r).trans (congrArg Producer.work State.wrote_producer)
  refine ⟨_, rfl, Queue.openPkt_of_chains hq, Producer.buf_of_work hr, (Queue.packets_of_chains hq).trans (by rw [hqueues]),
    (Producer.closing_of_work hr).trans hclosing, ?_, fun k hk => ?_⟩
  · obtain ⟨-, hsrcs⟩ := settlePause_keeps (writeOut r s)
    rw [hsrcs, hwrite]
    exact (srcs_of_unpooled (settleQueue_unpooled q _)).trans (srcs_of_unfed (t := u) hunfed)
  · have hother := (chains_of_pool hpool k).trans (congrArg Queue.chains (State.wrote_queue_ne hk))
    rw [hqueues] at hother
    exact ⟨Queue.packets_of_chains hother, Queue.openPkt_of_chains hother⟩

end

/-- Settles O26: what a write, a mark and a rewind do, settled without a change of any packet. -/
theorem producersWriteAndRewind : Obligations.ProducersWriteAndRewind :=
  ⟨fun _ _ _ _ _ hreset hu hqueue hopen hbuf hroom hmax hkept => producerWritten hreset hu hqueue hopen hbuf hroom hmax hkept,
    fun _ _ _ _ hreset hqueue hopen => ⟨packetRewound hreset hqueue hopen, exec_setMark_of_open hreset hqueue hopen,
      fun _ hmark hbehind => rewoundToMark hreset hqueue hopen hmark hbehind⟩⟩

end Sys2Proof.Machine
end

section
/-! A commit (R299 to R301, R440): the open packet joins its queue with its slate, and what settles after it moves no packet. -/

namespace Sys2Proof.Machine

open Sys2Proof Sys2Proof.Safety

/-! ### What a pipeline that settles leaves -/

/-- The queues, the sources and the GAP that each pipeline owes. -/
def State.shelf (s : State) : Vector Queue 512 × Vector Source 18 × (Fin 16 → Bool) := (s.qm.queues, s.srcs, fun p => s.pipes[p].gap)

theorem queues_of_shelf {s t : State} (h : t.shelf = s.shelf) : t.qm.queues = s.qm.queues := congrArg (·.1) h
theorem srcs_of_shelf {s t : State} (h : t.shelf = s.shelf) : t.srcs = s.srcs := congrArg (·.2.1) h
theorem gap_of_shelf {s t : State} (h : t.shelf = s.shelf) (p : Fin 16) : t.pipes[p].gap = s.pipes[p].gap := congrFun (congrArg (·.2.2) h) p

/-- A change of a pipeline that leaves its GAP alone. -/
theorem State.updPipe_shelf (s : State) (p : Fin 16) (f : Pipe → Pipe) (h : ∀ k, (f k).gap = k.gap) : (s.updPipe p f).shelf = s.shelf :=
  Prod.ext rfl (Prod.ext rfl (modAt_keeps Pipe.gap s.pipes p f (h _)))

theorem closePacket_shelf (p : Fin 16) (c : Closed) (s : State) : (closePacket p c s).shelf = s.shelf := s.updPipe_shelf p _ fun _ => rfl

theorem logSlate_shelf (p : Fin 16) (src : Fin 18) (epoch : BitVec 16) (s : State) : (logSlate p src epoch s).shelf = s.shelf :=
  s.updPipe_shelf p _ fun _ => rfl

theorem closeImage_shelf (p : Fin 16) (s : State) : (closeImage p s).shelf = s.shelf := by
  fun_cases closeImage p s with
  | case1 _ _ _ _ _ _ _ _ _ _ s₁ s₂ =>
    refine (closePacket_shelf p _ s₁).trans ?_
    simp only [s₁]
    split
    · exact logSlate_shelf p _ _ s
    · rfl
  | case2 => rfl

theorem settleImage_shelf (p : Fin 16) (s : State) : (settleImage p s).shelf = s.shelf := by
  obtain hclosed | hopen : settleImage p s = closeImage p s ∨ settleImage p s = s := ite_eq_or_eq _ _ _
  · rw [hclosed, closeImage_shelf]
  · rw [hopen]

/-- Producer r has no packet open in the pool. -/
def nothingOpen (r : Fin 32) (s : State) : Prop := ∀ q, queueOf s r = some q → s.qm.queues[q].openPkt = none

/-- A rewind without an open packet only drops what the producer has not yet written. -/
theorem rewindOpen_of_nothingOpen {r : Fin 32} {s : State} (h : nothingOpen r s) :
    rewindOpen r s = s.updProducer r fun p => { p with buf := [], closing := none } := by
  have hsame (f : Producer → Producer) : queueOf (s.updProducer r f) r = queueOf s r := queueOf_congr (s := s) (t := s.updProducer r f) rfl r
  unfold rewindOpen
  simp only [hsame]
  cases hqueue : queueOf s r with
  | none => rfl
  | some q =>
    have hpkt (f : Producer → Producer) : (s.updProducer r f).qm.queues[q].openPkt = none := h q hqueue
    simp only [hpkt]

theorem settleBatch_shelf {p : Fin 16} {s : State} (h : nothingOpen (dataProducer p) s) : (settleBatch p s).shelf = s.shelf := by
  fun_cases settleBatch p s
  case case1 a _ _ _ =>
    unfold closeBatch
    dsimp only
    split
    · have hsame (f : Pipe → Pipe) (g : Tally → Tally) : nothingOpen (dataProducer p) ((s.updTally p g).updPipe p f) := fun q hq =>
        h q ((queueOf_congr (s := (s.updTally p g).updPipe p f) (t := s) rfl _).trans hq)
      rw [rewindOpen_of_nothingOpen (hsame _ _)]
      exact State.updPipe_shelf (s.updTally p _) p _ fun _ => rfl
    · exact (closePacket_shelf p _ _).trans (State.updPipe_shelf (s.updTally p _) p _ fun _ => rfl)
  all_goals rfl

/-- Batches and images that close once the packet before them has committed move no packet (R318, R329). -/
theorem settlePipe_shelf {p : Fin 16} {s : State} (h : nothingOpen (dataProducer p) s) : (settlePipe p s).shelf = s.shelf :=
  (settleImage_shelf p _).trans (settleBatch_shelf h)

/-! ### The commit -/

/-- The packet that the open packet o becomes at its commit with a slate (R301, R440). -/
def OpenPkt.packet (o : OpenPkt) (slate : List Byte) (now : Nat) : Packet :=
  { cells := overFirst (slateWithCrc slate (((o.cells.flatMap (·.data)).take o.bytes).drop 64)) o.cells, bytes := o.bytes, logged := false, at_ := now }

/-- The state once producer r's open packet has joined queue q as pkt (R440). -/
def State.appended (s : State) (r : Fin 32) (q : Fin 512) (pkt : Packet) : State :=
  (s.updQueue q fun k => { k with openPkt := none, packets := k.packets ++ [pkt], commits := satInc k.commits }).updProducer r fun p =>
    { p with closing := none, discarding := false }

section
variable {r : Fin 32} {q : Fin 512} {o : OpenPkt} {s : State}

theorem State.appended_queue {pkt : Packet} : (s.appended r q pkt).qm.queues[q]
    = { s.qm.queues[q] with openPkt := none, packets := s.qm.queues[q].packets ++ [pkt], commits := satInc s.qm.queues[q].commits } :=
  modAt_get s.qm.queues q _

theorem State.appended_queue_ne {pkt : Packet} {k : Fin 512} (h : k ≠ q) : (s.appended r q pkt).qm.queues[k] = s.qm.queues[k] :=
  modAt_get_ne s.qm.queues q k _ h

theorem commitOpen_of_open (slate : List Byte) (hqueue : queueOf s r = some q) (hopen : s.qm.queues[q].openPkt = some o) :
    commitOpen r slate s = settleQueue q (publish (0x1000 + q.1) (s.appended r q (o.packet slate s.coreTime))) := by
  simp only [commitOpen, hqueue, hopen, State.appended, OpenPkt.packet]

theorem commitOpen_pool (slate : List Byte) (hqueue : queueOf s r = some q) (hopen : s.qm.queues[q].openPkt = some o) :
    (commitOpen r slate s).pool = (s.appended r q (o.packet slate s.coreTime)).pool := by
  rw [commitOpen_of_open slate hqueue hopen, settleQueue_pool, publish_pool]

theorem commitOpen_srcs (slate : List Byte) (hqueue : queueOf s r = some q) (hopen : s.qm.queues[q].openPkt = some o) :
    (commitOpen r slate s).srcs = s.srcs := by
  rw [commitOpen_of_open slate hqueue hopen]
  exact (srcs_of_unpooled ((settleQueue_unpooled q _).trans (publish_unpooled _ _))).trans rfl

/-- Which queue a producer writes to is decided by QCTL alone (R428, R458). -/
theorem queueOf_of_ctl {t : State} (h : ∀ k : Fin 512, t.qm.queues[k].ctl = s.qm.queues[k].ctl) (r : Fin 32) : queueOf t r = queueOf s r := by
  unfold queueOf
  simp only [Queue.en, Queue.producer, h]

/-- The producer has nothing open once its packet has committed. -/
theorem nothingOpen_of_committed {t : State} {slate : List Byte} (hqueue : queueOf s r = some q) (hopen : s.qm.queues[q].openPkt = some o)
    (ht : t.qm.queues = (commitOpen r slate s).qm.queues) : nothingOpen r t := by
  have hpool := commitOpen_pool slate hqueue hopen
  have hq := (chains_of_pool hpool q).trans (congrArg Queue.chains State.appended_queue)
  have hctl (k : Fin 512) : t.qm.queues[k].ctl = s.qm.queues[k].ctl := by
    rw [ht]
    by_cases hk : k = q
    · subst hk
      exact (Queue.ctl_of_chains hq :)
    · exact Queue.ctl_of_chains ((chains_of_pool hpool k).trans (congrArg Queue.chains (State.appended_queue_ne hk)))
  intro k hk
  obtain rfl : k = q := Option.some_inj.mp (hk.symm.trans ((queueOf_of_ctl hctl r).trans hqueue))
  rw [ht]
  exact Queue.openPkt_of_chains hq

end

/-- A pipeline whose data packet has committed with a slate: its records may follow, and it owes no GAP (R292, R300, R302). -/
def Pipe.committed (slate : List Byte) (c : Closed) (k : Pipe) : Pipe :=
  { k with closed := none, gap := false, rawBytes := satAdd k.rawBytes c.raw, packedBytes := satAdd k.packedBytes c.packed
           statRecs := k.statRecs.map fun x => if x.place = .closed && x.slate.isNone then { x with slate := some slate } else x }

/-- A Tally packet counts in its engine as it commits (R334). -/
def countBatch (p : Fin 16) (c : Closed) (s : State) : State :=
  if c.tally then s.updTally p fun t => { t with events := satAdd t.events c.events, batches := satInc t.batches } else s

theorem countBatch_shelf (p : Fin 16) (c : Closed) (s : State) : (countBatch p c s).shelf = s.shelf := by
  unfold countBatch
  split <;> rfl

/-- The state once pipeline p's data packet, closed as c, has committed with a slate, and before what is due settles (R299, R300, R440). -/
def State.dataCommitted (s : State) (p : Fin 16) (c : Closed) (slate : List Byte) : State :=
  countBatch p c (((commitOpen (dataProducer p) slate s).updSrc c.src fun k => { k with slateNo := satAdd k.slateNo 1 }).updPipe p (Pipe.committed slate c))

section
variable {p : Fin 16} {q : Fin 512} {o : OpenPkt} {slate sent : List Byte} {c : Closed} {s : State}

theorem State.dataCommitted_queues : (s.dataCommitted p c sent).qm.queues = (commitOpen (dataProducer p) sent s).qm.queues :=
  (queues_of_shelf (countBatch_shelf p c _)).trans rfl

theorem State.dataCommitted_gap : (s.dataCommitted p c sent).pipes[p].gap = false :=
  (gap_of_shelf (countBatch_shelf p c _) p).trans (congrArg Pipe.gap (modAt_get (commitOpen (dataProducer p) sent s).pipes p _))

theorem State.dataCommitted_slateNo (hqueue : queueOf s (dataProducer p) = some q) (hopen : s.qm.queues[q].openPkt = some o) :
    (s.dataCommitted p c sent).srcs[c.src].slateNo = satAdd s.srcs[c.src].slateNo 1 := by
  rw [State.dataCommitted, srcs_of_shelf (countBatch_shelf p c _)]
  refine (congrArg Source.slateNo (modAt_get (commitOpen (dataProducer p) sent s).srcs c.src _)).trans ?_
  rw [commitOpen_srcs _ hqueue hopen]

/-- A data packet whose bytes are written commits, with GAP after a loss, and then what is due settles (R300, R440). -/
theorem packetCommit_of_ready (hqueue : queueOf s (dataProducer p) = some q) (hopen : s.qm.queues[q].openPkt = some o)
    (hclosing : s.qm.producers[(dataProducer p)].closing = some slate) (hbuf : s.qm.producers[(dataProducer p)].buf = [])
    (hclosed : s.pipes[p].closed = some c) (hsent : sent = if s.pipes[p].gap then withGap slate else slate) :
    packetCommit (dataProducer p) s = settlePipe p (s.dataCommitted p c sent) := by
  have hready : (s.qm.producers[(dataProducer p)].buf.isEmpty
      && ((queueOf s (dataProducer p)).map fun q => s.qm.queues[q].openPkt.isSome) == some true) = true := by
    simp [-Fin.getElem_fin, hbuf, hqueue, hopen]
  have hlow : (dataProducer p).1 < 16 := by change p.1 % 32 < 16; omega
  have hp : Fin.ofNat 16 (dataProducer p).1 = p := Fin.ext (by change p.1 % 32 % 16 = p.1; omega)
  rw [packetCommit, if_pos hlow, hp, hsent]
  unfold commitData
  simp only [hclosing, hclosed, hready, Bool.not_true, Bool.false_eq_true, if_false]
  rfl

end

/-- Settles O27: the commit appends the packet, and what settles after it moves none. -/
theorem commitAppendsThePacket : Obligations.CommitAppendsThePacket := by
  intro p q o slate c s hreset hqueue hopen hclosing hbuf hclosed
  obtain ⟨sent, hsent⟩ : ∃ sent, sent = if s.pipes[p].gap then withGap slate else slate := ⟨_, rfl⟩
  have hcommit := packetCommit_of_ready hqueue hopen hclosing hbuf hclosed hsent
  have hshelf := settlePipe_shelf (nothingOpen_of_committed (t := s.dataCommitted p c sent) hqueue hopen State.dataCommitted_queues)
  rw [← hcommit] at hshelf
  have hqueues : (settlePause (packetCommit (dataProducer p) s)).qm.queues = (commitOpen (dataProducer p) sent s).qm.queues := by
    rw [settlePause_qm, queues_of_shelf hshelf, State.dataCommitted_queues]
  have hpool := commitOpen_pool sent hqueue hopen
  have hq := (chains_of_pool hpool q).trans (congrArg Queue.chains State.appended_queue)
  rw [← hqueues] at hq
  obtain ⟨-, hsrcs⟩ := settlePause_keeps (packetCommit (dataProducer p) s)
  refine ⟨_, o.packet sent s.coreTime, congrArg Host.Outcome.next (if_neg (Bool.eq_false_iff.mp hreset)), Queue.packets_of_chains hq, rfl, by rw [← hsent]; rfl,
    rfl, ?_, Queue.openPkt_of_chains hq, (Queue.commits_of_chains hq :), ?_, fun k hk => ?_⟩
  · rw [pipes_of_unsent (settlePause_unsent _), gap_of_shelf hshelf, State.dataCommitted_gap]
  · rw [hsrcs, srcs_of_shelf hshelf, State.dataCommitted_slateNo hqueue hopen]
  · rw [hqueues]
    exact Queue.packets_of_chains ((chains_of_pool hpool k).trans (congrArg Queue.chains (State.appended_queue_ne hk)))

end Sys2Proof.Machine
end

section
/-! The pool's own events and its registers (R430, R431, R442, R448 to R453): the return walker, credits, the XOFF pins, the patrol scrub, the cell
window and QPOP. -/

namespace Sys2Proof.Machine

open Sys2Proof Sys2Proof.Safety

/-! ### Lending while the stall store lends nothing -/

/-- The queue manager with its lending states set aside. -/
def QueueMgr.unlent (m : QueueMgr) : QueueMgr := { m with ondieLend := false, spilled := false, stallLend := false }

/-- While no stall lending is open there is none to close, so nothing is revoked: lending itself is all that settles (R432). -/
theorem lend_of_no_stall {s : State} (h : s.qm.stallLend = false) : (lend s).qm.unlent = s.qm.unlent := by
  have hondie (u : State) : (lendOnDie u).qm.unlent = u.qm.unlent := by
    unfold lendOnDie
    dsimp only
    (repeat' split) <;> rfl
  rw [lend, driveXoff_qm, hondie]
  simp only [lendStall, h, Bool.false_and, Bool.false_eq_true, if_false]
  split <;> rfl

section
variable {m n : QueueMgr} (h : m.unlent = n.unlent)
include h
theorem returning_of_unlent : m.returning = n.returning := (congrArg QueueMgr.returning h :)
theorem freeD_of_unlent : m.freeD = n.freeD := (congrArg QueueMgr.freeD h :)
theorem freeS_of_unlent : m.freeS = n.freeS := (congrArg QueueMgr.freeS h :)
theorem queues_of_unlent : m.queues = n.queues := (congrArg QueueMgr.queues h :)
theorem producers_of_unlent : m.producers = n.producers := (congrArg QueueMgr.producers h :)
theorem robin_of_unlent : m.robin = n.robin := (congrArg QueueMgr.robin h :)
end

/-! ### The return walker and credits -/

/-- The pool once up to n returning cells stand in their free lists (R430, R442). -/
def QueueMgr.walked (n : Nat) (m : QueueMgr) : QueueMgr :=
  { m with returning := m.returning.drop n, freeD := m.freeD + ((m.returning.take n).filter (· < onDieCells)).length
           freeS := m.freeS + 2 * ((m.returning.take n).filter (onDieCells ≤ ·)).length }

theorem returnWalked {s : State} (hreset : inReset .queues s = false) (hstall : s.qm.stallLend = false) :
    ∃ t, exec .returnWalk s = .next t ∧ t.qm.returning = s.qm.returning.drop 8
      ∧ t.qm.freeD = s.qm.freeD + ((s.qm.returning.take 8).filter (· < onDieCells)).length
      ∧ t.qm.freeS = s.qm.freeS + 2 * ((s.qm.returning.take 8).filter (onDieCells ≤ ·)).length ∧ t.qm.queues = s.qm.queues ∧ t.qm.producers = s.qm.producers := by
  have hlend : (lend (s.updQm (QueueMgr.walked 8))).qm.unlent = (s.qm.walked 8).unlent := lend_of_no_stall (s := s.updQm (QueueMgr.walked 8)) hstall
  have hwalk : (settlePause (walk 8 s)).qm.unlent = (s.qm.walked 8).unlent := by
    rw [settlePause_qm, walk, if_neg (Bool.eq_false_iff.mp hreset), ← hlend]
    rfl
  exact ⟨_, rfl, returning_of_unlent hwalk, freeD_of_unlent hwalk, freeS_of_unlent hwalk, (queues_of_unlent hwalk :), (producers_of_unlent hwalk :)⟩

/-- The producer that the round robin looks at first is granted its block when a source can grant it (R431). -/
theorem grantNext_of_first {s : State} {q : Fin 512} {src : CreditSrc} {rest : List (Fin 32)} (hreq : requests s s.qm.robin = true)
    (hqueue : queueOf s s.qm.robin = some q) (hsrc : grantSource s q = some src) :
    grantNext s (s.qm.robin :: rest) = grantBlock s.qm.robin src (s.updQm fun m => { m with robin := s.qm.robin + 1 }) := by
  simp only [grantNext, hreq, hqueue, hsrc, if_true]

theorem robinOrder_first (s : State) : ∃ rest, robinOrder s = s.qm.robin :: rest := by
  obtain ⟨rest, hrest⟩ : ∃ rest, List.finRange 32 = 0 :: rest := ⟨_, List.finRange_succ⟩
  exact ⟨_, by rw [robinOrder, hrest, List.map_cons, add_zero]⟩

/-- With no data producer waiting, no source overruns (R433). -/
theorem waitOverruns_of_none {s : State} (h : ∀ r : Fin 32, s.qm.producers[r].waiting = false) : waitOverruns s = s :=
  State.each_of_unchanged fun p => if_neg (Bool.eq_false_iff.mp (h (dataProducer p)))

/-- The pool once producer r has a block of 32 units from the reserve (R431). -/
def QueueMgr.granted (r : Fin 32) (m : QueueMgr) : QueueMgr :=
  { m with robin := r + 1, freeD := m.freeD - 32, producers := modAt m.producers r fun p => { p with credits := p.credits ++ [⟨.reserve, 32⟩], waiting := false } }

/-- CREDIT_GRANT from the reserve: 32 units to the producer whose turn it is (R431). -/
theorem creditGranted {s : State} {q : Fin 512} (hreset : inReset .queues s = false) (hstall : s.qm.stallLend = false)
    (hreq : requests s s.qm.robin = true) (hqueue : queueOf s s.qm.robin = some q) (hsrc : grantSource s q = some .reserve)
    (hwait : ∀ r : Fin 32, s.qm.producers[r].waiting = false) :
    ∃ t, exec .creditGrant s = .next t ∧ t.qm.producers[s.qm.robin].credits = s.qm.producers[s.qm.robin].credits ++ [⟨.reserve, 32⟩]
      ∧ t.qm.freeD = s.qm.freeD - 32 ∧ t.qm.robin = s.qm.robin + 1 ∧ t.qm.queues = s.qm.queues := by
  obtain ⟨rest, hrobin⟩ := robinOrder_first s
  have hgrant := grantNext_of_first (rest := rest) hreq hqueue hsrc
  rw [← hrobin] at hgrant
  have hlend : (grantNext s (robinOrder s)).qm.unlent = (s.qm.granted s.qm.robin).unlent := by
    rw [hgrant]
    exact lend_of_no_stall hstall
  have hproducer (r : Fin 32) : (grantNext s (robinOrder s)).qm.producers[r] = (s.qm.granted s.qm.robin).producers[r] := by
    rw [producers_of_unlent hlend]
  have hquiet (r : Fin 32) : (grantNext s (robinOrder s)).qm.producers[r].waiting = false := by
    rw [hproducer, QueueMgr.granted]
    by_cases hr : r = s.qm.robin
    · rw [hr, modAt_get]
    · rw [modAt_get_ne _ _ _ _ hr]
      exact hwait r
  refine ⟨_, congrArg Host.Outcome.next (if_neg (Bool.eq_false_iff.mp hreset)), ?_⟩
  rw [settlePause_qm, waitOverruns_of_none hquiet]
  exact ⟨by rw [hproducer, QueueMgr.granted, modAt_get], freeD_of_unlent hlend, robin_of_unlent hlend, (queues_of_unlent hlend :)⟩

/-! ### XOFF pins, scrub and cell window -/

/-- Driving the XOFF pins changes the pins alone (R447). -/
theorem driveXoff_frame (s : State) : driveXoff s = { s with pins := (driveXoff s).pins } := by
  unfold driveXoff
  split <;> rfl

theorem State.updXoff_xoff (s : State) (n : Fin 16) (f : Xoff → Xoff) : (s.updXoff n f).qm.xoff[n] = f s.qm.xoff[n] := modAt_get ..

theorem xoffMinEnded (n : Fin 16) (s : State) : ∃ t, exec (.xoffMinEnd n) s = .next t ∧ t.qm.xoff[n].minHold = false
    ∧ t.qm.xoff[n].cfg = s.qm.xoff[n].cfg ∧ t.qm.queues = s.qm.queues ∧ t = { s with qm := t.qm, pins := t.pins } := by
  have hxoff := s.updXoff_xoff n fun x => { x with minHold := false }
  refine ⟨_, rfl, ?_⟩
  rw [driveXoff_frame]
  exact ⟨(congrArg Xoff.minHold hxoff :), (congrArg Xoff.cfg hxoff :), rfl, rfl⟩

/-- The patrol scrub walks on over the on-die cells, and a cell it finds uncorrectable is poisoned in the packet that holds it (R453; log entry 58). -/
theorem patrolScrubbed {s : State} (hreset : inReset .queues s = false) :
    exec (.patrolScrub .none) s = .next { s with qm := { s.qm with scrub := (s.qm.scrub + 1) % 262144 } }
    ∧ exec (.patrolScrub .corrected) s = .next { s with qm := { s.qm with scrub := (s.qm.scrub + 1) % 262144, eccCorr := satInc s.qm.eccCorr } }
    ∧ ∃ t, exec (.patrolScrub .uncorrectable) s = .next t ∧ t.qm.scrub = (s.qm.scrub + 1) % 262144
        ∧ ∀ (q : Fin 512) (o : OpenPkt), t.qm.queues[q].openPkt = some o → ∀ c ∈ o.cells, c.index = s.qm.scrub → c.poison = true := by
  have hexec (flaw : CellFlaw) : exec (.patrolScrub flaw) s = .next (patrol flaw s) :=
    congrArg Host.Outcome.next (if_neg (Bool.eq_false_iff.mp hreset))
  refine ⟨hexec .none, hexec .corrected, _, hexec .uncorrectable, rfl, fun q o hopen c hc hindex => ?_⟩
  have hmap : (patrol .uncorrectable s).qm.queues[q].openPkt = s.qm.queues[q].openPkt.map fun o =>
      { o with cells := o.cells.map fun c => if c.index = s.qm.scrub then { c with poison := true } else c } :=
    congrArg Queue.openPkt (Vector.getElem_ofFn ..)
  obtain ⟨p, -, rfl⟩ := Option.map_eq_some_iff.mp (hmap.symm.trans hopen)
  obtain ⟨d, -, rfl⟩ := List.mem_map.mp hc
  split
  · rfl
  next hne => exact absurd (by simpa only [if_neg hne] using hindex) hne

/-- A snapshot of a cell changes nothing else of the pool (R450). -/
theorem snapshotCell_qm (s : State) : ∃ x, (snapshotCell s).qm = { s.qm with snap := some x } := by
  unfold snapshotCell
  dsimp only
  exact ⟨_, rfl⟩

theorem cellSnapshotTaken (w : By) {s : State} (hreset : inReset .queues s = false) :
    ∃ t, exec (.cellSnapshot w) s = .next t ∧ t.qm.snap.isSome = true ∧ t.qm.queues = s.qm.queues ∧ (s.qm.snap.isSome = true → t = s) := by
  refine ⟨_, congrArg Host.Outcome.next (if_neg (Bool.eq_false_iff.mp hreset)), ?_⟩
  by_cases hsnap : s.qm.snap.isSome = true
  · rw [ensureSnap, if_pos hsnap]
    exact ⟨hsnap, rfl, fun _ => rfl⟩
  · obtain ⟨x, hx⟩ := snapshotCell_qm s
    rw [ensureSnap, if_neg hsnap, hx]
    exact ⟨rfl, rfl, fun h => absurd h hsnap⟩

/-- Settles O28: the walker, the credits and the pool's other events, each by itself. -/
theorem cellPoolMoves : Obligations.CellPoolMoves :=
  ⟨fun _ hreset hstall => ⟨returnWalked hreset hstall, fun _ hreq hqueue hsrc hwait => creditGranted hreset hstall hreq hqueue hsrc hwait⟩,
    fun s => ⟨fun n => xoffMinEnded n s, patrolScrubbed, fun w => cellSnapshotTaken w⟩⟩

/-! ### The queue registers -/

section
variable {w : By} {v : Word} {s : State}

/-- An accepted write leaves what its object's effect leaves, but for MRAM's journal, the host ports, what is sent and the answer (R594). -/
theorem written_frame (who : By) (index sub : Nat) (o : Obj) (v : Val) (s : State) :
    written who index sub o v s = { o.apply v (spent o v s) with
      mram := (written who index sub o v s).mram, host := (written who index sub o v s).host, tx := (written who index sub o v s).tx
      reply := (written who index sub o v s).reply } := by
  unfold written noted
  split
  · rw [enter_frame]
    rfl
  · rfl

/-- An object whose writes are never journaled takes its write with no more than the answer (R594). -/
theorem written_of_unjournaled {who : By} {index sub : Nat} {o : Obj} {v : Val} (h : journaled o v s = false) :
    written who index sub o v s = (o.apply v s).answer .ok := by
  rw [written, noted, h, spent, h]
  rfl

/-- A release of one packet takes it from its queue, and its cells to the return walker (R429, R452). -/
theorem releasePacket_pool {q : Fin 512} {pkt : Packet} {rest : List Packet} (h : s.qm.queues[q].packets = pkt :: rest) :
    (releasePacket q s).pool = (handBack pkt.cells (s.updQueue q fun k => { k with packets := rest })).pool := by
  simp only [releasePacket, h, settleQueue_pool]

theorem qpopped {q : Fin 512} {pkt : Packet} {rest : List Packet} (hone : v = 1) (hpackets : s.qm.queues[q].packets = pkt :: rest)
    (hacc : Accepted w (0x601E + q.1 / 256) (q.1 % 256) (.queue q .qpop) (.num v.toNat) s) :
    ∃ t, exec (.qpop w q v) s = .next t ∧ t.qm.queues[q].packets = rest ∧ t.qm.returning = s.qm.returning ++ pkt.cells.map (·.index)
      ∧ t.qm.queues[q].openPkt = s.qm.queues[q].openPkt ∧ t.mram = s.mram := by
  have happly : Obj.apply (.queue q .qpop) (.num v.toNat) s = settlePause (releasePacket q s) := by subst hone; rfl
  have hpool : (settlePause (releasePacket q s)).pool = _ := (settlePause_pool _).trans (releasePacket_pool hpackets)
  have hq := (chains_of_pool hpool q).trans (congrArg Queue.chains (modAt_get s.qm.queues q _))
  refine ⟨_, (exec_registerRow s rfl).trans (congrArg Host.Outcome.next (regWrite_of_accepted hacc (by intro h; cases h) (by intro h; cases h.1))), ?_⟩
  rw [written_of_unjournaled rfl, happly]
  refine ⟨Queue.packets_of_chains hq, returning_of_pool hpool, (Queue.openPkt_of_chains hq :), ?_⟩
  have hmram : (releasePacket q s).mram = s.mram := by
    simp only [releasePacket, hpackets]
    exact mram_of_unpooled (t := settleQueue q _) (settleQueue_unpooled q _)
  exact (congrArg State.mram (settlePause_unsent (releasePacket q s)) :).trans hmram

theorem cellSelected (hacc : Accepted w 0x6120 1 (.pool .cellSel) (.num v.toNat) s) :
    ∃ t, exec (.cellSelect w v) s = .next t ∧ t.qm.cellSel = v ∧ t.qm.snap = none ∧ t.qm.queues = s.qm.queues ∧ t.mram = s.mram := by
  refine ⟨_, (exec_registerRow s rfl).trans (congrArg Host.Outcome.next (regWrite_of_accepted hacc (by intro h; cases h) (by intro h; cases h.1))), ?_⟩
  rw [written_of_unjournaled rfl]
  have hqm : ((Obj.apply (.pool .cellSel) (.num v.toNat) s).answer .ok).qm = { s.qm with cellSel := v, snap := none } := by
    refine (settlePause_qm _).trans ?_
    exact congrArg (fun x : Word => { s.qm with cellSel := x, snap := none }) (BitVec.ofNat_toNat 32 v ▸ BitVec.setWidth_eq v)
  rw [hqm]
  exact ⟨rfl, rfl, rfl, (congrArg State.mram (settlePause_unsent _) :)⟩

/-- XOFFCFG takes the bits it has (R448). -/
theorem write_xoffcfg_qm (n : Fin 16) (x : Val) (s : State) : (PoolReg.write (.xoffcfg n) x s).qm
    = (s.updXoff n fun k => { k with cfg := x.word &&& maskOf 31 30, minHold := k.minHold && bitAt x.word 31 }).qm := by
  simp only [PoolReg.write]
  split
  · exact driveXoff_qm _
  · split <;> rfl

/-- What an accepted write of XOFFCFG leaves of the pool. -/
theorem xoffcfgWritten {n : Fin 16} {x : Val} (hacc : Accepted w 0x6110 (1 + n.1) (.pool (.xoffcfg n)) x s) :
    (regWrite w 0x6110 (1 + n.1) x s).qm
      = (s.updXoff n fun k => { k with cfg := x.word &&& maskOf 31 30, minHold := k.minHold && bitAt x.word 31 }).qm := by
  rw [regWrite_of_accepted hacc (by intro h; cases h) (by intro h; cases h.1), written_frame]
  refine (settlePause_qm _).trans ((write_xoffcfg_qm n x _).trans ?_)
  rw [spent_frame]
  rfl

theorem xoffEnabled {n : Fin 16} (hacc : Accepted w 0x6110 (1 + n.1) (.pool (.xoffcfg n)) (.num (v ||| 0x80000000#32).toNat) s) :
    ∃ t, exec (.xoffEnable w n v) s = .next t ∧ bitAt t.qm.xoff[n].cfg 31 = true ∧ bitAt t.qm.xoff[n].cfg 30 = bitAt v 30 ∧ t.qm.queues = s.qm.queues := by
  refine ⟨_, exec_registerRow s rfl, ?_⟩
  rw [xoffcfgWritten hacc]
  refine ⟨?_, ?_, rfl⟩
  · rw [State.updXoff_xoff]
    simp [bitAt, Val.word, Val.toNat, maskOf, place]
  · rw [State.updXoff_xoff]
    simp [bitAt, Val.word, Val.toNat, maskOf, place]

theorem xoffDisabled {n : Fin 16} (hacc : Accepted w 0x6110 (1 + n.1) (.pool (.xoffcfg n)) (.num (v &&& 0x7FFFFFFF#32).toNat) s) :
    ∃ t, exec (.xoffDisable w n v) s = .next t ∧ bitAt t.qm.xoff[n].cfg 31 = false ∧ t.qm.xoff[n].minHold = false
      ∧ (bitAt s.qm.xoff[n].cfg 31 = true → t.pins.xoff[n] = xoffCold s) := by
  have hoff : bitAt (Val.num (v &&& 0x7FFFFFFF#32).toNat).word 31 = false := by simp [bitAt, Val.word, Val.toNat]
  refine ⟨_, exec_registerRow s rfl, ?_, ?_, fun hwas => ?_⟩
  · rw [xoffcfgWritten hacc, State.updXoff_xoff]
    simp [bitAt, Val.word, Val.toNat]
  · rw [xoffcfgWritten hacc, State.updXoff_xoff, hoff, Bool.and_false]
  · rw [regWrite_of_accepted hacc (by intro h; cases h) (by intro h; cases h.1), written_frame]
    refine (congrArg (fun p : Pins => p.xoff[n]) (settlePause_pins _)).trans ?_
    rw [spent_frame]
    simp only [PoolReg.write, hoff, hwas, if_true, Bool.false_eq_true, if_false]
    exact modAt_get ..

end

/-- Settles O29: each register's effect, with what an accepted write leaves beside it. -/
theorem queueRegisters : Obligations.QueueRegisters :=
  fun _ _ _ => ⟨fun _ _ _ hone hpackets hacc => qpopped hone hpackets hacc, cellSelected, fun _ => xoffEnabled, fun _ => xoffDisabled⟩

end Sys2Proof.Machine
end

section
/-! The fault log's records and the test access port: what moving a record, and what loading an instruction into the port, leaves. -/

namespace Sys2Proof.Machine

open Sys2Proof Sys2Proof.Safety

/-! ### Fault records -/

theorem moveRecord_of_running {s : State} {r : FaultRec} {rest : List FaultRec} (hfw : firmwareRuns s = true) (hq : s.faults.queue = r :: rest) :
    moveRecord s = logFault r { s with faults := { s.faults with queue := rest } } := by
  simp [moveRecord, hfw, hq]

/-- Moving a record into the log leaves the hardware queue, the count of lost records and the MRAM. -/
theorem logFault_keeps (r : FaultRec) (s : State) :
    (logFault r s).faults.queue = s.faults.queue ∧ (logFault r s).faults.lost = s.faults.lost ∧ (logFault r s).mram = s.mram := by
  rcases logFault_cases r s with ⟨e, rest, -, -, -, -, -, h⟩ | ⟨log, h, -⟩ <;> rw [h]
  · exact ⟨rfl, rfl, rfl⟩
  · rw [deviceVector_frame]
    exact ⟨rfl, rfl, rfl⟩

/-- A record that names another fault than the newest entry makes a new entry (R630). -/
theorem logFault_of_differing {r : FaultRec} {s : State}
    (hdiff : ∀ e l, s.faults.log = e :: l → ¬ (e.record.code = r.code ∧ e.record.cls = r.cls ∧ e.record.index = r.index)) :
    (logFault r s).faults.head = s.faults.head + 1
      ∧ ∃ e, (logFault r s).faults.log.head? = some e ∧ e.record = r ∧ e.seq = s.faults.head + 1 ∧ e.count = 1 := by
  rcases logFault_cases r s with ⟨e, rest, hlog, hcode, hcls, hindex, -⟩ | ⟨log, h, hnew⟩
  · exact absurd ⟨hcode, hcls, hindex⟩ (hdiff e rest hlog)
  · rw [h, deviceVector_frame, hnew]
    exact ⟨rfl, _, rfl, rfl, rfl, rfl⟩

/-- A record that names the newest entry's fault within 1 ms is counted there (R630). -/
theorem logFault_of_repeated {r : FaultRec} {s : State} {e : FaultEntry} {l : List FaultEntry} (hlog : s.faults.log = e :: l)
    (hcode : e.record.code = r.code) (hcls : e.record.cls = r.cls) (hindex : e.record.index = r.index) (hnear : s.coreTime < e.made + clkMs) :
    logFault r s = { s with faults := { s.faults with log := { e with count := satInc e.count } :: l } } := by
  simp [logFault, hlog, hcode, hcls, hindex, hnear]

/-- Settles O13: the record moved is the oldest one of the queue, and the log merges it with the newest entry or begins a new one. -/
theorem faultRecordsMoveInOrder : Obligations.FaultRecordsMoveInOrder := by
  unfold Obligations.FaultRecordsMoveInOrder
  intro r rest s hfw hq
  obtain ⟨hqueue, hlost, hmram⟩ := logFault_keeps r { s with faults := { s.faults with queue := rest } }
  refine ⟨_, congrArg Host.Outcome.next (moveRecord_of_running hfw hq), hqueue, hlost, logFault_fuses _ _, hmram,
    fun hdiff => logFault_of_differing (s := { s with faults := { s.faults with queue := rest } }) hdiff, ?_⟩
  intro e l hlog hcode hcls hindex hnear
  rw [logFault_of_repeated (s := { s with faults := { s.faults with queue := rest } }) hlog hcode hcls hindex hnear]
  exact ⟨rfl, rfl⟩

/-! ### The test access port -/

theorem tap_of_released {s : State} (act : State → State) (h : s.pins.trstN = true) : tap act s = act s := by simp [tap, h]

theorem tap_of_reset {s : State} (act : State → State) (h : s.pins.trstN = false) : tap act s = s := by simp [tap, h]

/-- The DEBUG reset at level 0 over a running device leaves level 0 in force, held by DEBUG alone, with the MRAM kept (R85, R620). -/
theorem debugReset_of_level_zero {s : State} (hlevel : s.rst.level = none) (hmap : mappedLevel s 0 = 0) :
    (debugReset s).rst.level = some 0 ∧ (debugReset s).rst.held = [.debug] ∧ (debugReset s).mram = s.mram := by
  simp [debugReset, hmap, assertReset, hlevel, startReset, applyLevel, coldReset, coldPins, cold33, cold18]

/-- While TRST_N is high the instructions act as their codes say, and those that are withheld act as BYPASS (R620, R621). -/
theorem tap_instructions {s : State} (h : s.pins.trstN = true) :
    (s.sec.tapOpen = false → ∀ code : BitVec 8,
        exec .jtagExtest s = exec .jtagBypass s ∧ exec .jtagClamp s = exec .jtagBypass s ∧ exec (.jtagProcDebug code) s = exec .jtagBypass s)
      ∧ (s.sec.resetOk = false → exec .jtagDbgReset s = exec .jtagBypass s)
      ∧ (s.sec.tapOpen = true → exec .jtagExtest s = .next { s with pins := { s.pins with extest := true, clamp := false } }
          ∧ exec .jtagClamp s = .next { s with pins := { s.pins with extest := false, clamp := true }, tx := s.tx ++ [.tdo 0] }) := by
  refine ⟨fun hlocked code => ⟨?_, ?_, ?_⟩, fun hno => ?_, fun hopen => ⟨?_, ?_⟩⟩
  · simp [exec, execJtagExtest, execJtagBypass, tap_of_released _ h, hlocked]
  · simp [exec, execJtagClamp, execJtagBypass, tap_of_released _ h, hlocked]
  · simp [exec, execJtagProcDebug, execJtagBypass, hlocked]
  · simp [exec, execJtagDbgReset, execJtagBypass, tap_of_released _ h, hno]
  · simp [exec, execJtagExtest, tap_of_released _ h, hopen, tapLoad, State.updPins]
  · simp [exec, execJtagClamp, tap_of_released _ h, hopen, tapLoad, State.updPins, State.send]

/-- The DEBUG reset that a token permits is asserted through the port (R620). -/
theorem exec_jtagDbgReset_of_granted {s : State} (h : s.pins.trstN = true) (hok : s.sec.resetOk = true) :
    exec .jtagDbgReset s = .next (debugReset (tapLoad false false s)) := by
  simp [exec, execJtagDbgReset, tap_of_released _ h, hok]

/-- Settles O14: each instruction is what the port does while TRST_N is high, and nothing while it is low. -/
theorem testAccessPort : Obligations.TestAccessPort := by
  unfold Obligations.TestAccessPort
  refine ⟨fun s h => ?_, fun s h => ?_, fun code s h hopen => ⟨fun hlo hhi => ?_, fun hout => ?_⟩⟩
  · obtain ⟨hlocked, hbarred, hopen⟩ := tap_instructions h
    refine ⟨hlocked, hbarred, congrArg Host.Outcome.next (tap_of_released _ h), congrArg Host.Outcome.next (tap_of_released _ h),
      congrArg Host.Outcome.next (tap_of_released _ h), fun load pins => congrArg Host.Outcome.next (tap_of_released _ h), hopen, ?_⟩
    intro hok hlevel hmap
    obtain ⟨hzero, hheld, hmram⟩ := debugReset_of_level_zero (s := tapLoad false false s) hlevel hmap
    exact ⟨_, exec_jtagDbgReset_of_granted h hok, hzero, hheld, by simp [tapLoad], hmram⟩
  · have hnext (act : State → State) : Host.Outcome.next (tap act s) = (Host.Outcome.next s : Host.Outcome State Fault Refusal) :=
      congrArg Host.Outcome.next (tap_of_reset act h)
    refine ⟨hnext _, hnext _, hnext _, hnext _, hnext _, hnext _, fun _ _ => hnext _, fun _ => hnext _, fun code => ?_⟩
    simp [exec, execJtagProcDebug, h, tap_of_reset]
  · simp [exec, execJtagProcDebug, h, hopen, hlo, hhi]
  · simp only [exec, execJtagProcDebug, execJtagBypass, h, hopen, decide_eq_false hout]
    rfl

end Sys2Proof.Machine
end

section
/-! The management ports: link changes, leases and link-local addresses, and what the PTP engine learns. -/

namespace Sys2Proof.Machine

open Sys2Proof Sys2Proof.Safety

/-! ### Parts that an operation leaves -/

@[simp] theorem driveTxdis_mgt (m : Fin 2) (s : State) : (driveTxdis m s).mgt = s.mgt := by
  unfold driveTxdis
  split <;> rfl

@[simp] theorem driveTxdis_mram (m : Fin 2) (s : State) : (driveTxdis m s).mram = s.mram := by
  unfold driveTxdis
  split <;> rfl

@[simp] theorem settlePtp_mgt (s : State) : (settlePtp s).mgt = s.mgt := rfl

@[simp] theorem settlePtp_mram (s : State) : (settlePtp s).mram = s.mram := rfl

/-- Port m differs in its address, and every other port and the MRAM stay. -/
def readdressed (m : Fin 2) (t s : State) : Prop :=
  (∃ g : Mgt, t.mgt[m] = { s.mgt[m] with addrNow := g.addrNow, linkLocal := g.linkLocal, dhcpWait := g.dhcpWait })
    ∧ (∀ k, k ≠ m → t.mgt[k] = s.mgt[k]) ∧ t.mram = s.mram

theorem readdressed.rfl {m : Fin 2} {s : State} : readdressed m s s := ⟨⟨s.mgt[m], Eq.refl _⟩, fun _ _ => Eq.refl _, Eq.refl _⟩

/-- An update of a port's address touches that port alone. -/
theorem readdressed_updMgt {m : Fin 2} {f : Mgt → Mgt} {s : State}
    (hf : ∀ g, f g = { g with addrNow := (f g).addrNow, linkLocal := (f g).linkLocal, dhcpWait := (f g).dhcpWait }) :
    readdressed m (s.updMgt m f) s :=
  ⟨⟨f s.mgt[m], (modAt_get s.mgt m f).trans (hf _)⟩, fun _ hk => modAt_get_ne s.mgt m _ f hk, rfl⟩

/-- Firmware's choice of an address at link up (R589). -/
theorem takeAddress_readdresses (m : Fin 2) (s : State) : readdressed m (takeAddress m s) s := by
  unfold takeAddress
  dsimp only
  split
  · exact readdressed_updMgt fun _ => rfl
  · split
    · exact readdressed_updMgt (s := s.drawNat.2) fun _ => rfl
    · exact readdressed_updMgt fun _ => rfl

/-- The boot request of one port gives it an address if it has none (R589, R592). -/
theorem bootRound_readdresses (m : Fin 2) (s : State) : readdressed m (bootRound [m] s) s := by
  unfold bootRound bootRequest
  simp only [List.isEmpty_cons, Bool.false_eq_true, if_false, State.each, List.foldl_cons, List.foldl_nil]
  split
  · exact readdressed_updMgt (s := s.drawNat.2) fun _ => rfl
  · exact readdressed.rfl

/-! ### Link changes -/

/-- The port's module pins, followed at once. -/
def modulePins (m : Fin 2) (present los : Bool) (s : State) : State := s.updMgt m fun g => { g with present := present, los := los }

/-- The link of a port out of reset as its new level leaves it, before an address is taken. -/
def linkLevel (m : Fin 2) (present los on : Bool) (s : State) : State :=
  let t := driveTxdis m (modulePins m present los s)
  if on then settlePtp (t.updMgt m fun g => { g with link := true })
  else settlePtp (t.updMgt m fun g => { g with link := false, addrNow := 0, linkLocal := false, dhcpWait := false })

/-- What a link change of a port out of reset leaves: its level, and for a link that has come up an address (R589, R592). -/
theorem linkChange_cases {m : Fin 2} (present los up : Bool) {s : State} (hreset : inReset (.mgt m) s = false) :
    ∃ on, on = (up && present && ! los && bitAt s.mgt[m].ctl 31)
      ∧ (linkChange m present los up s = linkLevel m present los on s
        ∨ (on = true ∧ (linkChange m present los up s = takeAddress m (linkLevel m present los on s)
            ∨ linkChange m present los up s = bootRound [m] (linkLevel m present los on s)))) := by
  have hreset' : inReset (.mgt m) (modulePins m present los s) = false := hreset
  have hctl : (modulePins m present los s).mgt[m].ctl = s.mgt[m].ctl := by simp [modulePins, -Fin.getElem_fin]
  refine ⟨_, rfl, ?_⟩
  unfold linkChange
  dsimp only
  rw [← modulePins, hreset', if_neg Bool.false_ne_true, hctl]
  generalize hon : (up && present && ! los && bitAt s.mgt[m].ctl 31) = on
  cases on
  case false => exact .inl rfl
  case true =>
    rw [← show linkLevel m present los true s = _ from rfl]
    simp only [Bool.not_true, Bool.false_eq_true, if_false]
    split
    · exact .inl rfl
    · split
      · exact .inr ⟨trivial, .inl rfl⟩
      · split
        · exact .inr ⟨trivial, .inr rfl⟩
        · exact .inl rfl

/-- The level of a port's link, with its pins and control kept and no address on a link that is down (R589, R600). -/
theorem linkLevel_mgt (m : Fin 2) (present los on : Bool) (s : State) :
    (linkLevel m present los on s).mgt[m].link = on ∧ (linkLevel m present los on s).mgt[m].present = present
      ∧ (linkLevel m present los on s).mgt[m].los = los ∧ (linkLevel m present los on s).mgt[m].ctl = s.mgt[m].ctl
      ∧ (on = false → (linkLevel m present los on s).mgt[m].addrNow = 0)
      ∧ (∀ k, k ≠ m → (linkLevel m present los on s).mgt[k] = s.mgt[k]) ∧ (linkLevel m present los on s).mram = s.mram := by
  cases on <;>
    simp +contextual [linkLevel, modulePins, State.updMgt, modAt_get_ne, -Fin.getElem_fin]

/-- A port out of reset is up exactly while enabled, present and with LOS low; its pins are followed and no other port changes (R589, R600). -/
theorem linkChange_follows (m : Fin 2) (present los up : Bool) {s : State} (hreset : inReset (.mgt m) s = false) :
    ∃ t, t = linkChange m present los up s ∧ t.mgt[m].link = (up && present && ! los && bitAt s.mgt[m].ctl 31) ∧ t.mgt[m].present = present
      ∧ t.mgt[m].los = los ∧ t.mgt[m].ctl = s.mgt[m].ctl ∧ (t.mgt[m].link = false → t.mgt[m].addrNow = 0) ∧ (∀ k, k ≠ m → t.mgt[k] = s.mgt[k])
      ∧ t.mram = s.mram := by
  obtain ⟨on, hon, hcases⟩ := linkChange_cases present los up hreset
  obtain ⟨hlink, hpresent, hlos, hctl, haddr, hother, hmram⟩ := linkLevel_mgt m present los on s
  refine ⟨_, rfl, ?_⟩
  rw [← hon]
  rcases hcases with h | ⟨htrue, h⟩
  · rw [h]
    exact ⟨hlink, hpresent, hlos, hctl, fun hdown => haddr (hlink ▸ hdown), hother, hmram⟩
  · have hre : readdressed m (linkChange m present los up s) (linkLevel m present los on s) := by
      rcases h with h | h <;> rw [h]
      · exact takeAddress_readdresses m _
      · exact bootRound_readdresses m _
    obtain ⟨⟨g, hg⟩, hkept, hsame⟩ := hre
    rw [hg]
    refine ⟨hlink, hpresent, hlos, hctl, fun hdown => ?_, fun k hk => (hkept k hk).trans (hother k hk), hsame.trans hmram⟩
    exact absurd (hlink.symm.trans hdown) (by simp [htrue])

/-! ### Addresses -/

/-- The lease of a port that waits for one (R589). -/
theorem lease_of_waiting {m : Fin 2} (addr : Word) {s : State} (hfw : firmwareRuns s = true) (hwait : s.mgt[m].dhcpWait = true)
    (hlink : s.mgt[m].link = true) (hreset : inReset (.mgt m) s = false) (hdhcp : bitAt s.mgt[m].ctl 30 = true) :
    lease m addr s = s.updMgt m fun g => { g with addrNow := addr, linkLocal := false, dhcpWait := false } := by
  simp [lease, hfw, hwait, hlink, hreset, hdhcp, -Fin.getElem_fin]

/-- A link-local address lies in 169.254.1.0 to 169.254.254.255, and no other port changes (R589). -/
theorem linkLocal_range (m : Fin 2) (s : State) :
    (linkLocal m s).mgt[m].linkLocal = true ∧ (linkLocal m s).mgt[m].dhcpWait = false ∧ 0xA9FE0100 ≤ (linkLocal m s).mgt[m].addrNow.toNat
      ∧ (linkLocal m s).mgt[m].addrNow.toNat ≤ 0xA9FEFEFF ∧ (∀ k, k ≠ m → (linkLocal m s).mgt[k] = s.mgt[k])
      ∧ (linkLocal m s).mgt[m].ctl = s.mgt[m].ctl := by
  have hmod : ∀ x : Nat, x % 65024 < 65024 := fun x => Nat.mod_lt _ (by decide)
  have hx := hmod s.drawNat.1
  have hget := modAt_get s.mgt m fun g =>
    { g with addrNow := BitVec.ofNat 32 (169 * 2 ^ 24 + 254 * 2 ^ 16 + 256 + s.drawNat.1 % 65024), linkLocal := true, dhcpWait := false }
  have hm : (linkLocal m s).mgt[m] = _ := hget
  rw [hm]
  refine ⟨rfl, rfl, ?_, ?_, fun k hk => modAt_get_ne s.mgt m _ _ hk, rfl⟩ <;> simp only [BitVec.toNat_ofNat] <;> omega

/-! ### PTP -/

/-- A state that the engine takes is its port's, and the rest of the clock but its lock stays (R590, R601). -/
theorem settlePtp_state {m : Fin 2} {s : State} (hport : ptpPort s m = true) (st : Fin 8) :
    (settlePtp { s with ptp := { s.ptp with state := s.ptp.state.set m.1 st m.2 } }).ptp.state[m] = st := by
  have hport' : ptpPort { s with ptp := { s.ptp with state := s.ptp.state.set m.1 st m.2 } } m = true := hport
  simp [settlePtp, hport']

/-- A measurement of the servo changes neither the ports' states nor the times held, nor the management ports (R601). -/
theorem servo_ports (offset : Int) (s : State) :
    (servo offset s).ptp.state = s.ptp.state ∧ (servo offset s).ptp.stamps = s.ptp.stamps ∧ (servo offset s).mgt = s.mgt := by
  simp [servo, setPtp, apply_ite State.ptp, apply_ite State.mgt, apply_ite Ptp.state, apply_ite Ptp.stamps]

theorem openQuot_ports (a : Int) (b : Nat) (s : State) :
    (openQuot a b s).2.ptp = s.ptp ∧ (openQuot a b s).2.mgt = s.mgt := by
  unfold openQuot
  split <;> exact ⟨rfl, rfl⟩

/-- The state once the times that port m holds are gone. -/
def stampsSpent (m : Fin 2) (s : State) : State := { s with ptp := { s.ptp with stamps := s.ptp.stamps.set m.1 none m.2 } }

theorem ptpLearns_delay {m : Fin 2} {s : State} (hport : ptpPort s m = true) {t1 t2 : Int} (t3 t4 : Int) (hheld : s.ptp.stamps[m] = some (t1, t2)) :
    ptpLearns m (.delay t3 t4) s = if s.ptp.state[m] = 3 ∧ s.pins.clkm.toNat < 2 then
        servo (openQuot ((t2 - t1) - (t4 - t3)) 2 (stampsSpent m s)).1 (openQuot ((t2 - t1) - (t4 - t3)) 2 (stampsSpent m s)).2
      else stampsSpent m s := by
  simp only [ptpLearns, hport, hheld]
  rfl

/-- The last times of an exchange end it, and leave the ports as they are (R590, R601). -/
theorem ptpLearns_delay_ends {m : Fin 2} {s : State} (hport : ptpPort s m = true) {t1 t2 : Int} (t3 t4 : Int)
    (hheld : s.ptp.stamps[m] = some (t1, t2)) :
    (ptpLearns m (.delay t3 t4) s).ptp.stamps[m] = none ∧ (ptpLearns m (.delay t3 t4) s).ptp.state = s.ptp.state
      ∧ (ptpLearns m (.delay t3 t4) s).mgt = s.mgt := by
  have hspent : (stampsSpent m s).ptp.stamps[m] = none := by simp [stampsSpent]
  rw [ptpLearns_delay hport t3 t4 hheld]
  split
  · obtain ⟨hstate, hstamps, hmgt⟩ := servo_ports (openQuot ((t2 - t1) - (t4 - t3)) 2 (stampsSpent m s)).1
      (openQuot ((t2 - t1) - (t4 - t3)) 2 (stampsSpent m s)).2
    obtain ⟨hptp, hmgt'⟩ := openQuot_ports ((t2 - t1) - (t4 - t3)) 2 (stampsSpent m s)
    rw [hstate, hmgt, hptp, hmgt']
    exact ⟨by simp only [hstamps, hptp, hspent], rfl, rfl⟩
  · exact ⟨hspent, rfl, rfl⟩

theorem ptpLearns_state {m : Fin 2} {s : State} (hport : ptpPort s m = true) {st : Fin 8} (hle : st.1 ≤ 5)
    (hmaster : ¬ (st = 4 ∧ bitAt s.ptp.ctl 29 = true)) :
    ptpLearns m (.state st) s = settlePtp { s with ptp := { s.ptp with state := s.ptp.state.set m.1 st m.2 } } := by
  simp only [ptpLearns, hport, Bool.not_true, Bool.false_eq_true, if_false]
  exact if_neg (not_or_intro (by omega) hmaster)

/-- Settles O12: what a link change, a lease or a time-out, and a PTP message do to their port. -/
theorem managementPortsAndPtp : Obligations.ManagementPortsAndPtp := by
  unfold Obligations.ManagementPortsAndPtp
  refine ⟨fun m present los up s hreset => ?_, fun m addr mask gw s hfw hwait => ⟨fun hlink hreset hdhcp => ?_, ?_⟩,
    fun m s hport => ⟨fun st hle hmaster => ?_, fun t1 t2 => ?_, fun t1 t2 t3 t4 hheld => ?_, fun hslave => ?_⟩⟩
  · obtain ⟨t, rfl, hlink, hpresent, hlos, hctl, haddr, hother, hmram⟩ := linkChange_follows m present los up hreset
    exact ⟨_, rfl, hlink, hpresent, hlos, hctl, haddr, hother, linkChange_fuses m present los up s, hmram⟩
  · exact congrArg Host.Outcome.next (lease_of_waiting addr hfw hwait hlink hreset hdhcp)
  · refine ⟨linkLocal m s, ?_, linkLocal_range m s⟩
    simp [exec, execDhcpTimeout, hwait, hfw, -Fin.getElem_fin]
  · exact ⟨_, congrArg Host.Outcome.next (ptpLearns_state hport hle hmaster), settlePtp_state hport st, rfl, rfl, rfl, rfl, rfl⟩
  · simp [exec, execPtpMessage, ptpLearns, hport]
  · obtain ⟨hstamps, hstate, hmgt⟩ := ptpLearns_delay_ends hport t3 t4 hheld
    refine ⟨_, rfl, hstamps, hstate, hmgt, fun hidle => ?_⟩
    rw [ptpLearns_delay hport t3 t4 hheld, if_neg (by omega)]
    rfl
  · simp [exec, execPtpMessage, ptpLearns, hport, hslave]

end Sys2Proof.Machine
end

section
/-! Motion: the chopper's cycle, the steps of a leg and its end, and the inputs of an axis. -/

namespace Sys2Proof.Machine

open Sys2Proof Sys2Proof.Safety

/-! ### The chopper -/

/-- A phase changed is that phase alone, with the gates driven to it. -/
theorem updPhase_changes (a : Fin 8) (p : Fin 2) (f : Phase → Phase) (s : State) :
    (updPhase a p f s).axes[a].phases[p] = f s.axes[a].phases[p]
      ∧ updPhase a p f s = { s with axes := (updPhase a p f s).axes, pins := (updPhase a p f s).pins }
      ∧ ∀ b, b ≠ a → (updPhase a p f s).axes[b] = s.axes[b] := by
  refine ⟨?_, rfl, fun b hb => modAt_get_ne s.axes a b _ hb⟩
  simp [updPhase, driveGates, State.updPins, -Fin.getElem_fin]

/-- No event of the cycle acts on an axis whose chopper stands (R555). -/
theorem chop_of_standing {a : Fin 8} {s : State} (h : chopping a s = false) (p : Fin 2) (sense : Nat) :
    chopMaskEnd a p sense s = s ∧ chopCeiling a p s = s ∧ fastDecayEnd a p s = s ∧ chopDecayEnd a p s = s := by
  simp [chopMaskEnd, chopCeiling, fastDecayEnd, chopDecayEnd, h]

theorem chopMaskEnd_of_mask {a : Fin 8} {p : Fin 2} {s : State} (h : chopping a s = true) (hst : s.axes[a].phases[p].st = .mask) (sense : Nat) :
    chopMaskEnd a p sense s = updPhase a p (fun k =>
      { k with low := decide (sense < s.axes[a].floor p)
               st := if sense < s.axes[a].ceiling p then .drive else if fld k.time 22 14 = 0 then .slow else .fast }) s := by
  simp [chopMaskEnd, h, hst, -Fin.getElem_fin]

theorem chopCeiling_of_drive {a : Fin 8} {p : Fin 2} {s : State} (h : chopping a s = true) (hst : s.axes[a].phases[p].st = .drive) :
    chopCeiling a p s = updPhase a p (fun k => { k with st := if fld k.time 22 14 = 0 then .slow else .fast }) s := by
  simp [chopCeiling, h, hst, -Fin.getElem_fin]

theorem fastDecayEnd_of_fast {a : Fin 8} {p : Fin 2} {s : State} (h : chopping a s = true) (hst : s.axes[a].phases[p].st = .fast) :
    fastDecayEnd a p s = updPhase a p (fun k => { k with st := .slow }) s := by
  simp [fastDecayEnd, h, hst, -Fin.getElem_fin]

theorem chopDecayEnd_of_slow {a : Fin 8} {p : Fin 2} {s : State} (h : chopping a s = true) (hst : s.axes[a].phases[p].st = .slow)
    (hw : s.axes[a].phases[p].w ≠ 0) :
    chopDecayEnd a p s = updPhase a p (fun k =>
      { k with st := .mask, time := s.axes[a].choptime
               band := if bitAt s.axes[a].curNow 31 then (if k.low then min (fld s.axes[a].curNow 7 0) (k.band + 1)
                 else min (fld s.axes[a].curNow 7 0) (k.band - 1)) else k.band }) s := by
  simp [chopDecayEnd, h, hst, hw, -Fin.getElem_fin]

/-- Of each leg of a phase at most one gate is on (R76, R553). -/
theorem Phase.gates_of_leg (k : Phase) : ¬ (0 ∈ k.gates ∧ 1 ∈ k.gates) ∧ ¬ (2 ∈ k.gates ∧ 3 ∈ k.gates) := by
  unfold Phase.gates
  cases k.st <;> cases k.pos <;> decide

/-- Settles O48: each event of the cycle, in the part of the cycle it ends, changes its phase as R551 and R552 say. -/
theorem chopperCycle : Obligations.ChopperCycle := by
  unfold Obligations.ChopperCycle
  rintro a p x k s rfl rfl
  refine ⟨fun hstand sense => ?_, fun hrun => ⟨fun sense hst => ?_, fun hst => ?_, fun hst => ?_, fun hst hw => ?_⟩, Phase.gates_of_leg _⟩
  · obtain ⟨hmask, hceiling, hfast, hdecay⟩ := chop_of_standing hstand p sense
    exact ⟨congrArg Host.Outcome.next hmask, congrArg Host.Outcome.next hceiling, congrArg Host.Outcome.next hfast,
      congrArg Host.Outcome.next hdecay⟩
  · refine ⟨_, congrArg Host.Outcome.next (chopMaskEnd_of_mask hrun hst sense), ?_⟩
    obtain ⟨hphase, hframe⟩ := updPhase_changes a p (fun k => { k with
      low := decide (sense < s.axes[a].floor p)
      st := if sense < s.axes[a].ceiling p then .drive else if fld k.time 22 14 = 0 then .slow else .fast }) s
    rw [hphase]
    exact ⟨rfl, fun hlow => if_pos hlow, fun hhigh => if_neg (Nat.not_lt.mpr hhigh), hframe⟩
  · exact ⟨_, congrArg Host.Outcome.next (chopCeiling_of_drive hrun hst), updPhase_changes a p _ s⟩
  · exact ⟨_, congrArg Host.Outcome.next (fastDecayEnd_of_fast hrun hst), updPhase_changes a p _ s⟩
  · refine ⟨_, congrArg Host.Outcome.next (chopDecayEnd_of_slow hrun hst hw), ?_⟩
    obtain ⟨hphase, hframe⟩ := updPhase_changes a p (fun k => { k with
      st := .mask, time := s.axes[a].choptime
      band := if bitAt s.axes[a].curNow 31 then (if k.low then min (fld s.axes[a].curNow 7 0) (k.band + 1)
        else min (fld s.axes[a].curNow 7 0) (k.band - 1)) else k.band }) s
    rw [hphase]
    refine ⟨rfl, rfl, fun hfixed => ?_, fun htracked hlow => ?_, fun htracked hhigh => ?_, hframe⟩
    · simp [hfixed, -Fin.getElem_fin]
    · simp [htracked, hlow, -Fin.getElem_fin]
    · simp [htracked, hhigh, -Fin.getElem_fin]

end Sys2Proof.Machine
end

section
/-! Motion: the steps of a leg and its end, and the limit and home inputs of an axis. -/

namespace Sys2Proof.Machine

open Sys2Proof Sys2Proof.Safety

/-! ### One step -/

/-- The position and the counts of an axis after one step (R534). -/
def Axis.stepped (x : Axis) : Axis :=
  { x with pos := if x.fwd then x.pos + 1 else x.pos - 1, steps := satInc x.steps, done := x.done + 1, homeCount := x.homeCount + 1 }

/-- Axes that agree in where a move stands. -/
def Axis.sameMove (y x : Axis) : Prop :=
  y.pos = x.pos ∧ y.steps = x.steps ∧ y.done = x.done ∧ y.len = x.len ∧ y.state = x.state ∧ y.posValid = x.posValid

theorem Axis.sameMove.trans {x y z : Axis} (h : x.sameMove y) (k : y.sameMove z) : x.sameMove z := by
  obtain ⟨h1, h2, h3, h4, h5, h6⟩ := h
  obtain ⟨k1, k2, k3, k4, k5, k6⟩ := k
  exact ⟨h1.trans k1, h2.trans k2, h3.trans k3, h4.trans k4, h5.trans k5, h6.trans k6⟩

/-- A step in bridge mode: the index turns and the gates follow (R549). -/
def turned (a : Fin 8) (s : State) : State := driveGates a (s.updAxis a fun x => x.turnIndex.update false)

/-- A step in step mode: MSTEP rises (R537, R538). -/
def pulsed (a : Fin 8) (s : State) : State :=
  ((s.updAxis a fun x => { x with fallAt := some (s.coreTime + fld s.axes[a].stepNow 31 16) }).updPins
    fun p => { p with mstep := p.mstep.set a.1 .high a.2 }).send (.step a s.axes[a].fwd)

/-- What a step drives. -/
def driven (a : Fin 8) (s : State) : State := if s.axes[a].bridge then (if s.axes[a].frozen then s else turned a s) else pulsed a s

theorem placeStep_eq (a : Fin 8) (s : State) : placeStep a s = setVel a (driven a (s.updAxis a Axis.stepped)) := rfl

/-- Windings and step outputs leave the move as it stands, and every other axis. -/
theorem driven_keeps (a : Fin 8) (s : State) :
    ((driven a s).axes[a]).sameMove s.axes[a] ∧ (∀ k, k ≠ a → (driven a s).axes[k] = s.axes[k])
      ∧ driven a s = { s with axes := (driven a s).axes, pins := (driven a s).pins, tx := (driven a s).tx } := by
  have hturned : ((turned a s).axes[a]).sameMove s.axes[a] := by
    rw [show (turned a s).axes[a] = s.axes[a].turnIndex.update false from modAt_get s.axes a _]
    exact ⟨rfl, rfl, rfl, rfl, rfl, rfl⟩
  have hpulsed : ((pulsed a s).axes[a]).sameMove s.axes[a] := by
    rw [show (pulsed a s).axes[a] = { s.axes[a] with fallAt := some (s.coreTime + fld s.axes[a].stepNow 31 16) } from modAt_get s.axes a _]
    exact ⟨rfl, rfl, rfl, rfl, rfl, rfl⟩
  unfold driven
  split
  · split
    · exact ⟨⟨rfl, rfl, rfl, rfl, rfl, rfl⟩, fun _ _ => rfl, rfl⟩
    · exact ⟨hturned, fun k hk => modAt_get_ne s.axes a k _ hk, rfl⟩
  · exact ⟨hpulsed, fun k hk => modAt_get_ne s.axes a k _ hk, rfl⟩

/-- The speed of a step is the axis's VEL alone (R535). -/
theorem setVel_sets (a : Fin 8) (s : State) :
    ∃ v : Axis → Int, setVel a s = { s with axes := modAt s.axes a fun x => { x with vel := v x }, draw := s.draw + 1 } :=
  ⟨fun x =>
    let v := legSpeed x x.done
    let n : Nat := v / 2 ^ 20 + (if s.drawBool.1 && decide (v % 2 ^ 20 ≠ 0) then 1 else 0)
    if x.fwd then (n : Int) else - (n : Int), rfl⟩

/-- One step placed moves the position and the counts by one, and nothing but its axis and what that drives (R534). -/
theorem placeStep_stepped (a : Fin 8) (s : State) :
    ((placeStep a s).axes[a]).sameMove s.axes[a].stepped ∧ (∀ k, k ≠ a → (placeStep a s).axes[k] = s.axes[k])
      ∧ placeStep a s = { s with axes := (placeStep a s).axes, pins := (placeStep a s).pins, tx := (placeStep a s).tx, draw := (placeStep a s).draw } := by
  obtain ⟨hmove, hother, hframe⟩ := driven_keeps a (s.updAxis a Axis.stepped)
  obtain ⟨v, hv⟩ := setVel_sets a (driven a (s.updAxis a Axis.stepped))
  have hstepped : (s.updAxis a Axis.stepped).axes[a] = s.axes[a].stepped := modAt_get s.axes a _
  rw [placeStep_eq, hv]
  refine ⟨?_, fun k hk => ?_, ?_⟩
  · rw [hstepped] at hmove
    rw [modAt_get]
    exact hmove
  · exact (modAt_get_ne _ a k _ hk).trans ((hother k hk).trans (modAt_get_ne s.axes a k _ hk))
  · rw [hframe]
    rfl

/-- A step in step mode: MSTEP rises for PW, the step is sent, and nothing turns (R537, R538). -/
theorem placeStep_of_pulses {a : Fin 8} {s : State} (h : s.axes[a].bridge = false) :
    (placeStep a s).pins.mstep[a] = .high ∧ (placeStep a s).axes[a].fallAt = some (s.coreTime + fld s.axes[a].stepNow 31 16)
      ∧ (placeStep a s).tx = s.tx ++ [.step a s.axes[a].fwd] ∧ (placeStep a s).axes[a].e = s.axes[a].e
      ∧ (placeStep a s).pins.mgate = s.pins.mgate := by
  have hstepped : (s.updAxis a Axis.stepped).axes[a] = s.axes[a].stepped := modAt_get s.axes a _
  have hdriven : driven a (s.updAxis a Axis.stepped) = pulsed a (s.updAxis a Axis.stepped) := by
    rw [driven, hstepped]
    exact if_neg (Bool.eq_false_iff.mp h)
  obtain ⟨v, hv⟩ := setVel_sets a (pulsed a (s.updAxis a Axis.stepped))
  rw [placeStep_eq, hdriven, hv]
  simp [pulsed, State.updPins, State.send, Axis.stepped, -Fin.getElem_fin]
  simp

/-- A step in bridge mode turns the microstep index by the subdivision (R549). -/
theorem placeStep_of_bridge {a : Fin 8} {s : State} (h : s.axes[a].bridge = true) (hrun : s.axes[a].frozen = false) :
    (placeStep a s).tx = s.tx ∧ (placeStep a s).pins.mstep = s.pins.mstep
      ∧ (placeStep a s).axes[a].e = (if s.axes[a].fwd != s.axes[a].inv then s.axes[a].e + 2 ^ (8 - s.axes[a].subdiv)
          else s.axes[a].e + 1024 - 2 ^ (8 - s.axes[a].subdiv)) % 1024 := by
  have hstepped : (s.updAxis a Axis.stepped).axes[a] = s.axes[a].stepped := modAt_get s.axes a _
  have hdriven : driven a (s.updAxis a Axis.stepped) = turned a (s.updAxis a Axis.stepped) := by
    rw [driven, hstepped]
    exact (if_pos h).trans (if_neg (Bool.eq_false_iff.mp hrun))
  obtain ⟨v, hv⟩ := setVel_sets a (turned a (s.updAxis a Axis.stepped))
  rw [placeStep_eq, hdriven, hv]
  refine ⟨rfl, rfl, ?_⟩
  rw [modAt_get, show (turned a (s.updAxis a Axis.stepped)).axes[a] = _ from modAt_get _ a _, hstepped]
  rfl

/-! ### The profile's next step -/

theorem stepPulse_of_standing {a : Fin 8} {s : State} (h : s.axes[a].turning = false) : stepPulse a s = s := by
  simp [stepPulse, h, -Fin.getElem_fin]

/-- A step within the bound of a homing search is placed; a leg without its last step goes on (R537). -/
theorem stepPulse_of_turning {a : Fin 8} {s : State} (hreset : inReset (.axis a) s = false) (hturn : s.axes[a].turning = true)
    (hbound : ∀ b, homeBound s.axes[a] = some b → s.axes[a].homeCount < b) (hlen : s.axes[a].len ≠ some (s.axes[a].done + 1)) :
    stepPulse a s = placeStep a s := by
  have hany : ((homeBound s.axes[a]).any fun b => decide (b ≤ s.axes[a].homeCount)) = false := by
    cases hb : homeBound s.axes[a] with
    | none => rfl
    | some b => simpa [-Fin.getElem_fin] using hbound b hb
  obtain ⟨⟨-, -, hdone, hlen', -⟩, -⟩ := placeStep_stepped a s
  have hlast : (placeStep a s).axes[a].len ≠ some (placeStep a s).axes[a].done := by rw [hdone, hlen']; exact hlen
  simp [stepPulse, hreset, hturn, hany, hlast, -Fin.getElem_fin]

/-- The last step of a move settles the axis (R539). -/
theorem stepPulse_of_last {a : Fin 8} {s : State} (hreset : inReset (.axis a) s = false) (hen : s.axes[a].en = true)
    (hmoving : s.axes[a].state = .moving) (hlen : s.axes[a].len = some (s.axes[a].done + 1)) :
    stepPulse a s = settle a (placeStep a s) := by
  obtain ⟨⟨-, -, hdone, hlen', hstate, -⟩, -⟩ := placeStep_stepped a s
  have hlast : (placeStep a s).axes[a].len = some (placeStep a s).axes[a].done := by rw [hdone, hlen']; exact hlen
  have hstate' : (placeStep a s).axes[a].state = .moving := hstate.trans hmoving
  simp [stepPulse, hreset, Axis.turning, hen, hmoving, homeBound, hlast, legEnd, hstate', -Fin.getElem_fin]

/-- A homing search beyond its bound is a fault (R547). -/
theorem stepPulse_of_bound {a : Fin 8} {s : State} (hreset : inReset (.axis a) s = false) (hturn : s.axes[a].turning = true) {b : Nat}
    (hbound : homeBound s.axes[a] = some b) (hle : b ≤ s.axes[a].homeCount) : stepPulse a s = homingFault a s := by
  simp [stepPulse, hreset, hturn, hbound, hle, -Fin.getElem_fin]

@[simp] theorem Axis.cut_pos (x : Axis) : x.cut.pos = x.pos := by
  unfold Axis.cut
  split <;> rfl

@[simp] theorem Axis.cut_trip (x : Axis) : x.cut.trip = x.trip := by
  unfold Axis.cut
  split <;> rfl

@[simp] theorem Axis.cut_lim (x : Axis) : x.cut.lim = x.lim := by
  unfold Axis.cut
  split <;> rfl

/-- A fault of homing leaves the axis idle with its position unknown, and publishes (R541, R547). -/
theorem homingFault_leaves (a : Fin 8) (s : State) :
    (homingFault a s).axes[a].homingFault = true ∧ (homingFault a s).axes[a].state = .idle ∧ (homingFault a s).axes[a].posValid = false
      ∧ (homingFault a s).axes[a].pos = s.axes[a].pos ∧ (homingFault a s).axes[a].vel = 0
      ∧ homingFault a s = { s with axes := (homingFault a s).axes, router := (homingFault a s).router } := by
  unfold homingFault
  rw [publish_frame]
  simp [-Fin.getElem_fin]

/-! ### Limit inputs -/

/-- An input level that reads as before changes nothing (R543). -/
theorem limitChange_of_same {a : Fin 8} {i : Fin 2} {active : Bool} {s : State} (h : active = s.axes[a].lim[i]) : limitChange a i active s = s :=
  if_pos h

/-- A limit that becomes inactive is noted with its time (R545). -/
theorem limitChange_of_inactive {a : Fin 8} {i : Fin 2} {s : State} (h : s.axes[a].lim[i] = true) :
    limitChange a i false s = s.updAxis a fun x => { x with lim := x.lim.set i.1 false i.2, limOff := x.limOff.set i.1 s.coreTime i.2 } := by
  simp [limitChange, h, -Fin.getElem_fin]

/-- The limit seen active. -/
def limitSeen (a : Fin 8) (i : Fin 2) (s : State) : State := s.updAxis a fun x => { x with lim := x.lim.set i.1 true i.2 }

theorem limitSeen_axis (a : Fin 8) (i : Fin 2) (s : State) :
    (limitSeen a i s).axes[a] = { s.axes[a] with lim := s.axes[a].lim.set i.1 true i.2 } := modAt_get s.axes a _

/-- A limit that becomes active on an axis that does not home: ahead of a move it stops it and trips, tripped it counts as chatter (R544). -/
theorem limitChange_of_active {a : Fin 8} {i : Fin 2} {s : State} (h : s.axes[a].lim[i] = false) (hhome : s.axes[a].state ≠ .homing) :
    limitChange a i true s = if s.axes[a].trip[i] then (limitSeen a i s).updAxis a fun x => { x with chatter := satInc x.chatter }
      else if s.axes[a].limEn i && s.axes[a].turning && s.axes[a].fwd == (i == 0) then latchTrip a i (axisIstop a (limitSeen a i s))
      else limitSeen a i s := by
  have hnone : (s.axes[a].state == AxState.homing) = false := by simpa [-Fin.getElem_fin] using hhome
  simp only [limitChange, h, Bool.true_eq_false, if_false, Bool.not_true, Axis.isReference, hnone, Bool.false_and, Bool.and_false,
    Bool.false_eq_true, if_true]
  rfl

/-- A stop at once of a turning axis: settling, with the position doubted at a speed beyond VSAFE, and the limit latched (R541, R544). -/
theorem latchTrip_axisIstop (a : Fin 8) (i : Fin 2) {s : State} (hturn : s.axes[a].turning = true) :
    ∃ t, t = latchTrip a i (axisIstop a s) ∧ t.axes[a].state = .settling ∧ t.axes[a].trip[i] = true ∧ t.axes[a].lim = s.axes[a].lim
      ∧ t.axes[a].vel = 0 ∧ t.axes[a].pos = s.axes[a].pos ∧ t.axes[a].posValid = s.axes[a].cut.posValid
      ∧ t.axes[a].posLost = s.axes[a].cut.posLost ∧ t = { s with axes := t.axes, router := t.router } := by
  refine ⟨_, rfl, ?_⟩
  unfold latchTrip axisIstop
  rw [hturn, if_pos rfl, publish_frame]
  simp [settle, -Fin.getElem_fin]
  simp

theorem Axis.cut_of_fast {x : Axis} (h : x.vsafe.toNat < x.vel.natAbs) : x.cut.posValid = false ∧ x.cut.posLost = true := by
  simp [Axis.cut, h]

theorem Axis.cut_of_safe {x : Axis} (h : x.vel.natAbs ≤ x.vsafe.toNat) : x.cut = x := if_neg (Nat.not_lt.mpr h)

/-! ### The home input -/

/-- The home input of an axis that does not home is followed (R543). -/
theorem homeChange_of_other {a : Fin 8} {s : State} (h : s.axes[a].state ≠ .homing) (active : Bool) :
    homeChange a active s = s.updAxis a fun x => { x with home := active } := by
  simp [homeChange, h, -Fin.getElem_fin]

/-- The axis of a leg that begins (R535 to R538). -/
def Axis.onLeg (fwd : Bool) (len : Option Nat) (speed : Nat) (x : Axis) : Axis :=
  let cap := min speed (min (pwCap x.stepNow) 5000000)
  { x with fwd := fwd, len := len, done := 0, stop := none, vel := 0
           peak := match len with
             | some n => peakSpeed cap x.act.amax.toNat x.act.dmax.toNat x.act.jmax.toNat n
             | none => cap * 2 ^ 20 }

/-- The direction pin that a leg in step mode sets. -/
def directed (a : Fin 8) (fwd : Bool) (s : State) : State :=
  if s.axes[a].bridge then s
  else s.updPins fun p => { p with mdir := p.mdir.set a.1 (if fwd != s.axes[a].inv then .high else .low) a.2 }

theorem startLeg_eq (a : Fin 8) (fwd : Bool) (len : Option Nat) (speed : Nat) (s : State) :
    startLeg a fwd len speed s = directed a fwd (s.updAxis a (Axis.onLeg fwd len speed)) := rfl

/-- A leg begins: its axis stays where it is in its state, and only its direction pin may move with it (R535 to R538). -/
theorem startLeg_begins (a : Fin 8) (fwd : Bool) (len : Option Nat) (speed : Nat) (s : State) :
    (startLeg a fwd len speed s).axes[a].state = s.axes[a].state ∧ (startLeg a fwd len speed s).axes[a].homeStep = s.axes[a].homeStep
      ∧ (startLeg a fwd len speed s).axes[a].pos = s.axes[a].pos ∧ (startLeg a fwd len speed s).axes[a].home = s.axes[a].home
      ∧ startLeg a fwd len speed s = { s with axes := (startLeg a fwd len speed s).axes, pins := (startLeg a fwd len speed s).pins } := by
  have hget : (s.updAxis a (Axis.onLeg fwd len speed)).axes[a] = s.axes[a].onLeg fwd len speed := modAt_get s.axes a _
  have haxes : (directed a fwd (s.updAxis a (Axis.onLeg fwd len speed))).axes = (s.updAxis a (Axis.onLeg fwd len speed)).axes := by
    unfold directed
    split <;> rfl
  rw [startLeg_eq, haxes, hget]
  refine ⟨rfl, rfl, rfl, rfl, ?_⟩
  unfold directed
  split <;> rfl

/-- The third homing step is a leg of the search: the axis homes on, with its position and its home input (R546). -/
theorem homeBack_homes (a : Fin 8) (s : State) :
    (homeBack a s).axes[a].state = s.axes[a].state ∧ (homeBack a s).axes[a].homeStep = 3 ∧ (homeBack a s).axes[a].pos = s.axes[a].pos
      ∧ (homeBack a s).axes[a].home = s.axes[a].home
      ∧ homeBack a s = { s with axes := (homeBack a s).axes, pins := (homeBack a s).pins, draw := (homeBack a s).draw } := by
  obtain ⟨hstate, hstep, hpos, hhome, hframe⟩ := startLeg_begins a (! s.axes[a].homeFwd) (some s.axes[a].act.backoff.toNat)
    (if s.drawBool.1 then s.axes[a].act.vfast.toNat else s.axes[a].act.vslow.toNat)
    (s.drawBool.2.updAxis a fun x => { x with homeStep := 3, homeCount := 0 })
  have hget : (s.drawBool.2.updAxis a fun x => { x with homeStep := 3, homeCount := 0 }).axes[a]
      = { s.axes[a] with homeStep := 3, homeCount := 0 } := modAt_get s.axes a _
  rw [hget] at hstate hstep hpos hhome
  have hdraw : s.drawBool.2.draw = (homeBack a s).draw := (congrArg State.draw hframe).symm
  exact ⟨hstate, hstep, hpos, hhome,
    hframe.trans (congrArg (fun d => ({ s with axes := (homeBack a s).axes, pins := (homeBack a s).pins, draw := d } : State)) hdraw)⟩

/-- The steps from a stop request to the standstill (R540). -/
def stopSteps (a : Fin 8) (s : State) : Nat :=
  s.axes[a].vel.natAbs * s.axes[a].vel.natAbs / (2 * s.axes[a].dstop.toNat)
    + (if s.drawBool.1 && decide (s.axes[a].vel.natAbs ≠ 0) then 1 else 0)

/-- The axis as its speed begins to fall (R540). -/
def slowing (a : Fin 8) (s : State) : State :=
  s.drawBool.2.updAxis a fun x =>
    { x with stop := some (s.axes[a].vel.natAbs, s.axes[a].dstop.toNat), len := some (stopSteps a s), done := 0 }

theorem slowDown_eq (a : Fin 8) (s : State) :
    slowDown a s = if stopSteps a s = 0 then legEnd a (slowing a s) else slowing a s := rfl

/-- The search for the reference slows down as it is found, and turns back at once from a standstill (R546). -/
theorem slowDown_of_found {a : Fin 8} {s : State} (hstate : s.axes[a].state = .homing) (hstep : s.axes[a].homeStep = 2) :
    (slowDown a s).axes[a].state = .homing ∧ ((slowDown a s).axes[a].homeStep = 2 ∨ (slowDown a s).axes[a].homeStep = 3)
      ∧ (slowDown a s).axes[a].pos = s.axes[a].pos ∧ (slowDown a s).axes[a].home = s.axes[a].home
      ∧ slowDown a s = { s with axes := (slowDown a s).axes, pins := (slowDown a s).pins, draw := (slowDown a s).draw } := by
  have hget : (slowing a s).axes[a]
      = { s.axes[a] with stop := some (s.axes[a].vel.natAbs, s.axes[a].dstop.toNat), len := some (stopSteps a s), done := 0 } :=
    modAt_get s.axes a _
  have hustate : (slowing a s).axes[a].state = .homing := by rw [hget]; exact hstate
  have hustep : (slowing a s).axes[a].homeStep = 2 := by rw [hget]; exact hstep
  rw [slowDown_eq]
  split
  · have hback : legEnd a (slowing a s) = homeBack a (slowing a s) := by simp [legEnd, hustate, hustep, -Fin.getElem_fin]
    obtain ⟨hbstate, hbstep, hbpos, hbhome, hbframe⟩ := homeBack_homes a (slowing a s)
    rw [hget] at hbpos hbhome
    rw [hback]
    exact ⟨hbstate.trans hustate, .inr hbstep, hbpos, hbhome, hbframe⟩
  · exact ⟨hustate, .inl hustep, by rw [hget], by rw [hget], rfl⟩

theorem homeChange_of_found {a : Fin 8} {s : State} (hhome : s.axes[a].home = false) (hen : s.axes[a].en = true)
    (hstate : s.axes[a].state = .homing) (hmethod : s.axes[a].method = 0) (hstep : s.axes[a].homeStep = 1) :
    homeChange a true s = slowDown a ((s.updAxis a fun x => { x with home := true }).updAxis a fun x => { x with homeStep := 2 }) := by
  simp [homeChange, referenceSeen, hhome, hen, hstate, hmethod, hstep, -Fin.getElem_fin]

/-! ### The obligation -/

/-- The four ways of a step instant (R534, R537, R539, R547). -/
theorem stepPulse_motion (a : Fin 8) {s : State} (hreset : inReset (.axis a) s = false) :
    (s.axes[a].turning = false → exec (.stepPulse a) s = .next s)
      ∧ (s.axes[a].turning = true → (∀ b, homeBound s.axes[a] = some b → s.axes[a].homeCount < b) → s.axes[a].len ≠ some (s.axes[a].done + 1) →
          exec (.stepPulse a) s = .next (placeStep a s))
      ∧ (s.axes[a].en = true → s.axes[a].state = .moving → s.axes[a].len = some (s.axes[a].done + 1) →
          exec (.stepPulse a) s = .next (settle a (placeStep a s)))
      ∧ (∀ b, s.axes[a].turning = true → homeBound s.axes[a] = some b → b ≤ s.axes[a].homeCount →
          exec (.stepPulse a) s = .next (homingFault a s)) :=
  ⟨fun h => congrArg Host.Outcome.next (stepPulse_of_standing h),
    fun hturn hbound hlen => congrArg Host.Outcome.next (stepPulse_of_turning hreset hturn hbound hlen),
    fun hen hmoving hlen => congrArg Host.Outcome.next (stepPulse_of_last hreset hen hmoving hlen),
    fun _ hturn hbound hle => congrArg Host.Outcome.next (stepPulse_of_bound hreset hturn hbound hle)⟩

theorem exec_limitInput {a : Fin 8} (rev level : Bool) {s : State} (hreset : inReset (.axis a) s = false) {i : Fin 2}
    (hi : i = (if rev then 1 else 0)) :
    exec (.limitInput a rev level) s = .next (limitChange a i (level != s.axes[a].limPol i) s) := by
  subst hi
  simp [exec, execLimitInput, hreset]

theorem exec_homeInput {a : Fin 8} (level : Bool) {s : State} (hreset : inReset (.axis a) s = false) :
    exec (.homeInput a level) s = .next (homeChange a (level != bitAt s.axes[a].swcfg 15) s) := by
  simp [exec, execHomeInput, hreset]

/-- Settles O47: the step instants, the ends of settling and rest, and the inputs, each by its lemma above. -/
theorem axisMotionAndInputs : Obligations.AxisMotionAndInputs := by
  unfold Obligations.AxisMotionAndInputs
  refine ⟨?_, ?_⟩
  · rintro a x s rfl hreset
    obtain ⟨hstand, hplace, hlast, hbeyond⟩ := stepPulse_motion a hreset
    obtain ⟨⟨hpos, hsteps, hdone, hlen', hstate, hvalid⟩, hother, hframe⟩ := placeStep_stepped a s
    refine ⟨hstand, fun hturn hbound hlen => ?_, fun hen hmoving hlen => ?_, fun b hturn hbound hle => ?_⟩
    · exact ⟨_, hplace hturn hbound hlen, hpos, hsteps, hdone, hstate, hvalid, placeStep_of_pulses, placeStep_of_bridge, hother, hframe⟩
    · have hget : (settle a (placeStep a s)).axes[a] = _ := modAt_get (placeStep a s).axes a _
      refine ⟨_, hlast hen hmoving hlen, by rw [hget], by rw [hget], by rw [hget]; exact hpos, by rw [hget]; exact hvalid, ?_⟩
      unfold settle
      rw [hframe]
      rfl
    · obtain ⟨hfault, hidle, hunknown, hstay, hvel, hkept⟩ := homingFault_leaves a s
      exact ⟨_, hbeyond b hturn hbound hle, hfault, hidle, hunknown, hstay, hvel, hkept⟩
  · rintro a x s rfl hreset
    refine ⟨fun hen hst => ?_, fun hst => ?_, fun hen hst => ?_, fun hst => ?_, fun rev level i hi => ⟨fun hsame => ?_, fun hoff hlim => ?_, ?_, ?_⟩,
      fun level hst => ?_, fun level hon hhome hen hst hmethod hstep => ?_⟩
    · simp [exec, execSettleEnd, hreset, hen, hst, -Fin.getElem_fin]
    · simp [exec, execSettleEnd, hst, -Fin.getElem_fin]
    · simp [exec, execRestDelayEnd, hreset, Axis.isIdle, hen, hst, -Fin.getElem_fin]
    · simp [exec, execRestDelayEnd, Axis.isIdle, hst, -Fin.getElem_fin]
    · rw [exec_limitInput rev level hreset hi, limitChange_of_same hsame]
    · rw [exec_limitInput rev level hreset hi, hoff, limitChange_of_inactive hlim]
    · intro hon hlim htrip hen hmoving hlimen hfwd
      have hahead : (s.axes[a].limEn i && s.axes[a].turning && s.axes[a].fwd == (i == 0)) = true := by
        subst hi
        cases rev <;> simp_all [Axis.turning, -Fin.getElem_fin]
      have hturn : (limitSeen a i s).axes[a].turning = true := by
        rw [limitSeen_axis]
        simp_all [Axis.turning, Axis.en, -Fin.getElem_fin]
      obtain ⟨t, rfl, hsettling, htripped, hlim', hvel, hpos, hvalid, hlost, hkept⟩ := latchTrip_axisIstop a i hturn
      rw [limitSeen_axis] at hlim' hpos hvalid hlost
      rw [exec_limitInput rev level hreset hi, hon, limitChange_of_active hlim (by simp [hmoving, -Fin.getElem_fin]), htrip, hahead,
        if_neg Bool.false_ne_true, if_pos rfl]
      refine ⟨_, rfl, hsettling, htripped, ?_, hvel, hpos, fun hfast => ?_, fun hsafe => ?_, hkept⟩
      · simp only [hlim']
        simp
      · obtain ⟨hinvalid, hslipped⟩ := Axis.cut_of_fast (x := { s.axes[a] with lim := s.axes[a].lim.set i.1 true i.2 }) hfast
        exact ⟨hvalid.trans hinvalid, hlost.trans hslipped⟩
      · rw [hvalid, Axis.cut_of_safe (x := { s.axes[a] with lim := s.axes[a].lim.set i.1 true i.2 }) hsafe]
    · intro hon hlim htrip hidle
      rw [exec_limitInput rev level hreset hi, hon, limitChange_of_active hlim (by simp [hidle, -Fin.getElem_fin]), htrip, if_pos rfl]
      have hget : ((limitSeen a i s).updAxis a fun x => { x with chatter := satInc x.chatter }).axes[a] = _ :=
        modAt_get (limitSeen a i s).axes a _
      rw [limitSeen_axis] at hget
      refine ⟨_, rfl, by rw [hget], ?_, by rw [hget]; exact hidle, rfl⟩
      simp only [hget]
      simp
    · rw [exec_homeInput level hreset, homeChange_of_other hst]
    · rw [exec_homeInput level hreset, hon, homeChange_of_found hhome hen hst hmethod hstep]
      have hget : ((s.updAxis a fun x => { x with home := true }).updAxis a fun x => { x with homeStep := 2 }).axes[a]
          = { s.axes[a] with home := true, homeStep := 2 } := by simp [-Fin.getElem_fin]
      obtain ⟨hst', hstep', hpos, hhome', hkept⟩ := slowDown_of_found (a := a)
        (s := (s.updAxis a fun x => { x with home := true }).updAxis a fun x => { x with homeStep := 2 })
        (by rw [hget]; exact hst) (by rw [hget])
      rw [hget] at hpos hhome'
      exact ⟨_, rfl, hhome', hst', hstep', hpos, hkept⟩

end Sys2Proof.Machine
end

section
/-! An empty queue: firmware serves its oldest request, or one core clock passes. -/

namespace Sys2Proof.Machine

open Sys2Proof Sys2Proof.Safety

/-- A second of PTP time that begins raises PPS_OUT at most (R51, R53). -/
theorem ppsTick_frame (s : State) : ppsTick s = { s with ptp := s.ptp.tick, pins := (ppsTick s).pins, draw := (ppsTick s).draw } := by
  unfold ppsTick ppsRise
  dsimp only
  split
  · rfl
  · split
    · split <;> rfl
    · rfl

theorem quadSends_of_no_codeword {q : Fin 4} {s : State} (h : s.quads[q].codewords (s.coreTime + 1) = s.quads[q].codewords s.coreTime) :
    quadSends q s = s := if_pos h

/-- A falling MSTEP is its pin and the axis that drives it (R538). -/
theorem stepFalls_frame (a : Fin 8) (s : State) : stepFalls a s = { s with axes := (stepFalls a s).axes, pins := (stepFalls a s).pins } := by
  unfold stepFalls
  split
  · split <;> rfl
  · rfl

/-- The state with what a quiet core clock may change taken out. -/
def State.unclocked (s : State) : State := { s with axes := Vector.replicate 8 {}, pins := {} }

theorem stepFalls_unclocked (a : Fin 8) (s : State) : (stepFalls a s).unclocked = s.unclocked := by
  rw [stepFalls_frame]
  rfl

/-- The clock's head: PTP time and PPS_OUT. -/
def ptpTick (s : State) : State := if ptpHeld s then s else ppsTick s

theorem ptpTick_frame (s : State) :
    ptpTick s = { s with ptp := if ptpHeld s then s.ptp else s.ptp.tick, pins := (ptpTick s).pins, draw := (ptpTick s).draw } := by
  unfold ptpTick
  split
  · rfl
  · exact ppsTick_frame s

/-- The counters that one core clock moves. -/
def counted (s : State) : State :=
  { s with
    coreTime := s.coreTime + 1
    quads := mapAll s.quads fun _ => Quad.tick s.coreTime
    heads := mapAll s.heads (headTick s)
    pipes := mapAll s.pipes (pipeTick s)
    tallies := mapAll s.tallies (tallyTick s) }

/-- A clock in which no quadrant begins a codeword and no head input holds samples (log entry 1). -/
theorem tick_of_quiet {s : State} (hquads : ∀ q : Fin 4, s.quads[q].codewords (s.coreTime + 1) = s.quads[q].codewords s.coreTime)
    (hheads : ∀ h : Fin 16, s.heads[h].input = []) :
    tick s = (counted (ptpTick s)).each (List.finRange 8) stepFalls := by
  have hsends : (ptpTick s).each (List.finRange 4) quadSends = ptpTick s := by
    refine State.each_of_unchanged fun q => quadSends_of_no_codeword ?_
    rw [ptpTick_frame]
    exact hquads q
  have hempty : ((ptpTick s).heads.toList.any fun k => ! k.input.isEmpty) = false := by
    rw [ptpTick_frame, List.any_eq_false]
    intro k hk
    obtain ⟨i, hi, rfl⟩ := List.getElem_of_mem hk
    have hi16 : i < 16 := by simpa using hi
    simpa using hheads ⟨i, hi16⟩
  unfold tick
  rw [← ptpTick, hsends]
  dsimp only
  rw [hempty]
  rfl

theorem tick_unclocked {s : State} (hquads : ∀ q : Fin 4, s.quads[q].codewords (s.coreTime + 1) = s.quads[q].codewords s.coreTime)
    (hheads : ∀ h : Fin 16, s.heads[h].input = []) : (tick s).unclocked = (counted (ptpTick s)).unclocked := by
  rw [tick_of_quiet hquads hheads]
  exact State.each_keeps State.unclocked _ _ stepFalls_unclocked _

/-- Settles O2: with no request to serve, the clock's own parts move and the rest of the device stands. -/
theorem emptyQueuePassesOneClock : Obligations.EmptyQueuePassesOneClock := by
  unfold Obligations.EmptyQueuePassesOneClock
  intro s hpending
  have hstep : step s = .next (idle s) := by simp [step, hpending]
  refine ⟨fun hidle hquads hheads => ⟨tick s, ?_, ?_⟩, fun hfw hsvc => ?_⟩
  · rw [hstep, idle]
    rcases hidle with h | h <;> simp [h]
  · have hframe := tick_unclocked hquads hheads
    have hkept : ∀ {α : Type} (f : State → α), (∀ u : State, f u.unclocked = f u) → f (tick s) = f (counted (ptpTick s)) :=
      fun f hf => (hf _).symm.trans ((congrArg f hframe).trans (hf _))
    rw [ptpTick_frame] at hkept
    exact ⟨hkept State.coreTime fun _ => rfl, hkept State.ptp fun _ => rfl, (hkept State.pending fun _ => rfl).trans hpending,
      hkept State.svc fun _ => rfl, hkept State.qm fun _ => rfl, hkept State.fuses fun _ => rfl, hkept State.mram fun _ => rfl,
      hkept State.lanes fun _ => rfl, hkept State.srcs fun _ => rfl, hkept State.dma fun _ => rfl, hkept State.tx fun _ => rfl⟩
  · have hserve : (firmwareRuns s && ! s.svc.isEmpty) = true := by simp [hfw, hsvc]
    rw [hstep, idle, if_pos hserve]

end Sys2Proof.Machine
end

section
/-! A DMA channel's own registers: updates of one channel, causes and halts, and a channel with nothing to write, issue or retire. -/

namespace Sys2Proof.Machine

open Sys2Proof Sys2Proof.Safety

/-! ### Updates of one channel -/

theorem State.updDma_eq {c : Fin 512} {f g : Dma → Dma} {s : State} (h : f s.dma[c] = g s.dma[c]) : s.updDma c f = s.updDma c g := by
  simp only [State.updDma, modAt, h]

theorem State.updDma_updDma (c : Fin 512) (f g : Dma → Dma) (s : State) : (s.updDma c f).updDma c g = s.updDma c fun d => g (f d) := by
  simp only [State.updDma]
  congr 1
  simp [modAt]

theorem State.updDma_self {c : Fin 512} {f : Dma → Dma} {s : State} (h : f s.dma[c] = s.dma[c]) : s.updDma c f = s := by
  simp only [State.updDma, modAt, h]
  congr 1
  simp

theorem State.updDma_get (c : Fin 512) (f : Dma → Dma) (s : State) : (s.updDma c f).dma[c] = f s.dma[c] := modAt_get s.dma c f

theorem State.updDma_get_ne {c k : Fin 512} (h : k ≠ c) (f : Dma → Dma) (s : State) : (s.updDma c f).dma[k] = s.dma[k] :=
  modAt_get_ne s.dma c k f h

/-! ### Causes and halts -/

/-- What a channel's causes and publishes reach: its own registers, the host ports, the record of what is sent and the router. -/
def onlyChannel (c : Fin 512) (t s : State) : Prop :=
  t = { s with dma := t.dma, host := t.host, tx := t.tx, router := t.router } ∧ ∀ k : Fin 512, k ≠ c → t.dma[k] = s.dma[k]

theorem onlyChannel.refl (c : Fin 512) (s : State) : onlyChannel c s s := ⟨rfl, fun _ _ => rfl⟩

theorem onlyChannel.trans {c : Fin 512} {s t u : State} (h : onlyChannel c u t) (k : onlyChannel c t s) : onlyChannel c u s := by
  obtain ⟨hu, hdu⟩ := h
  obtain ⟨ht, hdt⟩ := k
  refine ⟨?_, fun j hj => (hdu j hj).trans (hdt j hj)⟩
  rw [hu, ht]

theorem onlyChannel_updDma (c : Fin 512) (f : Dma → Dma) (s : State) : onlyChannel c (s.updDma c f) s :=
  ⟨rfl, fun _ hk => State.updDma_get_ne hk f s⟩

theorem onlyChannel_publish (c : Fin 512) (code : Nat) (s : State) : onlyChannel c (publish code s) s := by
  rw [publish_frame]
  exact ⟨rfl, fun _ _ => rfl⟩

theorem onlyChannel.stores {c : Fin 512} {t s : State} (h : onlyChannel c t s) :
    t.pstore = s.pstore ∧ t.mapStore = s.mapStore ∧ t.qm = s.qm := by
  obtain ⟨ht, -⟩ := h
  rw [ht]
  exact ⟨rfl, rfl, rfl⟩

/-- A channel as it differs after a cause: INTSTAT has the cause too, and the vector may have been sent (R487). -/
theorem dmaCause_channel (c : Fin 512) (bit : Nat) (s : State) :
    (∃ m, (dmaCause c bit s).dma[c] = { s.dma[c] with intstat := s.dma[c].intstat ||| BitVec.ofNat 5 (2 ^ bit), msgAt := m })
      ∧ onlyChannel c (dmaCause c bit s) s := by
  unfold dmaCause
  dsimp only
  split
  · rw [channelVector_frame]
    refine ⟨⟨some s.coreTime, ?_⟩, rfl, fun k hk => ?_⟩
    · dsimp only
      rw [State.updDma_get, State.updDma_get]
      rfl
    · dsimp only
      rw [State.updDma_get_ne hk, State.updDma_get_ne hk]
  · exact ⟨⟨s.dma[c].msgAt, State.updDma_get c _ s⟩, onlyChannel_updDma c _ s⟩

/-- A channel that has halted (R488). -/
def Dma.halted (d : Dma) (h : Halt) (pc : Nat) : Dma :=
  { d with state := .halted, halt := some h, pc := BitVec.ofNat 32 pc, wait := none, fence := none, prefetch := [], fetchOut := false, fetchBad := false }

theorem dmaHalt_channel (c : Fin 512) (h : Halt) (pc : Nat) (s : State) :
    (∃ m, (dmaHalt c h pc s).dma[c] = { s.dma[c].halted h pc with intstat := s.dma[c].intstat ||| 8#5, msgAt := m })
      ∧ onlyChannel c (dmaHalt c h pc s) s := by
  obtain ⟨⟨m, hm⟩, hother⟩ := dmaCause_channel c 3 (s.updDma c fun d => d.halted h pc)
  rw [State.updDma_get] at hm
  rw [show dmaHalt c h pc s = publish (0x1A00 + c.1) (dmaCause c 3 (s.updDma c fun d => d.halted h pc)) from rfl]
  refine ⟨⟨m, ?_⟩, (onlyChannel_publish c _ _).trans (hother.trans (onlyChannel_updDma c _ s))⟩
  rw [publish_frame]
  exact hm

/-- A channel whose step has been marked bad (R486). -/
def Dma.badStep (d : Dma) (pc opc : Nat) (cause : BadCause) (addr : Nat) : Dma :=
  { d with badsteps := satInc d.badsteps
           badlog := (({ pc := BitVec.ofNat 32 pc, cause := cause, op := opc, addr := BitVec.ofNat 64 addr } : BadEntry) :: d.badlog).take 16 }

theorem dmaBad_channel (c : Fin 512) (pc opc : Nat) (cause : BadCause) (addr : Nat) (s : State) :
    (∃ m, (dmaBad c pc opc cause addr s).dma[c] = { s.dma[c].badStep pc opc cause addr with intstat := s.dma[c].intstat ||| 4#5, msgAt := m })
      ∧ onlyChannel c (dmaBad c pc opc cause addr s) s := by
  obtain ⟨⟨m, hm⟩, hother⟩ := dmaCause_channel c 2 (s.updDma c fun d => d.badStep pc opc cause addr)
  rw [State.updDma_get] at hm
  exact ⟨⟨m, hm⟩, hother.trans (onlyChannel_updDma c _ s)⟩

theorem bitAt_or_two_pow (x : BitVec 5) : bitAt (x ||| 4#5) 2 = true ∧ bitAt (x ||| 8#5) 3 = true ∧ bitAt (x ||| 16#5) 4 = true := by
  simp [bitAt]

/-! ### Nothing to issue -/

/-- No piece of any channel waits to be issued. -/
def allIssued (s : State) : Prop := ∀ k : Fin 512, ∀ f ∈ s.dma[k].flights, ∀ p ∈ f.pieces, p.unissued = false

theorem waitingChannels_of_issued {s : State} (h : allIssued s) (cls : Fin 4) : waitingChannels cls s = [] := by
  have hnone : ((List.finRange 512).filter fun c => s.dma[c].prio == cls.1 && s.dma[c].flights.any fun f => f.pieces.any Piece.unissued) = [] := by
    rw [List.filter_eq_nil_iff]
    rintro k -
    have : (s.dma[k].flights.any fun f => f.pieces.any Piece.unissued) = false := by
      rw [List.any_eq_false]
      intro f hf
      rw [Bool.not_eq_true, List.any_eq_false]
      exact fun p hp => by simp [h k f hf p hp]
    simp [this, -Fin.getElem_fin]
  simp only [waitingChannels, hnone, List.filter_nil, List.append_nil]

theorem issueRound_of_issued {s : State} (h : allIssued s) (cls : Fin 4) : issueRound cls s = (false, s) := by
  simp only [issueRound, waitingChannels_of_issued h, List.foldl_nil]

/-- One round more, while a round issues. The round is made opaque first: unfolded by its equation, `issueClass` has Lean evaluate a round over all
512 channels. -/
theorem issueClass_succ (cls : Fin 4) (k : Nat) (s : State) :
    issueClass cls (k + 1) s = if (issueRound cls s).1 then issueClass cls k (issueRound cls s).2 else s := by
  delta issueClass issueClass._f
  generalize issueRound = round
  dsimp only
  split
  next h => simp [h]
  next h => simp [h]

theorem issueClass_zero (cls : Fin 4) (s : State) : issueClass cls 0 s = s := by
  delta issueClass issueClass._f
  generalize issueRound = round
  rfl

theorem issueClass_of_issued {s : State} (h : allIssued s) (cls : Fin 4) : ∀ fuel, issueClass cls fuel s = s
  | 0 => issueClass_zero cls s
  | n + 1 => by rw [issueClass_succ, issueRound_of_issued h, if_neg Bool.false_ne_true]

/-- With every piece issued there is nothing to issue (R506). -/
theorem issueAll_of_issued {s : State} (h : allIssued s) : issueAll s = s := by
  simp only [issueAll, issueClass_of_issued h]

theorem allIssued_of_onlyFlights {c : Fin 512} {fs : List Flight} {s : State} (h : onlyFlights c fs s)
    (hp : ∀ f ∈ fs, ∀ p ∈ f.pieces, p.unissued = false) : allIssued s := by
  obtain ⟨hc, hother⟩ := h
  intro k
  by_cases hk : k = c
  · subst hk
    rw [hc]
    exact hp
  · rw [hother k hk]
    simp

/-- What reaches one channel alone leaves the others' flights. -/
theorem onlyFlights_of_onlyChannel {c : Fin 512} {fs gs : List Flight} {s t : State} (h : onlyFlights c fs s) (k : onlyChannel c t s)
    (ht : t.dma[c].flights = gs) : onlyFlights c gs t :=
  ⟨ht, fun j hj => by rw [k.2 j hj]; exact h.2 j hj⟩

/-! ### Nothing to write -/

/-- Nothing of a piece is ready to be written, and it has not ended. -/
def Piece.stays (p : Piece) : Bool :=
  match p.st with
  | .done | .ready _ _ => false
  | _ => true

theorem writePieces_of_stays (c : Fin 512) {ps : List Piece} (h : ∀ p ∈ ps, p.stays = true) (f : Flight) (ord : Bool) (s : State) :
    ∃ o, writePieces c ps f ord s = (ps, f, o, s) := by
  induction ps generalizing ord with
  | nil => exact ⟨ord, rfl⟩
  | cons p ps ih =>
    have hp : p.stays = true := h p List.mem_cons_self
    obtain ⟨o, ho⟩ := ih (fun q hq => h q (List.mem_cons_of_mem p hq)) (ord && (f.op != .move || f.dsp != .host))
    refine ⟨o, ?_⟩
    cases hst : p.st with
    | done => simp [Piece.stays, hst] at hp
    | ready bs bad => simp [Piece.stays, hst] at hp
    | _ => simp only [writePieces, hst, ho]

theorem writeFlights_of_stays (c : Fin 512) {fs : List Flight} (h : ∀ f ∈ fs, ∀ p ∈ f.pieces, p.stays = true) (ord : Bool) (s : State) :
    writeFlights c fs ord s = (fs, s) := by
  induction fs generalizing ord with
  | nil => rfl
  | cons f fs ih =>
    obtain ⟨o, ho⟩ := writePieces_of_stays c (h f List.mem_cons_self) f ord s
    have hrest := ih (fun g hg => h g (List.mem_cons_of_mem f hg)) o
    simp only [writeFlights, ho, hrest]

/-- With no data to write, writing changes nothing (R478). -/
theorem writeAll_of_stays {c : Fin 512} {s : State} (h : ∀ f ∈ s.dma[c].flights, ∀ p ∈ f.pieces, p.stays = true) : writeAll c s = s := by
  rw [writeAll, writeFlights_of_stays c h]
  exact State.updDma_self rfl

/-! ### The next word -/

theorem fetchMore_of_stopped {c : Fin 512} {s : State} (h : s.dma[c].state ≠ .running) : fetchMore c s = s := by
  simp [fetchMore, h, -Fin.getElem_fin]

theorem fetchMore_of_word {c : Fin 512} {s : State} (hprog : s.dma[c].hostProgram = false) (hword : (programWord c 0 s).isSome = true) :
    fetchMore c s = s := by
  have hlost : wordLost c 0 s = false := by simp [wordLost, Option.isNone_eq_false_iff.mpr hword]
  simp [fetchMore, hprog, hlost, -Fin.getElem_fin]

/-- A word that lies in PSTORE is there, or its channel halts at it or goes on without it (R488, R491). -/
theorem fetchMore_cases {c : Fin 512} {s : State} (hprog : s.dma[c].hostProgram = false) :
    fetchMore c s = s ∨ fetchMore c s = dmaHalt c .fetch s.dma[c].pc.toNat s := by
  simp only [fetchMore, hprog, Bool.false_and, Bool.false_eq_true, if_false]
  split
  · exact .inl rfl
  · split
    · exact .inr rfl
    · exact .inl rfl

/-- What a fetch that fails leaves of a channel: its registers, its flights and its place. -/
def Dma.sameRegs (e d : Dma) : Prop :=
  e.pc = d.pc ∧ e.a = d.a ∧ e.z = d.z ∧ e.flights = d.flights ∧ e.steps = d.steps ∧ e.bytes = d.bytes ∧ e.badsteps = d.badsteps
    ∧ e.badlog = d.badlog ∧ (bitAt d.intstat 2 = true → bitAt e.intstat 2 = true)

theorem bitAt_or_of_bitAt {x : BitVec 5} {i : Nat} (h : bitAt x i = true) (y : BitVec 5) : bitAt (x ||| y) i = true := by
  simp_all [bitAt]

theorem fetchMore_registers {c : Fin 512} {s : State} (hprog : s.dma[c].hostProgram = false) :
    ((fetchMore c s).dma[c]).sameRegs s.dma[c] ∧ onlyChannel c (fetchMore c s) s := by
  rcases fetchMore_cases hprog with h | h
  · rw [h]
    exact ⟨⟨rfl, rfl, rfl, rfl, rfl, rfl, rfl, rfl, id⟩, onlyChannel.refl c s⟩
  · obtain ⟨⟨m, hm⟩, honly⟩ := dmaHalt_channel c .fetch s.dma[c].pc.toNat s
    rw [h, hm]
    refine ⟨⟨?_, rfl, rfl, rfl, rfl, rfl, rfl, rfl, fun h => bitAt_or_of_bitAt h _⟩, honly⟩
    simp [Dma.halted, -Fin.getElem_fin]

/-! ### A channel that settles -/

theorem retire_of_pending {c : Fin 512} {s : State} {f : Flight} {fs : List Flight} (h : s.dma[c].flights = f :: fs) (hp : f.pieces ≠ [])
    (fuel : Nat) : retire c fuel s = s := by
  cases fuel with
  | zero => rfl
  | succ n =>
    have hempty : f.pieces.isEmpty = false := by simpa using hp
    simp only [retire, h, hempty, Bool.false_eq_true, if_false]

theorem fenceActs_of_flights {c : Fin 512} {s : State} (h : s.dma[c].flights ≠ []) : fenceActs c s = s := by
  simp [fenceActs, h, -Fin.getElem_fin]

theorem fenceActs_of_none {c : Fin 512} {s : State} (h : s.dma[c].fence = none) : fenceActs c s = s := by
  simp only [fenceActs, h]
  split <;> rfl

/-- A channel with nothing in flight settles by its fence and its next word. -/
theorem dmaSettle_of_idle {c : Fin 512} {s : State} (h : onlyFlights c [] s) (hfence : allIssued (fenceActs c s)) :
    dmaSettle c s = fetchMore c (fenceActs c s) := by
  have hwrite : writeAll c s = s := writeAll_of_stays (by rw [h.1]; simp)
  have hissue : issueAll s = s := issueAll_of_issued (allIssued_of_onlyFlights h (by simp))
  simp only [dmaSettle, hwrite, hissue, h.1, List.length_nil, retire, issueAll_of_issued hfence]

theorem dmaSettle_of_unfenced {c : Fin 512} {s : State} (h : onlyFlights c [] s) (hfence : s.dma[c].fence = none) :
    dmaSettle c s = fetchMore c s := by
  have hacts : fenceActs c s = s := fenceActs_of_none hfence
  rw [dmaSettle_of_idle h (by rw [hacts]; exact allIssued_of_onlyFlights h (by simp)), hacts]

/-! ### One instruction -/

theorem onlyFlights_updDma {c : Fin 512} {fs gs : List Flight} {f : Dma → Dma} {s : State} (h : onlyFlights c fs s)
    (hf : (f s.dma[c]).flights = gs) : onlyFlights c gs (s.updDma c f) :=
  onlyFlights_of_onlyChannel h (onlyChannel_updDma c f s) (by rw [State.updDma_get]; exact hf)

theorem ready_of_dmaReady {c : Fin 512} {s : State} {w : BitVec 64} (h : dmaReady c s = some w) :
    s.dma[c].state = .running ∧ programWord c 0 s = some w := by
  unfold dmaReady at h
  dsimp only at h
  split at h
  next => simp at h
  next hno =>
    simp only [Bool.or_eq_true, not_or, bne_iff_ne, ne_eq, not_not] at hno
    exact ⟨hno.1.2, h⟩

theorem dmaRun_of_ready {c : Fin 512} {s : State} {w : BitVec 64} (h : dmaReady c s = some w) {opc : Nat} (hopc : fld w 63 60 = opc) :
    dmaRun c opc s = dmaStep c w s := by
  simp only [dmaRun, h, hopc, if_true]

theorem dmaRun_of_other {c : Fin 512} {s : State} {w : BitVec 64} (h : dmaReady c s = some w) {opc : Nat} (hopc : fld w 63 60 ≠ opc) :
    dmaRun c opc s = s := by
  simp only [dmaRun, h, hopc, if_false]

theorem executes_opcode {c : Fin 512} {opc : Nat} {w x : BitVec 64} {s : State} (h : executes c opc w x s) : fld w 63 60 = opc := h.2.1

theorem executes_pstore {c : Fin 512} {opc : Nat} {w x : BitVec 64} {s : State} (h : executes c opc w x s) : s.dma[c].hostProgram = false :=
  h.2.2.1

theorem executes_unfenced {c : Fin 512} {opc : Nat} {w x : BitVec 64} {s : State} (h : executes c opc w x s) : s.dma[c].fence = none :=
  h.2.2.2.1

theorem executes_running {c : Fin 512} {opc : Nat} {w x : BitVec 64} {s : State} (h : executes c opc w x s) : s.dma[c].state = .running :=
  (ready_of_dmaReady h.1).1

/-- A channel that executes an instruction fetches it, acts and settles (R478, R488, R489). -/
theorem dmaRun_of_executes {c : Fin 512} {opc : Nat} {w x : BitVec 64} {s : State} (hflights : onlyFlights c [] s) (h : executes c opc w x s) :
    dmaRun c opc s = dmaSettle c (dmaAct c s.dma[c].pc.toNat w x (s.updDma c fun d => fetched d (wordCount opc))) := by
  obtain ⟨hready, hopc, hprog, hfence, hcount, hword, hlegal⟩ := h
  have hinflight : s.dma[c].inflight = 0 := by simp [Dma.inflight, hflights.1, -Fin.getElem_fin]
  have hx : (programWord c 1 s).getD 0 = x := by
    rcases hword with h1 | ⟨-, h1⟩
    · simp [h1]
    · exact h1.symm
  have hnone : ¬ (wordCount opc = 2 ∧ (programWord c 1 s).isNone = true) := by
    rintro ⟨htwo, hlost⟩
    rcases hword with h1 | ⟨hone, -⟩
    · simp [h1] at hlost
    · omega
  have hbudget : ¬ s.dma[c].budget.toNat < s.dma[c].count + 1 := by omega
  rw [dmaRun_of_ready hready hopc]
  simp only [dmaStep, hopc, hinflight, hx, hlegal]
  rw [if_neg (by omega), if_neg hnone, if_neg hbudget, if_neg Bool.false_ne_true]
  rfl

/-- Any part of the instruction's action on the channel's registers alone, with no fence left: the channel goes on if its next word is there. -/
theorem dmaSettle_updDma {c : Fin 512} {f : Dma → Dma} {s u : State} (hflights : onlyFlights c [] s) (hu : s.updDma c f = u)
    (hno : (f s.dma[c]).flights = []) (hfence : (f s.dma[c]).fence = none)
    (hgo : (f s.dma[c]).state ≠ .running ∨ ((f s.dma[c]).hostProgram = false ∧ (programWord c 0 u).isSome = true)) :
    dmaSettle c (s.updDma c f) = u := by
  subst hu
  rw [dmaSettle_of_unfenced (onlyFlights_updDma hflights hno) (by rw [State.updDma_get]; exact hfence)]
  rcases hgo with h | ⟨hprog, hword⟩
  · exact fetchMore_of_stopped (by rw [State.updDma_get]; exact h)
  · exact fetchMore_of_word (by rw [State.updDma_get]; exact hprog) hword

end Sys2Proof.Machine
end

section
/-! The control instructions of a channel, and the halts of R488. -/

namespace Sys2Proof.Machine

open Sys2Proof Sys2Proof.Safety

/-! ### What each control instruction does to its channel -/

theorem dmaAct_end {c : Fin 512} {pc : Nat} {w x : BitVec 64} {s : State} (h : fld w 63 60 = 0) :
    dmaAct c pc w x s = dmaFencing c .end_ s := by simp only [dmaAct, h]

theorem dmaAct_loop {c : Fin 512} {pc : Nat} {w x : BitVec 64} {s : State} (h : fld w 63 60 = 5) : dmaAct c pc w x s = dmaLoop c w s := by
  simp only [dmaAct, h]

theorem dmaAct_wait {c : Fin 512} {pc : Nat} {w x : BitVec 64} {s : State} (h : fld w 63 60 = 6) : dmaAct c pc w x s = dmaWait c w s := by
  simp only [dmaAct, h]

theorem dmaAct_signal {c : Fin 512} {pc : Nat} {w x : BitVec 64} {s : State} (h : fld w 63 60 = 7) :
    dmaAct c pc w x s = dmaSignal c pc w s := by simp only [dmaAct, h]

theorem dmaAct_fence {c : Fin 512} {pc : Nat} {w x : BitVec 64} {s : State} (h : fld w 63 60 = 8) :
    dmaAct c pc w x s = dmaFence c pc w s := by simp only [dmaAct, h]

theorem dmaAct_jump {c : Fin 512} {pc : Nat} {w x : BitVec 64} {s : State} (h : fld w 63 60 = 9) : dmaAct c pc w x s = dmaJump c w s := by
  simp only [dmaAct, h]

/-- A branch discards the prefetch (R491). -/
def Dma.branched (d : Dma) (target : Nat) : Dma := { d with pc := BitVec.ofNat 32 target, prefetch := [], fetchOut := false, fetchBad := false }

/-- JUMP is taken on its condition (R473). -/
def jumps (w : BitVec 64) (z : Bool) : Bool :=
  match fld w 59 58 with
  | 0 => true
  | 1 => z
  | _ => ! z

theorem dmaJump_eq (c : Fin 512) (w : BitVec 64) (s : State) :
    dmaJump c w s = if jumps w s.dma[c].z then s.updDma c fun d => d.branched (fld w 31 0) else s := rfl

theorem jumps_of_condition {w : BitVec 64} {z : Bool} (h : fld w 59 58 = 0 ∨ (fld w 59 58 = 1 ∧ z = true) ∨ (fld w 59 58 = 2 ∧ z = false)) :
    jumps w z = true := by
  rcases h with h | ⟨h, hz⟩ | ⟨h, hz⟩ <;> simp [jumps, *]

theorem not_jumps_of_condition {w : BitVec 64} {z : Bool} (h : (fld w 59 58 = 1 ∧ z = false) ∨ (fld w 59 58 = 2 ∧ z = true)) :
    jumps w z = false := by
  rcases h with ⟨h, hz⟩ | ⟨h, hz⟩ <;> simp [jumps, h, hz]

/-- What LOOP leaves of its counter: v passes to come (R472). -/
def Dma.counted (d : Dma) (n : Fin 4) (v : Nat) : Dma :=
  { d with c := d.c.set n.1 (BitVec.ofNat 32 v) n.2, live := d.live.set n.1 (decide (0 < v)) n.2 }

/-- The passes of a LOOP that are left after this one (R472). -/
def passesLeft (w : BitVec 64) (d : Dma) : Nat :=
  (if d.live[(Fin.ofNat 4 (fld w 59 58) : Fin 4)] then d.c[(Fin.ofNat 4 (fld w 59 58) : Fin 4)].toNat else fld w 55 32) - 1

theorem dmaLoop_of_count {w : BitVec 64} (hcount : fld w 55 32 ≠ 0) (c : Fin 512) (s : State) :
    dmaLoop c w s = s.updDma c fun d =>
      let e := d.counted (Fin.ofNat 4 (fld w 59 58)) (passesLeft w d)
      if 0 < passesLeft w d then e.branched (fld w 31 0) else e := by
  have hloop : dmaLoop c w s = if 0 < passesLeft w s.dma[c] then
      (s.updDma c fun d => d.counted (Fin.ofNat 4 (fld w 59 58)) (passesLeft w s.dma[c])).updDma c fun d => d.branched (fld w 31 0)
      else s.updDma c fun d => d.counted (Fin.ofNat 4 (fld w 59 58)) (passesLeft w s.dma[c]) := if_neg hcount
  rw [hloop]
  split
  next hpos =>
    rw [State.updDma_updDma]
    exact State.updDma_eq (by simp only [hpos, if_true])
  next hdone => exact State.updDma_eq (by simp only [hdone, if_false])

/-! ### A fetched instruction whose action is an update of the channel -/

section
variable {c : Fin 512} {w x : BitVec 64} {s u : State} (hflights : onlyFlights c [] s)
include hflights

/-- The instruction fetched and its action taken, as one update of the channel. -/
theorem dmaRun_of_update {opc : Nat} {f : Dma → Dma} (hexec : executes c opc w x s)
    (hact : dmaAct c s.dma[c].pc.toNat w x (s.updDma c fun d => fetched d (wordCount opc)) = s.updDma c f) (hu : s.updDma c f = u)
    (hno : (f s.dma[c]).flights = s.dma[c].flights) (hfence : (f s.dma[c]).fence = s.dma[c].fence) (hctl : (f s.dma[c]).ctl = s.dma[c].ctl)
    (hgo : (f s.dma[c]).state ≠ .running ∨ (programWord c 0 u).isSome = true) : dmaRun c opc s = u := by
  rw [dmaRun_of_executes hflights hexec, hact]
  refine dmaSettle_updDma hflights hu (hno.trans hflights.1) (hfence.trans (executes_unfenced hexec)) (hgo.imp_right fun hword => ⟨?_, hword⟩)
  rw [Dma.hostProgram, hctl]
  exact executes_pstore hexec

theorem dmaRun_of_jump (h : executes c 9 w x s) (hgo : jumps w s.dma[c].z = true)
    (hu : s.updDma c (fun d => (fetched d 1).branched (fld w 31 0)) = u) (hword : (programWord c 0 u).isSome = true) :
    dmaRun c 9 s = u := by
  refine dmaRun_of_update hflights h ?_ hu rfl rfl rfl (.inr hword)
  rw [dmaAct_jump (executes_opcode h), dmaJump_eq, State.updDma_get]
  exact (if_pos hgo).trans (State.updDma_updDma c _ _ s)

theorem dmaRun_of_jump_passed (h : executes c 9 w x s) (hgo : jumps w s.dma[c].z = false)
    (hu : s.updDma c (fun d => fetched d 1) = u) (hword : (programWord c 0 u).isSome = true) : dmaRun c 9 s = u := by
  refine dmaRun_of_update hflights h ?_ hu rfl rfl rfl (.inr hword)
  rw [dmaAct_jump (executes_opcode h), dmaJump_eq, State.updDma_get]
  exact if_neg (Bool.eq_false_iff.mp hgo)

theorem dmaRun_of_loop (h : executes c 5 w x s) (hcount : fld w 55 32 ≠ 0)
    (hu : s.updDma c (fun d =>
      let e := (fetched d 1).counted (Fin.ofNat 4 (fld w 59 58)) (passesLeft w d)
      if 0 < passesLeft w d then e.branched (fld w 31 0) else e) = u) (hword : (programWord c 0 u).isSome = true) : dmaRun c 5 s = u := by
  have hact : dmaAct c s.dma[c].pc.toNat w x (s.updDma c fun d => fetched d (wordCount 5)) = s.updDma c fun d =>
      let e := (fetched d 1).counted (Fin.ofNat 4 (fld w 59 58)) (passesLeft w d)
      if 0 < passesLeft w d then e.branched (fld w 31 0) else e := by
    rw [dmaAct_loop (executes_opcode h), dmaLoop_of_count hcount, State.updDma_updDma]
    rfl
  refine dmaRun_of_update hflights h hact hu ?_ ?_ ?_ (.inr hword) <;> dsimp only <;> split <;> rfl

/-- WAIT whose condition does not hold (R474). -/
theorem dmaRun_of_wait (h : executes c 6 w x s) (hholds : waitHolds c w s.coreTime s = false)
    (hu : s.updDma c (fun d => { fetched d 1 with count := 0, state := .waiting, wait := some (w, s.coreTime) }) = u) : dmaRun c 6 s = u := by
  refine dmaRun_of_update hflights h ?_ hu rfl rfl rfl (.inl (by simp))
  have hstill : waitHolds c w s.coreTime ((s.updDma c fun d => fetched d 1).updDma c fun d => { d with count := 0 }) = waitHolds c w s.coreTime s := by
    simp only [waitHolds, takable, State.updDma_get]
    rfl
  rw [dmaAct_wait (executes_opcode h)]
  unfold dmaWait
  dsimp only
  rw [if_neg (by rw [show wordCount 6 = 1 from rfl]; exact Bool.eq_false_iff.mp (hstill.trans hholds)), State.updDma_updDma,
    State.updDma_updDma]
  rfl

/-- WAIT for a doorbell that is there consumes it (R474). -/
theorem dmaRun_of_wait_doorbell (h : executes c 6 w x s) (hkind : fld w 59 57 = 2) (hbell : fld w 31 0 ≤ s.dma[c].doorbell.toNat)
    (hu : s.updDma c (fun d => { fetched d 1 with
      count := 0, doorbell := d.doorbell - BitVec.ofNat 32 (fld w 31 0), z := true, wait := none }) = u)
    (hword : (programWord c 0 u).isSome = true) : dmaRun c 6 s = u := by
  refine dmaRun_of_update hflights h ?_ hu rfl rfl rfl (.inr hword)
  rw [dmaAct_wait (executes_opcode h)]
  have hholds : waitHolds c w s.coreTime ((s.updDma c fun d => fetched d 1).updDma c fun d => { d with count := 0 }) = true := by
    simp only [waitHolds, hkind, State.updDma_get]
    exact decide_eq_true hbell
  unfold dmaWait
  dsimp only
  rw [if_pos (by rw [show wordCount 6 = 1 from rfl]; exact hholds)]
  simp only [waitEnds, hkind, State.updDma_updDma]
  refine State.updDma_eq ?_
  have hrun := executes_running h
  simp only [fetched, hrun, show wordCount 6 = 1 from rfl]

/-- An instruction that fences, with every earlier step complete (R475 to R477). -/
theorem dmaRun_of_fencing {opc : Nat} {f : Dma → Dma} {v : State} (hexec : executes c opc w x s)
    (hact : dmaAct c s.dma[c].pc.toNat w x (s.updDma c fun d => fetched d (wordCount opc)) = s.updDma c f)
    (hno : (f s.dma[c]).flights = s.dma[c].flights) (hv : fenceActs c (s.updDma c f) = v) (hflights' : onlyFlights c [] v)
    (hgo : fetchMore c v = u) : dmaRun c opc s = u := by
  rw [dmaRun_of_executes hflights hexec, hact, dmaSettle_of_idle (onlyFlights_updDma hflights (hno.trans hflights.1)), hv, hgo]
  rw [hv]
  exact allIssued_of_onlyFlights hflights' (by simp)

/-- FENCE without a flush (R476). -/
theorem dmaRun_of_fence (h : executes c 8 w x s) (hflush : bitAt w 59 = false) (hu : s.updDma c (fun d => fetched d 1) = u)
    (hword : (programWord c 0 u).isSome = true) : dmaRun c 8 s = u := by
  subst hu
  have hact : dmaAct c s.dma[c].pc.toNat w x (s.updDma c fun d => fetched d (wordCount 8))
      = s.updDma c fun d => { fetched d 1 with state := .fencing, fence := some (.fence s.dma[c].pc.toNat none) } := by
    rw [dmaAct_fence (executes_opcode h)]
    simp only [dmaFence, dmaFencing, hflush, Bool.false_eq_true, if_false, State.updDma_updDma]
    rfl
  refine dmaRun_of_fencing hflights h hact rfl (v := s.updDma c fun d => fetched d 1) ?_ (onlyFlights_updDma hflights hflights.1)
    (fetchMore_of_word (by rw [State.updDma_get]; exact executes_pstore h) hword)
  have hrun := executes_running h
  have hfence := executes_unfenced h
  have hempty := hflights.1
  simp only [fenceActs, State.updDma_get, fetched, hempty, List.isEmpty_nil, Bool.not_true, Bool.false_eq_true, if_false,
    State.updDma_updDma]
  exact State.updDma_eq (by simp [hrun, hfence, -Fin.getElem_fin])

/-- SIGNAL without an effect counts (R475). -/
theorem dmaRun_of_signal (h : executes c 7 w x s) (hmsg : bitAt w 59 = false) (hpub : bitAt w 58 = false) (hrec : bitAt w 57 = false)
    (hu : s.updDma c (fun d => { fetched d 1 with count := 0, signals := satInc d.signals }) = u)
    (hword : (programWord c 0 u).isSome = true) : dmaRun c 7 s = u := by
  subst hu
  have hact : dmaAct c s.dma[c].pc.toNat w x (s.updDma c fun d => fetched d (wordCount 7))
      = s.updDma c fun d => { fetched d 1 with count := 0, state := .fencing, fence := some (.signal w s.dma[c].pc.toNat) } := by
    rw [dmaAct_signal (executes_opcode h)]
    simp only [dmaSignal, dmaFencing, State.updDma_updDma]
    rfl
  refine dmaRun_of_fencing hflights h hact rfl (v := s.updDma c fun d => { fetched d 1 with count := 0, signals := satInc d.signals }) ?_
    (onlyFlights_updDma hflights hflights.1) (fetchMore_of_word (by rw [State.updDma_get]; exact executes_pstore h) hword)
  have hrun := executes_running h
  have hfence := executes_unfenced h
  have hempty := hflights.1
  simp only [fenceActs, State.updDma_get, fetched, hempty, List.isEmpty_nil, Bool.not_true, Bool.false_eq_true, if_false,
    State.updDma_updDma, signalActs, hmsg, hpub, hrec, Bool.not_false, if_true]
  exact State.updDma_eq (by simp [hrun, hfence, -Fin.getElem_fin])

/-- END: the channel is Done, with its cause (R477). -/
theorem dmaRun_of_end (h : executes c 0 w x s) :
    ∃ t, t = dmaRun c 0 s ∧ t.dma[c].state = .done ∧ bitAt t.dma[c].intstat 4 = true ∧ t.dma[c].pc = s.dma[c].pc + 1 ∧ t.dma[c].a = s.dma[c].a
      ∧ onlyChannel c t s := by
  have hact : dmaAct c s.dma[c].pc.toNat w x (s.updDma c fun d => fetched d (wordCount 0))
      = s.updDma c fun d => { fetched d 1 with state := .fencing, fence := some .end_ } := by
    rw [dmaAct_end (executes_opcode h)]
    simp only [dmaFencing, State.updDma_updDma]
    rfl
  have hempty := hflights.1
  obtain ⟨⟨m, hm⟩, honly⟩ := dmaCause_channel c 4 (s.updDma c fun d => { fetched d 1 with fence := none, state := .done })
  rw [State.updDma_get] at hm
  have hv : fenceActs c (s.updDma c fun d => { fetched d 1 with state := .fencing, fence := some .end_ })
      = publish (0x1A00 + c.1) (dmaCause c 4 (s.updDma c fun d => { fetched d 1 with fence := none, state := .done })) := by
    simp only [fenceActs, State.updDma_get, fetched, hempty, List.isEmpty_nil, Bool.not_true, Bool.false_eq_true, if_false,
      State.updDma_updDma]
    rfl
  have hall : onlyChannel c (publish (0x1A00 + c.1) (dmaCause c 4 (s.updDma c fun d => { fetched d 1 with fence := none, state := .done }))) s :=
    (onlyChannel_publish c _ _).trans (honly.trans (onlyChannel_updDma c _ s))
  have hget : (publish (0x1A00 + c.1) (dmaCause c 4 (s.updDma c fun d => { fetched d 1 with fence := none, state := .done }))).dma[c]
      = { s.dma[c] with count := s.dma[c].count + 1, steps := satInc s.dma[c].steps, pc := s.dma[c].pc + 1, prefetch := s.dma[c].prefetch.drop 1
                        fence := none, state := .done, intstat := s.dma[c].intstat ||| 16#5, msgAt := m } := by
    rw [publish_frame]
    exact hm
  refine ⟨_, (dmaRun_of_fencing hflights h hact rfl hv (onlyFlights_of_onlyChannel hflights hall ?_) (fetchMore_of_stopped ?_)).symm, ?_⟩
  · rw [hget]
    exact hempty
  · rw [hget]
    simp
  · rw [hget]
    exact ⟨rfl, (bitAt_or_two_pow _).2.2, rfl, rfl, hall⟩

end

/-! ### Halts -/

section
variable {c : Fin 512} {w : BitVec 64} {s : State} (hflights : onlyFlights c [] s)
include hflights

theorem inflight_of_no_flights : s.dma[c].inflight = 0 := by simp [Dma.inflight, hflights.1, -Fin.getElem_fin]

/-- A spent budget halts the channel at an instruction of one word (R489). -/
theorem dmaStep_of_spent (hone : wordCount (fld w 63 60) = 1) (hspent : s.dma[c].budget.toNat ≤ s.dma[c].count) :
    dmaStep c w s = dmaHalt c .runaway s.dma[c].pc.toNat s := by
  simp only [dmaStep, inflight_of_no_flights hflights, hone]
  rw [if_neg (by omega), if_neg (by omega), if_pos (by omega)]

/-- An opcode beyond the table halts the channel (R467, R488). -/
theorem dmaStep_of_illegal (hopc : 10 ≤ fld w 63 60) (hbudget : s.dma[c].count < s.dma[c].budget.toNat) :
    dmaStep c w s = dmaHalt c .illegal s.dma[c].pc.toNat s := by
  have hone : wordCount (fld w 63 60) = 1 := if_neg (by omega)
  have hbad : ∀ vf x, illegalWords vf w x = true := by
    intro vf x
    unfold illegalWords
    dsimp only
    split
    case h_7 => exact decide_eq_true hopc
    all_goals omega
  simp only [dmaStep, inflight_of_no_flights hflights, hone, hbad]
  rw [if_neg (by omega), if_neg (by omega), if_neg (by omega), if_pos trivial]

/-- A second word that will not come halts the channel there (R488). -/
theorem dmaStep_of_lost (hprog : s.dma[c].hostProgram = false) (hopc : fld w 63 60 = 3) (hlost : programWord c 1 s = none) :
    dmaStep c w s = dmaHalt c .fetch ((s.dma[c].pc.toNat + 1) % 2 ^ 32) s := by
  have hword : wordLost c 1 s = true := by simp [wordLost, hlost, hprog, -Fin.getElem_fin]
  simp only [dmaStep, inflight_of_no_flights hflights, hopc, hlost, hword]
  rw [if_neg (by omega), if_pos ⟨by decide, rfl⟩, if_pos trivial]

end

theorem exec_dmaIllegalOp {c : Fin 512} {w : BitVec 64} {s : State} (h : dmaReady c s = some w) :
    exec (.dmaIllegalOp c) s = .next (if 0xA ≤ fld w 63 60 then dmaStep c w s else s) := by
  simp only [exec, execDmaIllegalOp, h]

/-- What a halt leaves: the cause, its place and the interrupt, with the stores and every other channel (R488). -/
theorem dmaHalt_leaves (c : Fin 512) (h : Halt) (pc : Nat) (s : State) :
    ∃ t, t = dmaHalt c h pc s ∧ t.dma[c].state = .halted ∧ t.dma[c].halt = some h ∧ t.dma[c].pc = BitVec.ofNat 32 pc
      ∧ bitAt t.dma[c].intstat 3 = true ∧ t.dma[c].steps = s.dma[c].steps ∧ onlyChannel c t s := by
  obtain ⟨⟨m, hm⟩, honly⟩ := dmaHalt_channel c h pc s
  refine ⟨_, rfl, ?_⟩
  rw [hm]
  exact ⟨rfl, rfl, rfl, (bitAt_or_two_pow _).2.1, rfl, honly⟩

/-- A halt at the instruction itself leaves the program counter. -/
theorem dmaHalt_leaves_here (c : Fin 512) (h : Halt) (s : State) :
    ∃ t, t = dmaHalt c h s.dma[c].pc.toNat s ∧ t.dma[c].state = .halted ∧ t.dma[c].halt = some h ∧ t.dma[c].pc = s.dma[c].pc
      ∧ bitAt t.dma[c].intstat 3 = true ∧ t.dma[c].steps = s.dma[c].steps ∧ onlyChannel c t s := by
  obtain ⟨t, ht, hstate, hhalt, hpc, hstat, hsteps, honly⟩ := dmaHalt_leaves c h s.dma[c].pc.toNat s
  exact ⟨t, ht, hstate, hhalt, hpc.trans (BitVec.ofNat_toNat 32 s.dma[c].pc ▸ BitVec.setWidth_eq _), hstat, hsteps, honly⟩

/-- Settles O49: each control instruction is one update of its channel, and each halt names its cause. -/
theorem dmaControlInstructions : Obligations.DmaControlInstructions := by
  unfold Obligations.DmaControlInstructions
  refine ⟨?_, ?_⟩
  · rintro c w x d s rfl hflights
    refine ⟨fun h => ⟨fun u hgo hu hword => ?_, fun u hgo hu hword => ?_⟩, fun h n v u hn hcount hv hu hword => ?_,
      fun h => ⟨fun u hu hholds => ?_, fun u hkind hbell hu hword => ?_⟩, fun h hflush u hu hword => ?_,
      fun h hmsg hpub hrec u hu hword => ?_, fun h => ?_⟩
    · exact congrArg Host.Outcome.next (dmaRun_of_jump hflights h (jumps_of_condition hgo) hu.symm hword)
    · exact congrArg Host.Outcome.next (dmaRun_of_jump_passed hflights h (not_jumps_of_condition hgo) hu.symm hword)
    · subst hn
      subst hv
      exact congrArg Host.Outcome.next (dmaRun_of_loop hflights h hcount hu.symm hword)
    · exact congrArg Host.Outcome.next (dmaRun_of_wait hflights h hholds hu.symm)
    · exact congrArg Host.Outcome.next (dmaRun_of_wait_doorbell hflights h hkind hbell hu.symm hword)
    · exact congrArg Host.Outcome.next (dmaRun_of_fence hflights h hflush hu.symm hword)
    · exact congrArg Host.Outcome.next (dmaRun_of_signal hflights h hmsg hpub hrec hu.symm hword)
    · obtain ⟨t, rfl, hdone, hstat, hpc, ha, honly⟩ := dmaRun_of_end hflights h
      exact ⟨_, rfl, hdone, hstat, hpc, ha, honly.stores.1, honly.2⟩
  · intro c w s hflights hready hprog hfence
    refine ⟨fun hopc hbudget => ?_, fun hopc hspent => ?_, fun hopc hspent => ?_, fun hopc hlost => ?_, fun hopc => ?_⟩
    · obtain ⟨t, ht, hstate, hhalt, hpc, hstat, hsteps, honly⟩ := dmaHalt_leaves_here c .illegal s
      refine ⟨t, ?_, hstate, hhalt, hpc, hstat, hsteps, honly.stores.1, honly.2⟩
      rw [exec_dmaIllegalOp hready, if_pos hopc, dmaStep_of_illegal hflights hopc hbudget, ht]
    · obtain ⟨t, ht, hstate, hhalt, hpc, -⟩ := dmaHalt_leaves_here c .runaway s
      refine ⟨t, ?_, hstate, hhalt, hpc⟩
      rw [exec_dmaIllegalOp hready, if_pos hopc, dmaStep_of_spent hflights (if_neg (by omega)) hspent, ht]
    · obtain ⟨t, ht, hstate, hhalt, hpc, -⟩ := dmaHalt_leaves_here c .runaway s
      refine ⟨t, congrArg Host.Outcome.next ?_, hstate, hhalt, hpc⟩
      rw [dmaRun_of_ready hready hopc, dmaStep_of_spent hflights (by rw [hopc]; rfl) hspent, ht]
    · obtain ⟨t, ht, hstate, hhalt, hpc, -, hsteps, honly⟩ := dmaHalt_leaves c .fetch ((s.dma[c].pc.toNat + 1) % 2 ^ 32) s
      refine ⟨t, congrArg Host.Outcome.next ?_, hstate, hhalt, hpc.trans ?_, hsteps, honly.2⟩
      · rw [dmaRun_of_ready hready hopc, dmaStep_of_lost hflights hprog hopc hlost, ht]
      · apply BitVec.eq_of_toNat_eq
        simp [-Fin.getElem_fin]
    · rw [exec_dmaIllegalOp hready, if_neg (by omega)]

end Sys2Proof.Machine
end

section
/-! A DMA channel with one step in flight: its request issues, its write waits for an acknowledgement, or it has ended and retires. -/

namespace Sys2Proof.Machine

open Sys2Proof Sys2Proof.Safety

/-! ### The one channel that waits to issue -/

theorem filter_eq_singleton (c : Fin 512) {q : Fin 512 → Bool} (hc : q c = true) (hother : ∀ k, k ≠ c → q k = false) :
    (List.finRange 512).filter q = [c] := by
  have hq : q = fun k => k == c := by
    funext k
    by_cases hk : k = c
    · subst hk
      simpa using hc
    · rw [hother k hk]
      simp [hk]
  rw [hq, List.filter_beq, List.count_eq_one_of_mem (List.nodup_finRange 512) (List.mem_finRange c)]
  rfl

/-- Four classes in turn, one of which acts. -/
theorem each_class_of_one {α : Type} (act : Fin 4 → α → α) {s t : α} {cls : Fin 4} (hact : act cls s = t) (hskip : ∀ k, k ≠ cls → act k s = s)
    (hdone : ∀ k, act k t = t) : act 0 (act 1 (act 2 (act 3 s))) = t := by
  match cls, hskip, hact with
  | 0, hskip, hact => rw [hskip 3 (by decide), hskip 2 (by decide), hskip 1 (by decide), hact]
  | 1, hskip, hact => rw [hskip 3 (by decide), hskip 2 (by decide), hact, hdone]
  | 2, hskip, hact => rw [hskip 3 (by decide), hact, hdone, hdone]
  | 3, _, hact => rw [hact, hdone, hdone, hdone]

section
variable {c : Fin 512} {f : Flight} {s : State} (hflights : onlyFlights c [f] s) (hwait : f.pieces.any Piece.unissued = true)
include hflights hwait

theorem waitingChannels_of_one {cls : Fin 4} (hprio : s.dma[c].prio = cls.1) : waitingChannels cls s = [c] := by
  have hfilter : ((List.finRange 512).filter fun k => s.dma[k].prio == cls.1 && s.dma[k].flights.any fun f => f.pieces.any Piece.unissued) = [c] := by
    refine filter_eq_singleton c ?_ fun k hk => ?_
    · simp [hprio, hflights.1, hwait, -Fin.getElem_fin]
    · simp [hflights.2 k hk, -Fin.getElem_fin]
  simp only [waitingChannels, hfilter]
  by_cases hserved : s.host.served[cls] < c.1
  · simp [hserved, -Fin.getElem_fin]
  · simp [hserved, Nat.le_of_not_lt hserved, -Fin.getElem_fin]

omit hwait in
theorem waitingChannels_of_other {cls : Fin 4} (hprio : s.dma[c].prio ≠ cls.1) : waitingChannels cls s = [] := by
  have hfilter : ((List.finRange 512).filter fun k => s.dma[k].prio == cls.1 && s.dma[k].flights.any fun f => f.pieces.any Piece.unissued) = [] := by
    rw [List.filter_eq_nil_iff]
    rintro k -
    by_cases hk : k = c
    · subst hk
      simp [hprio, -Fin.getElem_fin]
    · simp [hflights.2 k hk, -Fin.getElem_fin]
  simp only [waitingChannels, hfilter, List.filter_nil, List.append_nil]

omit hwait in
theorem issueClass_of_other {cls : Fin 4} (hprio : s.dma[c].prio ≠ cls.1) : ∀ fuel, issueClass cls fuel s = s
  | 0 => issueClass_zero cls s
  | n + 1 => by
    rw [issueClass_succ, issueRound, waitingChannels_of_other hflights hprio, List.foldl_nil, if_neg Bool.false_ne_true]

/-- The channel served last in a class. -/
def State.serve (s : State) (cls : Fin 4) (c : Fin 512) : State := s.updHost fun h => { h with served := h.served.set cls.1 c.1 cls.2 }

omit hflights hwait in
theorem allIssued_serve {t : State} (h : allIssued t) (cls : Fin 4) (k : Fin 512) : allIssued (t.serve cls k) := h

theorem issueClass_of_one {cls : Fin 4} (hprio : s.dma[c].prio = cls.1) {t : State} (hone : issueOne c s = some t) (ht : allIssued t) (n : Nat) :
    issueClass cls (n + 1) s = t.serve cls c := by
  have hround : issueRound cls s = (true, t.serve cls c) := by
    rw [issueRound, waitingChannels_of_one hflights hwait hprio]
    simp only [List.foldl_cons, List.foldl_nil, hone]
    rfl
  rw [issueClass_succ, hround, if_pos rfl, issueClass_of_issued (allIssued_serve ht cls c)]

/-- The one request that waits is issued, and its channel is the one served last in its class (R497, R506). -/
theorem issueAll_of_one {t : State} (hone : issueOne c s = some t) (ht : allIssued t) : ∃ cls : Fin 4, issueAll s = t.serve cls c := by
  have hne : s.dma[c].flights.isEmpty = false := by simp [hflights.1, -Fin.getElem_fin]
  have hpieces : f.pieces.length ≠ 0 := by
    rintro hzero
    rw [List.length_eq_zero_iff.mp hzero] at hwait
    simp at hwait
  have hlt : s.dma[c].prio < 4 := by
    simp only [Dma.prio, fld]
    exact Nat.mod_lt _ (by decide)
  unfold issueAll
  generalize hfuel : ((List.finRange 512).map fun c =>
    if s.dma[c].flights.isEmpty then 0 else s.dma[c].maxreq.toNat + (s.dma[c].flights.map (·.pieces.length)).sum).sum = fuel
  obtain ⟨n, rfl⟩ : ∃ n, fuel = n + 1 := by
    refine Nat.exists_eq_succ_of_ne_zero fun hzero => ?_
    rw [hzero, List.sum_eq_zero_iff] at hfuel
    have hc := hfuel _ (List.mem_map_of_mem (List.mem_finRange c))
    rw [hne, hflights.1] at hc
    simp at hc
    exact hpieces (by simp [hc])
  generalize hcls : (⟨s.dma[c].prio, hlt⟩ : Fin 4) = cls
  have hprio : s.dma[c].prio = cls.1 := by rw [← hcls]
  have hother : ∀ k : Fin 4, k ≠ cls → s.dma[c].prio ≠ k.1 := fun k hk heq => hk (Fin.ext (heq.symm.trans hprio))
  have hclass := issueClass_of_one hflights hwait hprio hone ht n
  have hdone : ∀ k, issueClass k (n + 1) (t.serve cls c) = t.serve cls c := fun k => issueClass_of_issued (allIssued_serve ht cls c) k _
  have hskip : ∀ k, k ≠ cls → issueClass k (n + 1) s = s := fun k hk => issueClass_of_other hflights (hother k hk) _
  refine ⟨cls, ?_⟩
  exact each_class_of_one (fun k u => issueClass k (n + 1) u) hclass hskip hdone

end

/-! ### One request inside the device -/

/-- A step with its one piece replaced. -/
def Flight.holding (f : Flight) (p : Piece) : Flight := { f with pieces := [p] }

theorem splitFlights_of_one {f : Flight} {p : Piece} (hpieces : f.pieces = [p]) (hwait : p.unissued = true) :
    splitFlights [f] = some ([], f, [], p, [], []) := by
  simp [splitFlights, hpieces, hwait]

/-- The channel once its one request has the next number (R478). -/
def Dma.asks (d : Dma) (f : Flight) (p : Piece) : Dma := { d with nextId := d.nextId + 1, flights := [f.holding { p with id := d.nextId }] }

section
variable {c : Fin 512} {f : Flight} {p : Piece} {s : State} (hflights : s.dma[c].flights = [f]) (hpieces : f.pieces = [p])
  (hmax : s.dma[c].maxreq ≠ 0)
include hflights hpieces hmax

theorem mayIssue_pstore (hwait : p.unissued = true) (a k : Nat) : mayIssue c .pstore a k s = true := by
  have hnot : p.asked = false := by
    unfold Piece.unissued at hwait
    unfold Piece.asked
    revert hwait
    cases p.st <;> simp
  have hasked : s.dma[c].asked = 0 := by simp [Dma.asked, hflights, hpieces, hnot, -Fin.getElem_fin]
  have hpos : 0 < s.dma[c].maxreq.toNat := by
    refine Nat.pos_of_ne_zero fun hzero => hmax ?_
    exact BitVec.eq_of_toNat_eq hzero
  simp [mayIssue, hasked, hpos, inStallStore, -Fin.getElem_fin]

/-- A read of PSTORE that lies in one block of 4 KiB, or of a comparison, is one request (R478, R507). -/
theorem issueOne_of_read (hst : p.st = .wait) (hspace : f.ssp = .pstore) (hwhole : f.op ≠ .move ∨ p.src % 4096 + p.len ≤ 4096) :
    issueOne c s = some (s.updDma c fun d => d.asks f { p with st := .read }) := by
  have hwait : p.unissued = true := by simp [Piece.unissued, hst]
  have hsp : f.space p = .pstore := by simp [Flight.space, hst, hspace]
  have hlen : (if f.op = .move then pcieChunk 4096 p.src p.len else p.len) = p.len := by
    split
    next hmove =>
      have hle : p.src % 4096 + p.len ≤ 4096 := hwhole.resolve_left (not_not_intro hmove)
      simp only [pcieChunk]
      omega
    next => rfl
  simp only [issueOne, hflights, splitFlights_of_one hpieces hwait, hsp, mayIssue_pstore hflights hpieces hmax hwait, hst]
  simp [hlen, State.updDma_updDma]
  rfl

/-- A table entry in PSTORE is one request (R469). -/
theorem issueOne_of_table (hst : p.st = .tabWait) (hspace : f.tsp = .pstore) :
    issueOne c s = some (s.updDma c fun d => d.asks f { p with st := .table }) := by
  have hwait : p.unissued = true := by simp [Piece.unissued, hst]
  have hsp : f.space p = .pstore := by simp [Flight.space, hst, hspace]
  simp only [issueOne, hflights, splitFlights_of_one hpieces hwait, hsp, mayIssue_pstore hflights hpieces hmax hwait, hst]
  simp [State.updDma_updDma]
  rfl

end

/-! ### A channel with one step settles -/

/-- A step whose one piece has been asked for stands until its answer. -/
theorem dmaSettle_of_asked {c : Fin 512} {f g : Flight} {p q : Piece} {s : State} (hflights : onlyFlights c [f] s) (hpieces : f.pieces = [p])
    (hstays : p.stays = true) (hwait : p.unissued = true) (hq : q.stays = true) (hqi : q.unissued = false)
    (hone : issueOne c s = some (s.updDma c fun d => d.asks f q)) (hg : g = f.holding { q with id := s.dma[c].nextId }) :
    ∃ cls : Fin 4, dmaSettle c s = fetchMore c ((s.updDma c fun d => d.asks f q).serve cls c)
      ∧ ((s.updDma c fun d => d.asks f q).serve cls c).dma[c].flights = [g] := by
  have hasked : onlyFlights c [g] (s.updDma c fun d => d.asks f q) := onlyFlights_updDma hflights (by rw [hg]; rfl)
  have hissued : allIssued (s.updDma c fun d => d.asks f q) := by
    refine allIssued_of_onlyFlights hasked ?_
    rw [hg]
    simpa [Flight.holding, Piece.unissued] using hqi
  obtain ⟨cls, hcls⟩ := issueAll_of_one hflights (by simp [hpieces, hwait]) hone hissued
  have hnow : ((s.updDma c fun d => d.asks f q).serve cls c).dma[c].flights = [g] := hasked.1
  have hput : writeAll c ((s.updDma c fun d => d.asks f q).serve cls c) = (s.updDma c fun d => d.asks f q).serve cls c := by
    refine writeAll_of_stays ?_
    rw [hnow, hg]
    simpa [Flight.holding, Piece.stays] using hq
  have hfirst : writeAll c s = s := writeAll_of_stays (by rw [hflights.1]; simpa [hpieces] using hstays)
  refine ⟨cls, ?_, hnow⟩
  simp only [dmaSettle, hfirst, hcls, hput, hnow]
  rw [retire_of_pending hnow (by rw [hg]; exact List.cons_ne_nil _ _), fenceActs_of_flights (by rw [hnow]; exact List.cons_ne_nil _ _),
    issueAll_of_issued (allIssued_serve hissued cls c)]

/-- The channel once a write inside the device has left and waits for its acknowledgement (R478). -/
def Dma.puts (d : Dma) (f : Flight) (p : Piece) (bs : List Byte) (bad : List Nat) : Dma :=
  { d with nextId := d.nextId + 1, flights := [f.holding { p with id := d.nextId, st := .ack bs bad }] }

theorem writeAll_of_ready {c : Fin 512} {f : Flight} {p : Piece} {bs : List Byte} {bad : List Nat} {s : State} (hflights : s.dma[c].flights = [f])
    (hpieces : f.pieces = [p]) (hst : p.st = .ready bs bad) (hspace : f.dsp = .pstore) :
    writeAll c s = s.updDma c fun d => d.puts f p bs bad := by
  have hinside : (f.dsp == Space.host) = false := by rw [hspace]; rfl
  simp only [writeAll, hflights, writeFlights, hpieces, writePieces, hst, hinside, Bool.false_eq_true, if_false, State.updDma_updDma]
  exact State.updDma_eq rfl

/-- A write inside the device stands until its acknowledgement (R478). -/
theorem dmaSettle_of_ready {c : Fin 512} {f : Flight} {p : Piece} {bs : List Byte} {bad : List Nat} {s : State} (hflights : onlyFlights c [f] s)
    (hpieces : f.pieces = [p]) (hst : p.st = .ready bs bad) (hspace : f.dsp = .pstore) :
    dmaSettle c s = fetchMore c (s.updDma c fun d => d.puts f p bs bad) := by
  have hput : onlyFlights c [f.holding { p with id := s.dma[c].nextId, st := .ack bs bad }] (s.updDma c fun d => d.puts f p bs bad) :=
    onlyFlights_updDma hflights rfl
  have hissue : issueAll (s.updDma c fun d => d.puts f p bs bad) = s.updDma c fun d => d.puts f p bs bad :=
    issueAll_of_issued (allIssued_of_onlyFlights hput (by simp [Flight.holding, Piece.unissued]))
  have hwrite : writeAll c (s.updDma c fun d => d.puts f p bs bad) = s.updDma c fun d => d.puts f p bs bad :=
    writeAll_of_stays (by rw [hput.1]; simp [Flight.holding, Piece.stays])
  simp only [dmaSettle, writeAll_of_ready hflights.1 hpieces hst hspace, hissue, hwrite, hput.1]
  rw [retire_of_pending hput.1 (List.cons_ne_nil _ _), fenceActs_of_flights (by rw [hput.1]; exact List.cons_ne_nil _ _), hissue]

/-- The channel once its one step has completed (R478, R484). -/
def Dma.retired (d : Dma) (f : Flight) : Dma :=
  { d with flights := [], bytes := satAdd d.bytes f.bytes
           taken := d.taken.map fun t => if f.bad && f.take == some t.no then { t with bad := true } else t }

/-- A step with nothing outstanding retires (R478). -/
theorem dmaSettle_of_ended {c : Fin 512} {f : Flight} {s : State} (hflights : onlyFlights c [f] s) (hpieces : f.pieces = []) (heoc : f.eoc = false)
    (hrelease : f.release = false) (hfence : s.dma[c].fence = none) : dmaSettle c s = fetchMore c (s.updDma c fun d => d.retired f) := by
  have hwrite : writeAll c s = s := writeAll_of_stays (by rw [hflights.1]; simp [hpieces])
  have hissue : issueAll s = s := issueAll_of_issued (allIssued_of_onlyFlights hflights (by simp [hpieces]))
  have hdone : onlyFlights c [] (s.updDma c fun d => d.retired f) := onlyFlights_updDma hflights rfl
  have hretire : retire c 1 s = s.updDma c fun d => d.retired f := by
    simp only [retire, hflights.1, hpieces, List.isEmpty_nil, if_true, completeStep, heoc, hrelease, Bool.false_eq_true, if_false,
      State.updDma_updDma]
    rfl
  have hacts : fenceActs c (s.updDma c fun d => d.retired f) = s.updDma c fun d => d.retired f :=
    fenceActs_of_none (by rw [State.updDma_get]; exact hfence)
  simp only [dmaSettle, hwrite, hissue, hflights.1, List.length_singleton, hretire, hacts,
    issueAll_of_issued (allIssued_of_onlyFlights hdone (by simp))]

end Sys2Proof.Machine
end

section
/-! The transfer instructions of a channel: what each puts in flight, and what a step that cannot move leaves. -/

namespace Sys2Proof.Machine

open Sys2Proof Sys2Proof.Safety

/-! ### What each transfer does -/

theorem dmaAct_move {c : Fin 512} {pc : Nat} {w x : BitVec 64} {s : State} (h : fld w 63 60 = 1) : dmaAct c pc w x s = dmaMove c pc w s := by
  simp only [dmaAct, h]

theorem dmaAct_movex {c : Fin 512} {pc : Nat} {w x : BitVec 64} {s : State} (h : fld w 63 60 = 2) :
    dmaAct c pc w x s = dmaMovex c pc w x s := by simp only [dmaAct, h]

theorem dmaAct_fill {c : Fin 512} {pc : Nat} {w x : BitVec 64} {s : State} (h : fld w 63 60 = 3) :
    dmaAct c pc w x s = dmaFill c pc w x s := by simp only [dmaAct, h]

theorem dmaAct_cmp {c : Fin 512} {pc : Nat} {w x : BitVec 64} {s : State} (h : fld w 63 60 = 4) :
    dmaAct c pc w x s = dmaCmp c pc w x s := by simp only [dmaAct, h]

/-- A move of no bytes is illegal unless it takes the packet's rest (R468). -/
theorem length_of_legal_move {vf : Bool} {w x : BitVec 64} (hopc : fld w 63 60 = 1) (hlegal : illegalWords vf w x = false)
    (hfixed : bitAt w 47 = false) : fld w 31 0 ≠ 0 := by
  unfold illegalWords at hlegal
  simp only [hopc, hfixed, Bool.or_eq_false_iff] at hlegal
  simpa using hlegal.2

/-- An access to PSTORE within its ring and the store is made (R466). -/
theorem accessBad_pstore {c : Fin 512} {n : Fin 8} {a k : Nat} {s : State} (hring : s.dma[c].inRing n a k = true) (hend : a + k ≤ 2 ^ 20) :
    accessBad c n .pstore a k s = none := by
  simp only [accessBad, hring, if_true, extentBad]
  exact if_neg (Nat.not_lt.mpr hend)

theorem accessBad_of_ring {c : Fin 512} {n : Fin 8} {sp : Space} {a k : Nat} {s : State} (hring : s.dma[c].inRing n a k = false) :
    accessBad c n sp a k s = some .range := by
  simp only [accessBad, hring, Bool.false_eq_true, if_false]

/-- An address register that advances if its bit says so (R466). -/
def Dma.advanced (d : Dma) (on : Bool) (n : Fin 8) (k : Nat) : Dma := if on then d.advance n k else d

/-- Advancing changes the address registers alone. -/
theorem Dma.advanced_frame (d : Dma) (on : Bool) (n : Fin 8) (k : Nat) : d.advanced on n k = { d with a := (d.advanced on n k).a } := by
  cases on <;> rfl

/-- The step of a FILL of PSTORE (R470). -/
def fillFlight (pc : Nat) (w x : BitVec 64) (dst : Nat) : Flight :=
  { pc := pc, words := 2, opc := 3, dsp := .pstore, eoc := bitAt w 43
    pieces := [{ id := 0, st := .ready ((List.range (fld w 31 0)).map fun j => BitVec.ofNat 8 (x.toNat >>> (8 * (j % 8)))) [], src := 0, tab := 0
                 len := fld w 31 0, dst := dst }] }

theorem dmaFill_of_pstore {c : Fin 512} {pc : Nat} {w x : BitVec 64} {n : Fin 8} {s : State} (hspace : fld w 56 54 = 2)
    (hn : n = Fin.ofNat 8 (fld w 50 48)) (hacc : accessBad c n .pstore s.dma[c].a[n].toNat (fld w 31 0) s = none) :
    dmaFill c pc w x s = s.updDma c fun d =>
      { d with flights := d.flights ++ [fillFlight pc w x s.dma[c].a[n].toNat], a := (d.advanced (bitAt w 45) n (fld w 31 0)).a } := by
  subst hn
  unfold dmaFill
  dsimp only
  rw [hspace, show spaceOf 2 = Space.pstore from rfl, hacc]
  refine State.updDma_eq ?_
  cases bitAt w 45 <;> rfl

/-- The step of a MOVE inside PSTORE (R468). -/
def moveFlight (pc : Nat) (w : BitVec 64) (src dst : Nat) : Flight :=
  { pc := pc, words := 1, opc := 1, ssp := .pstore, dsp := .pstore, eoc := bitAt w 43, release := bitAt w 44
    pieces := [{ id := 0, st := .wait, src := src, tab := 0, len := fld w 31 0, dst := dst }] }

theorem dmaMove_of_pstore {c : Fin 512} {pc : Nat} {w : BitVec 64} {n m : Fin 8} {s : State} (hssp : fld w 59 57 = 2) (hdsp : fld w 56 54 = 2)
    (hfixed : bitAt w 47 = false) (hlen : fld w 31 0 ≠ 0) (hn : n = Fin.ofNat 8 (fld w 53 51)) (hm : m = Fin.ofNat 8 (fld w 50 48))
    (hsrc : accessBad c n .pstore s.dma[c].a[n].toNat (fld w 31 0) s = none)
    (hdst : accessBad c m .pstore s.dma[c].a[m].toNat (fld w 31 0) s = none) :
    dmaMove c pc w s = s.updDma c fun d =>
      { d with flights := d.flights ++ [moveFlight pc w s.dma[c].a[n].toNat s.dma[c].a[m].toNat]
               a := ((d.advanced (bitAt w 46) n (fld w 31 0)).advanced (bitAt w 45) m (fld w 31 0)).a } := by
  subst hn
  subst hm
  unfold dmaMove
  dsimp only
  rw [hssp, hdsp, hfixed, show spaceOf 2 = Space.pstore from rfl]
  simp only [Bool.false_and, Bool.false_eq_true, if_false, hlen, hsrc, hdst, firstBad]
  refine State.updDma_eq ?_
  cases bitAt w 46 <;> cases bitAt w 45 <;> simp [Dma.advanced, Dma.advance, moveFlight, hlen, takeFor, -Fin.getElem_fin]

/-- A MOVE whose source leaves its ring is a bad step that moves nothing (R486). -/
theorem dmaMove_of_ring {c : Fin 512} {pc : Nat} {w : BitVec 64} {n : Fin 8} {s : State} (hssp : fld w 59 57 = 2) (hfixed : bitAt w 47 = false)
    (hsstep : bitAt w 46 = false) (hdstep : bitAt w 45 = false) (hrelease : bitAt w 44 = false) (heoc : bitAt w 43 = false)
    (hlen : fld w 31 0 ≠ 0) (hn : n = Fin.ofNat 8 (fld w 53 51)) (hring : s.dma[c].inRing n s.dma[c].a[n].toNat (fld w 31 0) = false) :
    ∃ f : Flight, f.pieces = [] ∧ f.eoc = false ∧ f.release = false ∧ f.bytes = 0
      ∧ dmaMove c pc w s = (dmaBad c pc 1 .range s.dma[c].a[n].toNat s).updDma c fun d => { d with flights := d.flights ++ [f] } := by
  subst hn
  refine ⟨{ pc := pc, words := 1, opc := 1, ssp := .pstore, dsp := spaceOf (fld w 56 54), bad := true }, rfl, rfl, rfl, rfl, ?_⟩
  unfold dmaMove
  dsimp only
  rw [hssp, hfixed, show spaceOf 2 = Space.pstore from rfl]
  simp only [Bool.false_and, Bool.false_eq_true, if_false, hlen, accessBad_of_ring hring, firstBad, Flight.mark, hsstep, hdstep, hrelease, heoc]
  simp [takeFor]

/-- The step of a MOVEX before its elements are gathered (R469). -/
def movexFlight (d : Dma) (pc : Nat) (w : BitVec 64) : Flight :=
  { pc := pc, words := 2, opc := 2, ssp := spaceOf (fld w 59 57), dsp := spaceOf (fld w 56 54), tsp := spaceOf (fld w 47 45)
    base := d.a[(Fin.ofNat 8 (fld w 53 51) : Fin 8)].toNat, lo := d.base[(Fin.ofNat 8 (fld w 53 51) : Fin 8)].toNat
    hi := d.limit[(Fin.ofNat 8 (fld w 53 51) : Fin 8)].toNat, eoc := bitAt w 39, release := bitAt w 38
    take := takeFor d (spaceOf (fld w 59 57) == .packet || spaceOf (fld w 47 45) == .packet) }

/-- A MOVEX of one element, its table in PSTORE, asks for the table entry first (R469). -/
theorem dmaMovex_of_one {c : Fin 512} {pc : Nat} {w x : BitVec 64} {n m : Fin 8} {s : State} (hone : fld w 31 0 = 1)
    (hn : n = Fin.ofNat 8 (fld w 44 42)) (hm : m = Fin.ofNat 8 (fld w 50 48)) (htsp : fld w 47 45 = 2) (hdsp : fld w 56 54 = 2)
    (htab : accessBad c n .pstore s.dma[c].a[n].toNat 4 s = none)
    (hdst : accessBad c m .pstore s.dma[c].a[m].toNat (fld x 31 0) s = none) :
    ∃ (f : Flight) (a : Dma → Vector (BitVec 64) 8), f.bad = false ∧ f.tsp = .pstore
      ∧ f.pieces = [{ id := 0, st := .tabWait, src := 0, tab := s.dma[c].a[n].toNat, len := fld x 31 0, dst := s.dma[c].a[m].toNat }]
      ∧ dmaMovex c pc w x s = s.updDma c fun d => { d with flights := d.flights ++ [f], a := a d } := by
  subst hn
  subst hm
  refine ⟨(movexFlight s.dma[c] pc w).holding
      { id := 0, st := .tabWait, src := 0, tab := s.dma[c].a[(Fin.ofNat 8 (fld w 44 42) : Fin 8)].toNat, len := fld x 31 0
        dst := s.dma[c].a[(Fin.ofNat 8 (fld w 50 48) : Fin 8)].toNat }, fun d => ((d.advanced (bitAt w 41) (Fin.ofNat 8 (fld w 50 48)) (1 * fld x 31 0)).advanced (bitAt w 40)
    (Fin.ofNat 8 (fld w 44 42)) (4 * 1)).a, rfl, by simp [movexFlight, Flight.holding, htsp, spaceOf, Space.ofCode], rfl, ?_⟩
  unfold dmaMovex
  dsimp only
  rw [hone, htsp, hdsp, show spaceOf 2 = Space.pstore from rfl]
  simp only [gatherPieces, Nat.mul_zero, Nat.add_zero, Nat.zero_mul, htab, hdst, firstBad]
  refine State.updDma_eq ?_
  simp only [movexFlight, htsp, hdsp, show spaceOf 2 = Space.pstore from rfl]
  cases bitAt w 41 <;> cases bitAt w 40 <;> rfl

/-- The step of a CMP (R471). -/
def cmpFlight (pc : Nat) (w x : BitVec 64) (ssp : Space) (take : Option Nat) : Flight :=
  { pc := pc, words := 2, opc := 4, op := .cmp (fld w 50 48) (fld x 63 32) (fld x 31 0), ssp := ssp, take := take }

theorem dmaCmp_of_pstore {c : Fin 512} {pc : Nat} {w x : BitVec 64} {n : Fin 8} {a : Nat} {s : State} (hssp : fld w 59 57 = 2)
    (hn : n = Fin.ofNat 8 (fld w 53 51)) (ha : (s.dma[c].a[n].toNat : Int) + toSigned 32 (fld w 31 0) = a)
    (hacc : accessBad c n .pstore a 4 s = none) :
    dmaCmp c pc w x s = s.updDma c fun d =>
      { d with flights := d.flights ++ [(cmpFlight pc w x .pstore none).holding { id := 0, st := .wait, src := a, tab := 0, len := 4, dst := 0 }] } := by
  subst hn
  unfold dmaCmp
  dsimp only
  rw [hssp, show spaceOf 2 = Space.pstore from rfl, ha]
  rw [if_neg (by omega), Int.toNat_natCast, hacc]
  rfl

/-- A CMP below address 0 is a bad step, with Z = 0 (R471). -/
theorem dmaCmp_of_negative {c : Fin 512} {pc : Nat} {w x : BitVec 64} {n : Fin 8} {s : State} (hn : n = Fin.ofNat 8 (fld w 53 51))
    (hneg : (s.dma[c].a[n].toNat : Int) + toSigned 32 (fld w 31 0) < 0) :
    ∃ (addr : Nat) (f : Flight), f.pieces = [] ∧ f.eoc = false ∧ f.release = false
      ∧ dmaCmp c pc w x s = (dmaBad c pc 4 .range addr s).updDma c fun d => { d with flights := d.flights ++ [f], z := false } := by
  subst hn
  refine ⟨(BitVec.ofInt 64 ((s.dma[c].a[(Fin.ofNat 8 (fld w 53 51) : Fin 8)].toNat : Int) + toSigned 32 (fld w 31 0))).toNat,
    { cmpFlight pc w x (spaceOf (fld w 59 57)) (takeFor s.dma[c] (spaceOf (fld w 59 57) == .packet)) with bad := true }, rfl, rfl, rfl, ?_⟩
  unfold dmaCmp
  dsimp only
  rw [if_pos hneg]
  rfl

/-! ### A transfer once its channel has settled -/

section
variable {c : Fin 512} {f : Flight} {p : Piece} {s : State} (hflights : onlyFlights c [f] s) (hprog : s.dma[c].hostProgram = false)
include hflights hprog

theorem registers_of_asked {q : Piece} (hpieces : f.pieces = [p]) (hstays : p.stays = true) (hwait : p.unissued = true) (hq : q.stays = true)
    (hqi : q.unissued = false) (hone : issueOne c s = some (s.updDma c fun d => d.asks f q)) :
    ((dmaSettle c s).dma[c]).sameRegs (s.dma[c].asks f q) ∧ onlyChannel c (dmaSettle c s) s := by
  obtain ⟨cls, hsettle, -⟩ := dmaSettle_of_asked hflights hpieces hstays hwait hq hqi hone rfl
  have hget : ((s.updDma c fun d => d.asks f q).serve cls c).dma[c] = s.dma[c].asks f q := State.updDma_get c _ s
  have hserve : onlyChannel c ((s.updDma c fun d => d.asks f q).serve cls c) s := ⟨rfl, fun _ hk => State.updDma_get_ne hk _ s⟩
  obtain ⟨hregs, honly⟩ := fetchMore_registers (c := c) (s := (s.updDma c fun d => d.asks f q).serve cls c) (by rw [hget]; exact hprog)
  rw [hsettle]
  exact ⟨hget ▸ hregs, honly.trans hserve⟩

theorem registers_of_read (hmax : s.dma[c].maxreq ≠ 0) (hpieces : f.pieces = [p]) (hst : p.st = .wait) (hspace : f.ssp = .pstore)
    (hwhole : f.op ≠ .move ∨ p.src % 4096 + p.len ≤ 4096) :
    ((dmaSettle c s).dma[c]).sameRegs (s.dma[c].asks f { p with st := .read }) ∧ onlyChannel c (dmaSettle c s) s :=
  registers_of_asked hflights hprog hpieces (by simp [Piece.stays, hst]) (by simp [Piece.unissued, hst]) rfl rfl
    (issueOne_of_read hflights.1 hpieces hmax hst hspace hwhole)

theorem registers_of_table (hmax : s.dma[c].maxreq ≠ 0) (hpieces : f.pieces = [p]) (hst : p.st = .tabWait) (hspace : f.tsp = .pstore) :
    ((dmaSettle c s).dma[c]).sameRegs (s.dma[c].asks f { p with st := .table }) ∧ onlyChannel c (dmaSettle c s) s :=
  registers_of_asked hflights hprog hpieces (by simp [Piece.stays, hst]) (by simp [Piece.unissued, hst]) rfl rfl
    (issueOne_of_table hflights.1 hpieces hmax hst hspace)

theorem registers_of_ready {bs : List Byte} {bad : List Nat} (hpieces : f.pieces = [p]) (hst : p.st = .ready bs bad) (hspace : f.dsp = .pstore) :
    ((dmaSettle c s).dma[c]).sameRegs (s.dma[c].puts f p bs bad) ∧ onlyChannel c (dmaSettle c s) s := by
  have hget := State.updDma_get c (fun d => d.puts f p bs bad) s
  obtain ⟨hregs, honly⟩ := fetchMore_registers (c := c) (s := s.updDma c fun d => d.puts f p bs bad) (by rw [hget]; exact hprog)
  rw [dmaSettle_of_ready hflights hpieces hst hspace]
  exact ⟨hget ▸ hregs, honly.trans (onlyChannel_updDma c _ s)⟩

theorem registers_of_ended (hpieces : f.pieces = []) (heoc : f.eoc = false) (hrelease : f.release = false) (hfence : s.dma[c].fence = none) :
    ((dmaSettle c s).dma[c]).sameRegs (s.dma[c].retired f) ∧ onlyChannel c (dmaSettle c s) s := by
  have hget := State.updDma_get c (fun d => d.retired f) s
  obtain ⟨hregs, honly⟩ := fetchMore_registers (c := c) (s := s.updDma c fun d => d.retired f) (by rw [hget]; exact hprog)
  rw [dmaSettle_of_ended hflights hpieces heoc hrelease hfence]
  exact ⟨hget ▸ hregs, honly.trans (onlyChannel_updDma c _ s)⟩

end

/-! ### The obligation's transfers -/

section
variable {c : Fin 512} {w x : BitVec 64} {s : State} (hflights : onlyFlights c [] s)
include hflights

/-- A fetched transfer that puts one step in flight. -/
theorem dmaRun_of_flight {opc : Nat} {g : Dma → Dma} {f : Flight} (h : executes c opc w x s)
    (hact : dmaAct c s.dma[c].pc.toNat w x (s.updDma c fun d => fetched d (wordCount opc))
      = (s.updDma c fun d => fetched d (wordCount opc)).updDma c g)
    (hg : (g (fetched s.dma[c] (wordCount opc))).flights = s.dma[c].flights ++ [f])
    (hctl : (g (fetched s.dma[c] (wordCount opc))).ctl = s.dma[c].ctl) :
    ∃ u, dmaRun c opc s = dmaSettle c u ∧ onlyFlights c [f] u ∧ u.dma[c].hostProgram = false ∧ onlyChannel c u s
      ∧ u.dma[c] = g (fetched s.dma[c] (wordCount opc)) := by
  refine ⟨s.updDma c fun d => g (fetched d (wordCount opc)), ?_, onlyFlights_updDma hflights ?_, ?_, onlyChannel_updDma c _ s, State.updDma_get c _ s⟩
  · rw [dmaRun_of_executes hflights h, hact, State.updDma_updDma]
  · rw [hg, hflights.1]
    rfl
  · rw [State.updDma_get, Dma.hostProgram, hctl]
    exact executes_pstore h

/-- FILL of PSTORE (R470). -/
theorem dmaRun_of_fill {n : Fin 8} (h : executes c 3 w x s) (hspace : fld w 56 54 = 2) (hn : n = Fin.ofNat 8 (fld w 50 48))
    (hring : s.dma[c].inRing n s.dma[c].a[n].toNat (fld w 31 0) = true) (hend : s.dma[c].a[n].toNat + fld w 31 0 ≤ 2 ^ 20) :
    ∃ t f, t = dmaRun c 3 s ∧ t.dma[c].flights = [f] ∧ f.bad = false ∧ f.opc = 3 ∧ f.pc = s.dma[c].pc.toNat
      ∧ f.pieces = [{ id := s.dma[c].nextId, st := .ack ((List.range (fld w 31 0)).map fun j => BitVec.ofNat 8 (x.toNat >>> (8 * (j % 8)))) [], src := 0
                      tab := 0, len := fld w 31 0, dst := s.dma[c].a[n].toNat }]
      ∧ t.dma[c].a = (s.dma[c].advanced (bitAt w 45) n (fld w 31 0)).a ∧ onlyChannel c t s := by
  have hget := State.updDma_get c (fun d => fetched d (wordCount 3)) s
  have hact := (dmaAct_fill (c := c) (pc := s.dma[c].pc.toNat) (x := x) (s := s.updDma c fun d => fetched d (wordCount 3)) (executes_opcode h)).trans
    (dmaFill_of_pstore hspace hn (accessBad_pstore (by rw [hget]; exact hring) (by rw [hget]; exact hend)))
  rw [hget] at hact
  obtain ⟨u, hrun, hone, hprog, honly, hu⟩ := dmaRun_of_flight hflights h hact rfl rfl
  obtain ⟨⟨-, ha, -, hfs, -⟩, hkept⟩ := registers_of_ready hone hprog rfl rfl rfl
  rw [hu] at ha hfs
  refine ⟨_, _, hrun.symm, hfs, rfl, rfl, rfl, rfl, ha.trans ?_, hkept.trans honly⟩
  cases bitAt w 45 <;> rfl

/-- MOVE inside PSTORE (R468). -/
theorem dmaRun_of_move {n m : Fin 8} (h : executes c 1 w x s) (hn : n = Fin.ofNat 8 (fld w 53 51)) (hm : m = Fin.ofNat 8 (fld w 50 48))
    (hssp : fld w 59 57 = 2) (hdsp : fld w 56 54 = 2) (hfixed : bitAt w 47 = false)
    (hsrc : s.dma[c].inRing n s.dma[c].a[n].toNat (fld w 31 0) = true) (hdst : s.dma[c].inRing m s.dma[c].a[m].toNat (fld w 31 0) = true)
    (hblock : s.dma[c].a[n].toNat % 4096 + fld w 31 0 ≤ 4096) (hsend : s.dma[c].a[n].toNat + fld w 31 0 ≤ 2 ^ 20)
    (hdend : s.dma[c].a[m].toNat + fld w 31 0 ≤ 2 ^ 20) (hmax : s.dma[c].maxreq ≠ 0) :
    ∃ t f, t = dmaRun c 1 s ∧ t.dma[c].flights = [f] ∧ f.bad = false ∧ f.op = .move ∧ f.ssp = .pstore ∧ f.dsp = .pstore
      ∧ f.pieces = [{ id := s.dma[c].nextId, st := .read, src := s.dma[c].a[n].toNat, tab := 0, len := fld w 31 0, dst := s.dma[c].a[m].toNat }]
      ∧ t.dma[c].a = ((s.dma[c].advanced (bitAt w 46) n (fld w 31 0)).advanced (bitAt w 45) m (fld w 31 0)).a
      ∧ t.dma[c].steps = satInc s.dma[c].steps ∧ t.dma[c].badsteps = s.dma[c].badsteps ∧ onlyChannel c t s := by
  have hlegal := h.2.2.2.2.2.2
  have hget := State.updDma_get c (fun d => fetched d (wordCount 1)) s
  have hact := (dmaAct_move (c := c) (pc := s.dma[c].pc.toNat) (x := x) (s := s.updDma c fun d => fetched d (wordCount 1)) (executes_opcode h)).trans
    (dmaMove_of_pstore hssp hdsp hfixed (length_of_legal_move (executes_opcode h) hlegal hfixed) hn hm
      (accessBad_pstore (by rw [hget]; exact hsrc) (by rw [hget]; exact hsend))
      (accessBad_pstore (by rw [hget]; exact hdst) (by rw [hget]; exact hdend)))
  rw [hget] at hact
  obtain ⟨u, hrun, hone, hprog, honly, hu⟩ := dmaRun_of_flight hflights h hact rfl rfl
  obtain ⟨⟨-, ha, -, hfs, hsteps, -, hbad, -⟩, hkept⟩ := registers_of_read hone hprog (by rw [hu]; exact hmax) rfl rfl rfl (.inr hblock)
  rw [hu] at ha hfs hsteps hbad
  refine ⟨_, _, hrun.symm, hfs, rfl, rfl, rfl, rfl, rfl, ha.trans ?_, hsteps, hbad, hkept.trans honly⟩
  cases bitAt w 46 <;> cases bitAt w 45 <;> rfl

/-- A MOVE whose source leaves its ring (R486). -/
theorem dmaRun_of_bad_move {n : Fin 8} (h : executes c 1 w x s) (hn : n = Fin.ofNat 8 (fld w 53 51)) (hssp : fld w 59 57 = 2)
    (hfixed : bitAt w 47 = false) (hsstep : bitAt w 46 = false) (hdstep : bitAt w 45 = false) (hrelease : bitAt w 44 = false)
    (heoc : bitAt w 43 = false) (hring : s.dma[c].inRing n s.dma[c].a[n].toNat (fld w 31 0) = false) :
    ∃ t e rest, t = dmaRun c 1 s ∧ t.dma[c].flights = [] ∧ t.dma[c].badsteps = satInc s.dma[c].badsteps ∧ t.dma[c].badlog = e :: rest
      ∧ e.pc = s.dma[c].pc ∧ e.cause = .range ∧ e.op = 1 ∧ e.addr = s.dma[c].a[n] ∧ bitAt t.dma[c].intstat 2 = true
      ∧ t.dma[c].a = s.dma[c].a ∧ onlyChannel c t s := by
  have hlegal := h.2.2.2.2.2.2
  have hfetch := onlyChannel_updDma c (fun d => fetched d (wordCount 1)) s
  have hget := State.updDma_get c (fun d => fetched d (wordCount 1)) s
  obtain ⟨f, hpieces, hfeoc, hfrel, -, hmove⟩ := dmaMove_of_ring (c := c) (pc := s.dma[c].pc.toNat) (s := s.updDma c fun d => fetched d (wordCount 1))
    hssp hfixed hsstep hdstep hrelease heoc (length_of_legal_move (executes_opcode h) hlegal hfixed) hn (by rw [hget]; exact hring)
  rw [hget] at hmove
  obtain ⟨⟨m, hm⟩, honly⟩ := dmaBad_channel c s.dma[c].pc.toNat 1 .range s.dma[c].a[n].toNat (s.updDma c fun d => fetched d (wordCount 1))
  rw [hget] at hm
  have hbad := honly.trans hfetch
  have hflight : onlyFlights c [f] ((dmaBad c s.dma[c].pc.toNat 1 .range s.dma[c].a[n].toNat (s.updDma c fun d => fetched d (wordCount 1))).updDma c
      fun d => { d with flights := d.flights ++ [f] }) :=
    onlyFlights_updDma (onlyFlights_of_onlyChannel (gs := []) hflights hbad (by rw [hm]; exact hflights.1)) (by
      rw [hm]
      show s.dma[c].flights ++ [f] = [f]
      simp [hflights.1, -Fin.getElem_fin])
  have hnow := State.updDma_get c (fun d => { d with flights := d.flights ++ [f] })
    (dmaBad c s.dma[c].pc.toNat 1 .range s.dma[c].a[n].toNat (s.updDma c fun d => fetched d (wordCount 1)))
  rw [hm] at hnow
  obtain ⟨⟨-, ha, -, hfs, -, -, hbadsteps, hlog, hstat⟩, hkept⟩ := registers_of_ended hflight (by rw [hnow]; exact executes_pstore h) hpieces hfeoc hfrel
    (by rw [hnow]; exact executes_unfenced h)
  rw [hnow] at ha hfs hbadsteps hlog hstat
  refine ⟨_, _, _, ?_, hfs, hbadsteps, hlog, ?_, rfl, rfl, ?_, hstat (bitAt_or_two_pow _).1, ha,
    hkept.trans ((onlyChannel_updDma c _ _).trans hbad)⟩
  · rw [dmaRun_of_executes hflights h, dmaAct_move (executes_opcode h), hmove]
    rfl
  · exact BitVec.ofNat_toNat 32 s.dma[c].pc ▸ BitVec.setWidth_eq _
  · exact BitVec.ofNat_toNat 64 s.dma[c].a[n] ▸ BitVec.setWidth_eq _

/-- MOVEX of one element with its table in PSTORE (R469). -/
theorem dmaRun_of_movex_one {n m : Fin 8} (h : executes c 2 w x s) (hone : fld w 31 0 = 1) (hn : n = Fin.ofNat 8 (fld w 44 42))
    (hm : m = Fin.ofNat 8 (fld w 50 48)) (htsp : fld w 47 45 = 2) (hdsp : fld w 56 54 = 2)
    (htab : s.dma[c].inRing n s.dma[c].a[n].toNat 4 = true) (hdst : s.dma[c].inRing m s.dma[c].a[m].toNat (fld x 31 0) = true)
    (htend : s.dma[c].a[n].toNat + 4 ≤ 2 ^ 20) (hdend : s.dma[c].a[m].toNat + fld x 31 0 ≤ 2 ^ 20) (hmax : s.dma[c].maxreq ≠ 0) :
    ∃ t f, t = dmaRun c 2 s ∧ t.dma[c].flights = [f] ∧ f.bad = false ∧ f.tsp = .pstore
      ∧ f.pieces = [{ id := s.dma[c].nextId, st := .table, src := 0, tab := s.dma[c].a[n].toNat, len := fld x 31 0, dst := s.dma[c].a[m].toNat }] := by
  have hget := State.updDma_get c (fun d => fetched d (wordCount 2)) s
  obtain ⟨f, a, hbad, hspace, hpieces, hmovex⟩ := dmaMovex_of_one (c := c) (pc := s.dma[c].pc.toNat) (x := x)
    (s := s.updDma c fun d => fetched d (wordCount 2)) hone hn hm htsp hdsp
    (accessBad_pstore (by rw [hget]; exact htab) (by rw [hget]; exact htend))
    (accessBad_pstore (by rw [hget]; exact hdst) (by rw [hget]; exact hdend))
  rw [hget] at hpieces
  obtain ⟨u, hrun, hflight, hprog, honly, hu⟩ := dmaRun_of_flight hflights h ((dmaAct_movex (executes_opcode h)).trans hmovex) rfl rfl
  obtain ⟨⟨-, -, -, hfs, -⟩, -⟩ := registers_of_table hflight hprog (by rw [hu]; exact hmax) hpieces rfl hspace
  rw [hu] at hfs
  exact ⟨_, _, hrun.symm, hfs, hbad, hspace, rfl⟩

/-- CMP of a word of PSTORE (R471). -/
theorem dmaRun_of_cmp {n : Fin 8} {a : Nat} (h : executes c 4 w x s) (hn : n = Fin.ofNat 8 (fld w 53 51))
    (ha : (s.dma[c].a[n].toNat : Int) + toSigned 32 (fld w 31 0) = a) (hssp : fld w 59 57 = 2) (hring : s.dma[c].inRing n a 4 = true)
    (hend : a + 4 ≤ 2 ^ 20) (hmax : s.dma[c].maxreq ≠ 0) :
    ∃ t f, t = dmaRun c 4 s ∧ t.dma[c].flights = [f] ∧ f.bad = false ∧ f.op = .cmp (fld w 50 48) (fld x 63 32) (fld x 31 0)
      ∧ f.pieces = [{ id := s.dma[c].nextId, st := .read, src := a, tab := 0, len := 4, dst := 0 }] ∧ t.dma[c].z = s.dma[c].z
      ∧ t.dma[c].a = s.dma[c].a ∧ t.dma[c].pc = s.dma[c].pc + 2 ∧ onlyChannel c t s := by
  have hget := State.updDma_get c (fun d => fetched d (wordCount 4)) s
  have hact := (dmaAct_cmp (c := c) (pc := s.dma[c].pc.toNat) (x := x) (s := s.updDma c fun d => fetched d (wordCount 4)) (executes_opcode h)).trans
    (dmaCmp_of_pstore hssp hn (by rw [hget]; exact ha) (accessBad_pstore (by rw [hget]; exact hring) hend))
  obtain ⟨u, hrun, hone, hprog, honly, hu⟩ := dmaRun_of_flight hflights h hact rfl rfl
  obtain ⟨⟨hpc, ha', hz, hfs, -⟩, hkept⟩ := registers_of_read hone hprog (by rw [hu]; exact hmax) rfl rfl rfl (.inl (by simp [cmpFlight, Flight.holding]))
  rw [hu] at hpc ha' hz hfs
  exact ⟨_, _, hrun.symm, hfs, rfl, rfl, rfl, hz, ha', hpc, hkept.trans honly⟩

/-- CMP below address 0 (R471). -/
theorem dmaRun_of_negative_cmp {n : Fin 8} (h : executes c 4 w x s) (hn : n = Fin.ofNat 8 (fld w 53 51))
    (hneg : (s.dma[c].a[n].toNat : Int) + toSigned 32 (fld w 31 0) < 0) :
    ∃ t, t = dmaRun c 4 s ∧ t.dma[c].z = false ∧ t.dma[c].flights = [] ∧ t.dma[c].badsteps = satInc s.dma[c].badsteps ∧ onlyChannel c t s := by
  have hfetch := onlyChannel_updDma c (fun d => fetched d (wordCount 4)) s
  have hget := State.updDma_get c (fun d => fetched d (wordCount 4)) s
  obtain ⟨addr, f, hpieces, hfeoc, hfrel, hcmp⟩ := dmaCmp_of_negative (c := c) (pc := s.dma[c].pc.toNat) (x := x)
    (s := s.updDma c fun d => fetched d (wordCount 4)) hn (by rw [hget]; exact hneg)
  obtain ⟨⟨m, hm⟩, honly⟩ := dmaBad_channel c s.dma[c].pc.toNat 4 .range addr (s.updDma c fun d => fetched d (wordCount 4))
  rw [hget] at hm
  have hbad := honly.trans hfetch
  have hflight : onlyFlights c [f] ((dmaBad c s.dma[c].pc.toNat 4 .range addr (s.updDma c fun d => fetched d (wordCount 4))).updDma c
      fun d => { d with flights := d.flights ++ [f], z := false }) :=
    onlyFlights_updDma (onlyFlights_of_onlyChannel (gs := []) hflights hbad (by rw [hm]; exact hflights.1)) (by
      rw [hm]
      show s.dma[c].flights ++ [f] = [f]
      simp [hflights.1, -Fin.getElem_fin])
  have hnow := State.updDma_get c (fun d => { d with flights := d.flights ++ [f], z := false })
    (dmaBad c s.dma[c].pc.toNat 4 .range addr (s.updDma c fun d => fetched d (wordCount 4)))
  rw [hm] at hnow
  obtain ⟨⟨-, -, hz, hfs, -, -, hbadsteps, -⟩, hkept⟩ := registers_of_ended hflight (by rw [hnow]; exact executes_pstore h) hpieces hfeoc hfrel
    (by rw [hnow]; exact executes_unfenced h)
  rw [hnow] at hz hfs hbadsteps
  refine ⟨_, ?_, hz, hfs, hbadsteps, hkept.trans ((onlyChannel_updDma c _ _).trans hbad)⟩
  rw [dmaRun_of_executes hflights h, dmaAct_cmp (executes_opcode h), hcmp]

end

end Sys2Proof.Machine
end

section
/-! A MOVEX of any length: whatever its elements meet, its channel goes on behind it and no store changes before an answer. -/

namespace Sys2Proof.Machine

open Sys2Proof Sys2Proof.Safety

/-! ### Where a channel stands -/

/-- Where a step in flight stands in its program. -/
def Flight.site (f : Flight) : Nat × Nat := (f.pc, f.words)

/-- Where a channel stands in its program, its count of steps, its control word, its fence and the places of its steps in flight. -/
def Dma.place (d : Dma) : Word × BitVec 48 × Word × Option Fence × List (Nat × Nat) :=
  (d.pc, d.steps, d.ctl, d.fence, d.flights.map Flight.site)

/-- The places of all channels, with the stores inside the device. -/
def State.places (s : State) : (Fin 512 → Word × BitVec 48 × Word × Option Fence × List (Nat × Nat)) × Mem × Mem :=
  (fun k => s.dma[k].place, s.pstore, s.mapStore)

theorem place_of_places {s t : State} (h : t.places = s.places) (k : Fin 512) : t.dma[k].place = s.dma[k].place := congrFun (congrArg (·.1) h) k

theorem State.places_congr {s t : State} (hdma : t.dma = s.dma) (hps : t.pstore = s.pstore) (hmap : t.mapStore = s.mapStore) : t.places = s.places := by
  simp only [State.places, hdma, hps, hmap]

theorem State.updDma_places {c : Fin 512} {f : Dma → Dma} {s : State} (h : (f s.dma[c]).place = s.dma[c].place) : (s.updDma c f).places = s.places := by
  refine Prod.ext (funext fun k => ?_) rfl
  by_cases hk : k = c
  · subst hk
    exact (congrArg Dma.place (State.updDma_get k f s)).trans h
  · exact congrArg Dma.place (State.updDma_get_ne hk f s)

@[simp] theorem publish_places (code : Nat) (s : State) : (publish code s).places = s.places := by
  rw [publish_frame]
  rfl

theorem places_of_channel {c : Fin 512} {s t : State} (h : t.dma[c].place = s.dma[c].place) (k : onlyChannel c t s) : t.places = s.places := by
  obtain ⟨hps, hmap, -⟩ := k.stores
  refine Prod.ext (funext fun j => ?_) (Prod.ext hps hmap)
  by_cases hj : j = c
  · subst hj
    exact h
  · exact congrArg Dma.place (k.2 j hj)

@[simp] theorem dmaCause_places (c : Fin 512) (bit : Nat) (s : State) : (dmaCause c bit s).places = s.places := by
  obtain ⟨⟨m, hm⟩, honly⟩ := dmaCause_channel c bit s
  refine places_of_channel ?_ honly
  rw [hm]
  rfl

@[simp] theorem dmaBad_places (c : Fin 512) (pc opc : Nat) (cause : BadCause) (addr : Nat) (s : State) : (dmaBad c pc opc cause addr s).places = s.places :=
  (dmaCause_places c 2 _).trans (State.updDma_places rfl)

theorem Flight.mark_places (f : Flight) (c : Fin 512) (cause : BadCause) (addr : Nat) (s : State) :
    (f.mark c cause addr s).1.site = f.site ∧ (f.mark c cause addr s).2.places = s.places := by
  unfold Flight.mark
  split
  · exact ⟨rfl, rfl⟩
  · exact ⟨rfl, dmaBad_places c _ _ _ _ s⟩

theorem foldl_send_places {α : Type} (l : List α) (x : α → Tx) (s : State) : (l.foldl (fun s a => s.send (x a)) s).places = s.places := by
  induction l generalizing s with
  | nil => rfl
  | cons a l ih => exact ih _

@[simp] theorem sendReads_places (c : Fin 512) (a k : Nat) (s : State) : (sendReads c a k s).places = s.places :=
  foldl_send_places _ _ s

@[simp] theorem sendWrites_places (c : Fin 512) (a : Nat) (bs : List Byte) (bad : List Nat) (s : State) : (sendWrites c a bs bad s).places = s.places :=
  foldl_send_places _ _ s

/-! ### Requests and writes leave the places -/

theorem splitFlights_append {l a rest : List Flight} {f : Flight} {before after : List Piece} {p : Piece}
    (h : splitFlights l = some (a, f, before, p, after, rest)) : l = a ++ f :: rest := by
  induction l generalizing a f before p after rest with
  | nil => simp [splitFlights] at h
  | cons g l ih =>
    unfold splitFlights at h
    split at h
    · simp only [Option.some.injEq, Prod.mk.injEq] at h
      obtain ⟨rfl, rfl, -, -, -, rfl⟩ := h
      rfl
    · simp only [Option.map_eq_some_iff, Prod.mk.injEq, Prod.exists] at h
      obtain ⟨b, g', before', p', after', rest', hsplit, rfl, rfl, -, -, -, rfl⟩ := h
      rw [ih hsplit]
      rfl

/-- A step put back in its place among the steps in flight. -/
theorem put_places {c : Fin 512} {a rest : List Flight} {f g : Flight} {s t : State} (hsplit : s.dma[c].flights = a ++ f :: rest)
    (hg : g.site = f.site) (ht : t.places = s.places) : (t.updDma c fun d => { d with flights := a ++ g :: rest }).places = s.places := by
  refine (State.updDma_places ?_).trans ht
  have hplace : t.dma[c].place = s.dma[c].place := place_of_places ht c
  simp only [Dma.place, hsplit, List.map_append, List.map_cons, Prod.mk.injEq] at hplace ⊢
  obtain ⟨-, -, -, -, hmap⟩ := hplace
  exact ⟨trivial, trivial, trivial, trivial, by rw [hmap, hg]⟩

theorem issueOne_places {c : Fin 512} {s t : State} (h : issueOne c s = some t) : t.places = s.places := by
  unfold issueOne at h
  split at h
  · simp at h
  next a f before p after rest hsplit =>
    have hl := splitFlights_append hsplit
    dsimp only at h
    split at h
    · obtain ⟨hsite, hplaces⟩ := f.mark_places c .internal (if p.st == .tabWait then p.tab else p.src) s
      rw [← Option.some.inj h]
      exact put_places hl hsite hplaces
    · split at h
      · simp at h
      · have hnext : (s.updDma c fun d => { d with nextId := d.nextId + 1 }).places = s.places := State.updDma_places rfl
        split at h <;> rw [← Option.some.inj h] <;> refine put_places hl (g := { f with pieces := _ }) rfl ?_ <;> split
        · exact (sendReads_places c _ _ _).trans hnext
        · exact hnext
        · exact (sendReads_places c _ _ _).trans hnext
        · exact hnext

theorem issueRound_places (cls : Fin 4) (s : State) : (issueRound cls s).2.places = s.places := by
  unfold issueRound
  refine List.foldlRecOn (motive := fun r : Bool × State => r.2.places = s.places) _ _ rfl fun r hr c _ => ?_
  dsimp only
  split
  next h => exact (issueOne_places h).trans hr
  next => exact hr

theorem issueClass_places (cls : Fin 4) (k : Nat) (s : State) : (issueClass cls k s).places = s.places := by
  induction k generalizing s with
  | zero => rw [issueClass_zero]
  | succ k ih =>
    rw [issueClass_succ]
    split
    · exact (ih _).trans (issueRound_places cls s)
    · rfl

@[simp] theorem issueAll_places (s : State) : (issueAll s).places = s.places := by simp only [issueAll, issueClass_places]

theorem writePieces_places (c : Fin 512) (ps : List Piece) (f : Flight) (ord : Bool) (s : State) :
    (writePieces c ps f ord s).2.1.site = f.site ∧ (writePieces c ps f ord s).2.2.2.places = s.places := by
  induction ps generalizing f ord s with
  | nil => exact ⟨rfl, rfl⟩
  | cons p ps ih =>
    unfold writePieces
    split
    next => exact ih f ord s
    next bs bad _ =>
      split
      · split
        · split
          · obtain ⟨hsite, hplaces⟩ := ih { f with bytes := f.bytes + bs.length } true (sendWrites c p.dst bs bad s)
            exact ⟨hsite, hplaces.trans (sendWrites_places c _ _ _ s)⟩
          · obtain ⟨hmark, hmarked⟩ := f.mark_places c .internal p.dst s
            obtain ⟨hsite, hplaces⟩ := ih (f.mark c .internal p.dst s).1 true (f.mark c .internal p.dst s).2
            exact ⟨hsite.trans hmark, hplaces.trans hmarked⟩
        · exact ih f false s
      · obtain ⟨hsite, hplaces⟩ := ih f ord (s.updDma c fun d => { d with nextId := d.nextId + 1 })
        exact ⟨hsite, hplaces.trans (State.updDma_places rfl)⟩
    next => exact ih f (ord && (f.op != .move || f.dsp != .host)) s

theorem writeFlights_places (c : Fin 512) (fs : List Flight) (ord : Bool) (s : State) :
    (writeFlights c fs ord s).1.map Flight.site = fs.map Flight.site ∧ (writeFlights c fs ord s).2.places = s.places := by
  induction fs generalizing ord s with
  | nil => exact ⟨rfl, rfl⟩
  | cons f fs ih =>
    obtain ⟨hsite, hplaces⟩ := writePieces_places c f.pieces f ord s
    obtain ⟨hrest, hplaces'⟩ := ih (writePieces c f.pieces f ord s).2.2.1 (writePieces c f.pieces f ord s).2.2.2
    refine ⟨?_, hplaces'.trans hplaces⟩
    simp only [writeFlights, List.map_cons, hrest]
    exact congrArg (· :: fs.map Flight.site) hsite

@[simp] theorem writeAll_places (c : Fin 512) (s : State) : (writeAll c s).places = s.places := by
  obtain ⟨hsites, hplaces⟩ := writeFlights_places c s.dma[c].flights true s
  refine (State.updDma_places ?_).trans hplaces
  have hplace := place_of_places hplaces c
  simp only [Dma.place, Prod.mk.injEq] at hplace ⊢
  obtain ⟨-, -, -, -, hmap⟩ := hplace
  exact ⟨trivial, trivial, trivial, trivial, by rw [hmap, hsites]⟩

theorem gatherPieces_places (c : Fin 512) (da ta : Fin 8) (dst tab size k i : Nat) (f : Flight) (s : State) :
    (gatherPieces c da ta dst tab size k i f s).2.1.site = f.site ∧ (gatherPieces c da ta dst tab size k i f s).2.2.places = s.places := by
  induction k generalizing i f s with
  | zero => exact ⟨rfl, rfl⟩
  | succ k ih =>
    unfold gatherPieces
    dsimp only
    split
    next cause addr _ =>
      obtain ⟨hmark, hmarked⟩ := f.mark_places c cause addr s
      obtain ⟨hsite, hplaces⟩ := ih (i + 1) (f.mark c cause addr s).1 (f.mark c cause addr s).2
      exact ⟨hsite.trans hmark, hplaces.trans hmarked⟩
    next => exact ih (i + 1) f s

/-! ### The end of the step -/

/-- A channel that stands where it stood, behind its fence, with the stores as they were. -/
def stands (c : Fin 512) (t s : State) : Prop :=
  t.dma[c].pc = s.dma[c].pc ∧ t.dma[c].steps = s.dma[c].steps ∧ t.dma[c].ctl = s.dma[c].ctl ∧ t.dma[c].fence = s.dma[c].fence
    ∧ t.pstore = s.pstore ∧ t.mapStore = s.mapStore

theorem stands.trans {c : Fin 512} {s t u : State} (h : stands c u t) (k : stands c t s) : stands c u s := by
  obtain ⟨h1, h2, h3, h4, h5, h6⟩ := h
  obtain ⟨k1, k2, k3, k4, k5, k6⟩ := k
  exact ⟨h1.trans k1, h2.trans k2, h3.trans k3, h4.trans k4, h5.trans k5, h6.trans k6⟩

theorem stands.refl (c : Fin 512) (s : State) : stands c s s := ⟨rfl, rfl, rfl, rfl, rfl, rfl⟩

theorem stands_of_places {c : Fin 512} {s t : State} (h : t.places = s.places) : stands c t s := by
  have hplace := place_of_places h c
  simp only [Dma.place, Prod.mk.injEq] at hplace
  obtain ⟨hpc, hsteps, hctl, hfence, -⟩ := hplace
  exact ⟨hpc, hsteps, hctl, hfence, congrArg (·.2.1) h, congrArg (·.2.2) h⟩

theorem stands_updDma {c : Fin 512} {f : Dma → Dma} {s : State} (hpc : (f s.dma[c]).pc = s.dma[c].pc) (hsteps : (f s.dma[c]).steps = s.dma[c].steps)
    (hctl : (f s.dma[c]).ctl = s.dma[c].ctl) (hfence : (f s.dma[c]).fence = s.dma[c].fence) : stands c (s.updDma c f) s := by
  unfold stands
  rw [State.updDma_get]
  exact ⟨hpc, hsteps, hctl, hfence, rfl, rfl⟩

theorem stands_dmaHalt {c : Fin 512} {h : Halt} {pc : Nat} {s : State} (hpc : BitVec.ofNat 32 pc = s.dma[c].pc) (hfence : s.dma[c].fence = none) :
    stands c (dmaHalt c h pc s) s := by
  obtain ⟨⟨m, hm⟩, honly⟩ := dmaHalt_channel c h pc s
  obtain ⟨hps, hmap, -⟩ := honly.stores
  unfold stands
  rw [hm]
  exact ⟨hpc, rfl, rfl, hfence.symm, hps, hmap⟩

theorem stands_releasePacket (c q : Fin 512) (s : State) : stands c (releasePacket q s) s := by
  have hpool : (releasePacket q s).unpooled = s.unpooled := by
    unfold releasePacket handBack
    split <;> simp
  have hdma : (releasePacket q s).dma = s.dma := (congrArg State.dma hpool :)
  unfold stands
  rw [hdma]
  exact ⟨rfl, rfl, rfl, rfl, (congrArg State.pstore hpool :), (congrArg State.mapStore hpool :)⟩

/-- The release of a packet ends at the word behind its step (R484). -/
theorem stands_releaseTaken {c : Fin 512} {next : Nat} {s : State} (hnext : BitVec.ofNat 32 next = s.dma[c].pc) (hfence : s.dma[c].fence = none) :
    stands c (releaseTaken c next s) s := by
  unfold releaseTaken
  split
  · exact stands.refl c s
  next t _ =>
    split
    · have hupd : stands c (s.updDma c fun d => { d with taken := some { t with failures := t.failures + 1, bad := false } }) s :=
        stands_updDma rfl rfl rfl rfl
      dsimp only
      split
      · exact (stands_dmaHalt (hnext.trans hupd.1.symm) (hupd.2.2.2.1.trans hfence)).trans hupd
      · exact hupd
    · exact (stands_releasePacket c t.q _).trans (stands_updDma rfl rfl rfl rfl)

theorem stands_completeStep {c : Fin 512} {f : Flight} {s : State} (hnext : BitVec.ofNat 32 (f.pc + f.words) = s.dma[c].pc)
    (hfence : s.dma[c].fence = none) : stands c (completeStep c f s) s := by
  unfold completeStep
  dsimp only
  generalize hu : s.updDma c _ = u
  have hupd : stands c u s := by
    rw [← hu]
    exact stands_updDma rfl rfl rfl rfl
  generalize hv : (if f.eoc = true then publish (0x1800 + c.1) (dmaCause c 0 u) else u) = v
  have heoc : stands c v s := by
    rw [← hv]
    split
    · exact (stands_of_places (by simp)).trans hupd
    · exact hupd
  have hkept := heoc
  obtain ⟨hpc, -, -, hf, -⟩ := hkept
  split
  · exact (stands_releaseTaken (hnext.trans hpc.symm) (hf.trans hfence)).trans heoc
  · exact heoc

/-- One step in flight, complete or not, retires to the word behind it. -/
theorem stands_retire {c : Fin 512} {pc : Nat} {s : State} (hsites : s.dma[c].flights.map Flight.site = [(pc, 2)])
    (hpc : BitVec.ofNat 32 (pc + 2) = s.dma[c].pc) (hfence : s.dma[c].fence = none) : stands c (retire c s.dma[c].flights.length s) s := by
  obtain ⟨f, hf, hsite⟩ := List.map_eq_singleton_iff.mp hsites
  obtain ⟨hfpc, hfwords⟩ := Prod.mk.inj hsite
  rw [hf]
  simp only [List.length_singleton, retire, hf]
  split
  · have hupd : stands c (s.updDma c fun d => { d with flights := [] }) s := stands_updDma rfl rfl rfl rfl
    refine (stands_completeStep ?_ (hupd.2.2.2.1.trans hfence)).trans hupd
    rw [hfpc, hfwords, hpc]
    exact hupd.1.symm
  · exact stands.refl c s

/-- The elements of a MOVEX gathered (R469). -/
def gathered (c : Fin 512) (pc : Nat) (w x : BitVec 64) (s : State) : List Piece × Flight × State :=
  gatherPieces c (Fin.ofNat 8 (fld w 50 48)) (Fin.ofNat 8 (fld w 44 42)) s.dma[c].a[(Fin.ofNat 8 (fld w 50 48) : Fin 8)].toNat
    s.dma[c].a[(Fin.ofNat 8 (fld w 44 42) : Fin 8)].toNat (fld x 31 0) (fld w 31 0) 0 (movexFlight s.dma[c] pc w) s

theorem dmaMovex_eq (c : Fin 512) (pc : Nat) (w x : BitVec 64) (s : State) :
    dmaMovex c pc w x s = (gathered c pc w x s).2.2.updDma c fun d =>
      (({ d with flights := d.flights ++ [{ (gathered c pc w x s).2.1 with pieces := (gathered c pc w x s).1 }] } : Dma).advanced (bitAt w 41)
        (Fin.ofNat 8 (fld w 50 48)) (fld w 31 0 * fld x 31 0)).advanced (bitAt w 40) (Fin.ofNat 8 (fld w 44 42)) (4 * fld w 31 0) := rfl

theorem Dma.advanced_place (d : Dma) (on : Bool) (n : Fin 8) (k : Nat) : (d.advanced on n k).place = d.place := by cases on <;> rfl

/-- A MOVEX puts one step in flight and changes its channel's address registers besides (R469). -/
theorem dmaMovex_places {c : Fin 512} {w x : BitVec 64} {s u : State} (hflights : onlyFlights c [] s)
    (hu : dmaMovex c s.dma[c].pc.toNat w x (s.updDma c fun d => fetched d (wordCount 2)) = u) :
    u.dma[c].pc = s.dma[c].pc + 2 ∧ u.dma[c].steps = satInc s.dma[c].steps ∧ u.dma[c].ctl = s.dma[c].ctl ∧ u.dma[c].fence = s.dma[c].fence
      ∧ u.dma[c].flights.map Flight.site = [(s.dma[c].pc.toNat, 2)] ∧ u.pstore = s.pstore ∧ u.mapStore = s.mapStore := by
  obtain ⟨hsite, hplaces⟩ : (gathered c s.dma[c].pc.toNat w x (s.updDma c fun d => fetched d (wordCount 2))).2.1.site = (s.dma[c].pc.toNat, 2)
      ∧ (gathered c s.dma[c].pc.toNat w x (s.updDma c fun d => fetched d (wordCount 2))).2.2.places
        = (s.updDma c fun d => fetched d (wordCount 2)).places := gatherPieces_places c _ _ _ _ _ _ _ _ _
  rw [dmaMovex_eq] at hu
  generalize gathered c s.dma[c].pc.toNat w x (s.updDma c fun d => fetched d (wordCount 2)) = g at hsite hplaces hu
  have hfetched := place_of_places hplaces c
  rw [State.updDma_get] at hfetched
  simp only [Dma.place, Prod.mk.injEq] at hfetched
  obtain ⟨hpc, hsteps, hctl, hfence, hsites⟩ := hfetched
  have hplace := congrArg (fun t : State => t.dma[c].place) hu.symm
  simp only [State.updDma_get, Dma.advanced_place] at hplace
  simp only [Dma.place, Prod.mk.injEq] at hplace
  obtain ⟨hpc', hsteps', hctl', hfence', hsites'⟩ := hplace
  refine ⟨hpc'.trans hpc, hsteps'.trans hsteps, hctl'.trans hctl, hfence'.trans hfence, hsites'.trans ?_, ?_, ?_⟩
  · rw [List.map_append, hsites]
    have hnone : (fetched s.dma[c] (wordCount 2)).flights = [] := hflights.1
    rw [hnone]
    exact congrArg (fun y => [y]) hsite
  · rw [← hu]
    exact (congrArg (·.2.1) hplaces :)
  · rw [← hu]
    exact (congrArg (·.2.2) hplaces :)

/-- A MOVEX of any length (R469). -/
theorem dmaRun_of_movex {c : Fin 512} {w x : BitVec 64} {s : State} (hflights : onlyFlights c [] s) (h : executes c 2 w x s) :
    ∃ t, t = dmaRun c 2 s ∧ t.dma[c].steps = satInc s.dma[c].steps ∧ t.dma[c].pc = s.dma[c].pc + 2 ∧ t.pstore = s.pstore ∧ t.mapStore = s.mapStore := by
  generalize hu : dmaMovex c s.dma[c].pc.toNat w x (s.updDma c fun d => fetched d (wordCount 2)) = u
  have hrun : dmaRun c 2 s = dmaSettle c u := by rw [dmaRun_of_executes hflights h, dmaAct_movex (executes_opcode h), hu]
  obtain ⟨hpc, hsteps, hctl, hfence, hsites, hps, hmap⟩ := dmaMovex_places hflights hu
  have hfence' : u.dma[c].fence = none := hfence.trans (executes_unfenced h)
  have hissued : (writeAll c (issueAll (writeAll c u))).places = u.places := by simp
  generalize hv : writeAll c (issueAll (writeAll c u)) = v at hissued
  have hvplace := place_of_places hissued c
  simp only [Dma.place, Prod.mk.injEq] at hvplace
  obtain ⟨hvpc, -, -, hvfence, hvsites⟩ := hvplace
  have hretire := stands_retire (hvsites.trans hsites) (pc := s.dma[c].pc.toNat) (by
    rw [hvpc, hpc]
    exact BitVec.eq_of_toNat_eq (by simp [-Fin.getElem_fin])) (hvfence.trans hfence')
  generalize hr : retire c v.dma[c].flights.length v = r at hretire
  have hall : stands c (issueAll r) u := (stands_of_places (issueAll_places r)).trans (hretire.trans (stands_of_places hissued))
  obtain ⟨hrpc, hrsteps, hrctl, -, hrps, hrmap⟩ := hall
  have hacts : fenceActs c r = r := fenceActs_of_none (by
    obtain ⟨-, -, -, hrfence, -⟩ := hretire
    exact hrfence.trans (hvfence.trans hfence'))
  obtain ⟨⟨hfpc, -, -, -, hfsteps, -⟩, honly⟩ := fetchMore_registers (c := c) (s := issueAll r) (by
    rw [Dma.hostProgram, hrctl, hctl]
    exact executes_pstore h)
  obtain ⟨hfps, hfmap, -⟩ := honly.stores
  have hsettle : dmaSettle c u = fetchMore c (issueAll r) := by
    simp only [dmaSettle, hv, hr, hacts]
  refine ⟨_, hrun.symm, ?_, ?_, ?_, ?_⟩ <;> rw [hsettle]
  · exact hfsteps.trans (hrsteps.trans hsteps)
  · exact hfpc.trans (hrpc.trans hpc)
  · exact hfps.trans (hrps.trans hps)
  · exact hfmap.trans (hrmap.trans hmap)

/-- Settles O50: each transfer by its lemma above, and an instruction of another opcode is not this command's. -/
theorem transferInstructions : Obligations.TransferInstructions := by
  unfold Obligations.TransferInstructions
  rintro c w x d s rfl hflights
  refine ⟨fun n h hspace hn hring hend => ?_, fun n m h hn hm hssp hdsp hfixed hsrc hdst hblock hsend hdend hmax => ?_,
    fun n h hn hssp hfixed hsstep hdstep hrelease heoc hring => ?_, fun h => ?_,
    fun n m h hone hn hm htsp hssp hdsp htab hdst htend hdend hmax => ?_, fun n h hn => ⟨fun hneg => ?_, fun a ha hssp hring hend hmax => ?_⟩,
    fun y hready => ?_⟩
  · obtain ⟨t, f, rfl, hfs, hbad, hopc, hpc, hpieces, ha, honly⟩ := dmaRun_of_fill hflights h hspace hn hring hend
    exact ⟨_, f, rfl, hfs, hbad, hopc, hpc, hpieces, ha, honly.stores⟩
  · obtain ⟨t, f, rfl, hfs, hbad, hop, hs, hd, hpieces, ha, hsteps, hbadsteps, honly⟩ :=
      dmaRun_of_move hflights h hn hm hssp hdsp hfixed hsrc hdst hblock hsend hdend hmax
    exact ⟨_, f, rfl, hfs, hbad, hop, hs, hd, hpieces, ha, hsteps, hbadsteps, honly.stores⟩
  · obtain ⟨t, e, rest, rfl, hfs, hbadsteps, hlog, hpc, hcause, hop, haddr, hstat, ha, honly⟩ :=
      dmaRun_of_bad_move hflights h hn hssp hfixed hsstep hdstep hrelease heoc hring
    exact ⟨_, e, rest, rfl, hfs, hbadsteps, hlog, hpc, hcause, hop, haddr, hstat, ha, honly.stores⟩
  · obtain ⟨t, rfl, hsteps, hpc, hps, hmap⟩ := dmaRun_of_movex hflights h
    exact ⟨_, rfl, hsteps, hpc, hps, hmap⟩
  · obtain ⟨t, f, rfl, hfs, hbad, hspace, hpieces⟩ := dmaRun_of_movex_one hflights h hone hn hm htsp hdsp htab hdst htend hdend hmax
    exact ⟨_, f, rfl, hfs, hbad, hspace, hpieces⟩
  · obtain ⟨t, rfl, hz, hfs, hbadsteps, honly⟩ := dmaRun_of_negative_cmp hflights h hn hneg
    exact ⟨_, rfl, hz, hfs, hbadsteps, honly.stores.1, honly.stores.2.2⟩
  · obtain ⟨t, f, rfl, hfs, hbad, hop, hpieces, hz, ha', hpc, honly⟩ := dmaRun_of_cmp hflights h hn ha hssp hring hend hmax
    exact ⟨_, f, rfl, hfs, hbad, hop, hpieces, hz, ha', hpc, honly.stores.1, honly.stores.2.2⟩
  · exact ⟨fun hopc => congrArg Host.Outcome.next (dmaRun_of_other hready hopc), fun hopc => congrArg Host.Outcome.next (dmaRun_of_other hready hopc),
      fun hopc => congrArg Host.Outcome.next (dmaRun_of_other hready hopc), fun hopc => congrArg Host.Outcome.next (dmaRun_of_other hready hopc)⟩

end Sys2Proof.Machine
end

section
/-! What comes back to a channel: answers, time-outs, ends of waits and fetched words; and RESUME. -/

namespace Sys2Proof.Machine

open Sys2Proof Sys2Proof.Safety

/-! ### The step that an answer belongs to -/

/-- A piece waits for an answer: its request is outstanding, or its write is not acknowledged. -/
def Piece.awaits (p : Piece) : Bool :=
  p.asked || match p.st with
    | .ack _ _ => true
    | _ => false

theorem findPiece_of_one {f : Flight} {p : Piece} {id : Nat} (hpieces : f.pieces = [p]) (hid : p.id = id) (hwait : p.awaits = true) :
    findPiece id [f] = some (f, p) := by
  have hfind : (f.pieces.find? fun p => p.id == id && p.awaits) = some p := by simp [hpieces, hid, hwait]
  unfold findPiece
  change (match f.pieces.find? fun p => p.id == id && p.awaits with
    | some p => some (f, p)
    | none => findPiece id []) = some (f, p)
  rw [hfind]

theorem findPiece_nil (id : Nat) : findPiece id [] = none := by rw [findPiece]

theorem replace_of_one {f : Flight} {p : Piece} {id : Nat} (hpieces : f.pieces = [p]) (hid : p.id = id) (hissued : p.unissued = false) :
    f.replace id [] = { f with pieces := [] } := by
  simp [Flight.replace, hpieces, hid, hissued]

theorem unissued_of_awaits {p : Piece} (h : p.awaits = true) : p.unissued = false := by
  unfold Piece.awaits Piece.asked at h
  unfold Piece.unissued
  revert h
  cases p.st <;> simp

section
variable {c : Fin 512} {f : Flight} {p : Piece} {id : Nat} {s : State} (hpieces : f.pieces = [p]) (hid : p.id = id)
  (hwait : p.awaits = true)
include hpieces hid hwait

theorem putFlight_of_one {g : Flight} (hflights : s.dma[c].flights = [f]) (hpc : f.pc = g.pc) (hg : g.pieces = [p]) :
    putFlight c id (g.replace id []) s = s.updDma c fun d => { d with flights := [{ g with pieces := [] }] } := by
  rw [replace_of_one hg hid (unissued_of_awaits hwait)]
  refine State.updDma_eq ?_
  simp only [hflights, List.map_cons, List.map_nil, findPiece_of_one hpieces hid hwait, Option.isSome_some, hpc, true_and, if_true]

/-- The acknowledgement of a write of PSTORE lands its bytes, and its piece ends (R478, R486). -/
theorem dmaAnswer_of_ack {bs : List Byte} {bad : List Nat} (hflights : s.dma[c].flights = [f]) (hst : p.st = .ack bs bad) (hspace : f.dsp = .pstore)
    (hend : p.dst + bs.length ≤ 2 ^ 20) (poison : Bool) :
    dmaAnswer c id (.ok [] poison) s = ({ s with pstore := s.pstore.write p.dst bs bad } : State).updDma c fun d =>
      { d with flights := [{ f with bytes := f.bytes + bs.length, pieces := [] }] } := by
  have hinside : extentBad c .pstore p.dst bs.length s = none := if_neg (Nat.not_lt.mpr hend)
  have hput := putFlight_of_one (c := c) (s := ({ s with pstore := s.pstore.write p.dst bs bad } : State))
    (g := { f with bytes := f.bytes + bs.length }) hpieces hid hwait hflights rfl hpieces
  simp only [hspace] at hput
  simp only [dmaAnswer, hflights, findPiece_of_one hpieces hid hwait, hst, hspace, hinside]
  exact hput

/-- The word that a comparison reads in HOST sets Z, and its piece ends (R471). -/
theorem dmaAnswer_of_cmp {func mask value : Nat} {bs : List Byte} (hflights : s.dma[c].flights = [f]) (hop : f.op = .cmp func mask value)
    (hspace : f.ssp = .host) (hst : p.st = .read) (hlen : p.len = 4) :
    dmaAnswer c id (.ok bs false) s = s.updDma c fun d =>
      { d with flights := [{ f with pieces := [] }], z := cmpHolds func (ofLe (padTo 4 bs) &&& mask) (value &&& mask) } := by
  have hsp : f.space p = .host := by simp [Flight.space, hst, hspace]
  have hput := putFlight_of_one (c := c) (s := s) (g := f) hpieces hid hwait hflights rfl hpieces
  have hdata : pieceData c id f p (padTo 4 bs) [] s = s.updDma c fun d =>
      { d with flights := [{ f with pieces := [] }], z := cmpHolds func (ofLe (padTo 4 bs) &&& mask) (value &&& mask) } := by
    simp only [pieceData, hop, hst, hput, State.updDma_updDma]
    simp
  simp only [dmaAnswer, hflights, findPiece_of_one hpieces hid hwait, hst, hsp, hlen]
  exact hdata

/-- A move whose read of HOST is not answered in time is marked bad, and its piece ends (R486). -/
theorem dmaTimeout_of_read (hflights : s.dma[c].flights = [f]) (hop : f.op = .move) (hspace : f.ssp = .host) (hst : p.st = .read)
    (hgood : f.bad = false) :
    dmaTimeout c id s = (dmaBad c f.pc f.opc .timeout p.src s).updDma c fun d => { d with flights := [{ f with bad := true, pieces := [] }] } := by
  obtain ⟨⟨m, hm⟩, -⟩ := dmaBad_channel c f.pc f.opc .timeout p.src s
  have hput := putFlight_of_one (c := c) (s := dmaBad c f.pc f.opc .timeout p.src s) (g := { f with bad := true })
    hpieces hid hwait (by rw [hm]; exact hflights) rfl hpieces
  have hmark : f.mark c .timeout p.src s = ({ f with bad := true }, dmaBad c f.pc f.opc .timeout p.src s) :=
    if_neg (Bool.eq_false_iff.mp hgood)
  simp only [dmaTimeout, hflights, findPiece_of_one hpieces hid hwait, hst, hasTimeout, hspace, pieceFails, hmark, hop, if_true]
  simp only [hspace, hop] at hput
  exact hput

end

/-! ### Answers -/

section
variable {c : Fin 512} {f : Flight} {p : Piece} {id : Nat} {s : State} (hreset : inReset (.dma c) s = false)
  (hprog : s.dma[c].hostProgram = false) (hfence : s.dma[c].fence = none) (hpieces : f.pieces = [p]) (hid : p.id = id)
  (hflights : onlyFlights c [f] s) (heoc : f.eoc = false) (hrelease : f.release = false)
include hreset hprog hfence hpieces hid hflights heoc hrelease

/-- The acknowledgement of a write inside the device (R478). -/
theorem exec_readResponse_of_ack {bs : List Byte} {bad : List Nat} (hst : p.st = .ack bs bad) (hspace : f.dsp = .pstore)
    (hend : p.dst + bs.length ≤ 2 ^ 20) (poison : Bool) :
    ∃ t, exec (.readResponse c id (.ok [] poison)) s = .next t ∧ t.pstore = s.pstore.write p.dst bs bad ∧ t.dma[c].flights = []
      ∧ t.dma[c].bytes = satAdd s.dma[c].bytes (f.bytes + bs.length) ∧ t.dma[c].badsteps = s.dma[c].badsteps ∧ t.mapStore = s.mapStore := by
  have hwait : p.awaits = true := by simp [Piece.awaits, hst]
  have hland : onlyFlights c [f] ({ s with pstore := s.pstore.write p.dst bs bad } : State) := hflights
  have hget := State.updDma_get c (fun d => { d with flights := [{ f with bytes := f.bytes + bs.length, pieces := [] }] })
    ({ s with pstore := s.pstore.write p.dst bs bad } : State)
  have hended := onlyFlights_updDma (f := fun d => { d with flights := [{ f with bytes := f.bytes + bs.length, pieces := [] }] }) hland rfl
  obtain ⟨⟨-, -, -, hfs, -, hbytes, hbadsteps, -⟩, honly⟩ :=
    registers_of_ended hended (by rw [hget]; exact hprog) rfl heoc hrelease (by rw [hget]; exact hfence)
  rw [hget] at hfs hbytes hbadsteps
  obtain ⟨hps, hmap, -⟩ := honly.stores
  refine ⟨_, ?_, hps, hfs, hbytes, hbadsteps, hmap⟩
  simp only [exec, execReadResponse, hreset, Bool.false_eq_true, if_false, dmaAnswer_of_ack hpieces hid hwait hflights.1 hst hspace hend]

/-- The data of a comparison (R471). -/
theorem exec_readResponse_of_cmp {func mask value : Nat} {bs : List Byte} (hop : f.op = .cmp func mask value) (hspace : f.ssp = .host)
    (hst : p.st = .read) (hlen : p.len = 4) :
    ∃ t, exec (.readResponse c id (.ok bs false)) s = .next t ∧ t.dma[c].z = cmpHolds func (ofLe (padTo 4 bs) &&& mask) (value &&& mask)
      ∧ t.dma[c].flights = [] ∧ t.dma[c].badsteps = s.dma[c].badsteps ∧ t.pstore = s.pstore := by
  have hwait : p.awaits = true := by simp [Piece.awaits, Piece.asked, hst]
  have hget := State.updDma_get c (fun d =>
    { d with flights := [{ f with pieces := [] }], z := cmpHolds func (ofLe (padTo 4 bs) &&& mask) (value &&& mask) }) s
  have hended := onlyFlights_updDma (f := fun d =>
    { d with flights := [{ f with pieces := [] }], z := cmpHolds func (ofLe (padTo 4 bs) &&& mask) (value &&& mask) }) hflights rfl
  obtain ⟨⟨-, -, hz, hfs, -, -, hbadsteps, -⟩, honly⟩ :=
    registers_of_ended hended (by rw [hget]; exact hprog) rfl heoc hrelease (by rw [hget]; exact hfence)
  rw [hget] at hz hfs hbadsteps
  refine ⟨_, ?_, hz, hfs, hbadsteps, honly.stores.1⟩
  simp only [exec, execReadResponse, hreset, Bool.false_eq_true, if_false, dmaAnswer_of_cmp hpieces hid hwait hflights.1 hop hspace hst hlen]

/-- A read that is not answered in time (R486). -/
theorem exec_requestTimeout_of_read (hop : f.op = .move) (hspace : f.ssp = .host) (hst : p.st = .read) (hgood : f.bad = false) :
    ∃ t e rest, exec (.requestTimeout c id) s = .next t ∧ t.dma[c].flights = [] ∧ t.dma[c].badsteps = satInc s.dma[c].badsteps
      ∧ t.dma[c].badlog = e :: rest ∧ e.cause = .timeout ∧ e.addr = BitVec.ofNat 64 p.src ∧ t.pstore = s.pstore ∧ t.mapStore = s.mapStore := by
  have hwait : p.awaits = true := by simp [Piece.awaits, Piece.asked, hst]
  obtain ⟨⟨m, hm⟩, hbad⟩ := dmaBad_channel c f.pc f.opc .timeout p.src s
  have hget := State.updDma_get c (fun d => { d with flights := [{ f with bad := true, pieces := [] }] }) (dmaBad c f.pc f.opc .timeout p.src s)
  rw [hm] at hget
  have hended := onlyFlights_updDma (f := fun d => { d with flights := [{ f with bad := true, pieces := [] }] })
    (onlyFlights_of_onlyChannel (gs := [f]) hflights hbad (by rw [hm]; exact hflights.1)) rfl
  obtain ⟨⟨-, -, -, hfs, -, -, hbadsteps, hlog, -⟩, honly⟩ :=
    registers_of_ended hended (by rw [hget]; exact hprog) rfl heoc hrelease (by rw [hget]; exact hfence)
  rw [hget] at hfs hbadsteps hlog
  obtain ⟨hps, hmap, -⟩ := (honly.trans ((onlyChannel_updDma c _ _).trans hbad)).stores
  refine ⟨_, _, _, ?_, hfs, hbadsteps, hlog, rfl, rfl, hps, hmap⟩
  simp only [exec, execRequestTimeout, hreset, Bool.false_eq_true, if_false, dmaTimeout_of_read hpieces hid hwait hflights.1 hop hspace hst hgood]

end

/-- An answer to no request of a channel that does not run is discarded (R486). -/
theorem exec_unknown_answer {c : Fin 512} {s : State} (hfence : s.dma[c].fence = none) (hflights : onlyFlights c [] s)
    (hstate : s.dma[c].state ≠ .running) (id : Nat) (r : Resp) :
    exec (.readResponse c id r) s = .next s ∧ exec (.requestTimeout c id) s = .next s := by
  have hsettle : dmaSettle c s = s := (dmaSettle_of_unfenced hflights hfence).trans (fetchMore_of_stopped hstate)
  have hanswer : dmaAnswer c id r s = s := by simp only [dmaAnswer, hflights.1, findPiece_nil]
  have htimeout : dmaTimeout c id s = s := by simp only [dmaTimeout, hflights.1, findPiece_nil]
  simp [exec, execReadResponse, execRequestTimeout, hanswer, htimeout, hsettle]

/-! ### Waits -/

section
variable {c : Fin 512} {w : BitVec 64} {t0 : Nat} {s u : State} (hreset : inReset (.dma c) s = false) (hprog : s.dma[c].hostProgram = false)
  (hfence : s.dma[c].fence = none) (hflights : onlyFlights c [] s) (hstate : s.dma[c].state = .waiting) (hwait : s.dma[c].wait = some (w, t0))
include hreset hprog hfence hflights hstate hwait

theorem exec_waitSatisfied_of_doorbell (hkind : fld w 59 57 = 2) (hbell : fld w 31 0 ≤ s.dma[c].doorbell.toNat)
    (hu : s.updDma c (fun d => { d with doorbell := d.doorbell - BitVec.ofNat 32 (fld w 31 0), z := true, wait := none, state := .running }) = u)
    (hword : (programWord c 0 u).isSome = true) : exec (.waitSatisfied c) s = .next u := by
  have hholds : waitHolds c w t0 s = true := by simp [waitHolds, hkind, hbell, -Fin.getElem_fin]
  have hends : waitEnds c w s = s.updDma c fun d =>
      { d with doorbell := d.doorbell - BitVec.ofNat 32 (fld w 31 0), z := true, wait := none, state := .running } := by
    simp only [waitEnds, hkind, State.updDma_updDma]
  have hsettle := dmaSettle_updDma hflights hu hflights.1 hfence (.inr ⟨hprog, hword⟩)
  simp only [exec, execWaitSatisfied, hwait, hreset, hstate, hholds, hends, hsettle]
  simp

theorem exec_waitTimeout_of_limit (hlimit : fld w 55 32 ≠ 0)
    (hu : s.updDma c (fun d => { d with z := false, wait := none, state := .running }) = u) (hword : (programWord c 0 u).isSome = true) :
    exec (.waitTimeout c) s = .next u := by
  have hsettle := dmaSettle_updDma hflights hu hflights.1 hfence (.inr ⟨hprog, hword⟩)
  simp only [exec, execWaitTimeout, hwait, hreset, hstate, hsettle]
  simp [hlimit]

end

theorem exec_wait_of_none {c : Fin 512} {s : State} (h : s.dma[c].wait = none) :
    exec (.waitSatisfied c) s = .next s ∧ exec (.waitTimeout c) s = .next s := by
  simp only [exec, execWaitSatisfied, execWaitTimeout, h, and_self]

/-! ### Draining -/

theorem exec_dmaDrained_of_idle {c : Fin 512} {s : State} (hstate : s.dma[c].state = .draining) (hflights : s.dma[c].flights = [])
    (hfence : s.dma[c].fence = none) : exec (.dmaDrained c) s = .next (s.updDma c Dma.off) := by
  simp [exec, execDmaDrained, dmaDrained, hstate, hflights, hfence, -Fin.getElem_fin]

theorem exec_dmaDrained_of_other {c : Fin 512} {s : State} (hstate : s.dma[c].state ≠ .draining) : exec (.dmaDrained c) s = .next s := by
  simp [exec, execDmaDrained, dmaDrained, hstate, -Fin.getElem_fin]

/-! ### Program words of HOST -/

theorem wordLost_of_prefetch {c : Fin 512} {s : State} (hprog : s.dma[c].hostProgram = true) (hwords : s.dma[c].prefetch ≠ []) :
    wordLost c 0 s = false := by
  obtain ⟨w, ws, h⟩ := List.exists_cons_of_ne_nil hwords
  simp [wordLost, programWord, hprog, h, -Fin.getElem_fin]

theorem sendReads_dma (c : Fin 512) (a k : Nat) (s : State) : (sendReads c a k s).dma = s.dma ∧ (sendReads c a k s).pstore = s.pstore := by
  unfold sendReads
  exact List.foldlRecOn (motive := fun t : State => t.dma = s.dma ∧ t.pstore = s.pstore) _ _ ⟨rfl, rfl⟩ fun t ht x _ => ht

/-- A running channel that has words of HOST asks for more, or notes that none come: that is all (R491). -/
theorem fetchMore_of_prefetch {c : Fin 512} {s : State} (hprog : s.dma[c].hostProgram = true) (hrun : s.dma[c].state = .running)
    (hwords : s.dma[c].prefetch ≠ []) :
    ∃ out bad, (16 ≤ s.dma[c].prefetch.length → out = s.dma[c].fetchOut) ∧ (fetchMore c s).pstore = s.pstore
      ∧ (fetchMore c s).dma = (s.updDma c fun d => { d with fetchOut := out, fetchBad := bad }).dma := by
  have hkept : ∀ v : State, (∃ out bad, v.dma = (s.updDma c fun d => { d with fetchOut := out, fetchBad := bad }).dma) → wordLost c 0 v = false := by
    rintro v ⟨out, bad, hv⟩
    have hget : v.dma[c] = { s.dma[c] with fetchOut := out, fetchBad := bad } := (congrArg (·[c]) hv).trans (State.updDma_get c _ s)
    exact wordLost_of_prefetch (by rw [hget]; exact hprog) (by rw [hget]; exact hwords)
  have hself : s.dma = (s.updDma c fun d => { d with fetchOut := s.dma[c].fetchOut, fetchBad := s.dma[c].fetchBad }).dma :=
    congrArg (·.dma) (State.updDma_self rfl).symm
  unfold fetchMore
  simp only [hrun, bne_self_eq_false, Bool.false_eq_true, if_false]
  split
  · rename_i hask
    have hshort : ¬ 16 ≤ s.dma[c].prefetch.length := by
      simp only [Bool.and_eq_true, decide_eq_true_eq] at hask
      exact Nat.not_le.mpr hask.2
    split
    · obtain ⟨hdma, hps⟩ := sendReads_dma c ((s.dma[c].pbaseNow.toNat + 8 * (s.dma[c].pc.toNat + s.dma[c].prefetch.length)) % 2 ^ 64)
        (8 * (16 - s.dma[c].prefetch.length)) (s.updDma c fun d => { d with fetchOut := true })
      have hset : (s.updDma c fun d => { d with fetchOut := true })
          = s.updDma c fun d => { d with fetchOut := true, fetchBad := s.dma[c].fetchBad } := State.updDma_eq rfl
      rw [hkept _ ⟨true, s.dma[c].fetchBad, by rw [hdma, hset]⟩]
      simp only [Bool.and_false, Bool.false_eq_true, if_false]
      exact ⟨true, s.dma[c].fetchBad, fun h => (hshort h).elim, hps, by rw [hdma, hset]⟩
    · have hset : (s.updDma c fun d => { d with fetchBad := true })
          = s.updDma c fun d => { d with fetchOut := s.dma[c].fetchOut, fetchBad := true } := State.updDma_eq rfl
      rw [hkept _ ⟨s.dma[c].fetchOut, true, by rw [hset]⟩]
      simp only [Bool.and_false, Bool.false_eq_true, if_false]
      exact ⟨s.dma[c].fetchOut, true, fun _ => rfl, rfl, by rw [hset]⟩
  · rw [hkept s ⟨_, _, hself⟩]
    simp only [Bool.and_false, Bool.false_eq_true, if_false]
    exact ⟨_, _, fun _ => rfl, trivial, hself⟩

section
variable {c : Fin 512} {s : State} (hreset : inReset (.dma c) s = false) (hprog : s.dma[c].hostProgram = true) (hout : s.dma[c].fetchOut = true)
  (hrun : s.dma[c].state = .running)
include hreset hprog hout hrun

/-- Words that come join the prefetch behind the words there (R491). -/
theorem exec_fetchReturn_of_words {ws : List (BitVec 64)} (hws : ws ≠ []) :
    ∃ t, exec (.fetchReturn c (some ws)) s = .next t ∧ t.dma[c].prefetch = (s.dma[c].prefetch ++ ws).take 16 ∧ t.dma[c].pc = s.dma[c].pc
      ∧ t.dma[c].state = .running ∧ (16 ≤ s.dma[c].prefetch.length + ws.length → t.dma[c].fetchOut = false) ∧ (∀ k, k ≠ c → t.dma[k] = s.dma[k])
      ∧ t.pstore = s.pstore := by
  generalize hv : (s.updDma c fun d => { d with fetchOut := false, prefetch := (d.prefetch ++ ws).take 16, fetchBad := ws.isEmpty }) = v
  have hget : v.dma[c] = { s.dma[c] with fetchOut := false, prefetch := (s.dma[c].prefetch ++ ws).take 16, fetchBad := ws.isEmpty } := by
    rw [← hv, State.updDma_get]
  have hstep : exec (.fetchReturn c (some ws)) s = .next (fetchMore c v) := by
    simp only [exec, execFetchReturn, hreset, hprog, hout, Bool.and_self, Bool.false_eq_true, if_false, if_true, hv]
  obtain ⟨out, bad, hfull, hps, hdma⟩ := fetchMore_of_prefetch (c := c) (s := v) (by rw [hget]; exact hprog) (by rw [hget]; exact hrun)
    (by rw [hget]; simp [hws])
  have hchannel : (fetchMore c v).dma[c] = { v.dma[c] with fetchOut := out, fetchBad := bad } := (congrArg (·[c]) hdma).trans (State.updDma_get c _ v)
  rw [hget] at hchannel hfull
  refine ⟨_, hstep, ?_, ?_, ?_, fun h => ?_, fun k hk => ?_, ?_⟩
  · rw [hchannel]
  · rw [hchannel]
  · rw [hchannel]
    exact hrun
  · rw [hchannel]
    exact hfull (by simpa using h)
  · exact (congrArg (·[k]) hdma).trans ((State.updDma_get_ne hk _ v).trans (by rw [← hv]; exact State.updDma_get_ne hk _ s))
  · rw [hps, ← hv]
    rfl

/-- A fetch that fails halts a channel that has no word left and nothing in flight (R488). -/
theorem exec_fetchReturn_of_failed (hwords : s.dma[c].prefetch = []) (hflights : s.dma[c].flights = []) :
    ∃ t, exec (.fetchReturn c none) s = .next t ∧ t.dma[c].state = .halted ∧ t.dma[c].halt = some .fetch ∧ t.dma[c].pc = s.dma[c].pc
      ∧ bitAt t.dma[c].intstat 3 = true ∧ (∀ k, k ≠ c → t.dma[k] = s.dma[k]) ∧ t.pstore = s.pstore := by
  generalize hv : (s.updDma c fun d => { d with fetchOut := false, fetchBad := true }) = v
  have hget : v.dma[c] = { s.dma[c] with fetchOut := false, fetchBad := true } := by rw [← hv, State.updDma_get]
  have hvrun : v.dma[c].state = .running := by rw [hget]; exact hrun
  have hvprog : v.dma[c].hostProgram = true := by rw [hget]; exact hprog
  have hvwords : v.dma[c].prefetch = [] := by rw [hget]; exact hwords
  have hvflights : v.dma[c].flights = [] := by rw [hget]; exact hflights
  have hvbad : v.dma[c].fetchBad = true := by rw [hget]
  have hlost : wordLost c 0 v = true := by simp [wordLost, programWord, hvprog, hvwords, hvbad, -Fin.getElem_fin]
  have hmore : fetchMore c v = dmaHalt c .fetch v.dma[c].pc.toNat v := by
    simp [fetchMore, hvrun, hvbad, hlost, Dma.blocked, hvflights, -Fin.getElem_fin]
  have hstep : exec (.fetchReturn c none) s = .next (dmaHalt c .fetch v.dma[c].pc.toNat v) := by
    simp only [exec, execFetchReturn, hreset, hprog, hout, Bool.and_self, Bool.false_eq_true, if_false, if_true, hv, hmore]
  obtain ⟨t, rfl, hstate, hhalt, hpc, hstat, -, honly⟩ := dmaHalt_leaves_here c .fetch v
  obtain ⟨hps, -⟩ := (honly.trans (hv ▸ onlyChannel_updDma c _ s)).stores
  exact ⟨_, hstep, hstate, hhalt, by rw [hpc, hget], hstat, (honly.trans (hv ▸ onlyChannel_updDma c _ s)).2, hps⟩

end

/-- Settles O51: each answer by its lemma above. -/
theorem dmaAnswers : Obligations.DmaAnswers := by
  unfold Obligations.DmaAnswers
  refine ⟨?_, ?_⟩
  · rintro c d s rfl hreset hprog hfence
    refine ⟨?_, ?_, ?_, fun id r hflights hstate => exec_unknown_answer hfence hflights hstate id r,
      fun hstate hflights => exec_dmaDrained_of_idle hstate hflights hfence, exec_dmaDrained_of_other, ?_, ?_, exec_wait_of_none⟩
    · intro f p id bs bad poison hflights hpieces hid hst hspace hend heoc hrelease
      exact exec_readResponse_of_ack hreset hprog hfence hpieces hid hflights heoc hrelease hst hspace hend poison
    · intro f p id bs func mask value hflights hpieces hop hspace hid hst hlen heoc hrelease _ _
      exact exec_readResponse_of_cmp hreset hprog hfence hpieces hid hflights heoc hrelease hop hspace hst hlen
    · intro f p id hflights hpieces hop hspace hid hst hgood heoc hrelease
      exact exec_requestTimeout_of_read hreset hprog hfence hpieces hid hflights heoc hrelease hop hspace hst hgood
    · intro w t0 u hflights hstate hwait hkind hbell hu hword
      exact exec_waitSatisfied_of_doorbell hreset hprog hfence hflights hstate hwait hkind hbell hu.symm hword
    · intro w t0 u hflights hstate hwait hlimit hu hword
      exact exec_waitTimeout_of_limit hreset hprog hfence hflights hstate hwait hlimit hu.symm hword
  · rintro c d s rfl hreset hprog hout hrun
    exact ⟨fun ws hws => exec_fetchReturn_of_words hreset hprog hout hrun hws, exec_fetchReturn_of_failed hreset hprog hout hrun⟩

end Sys2Proof.Machine
end

section
/-! RESUME of a Halted channel (R490). -/

namespace Sys2Proof.Machine

open Sys2Proof Sys2Proof.Safety

/-! ### The value of DCTL with RESUME -/

/-- A value with RESUME set. -/
def resumeOf (v : Word) : Word := (Val.num (v ||| 0x20000000#32).toNat).word

theorem resumeOf_eq (v : Word) : resumeOf v = v ||| 0x20000000#32 := word_num _

theorem bitAt_resumeOf (v : Word) :
    bitAt (resumeOf v) 31 = bitAt v 31 ∧ bitAt (resumeOf v) 30 = bitAt v 30 ∧ bitAt (resumeOf v) 29 = true ∧ bitAt (resumeOf v) 28 = bitAt v 28 := by
  rw [resumeOf_eq]
  simp [bitAt]

theorem fld_congr {n m : Nat} {w : BitVec n} {x : BitVec m} {hi lo : Nat} (h : ∀ i, lo ≤ i → i ≤ hi → bitAt w i = bitAt x i) :
    fld w hi lo = fld x hi lo := by
  refine Nat.eq_of_testBit_eq fun i => ?_
  simp only [fld, Nat.testBit_mod_two_pow, Nat.testBit_shiftRight]
  by_cases hin : i < hi + 1 - lo
  · simp only [hin, decide_true, Bool.true_and]
    exact h (lo + i) (by omega) (by omega)
  · simp [hin]

/-- What DCTL holds after a write of a value with RESUME. -/
def resumedCtl (v : Word) : Word := resumeOf v &&& (maskOf 31 31 ||| maskOf 27 24 ||| maskOf 8 0)

theorem fld_resumedCtl (v : Word) : fld (resumedCtl v) 25 24 = fld v 25 24 := by
  refine fld_congr fun i hlo hhi => ?_
  obtain rfl | rfl : i = 24 ∨ i = 25 := by omega
  all_goals
    rw [resumedCtl, resumeOf_eq]
    simp [bitAt, maskOf, place]

/-! ### The channel that goes on -/

/-- A channel that RESUME has continued, with the DCTL that was written. -/
def Dma.resumed (ctl : Word) (d : Dma) : Dma :=
  { d with ctl := ctl, state := .running, halt := none, count := 0
           taken := if d.halt = some .pktFault then d.taken.map (fun k => { k with failures := 0 }) else d.taken }

/-- A program in PSTORE has its next word whatever the channel does besides its place. -/
theorem programWord_congr {c : Fin 512} {i : Nat} {s t : State} (hs : s.dma[c].hostProgram = false) (ht : t.dma[c].hostProgram = false)
    (hpc : t.dma[c].pc = s.dma[c].pc) (hbase : t.dma[c].pbaseNow = s.dma[c].pbaseNow) (hps : t.pstore = s.pstore) :
    programWord c i t = programWord c i s := by
  simp only [programWord, hs, ht, hpc, hbase, hps, Bool.false_eq_true, if_false]

/-- RESUME of an enabled, Halted channel that keeps a program in PSTORE (R490). -/
theorem writeDctl_of_resume {c : Fin 512} {v : Word} {s : State} (hstate : s.dma[c].state = .halted) (hen : bitAt v 31 = true)
    (hwas : bitAt s.dma[c].ctl 31 = true) (habort : bitAt v 30 = false) (hbell : bitAt v 28 = false) (hprog : s.dma[c].hostProgram = false)
    (hspace : fld v 25 24 = 0) (hword : (programWord c 0 s).isSome = true) :
    writeDctl c (resumeOf v) s = s.updDma c (Dma.resumed (resumedCtl v)) := by
  obtain ⟨h31, h30, h29, h28⟩ := bitAt_resumeOf v
  have hprogram : (s.dma[c].resumed (resumedCtl v)).hostProgram = false := by simp [Dma.hostProgram, Dma.resumed, fld_resumedCtl, hspace]
  have hget := State.updDma_get c (Dma.resumed (resumedCtl v)) s
  have hword' : (programWord c 0 (s.updDma c (Dma.resumed (resumedCtl v)))).isSome = true := by
    rw [programWord_congr (s := s) (t := s.updDma c (Dma.resumed (resumedCtl v))) hprog (by rw [hget]; exact hprogram) (by rw [hget]; rfl) (by rw [hget]; rfl) rfl]
    exact hword
  have hwritten : writeDctl c (resumeOf v) s = dmaResume c (s.updDma c fun d => { d with ctl := resumedCtl v }) := by
    simp only [writeDctl, h31, h30, h29, h28, hen, hwas, habort, hbell, State.updDma_get, hstate]
    simp [resumedCtl]
  rw [hwritten, dmaResume, State.updDma_updDma]
  exact fetchMore_of_word (s := s.updDma c (Dma.resumed (resumedCtl v))) (by rw [hget]; exact hprogram) hword'

/-- Settles O52: RESUME is one update of its channel, and its write leaves the other channels, the queues and PSTORE. -/
theorem resumeContinues : Obligations.ResumeContinues := by
  rintro w c v d s rfl hstate hen hwas habort hbell hprog hspace hword hacc
  have hspent := spent_frame (.dma c .dctl) (.num (v ||| 0x20000000#32).toNat) s
  refine ⟨_, (exec_registerRow s rfl).trans (congrArg Host.Outcome.next (regWrite_of_accepted hacc (by intro h; cases h) (by intro h; cases h.1))), ?_⟩
  have happly : Obj.apply (.dma c .dctl) (.num (v ||| 0x20000000#32).toNat) (spent (.dma c .dctl) (.num (v ||| 0x20000000#32).toNat) s)
      = (spent (.dma c .dctl) (.num (v ||| 0x20000000#32).toNat) s).updDma c (Dma.resumed (resumedCtl v)) := by
    rw [hspent]
    exact writeDctl_of_resume hstate hen hwas habort hbell hprog hspace hword
  rw [written_frame, happly, hspent]
  refine ⟨?_, fun k hk => State.updDma_get_ne hk _ s, rfl, rfl⟩
  have hget := State.updDma_get c (Dma.resumed (resumedCtl v)) s
  exact hget.trans (congrArg (fun ctl => Dma.resumed ctl s.dma[c]) (congrArg Dma.ctl hget).symm)

end Sys2Proof.Machine
end

section
/-! Pairs of functions that no longer exist (R511), and the links and functions of the host (R500 to R512, R520). -/

namespace Sys2Proof.Machine

open Sys2Proof Sys2Proof.Safety

/-! ### Aborts of channels -/

/-- A channel's registers and the owner of its pair. -/
def State.pair (s : State) (k : Fin 512) : Dma × Word := (s.dma[k], s.host.pairfn[k])

/-- What aborts of channels and the return of pairs reach: the channels, the owners, and the memories that issued writes land in. -/
def pairFrame (t s : State) : Prop :=
  t = { s with dma := t.dma, pstore := t.pstore, mapStore := t.mapStore, host := { s.host with smap := t.host.smap, pairfn := t.host.pairfn } }

theorem pairFrame.trans {s t u : State} (h : pairFrame u t) (k : pairFrame t s) : pairFrame u s := by
  unfold pairFrame at h k ⊢
  rw [h, k]

/-- What an abort of channel c reaches: no other channel and no other pair's owner. -/
def reachesPair (c : Fin 512) (t s : State) : Prop := pairFrame t s ∧ ∀ k, k ≠ c → t.pair k = s.pair k

theorem reachesPair.refl (c : Fin 512) (s : State) : reachesPair c s s := ⟨rfl, fun _ _ => rfl⟩

theorem reachesPair.trans {c : Fin 512} {s t u : State} (h : reachesPair c u t) (k : reachesPair c t s) : reachesPair c u s :=
  ⟨h.1.trans k.1, fun j hj => (h.2 j hj).trans (k.2 j hj)⟩

/-- Issued writes land in memories alone (R494). -/
theorem landWrites_frame (c : Fin 512) (s : State) :
    ∃ ps map smap, landWrites c s = { s with pstore := ps, mapStore := map, host := { s.host with smap := smap } } := by
  unfold landWrites
  refine List.foldlRecOn (motive := fun t : State => ∃ ps map smap, t = { s with pstore := ps, mapStore := map, host := { s.host with smap := smap } })
    _ _ ⟨s.pstore, s.mapStore, s.host.smap, rfl⟩ ?_
  rintro t ⟨ps, map, smap, rfl⟩ x -
  split
  · split
    · unfold writeInside
      split
      · exact ⟨_, _, _, rfl⟩
      · exact ⟨_, _, _, rfl⟩
      · exact ⟨_, _, _, rfl⟩
      · exact ⟨_, _, _, rfl⟩
    · exact ⟨_, _, _, rfl⟩
  · exact ⟨_, _, _, rfl⟩

/-- A channel that has been aborted. -/
def Dma.aborted (d : Dma) : Dma := { d.off with ctl := setBit d.ctl 31 false, flights := [] }

theorem dmaAbort_pair (c : Fin 512) (s : State) :
    reachesPair c (dmaAbort c s) s ∧ (dmaAbort c s).dma[c] = s.dma[c].aborted ∧ (dmaAbort c s).host.pairfn = s.host.pairfn := by
  obtain ⟨ps, map, smap, hland⟩ := landWrites_frame c s
  unfold dmaAbort
  rw [hland]
  exact ⟨⟨rfl, fun k hk => congrArg (·, s.host.pairfn[k]) (State.updDma_get_ne hk _ s)⟩, State.updDma_get c _ s, rfl⟩

theorem returnPair_pair (c : Fin 512) (s : State) :
    reachesPair c (returnPair c s) s ∧ (returnPair c s).pair c = (s.dma[c].aborted, s.host.pairfn[c] &&& ~~~ (maskOf 4 0)) := by
  obtain ⟨hreach, hdma, hfn⟩ := dmaAbort_pair c s
  refine ⟨reachesPair.trans ⟨rfl, fun k hk => ?_⟩ hreach, Prod.ext hdma ?_⟩
  · exact congrArg ((dmaAbort c s).dma[k], ·) (modAt_get_ne _ c k _ hk)
  · exact (modAt_get _ c _).trans (by rw [hfn])

/-- A channel whose function has been reset (R512). -/
def Dma.cleared (c : Fin 512) (d : Dma) : Dma :=
  let n : Dma := {}
  { d.aborted with ctl := BitVec.ofNat 32 c.1, intstat := 0, intmask := n.intmask, doorbell := 0, budget := n.budget, cplTmo := n.cplTmo
                   maxreq := n.maxreq, retryMax := n.retryMax, latTgt := 0 }

theorem flrChannel_pair (c : Fin 512) (s : State) :
    reachesPair c (flrChannel c s) s ∧ (flrChannel c s).pair c = (s.dma[c].cleared c, s.host.pairfn[c]) := by
  obtain ⟨hreach, hdma, hfn⟩ := dmaAbort_pair c s
  refine ⟨reachesPair.trans ⟨rfl, fun k hk => ?_⟩ hreach, Prod.ext ?_ (congrArg (·[c]) hfn)⟩
  · exact congrArg (·, (dmaAbort c s).host.pairfn[k]) (State.updDma_get_ne hk _ _)
  · exact (State.updDma_get c _ _).trans (by rw [hdma]; rfl)

/-! ### Aborts of a list of channels -/

/-- Events that each reach their own channel: the channels of the list change as their own event changes them, the others stay. -/
theorem each_pairs {F : Fin 512 → State → State} (hF : ∀ c s, reachesPair c (F c s) s) {l : List (Fin 512)} (hl : l.Nodup) (s : State) :
    pairFrame (s.each l F) s ∧ (∀ k, k ∉ l → (s.each l F).pair k = s.pair k)
      ∧ ∀ k, k ∈ l → ∃ u, u.pair k = s.pair k ∧ (s.each l F).pair k = (F k u).pair k := by
  induction l generalizing s with
  | nil => exact ⟨rfl, fun _ _ => rfl, fun k hk => (List.not_mem_nil hk).elim⟩
  | cons c l ih =>
    obtain ⟨hc, hl⟩ := List.nodup_cons.mp hl
    obtain ⟨hframe, hout, hin⟩ := ih hl (F c s)
    obtain ⟨hfirst, hothers⟩ := hF c s
    refine ⟨hframe.trans hfirst, fun k hk => ?_, fun k hk => ?_⟩
    · obtain ⟨hkc, hkl⟩ := List.ne_and_not_mem_of_not_mem_cons hk
      exact (hout k hkl).trans (hothers k hkc)
    · by_cases hkc : k = c
      · subst hkc
        exact ⟨s, rfl, hout k hc⟩
      · obtain ⟨u, hu, hend⟩ := hin k ((List.mem_cons.mp hk).resolve_left hkc)
        exact ⟨u, hu.trans (hothers k hkc), hend⟩

theorem nodup_linkChannels (s : State) (l : Fin 4) : (linkChannels s l).Nodup := (List.nodup_finRange 512).filter _

theorem mem_linkChannels {s : State} {l : Fin 4} {c : Fin 512} : c ∈ linkChannels s l ↔ (pairOwner s c).1 = l := by
  simp [linkChannels]

/-! ### Functions that cease to exist -/

/-- The owner of a pair is what its PAIRFN says. -/
theorem pairOwner_of_pair {s t : State} {c : Fin 512} (h : t.pair c = s.pair c) : pairOwner t c = pairOwner s c := by
  have hfn : t.host.pairfn[c] = s.host.pairfn[c] := congrArg Prod.snd h
  simp only [pairOwner, hfn]

theorem fld_returned (w : Word) : fld (w &&& ~~~ (maskOf 4 0)) 17 16 = fld w 17 16 ∧ fld (w &&& ~~~ (maskOf 4 0)) 4 0 = 0 := by
  refine ⟨fld_congr fun i hlo hhi => ?_, (fld_congr (x := 0#32) fun i hlo hhi => ?_).trans rfl⟩
  · obtain rfl | rfl : i = 16 ∨ i = 17 := by omega
    all_goals simp [bitAt, maskOf, place]
  · obtain rfl | rfl | rfl | rfl | rfl : i = 0 ∨ i = 1 ∨ i = 2 ∨ i = 3 ∨ i = 4 := by omega
    all_goals simp [bitAt, maskOf, place]

/-- A removed function's pair goes back, another pair stays. -/
def dropPair (n : Nat) (c : Fin 512) (s : State) : State := if n < (pairOwner s c).2.1 then returnPair c s else s

theorem dropPair_pair (n : Nat) (c : Fin 512) (s : State) : reachesPair c (dropPair n c s) s := by
  unfold dropPair
  split
  · exact (returnPair_pair c s).1
  · exact reachesPair.refl c s

theorem dropVfs_eq (l : Fin 4) (n : Nat) (s : State) : dropVfs l n s = (s.each (linkChannels s l) (dropPair n)).updLink l fun k =>
    { k with fns := mapAll k.fns fun g f => if n < g.1 then {} else f } := rfl

/-- Every pair of a link's functions above a number goes back to its PF; no other pair moves (R511). -/
theorem dropVfs_pairs (l : Fin 4) (n : Nat) (s : State) :
    (dropVfs l n s).qm = s.qm
      ∧ (∀ c, (pairOwner s c).1 = l → n < (pairOwner s c).2.1 →
          (dropVfs l n s).pair c = (s.dma[c].aborted, s.host.pairfn[c] &&& ~~~ (maskOf 4 0)))
      ∧ ∀ c, ¬ ((pairOwner s c).1 = l ∧ n < (pairOwner s c).2.1) → (dropVfs l n s).pair c = s.pair c := by
  obtain ⟨hframe, hout, hin⟩ := each_pairs (F := dropPair n) (dropPair_pair n) (nodup_linkChannels s l) s
  rw [dropVfs_eq]
  generalize s.each (linkChannels s l) (dropPair n) = t at hframe hout hin ⊢
  have hqm : t.qm = s.qm := by rw [hframe]
  refine ⟨hqm, fun c hl hn => ?_, fun c hc => ?_⟩
  · obtain ⟨u, hu, hend⟩ := hin c (mem_linkChannels.mpr hl)
    have hdrop : dropPair n c u = returnPair c u := if_pos (by rw [pairOwner_of_pair hu]; exact hn)
    obtain ⟨hdma, hfn⟩ := Prod.mk.inj hu
    rw [hdrop, (returnPair_pair c u).2, hdma, hfn] at hend
    exact hend
  · by_cases hl : (pairOwner s c).1 = l
    · obtain ⟨u, hu, hend⟩ := hin c (mem_linkChannels.mpr hl)
      have hdrop : dropPair n c u = u := if_neg (by rw [pairOwner_of_pair hu]; exact fun hn => hc ⟨hl, hn⟩)
      rw [hdrop] at hend
      exact hend.trans hu
    · exact hout c fun h => hl (mem_linkChannels.mp h)

theorem Dma.aborted_off (d : Dma) : d.aborted.state = .off ∧ d.aborted.flights = [] ∧ bitAt d.aborted.ctl 31 = false := by
  refine ⟨rfl, rfl, ?_⟩
  simp [Dma.aborted, bitAt, setBit, setFld, maskOf, Sys2Proof.place]

/-- What R511 says of the pairs, when the functions above a number go after an update of the link. -/
theorem dropVfs_returns {l : Fin 4} {num : Nat} {c : Instr} {s u : State} (hexec : exec c s = .next (dropVfs l num u)) (hqm : u.qm = s.qm)
    (hpairs : ∀ p, u.pair p = s.pair p) :
    ∃ t, exec c s = .next t ∧ t.qm = s.qm
      ∧ (∀ p, (pairOwner s p).1 = l → num < (pairOwner s p).2.1 → pairOwner t p = (l, 0) ∧ t.dma[p].state = .off ∧ t.dma[p].flights = []
          ∧ bitAt t.dma[p].ctl 31 = false)
      ∧ (∀ p, ¬ ((pairOwner s p).1 = l ∧ num < (pairOwner s p).2.1) → t.host.pairfn[p] = s.host.pairfn[p] ∧ t.dma[p] = s.dma[p]) := by
  obtain ⟨hq, hgone, hstays⟩ := dropVfs_pairs l num u
  refine ⟨_, hexec, hq.trans hqm, fun p hl hn => ?_, fun p hp => ?_⟩
  · rw [← pairOwner_of_pair (hpairs p)] at hl hn
    obtain ⟨hdma, hfn⟩ := Prod.mk.inj (hgone p hl hn)
    obtain ⟨hlink, hzero⟩ := fld_returned u.host.pairfn[p]
    refine ⟨?_, by rw [hdma]; exact Dma.aborted_off _⟩
    have howner : pairOwner (dropVfs l num u) p = ((pairOwner u p).1, 0) := by
      simp only [pairOwner, hfn, hlink, hzero]
      rfl
    rw [howner, hl]
  · rw [← pairOwner_of_pair (hpairs p)] at hp
    obtain ⟨hdma, hfn⟩ := Prod.mk.inj ((hstays p hp).trans (hpairs p))
    exact ⟨hfn, hdma⟩

/-- A configuration request to a function of a link that is up is carried out once the host ports are ready (R117). -/
theorem configRequest_of_ready {l : Fin 4} {f : Fin 17} {s : State} (hup : s.host.links[l].up = true) (hf : f.1 ≤ s.host.links[l].vfs)
    (hready : s.boot.hostReady = true) (act : State → State) : configRequest l f act s = act s := by
  simp [configRequest, hup, hf, hready, -Fin.getElem_fin]

/-- Settles O53: each of the three ways is an update of the link, and then the functions above the number go. -/
theorem removedFunctionsReturnTheirPairs : Obligations.RemovedFunctionsReturnTheirPairs := by
  rintro l num c s (rfl | ⟨hup, hready, hnum, rfl⟩ | ⟨hup, hready, rfl, rfl⟩)
  · exact dropVfs_returns (u := s.updLink l _) rfl rfl fun _ => rfl
  · refine dropVfs_returns (u := s.updLink l fun k => { k with numVfs := num }) ?_ rfl fun _ => rfl
    simp only [exec, execConfigSpaceWrite, configRequest_of_ready (f := 0) hup (Nat.zero_le _) hready, configWrite]
    simp [Nat.not_lt.mpr hnum]
  · refine dropVfs_returns (u := s.updLink l fun k => { k with vfEnable := false }) ?_ rfl fun _ => rfl
    simp only [exec, execConfigSpaceWrite, configRequest_of_ready (f := 0) hup (Nat.zero_le _) hready, configWrite]
    simp

end Sys2Proof.Machine
end

section
/-! The host links and the functions on them (R42, R500 to R503, R507, R508, R512, R520). -/

namespace Sys2Proof.Machine

open Sys2Proof Sys2Proof.Safety

/-! ### Updates of a link -/

theorem State.updLink_eq {l : Fin 4} {f g : Link → Link} {s : State} (h : f s.host.links[l] = g s.host.links[l]) : s.updLink l f = s.updLink l g := by
  simp only [State.updLink, modAt, h]

theorem State.updLink_updLink (l : Fin 4) (f g : Link → Link) (s : State) : (s.updLink l f).updLink l g = s.updLink l fun k => g (f k) := by
  simp only [State.updLink]
  congr 2
  simp [modAt]

theorem each_of_still {α : Type} {F : α → State → State} {l : List α} {s : State} (h : ∀ a, a ∈ l → F a s = s) : s.each l F = s := by
  induction l with
  | nil => rfl
  | cons a l ih =>
    have ha : F a s = s := h a List.mem_cons_self
    change (F a s).each l F = s
    rw [ha]
    exact ih fun b hb => h b (List.mem_cons_of_mem a hb)

/-! ### Links -/

/-- A link that is not in L0 any more. -/
def Link.fallen (k : Link) : Link := { k with up := false, flit := false, speed := 0, width := 0, training := false }

/-- The fall of a link with nothing outstanding is an update of the link (R502). -/
theorem linkDown_of_noRequests {s : State} (h : noRequests s) (l : Fin 4) : linkDown l s = s.updLink l Link.fallen := by
  have hshape : linkDown l s = (s.updLink l Link.fallen).each (linkChannels (s.updLink l Link.fallen) l) dmaLinkDown := rfl
  rw [hshape, each_of_still]
  rintro c -
  obtain ⟨hflights, hfetch⟩ := h c
  unfold dmaLinkDown
  have hd : (s.updLink l Link.fallen).dma[c] = s.dma[c] := rfl
  simp only [hd, hflights, hfetch]
  rfl

/-- No pair of a link belongs to a VF: their loss is their configuration's alone (R511). -/
theorem dropVfs_of_pfs {l : Fin 4} {s : State} (h : ∀ c, (pairOwner s c).1 = l → (pairOwner s c).2 = 0) :
    dropVfs l 0 s = s.updLink l fun k => { k with fns := mapAll k.fns fun g f => if 0 < g.1 then {} else f } := by
  rw [dropVfs_eq, each_of_still]
  intro c hc
  have hpf := h c (mem_linkChannels.mp hc)
  exact if_neg (by rw [hpf]; exact Nat.lt_irrefl 0)

theorem exec_perstAssert_of_still {l : Fin 4} {s : State} (hlink : linkExists s l = true) (hnone : noRequests s)
    (hpfs : ∀ c, (pairOwner s c).1 = l → (pairOwner s c).2 = 0) :
    exec (.perstAssert l) s = .next (s.updLink l fun k =>
      { k with up := false, flit := false, speed := 0, width := 0, training := false, perst := true, vfEnable := false, numVfs := 0
               fns := Vector.replicate 17 {} }) := by
  have hfallen : ∀ c, (pairOwner (s.updLink l Link.fallen) c).1 = l → (pairOwner (s.updLink l Link.fallen) c).2 = 0 := hpfs
  simp only [exec, execPerstAssert, hlink, linkDown_of_noRequests hnone, dropVfs_of_pfs hfallen, State.updLink_updLink]
  rfl

theorem exec_perstRelease_of_exists {l : Fin 4} {s : State} (hlink : linkExists s l = true) : exec (.perstRelease l) s =
    .next (s.updLink l fun k => { k with perst := false, training := ! inReset (.link l) s && ! k.up }) := by
  simp only [exec, execPerstRelease, hlink, if_true]

theorem exec_linkUp_of_exists {l : Fin 4} {s : State} (hlink : linkExists s l = true) (hperst : s.host.links[l].perst = false)
    (hreset : inReset (.link l) s = false) (hsource : s.boot.source ≠ 2) (speed : Fin 8) (width : Fin 32) (flit : Bool) :
    exec (.linkUp l speed width flit) s =
      .next (s.updLink l fun k => { k with up := true, training := false, speed := speed, width := width, flit := flit && speed == 6 }) := by
  simp only [exec, execLinkUp, hlink, hperst, hreset, Bool.not_true, Bool.or_self, Bool.false_eq_true, if_false]
  exact congrArg Host.Outcome.next (if_neg fun ⟨_, h, _⟩ => hsource h)

theorem exec_linkUp_of_held {l : Fin 4} {s : State} (h : (! linkExists s l || s.host.links[l].perst) = true) (speed : Fin 8) (width : Fin 32)
    (flit : Bool) : exec (.linkUp l speed width flit) s = .next s := by
  simp only [exec, execLinkUp, h, Bool.true_or, if_true]

/-- Of a link that does not exist only its pin is followed (R42). -/
theorem exec_perst_of_absent {l : Fin 4} {s : State} (hlink : linkExists s l = false) :
    exec (.perstAssert l) s = .next (s.updLink l fun k => { k with perst := true })
      ∧ exec (.perstRelease l) s = .next (s.updLink l fun k => { k with perst := false }) := by
  simp only [exec, execPerstAssert, execPerstRelease, hlink]
  exact ⟨rfl, rfl⟩

/-! ### Functions -/

theorem nodup_ownedPairs (s : State) (l : Fin 4) (f : Fin 17) : (ownedPairs s l f).Nodup := (List.nodup_finRange 512).filter _

theorem mem_ownedPairs {s : State} {l : Fin 4} {f : Fin 17} {c : Fin 512} : c ∈ ownedPairs s l f ↔ pairOwner s c = (l, f) := by
  simp [ownedPairs]

/-- The reset of a VF reaches its own channels and its own configuration (R512). -/
theorem flr_of_vf {l : Fin 4} {f : Fin 17} {s : State} (hf : f ≠ 0) :
    (flr l f s).host.links[l].fns[f] = {} ∧ (∀ g : Fin 17, g ≠ f → (flr l f s).host.links[l].fns[g] = s.host.links[l].fns[g])
      ∧ (∀ c, pairOwner s c = (l, f) → (flr l f s).dma[c].state = .off ∧ (flr l f s).dma[c].intstat = 0 ∧ (flr l f s).dma[c].doorbell = 0
          ∧ (flr l f s).dma[c].a = s.dma[c].a)
      ∧ (∀ c, pairOwner s c ≠ (l, f) → (flr l f s).dma[c] = s.dma[c]) ∧ (flr l f s).host.pairfn = s.host.pairfn ∧ (flr l f s).qm = s.qm := by
  obtain ⟨hframe, hout, hin⟩ := each_pairs (fun c s => (flrChannel_pair c s).1) (nodup_ownedPairs s l f) s
  have hflr : flr l f s = (s.each (ownedPairs s l f) flrChannel).updFn l f fun _ => {} := if_neg hf
  rw [hflr]
  generalize s.each (ownedPairs s l f) flrChannel = t at hframe hout hin ⊢
  have hlinks : t.host.links = s.host.links := by rw [hframe]
  have hqm : t.qm = s.qm := by rw [hframe]
  have howned : ∀ c, pairOwner s c = (l, f) → t.pair c = (s.dma[c].cleared c, s.host.pairfn[c]) := by
    intro c hc
    obtain ⟨u, hu, hend⟩ := hin c (mem_ownedPairs.mpr hc)
    obtain ⟨hdma, hfn⟩ := Prod.mk.inj hu
    rw [(flrChannel_pair c u).2, hdma, hfn] at hend
    exact hend
  have hother : ∀ c, pairOwner s c ≠ (l, f) → t.pair c = s.pair c := fun c hc => hout c fun h => hc (mem_ownedPairs.mp h)
  have hlink : (t.updFn l f fun _ => {}).host.links[l] = { t.host.links[l] with fns := modAt t.host.links[l].fns f fun _ => {} } := modAt_get _ l _
  refine ⟨?_, fun g hg => ?_, fun c hc => ?_, fun c hc => congrArg Prod.fst (hother c hc), ?_, hqm⟩
  · rw [hlink]
    exact modAt_get _ f _
  · rw [hlink, hlinks]
    exact modAt_get_ne _ f g _ hg
  · have hdma : t.dma[c] = s.dma[c].cleared c := congrArg Prod.fst (howned c hc)
    change t.dma[c].state = .off ∧ t.dma[c].intstat = 0 ∧ t.dma[c].doorbell = 0 ∧ t.dma[c].a = s.dma[c].a
    rw [hdma]
    exact ⟨rfl, rfl, rfl, rfl⟩
  · refine Vector.ext fun i hi => ?_
    by_cases hc : pairOwner s ⟨i, hi⟩ = (l, f)
    · exact congrArg Prod.snd (howned ⟨i, hi⟩ hc)
    · exact congrArg Prod.snd (hother ⟨i, hi⟩ hc)

theorem releasePending_of_disabled {l : Fin 4} {f : Fin 17} {s : State} (h : s.host.links[l].fns[f].msixEn = false) : releasePending l f s = s := by
  simp [releasePending, h, -Fin.getElem_fin]

theorem State.updFn_get (s : State) (l : Fin 4) (f : Fin 17) (g : Fn → Fn) :
    (s.updFn l f g).host.links[l] = { s.host.links[l] with fns := modAt s.host.links[l].fns f g } := modAt_get _ l _

theorem State.updFn_fn (s : State) (l : Fin 4) (f : Fin 17) (g : Fn → Fn) : (s.updFn l f g).host.links[l].fns[f] = g s.host.links[l].fns[f] := by
  rw [State.updFn_get]
  exact modAt_get _ f g

section
variable {l : Fin 4} {f : Fin 17} {s : State} (hup : s.host.links[l].up = true) (hf : f.1 ≤ s.host.links[l].vfs)
include hup hf

/-- A configuration write takes hold on a link that is up when the host ports are ready (R117, R508). -/
theorem exec_configSpaceWrite_of_ready (hready : s.boot.hostReady = true) (x : CfgWrite) :
    exec (.configSpaceWrite l f x) s = .next (configWrite l f x s) := by
  simp only [exec, execConfigSpaceWrite, configRequest_of_ready hup hf hready]

/-- Until the host ports are ready a configuration request is answered with a retry (R117). -/
theorem configRequest_of_unready (hready : s.boot.hostReady = false) (act : State → State) :
    configRequest l f act s = { s with tx := s.tx ++ [.configRetry l] } := by
  simp [configRequest, hup, hf, hready, State.send, -Fin.getElem_fin]

end

theorem mem_insertNat_self (l : List Nat) (a : Nat) : a ∈ insertNat l a := by
  induction l with
  | nil => exact List.mem_cons_self
  | cons x l ih =>
    simp only [insertNat]
    split
    · exact List.mem_cons_of_mem x ih
    · split
      · next h => exact h ▸ List.mem_cons_self
      · exact List.mem_cons_self

/-- An entry unmasked while its bit is pending is sent (R520). -/
theorem exec_msixUnmask_of_pending {l : Fin 4} {f : Fin 17} {s : State} {e : Nat} (hup : s.host.links[l].up = true)
    (he : e < (if f = 0 then 1024 else 64)) (hen : s.host.links[l].fns[f].msixEn = true) (hmask : s.host.links[l].fns[f].fnMask = false)
    (hmaster : s.host.links[l].fns[f].busMaster = true) (hd3 : s.host.links[l].fns[f].d3 = false) (hpend : s.host.links[l].fns[f].pend = [e]) :
    ∃ t, exec (.msixUnmask l f e) s = .next t ∧ t.tx = s.tx ++ [.msix l f e] ∧ t.host.links[l].fns[f].pend = [] ∧ e ∈ t.host.links[l].fns[f].unmasked
      ∧ t = { s with host := t.host, tx := t.tx } := by
  generalize hu : (s.updFn l f fun g => { g with unmasked := insertNat g.unmasked e }) = u
  have hfn : u.host.links[l].fns[f] = { s.host.links[l].fns[f] with unmasked := insertNat s.host.links[l].fns[f].unmasked e } := by
    rw [← hu, State.updFn_fn]
  have hlink : u.host.links[l].up = true := by
    rw [← hu, State.updFn_get]
    exact hup
  have hmem := mem_insertNat_self s.host.links[l].fns[f].unmasked e
  have hrelease : releasePending l f u = (u.updFn l f fun g => { g with pend := g.pend.filter fun x => ! [e].contains x }).send (.msix l f e) := by
    simp [releasePending, hfn, hlink, hen, hmask, hmaster, hd3, hpend, hmem, -Fin.getElem_fin]
  have hget := State.updFn_fn u l f fun g => { g with pend := g.pend.filter fun x => ! [e].contains x }
  rw [hfn] at hget
  refine ⟨(u.updFn l f fun g => { g with pend := g.pend.filter fun x => ! [e].contains x }).send (.msix l f e), ?_, ?_, (congrArg Fn.pend hget).trans ?_, (congrArg (e ∈ Fn.unmasked ·) hget) ▸ hmem, ?_⟩
  · simp only [exec, execMsixUnmask, he, if_true, hu, hrelease]
  · rw [← hu]
    rfl
  · change s.host.links[l].fns[f].pend.filter (fun x => ! [e].contains x) = []
    rw [hpend]
    simp
  · rw [← hu]
    rfl

theorem exec_msixUnmask_of_beyond {l : Fin 4} {f : Fin 17} {s : State} {e : Nat} (he : (if f = 0 then 1024 else 64) ≤ e) :
    exec (.msixUnmask l f e) s = .next s := congrArg Host.Outcome.next (if_neg (Nat.not_lt.mpr he))

/-- Settles O54: each event of a link or a function by its lemma above. -/
theorem linksAndFunctions : Obligations.LinksAndFunctions := by
  unfold Obligations.LinksAndFunctions
  refine ⟨fun l s hlink => ⟨exec_perstRelease_of_exists hlink, fun speed width flit hperst hreset hsource => ?_, fun speed width flit hperst => ?_,
    fun hnone => ?_, fun hnone hpfs => exec_perstAssert_of_still hlink hnone hpfs⟩, fun l s hlink => ?_, fun l f s hup hf => ?_⟩
  · exact exec_linkUp_of_exists hlink hperst hreset hsource speed width flit
  · exact exec_linkUp_of_held (by rw [hperst, Bool.or_true]) speed width flit
  · exact congrArg Host.Outcome.next (linkDown_of_noRequests hnone l)
  · obtain ⟨hassert, hrelease⟩ := exec_perst_of_absent hlink
    exact ⟨hassert, hrelease, exec_linkUp_of_held (by rw [hlink, Bool.not_false, Bool.true_or])⟩
  · refine ⟨fun hvf hready => ⟨_, ?_, flr_of_vf hvf⟩, fun hready => ⟨fun b => ?_, fun m => ?_, fun p r => ?_, fun n hpf hn => ?_⟩,
      fun hready => ⟨?_, fun x => ?_⟩, fun e he hen hmask hmaster hd3 hpend => exec_msixUnmask_of_pending hup he hen hmask hmaster hd3 hpend,
      fun e he => exec_msixUnmask_of_beyond he⟩
    · simp only [exec, execFlr, configRequest_of_ready hup hf hready]
    · exact exec_configSpaceWrite_of_ready hup hf hready _
    · rw [exec_configSpaceWrite_of_ready hup hf hready, configWrite, releasePending_of_disabled]
      rw [State.updFn_fn]
    · exact exec_configSpaceWrite_of_ready hup hf hready _
    · rw [exec_configSpaceWrite_of_ready hup hf hready, configWrite, if_pos (.inr hn)]
    · simp only [exec, execFlr, configRequest_of_unready hup hf hready]
    · simp only [exec, execConfigSpaceWrite, configRequest_of_unready hup hf hready]

end Sys2Proof.Machine
end

section
/-! The dictionary protocol: how requests reach firmware, and what the sessions answer (R571, R579 to R587, R597). -/

namespace Sys2Proof.Machine

open Sys2Proof Sys2Proof.Safety

/-! ### Refused accesses in the violation log -/

/-- A refused access is told to the host by the device vector at most (R631). -/
theorem logVio_tx (kind target : Nat) (st : Status) (initiator : Nat) (s : State) :
    ∃ told, (told = [] ∨ told = [Tx.msix (devLink s) 0 514]) ∧ (logVio kind target st initiator s).tx = s.tx ++ told := by
  have hvector : ∀ v, ∃ told, (told = [] ∨ told = [Tx.msix (devLink s) 0 514]) ∧ (deviceVector 514 { s with vio := v }).tx = s.tx ++ told := by
    intro v
    rcases sendVector_cases (devLink s) 0 514 { s with vio := v } with h | ⟨h, -⟩ | h
    · exact ⟨[], .inl rfl, (congrArg State.tx h).trans (List.append_nil _).symm⟩
    · exact ⟨_, .inr rfl, congrArg State.tx h⟩
    · exact ⟨[], .inl rfl, (congrArg State.tx h).trans (List.append_nil _).symm⟩
  unfold logVio
  dsimp only
  split
  · split
    · exact ⟨[], .inl rfl, (List.append_nil _).symm⟩
    · exact hvector _
  · exact hvector _

/-! ### Requests that reach a port -/

/-- Each row of a request takes the messages of its own operation. -/
theorem exec_ldpRequest {c : Instr} {src : LdpFrom} {m : List Byte} {kind : Bool} (s : State) (h : ldpRequest c = some (src, m, kind)) :
    exec c s = .next (ldpRow kind src m s) := by
  cases c with
  | _ => cases h <;> rfl

theorem wellFormed_of_ldpRequest {c : Instr} {src : LdpFrom} {m : List Byte} {kind : Bool} (h : ldpRequest c = some (src, m, kind)) :
    kind = false ∨ malformed m = false := by
  have hkind : ∀ a b : Bool, (! a && b) = false ∨ a = false := by decide
  cases c with
  | _ => cases h <;> exact hkind _ _

section
variable {p : Fin 2} {addr udp : Nat} {m : List Byte} {s : State}

theorem ldpRow_of_listens (hlistens : listens s p = true) : ldpRow true (.udp p addr udp) m s = arrive (.udp p addr udp) m s := if_pos hlistens

theorem ldpRow_of_deaf (hlistens : listens s p = false) (kind : Bool) : ldpRow kind (.udp p addr udp) m s = s := by
  simp [ldpRow, hlistens]

theorem arrive_of_malformed (h : malformed m = true) : arrive (.udp p addr udp) m s = s.updAcc fun a => { a with drops := satInc a.drops } :=
  if_pos h

theorem arrive_of_free (h : malformed m = false) (hfree : fwFree s = true) : arrive (.udp p addr udp) m s = serveMsg (.udp p addr udp) m s := by
  simp [arrive, h, hfree, serveLdp]

theorem arrive_of_room (h : malformed m = false) (hfree : fwFree s = false) (hroom : s.svc.length < svcMax) :
    arrive (.udp p addr udp) m s = { s with svc := s.svc ++ [.ldp (.udp p addr udp) m] } := by
  simp [arrive, h, hfree, hroom]

theorem arrive_of_full (h : malformed m = false) (hfree : fwFree s = false) (hfull : svcMax ≤ s.svc.length) :
    arrive (.udp p addr udp) m s = s.updAcc fun a => { a with drops := satInc a.drops } := by
  simp [arrive, h, hfree, Nat.not_lt.mpr hfull, dropRequest]

end

/-- What becomes of a request by its row (R571, R579). -/
theorem request_arrives {c : Instr} {p : Fin 2} {addr udp : Nat} {m : List Byte} {kind : Bool} {s : State}
    (hrow : ldpRequest c = some (.udp p addr udp, m, kind)) :
    (kind = false → exec c s = .next s) ∧ (listens s p = false → exec c s = .next s)
      ∧ (kind = true → listens s p = true →
          (fwFree s = true → exec c s = .next (serveMsg (.udp p addr udp) m s))
          ∧ (fwFree s = false → s.svc.length < svcMax → exec c s = .next { s with svc := s.svc ++ [.ldp (.udp p addr udp) m] })
          ∧ (fwFree s = false → svcMax ≤ s.svc.length → exec c s = .next { s with acc := { s.acc with drops := satInc s.acc.drops } })) := by
  rw [exec_ldpRequest s hrow]
  refine ⟨fun hkind => by rw [hkind]; rfl, fun hdeaf => by rw [ldpRow_of_deaf hdeaf], fun hkind hlistens => ?_⟩
  have hgood := (wellFormed_of_ldpRequest hrow).resolve_left (by rw [hkind]; exact Bool.noConfusion)
  rw [hkind, ldpRow_of_listens hlistens]
  exact ⟨fun hfree => by rw [arrive_of_free hgood hfree], fun hfree hroom => by rw [arrive_of_room hgood hfree hroom],
    fun hfree hfull => by rw [arrive_of_full hgood hfree hfull]; rfl⟩

theorem exec_ldpMalformed_of_listens {p : Fin 2} {addr udp : Nat} {m : List Byte} {s : State} (h : malformed m = true) (hlistens : listens s p = true) :
    exec (.ldpMalformed (.udp p addr udp) m) s = .next { s with acc := { s.acc with drops := satInc s.acc.drops } } := by
  simp only [exec, execLdpMalformed, h, ldpRow_of_listens hlistens, arrive_of_malformed h]
  rfl

theorem exec_ldpMalformed_of_wellFormed {src : LdpFrom} {m : List Byte} {s : State} (h : malformed m = false) :
    exec (.ldpMalformed src m) s = .next s := by
  simp only [exec, execLdpMalformed, h]
  rfl

/-! ### Requests of an open session -/

/-- The session that a message names: it is there, bound to the message's source, and open. -/
def opensTo (src : LdpFrom) (m : List Byte) (x : Session) (s : State) : Prop :=
  findSession s (msgSession m) = some x ∧ x.boundTo src = true ∧ x.isOpen = true

/-- A message is new to its session: its tag has no kept reply and is ahead. -/
def newTo (m : List Byte) (x : Session) : Prop :=
  x.kept.find? (fun k => k.1 == msgTag m) = none ∧ tagAhead (msgTag m) x.highTag = true

section
variable {p : Fin 2} {addr udp : Nat} {src : LdpFrom} {m : List Byte} {x : Session} {s : State} {c : Instr} {op : Nat}

theorem serveMsg_of_kept {k : BitVec 32 × List Byte} (hopen : opensTo src m x s) (hlisted : listedOps.contains (msgOp m) = true) (hrun : msgOp m < 0x30)
    (hfirst : msgOp m ≠ 1) (hkept : x.kept.find? (fun k => k.1 == msgTag m) = some k) : serveMsg src m s = sendReply src k.2 s := by
  obtain ⟨hfound, hbound, hisopen⟩ := hopen
  simp only [serveMsg, hlisted, Nat.not_le.mpr hrun, hfirst, hfound, hbound, hisopen, hkept, false_and, Bool.not_true, Bool.false_eq_true, if_false]

theorem serveMsg_of_stale (hopen : opensTo src m x s) (hlisted : listedOps.contains (msgOp m) = true) (hrun : msgOp m < 0x30) (hfirst : msgOp m ≠ 1)
    (hkept : x.kept.find? (fun k => k.1 == msgTag m) = none) (hbehind : tagAhead (msgTag m) x.highTag = false) :
    serveMsg src m s = s.updAcc fun a => { a with stale := satInc a.stale } := by
  obtain ⟨hfound, hbound, hisopen⟩ := hopen
  simp only [serveMsg, hlisted, Nat.not_le.mpr hrun, hfirst, hfound, hbound, hisopen, hkept, hbehind, false_and, Bool.not_true, Bool.not_false,
    Bool.false_eq_true, if_false, if_true]

theorem serveMsg_of_new (hopen : opensTo src m x s) (hnew : newTo m x) (hlisted : listedOps.contains (msgOp m) = true) (hrun : msgOp m < 0x30)
    (hfirst : msgOp m ≠ 1) : serveMsg src m s = finish src m x.id (sessionOp src m x s) := by
  obtain ⟨hfound, hbound, hisopen⟩ := hopen
  obtain ⟨hkept, hahead⟩ := hnew
  simp only [serveMsg, hlisted, Nat.not_le.mpr hrun, hfirst, hfound, hbound, hisopen, hkept, hahead, false_and, Bool.not_true,
    Bool.false_eq_true, if_false]

/-- What an answered message leaves: the reply that is sent, and its session with the tag and the reply (R587). -/
theorem finish_leaves {st : Status} {bs : List Byte} {u : State} (hsrc : src = .udp p addr udp) :
    (finish src m x.id ((st, bs), u)).tx = u.tx ++ [.datagram p (some u.acc.ldpPortNow.toNat) (addr * 65536 + udp) (replyTo m st bs)]
      ∧ (finish src m x.id ((st, bs), u)).acc.sessions = u.acc.sessions.map (fun y : Session =>
          if y.id = x.id then { y with kept := ((msgTag m, replyTo m st bs) :: y.kept).take 64, highTag := msgTag m } else y)
      ∧ (finish src m x.id ((st, bs), u)).mram = u.mram ∧ (finish src m x.id ((st, bs), u)).fuses = u.fuses
      ∧ (finish src m x.id ((st, bs), u)).vio = u.vio := by
  subst hsrc
  exact ⟨rfl, rfl, rfl, rfl, rfl⟩

end

/-- A port that hears a well-formed message while firmware is free. -/
def hears (p : Fin 2) (m : List Byte) (s : State) : Prop := malformed m = false ∧ listens s p = true ∧ fwFree s = true

section
variable {p : Fin 2} {addr udp : Nat} {src : LdpFrom} {m : List Byte} {x : Session} {s : State} {c : Instr} {op : Nat}
  (hsrc : src = .udp p addr udp) (hears : hears p m s)
include hsrc hears

/-- A row carries out the messages of its operation. -/
theorem exec_of_op (hrow : ldpRequest c = some (src, m, ! malformed m && msgOp m == op)) (hop : msgOp m = op) :
    exec c s = .next (serveMsg src m s) := by
  obtain ⟨hgood, hlistens, hfree⟩ := hears
  rw [hop, beq_self_eq_true, hgood] at hrow
  subst hsrc
  exact ((request_arrives hrow).2.2 rfl hlistens).1 hfree

/-- An operation of an open session sends its answer, and the session keeps it (R581, R587). -/
theorem exec_of_sessionOp {st : Status} {bs : List Byte} {u : State} (hopen : opensTo src m x s) (hnew : newTo m x)
    (hrow : ldpRequest c = some (src, m, ! malformed m && msgOp m == op)) (hop : msgOp m = op) (hlisted : listedOps.contains op = true) (hrun : op < 0x30)
    (hfirst : op ≠ 1) (hanswer : sessionOp src m x s = ((st, bs), u)) :
    ∃ t, exec c s = .next t ∧ t.tx = u.tx ++ [.datagram p (some u.acc.ldpPortNow.toNat) (addr * 65536 + udp) (replyTo m st bs)]
      ∧ t.acc.sessions = u.acc.sessions.map (fun y : Session =>
          if y.id = x.id then { y with kept := ((msgTag m, replyTo m st bs) :: y.kept).take 64, highTag := msgTag m } else y)
      ∧ t.mram = u.mram ∧ t.fuses = u.fuses ∧ t.vio = u.vio := by
  refine ⟨_, exec_of_op hsrc hears hrow hop, ?_⟩
  rw [serveMsg_of_new hopen hnew (by rw [hop]; exact hlisted) (by rw [hop]; exact hrun) (by rw [hop]; exact hfirst), hanswer]
  exact finish_leaves hsrc

end

/-! ### What each operation answers -/

section
variable {src : LdpFrom} {m : List Byte} {x : Session} {s : State}

theorem sessionOp_keepalive (hop : msgOp m = 0x03) : sessionOp src m x s = ((.ok, []), s) := by
  simp only [sessionOp, hop]

theorem sessionOp_close (hop : msgOp m = 0x02) : sessionOp src m x s = ((.ok, []), dropSession x.id s) := by
  simp only [sessionOp, hop]

/-- READ gives what its items read (R582). -/
theorem sessionOp_read {n : Nat} (hop : msgOp m = 0x10) (hlen : (msgPayload m).length = 4 * n) (hone : 1 ≤ n) (hmost : n ≤ 64)
    (hzero : ∀ i < n, leAt (msgPayload m) (4 * i + 3) 1 = 0) :
    sessionOp src m x s = readItems { path := pathOf src x.id.toNat, priv := x.priv } (msgPayload m) n 0 s := by
  have hdiv : 4 * n / 4 = n := Nat.mul_div_cancel_left n (by decide)
  have hany : ((List.range n).any fun i => leAt (msgPayload m) (4 * i + 3) 1 != 0) = false := by
    simpa [List.any_eq_false] using hzero
  have hinside : ¬ (4 * n % 4 ≠ 0 ∨ n < 1 ∨ 64 < n ∨ false = true) := by
    rw [Nat.mul_mod_right]
    simp only [Bool.false_eq_true, or_false]
    omega
  simp only [sessionOp, hop, ldpRead, hlen, hdiv, hany]
  exact if_neg hinside

/-- WRITE without a condition gives HEAD and what its items write (R581, R582). -/
theorem sessionOp_write {items : List WriteItem} {st : Status} {bs : List Byte} {u : State} (hop : msgOp m = 0x11)
    (hcond : (msgFlags m).testBit 1 = false) (hitems : parseItems 64 (msgPayload m) = some items) (hsome : items ≠ [])
    (hwrite : writeItems { path := pathOf src x.id.toNat, priv := x.priv } false items s = ((st, bs), u)) :
    sessionOp src m x s = ((st, headBytes u ++ bs), u) := by
  obtain ⟨i, r, rfl⟩ := List.exists_cons_of_ne_nil hsome
  simp [sessionOp, hop, ldpWrite, hcond, hitems, hwrite]

/-- READ_BLOB gives the bytes asked for (R583). -/
theorem sessionOp_readBlob {o : Obj} {v : Val} {u : State} {bs : List Byte} (hop : msgOp m = 0x12) (hlen : (msgPayload m).length = 10)
    (hobj : objAt (leAt (msgPayload m) 0 2) (leAt (msgPayload m) 2 1) = some o) (hty : o.desc.ty = .str ∨ o.desc.ty = .blob)
    (hread : dictRead { path := pathOf src x.id.toNat, priv := x.priv } (leAt (msgPayload m) 0 2) (leAt (msgPayload m) 2 1) s = ((.ok, v), u))
    (hpart : blobPart o v (leAt (msgPayload m) 4 4) (leAt (msgPayload m) 8 2) u = (.ok, bs)) :
    sessionOp src m x s = ((.ok, bs), u) := by
  have hbytes : ¬ (o.desc.ty ≠ .str ∧ o.desc.ty ≠ .blob) := fun ⟨h1, h2⟩ => hty.elim h1 h2
  simp only [sessionOp, hop, ldpReadBlob, hlen, hread, hobj, hpart, hbytes]
  simp

/-- A first chunk of a WRITE_BLOB is staged (R583). -/
theorem sessionOp_writeBlob (hop : msgOp m = 0x13) (hleast : 8 ≤ (msgPayload m).length) (hmost : (msgPayload m).length ≤ 16392)
    (hfirst : leAt (msgPayload m) 4 4 = 0) (hmore : (msgFlags m).testBit 2 = true) :
    sessionOp src m x s = ((.ok, []), updSession x.id (fun y =>
      { y with staged := some (objTarget (leAt (msgPayload m) 0 2) (leAt (msgPayload m) 2 1), (msgPayload m).drop 8) }) s) := by
  have hfits : ¬ 16384 < ((msgPayload m).drop 8).length := by
    rw [List.length_drop]
    omega
  simp only [sessionOp, hop, ldpWriteBlob, Nat.not_lt.mpr hleast, hfirst, hmore, if_true, List.nil_append, hfits, if_false]

theorem sessionOp_describe {o : Obj} (hop : msgOp m = 0x14) (hlen : (msgPayload m).length = 3)
    (hobj : objAt (leAt (msgPayload m) 0 2) (leAt (msgPayload m) 2 1) = some o) : sessionOp src m x s = ((.ok, describe o), s) := by
  simp only [sessionOp, hop, ldpDescribe, hlen, hobj]
  rfl

/-- JNL_READ gives the entries asked for behind HEAD and the oldest number (R597). -/
theorem sessionOp_jnlRead {p : Fin 2} {addr udp : Nat} (hsrc : src = .udp p addr udp) (hop : msgOp m = 0x20) (hlen : (msgPayload m).length = 8)
    (hold : jnlOldest s ≤ leAt (msgPayload m) 0 6) (hnew : leAt (msgPayload m) 0 6 ≤ s.mram.head.toNat + 1) (hone : 1 ≤ leAt (msgPayload m) 6 2)
    (hmost : leAt (msgPayload m) 6 2 ≤ 44) :
    sessionOp src m x s = ((.ok, headBytes s ++ leBytes 6 (jnlOldest s) ++ leBytes 2 0
      ++ (List.range (leAt (msgPayload m) 6 2)).flatMap fun i => ((jnlFind s (leAt (msgPayload m) 0 6 + i)).map JnlEntry.bytes).getD []), s) := by
  subst hsrc
  have hinside : ¬ (leAt (msgPayload m) 0 6 < jnlOldest s ∨ s.mram.head.toNat + 1 < leAt (msgPayload m) 0 6 ∨ leAt (msgPayload m) 6 2 < 1
      ∨ jnlMost (.udp p addr udp) < leAt (msgPayload m) 6 2) := by
    simp only [jnlMost]
    omega
  simp only [sessionOp, hop, ldpJnlRead, hlen, hinside]
  simp

end

end Sys2Proof.Machine
end

section
/-! The dictionary protocol: how sessions open, what a message of no session meets, and how sessions end (R581, R584 to R586). -/

namespace Sys2Proof.Machine

open Sys2Proof Sys2Proof.Safety

/-! ### Messages that are refused before any session -/

/-- A refused message is answered with its status, and is told to the host by the device vector at most (R584, R631). -/
theorem refused_answer {p : Fin 2} {addr udp : Nat} {src : LdpFrom} (hsrc : src = .udp p addr udp) (m : List Byte) (n : Nat) (st : Status) (s : State) :
    ∃ t told, sendReply src (replyTo m st []) ((refuseMsg src n 0 st s).answer st []) = t
      ∧ t.tx = s.tx ++ told ++ [.datagram p (some s.acc.ldpPortNow.toNat) (addr * 65536 + udp) (replyTo m st [])]
      ∧ (told = [] ∨ told = [Tx.msix (devLink s) 0 514]) ∧ t.acc.sessions = s.acc.sessions ∧ t.mram = s.mram := by
  subst hsrc
  obtain ⟨told, htold, htx⟩ := logVio_tx 0 0 st (pathOf (.udp p addr udp) n).initiator s
  have hframe := logVio_frame 0 0 st (pathOf (.udp p addr udp) n).initiator s
  refine ⟨_, told, rfl, ?_, htold, ?_, ?_⟩
  · change (logVio 0 0 st (pathOf (.udp p addr udp) n).initiator s).tx
        ++ [Tx.datagram p (some (logVio 0 0 st (pathOf (.udp p addr udp) n).initiator s).acc.ldpPortNow.toNat) (addr * 65536 + udp) (replyTo m st [])] = _
    rw [htx, hframe]
  · change (logVio 0 0 st (pathOf (.udp p addr udp) n).initiator s).acc.sessions = _
    rw [hframe]
  · change (logVio 0 0 st (pathOf (.udp p addr udp) n).initiator s).mram = _
    rw [hframe]

section
variable {p : Fin 2} {addr udp : Nat} {src : LdpFrom} {m : List Byte} {s : State}

theorem serveMsg_of_unlisted (h : listedOps.contains (msgOp m) = false) :
    serveMsg src m s = sendReply src (replyTo m .version []) ((refuseMsg src (msgSession m) 0 .version s).answer .version []) := by
  simp only [serveMsg, h, Bool.not_false, if_true]
  rfl

theorem serveMsg_of_sessionless (hlisted : listedOps.contains (msgOp m) = true) (hrun : msgOp m < 0x30) (hfirst : msgOp m ≠ 1)
    (hnone : findSession s (msgSession m) = none) :
    serveMsg src m s = sendReply src (replyTo m .timeout []) ((refuseMsg src (msgSession m) 0 .timeout s).answer .timeout []) := by
  simp only [serveMsg, hlisted, Nat.not_le.mpr hrun, hfirst, hnone, false_and, Bool.not_true, Bool.false_eq_true, if_false]
  rfl

/-! ### Sessions that open and end -/

/-- A first OPEN that is admitted adds a session bound to its source, and answers its number, a version and a nonce (R585, R586). -/
theorem openFirst_of_admitted (hsrc : src = .udp p addr udp) (hbar : barredNow s addr = false) (hlen : (msgPayload m).length = 8)
    (hpriv : leAt (msgPayload m) 4 1 ≤ privMax s src) (hlow : leAt (msgPayload m) 0 2 ≤ 1) (hhigh : 1 ≤ leAt (msgPayload m) 2 2)
    (hroom : s.acc.sessions.length < 32) :
    ∃ nonce x d, nonce.length = 16 ∧ x.isOpen = (leAt (msgPayload m) 4 1 == 0) ∧ x.boundTo src = true ∧ x.priv = Fin.ofNat 4 (leAt (msgPayload m) 4 1)
      ∧ openFirst src m s = ((.ok, leBytes 2 (nextSession s 33 s.acc.lastSession.toNat) ++ leBytes 2 1 ++ leBytes 2 0 ++ nonce),
          { s with draw := d, acc := { s.acc with sessions := s.acc.sessions ++ [x]
                                                  lastSession := BitVec.ofNat 16 (nextSession s 33 s.acc.lastSession.toNat) } }) := by
  subst hsrc
  have hchecks : firstRefusal [(barredNow s (failKey (.udp p addr udp)), .busy), ((msgPayload m).length != 8, .integrity),
      (decide (privMax s (.udp p addr udp) < leAt (msgPayload m) 4 1), .privilege),
      (! decide (leAt (msgPayload m) 0 2 ≤ 1 ∧ 1 ≤ leAt (msgPayload m) 2 2), .version), (decide (32 ≤ s.acc.sessions.length), .busy)] = Status.ok := by
    simp [failKey, hbar, hlen, Nat.not_lt.mpr hpriv, hlow, hhigh, Nat.not_le.mpr hroom]
  have hbound : ∀ x : Session, x.port = some p → x.addr = addr → x.udp = udp → x.boundTo (.udp p addr udp) = true := by
    intro x hp ha hu
    simp [Session.boundTo, hp, ha, hu]
  simp only [openFirst, hchecks]
  by_cases hzero : leAt (msgPayload m) 4 1 = 0
  · simp only [hzero, if_true]
    exact ⟨_, _, _, List.length_replicate, rfl, hbound _ rfl rfl rfl, rfl, rfl⟩
  · simp only [hzero, if_false]
    exact ⟨_, _, _, by simp [State.drawBytes], rfl, hbound _ rfl rfl rfl, rfl, rfl⟩

/-- OPEN adds a session and answers its number; asked for a privilege above 0, the session waits half-open for its proof (R585). -/
theorem exec_ldpOpen_of_admitted (hsrc : src = .udp p addr udp) (hhears : hears p m s) (hop : msgOp m = 0x01) (hsession : msgSession m = 0)
    (hbar : barredNow s addr = false) (hlen : (msgPayload m).length = 8) (hpriv : leAt (msgPayload m) 4 1 ≤ privMax s src)
    (hlow : leAt (msgPayload m) 0 2 ≤ 1) (hhigh : 1 ≤ leAt (msgPayload m) 2 2) (hroom : s.acc.sessions.length < 32) :
    ∃ t bs, exec (.ldpOpen src m) s = .next t
      ∧ t.tx = s.tx ++ [.datagram p (some s.acc.ldpPortNow.toNat) (addr * 65536 + udp) (replyTo m .ok bs)] ∧ bs.length = 22
      ∧ bs.take 2 = leBytes 2 (nextSession s 33 s.acc.lastSession.toNat) ∧ t.acc.sessions.length = s.acc.sessions.length + 1
      ∧ (0 < leAt (msgPayload m) 4 1 → ∃ x, t.acc.sessions = s.acc.sessions ++ [x] ∧ x.isOpen = false ∧ x.boundTo src = true
          ∧ x.priv.1 = leAt (msgPayload m) 4 1) := by
  obtain ⟨nonce, x, d, hnonce, hisopen, hbound, hx, hfirst⟩ := openFirst_of_admitted hsrc hbar hlen hpriv hlow hhigh hroom
  have hthree : privMax s src ≤ 3 := by
    subst hsrc
    exact Nat.le_of_lt_succ (Nat.mod_lt _ (by decide))
  have hexec := exec_of_op (c := .ldpOpen src m) hsrc hhears rfl hop
  have hbytes : (leBytes 2 (nextSession s 33 s.acc.lastSession.toNat) ++ leBytes 2 1 ++ leBytes 2 0 ++ nonce).length = 22 := by simp [hnonce]
  have htake : (leBytes 2 (nextSession s 33 s.acc.lastSession.toNat) ++ leBytes 2 1 ++ leBytes 2 0 ++ nonce).take 2
      = leBytes 2 (nextSession s 33 s.acc.lastSession.toNat) := by
    rw [List.append_assoc, List.append_assoc]
    exact List.take_left' (leBytes_length 2 _)
  rw [hexec]
  by_cases hzero : leAt (msgPayload m) 4 1 = 0
  · have hserve : serveMsg src m s = finish src m (openFirst src m s).2.acc.lastSession (openFirst src m s) := by
      simp only [serveMsg, hop, hsession, hfirst, hzero]
      rfl
    rw [hserve, hfirst]
    subst hsrc
    exact ⟨_, _, rfl, rfl, hbytes, htake, by simp [finish, sendReply, updSession, State.send, State.updAcc, State.answer],
      fun h => absurd hzero (Nat.pos_iff_ne_zero.mp h)⟩
  · have hserve : serveMsg src m s
        = sendReply src (replyTo m (openFirst src m s).1.1 (openFirst src m s).1.2) ((openFirst src m s).2.answer (openFirst src m s).1.1 (openFirst src m s).1.2) := by
      simp only [serveMsg, hop, hsession, hfirst, hzero]
      rfl
    rw [hserve, hfirst]
    have hhalf : x.isOpen = false := by rw [hisopen]; exact beq_false_of_ne hzero
    have hpriv' : x.priv.1 = leAt (msgPayload m) 4 1 := by
      rw [hx]
      exact Nat.mod_eq_of_lt (by omega)
    subst hsrc
    exact ⟨_, _, rfl, rfl, hbytes, htake, by simp [sendReply, State.send, State.answer], fun _ => ⟨x, rfl, hhalf, hbound, hpriv'⟩⟩

/-- An idle session ends (R586). -/
theorem exec_sessionIdleTimeout_of_free (hfree : fwFree s = true) (id : BitVec 16) :
    exec (.sessionIdleTimeout id) s = .next { s with acc := { s.acc with sessions := s.acc.sessions.filter fun y => y.id != id } } := by
  obtain ⟨hruns, -⟩ := Bool.and_eq_true_iff.mp hfree
  simp only [exec, execSessionIdleTimeout, hruns]
  rfl

/-- A session that is gone keeps no answer. -/
theorem map_of_dropped (l : List Session) (id : BitVec 16) (f : Session → Session) :
    (l.filter fun y => y.id != id).map (fun y => if y.id = id then f y else y) = l.filter fun y => y.id != id := by
  refine (List.map_congr_left fun y hy => ?_).trans (List.map_id _)
  obtain ⟨-, hother⟩ := List.mem_filter.mp hy
  exact if_neg (bne_iff_ne.mp hother)

end

/-! ### The operations of an open session -/

section
variable {p : Fin 2} {addr udp : Nat} {src : LdpFrom} {m : List Byte} {sent : State → Status → List Byte → Tx} {s : State} {x : Session}
  (hsrc : src = .udp p addr udp)
  (hsent : ∀ u st bs, sent u st bs = .datagram p (some u.acc.ldpPortNow.toNat) (addr * 65536 + udp) (replyTo m st bs)) (hhears : hears p m s)
  (hopen : opensTo src m x s) (hnew : newTo m x)
include hsrc hsent hhears hopen hnew

theorem exec_ldpKeepalive_of_open (hop : msgOp m = 0x03) :
    ∃ t, exec (.ldpKeepalive src m) s = .next t ∧ t.tx = s.tx ++ [sent s .ok []]
      ∧ t.acc.sessions = s.acc.sessions.map (fun y : Session =>
          if y.id = x.id then { y with kept := ((msgTag m, replyTo m .ok []) :: y.kept).take 64, highTag := msgTag m } else y)
      ∧ t.mram = s.mram ∧ t.fuses = s.fuses ∧ t.vio = s.vio := by
  obtain ⟨t, hexec, htx, hrest⟩ := exec_of_sessionOp (c := .ldpKeepalive src m) hsrc hhears hopen hnew rfl hop (by decide) (by decide) (by decide)
    (sessionOp_keepalive hop)
  exact ⟨t, hexec, by rw [htx, hsent], hrest⟩

theorem exec_ldpClose_of_open (hop : msgOp m = 0x02) :
    ∃ t, exec (.ldpClose src m) s = .next t ∧ t.tx = s.tx ++ [sent s .ok []]
      ∧ t.acc.sessions = s.acc.sessions.filter (fun y => y.id != x.id) ∧ t.mram = s.mram ∧ t.vio = s.vio := by
  obtain ⟨t, hexec, htx, hsessions, hmram, -, hvio⟩ := exec_of_sessionOp (c := .ldpClose src m) hsrc hhears hopen hnew rfl hop (by decide) (by decide)
    (by decide) (sessionOp_close hop)
  exact ⟨t, hexec, by rw [htx, hsent]; rfl, hsessions.trans (map_of_dropped _ _ _), hmram, hvio⟩

/-- The answer of an operation that touches no session, sent from the state that the operation leaves. -/
theorem exec_of_answer {c : Instr} {op : Nat} {st : Status} {bs : List Byte} {u : State}
    (hrow : ldpRequest c = some (src, m, ! malformed m && msgOp m == op)) (hop : msgOp m = op) (hlisted : listedOps.contains op = true) (hrun : op < 0x30)
    (hfirst : op ≠ 1) (hanswer : sessionOp src m x s = ((st, bs), u)) :
    ∃ t, exec c s = .next t ∧ t.tx = u.tx ++ [sent u st bs] ∧ t.mram = u.mram ∧ t.fuses = u.fuses ∧ t.vio = u.vio := by
  obtain ⟨t, hexec, htx, -, hrest⟩ := exec_of_sessionOp hsrc hhears hopen hnew hrow hop hlisted hrun hfirst hanswer
  exact ⟨t, hexec, by rw [htx, hsent], hrest⟩

/-- The chunk that a WRITE_BLOB brings stays with its session (R583). -/
theorem exec_ldpWriteBlob_of_open (hop : msgOp m = 0x13) (hleast : 8 ≤ (msgPayload m).length) (hmost : (msgPayload m).length ≤ 16392)
    (hfirst : leAt (msgPayload m) 4 4 = 0) (hmore : (msgFlags m).testBit 2 = true) :
    ∃ t, exec (.ldpWriteBlob src m) s = .next t ∧ t.tx = s.tx ++ [sent s .ok []] ∧ t.mram = s.mram
      ∧ ∀ y ∈ t.acc.sessions, y.id = x.id →
          y.staged = some (objTarget (leAt (msgPayload m) 0 2) (leAt (msgPayload m) 2 1), (msgPayload m).drop 8) := by
  obtain ⟨t, hexec, htx, hsessions, hmram, -⟩ := exec_of_sessionOp (c := .ldpWriteBlob src m) hsrc hhears hopen hnew rfl hop (by decide) (by decide)
    (by decide) (sessionOp_writeBlob hop hleast hmost hfirst hmore)
  refine ⟨t, hexec, by rw [htx, hsent]; rfl, hmram, fun y hy hid => ?_⟩
  simp only [hsessions, updSession, State.updAcc, List.map_map, List.mem_map] at hy
  obtain ⟨z, -, rfl⟩ := hy
  by_cases hz : z.id = x.id
  · simp [hz]
  · simp [hz] at hid

theorem exec_ldpRead_of_open {n : Nat} {st : Status} {bs : List Byte} {u : State} (hop : msgOp m = 0x10) (hlen : (msgPayload m).length = 4 * n)
    (hone : 1 ≤ n) (hmost : n ≤ 64) (hzero : ∀ i < n, leAt (msgPayload m) (4 * i + 3) 1 = 0)
    (hread : readItems { path := pathOf src x.id.toNat, priv := x.priv } (msgPayload m) n 0 s = ((st, bs), u)) :
    ∃ t, exec (.ldpRead src m) s = .next t ∧ t.tx = u.tx ++ [sent u st bs] ∧ t.mram = u.mram ∧ t.fuses = u.fuses := by
  obtain ⟨t, hexec, htx, hmram, hfuses, -⟩ := exec_of_answer (c := .ldpRead src m) hsrc hsent hhears hopen hnew rfl hop (by decide) (by decide)
    (by decide) ((sessionOp_read hop hlen hone hmost hzero).trans hread)
  exact ⟨t, hexec, htx, hmram, hfuses⟩

theorem exec_ldpWrite_of_open {items : List WriteItem} {st : Status} {bs : List Byte} {u : State} (hop : msgOp m = 0x11)
    (hcond : (msgFlags m).testBit 1 = false) (hitems : parseItems 64 (msgPayload m) = some items) (hsome : items ≠ [])
    (hwrite : writeItems { path := pathOf src x.id.toNat, priv := x.priv } false items s = ((st, bs), u)) :
    ∃ t, exec (.ldpWrite src m) s = .next t ∧ t.tx = u.tx ++ [sent u st (headBytes u ++ bs)] ∧ t.mram = u.mram ∧ t.fuses = u.fuses := by
  obtain ⟨t, hexec, htx, hmram, hfuses, -⟩ := exec_of_answer (c := .ldpWrite src m) hsrc hsent hhears hopen hnew rfl hop (by decide) (by decide)
    (by decide) (sessionOp_write hop hcond hitems hsome hwrite)
  exact ⟨t, hexec, htx, hmram, hfuses⟩

theorem exec_ldpReadBlob_of_open {o : Obj} {v : Val} {u : State} {bs : List Byte} (hop : msgOp m = 0x12) (hlen : (msgPayload m).length = 10)
    (hobj : objAt (leAt (msgPayload m) 0 2) (leAt (msgPayload m) 2 1) = some o) (hty : o.desc.ty = .str ∨ o.desc.ty = .blob)
    (hread : dictRead { path := pathOf src x.id.toNat, priv := x.priv } (leAt (msgPayload m) 0 2) (leAt (msgPayload m) 2 1) s = ((.ok, v), u))
    (hpart : blobPart o v (leAt (msgPayload m) 4 4) (leAt (msgPayload m) 8 2) u = (.ok, bs)) :
    ∃ t, exec (.ldpReadBlob src m) s = .next t ∧ t.tx = u.tx ++ [sent u .ok bs] ∧ t.mram = u.mram := by
  obtain ⟨t, hexec, htx, hmram, -⟩ := exec_of_answer (c := .ldpReadBlob src m) hsrc hsent hhears hopen hnew rfl hop (by decide) (by decide)
    (by decide) (sessionOp_readBlob hop hlen hobj hty hread hpart)
  exact ⟨t, hexec, htx, hmram⟩

theorem exec_ldpDescribe_of_open {o : Obj} (hop : msgOp m = 0x14) (hlen : (msgPayload m).length = 3)
    (hobj : objAt (leAt (msgPayload m) 0 2) (leAt (msgPayload m) 2 1) = some o) :
    ∃ t, exec (.ldpDescribe src m) s = .next t ∧ t.tx = s.tx ++ [sent s .ok (describe o)] ∧ t.mram = s.mram ∧ t.vio = s.vio := by
  obtain ⟨t, hexec, htx, hmram, -, hvio⟩ := exec_of_answer (c := .ldpDescribe src m) hsrc hsent hhears hopen hnew rfl hop (by decide) (by decide)
    (by decide) (sessionOp_describe hop hlen hobj)
  exact ⟨t, hexec, htx, hmram, hvio⟩

theorem exec_ldpJnlRead_of_open {a n : Nat} (hop : msgOp m = 0x20) (ha : a = leAt (msgPayload m) 0 6) (hn : n = leAt (msgPayload m) 6 2)
    (hlen : (msgPayload m).length = 8) (hold : jnlOldest s ≤ a) (hnext : a ≤ s.mram.head.toNat + 1) (hone : 1 ≤ n) (hmost : n ≤ 44) :
    ∃ t, exec (.ldpJnlRead src m) s = .next t ∧ t.mram = s.mram ∧ t.vio = s.vio
      ∧ t.tx = s.tx ++ [sent s .ok (headBytes s ++ leBytes 6 (jnlOldest s) ++ leBytes 2 0
          ++ (List.range n).flatMap fun i => ((jnlFind s (a + i)).map JnlEntry.bytes).getD [])] := by
  rw [ha] at hold hnext ⊢
  rw [hn] at hone hmost ⊢
  obtain ⟨t, hexec, htx, hmram, -, hvio⟩ := exec_of_answer (c := .ldpJnlRead src m) hsrc hsent hhears hopen hnew rfl hop (by decide) (by decide)
    (by decide) (sessionOp_jnlRead hsrc hop hlen hold hnext hone hmost)
  exact ⟨t, hexec, hmram, hvio, htx⟩

end

section
variable {p : Fin 2} {addr udp : Nat} {src : LdpFrom} {m : List Byte} {s : State} {x : Session} (hsrc : src = .udp p addr udp) (hhears : hears p m s)
include hsrc hhears

/-- A repeated tag is answered again, and nothing is carried out (R587). -/
theorem exec_ldpKeepalive_of_kept {k : BitVec 32 × List Byte} (hopen : opensTo src m x s) (hkept : x.kept.find? (fun k => k.1 == msgTag m) = some k)
    (hop : msgOp m = 0x03) :
    exec (.ldpKeepalive src m) s = .next { s with tx := s.tx ++ [.datagram p (some s.acc.ldpPortNow.toNat) (addr * 65536 + udp) k.2] } := by
  rw [exec_of_op (c := .ldpKeepalive src m) hsrc hhears rfl hop,
    serveMsg_of_kept hopen (by rw [hop]; decide) (by rw [hop]; decide) (by rw [hop]; decide) hkept, hsrc]
  rfl

/-- A tag that is not ahead is counted (R587). -/
theorem exec_ldpWrite_of_stale (hopen : opensTo src m x s) (hkept : x.kept.find? (fun k => k.1 == msgTag m) = none)
    (hbehind : tagAhead (msgTag m) x.highTag = false) (hop : msgOp m = 0x11) :
    exec (.ldpWrite src m) s = .next { s with acc := { s.acc with stale := satInc s.acc.stale } } := by
  rw [exec_of_op (c := .ldpWrite src m) hsrc hhears rfl hop,
    serveMsg_of_stale hopen (by rw [hop]; decide) (by rw [hop]; decide) (by rw [hop]; decide) hkept hbehind]
  rfl

/-- A request of no session meets TIMEOUT (R586). -/
theorem exec_ldpRead_of_sessionless (hnone : findSession s (msgSession m) = none) (hop : msgOp m = 0x10) :
    ∃ t told, exec (.ldpRead src m) s = .next t
      ∧ t.tx = s.tx ++ told ++ [.datagram p (some s.acc.ldpPortNow.toNat) (addr * 65536 + udp) (replyTo m .timeout [])]
      ∧ (told = [] ∨ told = [.msix (devLink s) 0 514]) ∧ t.acc.sessions = s.acc.sessions ∧ t.mram = s.mram := by
  obtain ⟨t, told, hreply, hrest⟩ := refused_answer hsrc m (msgSession m) .timeout s
  refine ⟨t, told, ?_, hrest⟩
  rw [exec_of_op (c := .ldpRead src m) hsrc hhears rfl hop,
    serveMsg_of_sessionless (by rw [hop]; decide) (by rw [hop]; decide) (by rw [hop]; decide) hnone, hreply]

/-- An operation that the table does not list meets VERSION (R581). -/
theorem exec_ldpUnknownOp_of_unlisted (hunlisted : listedOps.contains (msgOp m) = false) :
    ∃ t told, exec (.ldpUnknownOp src m) s = .next t
      ∧ t.tx = s.tx ++ told ++ [.datagram p (some s.acc.ldpPortNow.toNat) (addr * 65536 + udp) (replyTo m .version [])]
      ∧ (told = [] ∨ told = [.msix (devLink s) 0 514]) ∧ t.acc.sessions = s.acc.sessions ∧ t.mram = s.mram := by
  obtain ⟨hgood, hlistens, hfree⟩ := hhears
  obtain ⟨t, told, hreply, hrest⟩ := refused_answer hsrc m (msgSession m) .version s
  refine ⟨t, told, ?_, hrest⟩
  rw [← hreply, ← serveMsg_of_unlisted hunlisted]
  subst hsrc
  have hrow : ldpRequest (.ldpUnknownOp (.udp p addr udp) m) = some (.udp p addr udp, m, ! malformed m && ! listedOps.contains (msgOp m)) := rfl
  obtain ⟨-, -, hserved⟩ := request_arrives (s := s) hrow
  exact (hserved (by rw [hgood, hunlisted]; rfl) hlistens).1 hfree

end

/-- Settles O57: what becomes of a request, and then each kind of message at a port that hears it. -/
theorem dictionaryProtocol : Obligations.DictionaryProtocol := by
  unfold Obligations.DictionaryProtocol
  refine ⟨fun c p addr udp m kind s => ⟨request_arrives, exec_ldpMalformed_of_listens, exec_ldpMalformed_of_wellFormed⟩, ?_⟩
  rintro p addr udp src m pay sent s hsrc rfl hsent hgood hlistens hfree
  have hhears : hears p m s := ⟨hgood, hlistens, hfree⟩
  refine ⟨?_, ?_, ?_, ?_, exec_sessionIdleTimeout_of_free hfree⟩
  · rintro x who hfound hbound hisopen rfl
    have hopen : opensTo src m x s := ⟨hfound, hbound, hisopen⟩
    refine ⟨fun k => exec_ldpKeepalive_of_kept hsrc hhears hopen, exec_ldpWrite_of_stale hsrc hhears hopen, fun hkept hahead => ?_⟩
    have hnew : newTo m x := ⟨hkept, hahead⟩
    exact ⟨exec_ldpKeepalive_of_open hsrc hsent hhears hopen hnew, exec_ldpClose_of_open hsrc hsent hhears hopen hnew,
      fun hop n st bs u => exec_ldpRead_of_open hsrc hsent hhears hopen hnew hop,
      fun hop items st bs u => exec_ldpWrite_of_open hsrc hsent hhears hopen hnew hop,
      fun hop o v u bs => exec_ldpReadBlob_of_open hsrc hsent hhears hopen hnew hop, exec_ldpWriteBlob_of_open hsrc hsent hhears hopen hnew,
      fun hop o => exec_ldpDescribe_of_open hsrc hsent hhears hopen hnew hop,
      fun hop a n => exec_ldpJnlRead_of_open hsrc hsent hhears hopen hnew hop⟩
  · simp only [hsent]
    exact exec_ldpOpen_of_admitted hsrc hhears
  · simp only [hsent]
    exact exec_ldpRead_of_sessionless hsrc hhears
  · simp only [hsent]
    exact exec_ldpUnknownOp_of_unlisted hsrc hhears

end Sys2Proof.Machine
end

section
/-! The BARs, the object view and the mailbox registers (R514 to R517, R571 to R578). -/

namespace Sys2Proof.Machine

open Sys2Proof Sys2Proof.Safety

/-! ### Writes through the BARs -/

section
variable {l : Fin 4} {ofs : Nat} {bytes : List Byte} {s : State}

theorem exec_bar4Write_of_unserved (h : barServes s l 0 = false) : exec (.bar4Write l ofs bytes) s = .next s := by
  simp [exec, execBar4Write, bar4Write, h]

theorem exec_bar0WindowWrite_of_unserved (h : barServes s l 0 = false) : exec (.bar0WindowWrite l ofs bytes) s = .next s := by
  simp [exec, execBar0WindowWrite, bar0Write, h]

/-- The map store is written by BAR4 (R516). -/
theorem exec_bar4Write_of_served (h : barServes s l 0 = true) (hend : ofs + bytes.length ≤ 2 ^ 28) (hclk : s.clk.good[(2 : Fin 23)] = true) :
    exec (.bar4Write l ofs bytes) s = .next { s with mapStore := s.mapStore.write ofs bytes } := by
  have hinside : (! barServes s l 0 || decide (2 ^ 28 < ofs + bytes.length)) = false := by
    rw [h, decide_eq_false (Nat.not_lt.mpr hend)]
    rfl
  simp only [exec, execBar4Write, bar4Write, hinside, hclk, Bool.not_true, Bool.false_eq_true, if_false]

theorem not_unserved (h : barServes s l 0 = true) (hsome : bytes ≠ []) : (! barServes s l 0 || bytes.isEmpty) = false := by
  rw [h, List.isEmpty_eq_false_iff.mpr hsome]
  rfl

/-- PSTORE is written by BAR0 (R495, R515). -/
theorem exec_bar0WindowWrite_of_pstore (h : barServes s l 0 = true) (hphase : s.boot.phase = 3) (hheld : pstoreHeld s = false) (hsome : bytes ≠ [])
    (hleast : 0x00500000 ≤ ofs) (hmost : ofs + bytes.length ≤ 0x00600000) :
    exec (.bar0WindowWrite l ofs bytes) s = .next { s with pstore := s.pstore.write (ofs - 0x00500000) bytes } := by
  have hpos : 0 < bytes.length := List.length_pos_iff.mpr hsome
  have hwindow : ¬ ofs < 0x00400000 := by omega
  have hbell : ¬ (ofs = 0x00400000 ∧ viewAligned ofs bytes.length = true) := by omega
  have hregion : 0x00500000 ≤ ofs ∧ ofs < 0x00600000 := by omega
  have hrom : (s.boot.phase != 3) = false := by rw [hphase]; rfl
  have htake : bytes.take (0x00600000 - ofs) = bytes := List.take_of_length_le (by omega)
  simp only [exec, execBar0WindowWrite, bar0Write, not_unserved h hsome, hwindow, hbell, hregion, hrom, hheld, htake, Bool.false_eq_true, if_false,
    if_true, and_self]

/-- The boot window is written by BAR0 of port 0 link 0 while it is open (R117, R515). -/
theorem exec_bar0WindowWrite_of_window (h : barServes s l 0 = true) (hlink : l = 0) (hopen : s.boot.window = true) (hsome : bytes ≠ [])
    (hmost : ofs + bytes.length ≤ 0x00400000) :
    exec (.bar0WindowWrite l ofs bytes) s = .next { s with boot := { s.boot with ram := memWrite s.boot.ram ofs bytes } } := by
  have hpos : 0 < bytes.length := List.length_pos_iff.mpr hsome
  have hwindow : ofs < 0x00400000 := by omega
  have hwin : windowOpen s l = true := by rw [windowOpen, hlink, hopen]; rfl
  have htake : bytes.take (0x00400000 - ofs) = bytes := List.take_of_length_le (by omega)
  simp only [exec, execBar0WindowWrite, bar0Write, not_unserved h hsome, hwindow, hwin, htake, Bool.false_eq_true, if_false, if_true]
  rfl

end

/-! ### Accesses outside the map -/

/-- The first refused access of an empty violation log is its only entry (R631). -/
theorem logVio_of_empty {kind target : Nat} {st : Status} {initiator : Nat} {s : State} (h : s.vio.log = []) :
    ∃ e, (logVio kind target st initiator s).vio.log = [e] ∧ e.target = BitVec.ofNat 48 target ∧ e.status = BitVec.ofNat 8 st.code := by
  unfold logVio
  simp only [h]
  rw [deviceVector_frame]
  exact ⟨_, rfl, rfl, rfl⟩

theorem exec_barUnmappedAccess_of_unserved {l : Fin 4} {f : Fin 17} {s : State} (h : barServes s l f = false) (ofs : Nat) (wr : Bool) :
    exec (.barUnmappedAccess l f ofs wr) s = .next s := by
  simp [exec, execBarUnmappedAccess, h]

/-- An access outside the map is logged, and a read of it answered as unsupported (R515). -/
theorem exec_barUnmappedAccess_of_served {l : Fin 4} {f : Fin 17} {s : State} (h : barServes s l f = true) (hlog : s.vio.log = []) (ofs : Nat) :
    ∃ told : List Tx, (told = [] ∨ told = [.msix (devLink s) 0 514])
      ∧ (∃ t e, exec (.barUnmappedAccess l f ofs false) s = .next t ∧ t.tx = s.tx ++ told ++ [.unsupported l] ∧ t.vio.log = [e]
        ∧ e.target = BitVec.ofNat 48 ofs ∧ e.status = BitVec.ofNat 8 Status.access.code ∧ t.mapStore = s.mapStore ∧ t.pstore = s.pstore)
      ∧ (∃ t e, exec (.barUnmappedAccess l f ofs true) s = .next t ∧ t.tx = s.tx ++ told ∧ t.vio.log = [e] ∧ t.mapStore = s.mapStore
        ∧ t.pstore = s.pstore) := by
  obtain ⟨told, htold, htx⟩ := logVio_tx 1 ofs .access (Path.view l f).initiator s
  obtain ⟨e, hone, htarget, hstatus⟩ := logVio_of_empty (kind := 1) (target := ofs) (st := .access) (initiator := (Path.view l f).initiator) hlog
  have hframe := logVio_frame 1 ofs .access (Path.view l f).initiator s
  have hmap : (logVio 1 ofs .access (Path.view l f).initiator s).mapStore = s.mapStore := by rw [hframe]
  have hps : (logVio 1 ofs .access (Path.view l f).initiator s).pstore = s.pstore := by rw [hframe]
  refine ⟨told, htold, ⟨_, e, congrArg Host.Outcome.next (if_pos h), ?_, hone, htarget, hstatus, hmap, hps⟩,
    ⟨_, e, congrArg Host.Outcome.next (if_pos h), htx, hone, hmap, hps⟩⟩
  exact congrArg (· ++ [Tx.unsupported l]) htx

/-! ### Reads of the object view -/

section
variable {l : Fin 4} {f : Fin 17} {ofs len : Nat} {bytes : List Byte} {s : State}

theorem exec_viewRead_of_unserved (h : barServes s l f = false) : exec (.viewRead l f ofs len) s = .next s := by
  simp [exec, execViewRead, viewReads, h]

theorem exec_viewWrite_of_unserved (h : barServes s l f = false) : exec (.viewWrite l f ofs bytes) s = .next s := by
  simp [exec, execViewWrite, viewArrives, h]

/-- The offsets of a PF's object view and cell window are no region beside them (R515). -/
theorem bar0Region_of_view (hphase : s.boot.phase = 3) (haligned : viewAligned ofs len = true) (hplace : (viewPlace s l 0 ofs).isSome = true) :
    bar0Region l ofs len s = none := by
  have hview : 0x00600000 ≤ ofs := by
    by_contra hlow
    have hcell : cellData ofs = false := by simp [cellData]; omega
    have hnone : viewPlace s l 0 ofs = none := by
      unfold viewPlace
      rw [if_pos rfl, if_neg (by omega), if_neg (by omega), if_neg (by rw [hcell]; exact Bool.noConfusion)]
    rw [hnone] at hplace
    exact Bool.noConfusion hplace
  have hlen : 0 < len := by
    simp only [viewAligned, Bool.or_eq_true, Bool.and_eq_true, beq_iff_eq] at haligned
    omega
  have hrom : ¬ s.boot.phase ≠ 3 := not_not.mpr hphase
  have hodd : (! viewAligned ofs len) = false := by rw [haligned]; rfl
  unfold bar0Region
  dsimp only
  rw [if_neg (by omega), if_neg (by omega), if_neg (by omega), if_neg hrom, if_neg (by omega), if_neg (Bool.eq_false_iff.mp hodd), if_neg (by omega),
    if_neg (by omega), if_neg (by omega), if_neg (by omega), if_neg (by omega)]

/-- A read of the view that no region beside it serves, of an object that its block gives, is completed at once (R572, R575). -/
theorem viewReads_of_block {index sub at_ : Nat} {o : Obj} (h : barServes s l f = true) (hphase : s.boot.phase = 3)
    (haligned : viewAligned ofs len = true) (hplace : viewPlace s l f ofs = some (index, sub, at_)) (hobj : objAt index sub = some o)
    (hblock : o.desc.block = true) (hheld : o.held s = false) : viewReads l f ofs len s = viewServe l f ofs len s := by
  have hregion : (if f = 0 then bar0Region l ofs len s else none) = none := by
    split
    · next hf => exact bar0Region_of_view hphase haligned (by rw [← hf, hplace]; rfl)
    · rfl
  simp [viewReads, h, hregion, hphase, haligned, hplace, hobj, hblock, hheld]

theorem exec_viewRead_of_block {index sub at_ : Nat} {o : Obj} {v : Val} {u : State} (h : barServes s l f = true) (hphase : s.boot.phase = 3)
    (haligned : viewAligned ofs len = true) (hplace : viewPlace s l f ofs = some (index, sub, at_)) (hobj : objAt index sub = some o)
    (hblock : o.desc.block = true) (hheld : o.held s = false) (hcell : ¬ (f = 0 ∧ cellData ofs = true))
    (hread : dictRead (viewWho s l f) index sub s = ((.ok, v), u)) :
    exec (.viewRead l f ofs len) s = .next { u with tx := u.tx ++ [.completion l (some (leBytes len (viewBits o.desc v / 2 ^ (8 * at_))))] } := by
  simp only [exec, execViewRead, viewReads_of_block h hphase haligned hplace hobj hblock hheld, viewServe, hplace, hread, hcell, if_false, hobj, if_true]
  rfl

theorem viewPlace_of_cellData (h : cellData ofs = true) : viewPlace s l 0 ofs = some (0x6120, 3, ofs % 8) := by
  have hin : 0x00600100 ≤ ofs ∧ ofs < 0x00600300 := by simpa [cellData] using h
  unfold viewPlace
  rw [if_pos rfl, if_neg (by omega), if_neg (by omega), if_pos h]

/-- A read of the cell window gives the bytes of the snapshot (R450, R515). -/
theorem exec_viewRead_of_cell {o : Obj} {bs : List Byte} {u : State} (h : barServes s l 0 = true) (hphase : s.boot.phase = 3)
    (haligned : viewAligned ofs len = true) (hcell : cellData ofs = true) (hobj : objAt 0x6120 3 = some o) (hblock : o.desc.block = true)
    (hheld : o.held s = false) (hread : dictRead (viewWho s l 0) 0x6120 3 s = ((.ok, .bytes bs), u)) :
    ∃ t, exec (.viewRead l 0 ofs len) s = .next t ∧ t.tx = u.tx ++ [.completion l (some (slice bs (ofs - 0x00600100) len))] := by
  have hplace := viewPlace_of_cellData (s := s) (l := l) hcell
  have hgot : (slice bs (ofs - 0x00600100) len).length = len := by simp [slice]
  have hopen : ((freeBytes len u).1.drop len) = [] := by simp [freeBytes]
  refine ⟨_, congrArg Host.Outcome.next (viewReads_of_block h hphase haligned hplace hobj hblock hheld), ?_⟩
  simp only [viewServe, hplace, hread, hcell, and_self, if_true, Val.toBytes, hgot, hopen, List.append_nil]
  rfl

/-- BOOTSTAT is read while the ROM runs too (R121). -/
theorem exec_viewRead_of_bootstat (h : barServes s l 0 = true) :
    exec (.viewRead l 0 0x00400004 4) s = .next { s with tx := s.tx ++ [.completion l (some (leBytes 4 (bootstat s.boot).toNat))] } := by
  have hregion : bar0Region l 0x00400004 4 s = some (s.send (.completion l (some (leBytes 4 (bootstat s.boot).toNat)))) := by
    unfold bar0Region
    dsimp only
    rw [if_neg (by decide), if_pos ⟨rfl, rfl⟩]
  simp only [exec, execViewRead, viewReads, h, hregion, Bool.not_true, Bool.false_eq_true, if_false, if_true]
  rfl

/-- A write of an unjournaled object through the view is carried out at once (R572, R575). -/
theorem exec_viewWrite_of_unjournaled {index sub at_ : Nat} {o : Obj} {v : Val} (h : barServes s l f = true) (hphase : s.boot.phase = 3)
    (haligned : viewAligned ofs bytes.length = true) (hplace : viewPlace s l f ofs = some (index, sub, at_)) (hobj : objAt index sub = some o)
    (hun : o.unjournaled = true) (hheld : o.held s = false) (hvalue : viewValue o at_ bytes = (true, v)) :
    exec (.viewWrite l f ofs bytes) s = .next (dictWrite (viewWho s l f) false index sub true v s).2 := by
  have hdirect : direct (viewWho s l f) index sub = true := by simp [direct, viewWho, hobj, hun]
  simp [exec, execViewWrite, viewArrives, h, hphase, haligned, hplace, hobj, hvalue, viewWrite, hheld, hdirect]

/-- A read that waited while firmware does not run is aborted (R572). -/
theorem exec_viewReadTimeout_of_waiting (hruns : firmwareRuns s = false) (hsvc : s.svc = [.viewRead l f ofs len]) :
    exec (.viewReadTimeout l f ofs) s = .next { s with svc := [], tx := s.tx ++ [.completion l none] } := by
  simp [exec, execViewReadTimeout, hsvc, hruns, State.send]

theorem exec_viewReadTimeout_of_none (hsvc : s.svc = []) : exec (.viewReadTimeout l f ofs) s = .next s := by
  simp [exec, execViewReadTimeout, hsvc]

end

/-! ### The mailbox registers -/

theorem State.updMbox_get (s : State) (l : Fin 4) (g : Mailbox → Mailbox) : (s.updMbox l g).acc.mailbox[l] = g s.acc.mailbox[l] :=
  modAt_get _ l g

/-- A mailbox that has its reply (R578). -/
def Mailbox.replied (m : List Byte) (b : Mailbox) : Mailbox :=
  { b with replyBuf := m, busy := false, ready := true, length := BitVec.ofNat 15 m.length }

/-- A reply changes its mailbox, and is told by the device vector at most (R578). -/
theorem mailboxReply_leaves (l : Fin 4) (m : List Byte) (s : State) :
    (mailboxReply l m s).acc = (s.updMbox l (Mailbox.replied m)).acc ∧ (mailboxReply l m s).svc = s.svc := by
  have hreply : mailboxReply l m s = if devLink (s.updMbox l (Mailbox.replied m)) = l then deviceVector 512 (s.updMbox l (Mailbox.replied m))
      else s.updMbox l (Mailbox.replied m) := rfl
  rw [hreply]
  split
  · rw [deviceVector_frame]
    exact ⟨rfl, rfl⟩
  · exact ⟨rfl, rfl⟩

/-- A message that is refused before any session is answered in its mailbox, which is free again (R578, R584). -/
theorem serveLdp_of_unlisted {l : Fin 4} {m : List Byte} {s : State} (hunlisted : listedOps.contains (msgOp m) = false) :
    (serveLdp (.mailbox l) m s).acc.mailbox[l].ready = true ∧ (serveLdp (.mailbox l) m s).acc.mailbox[l].busy = false
      ∧ (serveLdp (.mailbox l) m s).acc.mailbox[l].replyBuf = replyTo m .version [] ∧ (serveLdp (.mailbox l) m s).acc.sessions = s.acc.sessions
      ∧ (serveLdp (.mailbox l) m s).svc = s.svc := by
  generalize hr : (refuseMsg (.mailbox l) (msgSession m) 0 .version s).answer .version [] = r
  have hframe := logVio_frame 0 0 .version (pathOf (.mailbox l) (msgSession m)).initiator s
  have hacc : r.acc = s.acc := by
    rw [← hr]
    exact (congrArg State.acc hframe).trans rfl
  have hsvc : r.svc = s.svc := by
    rw [← hr]
    exact (congrArg State.svc hframe).trans rfl
  have hserve : serveLdp (.mailbox l) m s = (mailboxReply l (replyTo m .version []) r).updMbox l fun b => { b with busy := false } := by
    simp only [serveLdp, serveMsg_of_unlisted hunlisted, hr]
    rfl
  obtain ⟨hreplied, hsvc'⟩ := mailboxReply_leaves l (replyTo m .version []) r
  have hmbox : (serveLdp (.mailbox l) m s).acc.mailbox[l] = { (r.acc.mailbox[l]).replied (replyTo m .version []) with busy := false } := by
    rw [hserve, State.updMbox_get, hreplied, State.updMbox_get]
  rw [hmbox]
  refine ⟨rfl, rfl, rfl, ?_, ?_⟩
  · rw [hserve]
    have hsessions : r.acc.sessions = s.acc.sessions := congrArg Access.sessions hacc
    exact (congrArg Access.sessions hreplied).trans hsessions
  · rw [hserve]
    exact hsvc'.trans hsvc

section
variable {l : Fin 4} {w : Word} {s : State} (h : barServes s l 0 = true) (hphase : s.boot.phase = 3)
include h hphase

theorem exec_mbAck_of_served : exec (.mbAck l) s = .next (s.updMbox l fun b => { b with ready := false, overrun := false }) := by
  simp [exec, execMbAck, mailboxAck, h, hphase]

/-- A doorbell posts the message in REQUEST. -/
theorem exec_mbDoorbell_of_served : exec (.mbDoorbell l w) s
    = .next (postMailbox l (if 16 ≤ w.toNat ∧ w.toNat ≤ 16384 then memRead s.acc.mailbox[l].request 0 w.toNat else []) s) := by
  simp [exec, execMbDoorbell, mailboxRing, h, hphase]

/-- A doorbell while the mailbox is busy is an overrun and posts nothing (R577). -/
theorem exec_mbDoorbell_of_busy (hbusy : s.acc.mailbox[l].busy = true) :
    ∃ t, exec (.mbDoorbell l w) s = .next t ∧ t.acc.mailbox[l].overrun = true ∧ t.acc.mailbox[l].busy = true ∧ t.svc = s.svc
      ∧ t.acc.sessions = s.acc.sessions := by
  have hpost : ∀ m, postMailbox l m s
      = logVio 1 0x00410000 .busy (Path.view l 0).initiator (s.updMbox l fun b => { b with overrun := true }) := by
    intro m
    simp [postMailbox, hbusy, -Fin.getElem_fin]
  refine ⟨_, exec_mbDoorbell_of_served h hphase, ?_⟩
  rw [hpost, logVio_frame]
  refine ⟨?_, ?_, rfl, rfl⟩
  · exact congrArg Mailbox.overrun (State.updMbox_get s l _)
  · exact (congrArg Mailbox.busy (State.updMbox_get s l _)).trans hbusy

variable (hbusy : s.acc.mailbox[l].busy = false) (hready : s.acc.mailbox[l].ready = false) (hleast : 16 ≤ w.toNat) (hmost : w.toNat ≤ 16384)
include hbusy hready hleast hmost

/-- A posted message makes the mailbox busy, and arrives (R577). -/
theorem exec_mbDoorbell_of_idle : exec (.mbDoorbell l w) s
    = .next (arrive (.mailbox l) (memRead s.acc.mailbox[l].request 0 w.toNat) (s.updMbox l fun b => { b with busy := true })) := by
  rw [exec_mbDoorbell_of_served h hphase, if_pos ⟨hleast, hmost⟩]
  simp [postMailbox, hbusy, hready, -Fin.getElem_fin]

/-- While firmware is not free the message waits for it (R571). -/
theorem exec_mbDoorbell_of_waiting (hgood : malformed (memRead s.acc.mailbox[l].request 0 w.toNat) = false) (hfree : fwFree s = false)
    (hroom : s.svc.length < svcMax) :
    exec (.mbDoorbell l w) s = .next { (s.updMbox l fun b => { b with busy := true }) with
      svc := s.svc ++ [.ldp (.mailbox l) (memRead s.acc.mailbox[l].request 0 w.toNat)] } := by
  have hfree' : fwFree (s.updMbox l fun b => { b with busy := true }) = false := hfree
  have hroom' : (s.updMbox l fun b => { b with busy := true }).svc.length < svcMax := hroom
  rw [exec_mbDoorbell_of_idle h hphase hbusy hready hleast hmost]
  simp only [arrive, hgood, hfree', hroom', Bool.false_eq_true, if_false, if_true]
  rfl

/-- An operation that the table does not list is answered in the mailbox with VERSION (R578, R581). -/
theorem exec_mbDoorbell_of_unlisted {m : List Byte} (hm : m = memRead s.acc.mailbox[l].request 0 w.toNat) (hgood : malformed m = false)
    (hfree : fwFree s = true) (hunlisted : listedOps.contains (msgOp m) = false) :
    ∃ t, exec (.mbDoorbell l w) s = .next t ∧ t.acc.mailbox[l].ready = true ∧ t.acc.mailbox[l].busy = false
      ∧ t.acc.mailbox[l].replyBuf = replyTo m .version [] ∧ t.acc.sessions = s.acc.sessions ∧ t.svc = s.svc := by
  have hfree' : fwFree (s.updMbox l fun b => { b with busy := true }) = true := hfree
  refine ⟨_, exec_mbDoorbell_of_idle h hphase hbusy hready hleast hmost, ?_⟩
  rw [← hm]
  simp only [arrive, hgood, hfree', Bool.false_eq_true, if_false, if_true]
  exact serveLdp_of_unlisted hunlisted

end

/-- Settles O58: each access by its lemma above. -/
theorem barsAndView : Obligations.BarsAndView := by
  unfold Obligations.BarsAndView
  refine ⟨fun l f ofs bytes s => ⟨exec_bar4Write_of_served, exec_bar0WindowWrite_of_pstore, exec_bar0WindowWrite_of_window,
    fun h hlog => exec_barUnmappedAccess_of_served h hlog ofs, fun h wr => exec_barUnmappedAccess_of_unserved h ofs wr,
    fun h => ⟨exec_bar4Write_of_unserved h, exec_bar0WindowWrite_of_unserved h⟩⟩, fun l f ofs len bytes s => ?_⟩
  exact ⟨fun index sub at_ o v u => exec_viewRead_of_block,
    fun o bs u h hphase haligned hcell hobj hblock hheld hread _ => exec_viewRead_of_cell h hphase haligned hcell hobj hblock hheld hread,
    exec_viewRead_of_bootstat,
    fun index sub at_ o v => exec_viewWrite_of_unjournaled, fun h => ⟨exec_viewRead_of_unserved h, exec_viewWrite_of_unserved h⟩,
    exec_viewReadTimeout_of_waiting, exec_viewReadTimeout_of_none,
    fun h hphase => ⟨exec_mbAck_of_served h hphase, fun w => exec_mbDoorbell_of_busy h hphase, fun w => exec_mbDoorbell_of_waiting h hphase,
      fun w m hbusy hready hleast hmost => exec_mbDoorbell_of_unlisted h hphase hbusy hready hleast hmost⟩⟩

end Sys2Proof.Machine
end
